-- ==== Sys2Proof/Word.lean ====
section
/-! DEFINITION. The words of the SWN9696 block: 64-bit words, bytes, and the one sparse map every keyed store uses. -/
namespace Sys2Proof

/-- A 64-bit word: a general register, an instruction word, a data word (R268, R5). -/
abbrev Word := BitVec 64
/-- A byte of memory or of a message (R5). -/
abbrev Byte := BitVec 8
/-- The widest table entry is 256 bits (Table 11.7); narrower entries lie at bit 0 (R279). -/
abbrev Entry := BitVec 256
/-- A sparse store by key in canonical form: keys strictly rising, no entry equal to the store's default. -/
abbrev SMap (α : Type) := List (Nat × α)

abbrev PortId := Fin 96
abbrev LaneId := Fin 384
abbrev TileId := Fin 12
abbrev SliceId := Fin 16
abbrev EngineId := Fin 16
abbrev MoverId := Fin 48
abbrev ChannelId := Fin 32
abbrev TimerId := Fin 64
abbrev RefPairId := Fin 6
abbrev RouterId := Fin 48
abbrev RingId := Fin 4096
abbrev QueueId := Fin 4096
abbrev VfId := Fin 2048
/-- A service endpoint function: VF 0-2,047, then PF0 (or the fabric management function) of port p at 2,048 + p. -/
abbrev FuncId := Fin 2144
abbrev CoreId := Fin 8
abbrev Caid := Fin 64
abbrev RegionId := Fin 256
abbrev ExtentId := Fin 16384
abbrev VppbId := Fin 4096
abbrev CounterId := Fin 4096
abbrev TraceId := Fin 4
abbrev MasterId := Fin 153

/-- The two planes of the Graticule. -/
inductive Plane where
  | rq | rs
  deriving DecidableEq, Repr

end Sys2Proof
end

