-- ==== Sys2Proof/Syntax.lean ====
section
/-! DEFINITION. The commands of the block: one constructor of Instr per row of spec/opcode_table.json, with the row's operands. -/
namespace Sys2Proof

/-- The level of a symbol on a lane (R67): the four of PAM4; NRZ uses the outer two. -/
inductive Level where
  | m3 | m1 | p1 | p3
  deriving DecidableEq, Repr

/-- The source of a management message (R444, R446): SMBus, I3C, a PCIe VDM of a port, or Steward's mailbox. -/
inductive MctpSrc where
  | smbus
  | i3c
  | vdm (p : PortId)
  | mailbox
  deriving DecidableEq, Repr

/-- The transport of an SPDM message (Table 18.6). -/
inductive SpdmVia where
  | mctp (src : MctpSrc)
  | doe (p : PortId)
  | mgmt (p : PortId)
  deriving DecidableEq, Repr

/-- The monitor ADC's readings of a slot power channel (Table 13.3): VOUT and the feeds in 0.1 V, V_SENSE in 0.2 mV. -/
structure SlotAdc where
  vout : BitVec 10
  isense : BitVec 10
  feedA : BitVec 10
  feedB : BitVec 10
  deriving DecidableEq, Repr

/-- The message a port received (Tables 8.3, 4.6, 6.4). MetaValue: 0 I, 1 none (MetaField No-Op), 2 A, 3 S. -/
inductive MsgKind where
  | memRd (mv : Fin 4)
  | memWr (mv : Fin 4)
  | memWrPtl
  /-- MemInv or MemInvNT: with MetaValue A, or any other. -/
  | memInv (own : Bool)
  /-- BIRspI, BIRspS, BIRspE, and whether a MemWr for the line preceded it. -/
  | biRsp (st : Fin 3) (wbf : Bool)
  | rdShared
  | rdOwn (noData : Bool)
  | rdCurr
  | dirtyEvict
  /-- ItoMWr, WrCur, WrInv, WOWrInv, WOWrInvF: partial or full line. -/
  | devWr (part : Bool)
  /-- H2D snoop answers: the state kept, and whether dirty data came with it (RspIFwdM, RspSFwdM). -/
  | devRsp (st : Fin 3) (fwdM : Bool)
  | ioRd
  | ioWr
  | ioAtomic
  | ioMsg
  | cfg (wr : Bool)
  | bulkRd
  | bulkWr
  | mgmt
  /-- A command of Table 6.4 that arrived as such over an ISL, with its SUB. -/
  | fabric (cmd : BitVec 8) (sub : BitVec 4)
  | memData
  | memCmp
  /-- A completion: 0 successful, 1 Unsupported Request, 2 Completer Abort. -/
  | ioCpl (st : Fin 3)
  | bulkData
  deriving DecidableEq, Repr

/-- Where PCIe routing takes a CXL.io TLP inside its VCS: function 0 (PF0) or k (VF k) of the service endpoint, a vPPB, the USP, a bridge itself (vPPB b, or 64 the USP vPPB), an HDM or G-FAM range, nowhere. -/
inductive IoTarget where
  | svc (fn : Fin 257)
  | vppb (v : Fin 64)
  | up
  | own (b : Fin 65)
  | hdm
  | nowhere
  deriving DecidableEq, Repr

/-- How far a link has trained (Table 2.5): a state on the way, or up. -/
inductive Training where
  | detectActive
  | pollingActive
  | pollingCompliance
  | pollingConfiguration
  | configuration
  | loopback
  | up
  deriving DecidableEq, Repr

/-- What a lookup finds in the ways of the on-die set that it reads (R239, R240), a bit per way: an uncorrectable error in the identity half, one in the
sharers half, an error corrected. -/
structure DieRead where
  lo : BitVec 16 := 0
  hi : BitVec 16 := 0
  corr : BitVec 16 := 0
  deriving DecidableEq, Repr

/-- What a read of a backing set finds (R239, R240), a bit per way: an uncorrectable error in the identity half, one in the sharers half, an error
corrected; and an uncorrectable HBM error of the whole set. -/
structure BackRead where
  lo : BitVec 8 := 0
  hi : BitVec 8 := 0
  corr : BitVec 8 := 0
  hbm : Bool := false
  deriving DecidableEq, Repr

/-- What a walk finds as it reads a set, on die and in the backing directory. -/
structure SetRead where
  x : BitVec 28
  die : DieRead := {}
  back : BackRead := {}
  deriving DecidableEq, Repr

/-- A message that passed a port's ingress check (R126). Of a CXL.io message `data` is the TLP, from the first byte of its header (log 41). -/
structure Msg where
  kind : MsgKind
  addr : BitVec 64
  len : BitVec 13
  tag : BitVec 16
  spid : BitVec 12
  dpid : BitVec 12
  caid : BitVec 6 := 0
  cd : BitVec 4 := 0
  ld : BitVec 4
  io : IoTarget
  poison : Bool
  devload : BitVec 2
  units : BitVec 6
  nullified : Bool := false
  data : List Byte
  deriving DecidableEq, Repr

/-- A register that a write reaches without a step of its own (R8). -/
inductive RegTarget where
  /-- BAR0 of a function: offset, and whether 8 bytes are written. -/
  | bar0 (f : FuncId) (off : BitVec 20) (wide : Bool)
  /-- Steward's register space (Table 18.11). -/
  | steward (off : BitVec 22) (wide : Bool)
  /-- MSI-X Message Control of a function: the written word's bit 15 enables, bit 14 is the Function Mask. -/
  | msixControl (f : FuncId)
  /-- Four bytes of a function's configuration space. -/
  | config (f : FuncId) (off : BitVec 12)
  /-- NumVFs of a USP's SR-IOV capability. -/
  | numVfs (p : PortId)
  /-- The registers of decoder n of a USP, as the entry of Table 7.1 they describe. -/
  | uspDecoder (p : PortId) (n : Fin 32) (entry : BitVec 256)
  /-- The registers of decoder n of a pooled logical device's vPPB (R182). -/
  | vppbDecoder (v : VppbId) (n : Fin 16) (entry : BitVec 256)
  /-- The BI-ID that the host commits in a USP's BI decoder; bit 16 of the word clear removes it. -/
  | biId (p : PortId)
  deriving DecidableEq, Repr

/-- What an arrival step of Survey found (R299-R301): a step that needs no more than the port's state; a DSP partner's identity, with
PROTO's bits and the granules of each logical device that its DVSEC ranges or allocations state; an SPDM outcome with the digest's first 8 bytes and
whether the IDE streams came up; a CDAT's latency, bandwidth and granules. -/
inductive StepFound where
  | nothing
  | identity (kind : BitVec 4) (nld : BitVec 5) (vendor device : BitVec 16) (cls : BitVec 24) (serial : BitVec 64) (proto : BitVec 6) (grans : List (BitVec 32))
  | auth (ok : Bool) (meas : BitVec 64) (ide : Bool)
  | cdat (lat bw : BitVec 16) (grans : List (BitVec 32))
  deriving DecidableEq, Repr

/-- The commands. Each docstring names the row's rule and says what the operands are. -/
inductive Instr where
  /-- R162. Plane, router, and by input link (bits 0-3 for +X, −X, +Y, −Y): headers with an uncorrectable error, data units with one, and single-bit corrections -/
  | routerCycle (pl : Plane) (r : RouterId) (hdr : BitVec 4) (unit : BitVec 4) (corr : BitVec 4)
  /-- R164. Plane and router -/
  | starve (pl : Plane) (r : RouterId)
  /-- R170. Plane -/
  | epochDrainSum (pl : Plane)
  /-- R173. Endpoint: router × 64 + DEP -/
  | proxyErrIssue (ep : Fin 3072)
  /-- R126. Ingress port and the message -/
  | headerLookup (p : PortId) (m : Msg)
  /-- R128. Ingress port; whether the transaction is a completion; its tag; the unit's data and poison; whether the TLP was nullified -/
  | cutThroughUnit (p : PortId) (cpl : Bool) (tag : BitVec 16) (data : List Byte) (poison : Bool) (bad : Bool)
  /-- R145. Ingress port and message class: 0 MEM, 1 IO non-posted, 2 BULK, 3 MGMT, 4 IO posted, 5 responses, writebacks and snoops -/
  | admission (p : PortId) (cls : Fin 6)
  /-- R148. Destination endpoint -/
  | egressSelect (dst : Fin 3072)
  /-- R210. Egress port -/
  | responseLeaves (p : PortId)
  /-- R135. Destination and source endpoint of the stream, and its ordering class -/
  | relReportTimer (dst src : Fin 3072) (oc : Fin 6)
  /-- R135. The endpoint that the report addresses -/
  | rel (ep : Fin 3072)
  /-- R137. The endpoint that the marker addresses -/
  | skip (ep : Fin 3072)
  /-- R130. The endpoint that the closing packet addresses -/
  | close (ep : Fin 3072)
  /-- R154. Ingress port, egress port and queue class -/
  | loadSevere (p q : PortId) (cls : Fin 4)
  /-- R48. The port, how far training has come, the highest rate that the partner offers (Table 2.3), its lanes as a power of two, the link modes that it offers (bit 0 non-flit, 1 68-byte, 2 256-byte), whether it takes CXL and CXL.cache, and the lanes received inverted. -/
  | linkUp (p : PortId) (stage : Training) (rate : Fin 6) (width : Fin 5) (offers : BitVec 3) (cxl cache : Bool) (inv : BitVec 16)
  /-- R62. The port, and the state its LTSSM enters: 0 Detect, 1 Disabled, 2 Hot Reset. -/
  | portLost (p : PortId) (dest : Fin 3)
  /-- R63. The port -/
  | lossResponseIssue (p : PortId)
  /-- R64. The USP. -/
  | hotResetReceived (p : PortId)
  /-- R52. The port. -/
  | pmeTurnOff (p : PortId)
  /-- R56. The port, whether the MAC is good, and the messages of the epoch. -/
  | macEpochCheck (p : PortId) (ok : Bool) (msgs : List Msg)
  /-- R57. The port at which it arrives. -/
  | viral (p : PortId)
  /-- R205. The port and the line -/
  | biConflict (p : PortId) (addr : BitVec 64) (tag : BitVec 16)
  /-- R204. The port, whether MetaValue is A, and the message -/
  | memInv (p : PortId) (own : Bool) (m : Msg)
  /-- R204. The port, the tag, and whether data came with the evict -/
  | cleanEvict (p : PortId) (tag : BitVec 16) (data : Bool)
  /-- R204. The port and the tag -/
  | d2hUnsupported (p : PortId) (tag : BitVec 16)
  /-- R214. The home slice, and the errors that the lookup finds in its on-die set -/
  | mrd (g : SliceId) (d : DieRead)
  /-- R214. The home slice, and the errors that the lookup finds in its on-die set -/
  | mrdOwn (g : SliceId) (d : DieRead)
  /-- R214. The home slice, and the errors that the lookup finds in its on-die set -/
  | mrdNa (g : SliceId) (d : DieRead)
  /-- R214. The home slice, and the errors that the lookup finds in its on-die set -/
  | mwr (g : SliceId) (d : DieRead)
  /-- R214. The home slice, and the errors that the lookup finds in its on-die set -/
  | mwrPtl (g : SliceId) (d : DieRead)
  /-- R215. The home slice, and the errors that its reads of the on-die set and of the backing set find -/
  | wb (g : SliceId) (d : DieRead) (b : BackRead)
  /-- R215. The home slice, and the errors that the lookup finds in its on-die set -/
  | snpRsp (g : SliceId) (d : DieRead)
  /-- R224. The home slice, and the errors that the lookup finds in its on-die set -/
  | err (g : SliceId) (d : DieRead)
  /-- R210. The home slice, and the errors that the lookup finds in its on-die set -/
  | done (g : SliceId) (d : DieRead)
  /-- R209. The home slice, and the errors that the lookup finds in its on-die set -/
  | conflictListActivate (g : SliceId) (d : DieRead)
  /-- R218. The owner's port -/
  | snpFwd (p : PortId)
  /-- R218. The owner's port, the line, the state kept (0 I, 1 S, 2 E), and the dirty data if the owner had any -/
  | proxySnoopAnswer (p : PortId) (addr : BitVec 64) (kept : Fin 3) (dirty : Option (List Byte))
  /-- R218. The port it came by, the requester's PID and tag, the data -/
  | dataFwd (p : PortId) (pid : BitVec 12) (tag : BitVec 16) (data : List Byte)
  /-- R233. The slice, and the errors that the read finds -/
  | backingReadReturn (g : SliceId) (b : BackRead)
  /-- R237. The slice -/
  | setConflictRelease (g : SliceId)
  /-- R239. The slice, and the errors that the read finds -/
  | patrolRead (g : SliceId) (b : BackRead)
  /-- R222. The slice whose entries the walk visits, and the errors that it finds by set -/
  | lossWalk (g : SliceId) (errs : List SetRead)
  /-- R222. No operand. -/
  | walkDone
  /-- R243. No operand. -/
  | directoryClearDone
  /-- R126. The endpoint whose count reached zero -/
  | drainPointReached (ep : Fin 3072)
  /-- R191. The mover that is free -/
  | scrubStart (m : MoverId)
  /-- R191. The mover -/
  | zeroComplete (m : MoverId)
  /-- R193. The extent -/
  | offerExpired (x : ExtentId)
  /-- R193. The extent -/
  | releaseOverdue (x : ExtentId)
  /-- R302. The port -/
  | deferredRegistration (p : PortId)
  /-- R180. The decoder: USP × 32 + n, or 3,072 + vPPB × 16 + n -/
  | decoderCommit (d : Fin 68608)
  /-- R180. The decoder, as in DECODER_COMMIT -/
  | decoderUncommit (d : Fin 68608)
  /-- R187. The vPPB whose pooled logical device's mailbox it is -/
  | identifyMemoryDevice (v : VppbId)
  /-- R187. The vPPB -/
  | getDynamicCapacityConfiguration (v : VppbId)
  /-- R187. The vPPB, how many extents are asked for and the first -/
  | getDynamicCapacityExtentList (v : VppbId) (count start : BitVec 32)
  /-- R193. The vPPB, and the extents accepted as first granule and granules; none: the oldest offer is declined -/
  | addDynamicCapacityResponse (v : VppbId) (exts : List (BitVec 28 × BitVec 28))
  /-- R193. The vPPB, and the extents released as first granule and granules -/
  | releaseDynamicCapacity (v : VppbId) (exts : List (BitVec 28 × BitVec 28))
  /-- R187. The vPPB and the opcode -/
  | mailboxUnsupported (v : VppbId) (op : BitVec 16)
  /-- R60. The source and the message tag -/
  | identify (src : MctpSrc) (tag : BitVec 8)
  /-- R60. The source and the tag -/
  | backgroundOperationStatus (src : MctpSrc) (tag : BitVec 8)
  /-- R60. The source and the tag -/
  | getResponseMessageLimit (src : MctpSrc) (tag : BitVec 8)
  /-- R60. The source, the tag, and the limit as a power of two -/
  | setResponseMessageLimit (src : MctpSrc) (tag : BitVec 8) (n : BitVec 8)
  /-- R389. The source and the tag -/
  | getEventRecords (src : MctpSrc) (tag : BitVec 8)
  /-- R389. The source, the tag, and the handles named -/
  | clearEventRecords (src : MctpSrc) (tag : BitVec 8) (handles : List (BitVec 16))
  /-- R60. The source and the tag -/
  | identifySwitchDevice (src : MctpSrc) (tag : BitVec 8)
  /-- R60. The source, the tag, and the ports asked for -/
  | getPhysicalPortState (src : MctpSrc) (tag : BitVec 8) (ports : List (BitVec 8))
  /-- R60. The source, the tag, and the port -/
  | assertPerst (src : MctpSrc) (tag : BitVec 8) (p : BitVec 8)
  /-- R321. The source, the tag, and the port -/
  | deassertPerst (src : MctpSrc) (tag : BitVec 8) (p : BitVec 8)
  /-- R60. The source, the tag, the port, whether it is a write, the register, and the data written -/
  | sendPpbCxlIoConfigurationRequest (src : MctpSrc) (tag : BitVec 8) (p : BitVec 8) (write : Bool) (reg : BitVec 12) (data : BitVec 32)
  /-- R60. The source, the tag, and the VCSs asked for -/
  | getVirtualCxlSwitchInfo (src : MctpSrc) (tag : BitVec 8) (vcss : List (BitVec 8))
  /-- R196. The source, the tag, and the fields of BIND.VPPB's block -/
  | fmBindVppb (src : MctpSrc) (tag : BitVec 8) (vcs vppb : Fin 64) (btype : BitVec 4) (p : BitVec 7) (ld : BitVec 4) (pld : BitVec 8)
  /-- R196. The source, the tag, and the vPPB -/
  | fmUnbindVppb (src : MctpSrc) (tag : BitVec 8) (vcs vppb : Fin 64)
  /-- R60. The source, the tag, the vPPB, the error and the TLP header logged -/
  | generateAerEvent (src : MctpSrc) (tag : BitVec 8) (vcs vppb : Fin 64) (error : BitVec 32) (header : List Byte)
  /-- R60. The source, the tag, the port, the command tunnelled, and the MLD's answer to it -/
  | tunnelManagementCommand (src : MctpSrc) (tag : BitVec 8) (p : BitVec 8) (body answer : List Byte)
  /-- R60. The source, the tag, the port, the logical device, whether it is a write, the register, the data written, and what the device answers -/
  | sendLdCxlIoConfigurationRequest (src : MctpSrc) (tag : BitVec 8) (p : BitVec 8) (ld : BitVec 16) (write : Bool) (reg : BitVec 12) (data answer : BitVec 32)
  /-- R60. The source, the tag, the port, the logical device, whether it is a write, the address, the data written, and the data the device answers -/
  | sendLdCxlIoMemoryRequest (src : MctpSrc) (tag : BitVec 8) (p : BitVec 8) (ld : BitVec 16) (write : Bool) (addr : BitVec 64) (data answer : List Byte)
  /-- R60. The source, the tag, the port, the command's body, and the MLD's answer -/
  | getLdInfo (src : MctpSrc) (tag : BitVec 8) (p : BitVec 8) (body answer : List Byte)
  /-- R60. The source, the tag, the port, the command's body, and the MLD's answer -/
  | getLdAllocations (src : MctpSrc) (tag : BitVec 8) (p : BitVec 8) (body answer : List Byte)
  /-- R60. The source, the tag, the port, the command's body, and the MLD's answer -/
  | setLdAllocations (src : MctpSrc) (tag : BitVec 8) (p : BitVec 8) (body answer : List Byte)
  /-- R60. The source, the tag, the port, the command's body, and the MLD's answer -/
  | getQosControl (src : MctpSrc) (tag : BitVec 8) (p : BitVec 8) (body answer : List Byte)
  /-- R60. The source, the tag, the port, the command's body, and the MLD's answer -/
  | setQosControl (src : MctpSrc) (tag : BitVec 8) (p : BitVec 8) (body answer : List Byte)
  /-- R60. The source, the tag, the port, the command's body, and the MLD's answer -/
  | getQosStatus (src : MctpSrc) (tag : BitVec 8) (p : BitVec 8) (body answer : List Byte)
  /-- R60. The source, the tag, the port, the command's body, and the MLD's answer -/
  | getQosAllocatedBw (src : MctpSrc) (tag : BitVec 8) (p : BitVec 8) (body answer : List Byte)
  /-- R60. The source, the tag, the port, the command's body, and the MLD's answer -/
  | setQosAllocatedBw (src : MctpSrc) (tag : BitVec 8) (p : BitVec 8) (body answer : List Byte)
  /-- R60. The source, the tag, the port, the command's body, and the MLD's answer -/
  | getQosBwLimit (src : MctpSrc) (tag : BitVec 8) (p : BitVec 8) (body answer : List Byte)
  /-- R60. The source, the tag, the port, the command's body, and the MLD's answer -/
  | setQosBwLimit (src : MctpSrc) (tag : BitVec 8) (p : BitVec 8) (body answer : List Byte)
  /-- R60. The source and the tag -/
  | getDcdInfo (src : MctpSrc) (tag : BitVec 8)
  /-- R60. The source, the tag, and the pooled logical device -/
  | getHostDcRegionConfiguration (src : MctpSrc) (tag : BitVec 8) (pld : BitVec 8)
  /-- R196. The source, the tag, and the fields of BIND.PLD's block -/
  | setDcRegionConfiguration (src : MctpSrc) (tag : BitVec 8) (pld : BitVec 8) (en : Bool) (maxg : BitVec 28)
  /-- R60. The source, the tag, the pooled logical device, how many extents, and the first -/
  | getDcRegionExtentLists (src : MctpSrc) (tag : BitVec 8) (pld : BitVec 8) (count start : BitVec 32)
  /-- R196. The source, the tag, and the fields of BIND.ADD's block -/
  | initiateDynamicCapacityAdd (src : MctpSrc) (tag : BitVec 8) (pld : BitVec 8) (p : BitVec 7) (ld : BitVec 4) (shared auto : Bool) (lgran ngran mgran : BitVec 28)
  /-- R196. The source, the tag, the extent, and FORCE -/
  | initiateDynamicCapacityRelease (src : MctpSrc) (tag : BitVec 8) (x : ExtentId) (force : Bool)
  /-- R60. The source, the tag, and the opcode of a command that Table 2.8 does not name -/
  | fmUnsupportedCommand (src : MctpSrc) (tag : BitVec 8) (code : BitVec 16)
  /-- R75. The reference pair. -/
  | refLost (pair : RefPairId)
  /-- R75. The reference pair. -/
  | refReturn (pair : RefPairId)
  /-- R100. The port; every lane's CDR locks; by lane of the port whether its polarity is inverted, and whether the port's lanes are reversed (R43) -/
  | cdrLockAll (p : PortId) (inv : BitVec 16) (rev : Bool)
  /-- R100. The port, and by lane of the port whose lock was lost -/
  | cdrLockLost (p : PortId) (lanes : BitVec 16)
  /-- R100. The port, and the 512 symbols of one codeword position on each of its lanes -/
  | markerRunSeen (p : PortId) (lanes : List (List Level))
  /-- R81. The port, and by lane the 64-symbol word at its stored boundary -/
  | markerCheck (p : PortId) (words : List (List Level))
  /-- R100. The port -/
  | wakeHoldEnd (p : PortId)
  /-- R100. The port -/
  | alignRerun (p : PortId)
  /-- R100. The port -/
  | alignResult (p : PortId)
  /-- R101. The port -/
  | paramResend (p : PortId)
  /-- R100. The port -/
  | paramTimeout (p : PortId)
  /-- R102. The port, and the 512 symbols of the codeword position that completes the folio on each of its lanes, none where the last one completed it -/
  | paramFolio (p : PortId) (lanes : List (List Level))
  /-- R110. As PARAM_FOLIO -/
  | dataFolio (p : PortId) (lanes : List (List Level))
  /-- R94. As PARAM_FOLIO -/
  | nullFolio (p : PortId) (lanes : List (List Level))
  /-- R113. As PARAM_FOLIO -/
  | nakFolio (p : PortId) (lanes : List (List Level))
  /-- R114. As PARAM_FOLIO -/
  | rplyFolio (p : PortId) (lanes : List (List Level))
  /-- R121. As PARAM_FOLIO -/
  | idleFolio (p : PortId) (lanes : List (List Level))
  /-- R105. The port -/
  | nakResend (p : PortId)
  /-- R113. The port -/
  | ackTimeout (p : PortId)
  /-- R108. The port, and whether every lane's pre-FEC byte error ratio of the last 1 s is at most 2 × 10⁻⁶ -/
  | leanQualified (p : PortId) (ber : Bool)
  /-- R120. The port -/
  | creditPeriod (p : PortId)
  /-- R121. The port -/
  | idleEntry (p : PortId)
  /-- R121. The port -/
  | idleExitRequest (p : PortId)
  /-- R77. The port -/
  | burstReceived (p : PortId)
  /-- R121. The port -/
  | idleExitFailure (p : PortId)
  /-- R123. The port -/
  | reopenDeadline (p : PortId)
  /-- R124. The port -/
  | timeMarkSend (p : PortId)
  /-- R124. The port -/
  | timeMark (p : PortId)
  /-- R124. The port -/
  | timeEcho (p : PortId)
  /-- R469. No operand. -/
  | tsSyncEdge
  /-- R469. No operand. -/
  | tsSyncLoss
  /-- R491. No operand. -/
  | tsPps
  /-- R249. The engine that chooses and fetches, and the message by which Meridian delivers a ring-8 chart, if one waits -/
  | chartFetch (e : EngineId) (mer : Option (List Word))
  /-- R276. The engine whose read is answered, the outcome (0 data, 1 Unsupported Request or no decoder match, 2 poison), and the words -/
  | hostReadResponse (e : EngineId) (outcome : Fin 3) (data : List Word)
  /-- R252. The engine -/
  | chartTimeout (e : EngineId)
  /-- R252. The engine whose instruction it is -/
  | endChart (e : EngineId)
  /-- R270. The engine whose instruction it is -/
  | bCc (e : EngineId)
  /-- R274. The engine whose instruction it is -/
  | wait (e : EngineId)
  /-- R274. The engine -/
  | waitExpiry (e : EngineId)
  /-- R274. The engine whose instruction it is -/
  | time (e : EngineId)
  /-- R274. The engine whose instruction it is -/
  | rdcs (e : EngineId)
  /-- R274. The engine whose instruction it is -/
  | fail (e : EngineId)
  /-- R271. The engine whose instruction it is -/
  | add (e : EngineId)
  /-- R271. The engine whose instruction it is -/
  | sub (e : EngineId)
  /-- R274. The engine whose instruction it is -/
  | and (e : EngineId)
  /-- R274. The engine whose instruction it is -/
  | or (e : EngineId)
  /-- R274. The engine whose instruction it is -/
  | xor (e : EngineId)
  /-- R274. The engine whose instruction it is -/
  | shl (e : EngineId)
  /-- R274. The engine whose instruction it is -/
  | shr (e : EngineId)
  /-- R274. The engine whose instruction it is -/
  | sar (e : EngineId)
  /-- R271. The engine whose instruction it is -/
  | cmp (e : EngineId)
  /-- R271. The engine whose instruction it is -/
  | tst (e : EngineId)
  /-- R274. The engine whose instruction it is -/
  | mul (e : EngineId)
  /-- R274. The engine whose instruction it is -/
  | ext (e : EngineId)
  /-- R274. The engine whose instruction it is -/
  | ins (e : EngineId)
  /-- R274. The engine whose instruction it is -/
  | li (e : EngineId)
  /-- R274. The engine whose instruction it is -/
  | lih (e : EngineId)
  /-- R275. The engine whose instruction it is, and whether the chart memory read shows an uncorrectable error -/
  | ld (e : EngineId) (ue : Bool)
  /-- R275. The engine whose instruction it is -/
  | st (e : EngineId)
  /-- R276. The engine whose instruction it is -/
  | hld (e : EngineId)
  /-- R276. The engine whose instruction it is -/
  | hst (e : EngineId)
  /-- R276. The engine whose instruction it is -/
  | hget (e : EngineId)
  /-- R276. The engine whose instruction it is, and whether the chart memory read shows an uncorrectable error -/
  | hput (e : EngineId) (ue : Bool)
  /-- R281. The engine whose instruction it is -/
  | trd (e : EngineId)
  /-- R280. The engine whose instruction it is -/
  | twr (e : EngineId)
  /-- R280. The engine whose instruction it is -/
  | tclr (e : EngineId)
  /-- R256. The engine whose instruction it is -/
  | commit (e : EngineId)
  /-- R256. No operand. -/
  | commitJudgement
  /-- R256. No operand. -/
  | commitFlip
  /-- R255. The engine whose instruction it is -/
  | abort (e : EngineId)
  /-- R277. The engine whose instruction it is -/
  | epoch (e : EngineId)
  /-- R282. The engine whose instruction it is -/
  | drain (e : EngineId)
  /-- R282. The engine -/
  | drainTimeout (e : EngineId)
  /-- R264. The engine whose instruction it is -/
  | claim (e : EngineId)
  /-- R264. The engine whose instruction it is -/
  | unclaim (e : EngineId)
  /-- R277. The engine whose instruction it is -/
  | qclaim (e : EngineId)
  /-- R442. The engine whose instruction it is -/
  | merStewardHold (e : EngineId)
  /-- R442. The engine whose instruction it is -/
  | merStewardRelease (e : EngineId)
  /-- R442. The engine whose instruction it is -/
  | merStewardReset (e : EngineId)
  /-- R442. The engine whose instruction it is -/
  | merLegend (e : EngineId)
  /-- R452. The engine whose instruction it is -/
  | merResetChip (e : EngineId)
  /-- R462. The engine whose instruction it is -/
  | merResetTile (e : EngineId)
  /-- R453. The engine whose instruction it is -/
  | merResetPort (e : EngineId)
  /-- R288. The engine whose instruction it is -/
  | portConfig (e : EngineId)
  /-- R288. The engine whose instruction it is -/
  | portRetrain (e : EngineId)
  /-- R288. The engine whose instruction it is -/
  | portStatus (e : EngineId)
  /-- R288. The engine whose instruction it is -/
  | laneSet (e : EngineId)
  /-- R79. The engine whose instruction it is, and the 128 symbols that the lane receives, the first at boundary 0 -/
  | laneSlip (e : EngineId) (rx : List Level)
  /-- R80. The engine whose instruction it is, and for each lane of the port the 128 symbols that it receives, the first at boundary 0 -/
  | laneAlign (e : EngineId) (rx : List (List Level))
  /-- R89. The engine whose instruction it is, and the errors found at each point, in phase-major order -/
  | laneEye (e : EngineId) (errs : List Nat)
  /-- R288. The engine whose instruction it is -/
  | laneStat (e : EngineId)
  /-- R288. The engine whose instruction it is -/
  | islRetrain (e : EngineId)
  /-- R283. The engine whose instruction it is -/
  | islChip (e : EngineId)
  /-- R183. The engine whose instruction it is -/
  | bindVcs (e : EngineId)
  /-- R185. The engine whose instruction it is -/
  | bindVppb (e : EngineId)
  /-- R185. The engine whose instruction it is -/
  | bindUnvppb (e : EngineId)
  /-- R187. The engine whose instruction it is -/
  | bindPld (e : EngineId)
  /-- R194. The engine whose instruction it is -/
  | bindAdd (e : EngineId)
  /-- R193. The engine whose instruction it is -/
  | bindRelease (e : EngineId)
  /-- R189. The engine whose instruction it is -/
  | bindGfam (e : EngineId)
  /-- R190. The engine whose instruction it is -/
  | bindPid (e : EngineId)
  /-- R226. The engine whose instruction it is -/
  | cohDomain (e : EngineId)
  /-- R202. The engine whose instruction it is -/
  | cohAgentAdd (e : EngineId)
  /-- R292. The engine whose instruction it is -/
  | cohAgentRemove (e : EngineId)
  /-- R199. The engine whose instruction it is -/
  | cohRegionShare (e : EngineId)
  /-- R225. The engine whose instruction it is -/
  | cohRegionRelease (e : EngineId)
  /-- R289. The engine whose instruction it is -/
  | cohLookup (e : EngineId)
  /-- R149. The engine whose instruction it is -/
  | qosPort (e : EngineId)
  /-- R150. The engine whose instruction it is -/
  | qosFlow (e : EngineId)
  /-- R362. The engine whose instruction it is -/
  | fenceSet (e : EngineId)
  /-- R362. The engine whose instruction it is -/
  | fenceClear (e : EngineId)
  /-- R315. The engine whose instruction it is -/
  | slotConfig (e : EngineId)
  /-- R315. The engine whose instruction it is -/
  | slotMap (e : EngineId)
  /-- R329. The engine whose instruction it is, and the monitor ADC's last readings of the channel it names -/
  | slotOn (e : EngineId) (adc : SlotAdc)
  /-- R329. The engine whose instruction it is -/
  | slotOnTimeout (e : EngineId)
  /-- R329. The engine whose instruction it is -/
  | slotOff (e : EngineId)
  /-- R329. The engine whose instruction it is, and the monitor ADC's last readings of the channel it names -/
  | slotStatus (e : EngineId) (adc : SlotAdc)
  /-- R296. The engine whose instruction it is -/
  | surveyRun (e : EngineId)
  /-- R306. The engine whose instruction it is -/
  | surveyDetach (e : EngineId)
  /-- R304. The engine whose instruction it is -/
  | surveyRecord (e : EngineId)
  /-- R383. The engine whose instruction it is -/
  | evtRoute (e : EngineId)
  /-- R392. The engine whose instruction it is -/
  | evtMetric (e : EngineId)
  /-- R379. The engine whose instruction it is -/
  | evtPost (e : EngineId)
  /-- R401. The engine whose instruction it is -/
  | evtTimer (e : EngineId)
  /-- R407. The engine whose instruction it is -/
  | perfArm (e : EngineId)
  /-- R411. The engine whose instruction it is -/
  | perfDump (e : EngineId)
  /-- R291. The engine whose instruction it is -/
  | perfGrant (e : EngineId)
  /-- R409. The engine whose instruction it is -/
  | perfRead (e : EngineId)
  /-- R417. The engine whose instruction it is -/
  | perfTrace (e : EngineId)
  /-- R333. The engine whose instruction it is -/
  | vfEnable (e : EngineId)
  /-- R351. The engine whose instruction it is -/
  | vfFrost (e : EngineId)
  /-- R353. The engine whose instruction it is -/
  | vfSave (e : EngineId)
  /-- R356. The engine whose instruction it is -/
  | vfRestore (e : EngineId)
  /-- R357. The engine whose instruction it is -/
  | vfThaw (e : EngineId)
  /-- R358. The engine whose instruction it is -/
  | vfReset (e : EngineId)
  /-- R347. The engine whose instruction it is -/
  | moverRun (e : EngineId)
  /-- R350. The engine whose instruction it is -/
  | moverPost (e : EngineId)
  /-- R350. The engine whose instruction it is -/
  | moverWait (e : EngineId)
  /-- R348. The mover -/
  | moverTake (m : MoverId)
  /-- R367. The mover -/
  | moverLineIssue (m : MoverId)
  /-- R349. The descriptor's slot -/
  | descriptorComplete (slot : Fin 1024)
  /-- R41. The engine whose instruction it is -/
  | tileProfile (e : EngineId)
  /-- R462. The engine whose instruction it is -/
  | tileFrost (e : EngineId)
  /-- R462. The tile -/
  | frostDrainComplete (t : TileId)
  /-- R462. The tile -/
  | frostBoundExpiry (t : TileId)
  /-- R463. The engine whose instruction it is -/
  | tileThaw (e : EngineId)
  /-- R464. The engine whose instruction it is -/
  | tilePowerDown (e : EngineId)
  /-- R464. The engine whose instruction it is -/
  | tilePowerUp (e : EngineId)
  /-- R464. The tile -/
  | powerUpComplete (t : TileId)
  /-- R464. The engine whose instruction it is -/
  | tileReset (e : EngineId)
  /-- R262. No operand. -/
  | enginePause
  /-- R262. No operand. -/
  | engineResume
  /-- R339. The function whose doorbell it is (none: Steward), the ring of the function, the value -/
  | cmdTail (f : Option FuncId) (j : Fin 8) (v : BitVec 16)
  /-- R247. The function whose doorbell it is (none: Steward), the ring of the function, the value -/
  | cplHead (f : Option FuncId) (j : Fin 8) (v : BitVec 16)
  /-- R386. The queue and the head written -/
  | eqHead (q : QueueId) (v : BitVec 16)
  /-- R340. The function whose slot it is (none: Steward), the ring of the function -/
  | ringEnable (f : Option FuncId) (j : Fin 8)
  /-- R340. The function whose slot it is (none: Steward), the ring of the function -/
  | ringDisable (f : Option FuncId) (j : Fin 8)
  /-- R336. The USP -/
  | vfEnableSet (p : PortId)
  /-- R336. The USP -/
  | vfEnableClear (p : PortId)
  /-- R358. The VF -/
  | vfFlr (v : VfId)
  /-- R359. The USP -/
  | pf0Flr (p : PortId)
  /-- R385. The queue -/
  | eqEnable (q : QueueId)
  /-- R385. The queue -/
  | eqDisable (q : QueueId)
  /-- R385. The queue -/
  | ovfClear (q : QueueId)
  /-- R388. The queue -/
  | faultClear (q : QueueId)
  /-- R344. The function and the vector -/
  | msixUnmask (f : FuncId) (vec : Fin 8)
  /-- R343. The function, the offset in BAR0, whether it is a read -/
  | mmioBad (f : FuncId) (off : BitVec 20) (read : Bool)
  /-- R8. The register and the value written -/
  | registerWrite (t : RegTarget) (v : BitVec 64)
  /-- R440. The core, the address, the bytes stored (none: a load), the bytes a load takes, and what an aperture's target answers a load with -/
  | stewardCoreAccess (c : CoreId) (addr : BitVec 64) (store : Option (List Byte)) (len : Fin 65) (answer : List Byte)
  /-- R386. The queue -/
  | eventRecordWrite (q : QueueId)
  /-- R382. The ESID, SUBJ and target queue of the window -/
  | rateWindowEnd (esid : Fin 1536) (subj : BitVec 16) (q : QueueId)
  /-- R387. The queue -/
  | interruptModerationTimeout (q : QueueId)
  /-- R396. The slot of the open record -/
  | almanacPeriodicWrite (slot : Fin 20480)
  /-- R393. The gauge, its subject, and the sensor's reading for TJ_MAX -/
  | gaugeSample (g : Fin 6) (subj : Fin 96) (reading : BitVec 16)
  /-- R402. The timer -/
  | timerExpired (t : TimerId)
  /-- R402. The timer -/
  | timerPulseEnd (t : TimerId)
  /-- R408. No operand. -/
  | counterTick
  /-- R406. The port, and 0 for RX_BW or 1 for TX_BW -/
  | bwWindowEnd (p : PortId) (n : Fin 2)
  /-- R412. No operand. -/
  | dumpBlockComplete
  /-- R418. The trace buffer -/
  | traceRecordWrite (t : TraceId)
  /-- R492. No operand. -/
  | ledFrame
  /-- R297. The port at which presence qualifies -/
  | presence (p : PortId)
  /-- R309. The port at which presence qualifies absent -/
  | presenceAbsent (p : PortId)
  /-- R294. The port -/
  | surveyStart (p : PortId)
  /-- R298. The port whose run's step completes, and what the step found -/
  | surveyStepComplete (p : PortId) (r : StepFound)
  /-- R298. The port -/
  | surveyPerstRelease (p : PortId)
  /-- R298. The port -/
  | surveyStepTimeout (p : PortId)
  /-- R307. The port whose channel's button is pressed -/
  | attention (p : PortId)
  /-- R307. The port -/
  | attentionDetachStart (p : PortId)
  /-- R306. The port -/
  | detachTimeout (p : PortId)
  /-- R309. The port -/
  | partnerLost (p : PortId)
  /-- R326. The channel, the feed (0 A, 1 B), its voltage in 0.1 V, and whether it exceeds V(SENSE_P) by at least 50 mV -/
  | feedValid (c : ChannelId) (feed : Fin 2) (dv : BitVec 10) (above : Bool)
  /-- R326. The channel, the feed and its voltage in 0.1 V -/
  | feedInvalid (c : ChannelId) (feed : Fin 2) (dv : BitVec 10)
  /-- R326. The channel and the feed whose switch is in reverse -/
  | reverse (c : ChannelId) (feed : Fin 2)
  /-- R318. The channel and the largest V_DS in mV over the switches driven on -/
  | rampDone (c : ChannelId) (vds : Nat)
  /-- R323. The channel, the monitor ADC's readings at the sample, and the largest V_DS in mV over the switches driven on -/
  | slotPg (c : ChannelId) (adc : SlotAdc) (vds : Nat)
  /-- R324. The channel and VOUT in 0.1 V -/
  | voutLow (c : ChannelId) (dv : BitVec 10)
  /-- R320. The channel -/
  | limitTimerExpiry (c : ChannelId)
  /-- R320. The channel -/
  | limitCountReset (c : ChannelId)
  /-- R322. The channel and V_SENSE in 0.2 mV -/
  | severeOvercurrent (c : ChannelId) (isense : BitVec 10)
  /-- R318. The channel -/
  | enLowOff (c : ChannelId)
  /-- R325. The channel -/
  | enLowLatchClear (c : ChannelId)
  /-- R318. The channel -/
  | enHigh (c : ChannelId)
  /-- R328. The channel -/
  | handoverConfirmed (c : ChannelId)
  /-- R328. The channel -/
  | handback (c : ChannelId)
  /-- R316. The channel -/
  | slotSettingsApply (c : ChannelId)
  /-- R23. No operand. -/
  | vddPcdUndervoltage
  /-- R482. No operand. -/
  | thermtrip
  /-- R451. No operand. -/
  | vddAoPowerOn
  /-- R425. No operand. -/
  | maskRomCheck
  /-- R449. No operand. -/
  | coldReset
  /-- R458. No operand. -/
  | pwrOkRise
  /-- R456. The median level of each strap pin, STRAP_A in bits [2:0] (R455, R456) -/
  | strapLatch (levels : BitVec 24)
  /-- R458. No operand. -/
  | hbmTrained
  /-- R426. No operand. -/
  | stewardImageVerified
  /-- R458. No operand. -/
  | settingsApplied
  /-- R459. No operand. -/
  | fabricReady
  /-- R459. No operand. -/
  | holdBootTimeout
  /-- R452. No operand. -/
  | warmReset
  /-- R449. No operand. -/
  | warmResetEnd
  /-- R454. No operand. -/
  | meridianWatchdog
  /-- R453. The port -/
  | portResetEnd (p : PortId)
  /-- R435. No operand: the oldest report on its way -/
  | measurementReport
  /-- R443. No operand. -/
  | ready
  /-- R443. No operand. -/
  | handoverTimeout
  /-- R429. No operand. -/
  | fwStagingTimeout
  /-- R433. The session -/
  | spdmHeartbeatTimeout (sess : BitVec 16)
  /-- R444. The binding and the EID set -/
  | setEndpointId (src : MctpSrc) (eid : BitVec 8)
  /-- R444. The binding -/
  | getEndpointId (src : MctpSrc)
  /-- R444. The binding -/
  | getEndpointUuid (src : MctpSrc)
  /-- R444. The binding -/
  | getMctpVersionSupport (src : MctpSrc)
  /-- R444. The binding -/
  | getMessageTypeSupport (src : MctpSrc)
  /-- R444. The binding -/
  | getVendorDefinedMessageSupport (src : MctpSrc)
  /-- R445. The binding, the message type and its length -/
  | mctpDiscard (src : MctpSrc) (typ : BitVec 8) (len : Nat)
  /-- R248. The binding, the TAG, the 64-byte command entry as 8 words, then the instructions and data words -/
  | chart (src : MctpSrc) (tag : BitVec 16) (entry : List Word) (words : List Word)
  /-- R304. The binding, the TAG and the port -/
  | partner (src : MctpSrc) (tag : BitVec 16) (p : BitVec 8)
  /-- R397. The binding, the TAG and the slot -/
  | almanac (src : MctpSrc) (tag : BitVec 16) (slot : BitVec 32)
  /-- R266. The binding and the TAG -/
  | legend (src : MctpSrc) (tag : BitVec 16)
  /-- R445. The binding and the TAG -/
  | admitRead (src : MctpSrc) (tag : BitVec 16)
  /-- R445. The binding, the TAG and the mask -/
  | admitWrite (src : MctpSrc) (tag : BitVec 16) (mask : BitVec 96)
  /-- R429. The binding, the TAG and the 256-byte Cartouche -/
  | fwBegin (src : MctpSrc) (tag : BitVec 16) (cart : List Byte)
  /-- R429. The binding, the TAG, the offset and 1-4,096 bytes -/
  | fwData (src : MctpSrc) (tag : BitVec 16) (off : BitVec 32) (data : List Byte)
  /-- R429. The binding and the TAG -/
  | fwEnd (src : MctpSrc) (tag : BitVec 16)
  /-- R443. The binding, the TAG and HANDOVER_MS -/
  | fwActivateLive (src : MctpSrc) (tag : BitVec 16) (ms : BitVec 16)
  /-- R429. The binding and the TAG -/
  | fwActivatePreferred (src : MctpSrc) (tag : BitVec 16)
  /-- R436. The binding and the TAG -/
  | challenge (src : MctpSrc) (tag : BitVec 16)
  /-- R438. The binding, the TAG and the token of Table 18.8 -/
  | transfer (src : MctpSrc) (tag : BitVec 16) (tok : List Byte)
  /-- R438. The binding, the TAG and the token of Table 18.8 -/
  | release (src : MctpSrc) (tag : BitVec 16) (tok : List Byte)
  /-- R437. The binding, the TAG and the token of Table 18.8 -/
  | keySet (src : MctpSrc) (tag : BitVec 16) (tok : List Byte)
  /-- R437. The binding, the TAG and the token of Table 18.8 -/
  | anchorSet (src : MctpSrc) (tag : BitVec 16) (tok : List Byte)
  /-- R370. The binding, the TAG and the token of Table 18.8 -/
  | policy (src : MctpSrc) (tag : BitVec 16) (tok : List Byte)
  /-- R369. The binding, the TAG and the token of Table 18.8 -/
  | lockSet (src : MctpSrc) (tag : BitVec 16) (tok : List Byte)
  /-- R428. The binding, the TAG and the token of Table 18.8 -/
  | svnRaise (src : MctpSrc) (tag : BitVec 16) (tok : List Byte)
  /-- R439. The binding, the TAG and the token of Table 18.8 -/
  | fieldLock (src : MctpSrc) (tag : BitVec 16) (tok : List Byte)
  /-- R446. The binding, the TAG and the opaque bytes, 1-8,192 -/
  | steward (src : MctpSrc) (tag : BitVec 16) (body : List Byte)
  /-- R432. The transport -/
  | getVersion (via : SpdmVia)
  /-- R432. The transport -/
  | getCapabilities (via : SpdmVia)
  /-- R432. The transport -/
  | negotiateAlgorithms (via : SpdmVia)
  /-- R431. The transport -/
  | getDigests (via : SpdmVia)
  /-- R431. The transport and the certificate slot -/
  | getCertificate (via : SpdmVia) (slot : Fin 8)
  /-- R432. The transport and the requester's nonce -/
  | spdmChallenge (via : SpdmVia) (nonce : List Byte)
  /-- R434. The transport and the measurement index: 0 the count, 1-7 one block, 0xFF all -/
  | getMeasurements (via : SpdmVia) (idx : BitVec 8)
  /-- R432. The transport, the peer's serial, and over MGMT_MSG the digest of the peer's root certificate -/
  | keyExchange (via : SpdmVia) (peer : Word) (root : List Byte)
  /-- R433. The session -/
  | heartbeat (sess : BitVec 16)
  /-- R432. The session -/
  | keyUpdate (sess : BitVec 16)
  /-- R433. The session -/
  | endSession (sess : BitVec 16)
  /-- R371. No operand. -/
  | bypass
  /-- R371. No operand. -/
  | idcode
  /-- R371. The pins' values captured, and the value preloaded -/
  | samplePreload (pins preload : Word)
  /-- R371. The boundary scan register's new content -/
  | extest (v : Word)
  /-- R372. No operand. -/
  | tapChallenge
  /-- R373. The 196 bytes shifted in -/
  | tapToken (tok : List Byte)
  /-- R374. No operand. -/
  | unlockTokenVerdict
  /-- R375. SPACE, NWORDS and Q of the request, and what the target answers: 0 data, 1 absent, 2 poisoned -/
  | accessRead (space nwords : BitVec 8) (q : Word) (answer : Fin 3) (data : List Byte)
  /-- R375. SPACE, NWORDS, Q and DATA of the request -/
  | accessWrite (space nwords : BitVec 8) (q : Word) (data : List Byte)
  /-- R371. The debug module register access: address, write flag, value -/
  | core (addr : BitVec 7) (wr : Bool) (v : BitVec 32)
  /-- R374. No operand. -/
  | tapClose
  /-- R374. No operand. -/
  | scopeLifetimeEnd
  /-- R62. The port, and the substate of Recovery: 0 RcvrLock, 1 Equalization, 2 Speed, 3 RcvrCfg, 4 Idle. -/
  | recoveryEntry (p : PortId) (sub : Fin 5)
  /-- R62. The port, and the rate and lanes (a power of two) of the link afterwards. -/
  | returnToL0 (p : PortId) (rate : Fin 6) (width : Fin 5)
  /-- R52. The port, what it enters (0 L0s, 1 L1, 2 a reduced L0p width), and the lanes of L0p as a power of two. -/
  | lowPowerEntry (p : PortId) (kind : Fin 3) (lanes : Fin 4)
  /-- R52. The port. -/
  | lowPowerExit (p : PortId)
  /-- R86. The lane, and what it receives: the pattern bits that the checker's register holds, then 256 bits -/
  | chkLock (l : LaneId) (rx : List Level)
  /-- R86. As CHK_LOCK -/
  | lockLoss (l : LaneId) (rx : List Level)
  /-- R320. The channel, V_SENSE in 0.2 mV, and the largest V_DS in mV over the switches driven on -/
  | slotLimit (c : ChannelId) (isense : BitVec 10) (vds : Nat)
  /-- R351. The VF -/
  | vfFrostTimeout (v : VfId)
  /-- R454. No operand. -/
  | meridianRestart
  /-- R444. The dynamic address assigned -/
  | entdaa (addr : BitVec 7)
  /-- R115. The port -/
  | folioTransmit (p : PortId)
  /-- R56. The port, the stream (0 CXL.cachemem, 1 CXL.io), and whether the message establishes or refreshes its keys. -/
  | ideKeyManagement (p : PortId) (stream : Fin 2) (ok : Bool)
  deriving DecidableEq, Repr

end Sys2Proof
end

