-- ==== Sys2Proof/Decode.lean ====
section
/-! DEFINITION. The command that a word spells. No row of the block's command table gives bits: commands arrive as themselves, not as words, so no word spells one (assumption log 4). -/
namespace Sys2Proof

/-- The command of a word of nbits bits: none, since no row of the table has an encoding. -/
def decodeTableWord (_nbits _w : Nat) : Option Instr := none

end Sys2Proof
end

