-- ==== Sys2Proof/Machine/Bits.lean ====
section
/-! DEFINITION. Bit fields, byte order and the sparse stores: the helpers every operation shares. -/
namespace Sys2Proof.Machine

/-- Bits [lo + w - 1 : lo] of an entry, as a number (R4). -/
def fld (v : Entry) (lo w : Nat) : Nat := (v.toNat / 2 ^ lo) % 2 ^ w

/-- The bits [lo + w - 1 : lo] set, all others clear. -/
def ones (lo w : Nat) : Entry := BitVec.ofNat 256 ((2 ^ w - 1) * 2 ^ lo)

/-- The entry with bits [lo + w - 1 : lo] replaced by x. -/
def setFld (v : Entry) (lo w x : Nat) : Entry :=
  (v &&& ~~~(ones lo w)) ||| BitVec.ofNat 256 ((x % 2 ^ w) * 2 ^ lo)

/-- The entry whose masked bits come from new and whose other bits come from old. -/
def merge (old new mask : Entry) : Entry := (old &&& ~~~mask) ||| (new &&& mask)

/-- Bits [lo + w - 1 : lo] of a number. -/
def nbits (v lo w : Nat) : Nat := (v / 2 ^ lo) % 2 ^ w

/-- Bits [lo + w - 1 : lo] of a 64-bit word, as a number. -/
def wfld (v : Word) (lo w : Nat) : Nat := nbits v.toNat lo w

/-- 64-bit word k of an entry (R279). -/
def entryWord (v : Entry) (k : Nat) : Word := BitVec.ofNat 64 (fld v (64 * k) 64)

/-- An entry made of 64-bit words, lowest first. -/
def entryOfWords : List Word → Entry
  | [] => 0
  | w :: ws => BitVec.ofNat 256 (w.toNat + (entryOfWords ws).toNat * 2 ^ 64)

/-- The two's complement value of the low w bits of v. -/
def sext (v w : Nat) : Int :=
  if v % 2 ^ w < 2 ^ (w - 1) then (v % 2 ^ w : Nat) else (v % 2 ^ w : Nat) - (2 ^ w : Nat)

/-- The 64-bit word of an integer, two's complement. -/
def wordOfInt (i : Int) : Word := BitVec.ofInt 64 i

/-- The 8 bytes of a word, lowest address first (R5). -/
def wordBytes (w : Word) : List Byte :=
  (List.range 8).map fun i => BitVec.ofNat 8 (nbits w.toNat (8 * i) 8)

/-- n bytes of a number, little-endian (R5). -/
def natBytes (n v : Nat) : List Byte :=
  (List.range n).map fun i => BitVec.ofNat 8 (v / 2 ^ (8 * i))

/-- The number of a little-endian byte string (R5). -/
def bytesNat : List Byte → Nat
  | [] => 0
  | b :: bs => b.toNat + 256 * bytesNat bs

/-- n bytes of a string from an offset, padded with zeros. -/
def slice (bs : List Byte) (off n : Nat) : List Byte :=
  let t := (bs.drop off).take n
  t ++ List.replicate (n - t.length) 0

/-- The number held in n bytes from an offset, little-endian. -/
def leAt (bs : List Byte) (off n : Nat) : Nat := bytesNat (slice bs off n)

/-- The number held in n bytes from an offset, big-endian. -/
def beAt (bs : List Byte) (off n : Nat) : Nat := bytesNat (slice bs off n).reverse

/-- The words of a byte string, 8 bytes each. -/
def bytesWords (bs : List Byte) (n : Nat) : List Word :=
  (List.range n).map fun i => BitVec.ofNat 64 (leAt bs (8 * i) 8)

/-- The bytes of a list of words. -/
def wordsBytes (ws : List Word) : List Byte := ws.flatMap wordBytes

/-! The sparse store. -/

/-- What the store reads at key k: the listed value, else the default d. -/
def smGet {α : Type} (d : α) : SMap α → Nat → α
  | [], _ => d
  | (j, v) :: m, k => if k = j then v else if k < j then d else smGet d m k

/-- Writing a value: the default removes the entry, so that equal stores are equal data. -/
def smSet {α : Type} [DecidableEq α] (d : α) : SMap α → Nat → α → SMap α
  | [], k, v => if v = d then [] else [(k, v)]
  | (j, u) :: m, k, v =>
    if k = j then (if v = d then m else (k, v) :: m)
    else if k < j then (if v = d then (j, u) :: m else (k, v) :: (j, u) :: m)
    else (j, u) :: smSet d m k v

/-- Entering a value in a store that lists every value it holds. -/
def smPut {α : Type} : SMap α → Nat → α → SMap α
  | [], k, v => [(k, v)]
  | (j, u) :: m, k, v =>
    if k = j then (k, v) :: m else if k < j then (k, v) :: (j, u) :: m else (j, u) :: smPut m k v

/-- Removing a key. -/
def smDel {α : Type} : SMap α → Nat → SMap α
  | [], _ => []
  | (j, u) :: m, k => if k = j then m else if k < j then (j, u) :: m else (j, u) :: smDel m k

/-- Applying f to the value at k. -/
def smMod {α : Type} [DecidableEq α] (d : α) (m : SMap α) (k : Nat) (f : α → α) : SMap α :=
  smSet d m k (f (smGet d m k))

/-- The canonical form: keys strictly rising, no entry equal to its key's default. -/
def smWf {α : Type} [DecidableEq α] (d : Nat → α) : SMap α → Bool
  | [] => true
  | [(i, u)] => decide (u ≠ d i)
  | (i, u) :: (j, v) :: m => decide (i < j) && decide (u ≠ d i) && smWf d ((j, v) :: m)

/-- Writing a run of consecutive keys. -/
def smSetRun {α : Type} [DecidableEq α] (d : α) : SMap α → Nat → List α → SMap α
  | m, _, [] => m
  | m, k, v :: vs => smSetRun d (smSet d m k v) (k + 1) vs

/-- Reading a run of n consecutive keys. -/
def smGetRun {α : Type} (d : α) (m : SMap α) (k n : Nat) : List α :=
  (List.range n).map fun i => smGet d m (k + i)

/-- Removing every key that p names. -/
def smErase {α : Type} (m : SMap α) (p : Nat → Bool) : SMap α := m.filter fun e => !(p e.1)

/-! Lists as queues. -/

/-- The first element that p accepts, and the list without it. -/
def takeFirst {α : Type} (p : α → Bool) : List α → Option (α × List α)
  | [] => none
  | x :: xs => if p x then some (x, xs) else
    match takeFirst p xs with
    | none => none
    | some (y, ys) => some (y, x :: ys)

/-- Replacing the first element that p accepts. -/
def modFirst {α : Type} (p : α → Bool) (f : α → α) : List α → List α
  | [] => []
  | x :: xs => if p x then f x :: xs else x :: modFirst p f xs

/-- Element i of a list, or a default. -/
def nth {α : Type} (d : α) : List α → Nat → α
  | [], _ => d
  | x :: _, 0 => x
  | _ :: xs, i + 1 => nth d xs i

/-- The sum of a list. -/
def sumOf : List Nat → Nat
  | [] => 0
  | x :: xs => x + sumOf xs

/-- The least number at or above lo, below lo + n, that p accepts. -/
def findFrom (p : Nat → Bool) (lo : Nat) : Nat → Option Nat
  | 0 => none
  | n + 1 => if p lo then some lo else findFrom p (lo + 1) n

end Sys2Proof.Machine
end

