-- ==== Sys2Proof/Machine/Coding.lean ====
section
/-! DEFINITION. Line coding: modulation, the alignment marker, test patterns, the lane codeword and its Reed-Solomon code, and striping (R67, R85, R90-R93). -/
namespace Sys2Proof.Machine

/-! Bits and symbols (R67, Table 3.1). -/

/-- The bits of a byte string in order of transmission: bit 7 of each byte first (R90). -/
def bitsOf (bs : List Byte) : List Bool := bs.flatMap fun b => (List.range 8).map fun i => b.getLsbD (7 - i)

/-- Whole bytes of a bit string, bit 7 of each first. -/
def bytesOf : List Bool → List Byte
  | a :: b :: c :: d :: e :: f :: g :: h :: rest =>
    BitVec.ofNat 8 ([a, b, c, d, e, f, g, h].foldl (fun n x => 2 * n + x.toNat) 0) :: bytesOf rest
  | _ => []

/-- The PAM4 level of a pair of bits, the first more significant (R67). -/
def grayLevel : Bool → Bool → Level
  | false, false => .m3
  | false, true => .m1
  | true, true => .p1
  | true, false => .p3

/-- The pair of bits of a PAM4 level. -/
def grayBits : Level → List Bool
  | .m3 => [false, false]
  | .m1 => [false, true]
  | .p1 => [true, true]
  | .p3 => [true, false]

/-- A rate code of Table 2.3 is sent as PAM4 (Table 3.1). -/
def isPam4 (rate : Nat) : Bool := decide (5 ≤ rate)

/-- Pairs of bits as PAM4 symbols. -/
def pam4Symbols : List Bool → List Level
  | a :: b :: rest => grayLevel a b :: pam4Symbols rest
  | _ => []

/-- The symbols of a bit string. -/
def symbolsOf (pam4 : Bool) (bs : List Bool) : List Level := if pam4 then pam4Symbols bs else bs.map fun b => if b then .p3 else .m3

/-- The bits of received symbols. -/
def symbolBits (pam4 : Bool) (ls : List Level) : List Bool :=
  if pam4 then ls.flatMap grayBits else ls.map fun l => l == .p3 || l == .p1

/-- A swapped pair inverts the sign of every level (R43). -/
def invertLevel : Level → Level
  | .m3 => .p3
  | .m1 => .p1
  | .p1 => .m1
  | .p3 => .m3

/-- Bits with those of a mask inverted (R87). -/
def invertBits : List Bool → List Bool → List Bool
  | b :: bs, m :: ms => (b != m) :: invertBits bs ms
  | bs, _ => bs

/-! The alignment marker (R93). -/

/-- The Trorno alignment marker. -/
def markerWord : Nat := 0x9E37C1A45B08F2D63A7CE41508B96DF3
/-- Its bytes in order of transmission. -/
def markerBytes : List Byte := (natBytes 16 markerWord).reverse
/-- Its 64 symbols. -/
def markerSymbols : List Level := symbolsOf true (bitsOf markerBytes)
/-- Eight marker words fill a codeword position. -/
def isMarkerRun (cw : List Byte) : Bool := cw == (List.replicate 8 markerBytes).flatten

/-- The marker checks at a boundary: the 64 symbols from there equal it, of the symbols received from boundary 0 on (R79). -/
def markerAt (rx : List Level) (bound : Nat) : Bool := (rx.drop bound).take 64 == markerSymbols

/-! Test patterns (Table 3.5). -/

/-- The exponents of a pattern's recurrence: bit k is the sum of the bits so far before it; the marker repeats after 128 bits. -/
def patTaps (pat : Nat) : List Nat :=
  match pat with
  | 1 => [7, 6]
  | 2 => [9, 5]
  | 3 => [13, 12, 2, 1]
  | 4 => [15, 14]
  | 5 => [23, 18]
  | 6 => [31, 28]
  | 7 => [13, 12, 2, 1]
  | 8 => [128]
  | _ => []

/-- The bits that seed a pattern: its degree. -/
def patDegree (pat : Nat) : Nat := (patTaps pat).headD 0

/-- A pattern's next n bits from its register, whose bit i - 1 is the bit i places back. -/
def patBits (taps : List Nat) : Nat → Nat → List Bool
  | _, 0 => []
  | r, n + 1 =>
    let b := sumOf (taps.map fun i => nbits r (i - 1) 1) % 2
    (b == 1) :: patBits taps (2 * r + b) n

/-- The register that a run of bits leaves, the last of them lowest. -/
def patReg (bits : List Bool) : Nat := bits.foldl (fun r b => 2 * r + b.toNat) 0

/-- A register that the marker's repetition can hold: the marker from some bit on. -/
def markerReg (r : Nat) : Bool := (List.range 128).any fun k => (markerWord * 2 ^ k) % 2 ^ 128 + markerWord / 2 ^ (128 - k) == r

/-- What a checker makes of received bits (R86): seeded by the first, it predicts the 256 that follow, and counts those in error.
None where there is no pattern, too little was received, or the seed is no part of the marker. -/
def patErrors (pat : Nat) (bits : List Bool) : Option Nat :=
  let d := patDegree pat
  let r := patReg (bits.take d)
  let got := (bits.drop d).take 256
  if d = 0 ∨ got.length < 256 ∨ (pat = 8 ∧ !(markerReg r)) then none
  else some ((got.zip (patBits (patTaps pat) r 256)).filter fun e => e.1 != e.2).length

/-! GF(2⁸) with primitive polynomial x⁸ + x⁴ + x³ + x² + 1 (R90). -/

/-- Multiplication by α. -/
def gfAlpha (a : Nat) : Nat := if a < 128 then 2 * a else Nat.xor (2 * a) 0x11D
/-- Multiplication by α, n times. -/
def gfShift : Nat → Nat → Nat
  | 0, a => a
  | n + 1, a => gfShift n (gfAlpha a)
/-- Multiplication. -/
def gfMul (a b : Nat) : Nat := (List.range 8).foldl (fun c i => Nat.xor (gfAlpha c) (if nbits b (7 - i) 1 = 1 then a else 0)) 0
/-- A power. -/
def gfPow (a : Nat) : Nat → Nat
  | 0 => 1
  | n + 1 => gfMul a (gfPow a n)
/-- The inverse of a nonzero element. -/
def gfInv (a : Nat) : Nat := gfPow a 254

/-- The value of a polynomial, lowest coefficient first. -/
def gfEval (x : Nat) : List Nat → Nat
  | [] => 0
  | c :: cs => Nat.xor c (gfMul x (gfEval x cs))
/-- Sum of polynomials. -/
def gfAdd : List Nat → List Nat → List Nat
  | a :: as, b :: bs => Nat.xor a b :: gfAdd as bs
  | [], bs => bs
  | as, [] => as

/-! RS(128,122) (R90): byte 0 is the coefficient of x¹²⁷, byte 127 that of x⁰. -/

/-- The generator, with roots α⁰ to α⁵, highest coefficient first. -/
def rsGen : List Nat := (List.range 6).foldl (fun g i => gfAdd (g ++ [0]) (0 :: g.map (gfShift i))) [1]

/-- One message byte through the division register, highest coefficient first. -/
def rsStep (r : List Nat) (b : Byte) : List Nat :=
  let q := Nat.xor (r.headD 0) b.toNat
  gfAdd (r.drop 1 ++ [0]) ((rsGen.drop 1).map (gfMul q))

/-- CHECK: the remainder of the message times x⁶ by the generator. -/
def rsCheck (msg : List Byte) : List Byte := (msg.foldl rsStep (List.replicate 6 0)).map (BitVec.ofNat 8)

/-- Syndrome j: the received word's value at αʲ. -/
def rsSyndrome (cw : List Byte) (j : Nat) : Nat := cw.foldl (fun a b => Nat.xor (gfShift j a) b.toNat) 0

/-- All six. -/
def rsSyndromes (cw : List Byte) : List Nat := (List.range 6).map (rsSyndrome cw)

/-- The Berlekamp-Massey registers: locator, its last different one, degree, last discrepancy, steps since. -/
structure Berlekamp where
  loc : List Nat := [1]
  old : List Nat := [1]
  deg : Nat := 0
  last : Nat := 1
  gap : Nat := 1
  deriving DecidableEq, Repr

/-- One step of the search for the shortest locator. -/
def berlekampStep (syn : List Nat) (x : Berlekamp) (n : Nat) : Berlekamp :=
  let d := ((List.range (x.deg + 1)).filter (· ≤ n)).foldl (fun a i => Nat.xor a (gfMul (nth 0 x.loc i) (nth 0 syn (n - i)))) 0
  if d = 0 then { x with gap := x.gap + 1 }
  else
    let t := gfAdd x.loc (List.replicate x.gap 0 ++ x.old.map (gfMul (gfMul d (gfInv x.last))))
    if 2 * x.deg ≤ n then { loc := t, old := x.loc, deg := n + 1 - x.deg, last := d, gap := 1 }
    else { x with loc := t, gap := x.gap + 1 }

/-- The byte with exponent e of an error pattern: none unless the locator vanishes at its inverse; else the value by Forney's formula. -/
def rsErrorAt (syn : List Nat) (loc : List Nat) (e : Nat) : Nat :=
  let inv := gfShift (255 - e) 1
  if gfEval inv loc ≠ 0 then 0
  else
    let omega := (List.range 6).map fun k => (List.range (k + 1)).foldl (fun a i => Nat.xor a (gfMul (nth 0 loc i) (nth 0 syn (k - i)))) 0
    let slope := (List.range loc.length).map fun i => if i % 2 = 0 then nth 0 loc (i + 1) else 0
    gfMul (gfShift e 1) (gfMul (gfEval inv omega) (gfInv (gfEval inv slope)))

/-- Decoding a codeword: the corrected word and how many bytes were in error, none if no codeword lies within 3 bytes (R90). -/
def rsDecode (cw : List Byte) : Option (List Byte × Nat) :=
  let syn := rsSyndromes cw
  if syn.all (· == 0) then some (cw, 0)
  else
    let x := (List.range 6).foldl (berlekampStep syn) {}
    let errs := (List.range cw.length).map fun i => rsErrorAt syn x.loc (127 - i)
    let fixed := (cw.zip errs).map fun e => e.1 ^^^ BitVec.ofNat 8 e.2
    if x.deg ≤ 3 ∧ (rsSyndromes fixed).all (· == 0) then some (fixed, (errs.filter (· != 0)).length) else none

/-! The lane codeword (Table 4.1, R91). -/

/-- Even parity of a byte string: the bit that makes its ones even. -/
def parityOf (bs : List Byte) : Nat := ((bitsOf bs).filter fun b => b).length % 2

/-- LPAR of 120 DATA bytes; bit 15 is zero. -/
def lanePar (data : List Byte) : Nat := sumOf ((List.range 15).map fun j => parityOf (slice data (8 * j) 8) * 2 ^ j)

/-- A lane's codeword. -/
def laneCodeword (data : List Byte) : List Byte :=
  let m := slice data 0 120 ++ natBytes 2 (lanePar data)
  m ++ rsCheck m

/-- A decoded lane codeword shows a parity error. -/
def laneParBad (cw : List Byte) : Bool := leAt cw 120 2 % 32768 != lanePar (slice cw 0 120)

/-! Striping (R92). -/

/-- A codeword position's stream bytes by logical lane: byte n on lane n mod w. -/
def striped (w : Nat) (bs : List Byte) : List (List Byte) :=
  let rows := (List.range 120).map fun k => slice bs (k * w) w
  (List.range w).map fun l => rows.map fun r => nth 0 r l

/-- The stream bytes of the lanes' DATA. -/
def unstriped (lanes : List (List Byte)) : List Byte := (List.range 120).flatMap fun k => lanes.map fun d => nth 0 d k

end Sys2Proof.Machine
end

