-- ==== Sys2Proof/Config.lean ====
section
/-! DEFINITION. What one device fixes, and the free values: constants without a body, so that nothing can be proved of a value the spec leaves open. -/
namespace Sys2Proof.Config

/-- The 64 bits of the device serial, NODE_ID of Table 4.8 (R266): one per device. -/
opaque nodeId : BitVec 64
/-- The device serial as a number. -/
abbrev serial : Nat := nodeId.toNat
/-- A free value for the n-th use: an outcome the spec leaves open (assumption log 3). -/
opaque freeValue : Nat → BitVec 64
/-- The n-th 32 bytes drawn from the TRNG (R372, R436). -/
opaque nonce : Nat → List Byte
/-- SHA-512 (R423); only its first 64 bytes are used. -/
opaque sha512 : List Byte → List Byte
/-- ECDSA P-521 verification of r ‖ s over a digest under a public key (R373, R423). -/
opaque ecdsaVerify : (key digest sig : List Byte) → Bool
/-- An ECDSA P-521 signature by the key of a seed over a digest (R431, R432). -/
opaque ecdsaSign : (seed digest : List Byte) → List Byte
/-- HMAC-SHA-512 (R353, R430). -/
opaque hmac : (key msg : List Byte) → List Byte
/-- HKDF-Expand with SHA-512 to n bytes (R354). -/
opaque hkdf : (key info : List Byte) → (n : Nat) → List Byte
/-- The unique device secret (R430). -/
opaque uds : List Byte
/-- The mask ROM's bytes (R434). -/
opaque maskRom : List Byte
/-- The export master secret of an SPDM session and its key generation (R354). -/
opaque sessionSecret : Nat → Nat → List Byte
/-- The DeviceID certificate and the root above it (R431). -/
opaque deviceCert : List Byte
/-- The Alias certificate for an Alias seed, VERSION and SVN (R431). -/
opaque aliasCert : (seed : List Byte) → (version svn : Nat) → List Byte
/-- The Ahnikar root's digest, trust anchor slot 0 (Table 18.6). -/
opaque ahnikarRoot : List Byte
/-- Ahnikar's PCI vendor ID (R445). -/
opaque vendorId : BitVec 16
/-- The PCI device ID of the bridges, which no rule gives (R53). -/
opaque bridgeDevice : BitVec 16
/-- The PCIe completer ID (bus, device, function) with which a function completes, as its host numbered it: no rule gives bus numbers (log 41). -/
opaque completerId : (port : Nat) → BitVec 16
/-- The SEC-DED check bits over a nonzero 64-bit half of a directory entry (R229). -/
opaque ecc : BitVec 64 → BitVec 8

end Sys2Proof.Config
end

