-- ==== Sys2Proof/Machine/Layout.lean ====
section
/-! DEFINITION. The entry layouts of Table 11.7: every table's fields, their access and reserved encodings, and every entry's reset value. -/
namespace Sys2Proof.Machine

/-- A field of an entry: its lowest bit, width, whether it is RO, and its reserved encodings as closed ranges. -/
structure Fld where
  lo : Nat
  w : Nat
  ro : Bool
  rsv : List (Nat × Nat)
  deriving DecidableEq, Repr

/-- A CO field with no reserved encoding. -/
def fRW (lo w : Nat) : Fld := ⟨lo, w, false, []⟩
/-- An RO field. -/
def fRO (lo w : Nat) : Fld := ⟨lo, w, true, []⟩
/-- A CO field with reserved encodings. -/
def fRs (lo w : Nat) (r : List (Nat × Nat)) : Fld := ⟨lo, w, false, r⟩

/-- How instructions reach a table (R278). -/
inductive TAccess where
  | rw | ro | digest
  deriving DecidableEq, Repr

/-- A table: its access, the bits of an entry, its number of indices. -/
structure TInfo where
  acc : TAccess
  bits : Nat
  count : Nat
  deriving DecidableEq, Repr

/-- Table 11.7. -/
def tableInfo (t : Nat) : Option TInfo :=
  match t with
  | 0x01 => some ⟨.rw, 64, 96⟩
  | 0x02 => some ⟨.ro, 32, 96⟩
  | 0x03 => some ⟨.rw, 64, 384⟩
  | 0x04 => some ⟨.ro, 128, 384⟩
  | 0x05 => some ⟨.ro, 32, 96⟩
  | 0x06 => some ⟨.rw, 64, 96⟩
  | 0x07 => some ⟨.rw, 32, 9312⟩
  | 0x08 => some ⟨.rw, 8, 4608⟩
  | 0x09 => some ⟨.rw, 4, 96⟩
  | 0x0A => some ⟨.ro, 32, 2⟩
  | 0x0B => some ⟨.digest, 8, 12⟩
  | 0x0C => some ⟨.rw, 32, 1⟩
  | 0x10 => some ⟨.rw, 32, 64⟩
  | 0x11 => some ⟨.rw, 32, 4096⟩
  | 0x12 => some ⟨.rw, 256, 3072⟩
  | 0x13 => some ⟨.rw, 256, 65536⟩
  | 0x14 => some ⟨.rw, 64, 256⟩
  | 0x15 => some ⟨.rw, 128, 16384⟩
  | 0x16 => some ⟨.rw, 128, 1536⟩
  | 0x17 => some ⟨.rw, 32, 4095⟩
  | 0x18 => some ⟨.rw, 32, 4096⟩
  | 0x19 => some ⟨.digest, 64, 1536⟩
  | 0x20 => some ⟨.rw, 128, 256⟩
  | 0x21 => some ⟨.rw, 128, 16⟩
  | 0x22 => some ⟨.rw, 64, 64⟩
  | 0x23 => some ⟨.ro, 128, 2 ^ 54⟩
  | 0x24 => some ⟨.rw, 64, 16⟩
  | 0x25 => some ⟨.ro, 32, 16⟩
  | 0x30 => some ⟨.rw, 256, 4096⟩
  | 0x31 => some ⟨.ro, 32, 512⟩
  | 0x32 => some ⟨.rw, 128, 64⟩
  | 0x38 => some ⟨.rw, 128, 32⟩
  | 0x39 => some ⟨.rw, 128, 9792⟩
  | 0x3A => some ⟨.rw, 64, 1536⟩
  | 0x3B => some ⟨.rw, 64, 1024⟩
  | 0x3C => some ⟨.rw, 64, 4048⟩
  | 0x3D => some ⟨.rw, 128, 2144⟩
  | 0x3E => some ⟨.rw, 32, 12⟩
  | 0x3F => some ⟨.rw, 128, 4⟩
  | 0x40 => some ⟨.digest, 128, 1⟩
  | _ => none

/-- The 16 target fields of Table 7.1. -/
def tgtFields : List Fld := (List.range 16).map fun n => fRW (128 + 6 * n) 6

/-- The fields of a table's entry from bit 0 upward, res0 rows skipped (R279). -/
def fields (t : Nat) : List Fld :=
  match t with
  | 0x01 => [fRs 0 3 [(5, 7)], fRO 4 2, fRs 6 4 [(8, 15)], fRs 10 2 [(3, 3)], fRW 12 1, fRW 13 1, fRW 14 1, fRW 15 1,
             fRs 16 2 [(3, 3)], fRs 18 2 [(2, 3)], fRs 20 7 [(101, 127)]]
  | 0x02 => [fRO 0 6, fRO 6 4, fRO 10 5, fRO 15 2, fRO 17 1, fRO 18 1, fRO 19 1, fRO 20 1]
  | 0x03 => [fRs 3 4 [(0, 2), (13, 15)], fRW 7 3, fRW 10 2, fRW 12 2, fRW 14 1, fRW 15 1, fRs 16 4 [(9, 15)], fRW 20 3,
             fRs 23 4 [(9, 15)], fRs 27 5 [(25, 31)], fRs 32 5 [(21, 31)], fRs 37 4 [(9, 15)], fRs 41 2 [(2, 3)],
             fRs 43 2 [(3, 3)], fRW 45 6, fRW 51 1, fRs 52 4 [(8, 15)]]
  | 0x04 => [fRO 0 1, fRO 1 1, fRO 2 1, fRO 3 1, fRO 4 1, fRO 5 1, fRO 16 16, fRO 32 48, fRO 80 48]
  | 0x05 => [fRO 0 8, fRO 8 8, fRO 22 1, fRO 23 1, fRO 24 1, fRO 25 1, fRO 26 1, fRO 27 1, fRO 28 4]
  | 0x06 => [fRW 0 16, fRs 24 4 [(10, 15)], fRs 28 4 [(10, 15)], fRs 32 4 [(10, 15)], fRs 36 4 [(10, 15)], fRW 40 4]
  | 0x07 => [fRW 0 16, fRs 16 8 [(0, 0)]]
  | 0x08 => [fRW 0 4, fRW 4 2]
  | 0x09 => [fRW 0 4]
  | 0x0A => [fRO 0 1, fRO 1 1, fRO 2 1, fRO 3 16]
  | 0x0B => [fRW 0 3]
  | 0x0C => [fRs 0 8 [(16, 254)], fRs 8 7 [(96, 126)]]
  | 0x10 => [fRs 0 7 [(96, 127)], fRs 7 7 [(65, 127)], fRW 14 1]
  | 0x11 => [fRs 0 4 [(4, 15)], fRW 4 7, fRW 11 4, fRW 15 8, fRs 24 3 [(3, 7)]]
  | 0x12 => [fRW 46 1, fRW 47 1, fRs 48 4 [(7, 15)], fRs 52 4 [(5, 15)], fRW 56 36, fRW 92 36] ++ tgtFields
  | 0x13 => [fRW 46 1, fRW 47 1, fRs 48 4 [(7, 15)], fRs 52 4 [(5, 15)], fRW 56 36, fRW 92 36, fRW 128 36]
  | 0x14 => [fRW 0 28, fRW 36 1]
  | 0x15 => [fRW 21 1, fRs 22 3 [(5, 7)], fRW 25 4, fRW 29 7, fRW 36 8, fRW 44 28, fRW 72 28, fRW 100 28]
  | 0x16 => [fRW 32 12, fRW 47 1, fRs 48 4 [(7, 15)], fRs 52 4 [(5, 15)], fRW 56 36, fRW 92 36]
  | 0x17 => [fRW 0 7, fRW 8 4, fRs 12 3 [(4, 7)]]
  | 0x18 => [fRs 0 2 [(3, 3)]]
  | 0x19 => [fRW 0 32]
  | 0x20 => [fRs 55 2 [(3, 3)], fRW 57 4, fRW 61 4, fRs 65 7 [(96, 127)], fRW 72 28, fRW 100 28]
  | 0x21 => [fRW 0 1, fRW 64 64]
  | 0x22 => [fRW 0 2, fRs 4 2 [(3, 3)], fRW 9 7, fRW 16 4, fRW 20 4, fRW 24 12, fRW 36 12]
  | 0x23 => [fRO 0 8, fRO 8 8, fRO 16 8, fRO 24 4, fRO 28 6, fRO 34 4, fRO 38 26, fRO 64 64]
  | 0x24 => [fRW 8 1, fRs 9 7 [(65, 127)], fRW 16 8, fRs 24 8 [(0, 0), (126, 255)]]
  | 0x25 => [fRO 0 7, fRO 7 9, fRO 16 10, fRO 26 5, fRO 31 1]
  | 0x30 => [fRW 100 1, fRW 101 3, fRs 104 4 [(13, 15)], fRW 108 8, fRW 116 16, fRs 132 4 [(12, 15)], fRW 136 58,
             fRs 194 4 [(12, 15)], fRW 198 58]
  | 0x31 => [fRO 0 16, fRO 16 1]
  | 0x32 => [fRW 0 1, fRW 15 1, fRs 16 2 [(3, 3)], fRs 18 6 [(48, 62)], fRs 24 40 [(1, 999)], fRW 64 64]
  | 0x38 => [fRs 0 7 [(96, 126)], fRW 8 1, fRW 9 1, fRW 10 1, fRs 12 7 [(0, 9), (101, 127)], fRs 20 10 [(0, 0), (1001, 1023)],
             fRs 32 10 [(0, 0), (1001, 1023)], fRW 44 12, fRs 56 8 [(0, 0)], fRs 64 9 [(0, 4), (201, 511)],
             fRs 80 6 [(48, 62)], fRs 88 6 [(48, 62)], fRs 96 6 [(48, 62)]]
  | 0x39 => [fRW 0 2, fRW 2 1, fRW 3 1, fRW 4 4, fRW 8 4, fRW 12 58, fRW 70 58]
  | 0x3A => [fRW 40 8, fRW 50 2, fRW 52 12]
  | 0x3B => [fRW 0 16, fRW 16 24, fRs 41 3 [(5, 7)], fRW 44 11, fRs 55 2 [(3, 3)], fRW 57 1, fRW 58 1, fRW 59 2, fRW 61 2, fRW 63 1]
  | 0x3C => [fRW 0 1, fRW 1 1, fRW 2 1, fRs 5 5 [(24, 31)], fRW 10 6]
  | 0x3D => [fRO 0 4, fRO 4 4, fRW 16 7, fRW 23 9, fRs 32 4 [(9, 15)], fRW 36 12, fRW 50 1, fRW 51 1,
             fRs 52 7 [(0, 0), (65, 127)], fRs 59 9 [(257, 511)], fRW 68 12]
  | 0x3E => [fRW 0 1, fRW 8 2, fRW 16 1, fRW 17 1, fRO 20 4]
  | 0x3F => [fRW 0 1, fRO 18 1, fRO 19 22, fRO 41 31, fRW 72 1, fRW 73 8, fRW 81 6, fRW 87 2, fRW 89 1, fRs 90 6 [(48, 63)],
             fRs 96 4 [(13, 15)], fRW 100 28]
  | 0x40 => [fRs 0 2 [(3, 3)], fRW 8 7, fRW 15 49, fRW 66 6, fRs 72 8 [(0, 0)], fRs 80 24 [(0, 0), (100001, 16777215)]]
  | _ => []

/-- An entry from its fields' values, given as (lowest bit, value) pairs. -/
def mkEntry : List (Nat × Nat) → Entry
  | [] => 0
  | (lo, v) :: r => BitVec.ofNat 256 (v * 2 ^ lo) ||| mkEntry r

/-- The x and y of a router: index r is 8 y + x (Table 6.1's numbering, R165). -/
def routerX (r : Nat) : Nat := r % 8
/-- See routerX. -/
def routerY (r : Nat) : Nat := r / 8

/-- The outputs of router r that reduce the torus distance to d: bit 0 +X, 1 −X, 2 +Y, 3 −Y (R167). -/
def torusProd (r d : Nat) : Nat :=
  let dx := (routerX d + 8 - routerX r) % 8
  let dy := (routerY d + 6 - routerY r) % 6
  (if 0 < dx ∧ dx ≤ 4 then 1 else 0) + (if 4 ≤ dx then 2 else 0) +
  (if 0 < dy ∧ dy ≤ 3 then 4 else 0) + (if 3 ≤ dy then 8 else 0)

/-- The lowest set bit among bits 0-3, 0 if none. -/
def firstOut (m : Nat) : Nat :=
  if m % 2 = 1 then 0 else if m / 2 % 2 = 1 then 1 else if m / 4 % 2 = 1 then 2 else if m / 8 % 2 = 1 then 3 else 0

/-- The torus route entry (R167): PROD in [3:0], PREF in [5:4]. -/
def torusEntry (r d : Nat) : Nat := torusProd r d + firstOut (torusProd r d) * 16

/-- Table 10.13: OWNER and TLIM of rings 0-15, EN. -/
def ringReset (r : Nat) : Entry :=
  let owner := if r < 8 then 0x4000 else if r = 8 then 0xA000 else if r = 9 then 0x8000 else if r = 10 then 0x8001
    else if r = 11 then 0x8002 else 0xFFFF
  let en := if 8 ≤ r ∧ r ≤ 11 then 1 else 0
  let tlim := if r ≤ 8 then 0 else 100
  mkEntry [(100, en), (104, 12), (108, tlim), (116, owner)]

/-- Table 16.13. -/
def metricReset (m : Nat) : Entry :=
  let e (typ skind src pw per span lo width : Nat) :=
    mkEntry [(63, 1), (61, typ), (59, span), (58, per), (55, skind), (44, src), (41, pw), (16, lo), (0, width)]
  match m with
  | 0 => e 2 2 0 0 1 2 0 0
  | 1 => e 1 0 0x411 0 1 3 0 0
  | 2 => e 2 1 0x411 1 1 3 0 0
  | 3 => e 1 0 0x414 0 1 2 0 0
  | 4 => e 1 0 0x501 0 1 2 0 0
  | 5 => e 1 0 0x504 0 0 3 0 0
  | 6 => e 1 0 0x505 0 0 3 0 0
  | 7 => e 1 0 0x380 0 1 0 0 0
  | 8 => e 1 0 0x081 0 1 3 0 0
  | 9 => e 1 0 0x105 0 1 2 0 0
  | 10 => e 1 0 0x301 0 1 3 0 0
  | 11 => e 1 0 0x305 0 1 3 0 0
  | 12 => e 1 0 0x200 0 0 3 0 0
  | 13 => e 3 2 2 0 0 2 0 70
  | 14 => e 2 2 3 0 1 2 0 0
  | 15 => e 1 0 0x082 0 1 3 0 0
  | _ => 0

/-- Reset value of an arming entry (Table 17.5): OCMASK applies to port counters 0-3, WIN to port counters 20-23. -/
def armReset (i : Nat) : Entry :=
  let n := i % 24
  mkEntry [(0, 1), (5, if i < 2304 ∧ 20 ≤ n then 10 else 0), (10, if i < 2304 ∧ n < 4 then 0x3F else 0)]

/-- The reset value of entry i of table t; straps and eMRAM change some at a reset (Tables 2.3, 13.2, 19.6). -/
def tabReset (t i : Nat) : Entry :=
  match t with
  | 0x01 => mkEntry [(6, 5), (20, 10)]
  | 0x03 => mkEntry [(3, 12), (20, 5), (27, 8), (32, 4)]
  | 0x04 => mkEntry [(4, 1)]
  | 0x06 => mkEntry [(24, 2), (28, 3), (32, 1), (40, 1)]
  | 0x07 => mkEntry [(16, 16)]
  | 0x08 => BitVec.ofNat 256 (torusEntry ((i % 2304) / 48) (i % 48))
  | 0x09 => 0xF
  | 0x0C => mkEntry [(0, 0xFF), (8, 127)]
  | 0x22 => mkEntry [(36, 0xFFF)]
  | 0x24 => mkEntry [(9, 48), (16, 24), (24, 125)]
  | 0x30 => if i < 16 then ringReset i else mkEntry [(104, 12), (108, 100), (116, 0xFFFF)]
  | 0x32 => mkEntry [(18, 63)]
  | 0x38 => mkEntry [(0, 127), (10, 1), (12, 10), (20, 20), (32, 20), (56, 10), (64, 20), (80, 63), (88, 63), (96, 63)]
  | 0x3A => mkEntry [(50, 3), (52, 2144)]
  | 0x3B => metricReset i
  | 0x3C => armReset i
  | 0x3D => mkEntry [(51, 1), (52, 16)]
  | 0x3F => mkEntry [(73, 0xFF), (81, 63)]
  | 0x40 => mkEntry [(66, 0x3F), (72, 1), (80, 10)]
  | _ => 0

/-- The key of entry i of table t. -/
def tkey (t i : Nat) : Nat := t * 2 ^ 24 + i
/-- The table of a key. -/
def keyTab (k : Nat) : Nat := k / 2 ^ 24
/-- The index of a key. -/
def keyIdx (k : Nat) : Nat := k % 2 ^ 24

/-- The bits a field occupies. -/
def fldMask (f : Fld) : Entry := ones f.lo f.w

/-- The union of the bits of fields. -/
def unionMask : List Fld → Entry
  | [] => 0
  | f :: fs => fldMask f ||| unionMask fs

/-- The bits of a table that instructions may draft: its fields that are not RO. -/
def draftable (t : Nat) : Entry := unionMask ((fields t).filter fun f => !f.ro)

/-- A value is a reserved encoding of a field; the field's reset value never is (R497). -/
def isReserved (f : Fld) (rst v : Nat) : Bool := (v != rst) && f.rsv.any fun r => decide (r.1 ≤ v ∧ v ≤ r.2)

/-- Some field that the mask covers whole holds a reserved encoding in v. -/
def hasReserved (t i : Nat) (v mask : Entry) : Bool :=
  (fields t).any fun f => (mask &&& fldMask f == fldMask f) && isReserved f (fld (tabReset t i) f.lo f.w) (fld v f.lo f.w)

end Sys2Proof.Machine
end

