-- ==== Sys2Proof/Machine/State.lean ====
section
/-! DEFINITION. The state of the block: every register, table, FIFO, buffer, counter, mode and pin the spec gives it, as plain data, and the queue of waiting commands. -/
namespace Sys2Proof.Machine

/-- The live state of a lane besides its status word (R70, R79, R87). -/
structure LaneLive where
  bound : Nat := 0               -- live receive word boundary, in symbols
  adapt : Nat := 0               -- RX_ADAPT in effect since the last entry to L0 or session opening
  lockAt : Nat := 0              -- clock + 1 since which the locked checker counts
  inject : Bool := false         -- a single or burst injection is due at the next word
  gen : Nat := 0                 -- the generator's register: the last bits of its pattern (Table 3.5)
  deriving DecidableEq, Repr

/-- A DATA folio kept for replay (R112): SMAP and its 112 slot bytes, which a spilled one leaves to HP1, and the VC and cost of each header that begins in it. -/
structure TxFolio where
  smap : Nat
  body : List Byte
  spilled : Bool := false
  heads : List (Nat × Nat) := []
  deriving DecidableEq, Repr

/-- A transaction whose header was sent and whose data units are not all out (R97). -/
structure OpenOut where
  txn : Nat
  vc : Nat
  len : Nat
  sent : Nat := 0
  deriving DecidableEq, Repr

/-- A received transaction whose units are not all in (R110). -/
structure OpenIn where
  hdr : List Byte
  vc : Nat
  cost : Nat
  left : Nat
  data : List Byte := []
  fwd : Option Nat := none       -- the transaction it is forwarded as by cut-through
  deriving DecidableEq, Repr

/-- A TIME_MARK or TIME_ECHO received, or a TIME_ECHO due (R124). -/
structure TimeMsg where
  op : Nat
  pid : Nat
  tag : Nat
  a : Nat := 0
  b : Nat := 0
  arrived : Nat
  stamp : Nat := 0               -- the number of the first transaction younger than it: its place in the order of the MGMT channel (R115)
  deriving DecidableEq, Repr

/-- A Trorno port: session, sender, receiver, timers (R100-R124). Times are clock values. -/
structure Isl where
  begun : Bool := false                    -- training has begun since ROLE became 3 (Table 2.4)
  partner : Option Nat := none             -- NODE_ID of the session's partner
  peerChip : Nat := 0xFF
  next : Nat := 0                          -- extended sequence of the next new DATA folio
  acked : Nat := 0xFFFFFFFF                -- acknowledged sequence
  store : List TxFolio := []               -- unacknowledged folios, from acked + 1
  replay : Option Nat := none              -- index in store of the next folio to replay
  rply : Option Nat := none                -- START of an RPLY to send
  opened : Option OpenOut := none
  timeTx : List TimeMsg := []              -- TIME_MARKs and TIME_ECHOs to send
  accept : Nat := 0xFFFFFFFF               -- ACCEPT
  ackSent : Nat := 0xFFFFFFFF              -- the ACCEPT last sent
  expect : Nat := 0                        -- extended sequence of the next folio in order
  replayEnd : Nat := 0                     -- the sender's NEXT of the last replay
  rx : Option OpenIn := none
  nakCause : Nat := 0                      -- cause of the error whose replay is awaited, 0 none
  nakAt : Nat := 0                         -- when the next NAK is due
  discarded : Nat := 0                     -- consecutive folios discarded
  credit : SMap Nat := []                  -- credit held, per VC
  cap : SMap Nat := []                     -- the peer's CAP
  high : SMap Nat := []                    -- highest credit of the period
  low : SMap Bool := []                    -- VCs whose window is low
  periodAt : Nat := 0
  reason : Nat := 0
  runAt : Option Nat := none               -- marker run that ends, into PARAM, at this time
  longHold : Bool := false                 -- WAKE was entered from PARAM by the 20 µs rule
  alignDone : Option (Nat × Nat) := none   -- status and slips of the resident LANE.ALIGN that ended
  alignAt : Option Nat := none             -- when it runs again
  firstParam : Option Nat := none          -- when the first PARAM of this entry to PARAM was sent
  lastParam : Nat := 0
  peerParam : List Byte := []              -- the peer's PARAM, once it counts as received
  deadline : Option Nat := none            -- reopen deadline
  openAt : Option Nat := none              -- start of the present stretch of OPEN with RX_LEAN = 0
  goodNs : Nat := 0                        -- such time without error, before that stretch
  qualified : Bool := false
  fatals : List Nat := []                  -- times of lean fatal events
  ackAt : Nat := 0                         -- last advance of the acknowledged sequence, or first unacknowledged folio
  txIdle : Option Nat := none              -- the transmitter is in electrical idle since
  rxIdle : Bool := false                   -- the peer's direction idles
  rxExit : Option Nat := none              -- a burst was detected then and no folio accepted since
  quiet : Option Nat := none               -- the idle condition has held since
  stepDue : Bool := false                  -- the next offset may step TS: the session has just opened
  markAt : Nat := 0                        -- when the next TIME_MARK is due
  markTag : Nat := 0
  t1 : Nat := 0
  t4 : Nat := 0
  timeRx : List TimeMsg := []
  reversed : Bool := false                 -- lane reversal found at training (R43): logical lane n is the port's last lane less n
  rxBuf : List Byte := []                  -- received stream bytes of whole codewords that no folio has taken yet (R92)
  rxFec : Nat := 0                         -- of the codeword position they come from: 0 clean, 1 corrected, 2 uncorrectable
  rxPar : Bool := false                    -- and a lane parity error in it (R91)
  txBuf : List Byte := []                  -- stream bytes launched since the last codeword boundary (R92, R100)
  deriving DecidableEq, Repr


/-- What the block sends to the outside (R8 gives no error completion for an ignored write, so nothing is recorded for one). -/
inductive Out where
  /-- A read of submitter memory by an engine's chart, as an access of a master: engine, master, address, 8-byte words. -/
  | hostRead (engine master addr words : Nat)
  /-- A posted write by a master: address and bytes. -/
  | hostWrite (master addr : Nat) (data : List Byte)
  /-- An MSI-X message of a function: vector, address and data of the table entry. -/
  | msix (fn vec : Nat) (addr data : Word)
  /-- An interrupt to a Steward core. -/
  | coreInt (core : Nat)
  /-- An access fault taken by a Steward core. -/
  | coreFault (core : Nat)
  /-- Data returned to a Steward core's load. -/
  | coreData (core : Nat) (data : List Byte)
  /-- An answer over MCTP, or to Steward's mailbox: binding, code, status, bytes. -/
  | mctp (binding code status : Nat) (body : List Byte)
  /-- A completion record carried over the Meridian bridge. -/
  | bridge (data : List Byte)
  /-- A message to Steward's firmware: 1 HANDOVER_REQ, 2 opaque mailbox message. -/
  | steward (kind : Nat) (body : List Byte)
  /-- What the selected TAP data register returns. -/
  | tap (ir : Nat) (data : List Byte)
  /-- A line of UART1 (R447). -/
  | uart1 (line : List Byte)
  /-- A message leaving a port: port, kind, opcode or code, address, tag, data. -/
  | port (p kind code : Nat) (addr : Nat) (tag : Nat) (data : List Byte)
  /-- Further bytes of a TLP that a port began to send by cut-through (Table 5.2): poisoned, and whether they are its last. -/
  | more (p tag : Nat) (poison : Bool) (data : List Byte) (last : Bool)
  /-- Link credits that a CXL or PCIe port returns (R125): message class as in ADMISSION, and how many. -/
  | credit (p cls n : Nat)
  /-- A link-level act of a port or lane: 1 marker run, 2 idle-exit burst, 3 Hot Reset, 4 train, 5 Disabled, 6 Recovery, 7 Detect.Quiet. -/
  | link (p act arg : Nat)
  /-- Symbols that a lane's transmitter sends out of a lane test (R83, R88): lane, 0 electrical idle, 1 its generator, 2 a loopback, and the symbols. -/
  | lane (l act : Nat) (symbols : List Level)
  /-- The bits, counted from the next word on, that error injection inverts in a lane's live traffic (R87). -/
  | inverted (l : Nat) (mask : List Bool)
  /-- One codeword position of a Trorno port (R90, R92): port, and the 512 symbols of each logical lane. -/
  | codeword (p : Nat) (lanes : List (List Level))
  /-- A request for a DSP's memory by a mover, a slice or Theodolite: port, logical device, DPA, bytes, write data. -/
  | media (p ld addr len : Nat) (write : List Byte)
  /-- An answer of the PLD mailbox of a vPPB: opcode, return code, bytes. -/
  | mailbox (vppb opcode code : Nat) (body : List Byte)
  /-- A dynamic-capacity event record for the host of a PLD: PLD, 0 Add Capacity or 1 Release Capacity, extent (Table 7.9). -/
  | dcEvent (pld typ ext : Nat)
  /-- A 192-bit LED frame (R492). -/
  | led (frame : Nat)
  /-- A MMIO or configuration completion to a host: port, status, data. -/
  | completion (p status : Nat) (data : List Byte)
  /-- A transaction taken by an internal endpoint: endpoint, command, address, tag, data. -/
  | endpoint (ep cmd addr tag : Nat) (data : List Byte)
  deriving DecidableEq, Repr

/-- A transaction, from its header lookup until it has left the device or its closure has arrived (R126-R145, Table 6.3).
Endpoints are router index × 64 + DEP (Table 6.2). -/
structure Txn where
  cmd : Nat := 0                -- Table 6.4
  oc : Nat := 0                 -- Table 5.4
  src : Nat := 0                -- source endpoint
  dst : Nat := 0                -- destination endpoint
  addr : Nat := 0               -- HPA, port address or DPA as forwarded
  len : Nat := 0                -- bytes of data it moves in either direction
  ld : Nat := 0
  mval : Nat := 0               -- ARG[5:0] of a coherence command, MetaValue of a memory command
  tag : Nat := 0
  spid : Nat := 0xFFF
  dpid : Nat := 0xFFF
  flow : Nat := 96
  poison : Bool := false
  posted : Bool := false
  reply : Bool := false         -- it is a response, a writeback or a snoop (R143)
  rstat : Nat := 0
  gen : Nat := 0
  ingress : Nat := 96           -- the port it entered by, 96 none
  cls : Nat := 0                -- 0 MEM, 1 IO, 2 BULK, 3 MGMT (R144)
  kind : Nat := 0               -- the message of Table 8.3 or TLP it came as
  looked : Nat := 0             -- the commit number in force at its lookup
  phase : Nat := 0              -- 0 staged, 1 queued, 2 selected, 3 sent to a partner or memory, 4 at its egress, 5 taken by a slice, 6 split into lines
  cells : Nat := 1              -- cells of the shared buffer
  resv : Nat := 0               -- cells of the response it draws
  held : Bool := false          -- those cells are reserved (R142)
  cut : Bool := false           -- forwarded by cut-through (Table 5.2)
  got : Nat := 0                -- units that passed the ingress check
  units : Nat := 0              -- units in all
  first : Nat := 0              -- first sequence number, once assigned
  count : Nat := 0              -- sequence numbers assigned
  arrived : Nat := 0            -- packets released at the egress
  full : Nat := 0               -- bytes of its data once whole
  sent : Nat := 0               -- bytes that its CXL.io egress has sent before the last packet (Table 5.2)
  bad : Bool := false           -- cancelled (R130)
  home : Option (Nat × Nat) := none   -- the slice and key whose open transaction its delivery closes (R210)
  devload : Nat := 0
  back : Nat := 0               -- 1 + the endpoint that awaits the response, when it is not src
  vc : Nat := 0                 -- Trorno virtual channel it came by
  cost : Nat := 0               -- slots it holds in an ISL's receive store
  key : Nat := 0                -- the line's directory key, of a coherence command at its home
  grant : Nat := 0              -- what the home grants with its data: 1 Cmp-S, 2 Cmp-E
  noData : Bool := false        -- the port drops the data of the answer (Table 8.3)
  parent : Nat := 0             -- 1 + the bulk or CXL.io transaction whose line this is (R216)
  answer : Nat := 0             -- 1 + the local answer its lookup decided (Table 5.1)
  caid : Nat := 0               -- CAID and CD of its Trorno header unit (Table 4.5)
  cd : Nat := 0
  sunk : Bool := false          -- addressed to a partner that is lost: it ends at the port (R123)
  ord : Nat := 0                -- its turn: the order of lookups, and of arrivals at an egress (R133, R139)
  slot : Nat := 0               -- 1 + tile × 16 + slice of the writeback slot it holds (Table 6.5)
  outs : Option Out := none     -- what leaves the port, of an access by a chart, a queue or a dump
  fn : Nat := 0                 -- 1 + the function of the service endpoint it addresses, or 300 + the bridge
  data : List Byte := []
  deriving DecidableEq, Repr

/-- A packet on a plane (Table 6.3); its transaction holds the rest. -/
structure Packet where
  txn : Nat
  cmd : Nat
  src : Nat
  dst : Nat
  oc : Nat
  epoch : Nat
  hops : Nat := 0
  seq : Nat := 0
  arg : Nat := 0                -- ARG of REL, SKIP and CLOSE
  eot : Bool := true
  posted : Bool := false
  gen : Nat := 0
  rstat : Nat := 0
  tag : Nat := 0
  seqd : Bool := false          -- it carries a sequence number
  deriving DecidableEq, Repr

/-- A unit of a cut-through transaction that waits for its MAC epoch (R129). -/
structure MacUnit where
  port : Nat
  cpl : Bool
  tag : Nat
  data : List Byte
  poison : Bool
  bad : Bool
  deriving DecidableEq, Repr

/-- One router of one plane (R162-R164, R170). -/
structure Router where
  inputs : List (Nat × Packet) := []   -- packets arriving, by input 0 +X, 1 −X, 2 +Y, 3 −Y
  inj : List Packet := []              -- injections waiting
  firstIn : Nat := 0
  firstOut : Nat := 0
  wait : Nat := 0                      -- NC cycles the front injection has waited
  starve : Bool := false
  net0 : Int := 0                      -- packets injected minus ejected, epoch 0
  net1 : Int := 0                      -- and epoch 1
  capture : Nat := 0                   -- the error capture register: a header unit (R161)
  deriving DecidableEq, Repr

/-- An ordered stream (R132-R137): source, destination and class. -/
structure Stream where
  next : Nat := 0
  expected : Nat := 0
  unreleased : Nat := 0
  relSince : Nat := 0            -- releases since the last report
  relAt : Option Nat := none     -- clock of the first release not yet reported
  deriving DecidableEq, Repr

/-- An endpoint's proxy and generation (R172-R175). -/
structure Endp where
  proxy : Bool := false
  gen : Nat := 0
  errs : List Packet := []       -- pending ERR responses, at most 64
  handed : List Nat := []        -- transactions handed over (R174)
  leaving : Bool := false        -- Thaw asked; LIVE once the queue is empty
  deriving DecidableEq, Repr

/-- Scheduler state of one flow at one destination (R146). -/
structure Sched where
  tokens : Nat := 0              -- quarter bytes in the GMIN bucket
  last : Nat := 0                -- clock of its last refill
  deficit : Nat := 0
  deriving DecidableEq, Repr

/-- Scheduler state of one destination: pacing in ps, and the round robin's flow. -/
structure Pace where
  freeAt : Nat := 0
  turn : Nat := 0
  deriving DecidableEq, Repr

/-- A request queue's threshold history (R145, R154): clock + 1 values, 0 for never. -/
structure Thr where
  last : Nat := 0                -- credit last withheld on its account
  since : Nat := 0               -- at threshold without a break since
  raised : Bool := false         -- its class 3 event is out
  deriving DecidableEq, Repr

/-- The registers of a bridge that software writes or errors set (R53, R57). -/
structure Bridge where
  uncorr : Nat := 0              -- AER: Uncorrectable Error Status
  log : List Byte := []          -- AER: Header Log
  ras : Nat := 0                 -- CXL RAS: Uncorrectable Error Status
  rasLog : List Byte := []       -- CXL RAS: Header Log
  gpf1 : Nat := 0                -- GPF DVSEC: phase 1 and phase 2 timeouts
  gpf2 : Nat := 0
  acs : Nat := 0                 -- ACS Control
  bytes : SMap Byte := []        -- the other bytes written: configuration space, and the component registers from 0x10000 on; one not listed holds its reset value (log 97)
  deriving DecidableEq, Repr

/-- A host decoder's registers (R180, R182): what the host has written, and the control bits. -/
structure DecReg where
  val : Entry := 0
  committed : Bool := false
  error : Bool := false
  lockOn : Bool := false
  deriving DecidableEq, Repr

/-- A granule of the pool (Table 7.8): 0 DIRTY, 1 SCRUB, 2 CLEAN, 3 HELD, 4 DRAIN; LOST is the member's. -/
structure Granule where
  st : Nat := 0
  ever : Bool := false           -- some extent over it was bound since it was last clean
  drain : Nat := 0               -- commit number below which lookups must have left (DRAIN)
  deriving DecidableEq, Repr

/-- A scrub ZERO in progress (R192). -/
structure Scrub where
  mem : Nat                      -- member: port × 16 + logical device
  first : Nat
  n : Nat
  mover : Nat
  deriving DecidableEq, Repr

/-- A directory entry (Table 9.1); its check bits are a function of the rest. -/
structure DirEnt where
  sharers : BitVec 64 := 0
  tag : Nat := 0
  st : Nat := 0                  -- Table 8.5; 15 quarantined in the backing directory
  owner : Nat := 0
  domain : Nat := 0
  opn : Nat := 0
  deriving DecidableEq, Repr

/-- An on-die way: its entry and its tag word (Table 9.2). -/
structure Way where
  ent : DirEnt := {}
  sext : Nat := 0
  hway : Nat := 0
  modified : Bool := false
  valid : Bool := false
  quar : Bool := false
  deriving DecidableEq, Repr

/-- A line's active transaction (R208, R236): a request, or an eviction when txn is none. -/
structure Active where
  key : Nat
  txn : Option Nat
  stage : Nat := 0               -- 0 backing read outstanding, 1 waits for a way, 2 snoops outstanding, 3 waits for the set-conflict queue
  awaits : List Nat := []        -- agents whose snoop answers are awaited
  toSnoop : List Nat := []       -- agents to be snooped once their open transactions close (R211)
  snoop : Nat := 0               -- the snoop command
  wbDue : List Nat := []         -- agents whose WB must still arrive (WBF = 1)
  wbGot : List Nat := []         -- agents whose WB arrived
  goal : Nat := 0                -- 0 a request, 1 an eviction of the whole entry, 2 the removal of one agent, 3 the release of its region
  agent : Nat := 0               -- that agent
  kept : Nat := 0                -- the owner's kept state
  fwd : Bool := false            -- a WB with FWD = 1 came
  tracker : Bool := false
  cmd : Nat := 0                 -- the request's command and agent, once its snoops are sent
  req : Option Nat := none
  deriving DecidableEq, Repr

/-- An open transaction of a line (R210, R211). -/
structure OpenTx where
  key : Nat
  txn : Nat
  agent : Option Nat
  grant : Bool                   -- it grants ownership
  spid : Nat
  tag : Nat
  ingress : Nat
  deriving DecidableEq, Repr

/-- A Gazetteer slice (R208-R243). -/
structure Slice where
  ready : Bool := false          -- the backing directory is cleared (R243)
  inq : List Nat := []           -- requests that arrived, in the order in which they go on
  token : Nat := 0               -- the request input that goes first (R208)
  fresh : Nat := 0               -- requests that arrived in the present cycle
  sink : List Nat := []          -- must-sink commands that arrived
  conf : List Nat := []          -- conflict list
  scq : List Nat := []           -- set-conflict queue, by key
  act : List Active := []
  opens : List OpenTx := []
  voids : List Nat := []         -- lines whose granting transaction closed with RSTAT = 1
  unc : List Nat := []           -- uncertain sets
  uncAll : Bool := false
  patrol : Nat := 0              -- the next set of its patrol, counted in its own sets
  patrolAt : Nat := 0            -- clock of the last patrol read
  deriving DecidableEq, Repr

/-- A background walk (R222, R225): kind 0 agent loss, 1 agent removal, 2 region release; what it walks for. -/
structure Walk where
  kind : Nat
  obj : Nat
  started : Nat
  slices : Nat := 0              -- slices whose entries have all been walked, bit n for GZn
  engine : Option Nat := none
  deriving DecidableEq, Repr

/-- The forwarding proxy's open snoop at the owner's port (R218). -/
structure Fwd where
  port : Nat
  line : Nat
  kind : Nat
  reqPid : Nat
  reqTag : Nat
  homePid : Nat
  deriving DecidableEq, Repr

/-- One table entry: its committed value, and the commit number that last wrote it (R256). -/
structure TEntry where
  val : Entry := 0
  num : Nat := 0
  deriving DecidableEq, Repr

/-- One drafted entry of a chart (R254): its key, the drafted value, the bits its drafts name (R499),
and the commit number the committed entry held when it was drafted (R258). -/
structure Draft where
  key : Nat
  val : Entry
  mask : Entry
  num : Nat
  deriving DecidableEq, Repr

/-- What an internal chart is run for, and whom its end is reported to (R180, R246, R196, R336). -/
inductive Job where
  /-- A host's commit (on) or removal of the decoder whose table key this is. -/
  | decoder (key : Nat) (on again : Bool)
  /-- ENABLE of a ring slot. -/
  | ring (r : Nat) (on : Bool)
  /-- VF Enable of a USP's PF0: the number of VFs. -/
  | vfEnable (usp n : Nat)
  /-- Add Dynamic Capacity Response of a PLD's host: vPPB, the extents accepted, the extents declined. -/
  | dcAdd (vppb : Nat) (yes no : List Nat)
  /-- Release Dynamic Capacity of a PLD's host. -/
  | dcRelease (vppb : Nat) (exts : List Nat)
  /-- A Fabric Manager API command: MCTP binding, tag, opcode, the macro's word, its block. -/
  | fm (binding tag code : Nat) (word : Word) (block : List Word)
  deriving DecidableEq, Repr

/-- An internal chart waiting for its engine: the tile engine, or 12 for a global one. -/
structure Internal where
  target : Nat
  job : Job
  deriving DecidableEq, Repr

/-- What brought a chart to its engine (R245, R261): a command ring, a resident chart of a kind for a port, or an internal chart. -/
inductive Origin where
  | none
  | ring (r : Nat)
  | resident (kind port : Nat)
  | internal (j : Job)
  deriving DecidableEq, Repr

/-- What the chart of an engine waits for; run: nothing. -/
inductive Wait where
  | run
  | fetchEntry | fetchInstr | fetchData
  | hld (gd : Nat)
  | hget (off cnt : Nat)
  | timer (t : Nat)
  | commit
  | drain (kind target below : Nat) (deadline : Option Nat)
  | macroStep
  deriving DecidableEq, Repr

/-- The live state of one chart engine (R249-R262). idle when origin is none. -/
structure Engine where
  origin : Origin := .none
  wait : Wait := .run
  sub : Nat := 0xFFFF          -- submitter ID, Table 10.2
  tier : Nat := 0              -- 0 Tenant, 1 Host, 2 Fabric, 3 Root
  master : Option Nat := none  -- the master of R37, none for MCTP, Meridian and resident charts
  tag : Word := 0
  notify : Bool := false
  binding : Nat := 0           -- the MCTP binding of a chart from rings 9-11
  cplPos : Nat := 0            -- the completion record reserved at fetch (R247), counted from the COMMIT of EN
  cplGen : Nat := 0            -- which COMMIT of EN that was
  subReset : Bool := false     -- the submitter was reset while the chart runs (R267)
  ninstr : Nat := 0
  ndata : Nat := 0
  caddr : Word := 0
  daddr : Word := 0
  args : List Word := []
  start : Nat := 0             -- clock at the start of fetch (R500)
  serial : Nat := 0            -- the model's own number of the chart (R350: tickets name their chart)
  paused : Nat := 0            -- time spent paused, which R252 does not count
  boundary : Nat := 0          -- clock at the last instruction boundary, from which a pause counts
  imem : SMap Word := []       -- instruction area of chart memory, by instruction (Table 1.9)
  dmem : SMap Word := []       -- data area 0x8000-0xFFFF, by 8-byte word (Table 1.9)
  pc : Nat := 0
  regs : SMap Word := []       -- G1-G15; G0 reads as zero
  flagZ : Bool := false
  flagN : Bool := false
  flagC : Bool := false
  flagV : Bool := false
  status : Nat := 0
  drafts : List Draft := []
  reads : List (Nat × Nat) := []   -- entries read, with the commit number each held (R27)
  epoch : Nat := 0             -- EPOCH of Table 10.7
  ncommit : Nat := 0
  seq : Nat := 0               -- step of a running sequenced macro, 0 before its first step
  seqA : Nat := 0              -- what that macro carries between its steps
  seqB : Nat := 0
  deriving DecidableEq, Repr

/-- A chart delivered with its message (rings 8-11, R248): the entry's words, then its instructions and data words. -/
structure ChartMsg where
  binding : Nat := 0
  entry : List Word
  words : List Word
  deriving DecidableEq, Repr

/-- The live pointers of a command ring (R247), counted from the COMMIT that sets EN. -/
structure RingLive where
  cmdHead : Nat := 0
  cmdTail : Nat := 0
  cplHead : Nat := 0
  cplNext : Nat := 0
  cplTail : Nat := 0             -- the position after the last record written or passed over
  cplEnded : List Nat := []      -- positions above it that are
  gen : Nat := 0                 -- the COMMITs of EN so far
  msgs : List ChartMsg := []
  deriving DecidableEq, Repr

/-- The staged values of a ring configuration slot and its LAST_STATUS (R340, Table 14.6). -/
structure RingSlot where
  enable : Bool := false
  cbase : Word := 0
  qbase : Word := 0
  csize : Nat := 0
  qsize : Nat := 0
  qvec : Nat := 0
  tlim : Nat := 100
  target : Nat := 12
  lastStatus : Nat := 0
  deriving DecidableEq, Repr

/-- A residential start asked of an engine and not yet taken (R261). -/
structure Resident where
  engine : Nat
  kind : Nat
  port : Nat
  deriving DecidableEq, Repr

/-- The commit arbiter (R256): engines whose COMMIT waits, in order of arrival; the front one judged or not. -/
structure Arbiter where
  queue : List Nat := []
  judged : Bool := false
  deriving DecidableEq, Repr

/-- A partner record (Table 12.3). -/
structure Partner where
  st : Nat := 0                 -- 0 EMPTY, 1 SURVEYING, 2 ARRIVED, 3 REFUSED, 4 DETACHING, 5 DEPARTED, 6 LOST, 7 FAILED
  step : Nat := 0
  outcome : Nat := 0
  kind : Nat := 0
  auth : Nat := 0
  flags : Nat := 0              -- bit 0 registered, 1 deferred, 2 IDE active, 3 presence by pin, 4 slot powered
  nld : Nat := 0
  vendor : Nat := 0
  device : Nat := 0
  cls : Nat := 0
  serial : Nat := 0
  width : Nat := 0
  rate : Nat := 0
  proto : Nat := 0
  chip : Nat := 0xFF
  arriveTs : Nat := 0
  departTs : Nat := 0
  rdLat : Nat := 0
  rdBw : Nat := 0
  arrivals : Nat := 0
  meas : Nat := 0
  ldGran : SMap Nat := []
  deriving DecidableEq, Repr

/-- A Survey run in progress (R298): its engine, the clock at the start of its step, and what it carries between steps. -/
structure SurveyRun where
  engine : Nat
  began : Nat := 0
  prev : Option Nat := none      -- SERIAL of the record before the run, if it had one
  perst : Bool := false          -- PERST# has been released
  grans : List Nat := []         -- granules that the partner states for each logical device
  todo : List (Nat × Nat) := []  -- logical devices to be registered, with their granules
  reg : Option Nat := none       -- status of the registration chart that ended
  deriving DecidableEq, Repr

/-- A slot power channel as the slot controller holds it (R317-R328, Tables 13.3, 13.4). -/
structure SlotCh where
  st : Nat := 0                 -- 0 OFF, 1 RAMP, 2 QUAL, 3 ON, 4 LATCHED, 5 WAIT_FEED
  trip : Nat := 0
  cmdOn : Bool := false
  enPin : Bool := false
  pg : Bool := false
  inLimit : Bool := false
  foldback : Bool := false
  gateA : Bool := false
  gateB : Bool := false
  okA : Bool := false
  okB : Bool := false
  activeB : Bool := false
  vout : Nat := 0               -- the monitor ADC's readings, in the units of Table 13.3
  isense : Nat := 0
  feedA : Nat := 0
  feedB : Nat := 0
  peak : Nat := 0
  pgAt : Nat := 0               -- clock at which PG last rose
  pgSince : Bool := false       -- PG has been asserted since the ramp began
  limitUs : Nat := 0            -- time in limit counted before the present episode, in µs
  limitAt : Nat := 0            -- clock at which IN_LIMIT last rose or fell
  qualAt : Nat := 0             -- clock at which the qualification count was last 0
  handover : Option Nat := none -- clock at which the active gate was turned off
  driven : Bool := false        -- the incoming gate is driven and not yet enhanced
  validAt : Nat := 0            -- clock at which feed A last became valid
  eff : Entry := 0              -- the settings applied (R316)
  ramp : Entry := 0             -- the settings of the running ramp: SLEW, PLIM, START_T
  qual : Nat := 20              -- the PG_QUAL of the running qualification
  fresh : Bool := false         -- a settings entry was committed and not yet applied
  deriving DecidableEq, Repr

/-- Theodolite and the TAP (R370-R375). -/
structure Debug where
  ir : Nat := 0                   -- selected data register, 0 BYPASS
  boundary : Nat := 0             -- boundary scan register
  nonce : Option (List Byte) := none
  scope : Nat := 0                -- SCOPE bits open, 0: none
  expiry : Nat := 0
  access : Option (List Byte) := none   -- request outstanding
  result : List Byte := []        -- last ACCESS register content returned
  token : Option (List Byte) := none    -- token shifted in, awaiting its verdict
  deriving DecidableEq, Repr

/-- An event record before it is written (Table 16.3), with its target queue (R381). -/
structure EvRec where
  queue : Nat
  esid : Nat
  subj : Nat
  ts : Nat
  suppressed : Nat := 0
  payload : List Nat := []
  deriving DecidableEq, Repr

/-- A rate-limit window of one ESID, SUBJ and target queue (R382). -/
structure RateWin where
  esid : Nat
  subj : Nat
  queue : Nat
  limit : Nat
  ends : Nat
  count : Nat := 0
  last : EvRec
  deriving DecidableEq, Repr

/-- The registers and live state of one event queue (Table 16.6, Table 16.7, R386-R388). -/
structure EvQueue where
  base : Nat := 0
  enable : Bool := false
  vec : Nat := 0
  ien : Bool := false
  size : Nat := 0
  modCnt : Nat := 1
  modTime : Nat := 0
  ovf : Bool := false
  faulted : Bool := false
  tail : Nat := 0
  phase : Bool := false
  head : Nat := 0
  lost : Nat := 0
  nextSeq : Nat := 0
  icount : Nat := 0
  ifirst : Nat := 0
  deriving DecidableEq, Repr

/-- Event delivery: the pending store of 4,096 records, the rate windows and the queues. -/
structure Events where
  store : List EvRec := []
  wins : List RateWin := []
  queues : SMap EvQueue := []
  deriving DecidableEq, Repr

/-- An Almanac record (Table 16.8, Table 16.9). typ 1 COUNT, 2 EXTREME, 3 HIST; the body fields of the other types stay 0. -/
structure AlmRec where
  gen : Nat := 0
  typ : Nat := 0
  flags : Nat := 0
  metric : Nat := 0
  subj : Nat := 0
  serial : Nat := 0
  boot : Nat := 0
  tOpen : Nat := 0
  tLast : Nat := 0
  count : Nat := 0
  firstVal : Nat := 0
  lastVal : Nat := 0
  minV : Nat := 0
  tMin : Nat := 0
  maxV : Nat := 0
  tMax : Nat := 0
  samples : Nat := 0
  sum : Nat := 0
  lo : Nat := 0
  width : Nat := 0
  bins : List Nat := []
  deriving DecidableEq, Repr

/-- An open record in SRAM with its eMRAM slot, its span, and its last write (R394, R396). -/
structure OpenRec where
  slot : Nat
  rcd : AlmRec
  span : Nat
  written : Nat
  changed : Bool
  deriving DecidableEq, Repr

/-- The Almanac aggregator and its eMRAM area (R390-R397). -/
structure Almanac where
  opened : Nat := 0                 -- records opened in the device's life
  openRecs : List OpenRec := []
  slots : SMap AlmRec := []         -- the 20,480 slots as eMRAM holds them
  next : Nat := 0
  foundUsed : Nat := 0
  missed : Nat := 0
  missedFor : List (Nat × Nat) := []  -- (metric, subject) whose next record carries MISSED
  recent : List Nat := []           -- times of the openings of the last 1 s
  waiting : List (Nat × AlmRec) := []   -- writes waiting while the bridge takes none
  cursors : SMap Nat := []          -- window CURSOR by PF0 port; 96 is Steward's window
  deriving DecidableEq, Repr

/-- The performance counters (R403-R415): live values, latched values with the TS of their latch, and window counts. -/
structure Counters where
  live : SMap Nat := []
  latched : SMap Nat := []
  latchTs : SMap Nat := []          -- TS of the last latch, at 0, and of tile t's counters at 1 + t (R415)
  winAcc : SMap Nat := []           -- bytes of the running window of a window counter
  winStart : SMap Nat := []         -- TS at which that window began
  nextTick : Nat := 1000000         -- TS of the next latch tick (PERIOD 10 × 100 µs)
  sched : Entry := BitVec.ofNat 256 (0x3F * 2 ^ 66 + 2 ^ 72 + 10 * 2 ^ 80)   -- the dump schedule in effect (R413)
  schedNew : Bool := false          -- a schedule committed since the last tick
  dumpSeq : Nat := 0
  dumpMissed : Nat := 0             -- MISSED of the next block
  dumpBusy : Bool := false          -- a block is being written
  dumpBlock : List Byte := []       -- the block being written
  dumpAddr : Nat := 0
  dumpMaster : Nat := 0
  dumpDest : Nat := 0
  deriving DecidableEq, Repr

/-- A captured packet waiting in a trace buffer (R418): its 32-byte record. -/
structure TraceBuf where
  held : List (List Word) := []
  records : Nat := 0
  dropped : Nat := 0
  full : Bool := false
  lastCycle : Nat := 0
  deriving DecidableEq, Repr

/-- The live state of a general timer (R402): its next expiry, and whether it drives its pin. -/
structure TimerLive where
  next : Option Nat := none
  driving : Bool := false
  pulseEnd : Option Nat := none
  deriving DecidableEq, Repr

/-- A mover descriptor in its slot (R345-R350): its 8 words, who submitted it, and how far it has come. -/
structure Desc where
  words : List Word := []
  sub : Nat := 0xFFFF
  func : Option Nat := none       -- the function entry of the submitter (DM_LIMIT, STATE), if it has one
  gen : Nat := 0
  master : Option Nat := none
  issue : Nat := 0                -- issue count of the ticket (R350)
  engine : Nat := 0               -- the engine whose chart posted it
  chart : Nat := 0                -- the serial number of that chart
  order : Nat := 0                -- order of acceptance (R348)
  mover : Option Nat := none
  progress : Nat := 0             -- bytes completed
  stage : Nat := 0                -- of the line at progress: 0 not begun, 1 source read out, 2 destination read out, 3 write out
  line : List Byte := []          -- its source data
  badLine : Bool := false         -- its source was poisoned
  crc : Word := 0                 -- DIGEST register
  differ : Option Nat := none     -- COMPARE: offset of the first differing byte
  stopped : Bool := false         -- stopped by Frost at a 4 KiB boundary (R351)
  finished : Bool := false
  waited : Bool := false          -- a MOVER.WAIT reported it
  status : Nat := 0
  known : Bool := false            -- its outcome is known
  res1 : Word := 0
  res2 : Word := 0
  deriving DecidableEq, Repr

/-- The MSI-X table, Function Mask and pending bits of one function (R344). -/
structure Msix where
  addr : SMap Word := []
  data : SMap Word := []
  mask : BitVec 8 := 0xFF
  fnMask : Bool := false
  enable : Bool := false
  pba : BitVec 8 := 0
  deriving DecidableEq, Repr

/-- PF0's own control registers and its SR-IOV state (R336, R341). -/
structure PfCtl where
  vfRings : Nat := 1
  vfStatus : Nat := 0
  vfEnable : Bool := false
  numVfs : Nat := 0
  deriving DecidableEq, Repr

/-- A doorbell latched while its VF is frozen or its tile is frozen (R352, R462): kind 0 CMD_TAIL, 1 CPL_HEAD, 2 EQ_HEAD. -/
structure Latched where
  kind : Nat
  obj : Nat
  value : Nat
  deriving DecidableEq, Repr

/-- What is held for a VF that is not ACTIVE (R351, R352). -/
structure FrozenVf where
  latched : List Latched := []
  events : List EvRec := []
  lost : Nat := 0
  deadline : Option Nat := none   -- 100 ms of R351
  deriving DecidableEq, Repr

/-- An answer that reached a mover: how it was answered (RSTAT, or 4 poisoned) and its data. -/
structure Landed where
  mover : Nat
  rstat : Nat
  data : List Byte
  deriving DecidableEq, Repr

/-- The service endpoints: functions' live state, rings' staging, MSI-X, descriptors, frozen VFs. -/
structure Service where
  slots : SMap RingSlot := []
  pf : SMap PfCtl := []
  msix : SMap Msix := []
  config : SMap Byte := []        -- configuration space as written, by function × 4096 + offset
  descs : SMap Desc := []         -- the 1,024 descriptor slots
  issues : SMap Nat := []         -- issue count by slot
  nextOrder : Nat := 0
  nextChart : Nat := 1            -- the model's own serial number of the next chart
  landed : List Landed := []      -- answers that movers have not used yet
  frozen : SMap FrozenVf := []
  deriving DecidableEq, Repr

/-- One entry of the key list (Table 18.3). -/
structure KeyEnt where
  pub : List Byte := []
  purpose : Nat := 0
  state : Nat := 0
  origin : Nat := 0
  deriving DecidableEq, Repr

/-- A stored firmware image (Table 18.4): its Cartouche, its bytes, and whether its holder marks it valid. -/
structure Image where
  cart : List Byte := []
  bytes : List Byte := []
  valid : Bool := false
  deriving DecidableEq, Repr

/-- The SECURITY area of eMRAM (R421, R422, R428, R438, R439, R445, R429) and the lock regions Meridian keeps there. -/
structure Security where
  keys : SMap KeyEnt := []
  anchors : SMap (List Byte) := []
  svn1 : Nat := 0
  svn2 : Nat := 0
  boot : Nat := 0
  owned : Bool := false
  ownDig : List Byte := List.replicate 64 0
  policy : Nat := 0
  fieldLock : BitVec 8 := 0
  admitMask : BitVec 96 := 0
  prefBank : Nat := 0
  lastCdi : List Byte := []
  lockRegions : SMap Entry := []
  deriving DecidableEq, Repr

/-- An open firmware staging (R429). -/
structure Staging where
  kind : Nat
  target : Nat
  cart : List Byte
  got : List Byte
  last : Nat
  deriving DecidableEq, Repr

/-- A live update in progress (R443): the step reached, the slot and bank it uses, HANDOVER_MS' end, and whether READY came. -/
structure LiveUpd where
  step : Nat
  slot : Nat
  bank : Nat
  deadline : Nat
  ready : Bool
  deriving DecidableEq, Repr

/-- An SPDM session (R432, R433, R354, R356). -/
structure Session where
  transport : Nat := 0
  port : Nat := 0
  deadline : Nat := 0
  saveSeq : Nat := 0
  restoreSeq : Nat := 0
  peer : Nat := 0
  keyGen : Nat := 0
  updates : Nat := 0             -- KEY_UPDATEs: they change the session's data keys, not its export master secret (log 90)
  deriving DecidableEq, Repr

/-- A measurement report on its way to Meridian (R435): the commit number and the words of the entries written. -/
structure Report where
  k : Nat
  entries : List (Nat × Nat × Entry)
  due : Nat
  deriving DecidableEq, Repr

/-- Meridian: firmware, staging, identity, sessions, measurements (R419-R447). -/
structure Meridian where
  running : Bool := false
  restartAt : Option Nat := none
  copy : Nat := 0                 -- the running eMRAM copy
  mer0 : Image := {}
  mer1 : Image := {}
  flashA : Image := {}
  flashB : Image := {}
  staging : Option Staging := none
  staged : Option Nat := none     -- the bank that FW_END last marked valid
  upd : Option LiveUpd := none
  nonce : Option (List Byte) := none
  sessions : SMap Session := []
  spdmVersion : Nat := 0
  spdmState : Nat := 0            -- 0 not started, 1 after GET_VERSION, 2 after GET_CAPABILITIES, 3 algorithms negotiated
  chain : List Byte := List.replicate 64 0   -- E
  chainK : Nat := 0
  reports : List Report := []
  stwVersion : Nat := 0
  stwSvn : Nat := 0
  stwBank : Nat := 0xFF
  stwDigest : List Byte := List.replicate 64 0
  startCommit : Nat := 0
  aliasSeed : List Byte := []         -- the running Alias seed
  deriving DecidableEq, Repr

/-- Steward's cores and its register space (R440-R442, Table 18.11). -/
structure Steward where
  held : BitVec 8 := 0xFF
  running : Bool := false
  entry : Word := 0
  bootKind : Nat := 0
  slot : Nat := 0
  apertures : SMap Word := []
  mailTx : List Byte := []
  mailRx : List Byte := []
  uartBaud : Nat := 115200
  uartTx : List Byte := []
  uartRx : List Byte := []
  deriving DecidableEq, Repr

/-- The MCTP endpoint (R444, R445). bindings 0 SMBus, 1 I3C, 2 + p PCIe VDM of port p. -/
structure Mctp where
  eids : SMap Nat := []
  i3cDynamic : Option Nat := none
  discarded : Nat := 0
  fmLimit : Nat := 8192
  bgOpcode : Nat := 0
  bgRunning : Bool := false
  bgReturn : Nat := 0
  bgExt : Nat := 0                -- the chart status it ended with (R61)
  deriving DecidableEq, Repr

/-- The Legend's fields that change (R266). -/
structure Legend where
  lgen : Nat := 0
  merVer : Word := 0
  stwVer : Word := 0
  deriving DecidableEq, Repr
/-- SECURITY as shipped (R422): four enabled entries of ORIGIN Ahnikar and trust anchor slot 0; the key bytes are not in the spec. -/
def shippedSecurity : Security where
  keys := [(0, { purpose := 1, state := 1 }), (1, { purpose := 2, state := 1 }),
           (2, { purpose := 4, state := 1 }), (3, { purpose := 8, state := 1 })]

/-- Boot milestones and resets in progress (R449-R459, R482). Times are clock values. -/
structure Boot where
  straps : Nat := 0               -- the 24 strap bits latched (R456)
  pwrOk : Bool := false
  reference : Nat := 0            -- the rise of PWR_OK, or what R452 puts in its place
  strapped : Bool := false
  hbm : Bool := false
  dirClear : Bool := false
  settings : Bool := false
  steward : Bool := false         -- the cores were released, or Steward is held under R426
  released : Nat := 0             -- tiles whose HOLD_BOOT hold a RELEASE has ended, bit n for Tn (R459)
  banksTried : Nat := 0           -- Steward banks found not valid in this boot
  ready : Bool := false
  holdOver : Bool := false        -- the 1,000 ms of R459 have passed
  warm : Option Nat := none       -- SYS_RESET_n low since
  thermtrip : Bool := false
  deriving DecidableEq, Repr

/-- TS_SYNC, slewing and TS_PPS (R469, R470, R491). -/
structure TimeSync where
  lastEdge : Option Nat := none   -- clock of the last valid edge
  slew : Int := 0                 -- ns still to be slewed out
  nextPps : Nat := 1000000000     -- TS of the next multiple of 10^9
  ppsEnd : Option Nat := none     -- clock at which the pulse falls
  deriving DecidableEq, Repr

/-- A tile's Frost in progress, and what is latched while it is not LIVE (R462). -/
structure Frost where
  bound : Nat := 0                -- clock at which the drain bound passes
  engine : Option Nat := none     -- the engine that waits in TILE.FROST
  lost : Bool := false            -- MER.RESET scope 1: links are lost, and the tile is reset after
  latched : List Latched := []
  deriving DecidableEq, Repr

/-- The whole state. -/
structure State where
  /-- Live state of the 384 lanes (R70, R79, R87). -/
  lanes : SMap LaneLive
  /-- Trorno ports (R100-R124). -/
  isls : SMap Isl
  /-- Ports with a managed detach in progress (R62, R309). -/
  detaching : SMap Bool
  /-- Clock + 1 at which each port entered a low-power state (LOWPWR_US, Table 17.2). -/
  lowSince : SMap Nat
  /-- Reference pairs that show edges (R75). -/
  refPair : SMap Bool
  /-- Active lanes of each port at a reduced L0p width (R52), 0 none. -/
  l0pWidth : SMap Nat
  /-- Ports that train again after a wake from L2 (R52). -/
  woken : SMap Bool
  /-- The transactions in the device, by serial number in the order of their lookups (R126). -/
  txns : SMap Txn
  /-- The model's own serial number of the next transaction. -/
  nextTxn : Nat
  /-- The routers of both planes, by plane × 48 + index (R155-R170). -/
  routers : SMap Router
  /-- Ordered streams, by (source × 4,096 + destination) × 8 + class (R132-R137). -/
  streams : SMap Stream
  /-- Early packets held by the resequencers (R134). -/
  early : List Packet
  /-- Endpoints' proxies and generations (R172-R175). -/
  endps : SMap Endp
  /-- Flow schedulers, by destination endpoint × 97 + flow (R146). -/
  scheds : SMap Sched
  /-- Egress pacing, by destination endpoint (R146, R148). -/
  paces : SMap Pace
  /-- Threshold history of request queues (R145, R154). -/
  thrs : SMap Thr
  /-- The old epoch's route tables while a plane drains, by the keys of tables 0x08 and 0x09 (R170). -/
  routeOld : SMap Entry
  /-- REL, SKIP and CLOSE packets that reached their tile and await their step (R130, R135, R137). -/
  arrived : List Packet
  /-- Credit returns queued on each ISL, by port × 8 + VC, in slots (R116). -/
  islRet : SMap Nat
  /-- Units whose MAC epoch has not been checked, in order of arrival (R129). -/
  macUnits : List MacUnit
  /-- Bridges (R53): 65 × VCS + vPPB, 65 × VCS + 64 for its USP's vPPB, 4160 + port for the bridge that the fabric manager reaches by port. -/
  bridges : SMap Bridge
  /-- Decoder registers of USPs and of DSP vPPBs, by the key of their table entry (R180, R182). -/
  decRegs : SMap DecReg
  /-- Pool granules, by member × 2^28 + granule; an unlisted registered granule is DIRTY (R191). -/
  granules : SMap Granule
  /-- Pool members that were lost: their granules are LOST (R191). -/
  poolLost : SMap Bool
  /-- HDM decoder 0 of each registered member as Ihlyon programmed it: its length in granules, with Lock On Commit (R186). -/
  member0 : SMap Nat
  /-- Scrubs in progress (R192). -/
  scrubs : List Scrub
  /-- Clock + 1 at which each offered or releasing extent took that state (R193). -/
  offers : SMap Nat
  /-- Releasing extents whose 10 s event is out (R193). -/
  overdue : SMap Bool
  /-- vPPBs whose slot shows Presence Detect Changed (R185). -/
  presence : SMap Bool
  /-- Resets of each VCS's virtual configuration state (R64). -/
  vcsReset : SMap Nat
  /-- Ports of a VCS toward which viral was propagated (R57). -/
  viral : SMap Bool
  /-- Internal charts waiting for an engine (R180, R246, R336). -/
  internals : List Internal
  /-- The 16 Gazetteer slices (R208-R243). -/
  slices : SMap Slice
  /-- On-die ways, by (slice × 4,096 + set) × 16 + way (R231, Table 9.2). -/
  ways : SMap Way
  /-- The 15-bit tree pseudo-LRU of each on-die set (R234). -/
  plru : SMap Nat
  /-- The backing directory in HBM, by set × 8 + way (R229, R231). -/
  backing : SMap DirEnt
  /-- Walks in progress (R222, R225). -/
  walks : List Walk
  /-- Forwarding proxies awaiting their owner's answer (R218). -/
  fwds : List Fwd
  /-- Lost agents whose walk has finished (R202, R222). -/
  lostWalked : SMap Bool
  /-- IDE streams of each port: bit 0 keys established (R56). -/
  ideUp : SMap Nat
  /-- DSPs whose link negotiated CXL.cache (R202). -/
  cxlCache : SMap Bool
  /-- Ports whose link came up without CXL: a USP among them forwards nothing (R50). -/
  noCxl : SMap Bool
  /-- The BI-ID that each USP's host committed, plus 1 (R202). -/
  biIds : SMap Nat
  /-- The commands waiting, first in, first out. -/
  pending : List Instr
  /-- The model's own time in ns since power-on; an idle step advances it by 1. -/
  clock : Nat
  /-- The model's own counter behind the free values: a step that uses one advances it. -/
  freeCtr : Nat
  /-- The model's own record of what the block sent to the outside, oldest first. -/
  out : List Out
  /-- The committed tables of Table 11.7, by table × 2^24 + index; an unlisted entry holds its reset value. -/
  tab : SMap TEntry
  /-- The chip's 64-bit commit number (R256). -/
  commitNum : Nat
  /-- Fabric-private HBM (Table 1.8), by 36-bit byte address; an unlisted byte reads 0. -/
  hbm : List Host.Cell
  /-- CE0-CE15 (R249-R262). -/
  engines : SMap Engine
  /-- The commit arbiter (R256). -/
  arb : Arbiter
  /-- Live ring pointers (R247). -/
  rings : SMap RingLive
  /-- The last ring served, by tile engine; 12 for the global engines (R261). -/
  ringTurn : SMap Nat
  /-- Resident charts waiting for their engine (R261). -/
  residents : List Resident
  /-- Meridian's pause of the engines, with the clock at which it began (R262). -/
  paused : Option Nat
  /-- The claims table (Table 10.9); an unlisted entry is free with OWNER 0xFFFF. -/
  claims : SMap Nat
  /-- The clock and the number of the last device update (R258). -/
  updated : Option (Nat × Nat)
  /-- The partner record of each port (R304, Table 12.3). -/
  partners : SMap Partner
  /-- Ports at which presence is qualified (R297). -/
  present : SMap Bool
  /-- Ports whose presence has qualified and for which no run was started yet (R294). -/
  arriving : SMap Bool
  /-- Survey runs in progress, by port (R298). -/
  surveys : SMap SurveyRun
  /-- Capacity whose registration is deferred: logical devices and granules, by port (R302). -/
  deferred : SMap (List (Nat × Nat))
  /-- Clock + 1 of the first attention press of a pending detach request, by port (R307). -/
  attn : SMap Nat
  /-- Clock + 1 at which step 3 of a port's detach began (R306). -/
  detachAt : SMap Nat
  /-- Clock + 1 at which a port's loss was last set (R309). -/
  lostAt : SMap Nat
  /-- Granules that a port's partner last stated for each of its logical devices (R301). -/
  stated : SMap (List Nat)
  /-- The 32 slot power channels (R311-R331). -/
  slots : SMap SlotCh
  /-- The 16 lock regions as the 153 fence units hold them (R368, R369). -/
  locks : SMap Entry
  /-- Theodolite and the TAP (R370-R375). -/
  dbg : Debug
  /-- Event delivery (R381-R389). -/
  ev : Events
  /-- The Almanac (R390-R397). -/
  alm : Almanac
  /-- The performance counters and dumps (R403-R416). -/
  cnt : Counters
  /-- The four trace buffers (R417, R418). -/
  traces : SMap TraceBuf
  /-- The general timers' live state (R402). -/
  timers : SMap TimerLive
  /-- The service endpoints and data movers (R332-R360). -/
  svc : Service
  /-- The SECURITY area of eMRAM (R421, R422). -/
  sec : Security
  /-- Meridian (R419-R447). -/
  mer : Meridian
  /-- The Steward cores and register space (R440-R442). -/
  stw : Steward
  /-- The MCTP endpoint (R444, R445). -/
  mctp : Mctp
  /-- The Legend's changing fields (R266). -/
  legend : Legend
  /-- The field-lock word as the engines and the arbiter hold it (R439). -/
  fieldLock : BitVec 8
  /-- The timestamp counter TS in ns (R468). -/
  ts : Nat
  /-- Boot milestones and resets in progress (R449-R459). -/
  boot : Boot
  /-- TS_SYNC, slewing and TS_PPS (R469, R491). -/
  tsync : TimeSync
  /-- Tiles being frozen, powered or reset (R462-R464). -/
  frost : SMap Frost
  /-- SETTINGS in eMRAM: the stored values of fields whose Reset column reads eMRAM, by table key (R21, R421). -/
  settings : SMap (Option (Entry × Entry))
  /-- Port resets in progress, with the clock at which each may end (R453). -/
  portResets : SMap (Option Nat)
  /-- FABRIC_RDY (R491). -/
  fabricRdy : Bool
  /-- PERST# pins driven low, by GPIO; true: asserted (R321, R490). -/
  pinLow : SMap Bool
  /-- RX_TXN + TX_TXN of each port when last seen by the LED sampler (R492). -/
  ledLast : SMap Nat
  /-- Clock of each port's last change of RX_TXN or TX_TXN, plus 1 (R492). -/
  ledWhen : SMap Nat
  /-- The alternation between LED frames (R492). -/
  ledPhase : Bool
  /-- Clock of the next LED frame (R492). -/
  ledNext : Nat
  /-- The operating point that each tile runs at (R461). -/
  oppNow : SMap Nat
  deriving DecidableEq, Repr

/-- The block right after reset; values the spec does not give are named in notes/assumptions. -/
def State.reset : State where
  lanes := []
  isls := []
  detaching := []
  lowSince := []
  refPair := []
  l0pWidth := []
  woken := []
  txns := []
  nextTxn := 1
  routers := []
  streams := []
  early := []
  endps := []
  scheds := []
  paces := []
  thrs := []
  routeOld := []
  arrived := []
  islRet := []
  macUnits := []
  bridges := []
  decRegs := []
  granules := []
  poolLost := []
  member0 := []
  scrubs := []
  offers := []
  overdue := []
  presence := []
  vcsReset := []
  viral := []
  internals := []
  slices := []
  ways := []
  plru := []
  backing := []
  walks := []
  fwds := []
  lostWalked := []
  ideUp := []
  cxlCache := []
  noCxl := []
  biIds := []
  pending := []
  clock := 0
  freeCtr := 0
  out := []
  tab := []
  commitNum := 0
  hbm := []
  engines := []
  arb := {}
  rings := []
  ringTurn := []
  residents := []
  paused := none
  claims := [(112, 0x1C000), (113, 0x1C000)]
  updated := none
  partners := []
  present := []
  arriving := []
  surveys := []
  deferred := []
  attn := []
  detachAt := []
  lostAt := []
  stated := []
  slots := []
  locks := []
  dbg := {}
  ev := {}
  alm := {}
  cnt := {}
  traces := []
  timers := []
  svc := {}
  sec := shippedSecurity
  mer := {}
  stw := {}
  mctp := {}
  legend := {}
  fieldLock := 0
  ts := 0
  boot := {}
  tsync := {}
  frost := []
  settings := []
  portResets := []
  fabricRdy := false
  pinLow := []
  ledLast := []
  ledWhen := []
  ledPhase := false
  ledNext := 10000000
  oppNow := []

/-- Why a command stops with a fault. No command of this block has one. -/
inductive Fault where
  /-- Raised by nobody: the spec gives every error of this block as a status, an event or an answer. Safe. -/
  | none
  deriving DecidableEq, Repr

/-- Why a command is refused. -/
inductive Refusal where
  /-- A command whose meaning is not written; raised by exec's arm of that command alone. Safe. -/
  | notModelled (mnemonic : String)
  deriving DecidableEq, Repr

end Sys2Proof.Machine
end

