-- ==== Sys2Proof/Machine/Ops.lean ====
section
/-! DEFINITION. Named reads and writes of the state that every family shares: tables, counters' bases, engines, HBM, claims, the outside record. -/
namespace Sys2Proof.Machine

/-- The value a step answers with. -/
abbrev Res := Host.Outcome State Fault Refusal

/-- Recording what the block sends outside. -/
def emit (s : State) (o : Out) : State := { s with out := s.out ++ [o] }

/-- Recording a list of what the block sends outside. -/
def emits (s : State) (os : List Out) : State := { s with out := s.out ++ os }

/-! Tables. -/

/-- The entry of a key whose reset value nothing has written over. -/
def entryReset (k : Nat) : TEntry := ⟨tabReset (keyTab k) (keyIdx k), 0⟩

/-- The committed entry i of table t, with the commit number that wrote it. -/
def tabEntry (s : State) (t i : Nat) : TEntry := smGet (entryReset (tkey t i)) s.tab (tkey t i)

/-- The committed value of entry i of table t. -/
def tabVal (s : State) (t i : Nat) : Entry := (tabEntry s t i).val

/-- A field of a committed entry. -/
def tabFld (s : State) (t i lo w : Nat) : Nat := fld (tabVal s t i) lo w

/-- A store of table entries with the entry of a key replaced. -/
def tabStore (m : SMap TEntry) (k : Nat) (e : TEntry) : SMap TEntry := smSet (entryReset k) m k e

/-- Replacing a committed entry. -/
def setTab (s : State) (t i : Nat) (v : Entry) (num : Nat) : State :=
  { s with tab := tabStore s.tab (tkey t i) ⟨v, num⟩ }

/-- Changing live bits that share an entry with committed fields; the entry's commit number stays. -/
def setLive (s : State) (t i lo w v : Nat) : State :=
  { s with tab := tabStore s.tab (tkey t i) ⟨setFld (tabVal s t i) lo w v, (tabEntry s t i).num⟩ }

/-- The listed indices of a table. -/
def listed (s : State) (t : Nat) : List Nat :=
  (s.tab.filter fun e => keyTab e.1 == t).map fun e => keyIdx e.1

/-! Ports, as the tables give them. -/

/-- Bifurcation profile of a tile (Table 2.1). -/
def profileOf (s : State) (tile : Nat) : Nat := tabFld s 0x0B tile 0 3

/-- Width code of local index k under a profile: 0 absent, 1 x4, 2 x8, 3 x16 (Table 2.1). -/
def profileWidth (prof k : Nat) : Nat :=
  match prof with
  | 0 => 1
  | 1 => if k % 2 = 0 then 2 else 0
  | 2 => if k % 4 = 0 then 3 else 0
  | 3 => if k = 0 then 3 else if k = 4 ∨ k = 6 then 2 else 0
  | 4 => if k = 0 ∨ k = 2 then 2 else if k = 4 then 3 else 0
  | 5 => if k = 0 then 3 else if 4 ≤ k then 1 else 0
  | 6 => if k < 4 then 1 else if k = 4 then 3 else 0
  | 7 => if k = 0 ∨ k = 2 then 2 else if 4 ≤ k then 1 else 0
  | _ => 0

/-- WIDTH of a port, from its tile's profile (Table 2.3). -/
def portWidth (s : State) (p : Nat) : Nat := profileWidth (profileOf s (p / 8)) (p % 8)

/-- The port exists: its tile's profile creates it (R39). -/
def portExists (s : State) (p : Nat) : Bool := decide (p < 96) && portWidth s p != 0

/-- Lanes of a width code. -/
def widthLanes (w : Nat) : Nat := match w with | 1 => 4 | 2 => 8 | 3 => 16 | _ => 0

/-- The first lane of a port: lane 4k of its tile (Table 2.1). -/
def firstLane (p : Nat) : Nat := (p / 8) * 32 + 4 * (p % 8)

/-- The lanes of a port. -/
def portLanes (s : State) (p : Nat) : List Nat :=
  (List.range (widthLanes (portWidth s p))).map fun i => firstLane p + i

/-- The port whose lane this is. -/
def laneMemberOf (s : State) (l p : Nat) : Bool :=
  decide (firstLane p ≤ l ∧ l < firstLane p + widthLanes (portWidth s p))

/-- See laneMemberOf: the port of a lane, none if the profile gives the lane to no port. -/
def lanePort (s : State) (l : Nat) : Option Nat :=
  (List.range 8).findSome? fun k => let p := l / 32 * 8 + k; if laneMemberOf s l p then some p else none

/-- ROLE of a port (Table 2.2): 0 disabled, 1 USP, 2 DSP, 3 ISL, 4 FMP. -/
def roleOf (s : State) (p : Nat) : Nat := tabFld s 0x01 p 0 3

/-! Lanes. -/

/-- The live state of a lane. -/
def laneOf (s : State) (l : Nat) : LaneLive := smGet {} s.lanes l
/-- Replacing it. -/
def setLane (s : State) (l : Nat) (x : LaneLive) : State := { s with lanes := smSet {} s.lanes l x }

/-- Bits per 10 ns at a rate code (Table 3.1, Table 2.3). -/
def rateBits (code : Nat) : Nat := match code with | 0 => 25 | 1 => 50 | 2 => 80 | 3 => 160 | 4 => 320 | 5 => 640 | 6 => 640 | _ => 1280

/-- Bits that a locked checker has compared since they were last added up, at TEST_RATE (R71, R86). -/
def checkerBits (s : State) (l : Nat) : Nat :=
  let x := laneOf s l
  if x.lockAt = 0 then 0 else (s.clock + 1 - x.lockAt) * rateBits (tabFld s 0x03 l 52 4) / 10

/-- The lane's status as a read shows it: BIT_CNT runs while the checker is locked (R71, R281). -/
def laneShown (s : State) (l : Nat) : Entry := setFld (tabVal s 0x04 l) 80 48 (min (2 ^ 48 - 1) (tabFld s 0x04 l 80 48 + checkerBits s l))

/-! The fabric. -/

/-- The fabric die runs: the masters were released at the strap latch (R368, R425, R456), and no thermal trip has stopped the clocks (R482). -/
def fabricRuns (s : State) : Bool := s.boot.strapped && !s.boot.thermtrip

/-! Engines. -/

/-- A chart engine. -/
def engineOf (s : State) (e : Nat) : Engine := smGet {} s.engines e

/-- Replacing a chart engine. -/
def setEngine (s : State) (e : Nat) (x : Engine) : State := { s with engines := smSet {} s.engines e x }

/-- A general register; G0 reads as zero. -/
def regGet (x : Engine) (r : Nat) : Word := if r = 0 then 0 else smGet 0 x.regs r

/-- Writing a general register; a write to G0 is ignored. -/
def regSet (x : Engine) (r : Nat) (v : Word) : Engine :=
  if r = 0 then x else { x with regs := smSet 0 x.regs r v }

/-- A data word of chart memory by its word number in the data area. -/
def dataWord (x : Engine) (k : Nat) : Word := smGet 0 x.dmem k

/-- Writing words of the data area. -/
def setData (x : Engine) (k : Nat) (ws : List Word) : Engine := { x with dmem := smSetRun 0 x.dmem k ws }

/-! Fabric-private HBM. -/

/-- Bytes of HBM. -/
def hbmRead (s : State) (a n : Nat) : List Byte := smGetRun 0 s.hbm a n

/-- Writing bytes of HBM. -/
def hbmWrite (s : State) (a : Nat) (bs : List Byte) : State := { s with hbm := smSetRun 0 s.hbm a bs }

/-! Claims. -/

/-- A claims table entry: PERM in bit 16, OWNER below (Table 10.9). -/
def claimOf (s : State) (i : Nat) : Nat := smGet 0xFFFF s.claims i

/-- Replacing a claims table entry. -/
def setClaim (s : State) (i v : Nat) : State := { s with claims := smSet 0xFFFF s.claims i v }

/-- The owner of a claim entry, 0xFFFF if free. -/
def claimOwner (s : State) (i : Nat) : Nat := claimOf s i % 0x10000

/-- R265: the status a draft ends with that needs claim i: 0 held, CONFLICT held by another, DENIED free. -/
def claimCheck (s : State) (sub i : Nat) : Nat :=
  if claimOwner s i = sub then 0 else if claimOwner s i = 0xFFFF then 1 else 2

/-- Every byte of [a, a + n) lies in one HBM partition, which the function returns (Table 1.8). -/
def partitionOf (a n : Nat) : Option Nat :=
  if 0x800000000 ≤ a ∧ a + n ≤ 0xC00000000 ∧ 0 < n ∧ (a - 0x800000000) / 0x40000000 = (a + n - 1 - 0x800000000) / 0x40000000
  then some ((a - 0x800000000) / 0x40000000) else none

/-! Submitters and functions. -/

/-- The function number of a submitter ID, where it has one: VF v, or 2,048 + port (Table 10.2, Table 16.2). -/
def subFunc (sub : Nat) : Option Nat :=
  let kind := sub / 0x2000
  let idx := sub % 0x2000
  if kind = 0 ∧ idx < 2048 then some idx
  else if (kind = 1 ∨ kind = 3) ∧ idx < 96 then some (2048 + idx) else none

/-- A function entry's field. -/
def funcFld (s : State) (f lo w : Nat) : Nat := tabFld s 0x3D f lo w
/-- STATE of a function (Table 14.2); a PF0 or FMP function is ACTIVE while its port has the role. -/
def funcState (s : State) (f : Nat) : Nat :=
  if f < 2048 then funcFld s f 0 4 else if roleOf s (f - 2048) = 1 ∨ roleOf s (f - 2048) = 4 then 1 else 0
/-- GEN of a function. -/
def funcGen (s : State) (f : Nat) : Nat := funcFld s f 4 4
/-- The port behind which a function sits: its USP field for a VF, its own port for PF0 or an FMP function. -/
def funcPort (s : State) (f : Nat) : Nat := if f < 2048 then funcFld s f 16 7 else f - 2048
/-- The submitter ID of a function. -/
def funcSub (s : State) (f : Nat) : Nat :=
  if f < 2048 then f else if roleOf s (f - 2048) = 4 then 0x6000 + (f - 2048) else 0x2000 + (f - 2048)

/-- CHIP of the Atlas entry (Table 11.8). -/
def chipOf (s : State) : Nat := tabFld s 0x0C 0 0 8

/-- The next free value's index: the counter that a step advances. -/
def tick (s : State) : State := { s with freeCtr := s.freeCtr + 1 }

end Sys2Proof.Machine
end

