-- ==== Sys2Proof/Machine/Almanac.lean ====
section
/-! DEFINITION. The Almanac aggregator (R390-R397): metrics, open records, closing, slots and their writing to eMRAM. -/
namespace Sys2Proof.Machine

/-- What the aggregator needs of the rest of the state: the metric table, TS, the boot count, whether the bridge takes writes. -/
structure AlmView where
  tab : SMap TEntry
  ts : Nat
  boot : Nat
  bridge : Bool

/-- The view of a state. -/
def almView (s : State) : AlmView := ⟨s.tab, s.ts, s.sec.boot, s.mer.running⟩

/-- The selection entry of a metric. -/
def metricEntry (tab : SMap TEntry) (m : Nat) : Entry := (smGet (entryReset (tkey 0x3B m)) tab (tkey 0x3B m)).val

/-- The metrics that can be enabled: the default ones and those written (R399). -/
def metricIds (tab : SMap TEntry) : List Nat :=
  List.range 16 ++ ((tab.filter fun e => keyTab e.1 == 0x3B && decide (16 ≤ keyIdx e.1)).map fun e => keyIdx e.1)

/-- GEN advances by 1 modulo 65,536 with every change (R391). -/
def almTouch (r : AlmRec) : AlmRec := { r with gen := (r.gen + 1) % 65536 }

/-- Sending a record to its slot: written at once, or waiting while the bridge takes none (R396). -/
def almWrite (v : AlmView) (a : Almanac) (slot : Nat) (r : AlmRec) : Almanac :=
  if v.bridge then { a with slots := smSet {} a.slots slot r } else { a with waiting := a.waiting ++ [(slot, r)] }

/-- Closing an open record with further flags (R394, R396): OPEN clears and the record is written. -/
def almClose (v : AlmView) (a : Almanac) (o : OpenRec) (flags : Nat) : Almanac :=
  let r := almTouch { o.rcd with flags := (o.rcd.flags - o.rcd.flags % 2) ||| flags }
  almWrite v { a with openRecs := a.openRecs.filter fun x => x.slot != o.slot } o.slot r

/-- The length of a span in ns: 1 hour, 1 day, 30 days; one boot has none (Table 16.10). -/
def spanNs (sp : Nat) : Option Nat :=
  match sp with
  | 1 => some 3600000000000
  | 2 => some 86400000000000
  | 3 => some 2592000000000000
  | _ => none

/-- The record's span has run out since T_OPEN. -/
def spanOut (v : AlmView) (o : OpenRec) : Bool :=
  match spanNs o.span with
  | none => false
  | some n => decide (o.rcd.tOpen + n ≤ v.ts)

/-- The open record with the oldest T_LAST. -/
def oldestOpen : List OpenRec → Option OpenRec
  | [] => none
  | o :: os => match oldestOpen os with
    | none => some o
    | some p => if o.rcd.tLast ≤ p.rcd.tLast then some o else some p

/-- The next Recent slot in turn from n that holds no open record (R395); n tries bound the search. -/
def freeRecent (a : Almanac) (n : Nat) : Nat → Nat
  | 0 => n
  | k + 1 => if a.openRecs.any (fun o => o.slot == n) then freeRecent a (if n = 20479 then 4096 else n + 1) k else n

/-- The slot the next record takes (R395). -/
def nextSlot (a : Almanac) : Nat :=
  if a.foundUsed < 4096 then a.foundUsed else freeRecent a (if a.next < 4096 then 4096 else a.next) 513

/-- Opening a record for (m, subj) (R394, R395, R396). -/
def almOpen (v : AlmView) (a : Almanac) (m subj : Nat) : Almanac :=
  let a := if 512 ≤ a.openRecs.length then
      match oldestOpen a.openRecs with
      | some o => almClose v a o 4
      | none => a
    else a
  let slot := nextSlot a
  let me := metricEntry v.tab m
  let found := a.foundUsed < 4096
  let missed := a.missedFor.contains (m, subj)
  let r : AlmRec :=
    { gen := 1, typ := fld me 61 2, flags := 1 + (if found then 2 else 0) + (if missed then 8 else 0), metric := m,
      subj := subj, serial := a.opened, boot := v.boot, tOpen := v.ts, tLast := v.ts, lo := if fld me 61 2 = 3 then fld me 16 24 else 0,
      width := if fld me 61 2 = 3 then fld me 0 16 else 0, bins := if fld me 61 2 = 3 then List.replicate 16 0 else [] }
  let a := { a with
    opened := a.opened + 1
    foundUsed := if found then a.foundUsed + 1 else a.foundUsed
    next := if found then a.foundUsed + 1 else if slot = 20479 then 4096 else slot + 1
    missedFor := a.missedFor.filter fun q => q != (m, subj)
    recent := v.ts :: (a.recent.filter fun t => decide (v.ts < t + 1000000000))
    openRecs := a.openRecs ++ [{ slot := slot, rcd := r, span := fld me 59 2, written := v.ts, changed := false }] }
  almWrite v a slot r

/-- The bin of a value (R392). -/
def histBin (me : Entry) (x : Nat) : Nat :=
  let lo := fld me 16 24
  if fld me 57 1 = 1 then
    if x < lo then 0 else (findFrom (fun n => decide (x < lo * 2 ^ n)) 1 14).getD 15
  else if x < lo then 0 else min 15 ((x - lo) / fld me 0 16)

/-- Adding to a saturating count of 2^w: the value, and whether it saturated. -/
def satAdd (w x y : Nat) : Nat × Bool := if x + y < 2 ^ w then (x + y, false) else (2 ^ w - 1, true)

/-- Adding 1 to one of the sixteen bins. -/
def bumpBin (bins : List Nat) (b : Nat) : List Nat :=
  (List.range 16).map fun i => if i = b then (satAdd 32 (nth 0 bins i) 1).1 else nth 0 bins i

/-- One update of a record with a value (R391, R392, Table 16.9). -/
def almApply (v : AlmView) (me : Entry) (x : Nat) (r : AlmRec) : AlmRec :=
  let r := almTouch { r with tLast := v.ts }
  let sat (r : AlmRec) (b : Bool) : AlmRec := if b then { r with flags := r.flags ||| 64 } else r
  match fld me 61 2 with
  | 1 =>
    let c := satAdd 64 r.count (if fld me 55 2 = 1 then x else 1)
    sat { r with count := c.1, firstVal := if r.samples = 0 then x else r.firstVal, lastVal := x, samples := 1 } c.2
  | 2 =>
    let n := satAdd 64 r.samples 1
    let m := satAdd 64 r.sum x
    sat { r with
      minV := if r.samples = 0 ∨ x < r.minV then x else r.minV
      tMin := if r.samples = 0 ∨ x < r.minV then v.ts else r.tMin
      maxV := if r.samples = 0 ∨ r.maxV < x then x else r.maxV
      tMax := if r.samples = 0 ∨ r.maxV < x then v.ts else r.tMax
      samples := n.1
      sum := m.1 } (n.2 || m.2)
  | 3 =>
    let n := satAdd 64 r.samples 1
    sat { r with bins := bumpBin r.bins (histBin me x), samples := n.1 }
      (n.2 || decide (nth 0 r.bins (histBin me x) = 2 ^ 32 - 1))
  | _ => r

/-- An update for metric m and subject subj (R394): the record of an expired span closes first; at most 64 records open in any 1 s. -/
def almUpdate (v : AlmView) (a : Almanac) (m subj x : Nat) : Almanac :=
  let me := metricEntry v.tab m
  let isIt := fun (o : OpenRec) => o.rcd.metric == m && o.rcd.subj == subj
  let a := match a.openRecs.find? isIt with
    | some o => if spanOut v o then almClose v a o 0 else a
    | none => a
  let live := (a.recent.filter fun t => decide (v.ts < t + 1000000000)).length
  if !(a.openRecs.any isIt) && decide (64 ≤ live) then
    { a with missed := (satAdd 32 a.missed 1).1,
             missedFor := if a.missedFor.contains (m, subj) then a.missedFor else a.missedFor ++ [(m, subj)] }
  else
    let a := if a.openRecs.any isIt then a else almOpen v a m subj
    { a with openRecs := modFirst isIt (fun o => { o with rcd := almApply v me x o.rcd, changed := true }) a.openRecs }

/-- Feeding every enabled metric of a source (R390, R392): kind 0 an occurrence of ESID src, kind 2 a sample of gauge src. -/
def almFeed (v : AlmView) (a : Almanac) (gauge : Bool) (src subj : Nat) (vals : List Nat) : Almanac :=
  (metricIds v.tab).foldl (fun a m =>
    let me := metricEntry v.tab m
    let sk := fld me 55 2
    if fld me 63 1 = 1 ∧ fld me 44 11 = src ∧ (if gauge then sk = 2 else sk < 2) then
      almUpdate v a m (if fld me 58 1 = 1 then subj else 0xFFFF) (nth 0 vals (if gauge then 0 else fld me 41 3))
    else a) a

/-- Closing every open record, with RESET set, before a reset that reaches the aggregator (R396). -/
def almFlush (v : AlmView) (a : Almanac) : Almanac := a.openRecs.foldl (fun a o => almClose v a o 16) a

/-- The bytes of a record (Tables 16.8 and 16.9). -/
def almBytes (r : AlmRec) : List Byte :=
  let body : List Byte :=
    match r.typ with
    | 1 => natBytes 8 r.count ++ natBytes 8 r.firstVal ++ natBytes 8 r.lastVal ++ List.replicate 64 0
    | 2 => natBytes 8 r.minV ++ natBytes 8 r.tMin ++ natBytes 8 r.maxV ++ natBytes 8 r.tMax ++ natBytes 8 r.samples ++
           natBytes 8 r.sum ++ List.replicate 40 0
    | 3 => natBytes 4 r.lo ++ natBytes 4 r.width ++ ((List.range 16).flatMap fun i => natBytes 4 (nth 0 r.bins i)) ++
           natBytes 8 r.samples ++ List.replicate 8 0
    | _ => List.replicate 88 0
  natBytes 2 r.gen ++ natBytes 1 r.typ ++ natBytes 1 r.flags ++ natBytes 2 r.metric ++ natBytes 2 r.subj ++ natBytes 8 r.serial ++
    natBytes 4 r.boot ++ natBytes 4 0 ++ natBytes 8 r.tOpen ++ natBytes 8 r.tLast ++ body

/-- The record at a slot, with its open state as SRAM holds it (R397). -/
def almRecordAt (a : Almanac) (slot : Nat) : AlmRec :=
  match a.openRecs.find? fun o => o.slot == slot with
  | some o => o.rcd
  | none => match (a.waiting.reverse).find? fun w => w.1 == slot with
    | some w => w.2
    | none => smGet {} a.slots slot

end Sys2Proof.Machine
end

