-- ==== Sys2Proof/Machine/Events.lean ====
section
/-! DEFINITION. Raising an event (R379-R383, R390): the Almanac, routing, rate limits, the pending store; and counting (R403-R407). -/
namespace Sys2Proof.Machine

/-! Counters. -/

/-- A counter's arming entry. -/
def armEntry (tab : SMap TEntry) (i : Nat) : Entry := (smGet (entryReset (tkey 0x3C i)) tab (tkey 0x3C i)).val

/-- Index of port counter n (Table 17.1). -/
def portCtr (p n : Nat) : Nat := 24 * p + n
/-- Index of tile counter n. -/
def tileCtr (t n : Nat) : Nat := 0x0900 + 32 * t + n
/-- Index of slice counter n. -/
def sliceCtr (g n : Nat) : Nat := 0x0A80 + 16 * g + n
/-- Index of router counter n of a plane. -/
def routerCtr (pl r n : Nat) : Nat := 0x0B80 + 384 * pl + 8 * r + n
/-- Index of fence counter n of a master. -/
def fenceCtr (m n : Nat) : Nat := 0x0E80 + 2 * m + n
/-- Index of device counter n. -/
def devCtr (n : Nat) : Nat := 0x0FC0 + n

/-- Adding to an event or cycle counter (R404): only while EN = 1; it stops at 2^48 − 1 when SAT = 1, else it wraps. -/
def bump (tab : SMap TEntry) (c : Counters) (i n : Nat) : Counters :=
  let a := armEntry tab i
  if fld a 0 1 = 0 then c
  else
    let x := smGet 0 c.live i + n
    { c with live := smSet 0 c.live i (if fld a 2 1 = 1 then min x (2 ^ 48 - 1) else x % 2 ^ 48) }

/-- Counting. -/
def count (s : State) (i n : Nat) : State := { s with cnt := bump s.tab s.cnt i n }

/-- A peak counter takes a higher value, while EN = 1 (R404). -/
def peak (s : State) (i v : Nat) : State :=
  if fld (armEntry s.tab i) 0 1 = 1 ∧ smGet 0 s.cnt.live i < v then
    { s with cnt := { s.cnt with live := smSet 0 s.cnt.live i (min v (2 ^ 48 - 1)) } } else s

/-- A minimum counter takes a lower value, while EN = 1 (R404). -/
def lowest (s : State) (i v : Nat) : State :=
  if fld (armEntry s.tab i) 0 1 = 1 ∧ v < smGet 0 s.cnt.live i then
    { s with cnt := { s.cnt with live := smSet 0 s.cnt.live i v } } else s

/-- Port counters 0-3, filtered by OCMASK (Table 17.2), with their window counts (R406): rx or tx bytes and transactions. -/
def countPort (s : State) (p : Nat) (tx : Bool) (oc bytes : Nat) : State :=
  let o := if tx then 1 else 0
  let one (s : State) (n v : Nat) : State :=
    if fld (armEntry s.tab (portCtr p n)) 10 6 / 2 ^ oc % 2 = 1 then count s (portCtr p n) v else s
  let s := one (one s o bytes) (2 + o) 1
  if fld (armEntry s.tab (portCtr p o)) 10 6 / 2 ^ oc % 2 = 1 then
    { s with cnt := { s.cnt with winAcc := smMod 0 s.cnt.winAcc (portCtr p (20 + o)) (· + bytes) } } else s

/-! Events. -/

/-- The rate limit, in ns, that an event's defining rule states (R102, R179, R203, R237, R241, R376, Table 13.5). -/
def ruleGap (esid : Nat) : Nat :=
  match esid with
  | 0x101 => 1000000
  | 0x280 => 1000000
  | 0x300 => 1000000
  | 0x303 => 1000000
  | 0x306 => 1000000
  | 0x500 => 1000000
  | 0x501 => 1000000
  | 0x414 => 1000000000
  | _ => 0

/-- What an event's subject names (Table 16.2, Tables 12.4, 13.5, 15.9): 1 a port, 2 a function, 3 a ring, 4 a fence master, 0 other. -/
def subjKind (esid : Nat) : Nat :=
  if esid ∈ [0x080, 0x081, 0x082, 0x100, 0x101, 0x102, 0x103, 0x104, 0x105, 0x181, 0x280, 0x281, 0x282, 0x300, 0x307, 0x580, 0x581] then 1
  else if 0x400 ≤ esid ∧ esid ≤ 0x409 then 1
  else if esid ∈ [0x480, 0x481, 0x482] then 2
  else if esid = 0x380 then 3
  else if esid = 0x500 ∨ esid = 0x501 then 4
  else 0

/-- The owner queue of an occurrence (R383). -/
def ownerQueue (s : State) (esid subj : Nat) : Option Nat :=
  let portQ (p : Nat) : Option Nat := if p < 96 ∧ (roleOf s p = 1 ∨ roleOf s p = 4) then some (2048 + p) else none
  match subjKind esid with
  | 1 => portQ subj
  | 2 => if subj < 2144 then some subj else none
  | 3 => subFunc (tabFld s 0x30 subj 116 16)
  | 4 => portQ subj
  | _ => none

/-- The queues an occurrence goes to (R383, R388): EQ_FAULT goes to QUEUE only. -/
def targetQueues (s : State) (esid subj : Nat) : List Nat :=
  let r := tabVal s 0x3A esid
  let q := fld r 52 12
  let own := (ownerQueue s esid subj).toList
  if esid = 0x483 then [q]
  else match fld r 50 2 with
    | 0 => []
    | 1 => [q]
    | 2 => own
    | _ => if own = [q] then [q] else q :: own

/-- Entering a released record into the pending store (R381): merged with a matching one, refused and counted when the store is full. -/
def enterStore (tab : SMap TEntry) (ec : Events × Counters) (r : EvRec) : Events × Counters :=
  let same := fun (x : EvRec) => x.esid == r.esid && x.subj == r.subj && x.queue == r.queue
  let e := ec.1
  if e.store.any same then
    ({ e with store := modFirst same (fun x => { x with suppressed := min 65535 (x.suppressed + 1 + r.suppressed) }) e.store }, ec.2)
  else if 4096 ≤ e.store.length then (e, bump tab ec.2 (devCtr 0) 1)
  else ({ e with store := e.store ++ [r] }, ec.2)

/-- The limit that governs an occurrence in ns: the longer of the rule's and GAP (R382). -/
def gapOf (tab : SMap TEntry) (esid : Nat) : Nat :=
  max (ruleGap esid) (fld ((smGet (entryReset (tkey 0x3A esid)) tab (tkey 0x3A esid)).val) 40 8 * 1000000)

/-- The window of an ESID, SUBJ and queue. -/
def isWin (esid subj queue : Nat) (w : RateWin) : Bool := w.esid == esid && w.subj == subj && w.queue == queue

/-- Releasing what a window that has ended counted, and the window that starts then (R382). -/
def releaseWin (tab : SMap TEntry) (ec : Events × Counters) (w : RateWin) : Events × Counters :=
  let e := ec.1
  if w.count = 0 then ({ e with wins := e.wins.filter fun x => !(isWin w.esid w.subj w.queue x) }, ec.2)
  else enterStore tab
    ({ e with wins := modFirst (isWin w.esid w.subj w.queue) (fun x => { x with ends := x.ends + x.limit, count := 0 }) e.wins }, ec.2)
    { w.last with suppressed := min 65535 (w.count - 1) }

/-- One occurrence toward one queue (R382): released, or counted in its window. -/
def toQueue (tab : SMap TEntry) (ts : Nat) (ec : Events × Counters) (r : EvRec) : Events × Counters :=
  let lim := gapOf tab r.esid
  if lim = 0 then enterStore tab ec r
  else
    let ec := match ec.1.wins.find? (isWin r.esid r.subj r.queue) with
      | some w => if w.ends < ts then releaseWin tab ec w else ec
      | none => ec
    match ec.1.wins.find? (isWin r.esid r.subj r.queue) with
    | some w =>
      if ts ≤ w.ends then
        ({ ec.1 with wins := modFirst (isWin r.esid r.subj r.queue) (fun x => { x with count := x.count + 1, last := r }) ec.1.wins }, ec.2)
      else
        let ws := modFirst (isWin r.esid r.subj r.queue) (fun x => { x with limit := lim, ends := ts + lim, count := 0 }) ec.1.wins
        enterStore tab ({ ec.1 with wins := ws }, ec.2) r
    | none =>
      enterStore tab ({ ec.1 with wins := ec.1.wins ++ [{ esid := r.esid, subj := r.subj, queue := r.queue, limit := lim, ends := ts + lim, last := r }] }, ec.2) r

/-- The three parts of the state that an occurrence changes. -/
def occur (s : State) (esid subj : Nat) (p : List Nat) : Events × Almanac × Counters :=
  let ec := (targetQueues s esid subj).foldl (fun ec q =>
    toQueue s.tab s.ts ec { queue := q, esid := esid, subj := subj, ts := s.ts, payload := p }) (s.ev, s.cnt)
  (ec.1, almFeed (almView s) s.alm false esid subj p, ec.2)

/-- An occurrence of an ESID with its subject and payload (R379, R380). -/
def raise (s : State) (esid subj : Nat) (p : List Nat) : State :=
  { s with ev := (occur s esid subj p).1, alm := (occur s esid subj p).2.1, cnt := (occur s esid subj p).2.2 }

/-- An occurrence, followed by ALMANAC_BACKLOG when more than 256 Almanac writes now wait (R396). -/
def raiseEvent (s : State) (esid subj : Nat) (p : List Nat) : State :=
  if s.alm.waiting.length ≤ 256 ∧ 256 < (raise s esid subj p).alm.waiting.length then
    raise (raise s esid subj p) 0x582 0 [] else raise s esid subj p

/-- A sample of a gauge (R393). -/
def feedGauge (s : State) (g subj v : Nat) : State := { s with alm := almFeed (almView s) s.alm true g subj [v] }

end Sys2Proof.Machine
end

