-- ==== Sys2Proof/Machine/Fence.lean ====
section
/-! DEFINITION. Fence units and lock regions (R361-R369), and where a submitter's memory lies (R37, R440). -/
namespace Sys2Proof.Machine

/-- Regions of a master's fence unit (Table 15.1). -/
def fenceRegions (m : Nat) : Nat := if m < 96 then 64 else if m < 144 then 32 else if m < 152 then 16 else if m = 152 then 8 else 0

/-- SPACE of a region (Table 15.2). -/
def regSpace (v : Entry) : Nat := fld v 0 2
/-- START of a region: bits [63:6], and [5:2] in MMIO and configuration. -/
def regStart (v : Entry) : Nat := fld v 70 58 * 64 + (if 2 ≤ regSpace v then fld v 8 4 * 4 else 0)
/-- END of a region. -/
def regEnd (v : Entry) : Nat := fld v 12 58 * 64 + (if 2 ≤ regSpace v then fld v 4 4 * 4 else 0)

/-- A request that a master issues: its space, matched address, length and kinds (R363, R364). -/
structure Access where
  space : Nat
  q : Nat
  len : Nat
  rd : Bool
  wr : Bool
  deriving DecidableEq, Repr

/-- The region overlaps the span and does not permit a kind of the request (R365). -/
def regDenies (v : Entry) (a : Access) : Bool :=
  decide (regSpace v = a.space) && decide (regStart v < a.q + a.len ∧ a.q < regEnd v ∧ regStart v < regEnd v) &&
  ((a.rd && fld v 2 1 == 0) || (a.wr && fld v 3 1 == 0))

/-- Lock region l is enforced and denies; a Theodolite whose scope opens its CLASS passes it (R365, R369). -/
def lockDenies (s : State) (m : Nat) (a : Access) (l : Nat) : Bool :=
  let v := smGet 0 s.locks l
  fld v 131 1 == 1 && regDenies v a && !(m == 152 && s.dbg.scope / 2 ^ (fld v 128 3) % 2 == 1)

/-- Judgement of a request (R365): the status 0, LOCKED or DENIED, and the region that decided it. -/
def judgeAccess (s : State) (m : Nat) (a : Access) : Nat × Nat :=
  match (List.range 16).find? (lockDenies s m a) with
  | some l => (9, l)
  | none =>
    match (listed s 0x39).find? fun i => i / 64 == m && decide (i % 64 < fenceRegions m) && regDenies (tabVal s 0x39 i) a with
    | some i => (1, i % 64)
    | none => (0, 0)

/-- What a denial records (R376): the count of the fence unit, and FENCE_DENY or LOCK_DENY. -/
def recordDenial (s : State) (m : Nat) (a : Access) (v : Nat × Nat) : State :=
  if v.1 = 0 then s
  else
    let kind := (if a.rd then 1 else 0) + (if a.wr then 2 else 0)
    raiseEvent (count s (fenceCtr m (if v.1 = 9 then 1 else 0)) 1) (if v.1 = 9 then 0x501 else 0x500) m [v.2, kind, a.q]

/-- A judged request: its status and the state after what a denial records. -/
def fenceCheck (s : State) (m : Nat) (a : Access) : Nat × State :=
  ((judgeAccess s m a).1, recordDenial s m a (judgeAccess s m a))

/-- What a Steward core address reaches (Table 18.10). -/
inductive CorePath where
  | hbm (a : Nat)
  | regs (off : Nat)
  | aperture (space q : Nat)
  | outside
  deriving DecidableEq, Repr

/-- The Steward core map: HP0, the partitions Steward holds, the register space, the apertures (R440). -/
def coreMap (s : State) (a n : Nat) : CorePath :=
  if a + n ≤ 0x40000000 then .hbm (0x800000000 + a)
  else if 0x400000000 ≤ a ∧ a + n ≤ 0x400000000 + 14 * 0x40000000 then
    let p := (a - 0x400000000) / 0x40000000 + 2
    if claimOwner s (112 + p) = 0x4000 ∧ (a - 0x400000000) / 0x40000000 = (a + n - 1 - 0x400000000) / 0x40000000 then
      .hbm (0x800000000 + p * 0x40000000 + (a - 0x400000000) % 0x40000000)
    else .outside
  else if 0x1000000000 ≤ a ∧ a + n ≤ 0x1000400000 then .regs (a - 0x1000000000)
  else if 0x10000000000 ≤ a ∧ a + n ≤ 0x10000000000 + 16 * 0x40000000 then
    let i := (a - 0x10000000000) / 0x40000000
    let w := smGet 0 s.stw.apertures i
    if wfld w 0 2 = 0 ∨ i ≠ (a + n - 1 - 0x10000000000) / 0x40000000 then .outside
    else .aperture (wfld w 0 2) (wfld w 30 34 * 2 ^ 30 + (a - 0x10000000000) % 0x40000000)
  else .outside

/-- Where a submitter's memory access goes (R37, R276, Table 10.1). -/
inductive SubPath where
  | none
  | ext (master space q : Nat)
  | hbm (a : Nat)
  | regs (off : Nat)
  | outside
  deriving DecidableEq, Repr

/-- The path of an access of n bytes at address a of a submitter with this master. -/
def subPath (s : State) (sub : Nat) (master : Option Nat) (a n : Nat) : SubPath :=
  match master with
  | none => .none
  | some m =>
    if sub / 0x2000 = 2 then
      match coreMap s a n with
      | .hbm h => .hbm h
      | .regs o => .regs o
      | .aperture sp q => .ext m sp q
      | .outside => .outside
    else .ext m 0 a

end Sys2Proof.Machine
end

