-- ==== Sys2Proof/Machine/Endpoints.lean ====
section
/-! DEFINITION. Endpoints of the Graticule, the transactions between them, and accesses that the device's own blocks issue (Tables 6.1, 6.2, R132, R147, R158). -/
namespace Sys2Proof.Machine

/-! Endpoints (Tables 6.1, 6.2). -/

/-- Router of attach point a of a tile. -/
def tileRouter (t a : Nat) : Nat := 8 * (3 * (t % 2) + a) + t / 2
/-- The endpoint of a port. -/
def portEp (p : Nat) : Nat := tileRouter (p / 8) (p % 8 % 3) * 64 + p % 8
/-- The service endpoint, or fabric management function, of a port. -/
def svcEp (p : Nat) : Nat := portEp p + 8
/-- The endpoint of a slice. -/
def sliceEp (g : Nat) : Nat := (8 * (1 + g / 2 % 4) + 6 + g / 2 / 4) * 64 + g % 2
/-- The endpoint of a chart engine. -/
def engineEp (e : Nat) : Nat := if e < 12 then tileRouter e 2 * 64 + 16 else 7 * 64 + (e - 12)
/-- The endpoint of a mover. -/
def moverEp (m : Nat) : Nat := 46 * 64 + m
/-- The Meridian bridge. -/
def bridgeEp : Nat := 47 * 64

/-- The HBM port that serves an address of fabric-private HBM: memory router m = 4 × A[12] + A[14:13] (R157, Tables 6.1, 6.2). -/
def hbmEp (a : Nat) : Nat :=
  let m := 4 * nbits a 12 1 + nbits a 13 2
  (8 * (1 + m % 4) + 6 + m / 4) * 64 + 2

/-- The router of an endpoint. -/
def epRouter (e : Nat) : Nat := e / 64
/-- The endpoint number. -/
def epDep (e : Nat) : Nat := e % 64

/-- The tile and attach point of a tile router. -/
def routerTile (r : Nat) : Option (Nat × Nat) :=
  if routerX r < 6 then some (2 * routerX r + routerY r / 3, routerY r % 3) else none

/-- The memory router's number. -/
def routerMem (r : Nat) : Option Nat :=
  if 6 ≤ routerX r ∧ 1 ≤ routerY r ∧ routerY r ≤ 4 then some (4 * (routerX r - 6) + routerY r - 1) else none

/-- The tile of an endpoint. -/
def epTile (e : Nat) : Option Nat := (routerTile (epRouter e)).map (·.1)

/-- The port whose endpoint this is. -/
def epPort (e : Nat) : Option Nat :=
  match routerTile (epRouter e) with
  | some (t, a) => if epDep e < 8 ∧ epDep e % 3 = a then some (8 * t + epDep e) else none
  | none => none

/-- The slice whose endpoint this is. -/
def epSlice (e : Nat) : Option Nat :=
  match routerMem (epRouter e) with
  | some m => if epDep e < 2 then some (2 * m + epDep e) else none
  | none => none

/-- An endpoint's proxy state and generation. -/
def endpOf (s : State) (e : Nat) : Endp := smGet {} s.endps e
/-- Replacing it. -/
def setEndp (s : State) (e : Nat) (x : Endp) : State := { s with endps := smSet {} s.endps e x }

/-! Transactions. -/

/-- A transaction. -/
def txnOf (s : State) (i : Nat) : Txn := smGet {} s.txns i
/-- Replacing a transaction. -/
def setTxn (s : State) (i : Nat) (t : Txn) : State := { s with txns := smPut s.txns i t }
/-- A transaction has left the device. -/
def dropTxn (s : State) (i : Nat) : State := { s with txns := smDel s.txns i }
/-- Entering a new transaction; its number is its turn. -/
def newTxn (s : State) (t : Txn) : State := { s with txns := smPut s.txns s.nextTxn { t with ord := s.nextTxn }, nextTxn := s.nextTxn + 1 }
/-- A transaction takes its turn anew, behind all that are in the device: an answer at its arrival, a request at an egress (R133, R139). -/
def lineUp (s : State) (i : Nat) (t : Txn) : State := { s with txns := smPut s.txns i { t with ord := s.nextTxn }, nextTxn := s.nextTxn + 1 }

/-- Insertion by turn. -/
def insTurn (e : Nat × Txn) : List (Nat × Txn) → List (Nat × Txn)
  | [] => [e]
  | x :: xs => if e.2.ord ≤ x.2.ord then e :: x :: xs else x :: insTurn e xs

/-- The serial numbers of the transactions that p accepts, by their turns. -/
def txnsWhere (s : State) (p : Txn → Bool) : List Nat := ((s.txns.filter fun e => p e.2).foldr insTurn []).map (·.1)

/-! What charts, event queues and dumps send toward a port's partner (R132, R147): a CXL.io access of the endpoint that issues it. -/

/-- An access of n bytes toward the partner of a port, in a class and a flow; o is what leaves the port. One toward no port is recorded at once. -/
def sendOut (s : State) (src p oc flow n : Nat) (posted : Bool) (key : Nat) (o : Out) : State :=
  if p < 96 then
    newTxn s { cmd := 0x30, oc := oc, src := src, dst := portEp p, len := n, full := 16 + (if posted then n else 0), flow := flow, cls := 1, phase := 1,
               kind := if posted then 81 else 80, posted := posted, looked := s.commitNum, gen := (endpOf s src).gen, key := key, outs := some o }
  else emit s o

/-- The flow of a submitter's traffic (R147): the port of its function, 96 without one. -/
def subFlow (s : State) (sub : Nat) : Nat := match subFunc sub with | some f => funcPort s f | none => 96

/-- A span cut at every 4 KiB boundary: the largest payload and read request of CXL.io (R57), each piece with its offset, address and length. -/
def pieces (off a n : Nat) : Nat → List (Nat × Nat × Nat)
  | 0 => []
  | k + 1 => if n = 0 then [] else let m := min n (4096 - a % 4096); (off, a, m) :: pieces (off + m) (a + m) (n - m) k

/-- The port that an access of a master leaves by: the master's own, or the one that an aperture's address names (Table 15.3); 96 none. -/
def accessPort (m space q : Nat) : Nat := if m < 96 then m else if space = 0 then 96 else min 96 (q / 2 ^ 57)

/-- An MSI-X message of a function toward its port; it follows what its sender sent there before in the same class. -/
def msixOut (s : State) (src oc flow f vec : Nat) (addr data : Word) : State := sendOut s src (funcPort s f) oc flow 4 true 0 (.msix f vec addr data)

/-- The Almanac aggregator (Table 6.2). -/
def almanacEp : Nat := 47 * 64 + 1

end Sys2Proof.Machine
end

