-- ==== Sys2Proof/Machine/Chart.lean ====
section
/-! DEFINITION. Chart engines: opcodes, the end of a chart and its completion record, drafts, scopes, reservations (R245-R261, R268-R280, R439). -/
namespace Sys2Proof.Machine

/-! Instruction words (Table 11.1). -/

/-- OPCODE. -/
def opcodeOf (w : Word) : Nat := wfld w 56 8
/-- GD, or GP of Format M. -/
def gdOf (w : Word) : Nat := wfld w 48 4
/-- GA. -/
def gaOf (w : Word) : Nat := wfld w 44 4
/-- GB. -/
def gbOf (w : Word) : Nat := wfld w 40 4
/-- IMM16. -/
def immOf (w : Word) : Nat := wfld w 0 16

/-- Minimum tier of an opcode, none for a reserved one (Tables 11.4-11.13, R285): 0 Tenant, 1 Host, 2 Fabric, 3 Root. -/
def opTier (op : Nat) : Option Nat :=
  if op ≤ 0x05 ∨ (0x08 ≤ op ∧ op ≤ 0x14) ∨ op = 0x18 ∨ op = 0x19 ∨ (0x20 ≤ op ∧ op ≤ 0x25) then some 0
  else if op ∈ [0x33, 0x34, 0x35, 0x38, 0x39, 0x3A, 0xB3, 0xC8, 0xC9, 0xCA] then some 0
  else if op ∈ [0x42, 0xB2, 0xBA, 0xBB, 0xC0, 0xC1, 0xC4, 0xC5] then some 1
  else if op ∈ [0x30, 0x31, 0x32, 0x36, 0x40, 0x41, 0x50, 0x51, 0x52, 0x53, 0x54, 0x58, 0x59, 0x60, 0x61, 0x62, 0x63, 0x64, 0x65,
      0x66, 0x67, 0x70, 0x71, 0x72, 0x73, 0x74, 0x75, 0x80, 0x81, 0x90, 0x91, 0xA0, 0xA1, 0xA2, 0xA3, 0xA4, 0xA8, 0xA9, 0xAA,
      0xB0, 0xB1, 0xB8, 0xB9, 0xBC, 0xC2, 0xC3, 0xD0, 0xD1, 0xD2, 0xD3, 0xD4] then some 2
  else if op ∈ [0xF0, 0xF1, 0xF2] then some 3
  else none

/-- Bits hi..lo set in a 64-bit number. -/
def bitsMask (hi lo : Nat) : Nat := (2 ^ (hi + 1 - lo) - 1) * 2 ^ lo

/-- The bits of an instruction that must be zero: its format's res0 bits and the operand fields its entry marks unused (R269). -/
def unusedBits (op : Nat) : Nat :=
  let g := bitsMask 55 52 + bitsMask 39 16
  let gd := bitsMask 51 48
  let ga := bitsMask 47 44
  let gb := bitsMask 43 40
  let imm := bitsMask 15 0
  match op with
  | 0x00 => bitsMask 55 0
  | 0x33 => bitsMask 55 0
  | 0x34 => bitsMask 55 0
  | 0x01 => bitsMask 51 24
  | 0x02 => g + gd
  | 0x03 => g + ga + gb + imm
  | 0x04 => g + ga + gb + imm
  | 0x05 => g + gd + ga + gb + bitsMask 15 8
  | 0x10 => g + gd
  | 0x11 => g + gd
  | 0x13 => g + gb + bitsMask 15 12
  | 0x14 => g + gb + bitsMask 15 12
  | 0x18 => bitsMask 55 52
  | 0x19 => bitsMask 55 52 + bitsMask 47 16
  | 0x20 => g + gb
  | 0x21 => g + gd
  | 0x22 => g + gb
  | 0x23 => g + gd
  | 0x24 => g + imm
  | 0x25 => g + imm
  | 0x30 => bitsMask 31 0
  | 0x31 => bitsMask 31 0
  | 0x32 => bitsMask 43 0
  | 0x35 => g + ga + gb + imm
  | 0x36 => g + gd + gb
  | 0x38 => g + gd + gb + bitsMask 15 9
  | 0x39 => g + gd + gb + bitsMask 14 9
  | 0x3A => g + gb + bitsMask 15 9
  | n => if 0x40 ≤ n then bitsMask 55 52 + bitsMask 31 0 else g

/-- The word breaks R269. -/
def badUnused (w : Word) : Bool := w.toNat &&& unusedBits (opcodeOf w) != 0

/-! The running engine. -/

/-- The engine runs no chart. -/
def engineIdle (x : Engine) : Bool := x.origin == .none

/-- The engine's own block runs: a tile engine stops with its tile (R462, R464). -/
def engineLive (s : State) (e : Nat) : Bool := fabricRuns s && (decide (12 ≤ e) || decide (tabFld s 0x3E e 20 4 ≤ 1))

/-- The instruction word at the engine's PC. -/
def wordAt (x : Engine) : Word := smGet 0 x.imem x.pc

/-- The chart's run time exceeds the ring's TLIM (R252); TLIM 0 is no limit, and paused time does not count. -/
def overTime (s : State) (x : Engine) : Bool :=
  match x.origin with
  | .ring r => tabFld s 0x30 r 108 8 != 0 && decide (tabFld s 0x30 r 108 8 * 10000000 < s.clock - x.start - x.paused)
  | _ => false

/-- The CS register (Table 10.5). -/
def csOf (x : Engine) : Word :=
  BitVec.ofNat 64 (x.status + (if x.flagV then 2 ^ 8 else 0) + (if x.flagC then 2 ^ 9 else 0) + (if x.flagN then 2 ^ 10 else 0) +
    (if x.flagZ then 2 ^ 11 else 0) + (if x.drafts.isEmpty then 0 else 2 ^ 17) + x.tier * 2 ^ 18 + x.pc * 2 ^ 20)

/-! The end of a chart. -/

/-- Sending or holding an MSI-X message of a function: held as a pending bit while masked (R344) or while the VF is frozen (R352). -/
def sendMsix (s : State) (src oc flow f vec : Nat) : State :=
  let m := smGet {} s.svc.msix f
  let st := funcState s f
  if m.fnMask ∨ m.mask.getLsbD vec ∨ !m.enable ∨ (2 ≤ st ∧ st ≤ 5) then
    { s with svc := { s.svc with msix := smSet {} s.svc.msix f { m with pba := m.pba ||| BitVec.ofNat 8 (2 ^ vec) } } }
  else msixOut s src oc flow f vec (smGet 0 m.addr vec) (smGet 0 m.data vec)

/-- Entries of a ring of this size code (Table 10.3). -/
def ringEntries (code : Nat) : Nat := 2 ^ (code + 4)

/-- The path to a port's partner is lost: the port's LOST is set (R62, R65). -/
def pathLost (s : State) (p : Nat) : Bool := tabFld s 0x02 p 20 1 == 1

/-- The 32-byte completion record (Table 10.7). -/
def completionBytes (x : Engine) (e st pc phase : Nat) : List Byte :=
  wordBytes x.tag ++ wordBytes (regGet x 1) ++ natBytes 8 x.epoch ++ natBytes 1 st ++ natBytes 1 e ++ natBytes 2 pc ++
    natBytes 1 (min 255 x.ncommit) ++ natBytes 1 phase ++ natBytes 2 0

/-- A completion record that can no longer be written is counted and raises CPL_UNWRITTEN (R253). -/
def unwritten (s : State) (r : Nat) (x : Engine) (st : Nat) : State :=
  raiseEvent (count s (devCtr 9) 1) 0x380 r [x.tag.toNat, st]

/-- NOTIFY: the ring's vector of its function, or the Steward core QVEC (Table 10.4, R498). -/
def notifyRing (s : State) (e r : Nat) (x : Engine) : State :=
  let v := tabVal s 0x30 r
  if r < 8 then emit s (.coreInt (fld v 101 3))
  else match subFunc (fld v 116 16) with
    | some f => sendMsix s (engineEp e) 5 (subFlow s x.sub) f (fld v 101 3)
    | none => s

/-- A record's position is written or passed over: the completion tail moves past every such position (R253). A ring that was disabled and
enabled again since the fetch has started new positions. -/
def passRecord (s : State) (r : Nat) (x : Engine) : State :=
  let l := smGet {} s.rings r
  if l.gen ≠ x.cplGen then s
  else
    let ended := x.cplPos :: l.cplEnded
    let tail := (findFrom (fun k => !(ended.contains k)) l.cplTail (ended.length + 1)).getD l.cplTail
    { s with rings := smSet {} s.rings r { l with cplTail := tail, cplEnded := ended.filter fun k => decide (tail ≤ k) } }

/-- Writing the completion record of a chart from ring r (R253). A ring whose EN a COMMIT set again since the fetch has been disabled. -/
def writeCompletion (s : State) (r e : Nat) (x : Engine) (st pc : Nat) : State :=
  if r = 8 then (if x.subReset then unwritten s r x st else emit s (.bridge (completionBytes x e st pc 1)))
  else if 9 ≤ r ∧ r ≤ 11 then emit s (.mctp x.binding 1 0 (completionBytes x e st pc 1))
  else
    let s := passRecord s r x
    let v := tabVal s 0x30 r
    let n := ringEntries (fld v 132 4)
    let a := fld v 136 58 * 64 + x.cplPos % n * 32
    let bs := completionBytes x e st pc (1 - x.cplPos / n % 2)
    if fld v 100 1 = 0 ∨ (smGet {} s.rings r).gen ≠ x.cplGen ∨ x.subReset then unwritten s r x st
    else match subPath s x.sub x.master a 32 with
      | .hbm h => let s := hbmWrite s h bs; if x.notify then notifyRing s e r x else s
      | .ext m sp q =>
        if m < 96 ∧ pathLost s m then unwritten s r x st
        else
          let c := fenceCheck s m ⟨sp, q, 32, false, true⟩
          if c.1 ≠ 0 then unwritten c.2 r x st
          else
            let s := sendOut c.2 (engineEp e) (accessPort m sp q) 5 (subFlow c.2 x.sub) 32 true 0 (.hostWrite m a bs)
            if x.notify then notifyRing s e r x else s
      | _ => unwritten s r x st

/-- An engine with no chart; chart memory keeps its bytes until the next fetch. -/
def idleEngine (x : Engine) : Engine := { ({} : Engine) with imem := x.imem, dmem := x.dmem }

/-! What the end of a chart that came from no ring is reported to (R61, R180, R336, R340). -/

/-- The return code of a charted command (Table 2.9). -/
def chartCode (st : Nat) : Nat :=
  match st with
  | 0 => 0x00 | 1 => 0x03 | 2 => 0x06 | 3 => 0x05 | 10 => 0x05 | 4 => 0x1D | 5 => 0x02 | 6 => 0x02 | 9 => 0x13 | _ => 0x04

/-- The mailbox return code of a host's chart on its extents: an extent that is not there is Invalid Extent List (Table 7.10). -/
def extentCode (st : Nat) : Nat := if st = 5 ∨ st = 6 then 0x1E else chartCode st

/-- The commands that run in the background (Table 2.8): Bind and Unbind vPPB, Initiate Dynamic Capacity Add and Release. -/
def fmBackground (code : Nat) : Bool := code ∈ [0x5201, 0x5202, 0x5604, 0x5605]

/-- A response of the Fabric Manager API: the message tag, the vendor-specific extended status (R61), the payload. -/
def fmAnswer (s : State) (binding tag code rc ext : Nat) (body : List Byte) : State :=
  emit s (.mctp binding code rc (natBytes 1 tag ++ natBytes 2 ext ++ body))

/-- The end of an internal chart, reported to what it was run for. -/
def jobReport (s : State) (j : Job) (st : Nat) : State :=
  match j with
  | .decoder key on again =>
    if st = 10 ∧ !again then { s with internals := s.internals ++ [⟨12, .decoder key on true⟩] }
    else { s with decRegs := smMod {} s.decRegs key fun d =>
                    if st = 0 then { d with committed := on, error := false } else { d with error := d.error || on } }
  | .ring r _ => { s with svc := { s.svc with slots := smMod {} s.svc.slots r fun x => { x with lastStatus := st } } }
  | .vfEnable u _ => { s with svc := { s.svc with pf := smMod {} s.svc.pf u fun x => { x with vfStatus := st } } }
  | .dcAdd v _ _ => emit s (.mailbox v 0x4802 (extentCode st) [])
  | .dcRelease v _ => emit s (.mailbox v 0x4803 (extentCode st) [])
  | .fm binding tag code _ _ =>
    if fmBackground code then { s with mctp := { s.mctp with bgRunning := false, bgReturn := chartCode st, bgExt := st } }
    else fmAnswer s binding tag code (chartCode st) st []

/-- The report of a chart's end. -/
def reportEnd (s : State) (e : Nat) (x : Engine) (st pc : Nat) : State :=
  match x.origin with
  | .ring r => writeCompletion s r e x st pc
  | .internal j => jobReport s j st
  | .resident 1 p => { s with isls := smMod {} s.isls p fun v => { v with alignDone := some (st, (regGet x 1).toNat) } }
  | .resident 3 p => { s with surveys := s.surveys.map fun r => if r.1 = p then (r.1, { r.2 with reg := some st }) else r }
  | _ => s

/-- The end of a chart (R251-R253): it is reported, its drafts and reservations go, the engine is free. -/
def endCore (s : State) (e st pc : Nat) : State :=
  let x := engineOf s e
  let s := reportEnd s e x st pc
  let s := if e < 12 then
      let s := count s (tileCtr e 26) 1
      if st = 0 then s else count s (tileCtr e 27) 1
    else s
  setEngine { s with arb := { s.arb with queue := s.arb.queue.filter fun q => q != e } } e (idleEngine x)

/-- Moving to the next instruction, without what the end of a chart lets go on. -/
def advanceCore (s : State) (e : Nat) (x : Engine) : State :=
  if x.ninstr ≤ x.pc + 1 then endCore (setEngine s e x) e 8 x.pc
  else setEngine s e { x with pc := x.pc + 1, wait := .run, boundary := s.clock }

/-! The Frost of a VF (R351). -/

/-- Some engine runs a chart of this submitter. -/
def subRuns (s : State) (sub : Nat) : Bool :=
  (List.range 16).any fun e => !(engineIdle (engineOf s e)) && (engineOf s e).sub == sub

/-- A descriptor of the VF that stands at a 4 KiB boundary stops there. -/
def stopsHere (v : Nat) (d : Desc) : Bool := d.func == some v && d.sub == v && !d.known && !d.stopped && d.stage == 0 && d.progress % 4096 == 0

/-- The VF's descriptors have stopped or are complete. -/
def descsQuiet (s : State) (v : Nat) : Bool := s.svc.descs.all fun d => !(d.2.sub == v) || d.2.known || d.2.stopped

/-- The engines that wait in VF.FROST for this VF. -/
def frostWaiters (s : State) (v : Nat) : List Nat :=
  (List.range 16).filter fun e => let x := engineOf s e; x.wait == .macroStep && opcodeOf (wordAt x) == 0xC1 && x.seqA == v

/-- Once no chart of a FREEZING VF runs, its descriptors stop, and when all have stopped the VF is FROZEN and the macro ends OK. -/
def frostStep (s : State) (v : Nat) : State :=
  if funcState s v ≠ 2 ∨ subRuns s v then s
  else
    let s := { s with svc := { s.svc with
      descs := s.svc.descs.map fun d => if stopsHere v d.2 then (d.1, { d.2 with stopped := true, mover := none }) else d } }
    if descsQuiet s v then
      (frostWaiters s v).foldl (fun s e => advanceCore s e { engineOf s e with status := 0, seq := 0 }) (setLive s 0x3D v 0 4 3)
    else s

/-- The VFs that are being frozen. -/
def freezing (s : State) : List Nat := (listed s 0x3D).filter fun v => decide (v < 2048) && funcState s v == 2

/-- The end of a chart, with the Frosts that waited for it (R351). -/
def endChart (s : State) (e st pc : Nat) : State :=
  let s := endCore s e st pc
  (freezing s).foldl frostStep s

/-- Moving to the next instruction; running past NINSTR − 1 ends the chart FAULT (R252). -/
def advance (s : State) (e : Nat) (x : Engine) : State :=
  if x.ninstr ≤ x.pc + 1 then endChart (setEngine s e x) e 8 x.pc
  else setEngine s e { x with pc := x.pc + 1, wait := .run, boundary := s.clock }

/-- The end of a table, claim, memory or macro instruction (R251): OK goes on with STATUS OK, any other status ends the chart. -/
def finish (s : State) (e : Nat) (x : Engine) (st : Nat) : State :=
  if st = 0 then advance s e { x with status := 0, seq := 0 } else endChart (setEngine s e x) e st x.pc

/-- The engine stands at an instruction with this opcode and nothing holds it. -/
def atOp (s : State) (e op : Nat) : Bool :=
  let x := engineOf s e
  !(engineIdle x) && (x.wait == .run) && s.paused.isNone && engineLive s e && decide (opcodeOf (wordAt x) = op)

/-- Executing the instruction at an engine's PC when it has this opcode: at the boundary the time limit is judged first (R252),
then the unused bits (R269). Where the engine stands elsewhere, nothing happens (R14). -/
def onOp (s : State) (e op : Nat) (f : State → Engine → Word → State) : State :=
  let x := engineOf s e
  if atOp s e op then
    if overTime s x ∧ x.seq = 0 then endChart s e 7 x.pc
    else if badUnused (wordAt x) then endChart s e 8 x.pc
    else f s x (wordAt x)
  else s

/-! Scopes, locks and reservations. -/

/-- The function that holds a ring: PF0 of a port, the owner of rings 12 and 13, or the VF whose run of rings it lies in (R334, R498). -/
def ringFunc (s : State) (r : Nat) : Option Nat :=
  if r < 12 then none
  else if r < 16 then (match subFunc (tabFld s 0x30 r 116 16) with | some f => some f | none => none)
  else if r < 784 then some (2048 + (r - 16) / 8)
  else (listed s 0x3D).find? fun v => decide (v < 2048 ∧ funcFld s v 36 12 ≤ r ∧ r < funcFld s v 36 12 + funcFld s v 32 4)

/-- The port a ring belongs to: that of the function which holds it. -/
def ringPort (s : State) (r : Nat) : Option Nat := (ringFunc s r).map (funcPort s)

/-- The tile a port-, lane- or tile-level table entry belongs to (Table 1.2), none for a chip-level entry. -/
def entryTile (s : State) (t i : Nat) : Option Nat :=
  match t with
  | 0x01 => some (i / 8)
  | 0x02 => some (i / 8)
  | 0x03 => some (i / 32)
  | 0x04 => some (i / 32)
  | 0x05 => some (i / 8)
  | 0x06 => some (i / 8)
  | 0x07 => some (i / 97 / 8)
  | 0x0B => some i
  | 0x30 => (ringPort s i).map (· / 8)
  | 0x38 => if tabFld s 0x38 i 0 7 < 96 then some (tabFld s 0x38 i 0 7 / 8) else none
  | 0x3C => if i < 0x0900 then some (i / 24 / 8) else if i < 0x0A80 then some ((i - 0x0900) / 32) else none
  | 0x3D => some (funcPort s i / 8)
  | _ => none

/-- R26: the entry lies in the engine's scope (Table 1.2). Timers are in every engine's scope. -/
def inScope (s : State) (e t i : Nat) : Bool :=
  decide (12 ≤ e) || t == 0x32 || entryTile s t i == some e

/-- The bits of an entry in lock group g (Table 18.16). -/
def lockGroupMask (g t : Nat) : Entry :=
  match g, t with
  | 0, 0x01 => ones 15 3
  | 1, 0x39 => draftable 0x39
  | 2, 0x38 => ones 8 2 ||| ones 12 7 ||| ones 20 10 ||| ones 32 10 ||| ones 44 12
  | _, _ => 0

/-- The bits of an entry that the field-lock word locks (R439). -/
def lockedMask (w : BitVec 8) (t : Nat) : Entry :=
  (if w.getLsbD 0 then lockGroupMask 0 t else 0) ||| (if w.getLsbD 1 then lockGroupMask 1 t else 0) |||
  (if w.getLsbD 2 then lockGroupMask 2 t else 0)

/-- What a draft reserves (R254): an entry, or a whole plane of route tables (R168). -/
def resKey (k : Nat) : Nat :=
  if keyTab k = 0x08 then tkey 0x08 (keyIdx k / 2304)
  else if keyTab k = 0x09 then tkey 0x08 (keyIdx k / 48) else k

/-- Another engine's chart holds the entry reserved. -/
def reservedElsewhere (s : State) (e k : Nat) : Bool :=
  (List.range 16).any fun f => f != e && (engineOf s f).drafts.any fun d => resKey d.key == resKey k

/-- The chart's draft of an entry. -/
def draftOf (x : Engine) (k : Nat) : Option Draft := x.drafts.find? fun d => d.key == k

/-- What the chart reads of an entry: its own draft over the committed value (R254). -/
def seenVal (s : State) (x : Engine) (t i : Nat) : Entry :=
  match draftOf x (tkey t i) with
  | some d => merge (tabVal s t i) d.val d.mask
  | none => tabVal s t i

/-- Entering bits into the chart's drafts. -/
def putDraft (s : State) (x : Engine) (t i : Nat) (v mask : Entry) : Engine :=
  let k := tkey t i
  if x.drafts.any fun d => d.key == k then
    { x with drafts := modFirst (fun d => d.key == k) (fun d => { d with val := merge d.val v mask, mask := d.mask ||| mask }) x.drafts }
  else { x with drafts := x.drafts ++ [⟨k, merge 0 v mask, mask, (tabEntry s t i).num⟩] }

/-- Recording a read of a committed entry for R27. -/
def recordRead (s : State) (x : Engine) (t i : Nat) : Engine :=
  let k := tkey t i
  if (draftOf x k).isSome ∨ x.reads.any (fun r => r.1 == k) then x
  else { x with reads := (k, (tabEntry s t i).num) :: x.reads }

/-- The committed entries that a macro reads beside those it drafts are recorded for R27. -/
def readsOf (s : State) (x : Engine) (l : List (Nat × Nat)) : Engine := l.foldl (fun x k => recordRead s x k.1 k.2) x

/-- R265: the status of using every claim of a list. -/
def claimsCheck (s : State) (sub : Nat) : List Nat → Nat
  | [] => 0
  | c :: cs => if claimCheck s sub c ≠ 0 then claimCheck s sub c else claimsCheck s sub cs

/-- Every byte of [a, a + n) lies in one partition that the submitter holds (R265, R411, R417). -/
def partitionCheck (s : State) (sub a n : Nat) : Nat :=
  match partitionOf a n with
  | none => 1
  | some p => claimCheck s sub (112 + p)

/-- The claims that a drafted value of an entry needs (R82, R401, R417): the status of the check, 0 if all are held. -/
def resourceCheck (s : State) (sub t i : Nat) (v mask : Entry) : Nat :=
  match t with
  | 0x03 =>
    -- GEN_EN, CHK_EN, LOOP and INJ_MODE use the lane's test group (R82)
    if (mask &&& (ones 10 2 ||| ones 12 2 ||| ones 14 1 ||| ones 15 1) &&& v) ≠ 0 then claimCheck s sub (132 + i / 4) else 0
  | 0x38 =>
    -- the GPIOs that drafted settings name (R297)
    claimsCheck s sub ([96, 88, 80].filterMap fun lo => if mask &&& ones lo 6 = 0 ∨ fld v lo 6 = 63 then none else some (fld v lo 6))
  | 0x32 => claimsCheck s sub ((48 + i) :: (if mask &&& ones 18 6 = 0 ∨ fld v 18 6 = 63 then [] else [fld v 18 6]))
  | 0x3F =>
    if claimCheck s sub (128 + i) ≠ 0 then claimCheck s sub (128 + i)
    else if fld v 0 1 = 1 then partitionCheck s sub (fld v 100 28 * 256) (32 * 2 ^ (fld v 96 4 + 10)) else 0
  | _ => 0

/-- The event of a refused draft of a locked field of entry i (R10, R380, R439). -/
def lkWrite (s : State) (i : Nat) : State := raiseEvent s 0x502 (i % 65536) []

/-- Drafting the masked bits of an entry after the checks of R280 that follow the scope's: the status, the state and the engine after it.
bad: the value does not fit its field or sets a res0 bit. -/
def draftAny (s : State) (e : Nat) (x : Engine) (t i : Nat) (v mask : Entry) (bad : Bool) : Nat × State × Engine :=
  let k := tkey t i
  let whole := merge (seenVal s x t i) v mask
  if reservedElsewhere s e k then (2, s, x)
  else if (t = 0x08 ∨ t = 0x09) ∧ tabFld s 0x0A (i / (if t = 0x08 then 2304 else 48)) 1 1 = 1 then (3, s, x)
  else if mask &&& lockedMask s.fieldLock t ≠ 0 then (9, lkWrite s i, x)
  else if bad ∨ hasReserved t i whole (mask ||| unionMask ((fields t).filter fun f => fldMask f &&& mask ≠ 0)) then (6, s, x)
  else if resourceCheck s x.sub t i whole mask ≠ 0 then (resourceCheck s x.sub t i whole mask, s, x)
  else if (draftOf x k).isNone ∧ 512 ≤ x.drafts.length then (4, s, x)
  else (0, s, putDraft s x t i v mask)

/-- The entry lies outside the engine's scope, or is fixed at boot (R26, R246, R278). -/
def outOfScope (s : State) (e t i : Nat) (mask : Entry) : Bool :=
  !(inScope s e t i) || (t == 0x30 && decide (i < 16)) || (t == 0x38 && decide (e < 12) && mask &&& ones 0 7 != 0)

/-- Drafting the masked bits of an entry. The caller has judged the table, the index and the field. -/
def draft (s : State) (e : Nat) (x : Engine) (t i : Nat) (v mask : Entry) : Nat × State × Engine :=
  if outOfScope s e t i mask then (1, s, x) else draftAny s e x t i v mask false

/-- Drafting a list of entries, stopping at the first failure. -/
def drafts (s : State) (e : Nat) (x : Engine) : List (Nat × Nat × Entry × Entry) → Nat × State × Engine
  | [] => (0, s, x)
  | (t, i, v, m) :: r =>
    let d := draft s e x t i v m
    if d.1 ≠ 0 then d else drafts d.2.1 e d.2.2 r

/-- C0 is at least 32: the taps' magnitudes sum to at most 32 (R69). -/
def tapsOk (v : Entry) : Bool := decide (fld v 37 4 + fld v 32 5 + fld v 27 5 + fld v 23 4 ≤ 32)

/-! Values that a rule refuses at the draft. -/

/-- The spaces that a master's fence regions may name (Table 15.1): bit n for SPACE n. -/
def masterSpaces (m : Nat) : Nat := if m < 96 then 13 else if m < 144 then 3 else 14

/-- The tier a ring's owner gives is Fabric or Root (Table 10.1). -/
def fabricOwner (v : Entry) : Bool := decide (2 ≤ fld v 116 16 / 2 ^ 13 ∧ fld v 116 16 / 2 ^ 13 ≤ 5)

/-- An entry's value that its table's rules refuse at the draft, for the bits drafted (R69, R283, R361, R362, R392, R407, Table 10.3). -/
def refusedValue (s : State) (x : Engine) (t i : Nat) (v mask : Entry) : Bool :=
  let hits (lo w : Nat) : Bool := mask &&& ones lo w != 0
  match t with
  | 0x03 => (hits 23 18) && !(tapsOk v)
  | 0x0C => hits 8 7 && decide (fld v 8 7 < 96) && seenVal s x 0x01 (fld v 8 7) &&& 7 != 3
  | 0x30 => hits 108 8 && fld v 108 8 == 0 && !(fabricOwner v)
  | 0x39 => !((masterSpaces (i / 64)).testBit (fld v 0 2)) || (decide (fld v 0 2 < 2) && fld v 4 8 != 0)
  | 0x3B => v != tabReset 0x3B i && (fld v 61 2 == 0 || (fld v 61 2 == 1 && fld v 55 2 == 2) ||
      (fld v 61 2 == 3 && fld v 57 1 == 0 && fld v 0 16 == 0) || (fld v 57 1 == 1 && fld v 16 24 == 0))
  | 0x3C => (hits 10 6 && fld v 10 6 != 0 && !(decide (i < 0x0900) && decide (i % 24 < 4))) ||
      (hits 5 5 && fld v 5 5 != 0 && !(decide (i < 0x0900) && decide (20 ≤ i % 24)))
  | _ => false

/-- What a value rule reads beside the entry: the ROLE of the port that TPARENT names (R27, Table 11.8). -/
def ruleReads (s : State) (x : Engine) (t : Nat) (v mask : Entry) : Engine :=
  if t = 0x0C ∧ mask &&& ones 8 7 ≠ 0 ∧ fld v 8 7 < 96 then recordRead s x 0x01 (fld v 8 7) else x

/-- NVPPB is drafted below a vPPB that is bound or lost (R183). -/
def belowBound (s : State) (x : Engine) (t i : Nat) (v mask : Entry) : Bool :=
  decide (t = 0x10) && mask &&& ones 7 7 != 0 &&
  (List.range 64).any fun k =>
    let b := fld (seenVal s x 0x11 (64 * i + k)) 24 3
    (b == 1 || b == 2) && decide (fld v 7 7 ≤ k)

/-- A draft as an instruction makes it: scope, then the checks of R280 with the value rules of the table. -/
def draftRuled (s : State) (e : Nat) (x : Engine) (t i : Nat) (v mask : Entry) (bad : Bool) : Nat × State × Engine :=
  let x := ruleReads s x t v mask
  if outOfScope s e t i mask then (1, s, x)
  else if belowBound s x t i v mask then (2, s, x)
  else draftAny s e x t i v mask (bad || refusedValue s x t i (merge (seenVal s x t i) v mask) mask)

end Sys2Proof.Machine
end

