-- ==== Sys2Proof/Machine/Flags.lean ====
section
/-! DEFINITION. The flags of CS (R271, Table 11.2). -/
namespace Sys2Proof.Machine

/-- Z and N of a result; C and V as given. -/
def setFlags (x : Engine) (r : Word) (c v : Bool) : Engine :=
  { x with flagZ := r == 0, flagN := r.msb, flagC := c, flagV := v }

/-- AND, OR, XOR, TST, the shifts, MUL, EXT and INS: Z and N from the result, C and V clear. -/
def logicFlags (x : Engine) (r : Word) : Engine := setFlags x r false false

/-- ADD: C is the carry out, V is signed overflow. -/
def addFlags (x : Engine) (a b : Word) : Engine :=
  setFlags x (a + b) (decide (2 ^ 64 ≤ a.toNat + b.toNat)) ((a.msb == b.msb) && ((a + b).msb != a.msb))

/-- SUB and CMP: C is 1 when no borrow occurs, V is signed overflow. -/
def subFlags (x : Engine) (a b : Word) : Engine :=
  setFlags x (a - b) (decide (b.toNat ≤ a.toNat)) ((a.msb != b.msb) && ((a - b).msb != a.msb))

/-- A branch condition (Table 11.2); 9-15 are reserved. -/
def condHolds (x : Engine) (c : Nat) : Bool :=
  match c with
  | 0 => true
  | 1 => x.flagZ
  | 2 => !x.flagZ
  | 3 => x.flagN != x.flagV
  | 4 => x.flagN == x.flagV
  | 5 => !x.flagC
  | 6 => x.flagC
  | 7 => x.flagZ || (x.flagN != x.flagV)
  | 8 => !x.flagZ && (x.flagN == x.flagV)
  | _ => false

end Sys2Proof.Machine
end

