-- ==== Sys2Proof/Machine/Operands.lean ====
section
/-! DEFINITION. The operand forms of chart instructions: op2, shift counts, bit-field positions, chart-memory addresses, claim indices, macro blocks (R36, R274, R276, R286). -/
namespace Sys2Proof.Machine

/-- IMM16 sign-extended to 64 bits. -/
def immSext (w : Word) : Word := wordOfInt (sext (immOf w) 16)

/-- GA's value. -/
def opA (x : Engine) (w : Word) : Word := regGet x (gaOf w)
/-- GB's value. -/
def opB (x : Engine) (w : Word) : Word := regGet x (gbOf w)
/-- op2: GB + IMM16 sign-extended (Table 11.4). -/
def op2 (x : Engine) (w : Word) : Word := opB x w + immSext w
/-- A shift count: op2 mod 64. -/
def shiftCount (x : Engine) (w : Word) : Nat := (op2 x w).toNat % 64

/-- pos of EXT and INS. -/
def fieldPos (w : Word) : Nat := wfld w 0 6
/-- w of EXT and INS. -/
def fieldWidth (w : Word) : Nat := wfld w 6 6 + 1

/-- The address GA + IMM16 of LD, ST, HLD and HST. -/
def memAddr (x : Engine) (w : Word) : Nat := (opA x w + immSext w).toNat

/-- An 8-byte aligned span of n words lies in the data area of chart memory (R36, R276). -/
def spanOk (a n : Nat) : Bool := decide (a % 8 = 0 ∧ 0x8000 ≤ a ∧ a + 8 * n ≤ 0x10000)

/-- The word number in the data area of a chart-memory address. -/
def areaWord (a : Nat) : Nat := (a - 0x8000) / 8

/-- The index of a claim instruction: GA + IMM16[8:0] (R277). -/
def claimIndex (x : Engine) (w : Word) : Nat := ((opA x w).toNat + wfld w 0 9) % 2 ^ 64

/-- LEN of Format M. -/
def lenOf (w : Word) : Nat := wfld w 40 8
/-- MFLAGS of Format M. -/
def mflagsOf (w : Word) : Nat := wfld w 32 8
/-- GP's value: the offset of the parameter block. -/
def blockAddr (x : Engine) (w : Word) : Nat := (regGet x (gdOf w)).toNat

/-- Word k of the parameter block. -/
def blockWord (x : Engine) (w : Word) (k : Nat) : Word := dataWord x (areaWord (blockAddr x w) + k)

/-- The block's words hold no bit outside the masks that the macro's row defines. -/
def blockClean (x : Engine) (w : Word) : Nat → List Nat → Bool
  | _, [] => true
  | k, m :: ms => ((blockWord x w k).toNat &&& m == (blockWord x w k).toNat) && blockClean x w (k + 1) ms

/-- The checks of R286 on a macro's block: LEN and MFLAGS (INVALID), its pointer (R36: FAULT), undefined bits (INVALID). DESIGN CHOICE (log 98): a pointer
inside the data area that is not 8-byte aligned ends FAULT like one outside it; R276 asks alignment of the memory instructions only.
masks gives, for each word, the bits that the row defines; flags the MFLAGS bits it defines. -/
def blockStatus (x : Engine) (w : Word) (masks : List Nat) (flags : Nat) : Nat :=
  if lenOf w ≠ masks.length then 6
  else if mflagsOf w &&& flags ≠ mflagsOf w then 6
  else if !(spanOk (blockAddr x w) masks.length) then 8
  else if !(blockClean x w 0 masks) then 6
  else 0

/-- The mask of the bits hi..lo, one pair after another. -/
def rowBits : List (Nat × Nat) → Nat
  | [] => 0
  | (hi, lo) :: r => bitsMask hi lo ||| rowBits r

/-- Every bit of a block word. -/
def allBits : Nat := 2 ^ 64 - 1

end Sys2Proof.Machine
end

