-- ==== Sys2Proof/Machine/ChartAlu.lean ====
section
/-! DEFINITION. Flow, arithmetic and logic, and chart memory: the instructions of Table 11.4 and LD, ST of Table 11.5. -/
namespace Sys2Proof.Machine

/-- END (R252): OK, or INVALID if the chart still holds drafts. -/
def execEndChart (e : EngineId) (s : State) : Res :=
  .next (onOp s e 0x00 fun s x _ => endChart s e (if x.drafts.isEmpty then 0 else 6) x.pc)

/-- The branch target PC + OFFSET. -/
def branchTarget (x : Engine) (w : Word) : Int := x.pc + sext (wfld w 0 24) 24

/-- B.cc (R270, R252). -/
def execBCc (e : EngineId) (s : State) : Res :=
  .next (onOp s e 0x01 fun s x w =>
    if 9 ≤ wfld w 52 4 then endChart s e 6 x.pc
    else if condHolds x (wfld w 52 4) then
      if branchTarget x w < 0 ∨ (x.ninstr : Int) - 1 < branchTarget x w then endChart s e 8 x.pc
      else setEngine s e { x with pc := (branchTarget x w).toNat, boundary := s.clock }
    else advance s e x)

/-- WAIT: a signed total of 0-1,000,000 µs, else INVALID (R274). -/
def execWait (e : EngineId) (s : State) : Res :=
  .next (onOp s e 0x02 fun s x w =>
    let t := (opA x w + op2 x w).toInt
    if t < 0 ∨ 1000000 < t then endChart s e 6 x.pc
    else setEngine s e { x with wait := .timer (s.clock + t.toNat * 1000) })

/-- The end of a WAIT. -/
def execWaitExpiry (e : EngineId) (s : State) : Res :=
  let x := engineOf s e
  match x.wait with
  | .timer t => if t ≤ s.clock then .next (advance s e x) else .next s
  | _ => .next s

/-- An instruction that writes GD and nothing else. -/
def writeGd (s : State) (e : Nat) (op : Nat) (f : State → Engine → Word → Word) : State :=
  onOp s e op fun s x w => advance s e (regSet x (gdOf w) (f s x w))

/-- TIME: the TS counter. -/
def execTime (e : EngineId) (s : State) : Res := .next (writeGd s e 0x03 fun s _ _ => BitVec.ofNat 64 s.ts)

/-- RDCS: CS. -/
def execRdcs (e : EngineId) (s : State) : Res := .next (writeGd s e 0x04 fun _ x _ => csOf x)

/-- FAIL: the status of IMM16[7:0], 0x01-0x0A, else INVALID. -/
def execFail (e : EngineId) (s : State) : Res :=
  .next (onOp s e 0x05 fun s x w =>
    endChart s e (if 1 ≤ wfld w 0 8 ∧ wfld w 0 8 ≤ 10 then wfld w 0 8 else 6) x.pc)

/-- An instruction that writes a result to GD and sets flags; a write to G0 is ignored and the flags are still set. -/
def aluOp (s : State) (e op : Nat) (res : Engine → Word → Word) (flags : Engine → Word → Engine) : State :=
  onOp s e op fun s x w => advance s e (regSet (flags x w) (gdOf w) (res x w))

/-- ADD. -/
def execAdd (e : EngineId) (s : State) : Res :=
  .next (aluOp s e 0x08 (fun x w => opA x w + op2 x w) (fun x w => addFlags x (opA x w) (op2 x w)))
/-- SUB. -/
def execSub (e : EngineId) (s : State) : Res :=
  .next (aluOp s e 0x09 (fun x w => opA x w - op2 x w) (fun x w => subFlags x (opA x w) (op2 x w)))

/-- An instruction whose flags are those of its result (R271). -/
def logicOp (s : State) (e op : Nat) (res : Engine → Word → Word) : State :=
  aluOp s e op res (fun x w => logicFlags x (res x w))

/-- AND. -/
def execAnd (e : EngineId) (s : State) : Res := .next (logicOp s e 0x0A fun x w => opA x w &&& op2 x w)
/-- OR. -/
def execOr (e : EngineId) (s : State) : Res := .next (logicOp s e 0x0B fun x w => opA x w ||| op2 x w)
/-- XOR. -/
def execXor (e : EngineId) (s : State) : Res := .next (logicOp s e 0x0C fun x w => opA x w ^^^ op2 x w)
/-- SHL. -/
def execShl (e : EngineId) (s : State) : Res := .next (logicOp s e 0x0D fun x w => opA x w <<< shiftCount x w)
/-- SHR: zero fill. -/
def execShr (e : EngineId) (s : State) : Res := .next (logicOp s e 0x0E fun x w => opA x w >>> shiftCount x w)
/-- SAR: sign fill. -/
def execSar (e : EngineId) (s : State) : Res := .next (logicOp s e 0x0F fun x w => (opA x w).sshiftRight (shiftCount x w))
/-- CMP: the flags of GA − op2. -/
def execCmp (e : EngineId) (s : State) : Res :=
  .next (onOp s e 0x10 fun s x w => advance s e (subFlags x (opA x w) (op2 x w)))
/-- TST: the flags of GA and op2. -/
def execTst (e : EngineId) (s : State) : Res :=
  .next (onOp s e 0x11 fun s x w => advance s e (logicFlags x (opA x w &&& op2 x w)))
/-- MUL: the low 64 bits. -/
def execMul (e : EngineId) (s : State) : Res := .next (logicOp s e 0x12 fun x w => opA x w * op2 x w)

/-- GA[pos + w − 1 : pos], zero-extended. -/
def extValue (x : Engine) (w : Word) : Word := BitVec.ofNat 64 (nbits (opA x w).toNat (fieldPos w) (fieldWidth w))

/-- EXT; pos + w above 64 is INVALID. -/
def execExt (e : EngineId) (s : State) : Res :=
  .next (onOp s e 0x13 fun s x w =>
    if 64 < fieldPos w + fieldWidth w then endChart s e 6 x.pc
    else advance s e (regSet (logicFlags x (extValue x w)) (gdOf w) (extValue x w)))

/-- GD with its bits [pos + w − 1 : pos] replaced by GA[w − 1 : 0]. -/
def insValue (x : Engine) (w : Word) : Word :=
  let m : Word := BitVec.ofNat 64 ((2 ^ fieldWidth w - 1) * 2 ^ fieldPos w)
  (regGet x (gdOf w) &&& ~~~m) ||| ((opA x w <<< fieldPos w) &&& m)

/-- INS; pos + w above 64 is INVALID. -/
def execIns (e : EngineId) (s : State) : Res :=
  .next (onOp s e 0x14 fun s x w =>
    if 64 < fieldPos w + fieldWidth w then endChart s e 6 x.pc
    else advance s e (regSet (logicFlags x (insValue x w)) (gdOf w) (insValue x w)))

/-- LI: IMM48, zero-extended. -/
def execLi (e : EngineId) (s : State) : Res := .next (writeGd s e 0x18 fun _ _ w => BitVec.ofNat 64 (wfld w 0 48))
/-- LIH: GD[63:48] := IMM48[15:0]. -/
def execLih (e : EngineId) (s : State) : Res :=
  .next (writeGd s e 0x19 fun _ x w =>
    BitVec.ofNat 64 (wfld (regGet x (gdOf w)) 0 48 + wfld w 0 16 * 2 ^ 48))

/-- LD: 8 bytes of chart memory; misaligned or outside the data area is FAULT (R276), as is an uncorrectable error in the word (ue, R252). -/
def execLd (e : EngineId) (ue : Bool) (s : State) : Res :=
  .next (onOp s e 0x20 fun s x w =>
    if spanOk (memAddr x w) 1 ∧ !ue then finish s e (regSet x (gdOf w) (dataWord x (areaWord (memAddr x w)))) 0
    else finish s e x 8)

/-- ST: 8 bytes of chart memory. -/
def execSt (e : EngineId) (s : State) : Res :=
  .next (onOp s e 0x21 fun s x w =>
    if spanOk (memAddr x w) 1 then finish s e (setData x (areaWord (memAddr x w)) [opB x w]) 0
    else finish s e x 8)

/-- ABORT: every draft and reservation goes; STATUS unchanged (R255). -/
def execAbort (e : EngineId) (s : State) : Res :=
  .next (onOp s e 0x34 fun s x _ => advance s e { x with drafts := [] })

/-- EPOCH: the chip's commit number. -/
def execEpoch (e : EngineId) (s : State) : Res := .next (writeGd s e 0x35 fun s _ _ => BitVec.ofNat 64 s.commitNum)

/-- CLAIM (R263, R264). -/
def execClaim (e : EngineId) (s : State) : Res :=
  .next (onOp s e 0x38 fun s x w =>
    let i := claimIndex x w
    if 228 ≤ i then finish s e x 5
    else if claimOwner s i = x.sub then finish s e x 0
    else if claimOwner s i = 0xFFFF then finish (setClaim s i x.sub) e x 0
    else finish s e x 2)

/-- QCLAIM: the claim entry, zero-extended. -/
def execQclaim (e : EngineId) (s : State) : Res :=
  .next (onOp s e 0x3A fun s x w =>
    if 511 < claimIndex x w then finish s e x 5
    else finish s e (regSet x (gdOf w) (BitVec.ofNat 64 (claimOf s (claimIndex x w)))) 0)

/-- CHART_TIMEOUT: the run time exceeds TLIM at an instruction boundary (R252). -/
def execChartTimeout (e : EngineId) (s : State) : Res :=
  let x := engineOf s e
  if !(engineIdle x) ∧ x.wait = .run ∧ x.seq = 0 ∧ s.paused.isNone ∧ overTime s x then .next (endChart s e 7 x.pc) else .next s

end Sys2Proof.Machine
end

