-- ==== Sys2Proof/Machine/Macro.lean ====
section
/-! DEFINITION. How every macro begins and ends (R257, R260, R286), and the drafting macros' shared operations. -/
namespace Sys2Proof.Machine

/-- Where a macro may run (Tables 11.10-11.13): any engine, global engines only, or the tile engine of its object and the global ones. -/
inductive MacroEng where
  | any
  | glob
  | tile (f : State → (Nat → Word) → Nat)

/-- The engine may run the macro on its object. -/
def engOk (s : State) (e : Nat) (b : Nat → Word) : MacroEng → Bool
  | .any => true
  | .glob => decide (12 ≤ e)
  | .tile f => decide (12 ≤ e) || f s b == e

/-- The engine may not run the macro (R260, R286). The object of a tile macro is in word 0 of its block: where the pointer gives no word, the
block's own checks answer. -/
def engDenied (s : State) (e : Nat) (x : Engine) (w : Word) (eng : MacroEng) : Bool :=
  match eng with
  | .tile _ => spanOk (blockAddr x w) 1 && !(engOk s e (blockWord x w) eng)
  | _ => !(engOk s e (blockWord x w) eng)

/-- The status that a macro's checks before its subject's rules give (R286, R257), in their order: engine, block, drafts held. -/
def macroStatus (s : State) (e : Nat) (x : Engine) (w : Word) (masks : List Nat) (flags : Nat) (eng : MacroEng) (seqd : Bool) : Nat :=
  if engDenied s e x w eng then 1
  else if blockStatus x w masks flags ≠ 0 then blockStatus x w masks flags
  else if seqd ∧ !x.drafts.isEmpty then 6
  else 0

/-- Beginning a macro: its checks, then f over the engine with G1 at 0 and the block's words. A macro under way is not begun again. -/
def macroThen (s : State) (e op : Nat) (masks : List Nat) (flags : Nat) (eng : MacroEng) (seqd : Bool)
    (f : State → Engine → (Nat → Word) → State) : State :=
  onOp s e op fun s x w =>
    if x.seq ≠ 0 then s
    else
      let st := macroStatus s e x w masks flags eng seqd
      if st ≠ 0 then finish s e x st else f s (regSet x 1 0) (blockWord x w)

/-- A macro of one step: f answers its status, the state and the engine after it. -/
def macroOp (s : State) (e op : Nat) (masks : List Nat) (flags : Nat) (eng : MacroEng)
    (f : State → Engine → (Nat → Word) → Nat × State × Engine) : State :=
  macroThen s e op masks flags eng false fun s x b =>
    let r := f s x b
    finish r.2.1 e r.2.2 r.1

/-- A macro that reads: it changes nothing but its result registers. -/
def macroRead (s : State) (e op : Nat) (masks : List Nat) (eng : MacroEng) (f : State → Engine → (Nat → Word) → Nat × Engine) : State :=
  macroOp s e op masks 0 eng fun s x b => ((f s x b).1, s, (f s x b).2)

/-- R260, R286: the submitter may act on objects of this port: at Fabric tier any, below it those behind its own USP. -/
def mayActOn (s : State) (x : Engine) (p : Nat) : Bool :=
  decide (2 ≤ x.tier) || (match subFunc x.sub with | some f => funcPort s f == p | none => false)

/-- A VF's function is one that the submitter may act on: its own, or a VF of its USP. -/
def mayActOnVf (s : State) (x : Engine) (v : Nat) : Bool :=
  decide (2 ≤ x.tier) || subFunc x.sub == some v ||
  (decide (x.sub / 0x2000 = 1) && (match subFunc x.sub with | some f => funcPort s f == funcPort s v | none => false))

/-- The tile of a port named in bits [6:0] of word 0. -/
def tileOfPort0 (_ : State) (b : Nat → Word) : Nat := wfld (b 0) 0 7 / 8
/-- The tile of a lane named in bits [8:0] of word 0. -/
def tileOfLane0 (_ : State) (b : Nat → Word) : Nat := wfld (b 0) 0 9 / 32

/-- The tile of a VF named in bits [10:0] of word 0; 99, no tile, where the VF is not enabled. -/
def tileOfVf0 (s : State) (b : Nat → Word) : Nat := let v := wfld (b 0) 0 11; if funcState s v = 0 then 99 else funcPort s v / 8
/-- The entry that two block words give from word k. -/
def entry2 (b : Nat → Word) (k : Nat) : Entry := entryOfWords [b k, b (k + 1)]

/-- The bits of a table's fields in 64-bit word k, as a block word's mask. -/
def tabWordMask (t k : Nat) : Nat := (entryWord (unionMask (fields t)) k).toNat

/-- A mask word covers whole fields and no RO or res0 bit (R286). -/
def maskWhole (t : Nat) (m : Entry) : Bool :=
  m == unionMask ((fields t).filter fun f => !f.ro && (m &&& fldMask f == fldMask f))

/-- Drafting masked fields of an entry by a macro with a mask word. -/
def draftMasked (s : State) (e : Nat) (x : Engine) (t i : Nat) (v m : Entry) : Nat × State × Engine :=
  if !(maskWhole t m) then (6, s, x) else draft s e x t i v m

/-- Drafting every field of an entry. -/
def draftWhole (s : State) (e : Nat) (x : Engine) (t i : Nat) (v : Entry) : Nat × State × Engine :=
  draft s e x t i v (draftable t)

/-- A macro's draft of a whole entry, with the value rules of its table. -/
def ruledWhole (s : State) (e : Nat) (x : Engine) (t i : Nat) (v : Entry) : Nat × State × Engine := draftRuled s e x t i v (draftable t) false

/-- The engine waits in a sequenced or waiting macro: its step and what it carries. -/
def seqWait (x : Engine) (step a b : Nat) : Engine := { x with wait := .macroStep, seq := step, seqA := a, seqB := b }

end Sys2Proof.Machine
end

