-- ==== Sys2Proof/Machine/Net.lean ====
section
/-! DEFINITION. Endpoints, transactions, packets, streams and the tile buffers (R125-R145, R155-R160, R165, R172-R176). -/
namespace Sys2Proof.Machine

/-- DEP is valid at its router (Table 6.2). -/
def depValid (e : Nat) : Bool :=
  match routerTile (epRouter e) with
  | some (_, a) => (decide (epDep e < 16) && epDep e % 8 % 3 == a) || ((epDep e == 16 || epDep e == 17) && a == 2)
  | none =>
    match routerMem (epRouter e) with
    | some _ => decide (epDep e < 3)
    | none =>
      match epRouter e with
      | 6 => decide (epDep e < 8)
      | 7 => decide (epDep e < 5)
      | 46 => decide (epDep e < 48)
      | _ => decide (epDep e < 3)

/-- Command of Table 6.4 that travels on RS. -/
def onRs (cmd : Nat) : Bool := decide (0x20 ≤ cmd ∧ cmd ≤ 0x27) || cmd == 0x31 || cmd == 0x41 || cmd == 0x50

/-! A CXL.io TLP, of which a transaction's data holds every byte from the first of its header (Table 4.6, Table 6.4). -/

/-- Bytes of a TLP's header by Fmt: 12 or 16. -/
def tlpHead (bs : List Byte) : Nat := if leAt bs 0 1 / 32 % 2 = 1 then 16 else 12
/-- A TLP's payload. -/
def tlpPayload (bs : List Byte) : List Byte := bs.drop (tlpHead bs)
/-- Length of a TLP in bytes: Length counts doublewords, 0 stands for 1,024. -/
def tlpLen (bs : List Byte) : Nat := let n := beAt bs 2 2 % 1024; if n = 0 then 4096 else 4 * n
/-- Address of a memory TLP, in a header of three or four doublewords. -/
def tlpAddr (bs : List Byte) : Nat := (if tlpHead bs = 16 then beAt bs 8 8 else beAt bs 8 4) / 4 * 4

/-- The completion TLP with which a function of port p answers a request, by its RSTAT: TC, requester ID and tag are the request's. -/
def cplTlp (p : Nat) (t : Txn) (rstat : Nat) (bs : List Byte) : List Byte :=
  let st := match rstat with | 1 => 1 | 2 => 1 | 3 => 4 | _ => 0
  let dw := (bs.length + 3) / 4
  let ep := if rstat = 4 then 64 else 0
  let id := (Config.completerId p).toNat
  let count := if bs.isEmpty then 4 else bs.length % 4096
  [BitVec.ofNat 8 (if bs.isEmpty then 0x0A else 0x4A), BitVec.ofNat 8 (leAt t.data 1 1 / 16 % 8 * 16), BitVec.ofNat 8 (ep + dw / 256 % 4), BitVec.ofNat 8 dw,
   BitVec.ofNat 8 (id / 256), BitVec.ofNat 8 id, BitVec.ofNat 8 (st * 32 + count / 256), BitVec.ofNat 8 count] ++
  slice t.data 4 3 ++ [BitVec.ofNat 8 (if t.kind = 30 then t.addr % 128 else 0)] ++ bs ++ List.replicate (4 * dw - bs.length) 0

/-- Bytes of a TLP by its own header: the header, the payload its Fmt names, the digest that TD announces. -/
def tlpTotal (bs : List Byte) : Nat :=
  tlpHead bs + (if leAt bs 0 1 / 64 % 2 = 1 then tlpLen bs else 0) + (if leAt bs 2 1 / 128 = 1 then 4 else 0)

/-- Commands that carry a message in segments of at most 128 bytes (R160). -/
def isSegmented (cmd : Nat) : Bool := cmd == 0x30 || cmd == 0x31 || cmd == 0x40 || cmd == 0x41

/-- Bytes of a transaction's data once whole. -/
def dataBytes (t : Txn) : Nat := max t.full t.data.length

/-- Packets of a transaction (R160, Table 6.4). -/
def txnPackets (t : Txn) : Nat :=
  if isSegmented t.cmd then max 1 ((dataBytes t + 127) / 128)
  else if t.cmd = 0x06 ∨ t.cmd = 0x07 ∨ t.cmd = 0x26 then max 1 ((t.len + 127) / 128) else 1

/-- NDU of a transaction's packets, its last or an earlier one (Table 6.4). -/
def packetUnits (t : Txn) (cmd : Nat) (last : Bool) : Nat :=
  if isSegmented cmd then (if last then max 1 ((dataBytes t - 128 * (txnPackets t - 1) + 63) / 64) else 2)
  else if cmd = 0x05 ∨ cmd = 0x07 ∨ cmd = 0x26 then 2
  else if cmd = 0x04 ∨ cmd = 0x13 ∨ cmd = 0x23 ∨ cmd = 0x24 ∨ cmd = 0x25 then 1 else 0

/-- Cells that a transaction takes: two for a packet with two data units, else one ("The shared buffer"). -/
def txnCells (t : Txn) : Nat := (txnPackets t - 1) * max 1 (packetUnits t t.cmd false) + max 1 (packetUnits t t.cmd true)

/-- Cells of the largest response the request can draw (R142): none for a posted request or a reply. A line of a split read lies in the cells that the
whole request holds. -/
def respCells (t : Txn) : Nat :=
  if t.posted ∨ t.reply then 0
  else if t.parent ≠ 0 ∧ t.cmd = 0x03 then 0
  else if t.cmd = 0x06 ∨ (t.cmd = 0x30 ∧ t.kind = 30) then 1 + (t.len + 127) / 128 else 1

/-- The tile in whose response reserve a request's cells lie: that of its ingress port (R142). -/
def txnTile (t : Txn) : Nat := t.ingress / 8

/-- The tile of the port that a transaction entered by, or set out from, in whose threshold pool it waits (Table 5.5). -/
def poolTile (t : Txn) : Option Nat := (epPort t.src).map (· / 8)

/-- Cells of the threshold pool in use at a tile: admitted transactions not yet selected (Table 5.5). -/
def poolUsed (s : State) (tile : Nat) : Nat :=
  sumOf ((s.txns.filter fun e => e.2.phase == 1 && poolTile e.2 == some tile).map fun e => e.2.cells)

/-- Free cells F of the threshold pool. -/
def poolFree (s : State) (tile : Nat) : Nat := 19456 - poolUsed s tile

/-- Cells of the response reserve in use. -/
def reserveUsed (s : State) (tile : Nat) : Nat :=
  sumOf ((s.txns.filter fun e => e.2.held && txnTile e.2 == tile).map fun e => e.2.resv)

/-- α × F of Table 5.6, rounded down. -/
def alphaOf (code f : Nat) : Nat := if code ≤ 6 then f / 2 ^ (6 - code) else f * 2 ^ (code - 6)

/-- ALPHA code of a port's queue class (Table 5.7). -/
def alphaCode (s : State) (p cls : Nat) : Nat := tabFld s 0x06 p (24 + 4 * cls) 4

/-- Key of a request queue (R144). -/
def queueKey (ingress dst cls : Nat) : Nat := (ingress * 4096 + dst) * 4 + cls

/-- Cells of a request queue. -/
def queueCells (s : State) (ingress dst cls : Nat) : Nat :=
  sumOf ((s.txns.filter fun e => e.2.phase == 1 && !e.2.reply && e.2.src == portEp ingress && e.2.dst == dst && e.2.cls == cls).map
    fun e => e.2.cells)

/-- The queue is at threshold: its port withheld a credit on its account within the last 1 µs (R145). -/
def atThreshold (s : State) (k : Nat) : Bool :=
  let t := smGet {} s.thrs k
  t.last != 0 && decide (s.clock < t.last + 1000)

/-- A credit is withheld on a queue's account (R145, R154). -/
def withhold (s : State) (p k : Nat) : State :=
  let t := smGet {} s.thrs k
  let n := { t with last := s.clock + 1, since := if atThreshold s k then t.since else s.clock + 1 }
  let n := if t.last + 1001000 < s.clock + 1 then { n with raised := false } else n
  count { s with thrs := smSet {} s.thrs k n } (portCtr p 4) 1

/-! Streams (R132-R137). -/

/-- Key of a stream. -/
def streamKey (src dst oc : Nat) : Nat := (src * 4096 + dst) * 8 + oc
/-- A stream. -/
def streamOf (s : State) (k : Nat) : Stream := smGet {} s.streams k
/-- Replacing it. -/
def setStream (s : State) (k : Nat) (x : Stream) : State := { s with streams := smSet {} s.streams k x }

/-- Both endpoints lie in one tile: the crossbar carries the packets, unnumbered (R28, R138). -/
def sameTile (a b : Nat) : Bool :=
  match epTile a, epTile b with
  | some x, some y => x == y
  | _, _ => false

/-- Early packets held for the tile or router of an endpoint, of one plane (R134). -/
def earlyHeld (s : State) (dst : Nat) (rs : Bool) : Nat :=
  (s.early.filter fun p => onRs p.cmd == rs && (if (epTile dst).isSome then epTile p.dst == epTile dst else epRouter p.dst == epRouter dst)).length

/-! Routers. -/

/-- A router of a plane. -/
def routerOf (s : State) (pl r : Nat) : Router := smGet {} s.routers (pl * 48 + r)
/-- Replacing it. -/
def setRouter (s : State) (pl r : Nat) (x : Router) : State := { s with routers := smSet {} s.routers (pl * 48 + r) x }
/-- EPOCH of a plane (Table 6.7). -/
def planeEpoch (s : State) (pl : Nat) : Nat := tabFld s 0x0A pl 0 1
/-- DRAINING. -/
def planeDrains (s : State) (pl : Nat) : Bool := tabFld s 0x0A pl 1 1 == 1

/-- The route table entry that a packet of an epoch uses (R162, R170). -/
def routeEntry (s : State) (pl epoch r d : Nat) : Nat :=
  let k := tkey 0x08 (pl * 2304 + r * 48 + d)
  if epoch = planeEpoch s pl then (tabVal s 0x08 (pl * 2304 + r * 48 + d)).toNat
  else (smGet (entryReset k).val s.routeOld k).toNat

/-- LINK_EN of the current table, and of the old one. -/
def linkEn (s : State) (pl r : Nat) : Nat := (tabVal s 0x09 (pl * 48 + r)).toNat
/-- See linkEn. -/
def linkEnOld (s : State) (pl r : Nat) : Nat :=
  (smGet (entryReset (tkey 0x09 (pl * 48 + r))).val s.routeOld (tkey 0x09 (pl * 48 + r))).toNat

/-- Usable outputs (R170): the links enabled in the current table, and in either table while the plane drains. -/
def usableOut (s : State) (pl r : Nat) : Nat :=
  if planeDrains s pl then linkEn s pl r ||| linkEnOld s pl r else linkEn s pl r

/-- The neighbour on output d: 0 +X, 1 −X, 2 +Y, 3 −Y (R155). -/
def neighbour (r d : Nat) : Nat :=
  match d with
  | 0 => 8 * routerY r + (routerX r + 1) % 8
  | 1 => 8 * routerY r + (routerX r + 7) % 8
  | 2 => 8 * ((routerY r + 1) % 6) + routerX r
  | _ => 8 * ((routerY r + 5) % 6) + routerX r

/-- The input at which a packet sent over output d arrives: the neighbour's link on the opposite side. -/
def oppositeIn (d : Nat) : Nat := match d with | 0 => 1 | 1 => 0 | 2 => 3 | _ => 2

/-- A packet enters the injection queue of its source router on its plane. -/
def inject (s : State) (p : Packet) : State :=
  let pl := if onRs p.cmd then 1 else 0
  let r := epRouter p.src
  let x := routerOf s pl r
  setRouter s pl r { x with inj := x.inj ++ [{ p with epoch := planeEpoch s pl }] }

/-- A SKIP or CLOSE travels on its stream's plane. -/
def injectOn (s : State) (pl : Nat) (p : Packet) : State :=
  let r := epRouter p.src
  let x := routerOf s pl r
  setRouter s pl r { x with inj := x.inj ++ [{ p with epoch := planeEpoch s pl }] }

/-- ARG of a packet (R160, Table 8.4): the line with MetaValue and logical device, or with the coherence fields; a report's or a marker's numbers; else 0. -/
def packetArg (t : Txn) (p : Packet) : Nat :=
  let line := t.addr / 64 * 64 % 2 ^ 64
  if p.cmd = 0x50 ∨ p.cmd = 0x51 then p.arg
  else if p.cmd ≤ 0x07 then line + t.mval / 16 % 4 * 16 + t.ld % 16
  else if p.cmd = 0x22 ∨ p.cmd = 0x25 then line + t.mval % 64
  else if (0x10 ≤ p.cmd ∧ p.cmd ≤ 0x13) ∨ p.cmd = 0x27 then line else 0

/-- The header unit of a packet (Table 6.3), as a number. -/
def headerBits (s : State) (pl : Nat) (p : Packet) : Nat :=
  let t := txnOf s p.txn
  let dr := epRouter p.dst
  let sr := epRouter p.src
  routerX dr * 2 ^ 189 + routerY dr * 2 ^ 186 + epDep p.dst * 2 ^ 180 + routerX sr * 2 ^ 177 + routerY sr * 2 ^ 174 + epDep p.src * 2 ^ 168 +
  pl * 2 ^ 167 + p.epoch * 2 ^ 166 + p.hops * 2 ^ 158 + p.cmd * 2 ^ 150 + p.oc * 2 ^ 147 + p.seq * 2 ^ 137 +
  packetUnits t p.cmd p.eot * 2 ^ 135 + (if p.eot then 2 ^ 132 else 0) + (if t.poison then 2 ^ 131 else 0) + p.gen * 2 ^ 127 + t.flow * 2 ^ 120 +
  p.rstat * 2 ^ 116 + p.tag * 2 ^ 100 + t.spid * 2 ^ 88 + t.dpid * 2 ^ 76 + packetArg t p

/-- One trace buffer's match of a packet at a point (R418): 0 ejection, 1 injection, 2 forwarded. -/
def traceMatch (v : Entry) (pl r point : Nat) (p : Packet) : Bool :=
  fld v 0 1 == 1 && fld v 89 1 == pl && fld v 90 6 == r &&
  (match fld v 87 2 with | 0 => point == 0 | 1 => point == 1 | 2 => point == 0 || point == 1 | _ => point == 2) &&
  (fld v 73 8 == 0xFF || fld v 73 8 == p.cmd) &&
  (fld v 81 6 == 63 || fld v 81 6 == (if point = 1 then epDep p.src else epDep p.dst))

/-- Capturing a packet in every trace buffer that matches it (R418). -/
def traceAt (s : State) (pl r point input : Nat) (p : Packet) : State :=
  (List.range 4).foldl (fun s b =>
    if traceMatch (tabVal s 0x3F b) pl r point p then
      let x := smGet {} s.traces b
      if x.lastCycle = s.clock + 1 ∨ 256 ≤ x.held.length then
        { s with traces := smSet {} s.traces b { x with dropped := min (2 ^ 22 - 1) (x.dropped + 1) } }
      else
        let h := headerBits s pl p
        let rcd := [BitVec.ofNat 64 (s.ts % 2 ^ 48 + point * 2 ^ 48 + input * 2 ^ 56), BitVec.ofNat 64 h, BitVec.ofNat 64 (h / 2 ^ 64),
                    BitVec.ofNat 64 (h / 2 ^ 128)]
        { s with traces := smSet {} s.traces b { x with held := x.held ++ [rcd], lastCycle := s.clock + 1 } }
    else s) s

/-! Answers and closures. -/

/-- The response to a transaction takes its place (R142, R160): source and destination exchanged, queued without a threshold. -/
def answer (s : State) (i cmd rstat : Nat) (poison : Bool) (data : List Byte) : State :=
  let t := txnOf s i
  let dst := if t.back = 0 then t.src else t.back - 1
  let src := t.dst
  let n := { t with cmd := cmd, oc := if t.oc = 0 ∨ t.oc = 4 ∨ t.oc = 5 then t.oc else 2, src := src, dst := dst, reply := true, rstat := rstat,
                    poison := poison, data := data, phase := 1, looked := s.commitNum, first := 0, count := 0, arrived := 0, sent := 0, full := 0, cut := false, slot := 0 }
  lineUp s i { n with cells := txnCells n }

/-- A CXL.io request is completed by a function or bridge of port p: its completion TLP takes its place. -/
def complete (s : State) (i p rstat : Nat) (bs : List Byte) : State := answer s i 0x31 rstat (rstat == 4) (cplTlp p (txnOf s i) rstat bs)

/-- The response command that a request draws (Table 6.4): line data, bulk data, a CXL.io completion, a management answer, or a completion. -/
def respCmd (t : Txn) : Nat :=
  match t.cmd with
  | 0x01 => 0x23 | 0x02 => 0x23 | 0x03 => 0x23 | 0x06 => 0x26 | 0x30 => 0x31 | 0x40 => 0x41 | _ => 0x20

/-- The transaction reads memory. -/
def isRead (t : Txn) : Bool := (t.cmd == 0x01 || t.cmd == 0x02 || t.cmd == 0x03 || t.cmd == 0x06)

/-- Closing the open transaction of a line at its slice: DONE with RSTAT 0 or 1 (R210). -/
def closeHome (s : State) (t : Txn) (src rstat : Nat) : State :=
  match t.home with
  | none => s
  | some (g, key) =>
    let n : Txn := { cmd := 0x27, oc := 2, src := src, dst := sliceEp g, addr := t.addr / 64 * 64, key := key, rstat := rstat, reply := true, phase := 1,
                     ingress := t.ingress, looked := s.commitNum, tag := t.tag, spid := t.spid }
    newTxn s n

end Sys2Proof.Machine
end

