-- ==== Sys2Proof/Machine/Bridges.lean ====
section
/-! DEFINITION. The bridges of the virtual switches: the structures of Table 2.7, their registers, error reporting (R53, R57, R59). -/
namespace Sys2Proof.Machine

/-- The enabled VCSs. -/
def enabledVcs (s : State) : List Nat := (List.range 64).filter fun v => tabFld s 0x10 v 14 1 == 1

/-- The enabled VCS whose USP is a port. -/
def vcsOf (s : State) (u : Nat) : Option Nat := (enabledVcs s).find? fun v => tabFld s 0x10 v 0 7 == u

/-- A bridge. -/
def bridgeOf (s : State) (k : Nat) : Bridge := smGet {} s.bridges k
/-- Changing it. -/
def modBridge (s : State) (k : Nat) (f : Bridge → Bridge) : State := { s with bridges := smMod {} s.bridges k f }

/-- Bridge k carries what a USP vPPB carries (Table 2.7). -/
def isUspBridge (s : State) (k : Nat) : Bool := if k < 4160 then k % 65 == 64 else roleOf s (k - 4160) == 1

/-- The port behind bridge k: the USP's, the one that a vPPB is bound to, or the port itself. -/
def bridgePort (s : State) (k : Nat) : Option Nat :=
  if 4160 ≤ k then some (k - 4160)
  else if k % 65 = 64 then some (tabFld s 0x10 (k / 65) 0 7)
  else
    let b := tabVal s 0x11 (64 * (k / 65) + k % 65)
    if fld b 24 3 = 1 ∧ (fld b 0 4 = 1 ∨ fld b 0 4 = 2) then some (fld b 4 7) else none

/-! The structures (Table 2.7). DESIGN CHOICE (log 97): where each lies; PRESUMED: the registers inside, as CXL 3.1 and PCIe give them. -/

/-- Extended capabilities: offset, capability ID with version, DVSEC ID: AER, Flex Bus Port, CXL Extensions for Ports, Register Locator; of a DSP vPPB
also GPF for CXL Ports and ACS. -/
def extCaps (usp : Bool) : List (Nat × Nat × Nat) :=
  [(0x100, 0x20001, 0), (0x150, 0x10023, 7), (0x180, 0x10023, 3), (0x1B0, 0x10023, 8)] ++ (if usp then [] else [(0x1D0, 0x10023, 4), (0x1E0, 0x1000D, 0)])

/-- CXL component capabilities: RAS, Link, IDE, BI Route Table or BI Decoder, HDM Decoder. -/
def compCaps (usp : Bool) : List Nat := [2, 4, 7, if usp then 0xB else 0xC, 5]

/-- The header dword of an extended capability at an offset, if one begins there or its DVSEC headers do. -/
def capDword (usp : Bool) (a : Nat) : Option Nat :=
  let cs := extCaps usp
  (cs.zip ((cs.drop 1).map (·.1) ++ [0])).findSome? fun e =>
    let c := e.1
    if a = c.1 then some (c.2.1 + e.2 * 2 ^ 20)
    else if c.2.1 % 2 ^ 16 = 0x23 ∧ a = c.1 + 4 then some (0x1E98 + 0x10 * 2 ^ 20)
    else if c.2.1 % 2 ^ 16 = 0x23 ∧ a = c.1 + 8 then some c.2.2 else none

/-- Flex Bus Port Status: the protocols negotiated, cache, io and mem in bits 0-2, and the flit mode: 68-byte bit 5, 256-byte bit 7. -/
def flexStatus (s : State) (q : Option Nat) : Nat :=
  match q with
  | none => 0
  | some p =>
    if tabFld s 0x02 p 17 1 = 0 then 0
    else (if smGet false s.cxlCache p then 1 else 0) + 2 + (if smGet false s.noCxl p then 0 else 4) +
      (match tabFld s 0x02 p 15 2 with | 1 => 32 | 2 => 128 | _ => 0)

/-- What a register that software writes holds at reset. PRESUMED (log 97), as PCIe and CXL 3.1 reset them: AER's masks and severity, CXL RAS's masks
and severity; 0 otherwise. -/
def bridgeReset (a : Nat) : Nat :=
  if a = 0x108 then 0x400000
  else if a = 0x10C then 0x462030
  else if a = 0x114 then 0xE000
  else if a = 0x11104 ∨ a = 0x11108 then 0x1CFFF
  else if a = 0x11110 then 0x7F
  else 0

/-- A byte of such a register at reset. -/
def bridgeResetByte (a : Nat) : Byte := BitVec.ofNat 8 (bridgeReset (a / 4 * 4) / 2 ^ (8 * (a % 4)))

/-- A dword of bridge k that the bridge itself gives: identity, structures, status. Component registers lie from 0x10000 on, their capability array at
0x11000. IDE is in containment mode only; the HDM decoders are 32 or 16, with the granularities of R54 and no 3, 6 or 12 ways. -/
def bridgeOwn (s : State) (k a : Nat) : Option Nat :=
  let usp := isUspBridge s k
  let b := bridgeOf s k
  match capDword usp a with
  | some v => some v
  | none =>
    if a = 0 then some (Config.vendorId.toNat + Config.bridgeDevice.toNat * 2 ^ 16)
    else if a = 0x08 then some 0x06040000
    else if a = 0x34 then some 0x40
    else if a = 0x40 then some (0x10 + (if usp then 0x52 else 0x162) * 2 ^ 16)
    else if a = 0x104 then some b.uncorr
    else if 0x11C ≤ a ∧ a < 0x12C then some (leAt b.log (a - 0x11C) 4)
    else if a = 0x15C then some (flexStatus s (bridgePort s k) * 2 ^ 16)
    else if a = 0x1BC then some 0x100
    else if !usp ∧ a = 0x1DC then some (b.gpf1 + b.gpf2 * 2 ^ 16)
    else if !usp ∧ a = 0x1E4 then some (0x1F + b.acs * 2 ^ 16)
    else if a = 0x11000 then some (0x110001 + (compCaps usp).length * 2 ^ 24)
    else if 0x11004 ≤ a ∧ a < 0x11018 then some (nth (a / 4 % 0x400 - 1) (compCaps usp) 0 + 2 ^ 16 + (a / 4 % 0x400) * 2 ^ 28)
    else if a = 0x11100 then some b.ras
    else if 0x11118 ≤ a ∧ a < 0x11158 then some (leAt b.rasLog (a - 0x11118) 4)
    else if a = 0x11300 then some 2
    else if a = 0x11500 then some ((if usp then 12 else 8) + 0x300)
    else none

/-- A dword of bridge k as software reads it: an unbound vPPB shows a hot-plug slot with no adapter present
(R59); the PCIe capability stands at 0x40. -/
def bridgeDword (s : State) (k a : Nat) : Nat :=
  let held := leAt ((List.range 4).map fun i => smGet (bridgeResetByte (a + i)) (bridgeOf s k).bytes (a + i)) 0 4
  match bridgeOwn s k a with
  | some v => v
  | none =>
    if a = 0x04 then 2 ^ 20 + held % 2 ^ 16
    else if a = 0x0C then held / 2 ^ 24 * 2 ^ 24 + 2 ^ 16 + held % 2 ^ 16
    else if a = 0x58 ∧ !(isUspBridge s k) then held / 2 ^ 23 * 2 ^ 23 + (if (bridgePort s k).isSome then 2 ^ 22 else 0) + held % 2 ^ 22
    else held

/-- n bytes of bridge k. -/
def bridgeRead (s : State) (k a n : Nat) : List Byte :=
  (List.range n).map fun i => BitVec.ofNat 8 (bridgeDword s k ((a + i) / 4 * 4) / 2 ^ (8 * ((a + i) % 4)))

/-- A dword is written: error status bits clear by writing one, the GPF timeouts go on to the device, the bridge's own registers keep their values. -/
def bridgeWrite (s : State) (k a w : Nat) : State :=
  let usp := isUspBridge s k
  if a = 0x104 then modBridge s k fun b => { b with uncorr := b.uncorr - (b.uncorr &&& w), log := if b.uncorr &&& w = b.uncorr then [] else b.log }
  else if a = 0x11100 then modBridge s k fun b => { b with ras := b.ras - (b.ras &&& w), rasLog := if b.ras &&& w = b.ras then [] else b.rasLog }
  else if !usp ∧ a = 0x1DC then
    let s := modBridge s k fun b => { b with gpf1 := w % 2 ^ 16, gpf2 := w / 2 ^ 16 % 2 ^ 16 }
    match bridgePort s k with | some q => emit s (.port q 0x504 (w % 2 ^ 16) (w / 2 ^ 16 % 2 ^ 16) 0 []) | none => s
  else if !usp ∧ a = 0x1E4 then modBridge s k fun b => { b with acs := w / 2 ^ 16 &&& 0x1F }
  else if (bridgeOwn s k a).isSome then s
  else modBridge s k fun b =>
    { b with bytes := (List.range 4).foldl (fun m i => smSet (bridgeResetByte (a + i)) m (a + i) (BitVec.ofNat 8 (w / 2 ^ (8 * i)))) b.bytes }

/-- Bytes written from a dword boundary on. -/
def bridgeStore (s : State) (k a : Nat) (bs : List Byte) : State :=
  (List.range (bs.length / 4)).foldl (fun s i => bridgeWrite s k (a / 4 * 4 + 4 * i) (leAt bs (4 * i) 4)) s

/-! Error reporting (R57). -/

/-- An uncorrectable error on a vPPB: AER's status bit, the header log of the first one, and the report toward the VCS's host. -/
def aerReport (s : State) (k bit : Nat) (hdr : List Byte) : State :=
  let s := modBridge s k fun b => { b with uncorr := b.uncorr ||| 2 ^ bit, log := if b.uncorr = 0 then slice hdr 0 16 else b.log }
  emit s (.port (tabFld s 0x10 (k / 65) 0 7) 0x501 (k % 65) (2 ^ bit) 0 (slice hdr 0 16))

/-- An uncorrectable error of a CXL link on a vPPB: the RAS status bit, and the header log of the first one. -/
def rasReport (s : State) (k bit : Nat) (hdr : List Byte) : State :=
  modBridge s k fun b => { b with ras := b.ras ||| 2 ^ bit, rasLog := if b.ras = 0 then slice hdr 0 64 else b.rasLog }

/-- The vPPBs that a transaction at a port belongs to: the USP's, or those bound to the logical device behind the DSP. -/
def portBridges (s : State) (p ld : Nat) : List Nat :=
  match roleOf s p with
  | 1 => ((vcsOf s p).map fun v => 65 * v + 64).toList
  | 2 => ((listed s 0x11).filter fun i =>
      let b := tabVal s 0x11 i
      fld b 24 3 == 1 && fld b 4 7 == p && (fld b 0 4 == 1 || (fld b 0 4 == 2 && fld b 11 4 == ld))).map fun i => 65 * (i / 64) + i % 64
  | _ => []

/-- A CXL.io error on the vPPBs of a transaction (R57): 12 poisoned TLP, 15 Completer Abort, 20 Unsupported Request. -/
def ioError (s : State) (p ld bit : Nat) (hdr : List Byte) : State := (portBridges s p ld).foldl (fun s k => aerReport s k bit hdr) s

/-- An uncorrectable error of the device itself affects these VCSs: each USP's vPPB reports an Uncorrectable Internal Error, and an event (R57, R161). -/
def internalUe (s : State) (vs : List Nat) : State := vs.foldl (fun s v => raiseEvent (aerReport s (65 * v + 64) 22 []) 0x180 v []) s

end Sys2Proof.Machine
end

