-- ==== Sys2Proof/Machine/EventCmds.lean ====
section
/-! DEFINITION. Writing event records to their queues, interrupts, rate windows, the Almanac's periodic writes (R385-R389, R396). -/
namespace Sys2Proof.Machine

/-- The queue's registers; queue 4,095 has SIZE 10 and IEN 0 (R389). -/
def eqOf (s : State) (q : Nat) : EvQueue :=
  let e := smGet {} s.ev.queues q
  if q = 4095 then { e with size := 10, ien := false } else e

/-- Replacing a queue's registers. -/
def setEq (s : State) (q : Nat) (e : EvQueue) : State := { s with ev := { s.ev with queues := smSet {} s.ev.queues q e } }

/-- Records of a queue (Table 16.7). -/
def eqEntries (e : EvQueue) : Nat := 2 ^ (e.size + 4)

/-- A queue is full when tail + 1 equals head, modulo its size (R386). -/
def eqFull (e : EvQueue) : Bool := (e.tail + 1) % eqEntries e == e.head % eqEntries e

/-- The 64 bytes of a record (Table 16.3). -/
def recordBytes (s : State) (r : EvRec) (seq : Nat) (phase : Bool) : List Byte :=
  natBytes 8 r.ts ++ natBytes 2 r.esid ++ natBytes 2 r.subj ++ natBytes 2 r.suppressed ++ natBytes 1 0 ++ natBytes 1 (chipOf s) ++
    ((List.range 5).flatMap fun i => natBytes 8 (nth 0 r.payload i)) ++ natBytes 4 seq ++ natBytes 3 0 ++
    natBytes 1 (if phase then 128 else 0)

/-- A record lost to a full queue or a denied write: LOST increases and OVF is set (R386, R388). -/
def eqLose (e : EvQueue) : EvQueue := { e with lost := min (2 ^ 32 - 1) (e.lost + 1), ovf := true, nextSeq := (e.nextSeq + 1) % 2 ^ 32 }

/-- The interrupt of a queue (R387): its function's vector, or a Steward core. -/
def eqInterrupt (s : State) (q : Nat) : State :=
  let s := setEq s q { smGet {} s.ev.queues q with icount := 0 }
  if q < 2144 then sendMsix s almanacEp 0 96 q (eqOf s q).vec else emit s (.coreInt (eqOf s q).vec)

/-- After a record's write: the tail advances, the phase inverts on a wrap, and the interrupt count rises (R386, R387). -/
def eqWritten (s : State) (q : Nat) : State :=
  let e := eqOf s q
  let t := (e.tail + 1) % eqEntries e
  let e := { e with
    tail := t, phase := if t = 0 then !e.phase else e.phase, nextSeq := (e.nextSeq + 1) % 2 ^ 32
    icount := if e.ien then e.icount + 1 else 0, ifirst := if e.icount = 0 then s.clock else e.ifirst }
  let s := setEq s q e
  if e.ien ∧ e.modCnt ≤ e.icount then eqInterrupt s q else s

/-- Where the record at the tail goes: HP0 for Steward's queues, else the function's memory through its port's fence (Table 16.5, R388). -/
def eqStore (s : State) (q : Nat) (bs : List Byte) : Option State × State :=
  let e := eqOf s q
  let a := e.base + 64 * e.tail
  if 2144 ≤ q then
    match coreMap s a 64 with
    | .hbm h => (some (hbmWrite s h bs), s)
    | _ => (none, s)
  else
    let p := funcPort s q
    let c := fenceCheck s p ⟨0, a, 64, false, true⟩
    if c.1 ≠ 0 then (none, c.2) else (some (sendOut c.2 almanacEp p 0 96 64 true 0 (.hostWrite p a bs)), c.2)

/-- A record for a queue that is enabled and not held (R386, R388). -/
def writeRecord (s : State) (q : Nat) (r : EvRec) : State :=
  let e := eqOf s q
  if !e.enable then s
  else if e.faulted ∨ eqFull e then setEq s q (eqLose e)
  else
    match eqStore s q (recordBytes s r e.nextSeq e.phase) with
    | (some s', _) => eqWritten s' q
    | (none, s') => raiseEvent (setEq s' q { eqLose e with faulted := true }) 0x483 q []

/-- The VF of a queue is frozen: its records are held (R352). -/
def eqHeld (s : State) (q : Nat) : Bool := decide (q < 2048) && decide (2 ≤ funcState s q ∧ funcState s q ≤ 5)

/-- Holding a record for a frozen VF: up to 64, further ones are counted as lost (R352). -/
def holdRecord (s : State) (q : Nat) (r : EvRec) : State :=
  let f := smGet {} s.svc.frozen q
  let f := if f.events.length < 64 then { f with events := f.events ++ [r] } else { f with lost := f.lost + 1 }
  { s with svc := { s.svc with frozen := smSet {} s.svc.frozen q f } }

/-- EVENT_RECORD_WRITE: the oldest pending record of a queue is written, held, lost or discarded (R381, R385, R386, R388). -/
def execEventRecordWrite (q : QueueId) (s : State) : Res :=
  match takeFirst (fun r => r.queue == q.val) s.ev.store with
  | none => .next s
  | some (r, rest) =>
    let s := { s with ev := { s.ev with store := rest } }
    if eqHeld s q ∧ (eqOf s q).enable then .next (holdRecord s q r) else .next (writeRecord s q r)

/-- RATE_WINDOW_END: a window that has ended releases what it counted (R382). -/
def execRateWindowEnd (esid : Fin 1536) (subj : BitVec 16) (q : QueueId) (s : State) : Res :=
  match s.ev.wins.find? (isWin esid subj.toNat q) with
  | none => .next s
  | some w =>
    if w.ends < s.ts then
      let ec := releaseWin s.tab (s.ev, s.cnt) w
      .next { s with ev := ec.1, cnt := ec.2 }
    else .next s

/-- INTERRUPT_MODERATION_TIMEOUT: MOD_TIME after the first counted record (R387). -/
def execInterruptModerationTimeout (q : QueueId) (s : State) : Res :=
  let e := eqOf s q
  if e.ien ∧ e.icount ≠ 0 ∧ e.modTime ≠ 0 ∧ e.ifirst + e.modTime * 1000 ≤ s.clock then .next (eqInterrupt s q) else .next s

/-- EQ_HEAD: the owner frees entries; an index at or above the queue size is ignored and raises DOORBELL_BAD (R386). -/
def eqHeadWrite (s : State) (q v : Nat) : State :=
  let e := eqOf s q
  if eqEntries e ≤ v then raiseEvent s 0x480 (if q < 2144 then q else 0xFFFF) []
  else setEq s q { e with head := v }

/-- A doorbell latched for later: while its VF is frozen (R352). -/
def latchDoorbell (s : State) (f kind obj v : Nat) : State :=
  let z := smGet {} s.svc.frozen f
  { s with svc := { s.svc with frozen := smSet {} s.svc.frozen f { z with latched := z.latched ++ [⟨kind, obj, v⟩] } } }

/-- The event queue head doorbell of a function, or the head register of a Steward queue. -/
def execEqHead (q : QueueId) (v : BitVec 16) (s : State) : Res :=
  if eqHeld s q then .next (latchDoorbell s q 2 q v.toNat) else .next (eqHeadWrite s q v.toNat)

/-- EQ_ENABLE: from 0 to 1 sets tail and head to 0, the phase to 1 and SEQ to 0, and clears OVF, FAULT and LOST (R385). -/
def execEqEnable (q : QueueId) (s : State) : Res :=
  let e := eqOf s q
  if e.enable then .next s
  else .next (setEq s q { e with enable := true, tail := 0, head := 0, phase := true, nextSeq := 0, ovf := false, faulted := false,
                                 lost := 0, icount := 0, ifirst := 0 })

/-- EQ_DISABLE: later records for the queue are discarded (R385). -/
def execEqDisable (q : QueueId) (s : State) : Res := .next (setEq s q { eqOf s q with enable := false })

/-- OVF_CLEAR: W1C of OVF clears LOST too (Table 16.7). -/
def execOvfClear (q : QueueId) (s : State) : Res := .next (setEq s q { eqOf s q with ovf := false, lost := 0 })

/-- FAULT_CLEAR: W1C of FAULT; writing resumes (R388). -/
def execFaultClear (q : QueueId) (s : State) : Res := .next (setEq s q { eqOf s q with faulted := false })

/-- ALMANAC_PERIODIC_WRITE: a changed open record is written once 10 s have passed since its last write (R396). -/
def execAlmanacPeriodicWrite (slot : Fin 20480) (s : State) : Res :=
  match s.alm.openRecs.find? fun o => o.slot == slot.val && o.changed && decide (o.written + 10000000000 ≤ s.ts) with
  | none => .next s
  | some o =>
    let a := almWrite (almView s) s.alm o.slot o.rcd
    .next { s with alm := { a with openRecs := modFirst (fun x => x.slot == slot.val) (fun x => { x with written := s.ts, changed := false }) a.openRecs } }

end Sys2Proof.Machine
end

