-- ==== Sys2Proof/Machine/CounterCmds.lean ====
section
/-! DEFINITION. General timers, latch ticks, bandwidth windows, dumps, trace records (R402, R406-R418). -/
namespace Sys2Proof.Machine

/-- TIMER_EXPIRED (R402): the timer runs and its next expiry is at or before TS. -/
def execTimerExpired (t : TimerId) (s : State) : Res :=
  let v := tabVal s 0x32 t
  let l := smGet {} s.timers t
  match l.next with
  | none => .next s
  | some n =>
    if fld v 0 1 = 1 ∧ n ≤ s.ts then
      let per := fld v 24 40
      let k := if per = 0 then 0 else (s.ts - n) / per
      let l := { l with
        next := if per = 0 then none else some (n + (k + 1) * per)
        driving := if fld v 16 2 = 1 then true else if fld v 16 2 = 2 then !l.driving else l.driving
        pulseEnd := if fld v 16 2 = 1 then some (s.clock + 1000) else l.pulseEnd }
      let s := { s with timers := smSet {} s.timers t l }
      .next (if fld v 15 1 = 1 then raiseEvent s 0x583 t [s.ts, k] else s)
    else .next s

/-- TIMER_PULSE_END: 1 µs after a pulse expiry the pin is released. -/
def execTimerPulseEnd (t : TimerId) (s : State) : Res :=
  let l := smGet {} s.timers t
  match l.pulseEnd with
  | none => .next s
  | some c => if c ≤ s.clock then .next { s with timers := smSet {} s.timers t { l with driving := false, pulseEnd := none } } else .next s

/-- The tile a counter stands in, for port and tile counters (Table 17.1). -/
def counterTile (i : Nat) : Option Nat := if i < 0x0900 then some (i / 192) else if i < 0x0A80 then some ((i - 0x0900) / 32) else none

/-- A tile that is powered down or in reset latches nothing (R415): OFF, POWERING, RESETTING, and FROZEN, whose endpoints are PROXY (Table 17.9). -/
def tileStale (s : State) (t : Nat) : Bool := decide (2 ≤ tabFld s 0x3E t 20 4)

/-- The counter does not latch now. -/
def counterStale (s : State) (i : Nat) : Bool := match counterTile i with | some t => tileStale s t | none => false

/-- Latching every counter that latches at a tick (R408, R415). -/
def latchAll (s : State) (tk : Nat) : Counters :=
  let keep := s.cnt.latched.filter fun e => counterStale s e.1
  let fresh := s.cnt.live.filter fun e => !(counterStale s e.1)
  let ts0 := smSet 0 s.cnt.latchTs 0 tk
  { s.cnt with
    latched := fresh.foldl (fun m e => smSet 0 m e.1 e.2) keep
    latchTs := (List.range 12).foldl (fun m t => if tileStale s t then m else smSet 0 m (1 + t) tk) ts0 }

/-- The TS of the latch that a counter shows (R415). -/
def latchTsOf (s : State) (i : Nat) : Nat :=
  match counterTile i with | some t => smGet 0 s.cnt.latchTs (1 + t) | none => smGet 0 s.cnt.latchTs 0

/-- The counter indices of a dump's sets, in order (R412, Table 17.1). -/
def dumpIndices (sets : Nat) : List Nat :=
  let r (bit lo n : Nat) : List Nat := if sets / 2 ^ bit % 2 = 1 then (List.range n).map (lo + ·) else []
  r 0 0 2304 ++ r 1 0x0900 384 ++ r 2 0x0A80 256 ++ r 3 0x0B80 768 ++ r 4 0x0E80 306 ++ r 5 0x0FC0 16

/-- A dump block (Table 17.8). -/
def dumpBytes (s : State) (sched : Entry) (seq tick missed : Nat) : List Byte :=
  let sets := fld sched 66 6
  let ix := dumpIndices sets
  natBytes 4 0x54435753 ++ natBytes 2 1 ++ natBytes 1 sets ++ natBytes 1 (chipOf s) ++ natBytes 8 seq ++ natBytes 8 tick ++
    natBytes 4 (fld sched 80 24) ++ natBytes 4 ix.length ++ natBytes 4 missed ++ natBytes 4 s.sec.boot ++ natBytes 24 0 ++
    (ix.flatMap fun i => natBytes 8 (smGet 0 s.cnt.latched i + (if counterStale s i then 2 ^ 63 else 0))) ++
    natBytes 8 seq ++ natBytes 56 0

/-- Ticks that a forward step of TS passed before the last one (R470). -/
def ticksSkipped (s : State) : Nat := (s.ts - s.cnt.nextTick) / (fld s.cnt.sched 80 24 * 100000)

/-- The tick that latches now: the last multiple passed (R470). -/
def tickNow (s : State) : Nat := s.cnt.nextTick + ticksSkipped s * (fld s.cnt.sched 80 24 * 100000)

/-- COUNTER_TICK (R408, R412-R414, R470): every counter latches; ticks skipped count as missed while the schedule names a destination; a schedule
committed since takes effect; a block starts, or is missed. -/
def execCounterTick (s : State) : Res :=
  if s.ts < s.cnt.nextTick then .next s
  else
    let tk := tickNow s
    let c := latchAll s tk
    let c := if fld c.sched 0 2 = 0 then c else { bump s.tab c (devCtr 10) (ticksSkipped s) with dumpMissed := c.dumpMissed + ticksSkipped s }
    let c := if c.schedNew then { c with sched := tabVal s 0x40 0, schedNew := false, dumpSeq := 0, dumpMissed := 0 } else c
    let per := fld c.sched 80 24 * 100000
    let c := { c with nextTick := (s.ts / per + 1) * per }
    let dest := fld c.sched 0 2
    if dest = 0 then .next { s with cnt := c }
    else if c.dumpBusy then .next { s with cnt := { bump s.tab c (devCtr 10) 1 with dumpMissed := c.dumpMissed + 1 } }
    else
      let s := { s with cnt := c }
      let a := fld c.sched 15 49 * 32768 + c.dumpSeq % fld c.sched 72 8 * 32768
      .next { s with cnt := { c with
        dumpBusy := true, dumpSeq := c.dumpSeq + 1, dumpMissed := 0, dumpAddr := a, dumpDest := dest, dumpMaster := fld c.sched 8 7
        dumpBlock := dumpBytes s c.sched (c.dumpSeq + 1) tk c.dumpMissed } }

/-- Writing a block's 64-byte lines to a host through a port's fence, stopping at the first denied one: whether all were written (R412, R414). -/
def dumpLines (s : State) (p a : Nat) (bs : List Byte) : Nat → Bool × State
  | 0 => (true, s)
  | n + 1 =>
    let len := min 64 bs.length
    let c := fenceCheck s p ⟨0, a, len, false, true⟩
    if bs.isEmpty then (true, s)
    else if c.1 ≠ 0 then (false, c.2)
    else dumpLines (sendOut c.2 almanacEp p 0 96 len true 0 (.hostWrite p a (bs.take len))) p (a + 64) (bs.drop len) n

/-- A write of fabric-private HBM by a block of the device, line by line over the Graticule (R157). -/
def hbmSend (s : State) (src a : Nat) (bs : List Byte) : Nat → State
  | 0 => s
  | n + 1 =>
    if bs.isEmpty then s
    else
      hbmSend (newTxn s { cmd := 0x04, oc := 4, src := src, dst := hbmEp a, addr := a, len := min 64 bs.length, phase := 1, cls := 2, looked := s.commitNum
                          data := bs.take 64, gen := (endpOf s src).gen }) src (a + 64) (bs.drop 64) n

/-- DUMP_BLOCK_COMPLETE: the block is written and counted, or abandoned at a denied write, which counts the tick as missed (R412, R414). -/
def execDumpBlockComplete (s : State) : Res :=
  if !s.cnt.dumpBusy then .next s
  else
    let c := s.cnt
    let r := if c.dumpDest = 1 then (true, hbmSend s almanacEp c.dumpAddr c.dumpBlock 512) else dumpLines s c.dumpMaster c.dumpAddr c.dumpBlock 512
    let s := r.2
    let s := { s with cnt := { s.cnt with dumpBusy := false, dumpBlock := [], dumpMissed := if r.1 then s.cnt.dumpMissed else s.cnt.dumpMissed + 1 } }
    .next (count s (devCtr (if r.1 then 11 else 10)) 1)

/-- BW_WINDOW_END: the window counter of a port takes the bytes of its window, and its peak follows (R406, Table 17.2).
n is 0 for RX, 1 for TX. -/
def execBwWindowEnd (p : PortId) (n : Fin 2) (s : State) : Res :=
  let i := portCtr p (20 + n)
  let w := 2 ^ fld (tabVal s 0x3C i) 5 5 * 1000
  let st := smGet 0 s.cnt.winStart i
  let ends := (st / w + 1) * w
  if s.ts < ends then .next s
  else
    let b := if st % w = 0 then smGet 0 s.cnt.winAcc i else 0
    let c := { s.cnt with winAcc := smSet 0 s.cnt.winAcc i 0, winStart := smSet 0 s.cnt.winStart i (s.ts / w * w) }
    let c := if fld (tabVal s 0x3C i) 0 1 = 1 then { c with live := smSet 0 c.live i b } else c
    .next (peak { s with cnt := c } (portCtr p (22 + n)) b)

/-- TRACE_RECORD_WRITE: the oldest held record goes to the ring in HBM (R418). -/
def execTraceRecordWrite (t : TraceId) (s : State) : Res :=
  let b := smGet {} s.traces t
  let v := tabVal s 0x3F t
  let n := 2 ^ (fld v 96 4 + 10)
  match b.held with
  | [] => .next s
  | r :: rest =>
    if fld v 0 1 = 0 ∨ (b.full ∧ fld v 72 1 = 1) then .next { s with traces := smSet {} s.traces t { b with held := rest } }
    else
      let s := hbmWrite s (fld v 100 28 * 256 + 32 * (b.records % n)) (wordsBytes r)
      let full := b.full || b.records + 1 == n
      let rec' := min (2 ^ 31 - 1) (b.records + 1)
      let s := setLive (setLive s 0x3F t 41 31 rec') 0x3F t 18 1 (if full then 1 else 0)
      .next { s with traces := smSet {} s.traces t { b with held := rest, records := b.records + 1, full := full } }

end Sys2Proof.Machine
end

