-- ==== Sys2Proof/Machine/Crypto.lean ====
section
/-! DEFINITION. Digests of fixed length over the device's cryptographic engines (R423, R430). -/
namespace Sys2Proof.Machine

/-- A 64-byte SHA-512 digest. -/
def sha (bs : List Byte) : List Byte := slice (Config.sha512 bs) 0 64
/-- A 64-byte HMAC-SHA-512. -/
def mac (key msg : List Byte) : List Byte := slice (Config.hmac key msg) 0 64
/-- A 32-byte nonce. -/
def nonceOf (n : Nat) : List Byte := slice (Config.nonce n) 0 32
/-- The bytes of an ASCII string. -/
def ascii (s : String) : List Byte := s.toList.map fun c => BitVec.ofNat 8 c.toNat

end Sys2Proof.Machine
end

