-- ==== Sys2Proof/Machine/Meridian.lean ====
section
/-! DEFINITION. Meridian: images and their check, staging, live update, tokens, identity, SPDM, MCTP, the Legend (R419-R448, R266). -/
namespace Sys2Proof.Machine

/-! Straps (Table 19.4). -/

/-- Level of strap i, STRAP_A = 0 (R456). -/
def strapLevel (s : State) (i : Nat) : Nat := nbits s.boot.straps (3 * i) 3
/-- STRAP_C: 0 preferred bank, 1 bank A, 2 bank B, 3 recovery; 4-7 read as 0. -/
def strapC (s : State) : Nat := if 4 ≤ strapLevel s 2 then 0 else strapLevel s 2
/-- STRAP_H: the debug policy floor; 4-7 read as 3. -/
def strapH (s : State) : Nat := min 3 (strapLevel s 7)
/-- The debug policy in force: the stricter of eMRAM's and the floor (R370). -/
def debugPolicy (s : State) : Nat := max s.sec.policy (strapH s)

/-! Images (R423, R424). -/

/-- VERSION of a Cartouche. -/
def cartVersion (c : List Byte) : Nat := leAt c 8 4
/-- SVN. -/
def cartSvn (c : List Byte) : Nat := leAt c 12 4
/-- LENGTH. -/
def cartLength (c : List Byte) : Nat := leAt c 16 4
/-- ENTRY. -/
def cartEntry (c : List Byte) : Nat := leAt c 20 4
/-- KIND. -/
def cartKind (c : List Byte) : Nat := leAt c 6 1
/-- DIGEST. -/
def cartDigest (c : List Byte) : List Byte := slice c 32 64

/-- The key list entry. -/
def keyAt (s : State) (i : Nat) : KeyEnt := smGet {} s.sec.keys i

/-- The rollback counter of a KIND (R428). -/
def svnOf (s : State) (kind : Nat) : Nat := if kind = 1 then s.sec.svn1 else s.sec.svn2

/-- The checks of R424 on a Cartouche of an expected KIND, DIGEST apart, in their order. -/
def cartOk (s : State) (kind : Nat) (c : List Byte) : Bool :=
  let k := keyAt s (leAt c 7 1)
  c.length == 256 && leAt c 0 4 == 0x41435753 && leAt c 4 2 == 1 && cartKind c == kind &&
  slice c 24 8 == List.replicate 8 0 && slice c 96 28 == List.replicate 28 0 &&
  decide (1 ≤ cartLength c ∧ cartLength c ≤ (if kind = 1 then 261888 else 25165824)) &&
  decide (cartEntry c < cartLength c ∧ cartEntry c % 4 = 0) &&
  decide (leAt c 7 1 < 16) && k.state == 1 && k.purpose / 2 ^ (kind - 1) % 2 == 1 &&
  Config.ecdsaVerify k.pub (sha (c.take 124)) (slice c 124 132) && decide (svnOf s kind ≤ cartSvn c)

/-- An image is valid (R424). -/
def imageOk (s : State) (kind : Nat) (m : Image) : Bool :=
  m.valid && cartOk s kind m.cart && m.bytes.length == cartLength m.cart && cartDigest m.cart == sha m.bytes

/-- Flash bank b: 0 A, 1 B. -/
def bankOf (s : State) (b : Nat) : Image := if b = 0 then s.mer.flashA else s.mer.flashB
/-- eMRAM copy c. -/
def copyOf (s : State) (c : Nat) : Image := if c = 0 then s.mer.mer0 else s.mer.mer1

/-- Replacing what a staging of a KIND targets. -/
def setTarget (s : State) (kind t : Nat) (m : Image) : State :=
  { s with mer :=
    if kind = 2 then (if t = 0 then { s.mer with flashA := m } else { s.mer with flashB := m })
    else (if t = 0 then { s.mer with mer0 := m } else { s.mer with mer1 := m }) }

/-- HP0 address of image slot n (R441). -/
def slotAddr (n : Nat) : Nat := 0x800000000 + n * 0x2000000

/-! The Legend (Table 10.10). -/

/-- Every opcode given an entry has its bit set. -/
def opcodesField : Nat := (List.range 256).foldl (fun a n => if (opTier n).isSome then a + 2 ^ n else a) 0

/-- The 4 KiB of the Legend. -/
def legendBytes (s : State) : List Byte :=
  natBytes 4 s.legend.lgen ++ natBytes 2 1 ++ natBytes 2 0xA1 ++ ascii "SWN9696" ++ [0] ++ natBytes 8 Config.serial ++
    natBytes 1 (chipOf s) ++ natBytes 7 0 ++ ((List.range 12).flatMap fun t => natBytes 1 (profileOf s t)) ++ natBytes 4 0 ++
    ([64, 1024, 256, 16384, 256, 16, 64, 4096, 2048, 16, 48, 512, 4096, 512, 1536, 4].flatMap fun n => natBytes 2 n) ++
    natBytes 8 0xC00000000 ++ natBytes 4 0x800000 ++ natBytes 4 0 ++ natBytes 32 opcodesField ++ wordBytes s.legend.merVer ++
    wordBytes s.legend.stwVer ++ List.replicate 3952 0

/-- A change of a Legend field advances LGEN (R266). -/
def legendChanged (s : State) : State := { s with legend := { s.legend with lgen := (s.legend.lgen + 1) % 2 ^ 32 } }

/-- The fields of the Legend that change while the device runs: PROFILE, CHIP, MER_VER and STW_VER. -/
def legendFields (s : State) : List Nat := chipOf s :: s.legend.merVer.toNat :: s.legend.stwVer.toNat :: (List.range 12).map (profileOf s)

/-- A reset, the straps and SETTINGS advance LGEN where they change such a field: t is what they make of s. -/
def legendSync (s t : State) : State := if legendFields s = legendFields t then t else legendChanged t

/-! Management messages (R444-R446). -/

/-- The binding's number in what the block sends: 0 SMBus, 1 I3C, 2 + p PCIe VDM of port p, 200 Steward's mailbox. -/
def bindingOf : MctpSrc → Nat
  | .smbus => 0
  | .i3c => 1
  | .vdm p => 2 + p
  | .mailbox => 200

/-- The source's letter of Table 18.12: 0 S, 1 I, 2 F, 3 U admitted, 4 M, 5 none of them. -/
def srcLetter (s : State) : MctpSrc → Nat
  | .smbus => 0
  | .i3c => 1
  | .vdm p => if roleOf s p = 4 then 2 else if s.sec.admitMask.getLsbD p then 3 else 5
  | .mailbox => 4

/-- A response to a vendor command: CMD, STATUS, TAG, payload (R446). -/
def mgmtAnswer (s : State) (src : MctpSrc) (cmd : Nat) (tag : BitVec 16) (st : Nat) (body : List Byte) : State :=
  emit s (.mctp (bindingOf src) cmd st (natBytes 1 cmd ++ natBytes 1 st ++ natBytes 2 tag.toNat ++ body))

/-- A vendor command from a source its row accepts is handled, any other is answered DENIED (R446). -/
def vendor (s : State) (src : MctpSrc) (letters : List Nat) (cmd : Nat) (tag : BitVec 16) (f : State → State) : State :=
  if letters.contains (srcLetter s src) then f s else mgmtAnswer s src cmd tag 1 []

/-- A vendor command that Meridian handles: while Meridian does not run, its message waits in its sender (R454). -/
def merVendor (s : State) (src : MctpSrc) (letters : List Nat) (cmd : Nat) (tag : BitVec 16) (f : State → State) : State :=
  if s.mer.running then vendor s src letters cmd tag f else s

/-- Sources S I F M. -/
def fromSIFM : List Nat := [0, 1, 2, 4]
/-- Sources S I F U. -/
def fromSIFU : List Nat := [0, 1, 2, 3]

/-- The answer of an MCTP control command, type 0x00. -/
def control (s : State) (src : MctpSrc) (code : Nat) (body : List Byte) : State := emit s (.mctp (bindingOf src) (0x100 + code) 0 body)

/-- Set Endpoint ID: the binding's own EID. -/
def execSetEndpointId (src : MctpSrc) (eid : BitVec 8) (s : State) : Res :=
  .next (control { s with mctp := { s.mctp with eids := smSet 0 s.mctp.eids (bindingOf src) eid.toNat } } src 1 [eid])
/-- Get Endpoint ID. -/
def execGetEndpointId (src : MctpSrc) (s : State) : Res :=
  .next (control s src 2 (natBytes 1 (smGet 0 s.mctp.eids (bindingOf src))))
/-- Get Endpoint UUID: the device's, taken from its serial. -/
def execGetEndpointUuid (src : MctpSrc) (s : State) : Res := .next (control s src 3 (natBytes 16 Config.serial))
/-- Get MCTP Version Support. -/
def execGetMctpVersionSupport (src : MctpSrc) (s : State) : Res := .next (control s src 4 [])
/-- Get Message Type Support: the types of R445. -/
def execGetMessageTypeSupport (src : MctpSrc) (s : State) : Res := .next (control s src 5 [0x00, 0x05, 0x06, 0x07, 0x7E])
/-- Get Vendor Defined Message Support: Ahnikar's vendor ID. -/
def execGetVendorDefinedMessageSupport (src : MctpSrc) (s : State) : Res := .next (control s src 6 (natBytes 2 Config.vendorId.toNat))

/-- MCTP_DISCARD (R444, R445): a message of another type or above its reassembly limit is discarded and counted; a VDM of a USP
that the admitMask mask refuses is answered Unsupported (FM API) or DENIED (vendor). -/
def execMctpDiscard (src : MctpSrc) (typ : BitVec 8) (len : Nat) (s : State) : Res :=
  let known := typ.toNat ∈ [0x00, 0x05, 0x06, 0x07, 0x7E]
  if !known ∨ 65600 < len ∨ (typ ≠ 0x7E ∧ 8256 < len) then .next { s with mctp := { s.mctp with discarded := s.mctp.discarded + 1 } }
  else if srcLetter s src = 5 ∧ (typ = 0x07 ∨ typ = 0x7E) then
    .next (emit s (.mctp (bindingOf src) typ.toNat (if typ = 0x07 then 3 else 1) []))
  else .next s

/-- CHART: the message's chart waits on ring 9, 10 or 11 of the binding (R248, R445). -/
def execChart (src : MctpSrc) (tag : BitVec 16) (entry words : List Word) (s : State) : Res :=
  .next (vendor s src fromSIFU 1 tag fun s =>
    let r := match src with | .smbus => 9 | .i3c => 10 | _ => 11
    let l := smGet {} s.rings r
    { s with rings := smSet {} s.rings r { l with msgs := l.msgs ++ [{ binding := bindingOf src, entry := entry, words := words }] } })

/-- ALMANAC: one record whole, from a single generation (R397); a slot above 20,479 is ABSENT. -/
def execAlmanac (src : MctpSrc) (tag : BitVec 16) (slot : BitVec 32) (s : State) : Res :=
  .next (vendor s src [0, 1, 2] 3 tag fun s =>
    if slot.toNat < 20480 then mgmtAnswer s src 3 tag 0 (almBytes (almRecordAt s.alm slot.toNat)) else mgmtAnswer s src 3 tag 5 [])

/-- LEGEND. -/
def execLegend (src : MctpSrc) (tag : BitVec 16) (s : State) : Res :=
  .next (vendor s src fromSIFU 4 tag fun s => mgmtAnswer s src 4 tag 0 (legendBytes s))

/-- ADMIT, read: the VDM admitMask mask. -/
def execAdmitRead (src : MctpSrc) (tag : BitVec 16) (s : State) : Res :=
  .next (merVendor s src fromSIFM 5 tag fun s => mgmtAnswer s src 5 tag 0 (natBytes 12 s.sec.admitMask.toNat))

/-- ADMIT, write. -/
def execAdmitWrite (src : MctpSrc) (tag : BitVec 16) (mask : BitVec 96) (s : State) : Res :=
  .next (merVendor s src fromSIFM 5 tag fun s =>
    mgmtAnswer { s with sec := { s.sec with admitMask := mask } } src 5 tag 0 (natBytes 12 mask.toNat))

/-! Staging and activation (R429). -/

/-- What a staging of a KIND targets: the bank without the running image, the copy with the lower VERSION. -/
def stagingTarget (s : State) (kind : Nat) : Nat :=
  if kind = 2 then (if s.mer.stwBank = 0 then 1 else 0)
  else if cartVersion s.mer.mer0.cart < cartVersion s.mer.mer1.cart then 0 else 1

/-- FW_BEGIN: BUSY while a staging is open; the Cartouche is checked under R424 except for DIGEST. -/
def execFwBegin (src : MctpSrc) (tag : BitVec 16) (cart : List Byte) (s : State) : Res :=
  .next (merVendor s src fromSIFM 0x10 tag fun s =>
    let k := cartKind cart
    if s.mer.staging.isSome then mgmtAnswer s src 0x10 tag 3 []
    else if !((k == 1 || k == 2) && cartOk s k cart) then mgmtAnswer s src 0x10 tag 6 []
    else
      let t := stagingTarget s k
      let s := setTarget s k t { cart := cart, bytes := [], valid := false }
      mgmtAnswer { s with mer := { s.mer with staging := some ⟨k, t, cart, [], s.clock⟩,
                                              staged := if s.mer.staged = some t ∧ k = 2 then none else s.mer.staged } } src 0x10 tag 0 [])

/-- FW_DATA: a chunk at the next offset, counted from the Cartouche. -/
def execFwData (src : MctpSrc) (tag : BitVec 16) (off : BitVec 32) (data : List Byte) (s : State) : Res :=
  .next (merVendor s src fromSIFM 0x11 tag fun s =>
    match s.mer.staging with
    | none => mgmtAnswer s src 0x11 tag 5 []
    | some g =>
      if data.length = 0 ∨ 4096 < data.length ∨ off.toNat ≠ 256 + g.got.length ∨ cartLength g.cart < g.got.length + data.length then
        mgmtAnswer s src 0x11 tag 6 []
      else
        let s := setTarget s g.kind g.target { cart := g.cart, bytes := g.got ++ data, valid := false }
        mgmtAnswer { s with mer := { s.mer with staging := some { g with got := g.got ++ data, last := s.clock } } } src 0x11 tag 0 [])

/-- FW_END: DIGEST of the target read back; OK marks it valid, any failure marks it empty. -/
def execFwEnd (src : MctpSrc) (tag : BitVec 16) (s : State) : Res :=
  .next (merVendor s src fromSIFM 0x12 tag fun s =>
    match s.mer.staging with
    | none => mgmtAnswer s src 0x12 tag 5 []
    | some g =>
      let ok := g.got.length == cartLength g.cart && cartDigest g.cart == sha g.got
      let s := setTarget s g.kind g.target (if ok then { cart := g.cart, bytes := g.got, valid := true } else {})
      let s := { s with mer := { s.mer with staging := none, staged := if ok ∧ g.kind = 2 then some g.target else s.mer.staged } }
      mgmtAnswer s src 0x12 tag (if ok then 0 else 6) [])

/-- FW_STAGING_TIMEOUT: a staging idle for 10 s is abandoned and its target marked empty. -/
def execFwStagingTimeout (s : State) : Res :=
  match s.mer.staging with
  | none => .next s
  | some g =>
    if g.last + 10000000000 ≤ s.clock then
      let s := setTarget s g.kind g.target {}
      .next { s with mer := { s.mer with staging := none } }
    else .next s

/-- FW_ACTIVATE MODE 1: the staged bank becomes the preferred bank. -/
def execFwActivatePreferred (src : MctpSrc) (tag : BitVec 16) (s : State) : Res :=
  .next (merVendor s src fromSIFM 0x13 tag fun s =>
    if s.mer.staging.isSome then mgmtAnswer s src 0x13 tag 3 []
    else match s.mer.staged with
      | none => mgmtAnswer s src 0x13 tag 6 []
      | some b => mgmtAnswer { s with sec := { s.sec with prefBank := b } } src 0x13 tag 0 [])

/-- FW_ACTIVATE MODE 0 (R443, steps 1 and 2): the staged bank is verified into the unused HP0 slot, and HANDOVER_REQ is sent.
HANDOVER_MS 0 stands for the default of 100 ms. -/
def execFwActivateLive (src : MctpSrc) (tag : BitVec 16) (ms : BitVec 16) (s : State) : Res :=
  .next (merVendor s src fromSIFM 0x13 tag fun s =>
    let t := if ms = 0 then 100 else ms.toNat
    if s.mer.staging.isSome ∨ s.mer.upd.isSome then mgmtAnswer s src 0x13 tag 3 []
    else match s.mer.staged with
      | none => mgmtAnswer s src 0x13 tag 6 []
      | some b =>
        let m := bankOf s b
        let slot := 1 - s.stw.slot % 2
        if 1000 < t then mgmtAnswer s src 0x13 tag 6 []
        else if !(imageOk s 2 m) then
          mgmtAnswer (hbmWrite s (slotAddr slot) (List.replicate (256 + m.bytes.length) 0)) src 0x13 tag 6 []
        else
          let s := hbmWrite s (slotAddr slot) (m.cart ++ m.bytes)
          let s := { s with mer := { s.mer with upd := some ⟨2, slot, b, s.clock + t * 1000000, false⟩ } }
          mgmtAnswer (emit s (.steward 1 [])) src 0x13 tag 0 [])

/-- A chart that Meridian submits on ring 8 (Table 10.1): its instructions and data words. -/
def merSubmit (s : State) (instrs datas : List Word) : State :=
  let e : List Word := [0, 0, BitVec.ofNat 64 (instrs.length + datas.length * 2 ^ 16), 0, 0, 0, 0, 0]
  let l := smGet {} s.rings 8
  { s with rings := smSet {} s.rings 8 { l with msgs := l.msgs ++ [{ entry := e, words := instrs ++ datas }] } }

/-- Step 4 of R443: a ring-8 chart resets and holds cores 0-7 (MER.STEWARD, action 2). -/
def handoverHold (s : State) (u : LiveUpd) (ready : Bool) : State :=
  merSubmit { s with mer := { s.mer with upd := some { u with step := 4, ready := ready } } }
    [0x1804000000008000, 0xF004020000000000, 0] [0x2FF, 0]

/-- READY: Steward's answer to HANDOVER_REQ; in the cycle in which HANDOVER_MS expires it still counts (Table 18.15). -/
def execReady (s : State) : Res :=
  match s.mer.upd with
  | some u => if u.step = 2 ∧ s.mer.running then .next (handoverHold s u true) else .next s
  | none => .next s

/-- HANDOVER_TIMEOUT: HANDOVER_MS passes without READY. -/
def execHandoverTimeout (s : State) : Res :=
  match s.mer.upd with
  | some u => if u.step = 2 ∧ u.deadline ≤ s.clock ∧ s.mer.running then .next (handoverHold s u false) else .next s
  | none => .next s

/-- Measurements 3 and 4 take the image in HP0 slot of the update, and START_COMMIT (R443 step 5). -/
def switchMeasure (s : State) (u : LiveUpd) : State :=
  let c := (bankOf s u.bank).cart
  { s with mer := { s.mer with stwVersion := cartVersion c, stwSvn := cartSvn c, stwBank := u.bank, stwDigest := cartDigest c,
                               startCommit := s.commitNum } }

/-- ENGINE_PAUSE (R262, R443 step 5): Meridian pauses every engine once the cores are held, and switches the measurements. -/
def execEnginePause (s : State) : Res :=
  match s.mer.upd with
  | some u =>
    if u.step = 5 ∧ s.paused.isNone then .next (switchMeasure { s with paused := some s.clock } u) else .next s
  | none => .next s

/-- The time an engine spent paused does not count toward its limit (R252): from the pause, or from the boundary at which the engine stopped later.
An engine that has reached no boundary yet was not paused. -/
def addPause (s : State) (t : Nat) (x : Engine) : Engine :=
  if engineIdle x ∨ x.wait ≠ .run ∨ x.seq ≠ 0 then x else { x with paused := x.paused + (s.clock - max t x.boundary) }

/-- Step 6 of R443: a ring-8 chart runs MER.LEGEND for STW_VER, then MER.STEWARD release at the new ENTRY. -/
def submitResume (s : State) (u : LiveUpd) : State :=
  let c := (bankOf s u.bank).cart
  let ver : Word := BitVec.ofNat 64 (cartVersion c + cartSvn c * 2 ^ 32)
  let kind := if u.ready then 1 else 2
  let entry : Word := BitVec.ofNat 64 (slotAddr u.slot - 0x800000000 + 256 + cartEntry c)
  merSubmit s [0x1804000000008000, 0xF104020000000000, 0x1805000000008010, 0xF005020000000000, 0]
    [1, ver, BitVec.ofNat 64 (0xFF + 1 * 2 ^ 8 + kind * 2 ^ 12), entry]

/-- A chip soft reset drops the rings, with a chart of the live update that waits there: Meridian, which is kept, submits it again (log 89). -/
def resubmitUpdate (s : State) : State :=
  match s.mer.upd with
  | some u => if u.step = 4 then handoverHold s u u.ready else if u.step = 6 then submitResume s u else s
  | none => s

/-- ENGINE_RESUME (R262, R443 step 6): the pause ends, and a ring-8 chart writes STW_VER and releases the cores at the new ENTRY. -/
def execEngineResume (s : State) : Res :=
  match s.mer.upd, s.paused with
  | some u, some t =>
    .next (submitResume { s with paused := none, engines := s.engines.map fun e => (e.1, addPause s t e.2),
                                 mer := { s.mer with upd := some { u with step := 6 } }, stw := { s.stw with slot := u.slot } } u)
  | _, _ => .next s

/-- The status a MER.STEWARD block earns: action 3 or mask 0 is INVALID (Table 18.12a). -/
def merStewardAct (e : Nat) (s : State) (action : Nat) (f : State → Word → Word → Nat × State) : State :=
  onOp s e 0xF0 fun s x w =>
    let w0 := blockWord x w 0
    let st := blockStatus x w [rowBits [(9, 0), (15, 12)], allBits] 0
    if st = 0 ∧ wfld w0 8 2 ≠ action ∧ wfld w0 8 2 ≠ 3 then s
    else if e < 12 then finish s e x 1
    else if st ≠ 0 then finish s e x st
    else if wfld w0 8 2 = 3 ∨ wfld w0 0 8 = 0 ∨ 2 < wfld w0 12 4 then finish s e x 6
    else
      let r := f s w0 (blockWord x w 1)
      finish r.2 e (regSet x 1 0) r.1

/-- MER.STEWARD hold. -/
def execMerStewardHold (e : EngineId) (s : State) : Res :=
  .next (merStewardAct e s 0 fun s w0 _ => (0, { s with stw := { s.stw with held := s.stw.held ||| BitVec.ofNat 8 (wfld w0 0 8) } }))

/-- MER.STEWARD release: a core not held is BUSY; the cores start at the entry address with the boot kind. -/
def execMerStewardRelease (e : EngineId) (s : State) : Res :=
  .next (merStewardAct e s 1 fun s w0 w1 =>
    let m := BitVec.ofNat 8 (wfld w0 0 8)
    if s.stw.held &&& m ≠ m then (3, s)
    else (0, { s with stw := { s.stw with held := s.stw.held &&& ~~~m, running := true, entry := w1, bootKind := wfld w0 12 4 },
                      mer := { s.mer with upd := match s.mer.upd with | some u => if u.step = 6 then none else some u | none => none } }))

/-- MER.STEWARD reset and hold; in a live update this is the end of step 4. -/
def execMerStewardReset (e : EngineId) (s : State) : Res :=
  .next (merStewardAct e s 2 fun s w0 _ =>
    let h := s.stw.held ||| BitVec.ofNat 8 (wfld w0 0 8)
    (0, { s with stw := { s.stw with held := h, running := h != 0xFF && s.stw.running },
                 mer := { s.mer with upd := match s.mer.upd with
                   | some u => if u.step = 4 then some { u with step := 5 } else some u
                   | none => none } }))

/-- MER.LEGEND: writes MER_VER or STW_VER and advances LGEN. -/
def execMerLegend (e : EngineId) (s : State) : Res :=
  .next (onOp s e 0xF1 fun s x w =>
    let st := blockStatus x w [rowBits [(0, 0)], allBits] 0
    if e < 12 then finish s e x 1
    else if st ≠ 0 then finish s e x st
    else
      let v := blockWord x w 1
      let l := if wfld (blockWord x w 0) 0 1 = 0 then { s.legend with merVer := v } else { s.legend with stwVer := v }
      finish (legendChanged { s with legend := l }) e (regSet x 1 0) 0)

/-! Measurement reports (R435). -/

/-- The bytes a digest D_k is taken over: table ID, index, new value padded to whole words, in ascending order. -/
def reportBytes (es : List (Nat × Nat × Entry)) : List Byte :=
  es.flatMap fun e =>
    natBytes 1 e.1 ++ natBytes 4 e.2.1 ++
      natBytes (8 * (((tableInfo e.1).map (·.bits)).getD 64 / 64 + (if ((tableInfo e.1).map (·.bits)).getD 64 % 64 = 0 then 0 else 1))) e.2.2.toNat

/-- MEASUREMENT_REPORT: the oldest D_k reaches Meridian, and E := SHA-512(E ‖ k ‖ D_k). -/
def execMeasurementReport (s : State) : Res :=
  match s.mer.reports with
  | [] => .next s
  | r :: rest =>
    if s.mer.running then
      .next { s with mer := { s.mer with reports := rest, chain := sha (s.mer.chain ++ natBytes 8 r.k ++ sha (reportBytes r.entries)), chainK := r.k } }
    else .next s

/-! Tokens (R436-R439). -/

/-- CHALLENGE: serial, a fresh nonce that voids the previous one, boot count. -/
def execChallenge (src : MctpSrc) (tag : BitVec 16) (s : State) : Res :=
  .next (merVendor s src fromSIFM 0x14 tag fun s =>
    let n := nonceOf s.freeCtr
    mgmtAnswer (tick { s with mer := { s.mer with nonce := some n } }) src 0x14 tag 0 (natBytes 8 Config.serial ++ n ++ natBytes 4 s.sec.boot))

/-- The first check of R374, read for Table 18.8, that a management token fails; 0: none. -/
def tokenFails (s : State) (t : List Byte) : Nat :=
  let n := leAt t 52 4
  let k := keyAt s (leAt t 6 1)
  if leAt t 0 4 ≠ 0x544F5753 ∨ leAt t 4 2 ≠ 1 ∨ t.length ≠ 188 + n then 1
  else if leAt t 8 8 ≠ Config.serial ∨ some (slice t 16 32) ≠ s.mer.nonce ∨ leAt t 48 4 ≠ s.sec.boot then 2
  else if 16 ≤ leAt t 6 1 ∨ k.state ≠ 1 ∨ k.purpose / 8 % 2 = 0 ∨ k.origin ≠ (if s.sec.owned then 1 else 0) ∨
      !(Config.ecdsaVerify k.pub (sha (t.take (56 + n))) (slice t (56 + n) 132)) then 3
  else 0

/-- Closing an open Theodolite scope, which raises DEBUG_CLOSED with its cause (R374). -/
def closeScope (s : State) (cause : Nat) : State :=
  if s.dbg.scope = 0 then s else raiseEvent { s with dbg := { s.dbg with scope := 0, expiry := 0 } } 0x506 0 [cause]

/-- A management token's command (R437): refused DENIED, or accepted; then INVALID without effect, or its effect.
ok judges what the OP permits; the nonce is void after every presentation. A token of another OP of Table 18.9 is another row's. -/
def tokenCmd (s : State) (src : MctpSrc) (tag : BitVec 16) (t : List Byte) (op len : Nat)
    (ok : State → List Byte → Bool) (f : State → List Byte → State) : State :=
  if leAt t 7 1 ≠ op ∧ 1 ≤ leAt t 7 1 ∧ leAt t 7 1 ≤ 8 then s
  else merVendor s src fromSIFM 0x15 tag fun s =>
    let c := tokenFails s t
    let s := { s with mer := { s.mer with nonce := none } }
    if c ≠ 0 then mgmtAnswer (raiseEvent s 0x505 1 [c]) src 0x15 tag 1 []
    else
      let s := raiseEvent s 0x504 1 [leAt t 7 1, leAt t 6 1, 0]
      let body := slice t 56 (leAt t 52 4)
      if leAt t 7 1 = op ∧ leAt t 52 4 = len ∧ ok s body then mgmtAnswer (f s body) src 0x15 tag 0 []
      else mgmtAnswer s src 0x15 tag 6 []

/-- Every key list entry from 0 to 15, with its number. -/
def mapKeys (s : State) (f : Nat → KeyEnt → KeyEnt) : SMap KeyEnt :=
  (List.range 16).foldl (fun m i => smSet {} m i (f i (smGet {} m i))) s.sec.keys

/-- What TRANSFER and RELEASE apply together (R438): the Steward and debug entries of Ahnikar take the states named. -/
def ownership (s : State) (owned : Bool) (dig : List Byte) (stw dbg : Bool) (key : Option (List Byte)) : State :=
  let ks := mapKeys s fun _ k =>
    if k.origin = 1 then {}
    else if k.state = 3 ∨ k.state = 0 then k
    else if k.purpose / 2 % 2 = 1 then { k with state := if stw then 1 else 2 }
    else if k.purpose / 4 % 2 = 1 then { k with state := if dbg then 1 else 2 }
    else k
  let ks := match key with
    | some p => smSet {} ks 8 { pub := p, purpose := 14, state := 1, origin := 1 }
    | none => ks
  let off (m : SMap Entry) := (List.range 16).foldl (fun m i => smSet 0 m i (setFld (smGet 0 m i) 131 1 0)) m
  { s with
    sec := { s.sec with keys := ks, anchors := smErase s.sec.anchors (fun i => decide (1 ≤ i)), lockRegions := off s.sec.lockRegions,
                        fieldLock := 0, owned := owned, ownDig := dig }
    locks := off s.locks
    fieldLock := 0 }

/-- TRANSFER. -/
def execTransfer (src : MctpSrc) (tag : BitVec 16) (tok : List Byte) (s : State) : Res :=
  .next (tokenCmd s src tag tok 1 136 (fun _ b => decide (leAt b 132 4 < 4)) fun s b =>
    ownership s true (sha (slice b 0 132)) (leAt b 132 4 % 2 == 1) (leAt b 132 4 / 2 % 2 == 1) (some (slice b 0 132)))

/-- RELEASE, OWNED only. -/
def execRelease (src : MctpSrc) (tag : BitVec 16) (tok : List Byte) (s : State) : Res :=
  .next (tokenCmd s src tag tok 2 0 (fun s _ => s.sec.owned) fun s _ => ownership s false (List.replicate 64 0) true true none)

/-- What KEY_SET may do (R437): nothing to entry 0, to a revoked entry, or to an Ahnikar entry beyond revoking it. -/
def keySetOk (s : State) (b : List Byte) : Bool :=
  let i := leAt b 0 1
  let k := keyAt s i
  decide (1 ≤ i ∧ i < 16) && decide (leAt b 1 1 < 16 ∧ leAt b 2 1 ≤ 3 ∧ leAt b 3 1 = 0) && k.state != 3 &&
  (k.state == 0 || k.origin == 1 || (leAt b 2 1 == 3 && leAt b 1 1 == k.purpose && slice b 4 132 == slice k.pub 0 132))

/-- KEY_SET. -/
def execKeySet (src : MctpSrc) (tag : BitVec 16) (tok : List Byte) (s : State) : Res :=
  .next (tokenCmd s src tag tok 3 136 keySetOk fun s b =>
    let i := leAt b 0 1
    let k := keyAt s i
    let n : KeyEnt := if k.state ≠ 0 ∧ k.origin = 0 then { k with state := 3 }
      else { pub := slice b 4 132, purpose := leAt b 1 1, state := leAt b 2 1, origin := 1 }
    { s with sec := { s.sec with keys := smSet {} s.sec.keys i n } })

/-- ANCHOR_SET: slots 1-7; a zero digest empties the slot. -/
def execAnchorSet (src : MctpSrc) (tag : BitVec 16) (tok : List Byte) (s : State) : Res :=
  .next (tokenCmd s src tag tok 4 68 (fun _ b => decide (1 ≤ leAt b 0 1 ∧ leAt b 0 1 ≤ 7 ∧ leAt b 1 3 = 0)) fun s b =>
    let d := slice b 4 64
    { s with sec := { s.sec with anchors := smSet [] s.sec.anchors (leAt b 0 1) (if d = List.replicate 64 0 then [] else d) } })

/-- POLICY: a tightening closes an open scope (R374). -/
def execPolicy (src : MctpSrc) (tag : BitVec 16) (tok : List Byte) (s : State) : Res :=
  .next (tokenCmd s src tag tok 5 4 (fun _ b => decide (leAt b 0 1 ≤ 3 ∧ leAt b 1 3 = 0)) fun s b =>
    let t := { s with sec := { s.sec with policy := leAt b 0 1 } }
    if debugPolicy s < debugPolicy t then closeScope t 3 else t)

/-- LOCK_SET: the region takes effect at every fence unit (R369). -/
def execLockSet (src : MctpSrc) (tag : BitVec 16) (tok : List Byte) (s : State) : Res :=
  .next (tokenCmd s src tag tok 6 28
    (fun _ b => decide (leAt b 0 1 < 16 ∧ leAt b 1 3 = 0 ∧ leAt b 4 24 < 2 ^ 132)) fun s b =>
      let v : Entry := BitVec.ofNat 256 (leAt b 4 24)
      { s with sec := { s.sec with lockRegions := smSet 0 s.sec.lockRegions (leAt b 0 1) v }, locks := smSet 0 s.locks (leAt b 0 1) v })

/-- SVN_RAISE: a counter never falls (R428). -/
def execSvnRaise (src : MctpSrc) (tag : BitVec 16) (tok : List Byte) (s : State) : Res :=
  .next (tokenCmd s src tag tok 7 8 (fun _ b => decide ((leAt b 0 1 = 1 ∨ leAt b 0 1 = 2) ∧ leAt b 1 3 = 0)) fun s b =>
    if leAt b 0 1 = 1 then { s with sec := { s.sec with svn1 := max s.sec.svn1 (leAt b 4 4) } }
    else { s with sec := { s.sec with svn2 := max s.sec.svn2 (leAt b 4 4) } })

/-- FIELD_LOCK: the word takes effect in the engines and the arbiter (R439). -/
def execFieldLock (src : MctpSrc) (tag : BitVec 16) (tok : List Byte) (s : State) : Res :=
  .next (tokenCmd s src tag tok 8 4 (fun _ b => decide (leAt b 0 1 < 8 ∧ leAt b 1 3 = 0)) fun s b =>
    { s with sec := { s.sec with fieldLock := BitVec.ofNat 8 (leAt b 0 1) }, fieldLock := BitVec.ofNat 8 (leAt b 0 1) })

/-- STEWARD: an opaque message of 1-8,192 bytes for Steward's mailbox; ABSENT if Steward is not running. -/
def execSteward (src : MctpSrc) (tag : BitVec 16) (body : List Byte) (s : State) : Res :=
  .next (vendor s src fromSIFU 0x20 tag fun s =>
    if body.length = 0 ∨ 8192 < body.length then mgmtAnswer s src 0x20 tag 6 []
    else if s.stw.running then emit { s with stw := { s.stw with mailRx := body } } (.steward 2 body)
    else mgmtAnswer s src 0x20 tag 5 [])

/-! Identity (R430, R431). -/

/-- CDI of the running Meridian copy and the present owner. -/
def cdiOf (s : State) : List Byte :=
  mac Config.uds (cartDigest (copyOf s s.mer.copy).cart ++ natBytes 4 (cartSvn (copyOf s s.mer.copy).cart) ++ s.sec.ownDig)
/-- The seed of the Alias key. -/
def aliasSeedOf (s : State) : List Byte := mac (cdiOf s) (ascii "ihlyon alias")
/-- The seed of the DeviceID key. -/
def deviceSeed : List Byte := mac Config.uds (ascii "ihlyon device id")
/-- The certificate chain of slot 0: root and DeviceID, then Alias (R431). -/
def certChain (s : State) : List Byte :=
  Config.deviceCert ++ Config.aliasCert s.mer.aliasSeed (cartVersion (copyOf s s.mer.copy).cart) (cartSvn (copyOf s s.mer.copy).cart)

/-! SPDM (R432-R434). -/

/-- The transport's number in what the block sends: the MCTP binding, 300 + p DOE of port p, 400 + p MGMT_MSG of port p. -/
def viaOf : SpdmVia → Nat
  | .mctp src => bindingOf src
  | .doe p => 300 + p
  | .mgmt p => 400 + p

/-- The transport exists: DOE on a USP, MGMT_MSG on an ISL, MCTP on every binding (Table 18.6). -/
def viaOk (s : State) : SpdmVia → Bool
  | .mctp .mailbox => false
  | .mctp _ => true
  | .doe p => roleOf s p == 1
  | .mgmt p => roleOf s p == 3

/-- An SPDM answer: code and content; 0x7F is an error. Without Meridian the message waits (R454). -/
def spdm (s : State) (via : SpdmVia) (f : State → State) : State := if s.mer.running && viaOk s via then f s else s

/-- Sending an SPDM answer. -/
def spdmSend (s : State) (via : SpdmVia) (code : Nat) (body : List Byte) : State := emit s (.mctp (viaOf via) (0x500 + code) 0 body)

/-- GET_VERSION: 1.3, and 1.2 for a partner without it (R432). -/
def execGetVersion (via : SpdmVia) (s : State) : Res :=
  .next (spdm s via fun s => spdmSend { s with mer := { s.mer with spdmState := 1 } } via 0x04 [0x13, 0x12])
/-- GET_CAPABILITIES: the capabilities of Table 18.6, in its order. -/
def execGetCapabilities (via : SpdmVia) (s : State) : Res :=
  .next (spdm s via fun s => spdmSend { s with mer := { s.mer with spdmState := 2 } } via 0x61
    (ascii "CERT CHAL MEAS MEAS_FRESH KEY_EX MUT_AUTH ENCRYPT MAC KEY_UPD HBEAT CHUNK"))
/-- NEGOTIATE_ALGORITHMS: the algorithms of Table 18.6. -/
def execNegotiateAlgorithms (via : SpdmVia) (s : State) : Res :=
  .next (spdm s via fun s => spdmSend { s with mer := { s.mer with spdmState := 3 } } via 0x63
    (ascii "ECDSA P-521 SHA-512 secp521r1 AES-256-GCM DMTF"))
/-- GET_DIGESTS: slot 0 alone holds a chain (R431). -/
def execGetDigests (via : SpdmVia) (s : State) : Res :=
  .next (spdm s via fun s => spdmSend s via 0x01 ([1] ++ sha (certChain s)))
/-- GET_CERTIFICATE: slots 1-7 are empty. -/
def execGetCertificate (via : SpdmVia) (slot : Fin 8) (s : State) : Res :=
  .next (spdm s via fun s => if slot.val = 0 then spdmSend s via 0x02 (certChain s) else spdmSend s via 0x7F [])
/-- SPDM CHALLENGE: answered by the Alias key over a fresh nonce. -/
def execSpdmChallenge (via : SpdmVia) (nonce : List Byte) (s : State) : Res :=
  .next (spdm s via fun s =>
    let n := nonceOf s.freeCtr
    spdmSend (tick s) via 0x03 (n ++ Config.ecdsaSign s.mer.aliasSeed (sha (sha (certChain s) ++ nonce ++ n))))

/-- SHA-512 of the 16 lock regions and the key list (measurement 6). -/
def securityDigest (s : State) : List Byte :=
  sha (((List.range 16).flatMap fun i => natBytes 24 (smGet 0 s.sec.lockRegions i).toNat) ++
    ((List.range 16).flatMap fun i =>
      let k := keyAt s i
      slice k.pub 0 132 ++ natBytes 1 k.purpose ++ natBytes 1 k.state ++ natBytes 1 k.origin ++ natBytes 9 0))

/-- A measurement block's content (Table 18.7). -/
def measurement (s : State) (i : Nat) : List Byte :=
  match i with
  | 1 => sha Config.maskRom
  | 2 => cartDigest (copyOf s s.mer.copy).cart
  | 3 => s.mer.stwDigest
  | 4 => natBytes 4 s.mer.stwVersion ++ natBytes 4 s.mer.stwSvn ++ natBytes 1 s.mer.stwBank ++ natBytes 3 0 ++ natBytes 8 s.mer.startCommit
  | 5 => natBytes 8 s.mer.chainK ++ s.mer.chain
  | 6 => natBytes 1 (debugPolicy s) ++ natBytes 1 (if s.sec.owned then 1 else 0) ++ natBytes 1 s.sec.fieldLock.toNat ++ natBytes 5 0 ++
         s.sec.ownDig ++ securityDigest s
  | 7 => natBytes 4 s.boot.straps
  | _ => []

/-- GET_MEASUREMENTS: the count, one block, or all seven, signed by the Alias key. -/
def execGetMeasurements (via : SpdmVia) (idx : BitVec 8) (s : State) : Res :=
  .next (spdm s via fun s =>
    let body := if idx = 0 then [7] else if idx = 0xFF then (List.range 7).flatMap fun i => measurement s (i + 1) else measurement s idx.toNat
    if 7 < idx.toNat ∧ idx ≠ 0xFF then spdmSend s via 0x7F []
    else spdmSend s via 0x60 (body ++ Config.ecdsaSign s.mer.aliasSeed (sha body)))

/-- The lowest session number free, of 16. -/
def freeSession (s : State) : Option Nat := findFrom (fun i => !(s.mer.sessions.any fun e => e.1 == i)) 0 16

/-- KEY_EXCHANGE: establishes a session, of at most 16; over MGMT_MSG the peer's root must be a trust anchor (Table 18.6). -/
def execKeyExchange (via : SpdmVia) (peer : Word) (root : List Byte) (s : State) : Res :=
  .next (spdm s via fun s =>
    let asks := match via with | .mgmt _ => true | _ => false
    let anchored := root == Config.ahnikarRoot || (List.range 7).any fun i => smGet [] s.sec.anchors (i + 1) == root && root != []
    match freeSession s with
    | none => spdmSend s via 0x7F []
    | some i =>
      if asks && !anchored then spdmSend s via 0x7F []
      else
        let p := match via with | .mgmt p => p.val | .doe p => p.val | .mctp _ => 0
        let x : Session := { transport := viaOf via, port := p, deadline := s.clock + 60000000000, peer := peer.toNat, keyGen := s.freeCtr }
        spdmSend { s with mer := { s.mer with sessions := smPut s.mer.sessions i x }, freeCtr := s.freeCtr + 1 }
          via 0x64 (natBytes 2 i))

/-- A session that is established. -/
def sessionOf (s : State) (i : Nat) : Option Session := (s.mer.sessions.find? fun e => e.1 == i).map (·.2)

/-- Changing an established session. -/
def onSession (s : State) (i : Nat) (f : Session → Session) : State :=
  match sessionOf s i with
  | some x => if s.mer.running then { s with mer := { s.mer with sessions := smPut s.mer.sessions i (f x) } } else s
  | none => s

/-- HEARTBEAT keeps a session alive for 60 s more (R433). -/
def execHeartbeat (sess : BitVec 16) (s : State) : Res :=
  .next (onSession s sess.toNat fun x => { x with deadline := s.clock + 60000000000 })
/-- KEY_UPDATE: the session's data keys are new; its export master secret stays. -/
def execKeyUpdate (sess : BitVec 16) (s : State) : Res := .next (onSession s sess.toNat fun x => { x with updates := x.updates + 1 })
/-- END_SESSION ends the session (R433). -/
def execEndSession (sess : BitVec 16) (s : State) : Res :=
  .next { s with mer := { s.mer with sessions := smDel s.mer.sessions sess.toNat } }
/-- SPDM_HEARTBEAT_TIMEOUT: 60 s without a heartbeat (R433). -/
def execSpdmHeartbeatTimeout (sess : BitVec 16) (s : State) : Res :=
  match sessionOf s sess.toNat with
  | some x => if x.deadline ≤ s.clock then .next { s with mer := { s.mer with sessions := smDel s.mer.sessions sess.toNat } } else .next s
  | none => .next s

/-- ENTDAA: the dynamic I3C address (R444). -/
def execEntdaa (addr : BitVec 7) (s : State) : Res := .next { s with mctp := { s.mctp with i3cDynamic := some addr.toNat } }

/-- The I3C address in force: dynamic, else the static one of STRAP_D (Table 19.4). -/
def i3cAddress (s : State) : Nat := s.mctp.i3cDynamic.getD (0x64 + strapLevel s 3)

end Sys2Proof.Machine
end

