-- ==== Sys2Proof/Machine/Slots.lean ====
section
/-! DEFINITION. Slot power channels (R311-R331): settings, ramp, qualification, limits, trips, feeds, and SLOT.ON, SLOT.OFF, SLOT.STATUS. -/
namespace Sys2Proof.Machine

/-- A channel. -/
def slotOf (s : State) (c : Nat) : SlotCh := smGet {} s.slots c
/-- Replacing a channel. -/
def setSlot (s : State) (c : Nat) (h : SlotCh) : State := { s with slots := smSet {} s.slots c h }

/-- The settings the slot controller applies: those before the flip until its next sample (R316). -/
def slotEff (s : State) (c : Nat) : Entry := if (slotOf s c).fresh then (slotOf s c).eff else tabVal s 0x38 c

/-- A committed entry waits for the next sample: the settings in effect stay those before it (R316). -/
def slotFresh (s : State) (c : Nat) (old : Entry) : State :=
  let h := slotOf s c
  setSlot s c { h with fresh := true, eff := if h.fresh then h.eff else old }

/-- V_NOM in 0.1 V (R314). -/
def slotVnom (v : Entry) : Nat := if fld v 8 1 = 0 then 120 else 540
/-- FEED_MODE: priority selection. -/
def slotPrio (v : Entry) : Bool := fld v 9 1 == 1
/-- FEED_B_EN. -/
def slotFitB (v : Entry) : Bool := fld v 10 1 == 1
/-- ILIM. -/
def slotIlim (v : Entry) : Nat := fld v 12 7

/-- Running: RAMP, QUAL or ON. -/
def slotRuns (h : SlotCh) : Bool := decide (1 ≤ h.st ∧ h.st ≤ 3)
/-- A fitted feed is valid. -/
def slotFed (v : Entry) (h : SlotCh) : Bool := h.okA || (slotFitB v && h.okB)

/-- The status word of Table 13.3. -/
def slotWord (v : Entry) (h : SlotCh) : Word :=
  let b (x : Bool) (n : Nat) : Nat := if x then 2 ^ n else 0
  BitVec.ofNat 64 (h.vout * 2 ^ 54 + h.isense * 2 ^ 44 + h.feedA * 2 ^ 34 + h.feedB * 2 ^ 24 + h.st * 2 ^ 16 + h.trip * 2 ^ 14 +
    b h.cmdOn 13 + b h.enPin 12 + b h.pg 11 + b h.inLimit 10 + b h.foldback 9 + b h.gateA 8 + b h.gateB 7 + b h.okA 6 +
    b (h.okB && slotFitB v) 5 + b h.activeB 4)

/-- A refresh of the measurements by the monitor ADC (R317). -/
def slotAdc (h : SlotCh) (a : SlotAdc) : SlotCh :=
  { h with vout := a.vout.toNat, isense := a.isense.toNat, feedA := a.feedA.toNat, feedB := a.feedB.toNat, peak := max h.peak a.isense.toNat }

/-- PERST# follows a deasserted PG where the settings name a pin (R321). -/
def perstAssert (s : State) (v : Entry) : State :=
  if fld v 96 6 < 48 then { s with pinLow := smSet false s.pinLow (fld v 96 6) true } else s

/-- Every gate of a channel off, PG deasserted, and its next state. -/
def slotOffTo (s : State) (c : Nat) (h : SlotCh) (st : Nat) : State :=
  perstAssert (setSlot s c { h with st := st, pg := false, inLimit := false, foldback := false, gateA := false, gateB := false,
                                    handover := none, driven := false, limitAt := s.clock }) (slotEff s c)

/-- A ramp begins (R319), or the channel waits for a feed (Table 13.4). -/
def slotStart (s : State) (c : Nat) (h : SlotCh) : State :=
  let v := slotEff s c
  if slotFed v h then
    let a := h.okA
    let b := if slotPrio v then !h.okA else h.okB && slotFitB v
    setSlot s c { h with st := 1, trip := 0, pg := false, inLimit := false, foldback := false, gateA := a, gateB := b,
                         activeB := slotPrio v && b, handover := none, driven := false, peak := 0, pgSince := false,
                         limitUs := 0, limitAt := s.clock, ramp := v }
  else raiseEvent (setSlot s c { h with st := 5 }) 0x415 c []

/-- Entering WAIT_FEED from a running state: SLOT_PG_LOST if PG was asserted. -/
def slotStarve (s : State) (c : Nat) (h : SlotCh) : State :=
  let s := slotOffTo s c h 5
  raiseEvent (if h.pg then raiseEvent s 0x412 c [] else s) 0x415 c []

/-- Latch-off with its cause (R318, R322, R330). -/
def slotTrip (s : State) (c : Nat) (h : SlotCh) (cause : Nat) : State :=
  raiseEvent (slotOffTo s c { h with trip := cause } 4) 0x411 c [cause, h.peak]

/-- CMD_ON is set and, from OFF with EN high, the channel starts (Table 13.4). -/
def slotCmdOn (s : State) (c : Nat) : State :=
  let h := { slotOf s c with cmdOn := true }
  if h.st = 0 ∧ h.enPin then slotStart s c h else setSlot s c h

/-- SLOT.OFF: gates off, PG deasserted, CMD_ON := 0, latch cleared; TRIP is kept. -/
def slotCmdOff (s : State) (c : Nat) : State := slotOffTo s c { slotOf s c with cmdOn := false } 0

/-- The engine runs a SLOT.ON that waits on channel c. -/
def waitsSlotOn (x : Engine) (c : Nat) : Bool :=
  x.wait == .macroStep && opcodeOf (wordAt x) == 0xA2 && x.seqA == c && !(engineIdle x)

/-- Every SLOT.ON waiting on a channel returns its status word. -/
def slotOnReturn (s : State) (c : Nat) : State :=
  (List.range 16).foldl (fun s e =>
    let x := engineOf s e
    if waitsSlotOn x c then finish s e (regSet x 1 (slotWord (slotEff s c) (slotOf s c))) 0 else s) s

/-- R24: the tile engine of the mapped port's tile, or a global engine. -/
def slotScope (s : State) (e c : Nat) : Bool :=
  decide (12 ≤ e) || (decide (tabFld s 0x38 c 0 7 < 96) && tabFld s 0x38 c 0 7 / 8 == e)

/-- SLOT.ON (R325, R329). -/
def execSlotOn (e : EngineId) (adc : SlotAdc) (s : State) : Res :=
  .next (macroThen s e 0xA2 [rowBits [(4, 0)]] 0 .any false fun s x b =>
    let c := wfld (b 0) 0 5
    let h := slotAdc (slotOf s c) adc
    if !(slotScope s e c) then finish s e x 1
    else if h.st = 4 ∨ !h.enPin then finish s e x 3
    else if h.st = 3 then
      finish (setSlot s c { h with cmdOn := true }) e (regSet x 1 (slotWord (slotEff s c) { h with cmdOn := true })) 0
    else setEngine (slotCmdOn (setSlot s c h) c) e (seqWait x 1 c (s.clock + 100000000)))

/-- SLOT_ON_TIMEOUT: 100 ms pass without PG; CMD_ON stays 1 (R329). -/
def execSlotOnTimeout (e : EngineId) (s : State) : Res :=
  let x := engineOf s e
  if waitsSlotOn x x.seqA ∧ x.seqB ≤ s.clock then .next (finish s e x 7) else .next s

/-- SLOT.OFF. -/
def execSlotOff (e : EngineId) (s : State) : Res :=
  .next (macroOp s e 0xA3 [rowBits [(4, 0)]] 0 .any fun s x b =>
    let c := wfld (b 0) 0 5
    if !(slotScope s e c) then (1, s, x) else (0, slotCmdOff s c, x))

/-- SLOT.STATUS. -/
def execSlotStatus (e : EngineId) (adc : SlotAdc) (s : State) : Res :=
  .next (macroOp s e 0xA4 [rowBits [(4, 0)]] 0 .any fun s x b =>
    let c := wfld (b 0) 0 5
    if !(slotScope s e c) then (1, s, x)
    else
      let s := setSlot s c (slotAdc (slotOf s c) adc)
      (0, s, regSet x 1 (slotWord (slotEff s c) (slotOf s c))))

/-- The break-before-make of R328 begins: the active switch is turned off. -/
def handoverBegin (s : State) (c : Nat) (h : SlotCh) : State :=
  setSlot s c { h with gateA := false, gateB := false, handover := some s.clock, driven := false }

/-- A priority channel whose active feed is gone hands over when the other feed is valid (R328). -/
def prioLost (s : State) (c : Nat) (v : Entry) (h : SlotCh) : State :=
  if (if h.activeB then h.okA else h.okB && slotFitB v) then handoverBegin s c h else setSlot s c { h with gateA := false, gateB := false }

/-- FEED_VALID (R326-R328): V(SRC_x) at or above 0.85 × V_NOM. -/
def execFeedValid (c : ChannelId) (feed : Fin 2) (dv : BitVec 10) (above : Bool) (s : State) : Res :=
  let v := slotEff s c
  let h := slotOf s c
  let isB := feed.val = 1
  let was := if isB then h.okB else h.okA
  let h := if isB then { h with feedB := dv.toNat } else { h with feedA := dv.toNat }
  if dv.toNat * 100 < 85 * slotVnom v ∨ (isB ∧ !(slotFitB v)) then .next (setSlot s c h)
  else
    let h := if isB then { h with okB := true } else { h with okA := true, validAt := if was then h.validAt else s.clock }
    let s1 := if was then setSlot s c h else raiseEvent (setSlot s c h) 0x413 c []
    if h.st = 5 then .next (slotStart s1 c h)
    else if !(slotRuns h) then .next s1
    else if slotPrio v then
      if h.handover.isNone ∧ !h.gateA ∧ !h.gateB then
        if isB = h.activeB then
          .next (if above then setSlot s1 c { h with gateA := !isB, gateB := isB } else s1)
        else .next (handoverBegin s1 c h)
      else .next s1
    else if above ∧ (if isB then !h.gateB else !h.gateA) then
      .next (raiseEvent (setSlot s1 c { h with gateA := h.gateA || !isB, gateB := h.gateB || isB }) 0x413 c [])
    else .next s1

/-- FEED_INVALID (R326): V(SRC_x) below 0.80 × V_NOM. -/
def execFeedInvalid (c : ChannelId) (feed : Fin 2) (dv : BitVec 10) (s : State) : Res :=
  let v := slotEff s c
  let h := slotOf s c
  let isB := feed.val = 1
  let was := if isB then h.okB else h.okA
  let h := if isB then { h with feedB := dv.toNat } else { h with feedA := dv.toNat }
  if 80 * slotVnom v ≤ dv.toNat * 100 ∨ !was then .next (setSlot s c h)
  else
    let h := if isB then { h with okB := false } else { h with okA := false }
    let s1 := raiseEvent s 0x413 c []
    if !(slotRuns h) then .next (setSlot s1 c h)
    else if !(slotFed v h) then .next (slotStarve s1 c h)
    else if slotPrio v then
      if isB = h.activeB then .next (prioLost s1 c v h) else .next (setSlot s1 c h)
    else .next (setSlot s1 c (if isB then { h with gateB := false } else { h with gateA := false }))

/-- REVERSE (R326-R328): the switch is turned off within 300 ns; a priority channel hands over. -/
def execReverse (c : ChannelId) (feed : Fin 2) (s : State) : Res :=
  let v := slotEff s c
  let h := slotOf s c
  let isB := feed.val = 1
  if !(slotRuns h) ∨ (if isB then !h.gateB else !h.gateA) then .next s
  else if slotPrio v then .next (prioLost s c v h)
  else .next (raiseEvent (setSlot s c (if isB then { h with gateB := false } else { h with gateA := false })) 0x413 c [])

/-- RAMP_DONE: every switch driven on has V_DS of at most 200 mV: RAMP goes to QUAL, and a handover completes (Tables 13.4, 13.8). -/
def execRampDone (c : ChannelId) (vds : Nat) (s : State) : Res :=
  let h := slotOf s c
  if 200 < vds ∨ !(slotRuns h) then .next s
  else
    let s1 := if h.driven then raiseEvent s 0x413 c [] else s
    let h := if h.driven then { h with driven := false, activeB := h.gateB } else h
    .next (setSlot s1 c (if h.st = 1 then { h with st := 2, qualAt := s.clock, qual := fld (slotEff s c) 64 9 } else h))

/-- SLOT_PG: the sample that completes PG_QUAL × 100 consecutive good samples (R318, R323). A sample that is not good restarts the count. -/
def execSlotPg (c : ChannelId) (adc : SlotAdc) (vds : Nat) (s : State) : Res :=
  let h := slotAdc (slotOf s c) adc
  if h.st ≠ 2 then .next (setSlot s c h)
  else if 200 < vds ∨ h.vout * 10 < 9 * slotVnom (slotEff s c) ∨ h.inLimit then .next (setSlot s c { h with qualAt := s.clock })
  else if s.clock < h.qualAt + h.qual * 100000 then .next (setSlot s c h)
  else
    let s := setSlot s c { h with st := 3, pg := true, pgAt := s.clock, pgSince := true, limitUs := 0, limitAt := s.clock }
    .next (slotOnReturn (raiseEvent s 0x410 c []) c)

/-- VOUT_LOW (R324): in ON below 0.8 × V_NOM, PG falls and qualification starts again; in QUAL below 0.9 × V_NOM the count restarts. -/
def execVoutLow (c : ChannelId) (dv : BitVec 10) (s : State) : Res :=
  let v := slotEff s c
  let h : SlotCh := { slotOf s c with vout := dv.toNat }
  if h.st = 3 ∧ dv.toNat * 10 < 8 * slotVnom v then
    let s := perstAssert (setSlot s c { h with st := 2, pg := false, qualAt := s.clock, qual := fld v 64 9 }) v
    .next (raiseEvent s 0x412 c [])
  else if h.st = 2 ∧ dv.toNat * 10 < 9 * slotVnom v then .next (setSlot s c { h with qualAt := s.clock })
  else .next (setSlot s c h)

/-- The limit of R319 in µV, for the largest V_DS in mV over the switches driven on. -/
def slotLimitUv (ilim plim vds : Nat) : Nat :=
  if plim = 0 ∨ vds = 0 then ilim * 500 else min (ilim * 500) (max (plim * 1000000 / vds) 500)

/-- SLOT_LIMIT: a sample's V_SENSE against the limit (R319, R320): IN_LIMIT, FOLDBACK, the limit count, and a limit episode while PG. -/
def execSlotLimit (c : ChannelId) (isense : BitVec 10) (vds : Nat) (s : State) : Res :=
  let v := slotEff s c
  let h := slotOf s c
  let h := { h with isense := isense.toNat, peak := max h.peak isense.toNat }
  if !(slotRuns h) then .next (setSlot s c h)
  else
    let lim := slotLimitUv (slotIlim v) (fld h.ramp 44 12) vds
    if lim ≤ isense.toNat * 200 then
      let n := { h with inLimit := true, foldback := decide (lim < slotIlim v * 500), qualAt := s.clock,
                        limitAt := if h.inLimit then h.limitAt else s.clock,
                        limitUs := if h.inLimit ∨ s.clock < h.limitAt + 1000000 then h.limitUs else 0 }
      .next (if h.pg ∧ !h.inLimit then raiseEvent (setSlot s c n) 0x414 c [] else setSlot s c n)
    else
      let n := if h.inLimit then { h with limitUs := h.limitUs + (s.clock - h.limitAt) / 1000, limitAt := s.clock, qualAt := s.clock } else h
      .next (setSlot s c { n with inLimit := false, foldback := false })

/-- The applicable timer in µs: START_T until PG has been asserted since the ramp began, FAULT_T after (R318). -/
def slotTimerUs (v : Entry) (h : SlotCh) : Nat := (if h.pgSince then fld v 20 10 else fld h.ramp 32 10) * 50

/-- LIMIT_TIMER_EXPIRY: time in limit reaches the applicable timer (R318, R320). -/
def execLimitTimerExpiry (c : ChannelId) (s : State) : Res :=
  let h := slotOf s c
  if slotRuns h ∧ h.inLimit ∧ slotTimerUs (slotEff s c) h ≤ h.limitUs + (s.clock - h.limitAt) / 1000 then
    .next (slotTrip s c h (if h.pgSince then 1 else 2))
  else .next s

/-- LIMIT_COUNT_RESET: 1 ms without IN_LIMIT (R320). -/
def execLimitCountReset (c : ChannelId) (s : State) : Res :=
  let h := slotOf s c
  if !h.inLimit ∧ h.limitAt + 1000000 ≤ s.clock then .next (setSlot s c { h with limitUs := 0 }) else .next s

/-- SEVERE_OVERCURRENT: V_SENSE reaches 3 × ILIM / 2 mV in RAMP, QUAL or ON (R322). -/
def execSevereOvercurrent (c : ChannelId) (isense : BitVec 10) (s : State) : Res :=
  let h := slotOf s c
  let h := { h with isense := isense.toNat, peak := max h.peak isense.toNat }
  if slotRuns h ∧ 15 * slotIlim (slotEff s c) ≤ 2 * isense.toNat then .next (slotTrip s c h 3) else .next (setSlot s c h)

/-- EN_LOW_OFF: EN low for 3 samples turns a running or waiting channel off, without clearing a latch (R318, R325). -/
def execEnLowOff (c : ChannelId) (s : State) : Res :=
  let h := { slotOf s c with enPin := false }
  if slotRuns h ∨ h.st = 5 then
    let s1 := slotOffTo s c h 0
    .next (raiseEvent (if h.pg then raiseEvent s1 0x412 c [] else s1) 0x416 c [])
  else .next (setSlot s c h)

/-- EN_LOW_LATCH_CLEAR: EN low for 10 samples clears a latch; TRIP is kept (R325). -/
def execEnLowLatchClear (c : ChannelId) (s : State) : Res :=
  let h := { slotOf s c with enPin := false }
  if h.st = 4 then .next (raiseEvent (setSlot s c { h with st := 0 }) 0x416 c []) else .next (setSlot s c h)

/-- EN_HIGH: from OFF, a channel with CMD_ON = 1 ramps again (R318). -/
def execEnHigh (c : ChannelId) (s : State) : Res :=
  let h := { slotOf s c with enPin := true }
  if h.st = 0 ∧ h.cmdOn then .next (slotStart s c h) else .next (setSlot s c h)

/-- HANDOVER_CONFIRMED: the active gate has been off for 2 µs; the other gate is driven at 40 mA (R328). -/
def execHandoverConfirmed (c : ChannelId) (s : State) : Res :=
  let h := slotOf s c
  match h.handover with
  | some t =>
    if t + 2000 ≤ s.clock ∧ slotRuns h then
      .next (setSlot s c { h with handover := none, driven := true, gateA := h.activeB, gateB := !h.activeB })
    else .next s
  | none => .next s

/-- HANDBACK: feed A has been valid for 100 ms while feed B carries a priority channel (R328). -/
def execHandback (c : ChannelId) (s : State) : Res :=
  let h := slotOf s c
  if slotRuns h ∧ slotPrio (slotEff s c) ∧ h.activeB ∧ h.okA ∧ h.handover.isNone ∧ !h.driven ∧ h.validAt + 100000000 ≤ s.clock then
    .next (handoverBegin s c h)
  else .next s

/-- SLOT_SETTINGS_APPLY: committed settings act from the slot controller's next sample (R316, R321). -/
def execSlotSettingsApply (c : ChannelId) (s : State) : Res :=
  let h := slotOf s c
  if h.fresh then
    let s := setSlot s c { h with fresh := false, eff := 0, okB := h.okB && slotFitB (tabVal s 0x38 c) }
    .next (if h.pg then s else perstAssert s (tabVal s 0x38 c))
  else .next s

/-- Every field of every channel at its reset value, its gates off: PWR_OK or VDD_PCD falls (R23, Table 13.4). -/
def slotsReset (s : State) : State :=
  { (List.range 32).foldl (fun s c => perstAssert s (slotEff s c)) s with slots := [] }

/-- VDD_PCD_UNDERVOLTAGE (R23). -/
def execVddPcdUndervoltage (s : State) : Res := .next (slotsReset s)

end Sys2Proof.Machine
end

