-- ==== Sys2Proof/Machine/Regs.lean ====
section
/-! DEFINITION. The registers of the service endpoint and of Steward: BAR0, doorbells, ring slots, event queue pages, MSI-X, windows, the status mirror (R338-R344, R385, R389, R397, R410, R441, R498). -/
namespace Sys2Proof.Machine

/-! The functions' rings (R334, R498). -/

/-- First ring and number of rings of a function: PF0 holds eight, a fabric management function the ring assigned to it. -/
def fnRings (s : State) (f : Nat) : Nat × Nat :=
  if f < 2048 then (funcFld s f 36 12, funcFld s f 32 4)
  else match roleOf s (f - 2048) with
    | 1 => (16 + 8 * (f - 2048), 8)
    | 4 => match [12, 13].find? fun r => tabFld s 0x30 r 116 16 == 0x6000 + (f - 2048) with
      | some r => (r, 1)
      | none => (0, 0)
    | _ => (0, 0)

/-- Ring j of a function. -/
def fnRing (s : State) (f j : Nat) : Option Nat := if j < (fnRings s f).2 then some ((fnRings s f).1 + j) else none

/-- TILE_ST of the tile behind which a function sits (Table 19.9). -/
def fnTileSt (s : State) (f : Nat) : Nat := tabFld s 0x3E (funcPort s f / 8) 20 4

/-! Doorbells (R339, R247, R352, R462). -/

/-- A doorbell acts: an index outside the ring or a ring with EN = 0 is ignored and raises DOORBELL_BAD. kind 0 CMD_TAIL, 1 CPL_HEAD. -/
def ringDoorbell (s : State) (f r kind v : Nat) : State :=
  let e := tabVal s 0x30 r
  if fld e 100 1 = 0 ∨ ringEntries (fld e (if kind = 0 then 194 else 132) 4) ≤ v then raiseEvent s 0x480 f []
  else { s with rings := smMod {} s.rings r fun x => if kind = 0 then { x with cmdTail := v } else { x with cplHead := v } }

/-- Doorbells of a tile that is not LIVE are latched (R462). -/
def latchTile (s : State) (tile : Nat) (l : Latched) : State :=
  { s with frost := smMod {} s.frost tile fun x => { x with latched := x.latched ++ [l] } }

/-- A doorbell write of a function: latched while its VF is frozen or its tile not LIVE. -/
def fnDoorbell (s : State) (f j kind v : Nat) : State :=
  match fnRing s f j with
  | none => raiseEvent s 0x480 f []
  | some r =>
    if f < 2048 ∧ 2 ≤ funcState s f ∧ funcState s f ≤ 5 then latchDoorbell s f kind r v
    else if fnTileSt s f ≠ 0 then latchTile s (funcPort s f / 8) ⟨kind, r, v⟩
    else ringDoorbell s f r kind v

/-- The event queue head doorbell of a function. -/
def fnEqHead (s : State) (f v : Nat) : State :=
  if eqHeld s f then latchDoorbell s f 2 f v
  else if fnTileSt s f ≠ 0 then latchTile s (funcPort s f / 8) ⟨2, f, v⟩
  else eqHeadWrite s f v

/-- A latched doorbell acts. -/
def actLatched (s : State) (f : Nat) (l : Latched) : State :=
  if l.kind = 2 then eqHeadWrite s l.obj l.value else ringDoorbell s f l.obj l.kind l.value

/-! Ring configuration slots (R340, R498). -/

/-- A ring's slot. -/
def ringSlot (s : State) (r : Nat) : RingSlot := smGet {} s.svc.slots r
/-- Replacing it. -/
def setRingSlot (s : State) (r : Nat) (x : RingSlot) : State := { s with svc := { s.svc with slots := smSet {} s.svc.slots r x } }

/-- A job is a commit chart of this ring. -/
def jobOfRing (r : Nat) : Job → Bool
  | .ring q _ => q == r
  | _ => false

/-- A commit chart of this ring waits or runs (RSTATE 1). -/
def ringCommitting (s : State) (r : Nat) : Bool :=
  (s.internals.any fun i => jobOfRing r i.job) ||
  (List.range 16).any fun e => match (engineOf s e).origin with | .internal j => jobOfRing r j | _ => false

/-- RSTATE (Table 14.6). -/
def ringState (s : State) (r : Nat) : Nat :=
  if ringCommitting s r then 1 else if (ringSlot s r).lastStatus ≠ 0 then 3 else if tabFld s 0x30 r 100 1 = 1 then 2 else 0

/-- Submitting a ring's commit chart: to the tile engine of the function's tile, or to a global engine for Steward (f = 0xFFFF). -/
def submitFor (s : State) (f r : Nat) (on : Bool) : State :=
  if ringCommitting s r then s
  else { s with internals := s.internals ++ [⟨if f = 0xFFFF then 12 else funcPort s f / 8, .ring r on⟩] }

/-- A 32-bit write into a ring slot; CTRL submits the commit that its ENABLE bit asks. f is 0xFFFF for Steward. -/
def slotWrite (s : State) (f r off w : Nat) : State :=
  let x := ringSlot s r
  let half (old : Word) (hi : Bool) : Word :=
    BitVec.ofNat 64 (if hi then wfld old 0 32 + w * 2 ^ 32 else w / 64 * 64 + wfld old 32 32 * 2 ^ 32)
  let keep (old new top : Nat) : Nat := if new ≤ top then new else old
  if ringCommitting s r then s
  else match off with
    | 0 => setRingSlot s r { x with cbase := half x.cbase false }
    | 4 => setRingSlot s r { x with cbase := half x.cbase true }
    | 8 => setRingSlot s r { x with qbase := half x.qbase false }
    | 12 => setRingSlot s r { x with qbase := half x.qbase true }
    | 16 =>
      submitFor (setRingSlot s r { x with csize := keep x.csize (nbits w 0 4) 11, qsize := keep x.qsize (nbits w 4 4) 11, target := keep x.target (nbits w 8 4) 12, tlim := nbits w 16 8, qvec := nbits w 24 3, enable := nbits w 31 1 == 1 })
        f r (nbits w 31 1 == 1)
    | _ => s

/-- A 32-bit read of a ring slot. -/
def slotRead (s : State) (r off : Nat) : Nat :=
  let x := ringSlot s r
  match off with
  | 0 => wfld x.cbase 0 32
  | 4 => wfld x.cbase 32 32
  | 8 => wfld x.qbase 0 32
  | 12 => wfld x.qbase 32 32
  | 16 => x.csize + x.qsize * 2 ^ 4 + x.target * 2 ^ 8 + x.tlim * 2 ^ 16 + x.qvec * 2 ^ 24 + (if x.enable then 2 ^ 31 else 0)
  | 20 => ringState s r + x.lastStatus * 2 ^ 8
  | 24 => (smGet {} s.rings r).cmdHead
  | 28 => (smGet {} s.rings r).cplTail % ringEntries (tabFld s 0x30 r 132 4)
  | _ => 0

/-! Event queue pages (R385, R389, Tables 16.6, 16.7). -/

/-- A 32-bit write into a queue's page. BASE and CTRL but ENABLE are ignored while ENABLE = 1. -/
def eqPageWrite (s : State) (q off w : Nat) : State :=
  let e := eqOf s q
  match off with
  | 0 => if e.enable then s else setEq s q { e with base := w / 64 * 64 + e.base / 2 ^ 32 * 2 ^ 32 }
  | 4 => if e.enable then s else setEq s q { e with base := e.base % 2 ^ 32 + w * 2 ^ 32 }
  | 8 =>
    let on := nbits w 31 1 == 1
    if e.enable then (if on then s else setEq s q { e with enable := false })
    else
      let e := { e with vec := nbits w 28 3, ien := nbits w 27 1 == 1, size := if nbits w 23 4 ≤ 12 then nbits w 23 4 else e.size
                        modCnt := if nbits w 15 8 = 0 then e.modCnt else nbits w 15 8, modTime := nbits w 0 15 }
      setEq s q (if on then { e with enable := true, tail := 0, head := 0, phase := true, nextSeq := 0, ovf := false, faulted := false, lost := 0, icount := 0, ifirst := 0 }
                 else e)
  | 12 =>
    let e := if nbits w 31 1 = 1 then { e with ovf := false, lost := 0 } else e
    setEq s q (if nbits w 30 1 = 1 then { e with faulted := false } else e)
  | _ => s

/-- A 32-bit read of a queue's page. -/
def eqPageRead (s : State) (q off : Nat) : Nat :=
  let e := eqOf s q
  let b (x : Bool) (n : Nat) : Nat := if x then 2 ^ n else 0
  match off with
  | 0 => e.base % 2 ^ 32
  | 4 => e.base / 2 ^ 32
  | 8 => e.modTime + e.modCnt * 2 ^ 15 + e.size * 2 ^ 23 + b e.ien 27 + e.vec * 2 ^ 28 + b e.enable 31
  | 12 => b e.ovf 31 + b e.faulted 30 + b (eqHeld s q) 29
  | 16 => e.tail + b e.phase 16
  | 20 => e.head
  | 24 => e.lost
  | 28 => e.nextSeq
  | _ => 0

/-! MSI-X (R344). -/

/-- A function's MSI-X state. -/
def msixOf (s : State) (f : Nat) : Msix := smGet {} s.svc.msix f
/-- Replacing it. -/
def setMsix (s : State) (f : Nat) (m : Msix) : State := { s with svc := { s.svc with msix := smSet {} s.svc.msix f m } }

/-- A pending message is sent when nothing masks it any more. -/
def msixVector (s : State) (f vec : Nat) : State :=
  let m := msixOf s f
  if m.pba.getLsbD vec then
    sendMsix (setMsix s f { m with pba := m.pba &&& ~~~(BitVec.ofNat 8 (2 ^ vec)) }) (svcEp (funcPort s f)) 0 (funcPort s f) f vec
  else s

/-- Every pending message of a function that nothing masks. -/
def msixFlush (s : State) (f : Nat) : State := (List.range 8).foldl (fun s v => msixVector s f v) s

/-- A 32-bit write into the MSI-X table: 16 bytes an entry, address, data, vector control. -/
def msixWrite (s : State) (f off w : Nat) : State :=
  let m := msixOf s f
  let v := off / 16
  let a := smGet 0 m.addr v
  match off % 16 with
  | 0 => setMsix s f { m with addr := smSet 0 m.addr v (BitVec.ofNat 64 (w + wfld a 32 32 * 2 ^ 32)) }
  | 4 => setMsix s f { m with addr := smSet 0 m.addr v (BitVec.ofNat 64 (wfld a 0 32 + w * 2 ^ 32)) }
  | 8 => setMsix s f { m with data := smSet 0 m.data v (BitVec.ofNat 64 w) }
  | _ =>
    let bit : BitVec 8 := BitVec.ofNat 8 (2 ^ v)
    if nbits w 0 1 = 1 then setMsix s f { m with mask := m.mask ||| bit }
    else msixVector (setMsix s f { m with mask := m.mask &&& ~~~bit }) f v

/-- A 32-bit read of the MSI-X table. -/
def msixRead (s : State) (f off : Nat) : Nat :=
  let m := msixOf s f
  let v := off / 16
  match off % 16 with
  | 0 => wfld (smGet 0 m.addr v) 0 32
  | 4 => wfld (smGet 0 m.addr v) 32 32
  | 8 => wfld (smGet 0 m.data v) 0 32
  | _ => if m.mask.getLsbD v then 1 else 0

/-! The Almanac window (R397, Table 16.12). -/

/-- A record's subject is 0xFFFF or names this port (R397). -/
def namesPort (s : State) (r : AlmRec) (p : Nat) : Bool :=
  let me := metricEntry s.tab r.metric
  r.subj == 0xFFFF || (r.subj == p && (if fld me 55 2 = 2 then fld me 44 11 == 3 else subjKind (fld me 44 11) == 1))

/-- The record that a window shows: window 96 is Steward's, another a PF0's by its port. -/
def windowRecord (s : State) (w : Nat) : AlmRec :=
  let r := almRecordAt s.alm (smGet 0 s.alm.cursors w)
  if w < 96 ∧ funcFld s (2048 + w) 51 1 = 0 ∧ !(namesPort s r w) then {} else r

/-- A 32-bit read of the window. -/
def windowRead (s : State) (w off : Nat) : Nat :=
  match off with
  | 0x00 => smGet 0 s.alm.cursors w
  | 0x04 => nextSlot s.alm
  | 0x08 => s.alm.foundUsed
  | 0x0C => s.alm.missed
  | 0x10 => s.alm.opened % 2 ^ 32
  | 0x14 => s.alm.opened / 2 ^ 32
  | 0x18 => s.sec.boot
  | n => if 0x80 ≤ n ∧ n < 0x100 then leAt (almBytes (windowRecord s w)) (n - 0x80) 4 else 0

/-- A write of the cursor; a reserved slot number keeps it (R7). -/
def windowWrite (s : State) (w off v : Nat) : State :=
  if off = 0 ∧ v % 32768 < 20480 then { s with alm := { s.alm with cursors := smSet 0 s.alm.cursors w (v % 32768) } } else s

/-! BAR0 reads (R338, R341, R342, R410). -/

/-- Slice status (Table 9.6). -/
def sliceWord (s : State) (g : Nat) : Entry :=
  let c := smGet {} s.slices g
  mkEntry [(0, c.scq.length), (7, c.conf.length), (16, (c.act.filter (·.tracker)).length), (26, c.unc.length), (31, if c.uncAll then 1 else 0)]

/-- A 32-bit read of the counter page. -/
def counterPage (s : State) (p off : Nat) : Nat :=
  if off < 8 ∨ (0x100 ≤ off ∧ off < 0x108) then nbits (latchTsOf s (portCtr p 0)) (off % 8 * 8) 32
  else if off = 8 then fld s.cnt.sched 80 24
  else if 0x40 ≤ off ∧ off < 0x100 then nbits (smGet 0 s.cnt.latched (portCtr p ((off - 0x40) / 8))) (off % 8 * 8) 32
  else 0

/-- A 32-bit read of the status mirror of PF0 of port p; with STAT_ALL = 0 only its own port and lanes show. -/
def mirrorRead (s : State) (p off : Nat) : Nat :=
  let every := funcFld s (2048 + p) 51 1 == 1
  if off < 0x180 then (if every || off / 4 == p then tabFld s 0x02 (off / 4) 0 32 else 0)
  else if 0x200 ≤ off ∧ off < 0x380 then
    let q := (off - 0x200) / 4
    if (every || q == p) && roleOf s q == 3 then tabFld s 0x05 q 0 32 else 0
  else if 0x400 ≤ off ∧ off < 0x408 then (if every then tabFld s 0x0A ((off - 0x400) / 4) 0 32 else 0)
  else if 0x410 ≤ off ∧ off < 0x450 then (if every then fld (sliceWord s ((off - 0x410) / 4)) 0 32 else 0)
  else if 0x1000 ≤ off ∧ off < 0x2800 then
    let l := (off - 0x1000) / 16
    if every || laneMemberOf s l p then fld (laneShown s l) (off % 16 * 8) 32 else 0
  else if 0x3000 ≤ off ∧ off < 0x3100 then
    let c := (off - 0x3000) / 8
    if every then wfld (slotWord (slotEff s c) (slotOf s c)) (off % 8 * 8) 32 else 0
  else 0

/-- A function entry as it is read: the committed fields with the live STATE. -/
def functionEntry (s : State) (f : Nat) : Entry := setFld (tabVal s 0x3D f) 0 4 (funcState s f)

/-- PF0 of a USP. -/
def isPf (s : State) (f : Nat) : Bool := decide (2048 ≤ f) && roleOf s (f - 2048) == 1

/-- A 32-bit read of PF0's own regions. -/
def pfRead (s : State) (f off : Nat) : Nat :=
  let p := f - 2048
  let c := smGet {} s.svc.pf p
  if off = 0x5000 then c.vfRings + c.vfStatus * 2 ^ 8
  else if 0x10000 ≤ off ∧ off < 0x11000 then
    let k := (off - 0x10000) / 16 + 1
    if k ≤ funcFld s f 59 9 then fld (functionEntry s (funcFld s f 68 12 + k - 1)) (off % 16 * 8) 32 else 0
  else if 0x20000 ≤ off ∧ off < 0x30000 then windowRead s p (off - 0x20000)
  else if 0x30000 ≤ off ∧ off < 0x40000 then mirrorRead s p (off - 0x30000)
  else 0

/-- A 32-bit read of a function's BAR0. Reserved offsets read zero. -/
def barRead (s : State) (f off : Nat) : Nat :=
  if off < 0x1000 then 0
  else if off < 0x2000 then
    match fnRing s f ((off - 0x1000) / 64) with
    | some r => slotRead s r (off % 64)
    | none => 0
  else if off < 0x3000 then eqPageRead s f (off - 0x2000)
  else if off < 0x4000 then
    if f < 2048 ∧ funcFld s f 50 1 = 0 then 0 else counterPage s (funcPort s f) (off - 0x3000)
  else if off < 0x5000 then leAt (legendBytes s) (off - 0x4000) 4
  else if 0x8000 ≤ off ∧ off < 0x8080 then msixRead s f (off - 0x8000)
  else if off = 0x8800 then (msixOf s f).pba.toNat
  else if isPf s f then pfRead s f off
  else 0

/-! BAR0 writes. -/

/-- A 32-bit write of a function's BAR0. Reserved and read-only offsets ignore it. -/
def barWrite (s : State) (f off w : Nat) : State :=
  if off < 0x80 then
    (if off % 16 = 0 then fnDoorbell s f (off / 16) 0 (w % 65536) else if off % 16 = 8 then fnDoorbell s f (off / 16) 1 (w % 65536) else s)
  else if off = 0x80 then fnEqHead s f (w % 65536)
  else if 0x1000 ≤ off ∧ off < 0x2000 then
    match fnRing s f ((off - 0x1000) / 64) with
    | some r => slotWrite s f r (off % 64) w
    | none => s
  else if 0x2000 ≤ off ∧ off < 0x3000 then eqPageWrite s f (off - 0x2000) w
  else if 0x8000 ≤ off ∧ off < 0x8080 then msixWrite s f (off - 0x8000) w
  else if isPf s f then
    if off = 0x5000 then
      (if 1 ≤ w % 16 ∧ w % 16 ≤ 8 then { s with svc := { s.svc with pf := smMod {} s.svc.pf (f - 2048) fun c => { c with vfRings := w % 16 } } } else s)
    else if 0x20000 ≤ off ∧ off < 0x30000 then windowWrite s (f - 2048) (off - 0x20000) w
    else s
  else s

/-- An access is 4 or 8 bytes wide and naturally aligned (R343). -/
def mmioOk (off n : Nat) : Bool := (n == 4 || n == 8) && off % n == 0

/-- A read of n bytes of BAR0, and its state: one of another size or alignment is answered with Unsupported Request and raised. -/
def barLoad (s : State) (f off n : Nat) : Option (List Byte) × State :=
  if mmioOk off n then (some ((List.range (n / 4)).flatMap fun i => natBytes 4 (barRead s f (off + 4 * i))), s)
  else (none, raiseEvent s 0x481 f [off])

/-- A write of n bytes of BAR0. -/
def barStore (s : State) (f off n v : Nat) : State :=
  if mmioOk off n then (List.range (n / 4)).foldl (fun s i => barWrite s f (off + 4 * i) (nbits v (32 * i) 32)) s
  else raiseEvent s 0x481 f [off]

/-! Steward's register space (Table 18.11). -/

/-- A 32-bit read; UART0's registers have no layout in the spec, so what they read is left open. DESIGN CHOICE (log 98): the head register of a queue slot
at offset 0x020, to which R389 gives no access, reads the head back and takes a write as the doorbell EQ_HEAD of R339. -/
def stewRead (s : State) (off : Nat) : Nat :=
  if off < 124928 then (if off % 64 < 0x20 then eqPageRead s (2144 + off / 64) (off % 64) else if off % 64 = 0x20 then (eqOf s (2144 + off / 64)).head else 0)
  else if 0x20000 ≤ off ∧ off < 0x21000 then windowRead s 96 (off - 0x20000)
  else if 0x21000 ≤ off ∧ off < 0x21080 then wfld (smGet 0 s.stw.apertures ((off - 0x21000) / 8)) (off % 8 * 8) 32
  else if 0x22000 ≤ off ∧ off < 0x23000 then leAt s.stw.mailTx (off - 0x22000) 4
  else if 0x23000 ≤ off ∧ off < 0x24000 then leAt s.stw.mailRx (off - 0x23000) 4
  else if 0x24000 ≤ off ∧ off < 0x24040 then wfld (Config.freeValue s.freeCtr) 0 32
  else if 0x26000 ≤ off ∧ off < 0x26200 then slotRead s ((off - 0x26000) / 64) (off % 64)
  else 0

/-- Replacing four bytes of a buffer of 4 KiB. -/
def bufWrite (b : List Byte) (off w : Nat) : List Byte := slice b 0 off ++ natBytes 4 w ++ b.drop (off + 4)

/-- A 32-bit write. -/
def stewWrite (s : State) (off w : Nat) : State :=
  if off < 124928 then (if off % 64 < 0x20 then eqPageWrite s (2144 + off / 64) (off % 64) w
                        else if off % 64 = 0x20 then eqHeadWrite s (2144 + off / 64) (w % 65536) else s)
  else if 0x20000 ≤ off ∧ off < 0x21000 then windowWrite s 96 (off - 0x20000) w
  else if 0x21000 ≤ off ∧ off < 0x21080 then
    let i := (off - 0x21000) / 8
    let a := smGet 0 s.stw.apertures i
    let v := if off % 8 = 0 then nbits w 0 2 + nbits w 30 2 * 2 ^ 30 + wfld a 32 32 * 2 ^ 32 else wfld a 0 32 + w * 2 ^ 32
    { s with stw := { s.stw with apertures := smSet 0 s.stw.apertures i (BitVec.ofNat 64 v) } }
  else if 0x22000 ≤ off ∧ off < 0x23000 then { s with stw := { s.stw with mailTx := bufWrite s.stw.mailTx (off - 0x22000) w } }
  else if 0x23000 ≤ off ∧ off < 0x24000 then { s with stw := { s.stw with mailRx := bufWrite s.stw.mailRx (off - 0x23000) w } }
  else if 0x25000 ≤ off ∧ off < 0x25080 then
    if off % 16 = 0 then ringDoorbell s 0xFFFF ((off - 0x25000) / 16) 0 (w % 65536)
    else if off % 16 = 8 then ringDoorbell s 0xFFFF ((off - 0x25000) / 16) 1 (w % 65536) else s
  else if 0x26000 ≤ off ∧ off < 0x26200 then slotWrite s 0xFFFF ((off - 0x26000) / 64) (off % 64) w
  else s

/-- A read of n bytes; a UART0 read uses a free value. -/
def stewLoad (s : State) (off n : Nat) : List Byte × State :=
  ((List.range (n / 4)).flatMap fun i => natBytes 4 (stewRead s (off + 4 * i)), if 0x24000 ≤ off ∧ off < 0x24040 then tick s else s)

/-- A write of bytes, four at a time. -/
def stewStore (s : State) (off : Nat) (bs : List Byte) : State :=
  (List.range (bs.length / 4)).foldl (fun s i => stewWrite s (off + 4 * i) (leAt bs (4 * i) 4)) s

end Sys2Proof.Machine
end

