-- ==== Sys2Proof/Machine/Graticule.lean ====
section
/-! DEFINITION. The Graticule: delivery at endpoints, resequencing, router cycles, epochs, proxies (R134-R140, R160-R176). -/
namespace Sys2Proof.Machine

/-- Number of a plane. -/
def planeNo (p : Plane) : Nat := match p with | .rq => 0 | .rs => 1

/-- A USP whose partner declined CXL forwards nothing (R50). -/
def declined (s : State) (p : Nat) : Bool := roleOf s p == 1 && smGet false s.noCxl p

/-- The link takes traffic: LINK_UP, in L0 for a CXL or PCIe port, and its IDE gate open (R62, Table 2.3). -/
def portTakes (s : State) (p : Nat) : Bool :=
  tabFld s 0x02 p 17 1 == 1 && tabFld s 0x02 p 20 1 == 0 && (roleOf s p == 3 || tabFld s 0x02 p 0 6 == 0x0B) && !(declined s p)

/-- A port is up and not lost (Table 5.1). DESIGN CHOICE (log 95): an ISL whose session is being opened again counts as up, since its traffic waits
for the session (R119, R123). -/
def portReaches (s : State) (p : Nat) : Bool :=
  tabFld s 0x02 p 20 1 == 0 && (tabFld s 0x02 p 17 1 == 1 || (roleOf s p == 3 && (smGet {} s.isls p).partner.isSome))

/-- An MCTP message of SPDM, or of secured SPDM, by which keys of IDE are managed: the type that its first packet names. -/
def isSpdm (t : Txn) : Bool := t.cls == 3 && (leAt t.data 4 1 % 128 == 5 || leAt t.data 4 1 % 128 == 6)

/-- IDE_REQ holds back a transaction: everything but configuration, SPDM and IDE key management waits until IDE_ACTIVE (Table 2.3). -/
def ideGated (s : State) (p : Nat) (t : Txn) : Bool :=
  tabFld s 0x01 p 15 1 == 1 && tabFld s 0x02 p 18 1 == 0 && !(t.kind == 40 || t.kind == 41 || isSpdm t)

/-! The passing rules of a CXL.io egress (R139). -/

/-- A CXL.io TLP. -/
def isTlp (t : Txn) : Bool := t.cmd == 0x30 || t.cmd == 0x31

/-- Relaxed ordering, or ID-based ordering between different requesters, lets a TLP pass a posted request: the attributes of its header. -/
def relaxed (a b : Txn) : Bool :=
  leAt a.data 2 1 / 32 % 2 == 1 || (leAt a.data 1 1 / 4 % 2 == 1 && beAt a.data 4 2 != beAt b.data 4 2)

/-- An older TLP at the egress holds back a newer one: a posted request, unless the newer one may pass it; and one of the newer one's own queue. -/
def holdsBack (older newer : Txn) : Bool :=
  if older.posted then !(relaxed newer older) else !newer.posted && older.reply == newer.reply

/-- A TLP waits at a port's egress for its turn: an older one holds it back, or another is being sent. -/
def egressHeld (s : State) (p : Nat) (t : Txn) : Bool :=
  isTlp t && s.txns.any fun e =>
    e.2.dst == portEp p && isTlp e.2 && e.2.ord != t.ord &&
    (decide (0 < e.2.sent) || (e.2.phase == 4 && decide (e.2.ord < t.ord) && holdsBack e.2 t))

/-- The link takes the transaction now. -/
def mayLeave (s : State) (p : Nat) (t : Txn) : Bool := portTakes s p && !(ideGated s p t) && !(egressHeld s p t)

/-- What leaves of a transaction's data: a TLP that is poisoned has EP set (Table 5.3). -/
def leavingData (t : Txn) : List Byte :=
  if t.poison ∧ isTlp t ∧ 3 ≤ t.data.length then t.data.take 2 ++ [nth 2 t.data 0 ||| 64] ++ t.data.drop 3 else t.data

/-- A request as it leaves: its kind, its code with 256 for poison, its address, tag and bytes. -/
def leavingMsg (p : Nat) (t : Txn) (data : List Byte) : Out :=
  .port p (if t.kind = 0 then t.cmd else 0x100 + t.kind) (t.mval + if t.poison then 256 else 0) t.addr t.tag data

/-- A back-invalidation snoop of a home on another chip: it stays until its answer passes its port, or the port answers for a lost partner (R223). -/
def farSnoop (t : Txn) : Bool := decide (0x10 ≤ t.cmd ∧ t.cmd ≤ 0x12) && (epPort t.src).isSome

/-- A request or snoop is gone from its port: what remains of it. -/
def gone (s : State) (p i : Nat) : State :=
  let t := txnOf s i
  let s := countPort s p true t.oc t.len
  if (t.reply ∨ t.posted) ∧ !(farSnoop t) then dropTxn s i else setTxn s i { t with phase := 3, sent := 0 }

/-- A transaction leaves by a port whole: the message, or what its sender put there, the counters, and what remains of it. -/
def leavePort (s : State) (p i : Nat) : State :=
  let t := txnOf s i
  gone (emit s (match t.outs with | some o => o | none => leavingMsg p t (leavingData t))) p i

/-- The bytes that have arrived of a TLP which its port sends by cut-through go out (Table 5.2): the first begin the message. -/
def sendPart (s : State) (p i : Nat) : State :=
  let t := txnOf s i
  let n := if t.phase = 4 then t.data.length else min t.data.length (128 * t.arrived)
  let s := setTxn s i { t with sent := n }
  if t.sent = 0 then emit s (leavingMsg p t ((leavingData t).take n)) else emit s (.more p t.tag t.poison (slice t.data t.sent (n - t.sent)) (t.phase == 4))

/-- A packet of a TLP other than its last has reached a CXL.io egress: a request is sent as it arrives, a completion once RESPONSE_LEAVES began it. -/
def partArrived (s : State) (p i : Nat) : State :=
  let t := txnOf s i
  if !(isTlp t) ∨ !t.cut ∨ t.parent ≠ 0 ∨ roleOf s p = 3 ∨ t.data.isEmpty then s
  else if 0 < t.sent then (if portTakes s p then sendPart s p i else s)
  else if !t.reply ∧ mayLeave s p { t with ord := s.nextTxn } then sendPart s p i
  else s

/-- A line's answer returns to the bulk or CXL.io transaction it was split from (R216): gathered, and the whole answered when the last is in. -/
def gather (s : State) (i : Nat) : State :=
  let t := txnOf s i
  let k := t.parent - 1
  let u := txnOf s k
  let s := closeHome (dropTxn s i) t t.dst 0
  let n := { u with got := u.got + 1, data := u.data ++ (if isRead u ∨ u.kind = 30 then t.data else []), poison := u.poison || t.poison || t.rstat != 0 }
  if n.got < n.units then setTxn s k n
  else if n.posted then dropTxn s k
  else
    let rstat := if n.poison then 4 else 0
    let data := if n.cls = 1 then cplTlp n.ingress n rstat (if n.kind = 30 then slice (n.data.drop 16) (n.addr % 64) n.len else []) else slice n.data (n.addr % 64) n.len
    lineUp s k { n with cmd := respCmd n, src := t.src, dst := n.src, reply := true, rstat := rstat, phase := 4, data := data, cut := false }

/-- A response or data toward a partner that is lost ends at its port, and is counted (R123). -/
def sinkReply (s : State) (p i : Nat) : State := closeHome (count (dropTxn s i) (portCtr p 16) 1) (txnOf s i) (portEp p) 1

/-- A transaction that waits at a port's egress leaves if it may (R62, R63, R137): requests when the link takes them, responses and forwards by their
own steps. -/
def tryLeave (s : State) (p i : Nat) : State :=
  let t := txnOf s i
  if roleOf s p = 3 ∨ t.cmd = 0x13 ∨ (t.reply ∧ !(decide (0x10 ≤ t.cmd ∧ t.cmd ≤ 0x12))) then s
  else if tabFld s 0x02 p 20 1 = 1 then (if t.posted then count (dropTxn s i) (portCtr p 15) 1 else s)
  else if 0 < t.sent then (if portTakes s p then gone (sendPart s p i) p i else s)
  else if mayLeave s p t then leavePort s p i
  else s

/-- Requests that waited at a port's egress leave when its link takes them again (R62): what was begun first, then the others by their turns. -/
def egressFlush (s : State) (p : Nat) : State :=
  let at4 := fun (t : Txn) => t.phase == 4 && t.dst == portEp p
  let s := (txnsWhere s fun t => at4 t && decide (0 < t.sent)).foldl (fun s i => tryLeave s p i) s
  (txnsWhere s at4).foldl (fun s i => tryLeave s p i) s

/-- A transaction has reached a port's egress, where it takes its turn. -/
def portEgress (s : State) (p i : Nat) : State :=
  let t := txnOf s i
  if t.sunk then sinkReply s p i
  else if t.reply ∧ t.parent ≠ 0 then gather s i
  else
    let s := tryLeave (lineUp s i { t with phase := 4 }) p i
    if 0 < t.sent then egressFlush s p else s

/-- A slice. -/
def sliceOf (s : State) (g : Nat) : Slice := smGet {} s.slices g
/-- A gauge sampled at each change of its value. -/
def feedChange (s : State) (n subj old new : Nat) : State := if old = new then s else feedGauge s n subj new
/-- Replacing a slice; the depths of its set-conflict queue and conflict list are gauges 0 and 1 (Table 16.11). -/
def setSlice (s : State) (g : Nat) (x : Slice) : State :=
  let o := sliceOf s g
  feedChange (feedChange { s with slices := smSet {} s.slices g x } 0 g o.scq.length x.scq.length) 1 g o.conf.length x.conf.length

/-- The port whose service endpoint this is (Table 6.2). -/
def epSvc (e : Nat) : Option Nat := if 8 ≤ epDep e ∧ epDep e < 16 then epPort (e - 8) else none

/-- The function of a service endpoint: 0 PF0 or the fabric management function, k VF k (R332, R333). -/
def svcFunc (s : State) (p fn : Nat) : Option Nat :=
  if fn = 0 then (if roleOf s p = 1 ∨ roleOf s p = 4 then some (2048 + p) else none)
  else if fn ≤ funcFld s (2048 + p) 59 9 then some (funcFld s (2048 + p) 68 12 + fn - 1) else none

/-- A byte of a function's configuration space: its identity (Table 14.1) at the places the PCIe base gives it, else as written. -/
def configByte (s : State) (f off : Nat) : Byte :=
  match off with
  | 0 => BitVec.ofNat 8 Config.vendorId.toNat
  | 1 => BitVec.ofNat 8 (Config.vendorId.toNat / 256)
  | 2 => if f < 2048 then 0x97 else 0x96
  | 3 => 0x96
  | 8 => 0xA1
  | 9 => 0x00
  | 10 => 0x80
  | 11 => 0x08
  | n => smGet 0 s.svc.config (f * 4096 + n)

/-- A CXL.io request reaches a bridge of the VCS of port p (R53): its configuration space, or its component registers. -/
def bridgeAccess (s : State) (i p : Nat) : State :=
  let t := txnOf s i
  match vcsOf s p with
  | none => if t.posted then dropTxn s i else complete s i p 2 []
  | some v =>
    let k := 65 * v + (t.fn - 300)
    let mem := 0x10000 + t.addr % 0x10000
    match t.kind with
    | 30 => complete s i p 0 (bridgeRead s k mem t.len)
    | 31 => dropTxn (bridgeStore s k mem (slice (tlpPayload t.data) 0 t.len)) i
    | 40 => complete s i p 0 (bridgeRead s k (t.addr % 4096 / 4 * 4) 4)
    | 41 => complete (bridgeStore s k (t.addr % 4096) (slice (tlpPayload t.data) 0 4)) i p 0 []
    | _ => if t.posted then dropTxn s i else complete s i p 2 []

/-- A CXL.io request reaches the service endpoint: a read is answered from the function's registers, a write acts there. -/
def svcAccess (s : State) (i p : Nat) : State :=
  let t := txnOf s i
  if 300 ≤ t.fn then bridgeAccess s i p
  else
  match svcFunc s p (t.fn - 1) with
  | none => if t.posted then dropTxn s i else complete s i p 2 []
  | some f =>
    let off := t.addr % (if f < 2048 then 0x10000 else 0x100000)
    match t.kind with
    | 30 => match barLoad s f off t.len with
      | (some bs, s) => complete s i p 0 bs
      | (none, s) => complete s i p 2 []
    | 31 => dropTxn (barStore s f off t.len (bytesNat (slice (tlpPayload t.data) 0 t.len))) i
    | 40 => complete s i p 0 ((List.range 4).map fun k => configByte s f (t.addr % 4096 / 4 * 4 + k))
    | 41 => complete { s with svc := { s.svc with config := smSetRun 0 s.svc.config (f * 4096 + t.addr % 4096 / 4 * 4) (slice (tlpPayload t.data) 0 4) } } i p 0 []
    | _ => if t.posted then dropTxn s i else complete s i p 2 []

/-- An answer reaches a mover: it is kept for the line that awaits it; one of an older generation is discarded (R175, R337). -/
def moverLand (s : State) (i : Nat) : State :=
  let t := txnOf s i
  let m := epDep t.dst
  let old := (s.svc.descs.filterMap fun d => if d.2.mover == some m then d.2.func else none).find? fun f => f < 2048 && funcGen s f != t.gen
  let s := closeHome (dropTxn s i) t t.dst 0
  match old with
  | some f => count s (tileCtr (funcPort s f / 8) 19) 1
  | none => { s with svc := { s.svc with landed := s.svc.landed ++ [⟨m, if t.poison then 4 else t.rstat, t.data⟩] } }

/-- The HBM port of a memory router serves an access (R157): data or a completion goes back to its source. -/
def hbmServe (s : State) (i : Nat) : State :=
  let t := txnOf s i
  if t.reply then dropTxn s i
  else if isRead t then answer s i (respCmd t) 0 false (hbmRead s t.addr t.len)
  else
    let s := hbmWrite s t.addr (slice t.data 0 t.len)
    if t.posted then dropTxn s i else answer s i 0x20 0 false []

/-- A transaction reaches an endpoint whose act lies outside the rules: it is recorded as taken. -/
def arriveOther (s : State) (i : Nat) : State :=
  let t := txnOf s i
  let s := emit s (.endpoint t.dst t.cmd t.addr t.tag t.data)
  if t.reply then closeHome (dropTxn s i) t t.dst 0
  else if t.posted then dropTxn s i else setTxn s i { t with phase := 3 }

/-- A request joins those of its slice: of two that arrive in one cycle, the token's input goes first (R208). -/
def arriveReq (s : State) (g i : Nat) : State :=
  let x := sliceOf s g
  let q := if x.fresh = 1 ∧ x.token = 1 then x.inq.dropLast ++ i :: x.inq.drop (x.inq.length - 1) else x.inq ++ [i]
  setSlice s g { x with inq := q, fresh := x.fresh + 1 }

/-- An answer to the slice's own memory access: of a write whose request is open, it is the closure (R210); an error goes on to who awaits the access. -/
def arriveReply (s : State) (g i : Nat) : State :=
  let t := txnOf s i
  let x := sliceOf s g
  if t.cmd = 0x21 ∧ t.back ≠ 0 ∧ t.back ≠ 1 + sliceEp g then lineUp s i { t with src := sliceEp g, dst := t.back - 1, back := 0, phase := 1, first := 0, count := 0, arrived := 0 }
  else if t.cmd = 0x20 ∨ t.cmd = 0x23 ∨ (t.cmd = 0x21 ∧ t.back ≠ 0) then
    match t.home with
    | some (_, k) => setSlice (setTxn s i { t with cmd := 0x27, key := k, phase := 5 }) g { x with sink := x.sink ++ [i] }
    | none => dropTxn s i
  else setSlice (setTxn s i { t with phase := 5 }) g { x with sink := x.sink ++ [i] }

/-- A transaction is complete at its destination. -/
def arriveAt (s : State) (i : Nat) : State :=
  let t := txnOf s i
  match epPort t.dst with
  | some p => portEgress s p i
  | none =>
    match epSlice t.dst with
    | some g => if t.reply then arriveReply s g i else arriveReq (setTxn s i { t with phase := 5 }) g i
    | none =>
      match epSvc t.dst with
      | some p => if t.fn ≠ 0 ∧ !t.reply then svcAccess s i p else arriveOther s i
      | none =>
        if epRouter t.dst = 46 ∧ t.reply then moverLand s i
        else if (routerMem (epRouter t.dst)).isSome then hbmServe s i
        else if t.dst = almanacEp ∧ t.reply then dropTxn s i
        else if t.kind = 80 ∧ t.reply then setTxn s i { t with src := t.dst, reply := false, phase := 3, rstat := 1 }   -- HOST_READ_RESPONSE ends it
        else arriveOther s i

/-- Sending a release report: the stream's next expected number, to its source (R135). -/
def sendRel (s : State) (src dst oc : Nat) : State :=
  let k := streamKey src dst oc
  let x := streamOf s k
  let s := setStream s k { x with relSince := 0, relAt := none }
  let s := match epTile dst with | some t => count s (tileCtr t 18) 1 | none => s
  inject s { txn := 0, cmd := 0x50, src := dst, dst := src, oc := oc, epoch := 0, arg := x.expected }

/-- A closing packet is released at its egress (R130, Table 5.3). -/
def closeTxn (s : State) (p : Packet) : State :=
  let t := txnOf s p.txn
  match epPort p.dst with
  | some port =>
    let s := count s (portCtr port 18) 1
    if roleOf s port = 3 then dropTxn s p.txn   -- its transmitter ends an open transaction with END (R99)
    else if 0 < t.sent then egressFlush (dropTxn (emit s (.link port 9 t.tag)) p.txn) port
    else dropTxn s p.txn
  | none => dropTxn s p.txn

/-- The numbers a packet takes in its stream. -/
def seqSpan (p : Packet) : Nat := if p.cmd = 0x51 then p.arg / 1024 else 1

/-- Releasing a packet in order (R134, R135): the stream advances, a report is due, and the packet acts. -/
def release (s : State) (p : Packet) : State :=
  let k := streamKey p.src p.dst p.oc
  let x := streamOf s k
  let s := if p.seqd then
      setStream s k { x with expected := (x.expected + seqSpan p) % 1024, relSince := x.relSince + seqSpan p,
                             relAt := match x.relAt with | some a => some a | none => some s.clock }
    else s
  let s := if p.seqd ∧ 64 ≤ (streamOf s k).relSince then sendRel s p.src p.dst p.oc else s
  if p.cmd = 0x51 then s
  else if p.cmd = 0x52 then closeTxn s p
  else
    let t := txnOf s p.txn
    let s := setTxn s p.txn { t with arrived := t.arrived + 1 }
    if p.eot then arriveAt s p.txn else match epPort p.dst with | some q => partArrived s q p.txn | none => s

/-- Distance of a packet's number ahead of its stream's expected one (R134). -/
def seqAhead (s : State) (p : Packet) : Nat := (p.seq + 1024 - (streamOf s (streamKey p.src p.dst p.oc)).expected) % 1024

/-- RESEQ_EARLY is sampled at each change (gauge 4). -/
def feedEarly (s : State) (dst : Nat) : State :=
  match epTile dst with
  | some t => feedGauge s 4 t (s.early.filter fun p => epTile p.dst == some t).length
  | none => s

/-- Releasing the early packets whose turn has come. -/
def drainEarly (s : State) (k : Nat) : Nat → State
  | 0 => s
  | n + 1 =>
    match takeFirst (fun p => streamKey p.src p.dst p.oc == k && seqAhead s p == 0) s.early with
    | none => s
    | some (p, rest) => drainEarly (release (feedEarly { s with early := rest } p.dst) p) k n

/-- The resequencer takes an ejected packet. -/
def resequence (s : State) (p : Packet) : State :=
  if !p.seqd then release s p
  else if seqAhead s p = 0 then drainEarly (release s p) (streamKey p.src p.dst p.oc) s.early.length
  else
    let s := feedEarly { s with early := s.early ++ [p] } p.dst
    match epTile p.dst with
    | some t => peak s (tileCtr t (if onRs p.cmd then 12 else 13)) (earlyHeld s p.dst (onRs p.cmd))
    | none => s

/-- A packet that draws an ERR from a proxy (Table 6.9). -/
def drawsErr (p : Packet) : Bool :=
  p.eot && !p.posted && (decide (p.cmd ≤ 0x07) || decide (0x10 ≤ p.cmd ∧ p.cmd ≤ 0x13) || p.cmd == 0x30 || p.cmd == 0x40)

/-- A slice takes a further request: it is ready, its conflict list and set-conflict queue have room, and one of its two request inputs is free
(R165, R208, R209, R237; how many requests an input holds is open: DESIGN CHOICE one, log 95). -/
def sliceRoom (s : State) (g : Nat) : Bool :=
  let x := sliceOf s g
  x.ready && decide (x.conf.length < 256) && decide (x.scq.length < 64) && decide (x.inq.length < 2)

/-- An endpoint accepts an RQ packet (R136, R165, R173): a proxy while its queue has room; else within the stream's window and the early share, and where
the endpoint has space. -/
def accepts (s : State) (p : Packet) : Bool :=
  if (endpOf s p.dst).proxy then decide ((endpOf s p.dst).errs.length < 64)
  else if p.seqd ∧ seqAhead s p ≠ 0 then decide (seqAhead s p < 256) && decide (earlyHeld s p.dst false < 1024)
  else match epSlice p.dst with
    | some g => p.cmd == 0x51 || p.cmd == 0x52 || sliceRoom s g
    | none => true

/-- An ERR toward the source of a packet (R160, R173). -/
def errPacket (p : Packet) (rstat : Nat) : Packet :=
  { p with cmd := 0x21, src := p.dst, dst := p.src, hops := 0, rstat := rstat, eot := true, seqd := false, arg := 0 }

/-- A packet's transaction becomes its ERR response (R160, R173). -/
def errTxn (s : State) (i : Nat) (src dst rstat : Nat) : State :=
  let t := txnOf s i
  setTxn s i { t with cmd := 0x21, src := src, dst := dst, reply := true, rstat := rstat, data := [], phase := 2, arrived := 0, sent := 0 }

/-- A chart engine's endpoint (Table 6.2). -/
def isEngineEp (e : Nat) : Bool := ((routerTile (epRouter e)).map (·.2) == some 2 && epDep e == 16) || (epRouter e == 7 && decide (epDep e < 4))

/-- What the Meridian bridge takes (R21, R22): messages of its class from the engines, the global engine block, the Steward cluster, the Almanac
aggregator and the always-on block; and the answers of the fence units, which stand at the ports and the movers. -/
def bridgeTakes (p : Packet) : Bool :=
  ((p.cmd == 0x40 || p.cmd == 0x41) &&
    (isEngineEp p.src || (epRouter p.src == 7 && epDep p.src == 4) || (epRouter p.src == 6 && decide (epDep p.src < 8)) ||
      (epRouter p.src == 47 && decide (1 ≤ epDep p.src ∧ epDep p.src ≤ 2)))) ||
  (p.cmd == 0x41 && ((epPort p.src).isSome || epRouter p.src == 46))

/-- The proxy of an endpoint takes a packet (Table 6.9). -/
def proxyTake (s : State) (pl r : Nat) (p : Packet) : State :=
  if drawsErr p ∧ pl = 0 then
    let x := endpOf s p.dst
    errTxn (setEndp s p.dst { x with errs := x.errs ++ [errPacket p 1] }) p.txn p.dst p.src 1
  else
    let s := count s (routerCtr pl r 7) 1
    if p.eot then dropTxn s p.txn else s

/-- A response, whose GEN is checked at ejection (R175). -/
def isResponse (cmd : Nat) : Bool := decide (0x20 ≤ cmd ∧ cmd ≤ 0x21) || cmd == 0x23 || cmd == 0x24 || cmd == 0x26 || cmd == 0x31 || cmd == 0x41

/-- A packet whose GEN is checked at ejection (R175). A mover's requests bear its function's generation, which the mover compares itself. -/
def genChecked (p : Packet) : Bool := (isResponse p.cmd || p.cmd == 0x22) && epRouter p.dst != 46

/-- A packet's count of its epoch at a router falls by one (R170). -/
def netAdd (x : Router) (epoch : Nat) (d : Int) : Router :=
  if epoch = 0 then { x with net0 := x.net0 + d } else { x with net1 := x.net1 + d }

/-- Ejecting a packet at its router (R165, R172, R175, R176). -/
def eject (s : State) (pl r input : Nat) (p : Packet) : State :=
  let s := setRouter s pl r (netAdd (routerOf s pl r) p.epoch (-1))
  let s := traceAt s pl r 0 input p
  let s := match routerTile r with | some (t, _) => count s (tileCtr t 22) 1 | none => s
  if !(depValid p.dst) then
    let s := raiseEvent s 0x201 (pl * 48 + r) [epDep p.dst]
    if pl = 0 then inject (errTxn s p.txn p.dst p.src 2) (errPacket p 2) else dropTxn s p.txn
  else if p.dst = bridgeEp ∧ p.cmd ≠ 0x50 ∧ p.cmd ≠ 0x51 ∧ p.cmd ≠ 0x52 ∧ !(bridgeTakes p) then
    inject (errTxn (raiseEvent (count s (devCtr 8) 1) 0x503 0 []) p.txn p.dst p.src 3) (errPacket p 3)
  else if (endpOf s p.dst).proxy then proxyTake s pl r p
  else if p.cmd = 0x50 ∨ p.cmd = 0x51 ∨ p.cmd = 0x52 then { s with arrived := s.arrived ++ [p] }
  else if genChecked p ∧ p.gen ≠ (endpOf s p.dst).gen then
    -- counted at the tile of the endpoint, or of the source where the endpoint has none
    let s := match epTile p.dst, epTile p.src with | some t, _ => count s (tileCtr t 19) 1 | none, some t => count s (tileCtr t 19) 1 | none, none => s
    dropTxn s p.txn
  else resequence s p

/-- Rank of an arrival: HOPS descending, ties by input order from first_in (R162). -/
def arrivalRank (firstIn : Nat) (a : Nat × Packet) : Nat := (255 - min 255 a.2.hops) * 4 + (a.1 + 4 - firstIn) % 4

/-- Insertion in rank order. -/
def insRank (f : Nat) (a : Nat × Packet) : List (Nat × Packet) → List (Nat × Packet)
  | [] => [a]
  | b :: bs => if arrivalRank f a < arrivalRank f b then a :: b :: bs else b :: insRank f a bs

/-- The arrivals of a cycle, at most one per input, in rank order; and the packets behind them. -/
def takeArrivals (x : Router) : List (Nat × Packet) × List (Nat × Packet) :=
  (List.range 4).foldl (fun a i =>
    match takeFirst (fun e => e.1 == i) a.2 with
    | some (e, rest) => (insRank x.firstIn e a.1, rest)
    | none => a) ([], x.inputs)

/-- Errors on the inputs (R161): corrected ones counted, a data error poisons, a header error captures the packet. -/
def inputErrors (s : State) (pl r : Nat) (hdr unit corr : BitVec 4) : List (Nat × Packet) → State × List (Nat × Packet)
  | [] => (s, [])
  | (i, p) :: rest =>
    let s := if corr.getLsbD i then count s (routerCtr pl r 5) 1 else s
    if hdr.getLsbD i then
      let x := netAdd (routerOf s pl r) p.epoch (-1)
      let s := setRouter s pl r { x with capture := headerBits s pl p }
      inputErrors (internalUe (raiseEvent s 0x200 (pl * 48 + r) []) (enabledVcs s)) pl r hdr unit corr rest
    else
      let s := if unit.getLsbD i ∧ 0 < packetUnits (txnOf s p.txn) p.cmd p.eot then setTxn s p.txn { txnOf s p.txn with poison := true } else s
      let q := inputErrors s pl r hdr unit corr rest
      (q.1, (i, p) :: q.2)

/-- The ejection pass of R162: the packets that go on, with the number of RQ packets ejected so far. -/
def ejectPass (s : State) (pl r : Nat) (n : Nat) : List (Nat × Packet) → State × List (Nat × Packet)
  | [] => (s, [])
  | (i, p) :: rest =>
    if epRouter p.dst = r then
      if pl = 1 then ejectPass (eject s pl r i p) pl r n rest
      else if n < 2 ∧ accepts s p then ejectPass (eject s pl r i p) pl r (n + 1) rest
      else
        let s := count s (routerCtr pl r 2) 1
        let s := if n < 2 ∧ p.seqd then (match epTile p.dst with | some t => count s (tileCtr t 14) 1 | none => s) else s
        let q := ejectPass s pl r n rest
        (q.1, (i, p) :: q.2)
    else
      let q := ejectPass s pl r n rest
      (q.1, (i, p) :: q.2)

/-- The first output among those of a mask, from first_out. -/
def firstFree (mask firstOut : Nat) : Option Nat := ((List.range 4).map fun i => (firstOut + i) % 4).find? fun d => mask / 2 ^ d % 2 == 1

/-- The output a packet takes, and whether it is deflected (R162); the entry of the router's own index is never used (R169). -/
def chooseOut (s : State) (pl r free firstOut : Nat) (p : Packet) : Option (Nat × Bool) :=
  let own := epRouter p.dst = r
  let e := routeEntry s pl p.epoch r (epRouter p.dst)
  let pref := nbits e 4 2
  if !own ∧ free / 2 ^ pref % 2 = 1 then some (pref, false)
  else match (if own then none else firstFree (free &&& nbits e 0 4) firstOut) with
    | some d => some (d, false)
    | none => (firstFree free firstOut).map fun d => (d, true)

/-- The forwarding pass of R162 over the packets that pass through, with the outputs still free. -/
def forwardPass (s : State) (pl r firstOut : Nat) (free : Nat) : List (Nat × Packet) → State
  | [] => s
  | (i, p) :: rest =>
    match chooseOut s pl r free firstOut p with
    | none => forwardPass (setRouter s pl r { routerOf s pl r with inputs := (routerOf s pl r).inputs ++ [(i % 4, p)] }) pl r firstOut free rest
    | some (d, defl) =>
      let q := { p with hops := min 255 (p.hops + 1) }
      let s := count s (routerCtr pl r 0) 1
      let s := if defl then count s (routerCtr pl r 1) 1 else s
      let s := if q.hops = 255 then count s (devCtr (1 + pl)) 1 else s
      let s := traceAt s pl r 2 i p
      let nb := neighbour r d
      let y := routerOf s pl nb
      forwardPass (setRouter s pl nb { y with inputs := y.inputs ++ [(oppositeIn d, q)] }) pl r firstOut (free - 2 ^ d) rest

/-- Ones among bits 0-3. -/
def ones4 (m : Nat) : Nat := m % 2 + m / 2 % 2 + m / 4 % 2 + m / 8 % 2

/-- A router may inject (R164): it has raised STARVE, or no neighbour has. -/
def mayInject (s : State) (pl r : Nat) : Bool :=
  (routerOf s pl r).starve || (List.range 4).all fun d => !(routerOf s pl (neighbour r d)).starve

/-- STARVE_ANY of a plane (Table 6.7). -/
def starveAny (s : State) (pl : Nat) : State :=
  setLive s 0x0A pl 2 1 (if (List.range 48).any fun r => (routerOf s pl r).starve then 1 else 0)

/-- A waiting packet is injected, with the epoch of its injection (R170). -/
def injectNow (s : State) (pl r : Nat) (rest : List Packet) (p : Packet) (through : List (Nat × Packet)) : State × List (Nat × Packet) :=
  let x := routerOf s pl r
  let s := setRouter s pl r (netAdd { x with inj := rest, wait := 0, starve := false } p.epoch 1)
  let s := if x.starve then starveAny s pl else s
  let s := match routerTile r with | some (t, _) => count s (tileCtr t 21) 1 | none => s
  (traceAt s pl r 1 4 p, through ++ [(4, { p with hops := 0 })])

/-- The injection of a cycle: the front waiting packet joins those that pass through when an output is left over (R162, R164). -/
def injectPass (s : State) (pl r : Nat) (through : List (Nat × Packet)) : State × List (Nat × Packet) :=
  match (routerOf s pl r).inj with
  | [] => (s, through)
  | p :: rest =>
    if through.length < ones4 (usableOut s pl r) ∧ mayInject s pl r then injectNow s pl r rest { p with epoch := planeEpoch s pl } through
    else
      let x := routerOf s pl r
      let s := count s (routerCtr pl r 3) 1
      let s := if x.starve then count s (routerCtr pl r 4) 1 else s
      (setRouter s pl r { x with wait := x.wait + 1 }, through)

/-- A cycle begins at the slices of a memory router: the token of each names its other input (R208). DESIGN CHOICE (log 96): it turns with the router. -/
def turnTokens (s : State) (pl r : Nat) : State :=
  (List.range 16).foldl (fun s g =>
    if pl = 0 ∧ epRouter (sliceEp g) = r then setSlice s g { sliceOf s g with token := 1 - (sliceOf s g).token, fresh := 0 } else s) s

/-- One NC cycle of a router (R162): arrivals, checks, ejection, injection, forwarding. -/
def routerCycle (s : State) (pl : Plane) (r : RouterId) (hdr unit corr : BitVec 4) : State :=
  let n := planeNo pl
  let x := routerOf s n r
  let a := takeArrivals x
  let s1 := setRouter (turnTokens s n r) n r { x with inputs := a.2 }
  let e := inputErrors s1 n r hdr unit corr a.1
  let j := ejectPass e.1 n r 0 e.2
  let k := injectPass j.1 n r j.2
  let s2 := forwardPass k.1 n r x.firstOut (usableOut k.1 n r) k.2
  let y := routerOf s2 n r
  setRouter s2 n r { y with firstIn := (x.firstIn + 1) % 4, firstOut := (x.firstOut + 1) % 4 }

/-- ROUTER_CYCLE (R162). -/
def execRouterCycle (pl : Plane) (r : RouterId) (hdr unit corr : BitVec 4) (s : State) : Res :=
  .next (if fabricRuns s then routerCycle s pl r hdr unit corr else s)

/-- STARVE (R164): an injection has waited 256 NC cycles. -/
def execStarve (pl : Plane) (r : RouterId) (s : State) : Res :=
  let x := routerOf s (planeNo pl) r
  if 256 ≤ x.wait ∧ !x.inj.isEmpty ∧ !x.starve then
    .next (starveAny (setRouter s (planeNo pl) r { x with starve := true }) (planeNo pl))
  else .next s

/-- The sum of the 48 counts of an epoch of a plane (R170). -/
def epochSum (s : State) (pl epoch : Nat) : Int :=
  (List.range 48).foldl (fun (a : Int) r => a + (if epoch = 0 then (routerOf s pl r).net0 else (routerOf s pl r).net1)) 0

/-- The sum of a draining plane's old counts (R170): OLD_COUNT shows it; at zero the old table becomes inactive. -/
def epochDrain (s : State) (n : Nat) : State :=
  if planeDrains s n then
    let sum := (epochSum s n (1 - planeEpoch s n)).toNat
    let s1 := setLive s 0x0A n 3 16 (min 65535 sum)
    if sum = 0 then
      { setLive s1 0x0A n 1 1 0 with
        routeOld := s1.routeOld.filter fun e => !((keyTab e.1 == 0x08 && keyIdx e.1 / 2304 == n) || (keyTab e.1 == 0x09 && keyIdx e.1 / 48 == n)) }
    else s1
  else s

/-- PROXY_ERR_ISSUE (R172-R174): one pending ERR per cycle; handed-over requests follow; an emptied queue lets a thawing endpoint return to LIVE. -/
def execProxyErrIssue (ep : Fin 3072) (s : State) : Res :=
  let x := endpOf s ep
  if !x.proxy then .next s
  else
    let s1 := match x.errs with
      | p :: rest => inject (count (setEndp s ep { x with errs := rest }) (routerCtr 0 (epRouter ep) 6) 1) p
      | [] =>
        match x.handed with
        | i :: rest =>
          let t := txnOf s i
          inject (errTxn (count (setEndp s ep { x with handed := rest }) (routerCtr 0 (epRouter ep) 6) 1) i ep t.src 1)
            { txn := i, cmd := 0x21, src := ep, dst := t.src, oc := 2, epoch := 0, rstat := 1, tag := t.tag, gen := t.gen }
        | [] => s
    let y := endpOf s1 ep
    .next (if y.leaving ∧ y.errs.isEmpty ∧ y.handed.isEmpty then setEndp s1 ep { y with proxy := false, leaving := false } else s1)

/-- REL_REPORT_TIMER (R135): 1 µs after the first release not yet reported. -/
def execRelReportTimer (dst src : Fin 3072) (oc : Fin 6) (s : State) : Res :=
  match (streamOf s (streamKey src dst oc)).relAt with
  | some a => if a + 1000 ≤ s.clock then .next (sendRel s src dst oc) else .next s
  | none => .next s

/-- The first packet of a command that reached an endpoint. -/
def takeArrived (s : State) (cmd ep : Nat) : Option (Packet × State) :=
  match takeFirst (fun p : Packet => p.cmd == cmd && p.dst == ep) s.arrived with
  | some (p, rest) => some (p, { s with arrived := rest })
  | none => none

/-- REL (R135): the stream's window reopens up to the reported number. -/
def execRel (ep : Fin 3072) (s : State) : Res :=
  match takeArrived s 0x50 ep with
  | some (p, s1) =>
    let k := streamKey p.dst p.src p.oc
    let x := streamOf s1 k
    .next (setStream s1 k { x with unreleased := (x.next + 1024 - p.arg % 1024) % 1024 })
  | none => .next s

/-- SKIP (R137). -/
def execSkip (ep : Fin 3072) (s : State) : Res :=
  match takeArrived s 0x51 ep with
  | some (p, s1) => .next (resequence (match epTile ep with | some t => count s1 (tileCtr t 16) 1 | none => s1) p)
  | none => .next s

/-- CLOSE (R130). -/
def execClose (ep : Fin 3072) (s : State) : Res :=
  match takeArrived s 0x52 ep with
  | some (p, s1) => .next (resequence (match epTile ep with | some t => count s1 (tileCtr t 17) 1 | none => s1) p)
  | none => .next s

end Sys2Proof.Machine
end

