-- ==== Sys2Proof/Machine/Lookup.lean ====
section
/-! DEFINITION. The header lookup: decoders, bindings, extents, G-FAM ranges, PIDs, shared regions and keys (R178-R190, R197, R227). -/
namespace Sys2Proof.Machine

/-- What a lookup finds (R178, Table 5.1). -/
inductive Target where
  | port (p ld addr : Nat)
  | home (g key p ld addr : Nat)
  | internal (ep : Nat)
  | noMatch
  | lost
  | sameIsl
  deriving DecidableEq, Repr

/-! Decoders (Table 7.1). -/

/-- IG, IW of a decoder or a G-FAM range; way and strip of R178. -/
def wayOf (v : Entry) (off : Nat) : Nat := off / 2 ^ (8 + fld v 48 4) % 2 ^ (fld v 52 4)
/-- See wayOf. -/
def stripOf (v : Entry) (off : Nat) : Nat :=
  off / 2 ^ (8 + fld v 48 4 + fld v 52 4) * 2 ^ (8 + fld v 48 4) + off % 2 ^ (8 + fld v 48 4)
/-- First byte of a range. -/
def rangeBase (v : Entry) : Nat := fld v 92 36 * 2 ^ 28
/-- The address lies in a committed (valid) range: bit 47. -/
def rangeHas (v : Entry) (a : Nat) : Bool := fld v 47 1 == 1 && decide (rangeBase v ≤ a ∧ a < rangeBase v + fld v 56 36 * 2 ^ 28)
/-- TGTn of a USP decoder. -/
def tgtOf (v : Entry) (n : Nat) : Nat := fld v (128 + 6 * n) 6

/-- The first entry of a table among the n from base whose range holds an address. -/
def findRange (s : State) (t base n a : Nat) : Option Entry :=
  ((List.range n).find? fun i => rangeHas (tabVal s t (base + i)) a).map fun i => tabVal s t (base + i)

/-- BSTATE of a binding. -/
def bstate (v : Entry) : Nat := fld v 24 3
/-- BTYPE. -/
def btype (v : Entry) : Nat := fld v 0 4
/-- PORT of a binding. -/
def bport (v : Entry) : Nat := fld v 4 7
/-- LD. -/
def bld (v : Entry) : Nat := fld v 11 4
/-- PLD. -/
def bpld (v : Entry) : Nat := fld v 15 8

/-- The binding of a physical DSP, or of one of its logical devices, that is bound or lost. -/
def bindingsOf (s : State) (p : Nat) : List Nat :=
  (listed s 0x11).filter fun i => (btype (tabVal s 0x11 i) == 1 || btype (tabVal s 0x11 i) == 2) && bport (tabVal s 0x11 i) == p &&
    (bstate (tabVal s 0x11 i) == 1 || bstate (tabVal s 0x11 i) == 2)

/-! Extents (Table 7.5). -/

/-- ESTATE. -/
def estate (v : Entry) : Nat := fld v 22 3
/-- PLD of an extent. -/
def epld (v : Entry) : Nat := fld v 36 8
/-- MPORT. -/
def emport (v : Entry) : Nat := fld v 29 7
/-- MLD. -/
def emld (v : Entry) : Nat := fld v 25 4
/-- NGRAN. -/
def engran (v : Entry) : Nat := fld v 44 28
/-- MGRAN. -/
def emgran (v : Entry) : Nat := fld v 72 28
/-- LGRAN. -/
def elgran (v : Entry) : Nat := fld v 100 28

/-- The extent of a PLD that maps a logical DPA. -/
def extentAt (s : State) (pld l : Nat) : Option Entry :=
  ((listed s 0x15).find? fun i =>
    let x := tabVal s 0x15 i
    epld x == pld && decide (2 ≤ estate x ∧ estate x ≤ 4) && decide (elgran x * 2 ^ 28 ≤ l ∧ l < (elgran x + engran x) * 2 ^ 28)).map
    fun i => tabVal s 0x15 i

/-! Shared regions (Table 8.1). -/

/-- RSTATE. -/
def rstate (v : Entry) : Nat := fld v 55 2

/-- The active region that holds an address of a port (R197). -/
def regionAt (s : State) (p ld a : Nat) : Option Nat :=
  (listed s 0x20).find? fun r =>
    let v := tabVal s 0x20 r
    rstate v == 1 && fld v 65 7 == p && fld v 61 4 == ld && decide (fld v 100 28 * 2 ^ 28 ≤ a ∧ a < (fld v 100 28 + fld v 72 28) * 2 ^ 28)

/-- The region being released that holds an address of a port: its holders still answer and write back to the home (R225). -/
def releasingAt (s : State) (p ld a : Nat) : Option Nat :=
  (listed s 0x20).find? fun r =>
    let v := tabVal s 0x20 r
    rstate v == 2 && fld v 65 7 == p && fld v 61 4 == ld && decide (fld v 100 28 * 2 ^ 28 ≤ a ∧ a < (fld v 100 28 + fld v 72 28) * 2 ^ 28)

/-- The directory key of a line (R227). -/
def keyOf (s : State) (r a : Nat) : Nat := r * 2 ^ 46 + (a - tabFld s 0x20 r 100 28 * 2 ^ 28) / 64
/-- T. -/
def keyTag (k : Nat) : Nat := k / 2 ^ 28
/-- r. -/
def keyRegion (k : Nat) : Nat := k / 2 ^ 46
/-- The set index s. -/
def keySet (k : Nat) : Nat := Nat.xor (Nat.xor (k % 2 ^ 28) (keyTag k * 4 % 2 ^ 28)) (keyRegion k * 16)
/-- The slice of a set. -/
def setSliceNo (x : Nat) : Nat := 8 * nbits x 5 1 + 2 * nbits x 6 2 + nbits x 4 1
/-- The on-die set of a set. -/
def setCset (x : Nat) : Nat := nbits x 8 8 * 16 + nbits x 0 4
/-- The key recovered from a tag and a set (R228). -/
def keyBack (tag x : Nat) : Nat := tag * 2 ^ 28 + Nat.xor (Nat.xor x (tag * 4 % 2 ^ 28)) (tag / 2 ^ 18 * 16)
/-- The port address of a key's line. -/
def keyAddr (s : State) (k : Nat) : Nat := tabFld s 0x20 (keyRegion k) 100 28 * 2 ^ 28 + k % 2 ^ 46 * 64

/-- A port and its address: the home's slice where the line is shared (R178, R197). -/
def shareCheck (s : State) (p ld a : Nat) : Target :=
  match regionAt s p ld a with
  | some r => .home (setSliceNo (keySet (keyOf s r a))) (keyOf s r a) p ld a
  | none => .port p ld a

/-- The slice of a line of region r. -/
def homeOf (s : State) (r p ld a : Nat) : Target := .home (setSliceNo (keySet (keyOf s r a))) (keyOf s r a) p ld a

/-- Where an answer or a writeback of a holder goes: to the home also while its region is released. -/
def holderTarget (s : State) (t : Target) : Target :=
  match t with
  | .port p ld a => match releasingAt s p ld a with | some r => homeOf s r p ld a | none => t
  | t => t

/-- The ingress is an ISL toward the chip of a PID entry of KIND 3: it is the entry's ISL, or its partner is that chip (R190). -/
def sameChip (s : State) (ingress : Nat) (v : Entry) : Bool :=
  roleOf s ingress == 3 && (fld v 0 7 == ingress || (smGet {} s.isls ingress).peerChip == fld v 8 4)

/-- ROUTE_PID (R190): the entry of a DPID, for a packet that came by an ingress port. -/
def routePid (s : State) (ingress pid a : Nat) : Target :=
  let v := tabVal s 0x17 pid
  match fld v 12 3 with
  | 0 => .noMatch
  | 1 => shareCheck s (fld v 0 7) 0 a
  | 2 => shareCheck s (fld v 0 7) (fld v 8 4) a
  | _ => if sameChip s ingress v then .sameIsl else .port (fld v 0 7) 0 a

/-- What stands behind a vPPB (R178). -/
def behindVppb (s : State) (i a : Nat) : Target :=
  let b := tabVal s 0x11 i
  if bstate b = 2 then .lost
  else if bstate b ≠ 1 then .noMatch
  else match btype b with
    | 1 => shareCheck s (bport b) 0 a
    | 2 => shareCheck s (bport b) (bld b) a
    | 3 =>
      match findRange s 0x13 (i * 16) 16 a with
      | none => .noMatch
      | some e =>
        let l := fld e 128 36 * 2 ^ 28 + stripOf e (a - rangeBase e)
        match extentAt s (bpld b) l with
        | none => .noMatch
        | some x => if estate x = 4 then .lost else shareCheck s (emport x) (emld x) (emgran x * 2 ^ 28 + l - elgran x * 2 ^ 28)
    | _ => .noMatch

/-- The lookup of a host request (R178). -/
def lookupHpa (s : State) (u a : Nat) : Target :=
  match findRange s 0x16 (u * 16) 16 a with
  | some g => routePid s u (fld g 32 12 + wayOf g (a - rangeBase g)) a
  | none =>
    match findRange s 0x12 (u * 32) 32 a, vcsOf s u with
    | some d, some v => behindVppb s (64 * v + tgtOf d (wayOf d (a - rangeBase d))) a
    | _, _ => .noMatch

/-- The PID that a G-FAM range of a USP gives an address (R189), 0xFFF if none holds it. -/
def gfamPid (s : State) (u a : Nat) : Nat :=
  match findRange s 0x16 (u * 16) 16 a with
  | some g => fld g 32 12 + wayOf g (a - rangeBase g)
  | none => 0xFFF

/-- The USP of the host to which a DSP, or a logical device of it, is bound. -/
def hostOf (s : State) (p ld : Nat) : Option Nat :=
  ((bindingsOf s p).find? fun i => let b := tabVal s 0x11 i; bstate b == 1 && (btype b == 1 || bld b == ld)).map fun i => tabFld s 0x10 (i / 64) 0 7

/-- The PID of a port (Table 7.7): the first whose entry names it as a local port. -/
def portPid (s : State) (p : Nat) : Nat :=
  ((listed s 0x17).find? fun i => tabFld s 0x17 i 12 3 == 1 && tabFld s 0x17 i 0 7 == p).getD 0xFFF

/-- The PID of a logical device of a DSP: the port's own, or the one of KIND 2 that names the device (Table 7.7). -/
def memberPid (s : State) (p ld : Nat) : Nat :=
  ((listed s 0x17).find? fun i => tabFld s 0x17 i 0 7 == p && (tabFld s 0x17 i 12 3 == 1 || (tabFld s 0x17 i 12 3 == 2 && tabFld s 0x17 i 8 4 == ld))).getD 0xFFF

/-- The agent entry of a requester, by its PID (R201). -/
def agentOfPid (s : State) (pid : Nat) : Option Nat :=
  if pid = 0xFFF then none else (listed s 0x22).find? fun c => tabFld s 0x22 c 36 12 == pid && tabFld s 0x22 c 0 2 != 0

/-- The agent is active and of the region's domain (R203). -/
def agentOk (s : State) (r pid : Nat) : Bool :=
  match agentOfPid s pid with
  | some c => tabFld s 0x22 c 0 2 == 1 && (tabVal s 0x21 (tabFld s 0x20 r 57 4)).getLsbD (64 + c)
  | none => false

end Sys2Proof.Machine
end

