-- ==== Sys2Proof/Machine/Switch.lean ====
section
/-! DEFINITION. The switch core: lookups and their outcomes, admission, selection, responses leaving, load (R125-R154, R203-R206, R363-R366). -/
namespace Sys2Proof.Machine

/-- The message's number, kept in a transaction. -/
def kindNo : MsgKind → Nat
  | .memRd v => 1 + v
  | .memWr v => 5 + v
  | .memWrPtl => 9
  | .memInv o => if o then 20 else 21
  | .biRsp _ _ => 10
  | .rdShared => 11
  | .rdOwn n => if n then 13 else 12
  | .rdCurr => 14
  | .dirtyEvict => 15
  | .devWr p => if p then 17 else 16
  | .devRsp _ _ => 18
  | .ioRd => 30
  | .ioWr => 31
  | .ioAtomic => 32
  | .ioMsg => 33
  | .cfg w => if w then 41 else 40
  | .bulkRd => 50
  | .bulkWr => 51
  | .mgmt => 60
  | .fabric _ _ => 0
  | .memData => 70
  | .memCmp => 71
  | .ioCpl _ => 72
  | .bulkData => 73

/-- KEPT of a WB, from MetaValue: I 0, S 1, A as E 2 (Tables 8.3, 8.4). -/
def keptOf (mv : Nat) : Nat := match mv with | 2 => 2 | 3 => 1 | _ => 0

/-- The command of Table 6.4 that a message becomes (R160, Table 8.3), with ARG[5:0]. -/
def homeCmd : MsgKind → Nat × Nat
  | .memRd v => (match v.val with | 3 => 0x01 | 0 => 0x03 | _ => 0x02, v.val * 16)
  | .memWr v => (0x25, keptOf v * 16)
  | .memWrPtl => (0x05, 0)
  | .memInv o => (if o then 0x02 else 0x03, 0)
  | .biRsp st w => (0x22, st.val * 16 + (if w then 8 else 0))
  | .rdShared => (0x01, 0)
  | .rdOwn _ => (0x02, 0)
  | .rdCurr => (0x03, 0)
  | .dirtyEvict => (0x25, 0)
  | .devWr p => (if p then 0x05 else 0x04, 0)
  | .devRsp st f => (0x22, st.val * 16 + (if f then 8 else 0))
  | .ioRd => (0x30, 0)
  | .ioWr => (0x30, 0)
  | .ioAtomic => (0x30, 0)
  | .ioMsg => (0x30, 0)
  | .cfg _ => (0x30, 0)
  | .bulkRd => (0x06, 0)
  | .bulkWr => (0x07, 0)
  | .mgmt => (0x40, 0)
  | .fabric c sub => (c.toNat, if c.toNat = 0x22 ∨ c.toNat = 0x25 then sub.toNat % 4 * 16 + sub.toNat / 8 * 8 + sub.toNat / 4 % 2 * 4 else sub.toNat)
  | .memData => (0x23, 0)
  | .memCmp => (0x20, 0)
  | .ioCpl _ => (0x31, 0)
  | .bulkData => (0x26, 0)

/-- MetaValue of a WB toward private memory: KEPT I 0, S 3, E as A 2. -/
def metaOf (kept : Nat) : Nat := match kept with | 1 => 3 | 2 => 2 | _ => 0

/-- The command toward private memory, with ARG[5:0]: a write there is a full-line write, with its MetaValue. -/
def privateCmd (k : MsgKind) : Nat × Nat :=
  match k with
  | .memWr v => (0x04, v.val * 16)
  | .dirtyEvict => (0x04, 0)
  | .fabric c sub => if c = 0x25 then (0x04, metaOf (sub.toNat % 4) * 16) else homeCmd k
  | _ => homeCmd k

/-- A response or a snoop answer, which is no request (R364). -/
def isAnswer : MsgKind → Bool
  | .biRsp _ _ => true
  | .devRsp _ _ => true
  | .memData => true
  | .memCmp => true
  | .ioCpl _ => true
  | .bulkData => true
  | .fabric c _ => isResponse c.toNat || c.toNat == 0x22 || c.toNat == 0x25 || c.toNat == 0x24
  | _ => false

/-- Queue class of a command (R144). -/
def classOf (cmd : Nat) : Nat :=
  if cmd = 0x30 ∨ cmd = 0x31 then 1 else if cmd = 0x06 ∨ cmd = 0x07 ∨ cmd = 0x26 then 2 else if cmd = 0x40 ∨ cmd = 0x41 then 3 else 0

/-- Ordering class of a command (Table 5.4). -/
def ocOf (cmd : Nat) : Nat :=
  match classOf cmd with
  | 1 => 0
  | 2 => 4
  | 3 => 5
  | _ => if cmd ≤ 0x05 then 1 else if 0x10 ≤ cmd ∧ cmd ≤ 0x13 then 3 else 2

/-- A posted message. -/
def isPosted : MsgKind → Bool
  | .ioWr => true
  | .ioMsg => true
  | _ => false

/-- The request reads, and writes (R364). -/
def reqKinds (k : MsgKind) : Bool × Bool :=
  match k with
  | .ioRd => (true, false)
  | .ioAtomic => (true, true)
  | .cfg w => (!w, w)
  | .ioWr => (false, true)
  | .ioMsg => (false, true)
  | _ =>
    match (homeCmd k).1 with
    | 0x01 => (true, false)
    | 0x03 => (true, false)
    | 0x06 => (true, false)
    | 0x02 => (true, true)
    | _ => (false, true)

/-! Answers at the ingress port (R179, R366, Table 15.4). -/

/-- The port drops the data of these answers (Table 8.3): RdOwnNoData, MemInv. -/
def dropsData (kind : Nat) : Bool := kind == 13 || kind == 20 || kind == 21

/-- Sending a local answer: status 4 poisoned, 5 Unsupported Request, 6 Completer Abort, 7 GO-Err, 8 Configuration Request Retry Status, 0 completed. -/
def localMsg (s : State) (p : Nat) (cmd status tag : Nat) (addr : Nat) : State :=
  countPort (count (emit s (.port p (0x200 + cmd) status addr tag [])) (portCtr p 14) 1) p true (ocOf cmd) 0

/-! Link credits (R116, R125). -/

/-- Credits that a port returns: an ISL's slots are queued for its folios, another link's go out by themselves. -/
def giveBack (s : State) (p vc n : Nat) : State :=
  if roleOf s p = 3 then { s with islRet := smMod 0 s.islRet (p * 8 + vc) (· + n) } else emit s (.credit p vc n)

/-- What became transactions holds the message's credits: the last of them that is staged, which returns them as it leaves, else they return at once
(R116, R118, R125). -/
def holdSlots (s : State) (p : Nat) (ids : List Nat) (vc cost : Nat) : State :=
  match ids.reverse.find? fun i => (s.txns.any fun e => e.1 == i) && (txnOf s i).phase == 0 && (txnOf s i).ingress == p with
  | some i => setTxn s i { txnOf s i with vc := vc, cost := cost }
  | none => giveBack s p vc cost

/-- The credits of a whole message, once its lookup has made of it what it became. -/
def chargeSlots (before s : State) (p vc cost : Nat) : State :=
  holdSlots s p ((List.range (s.nextTxn - before.nextTxn)).map (before.nextTxn + ·)) vc cost

/-- Why a transaction is answered locally: 0 no match, 1 target lost, 2 denied, 3 the USP holds configuration back. -/
def localAnswer (s : State) (p : Nat) (t : Txn) (why : Nat) : State :=
  let isDev := decide (11 ≤ t.kind ∧ t.kind ≤ 17)
  if 0x10 ≤ t.cmd ∧ t.cmd ≤ 0x13 then
    -- a snoop from another chip that cannot be delivered is answered with ERR toward its home
    newTxn s { t with cmd := 0x21, oc := 2, src := t.src, dst := portEp p, rstat := 1, reply := true, phase := 1, data := [], answer := 0 }
  else if t.reply then count s (portCtr p 16) 1
  else if t.posted then count s (portCtr p 15) 1
  else if t.cls = 1 then
    let s := if why = 3 then s else ioError s p t.ld (if why = 2 then 15 else 20) t.data
    localMsg s p 0x31 (match why with | 2 => 6 | 3 => 8 | _ => 5) t.tag t.addr
  else if t.cls = 3 then count s (portCtr p 15) 1
  else if isRead t then
    if why = 2 ∧ isDev then localMsg s p 0x20 7 t.tag t.addr
    else localMsg s p (if t.cmd = 0x06 then 0x26 else 0x23) 4 t.tag t.addr
  else if t.kind = 15 then count s (portCtr p 15) 1   -- GO-WritePull went out at the lookup
  else count (localMsg s p 0x20 0 t.tag t.addr) (portCtr p 15) 1

/-! Lookup. -/

/-- Where tables, bindings and routing take a message at a port (R178, R190, R197, Table 5.1). -/
def routeTarget (s : State) (p : Nat) (m : Msg) : Target :=
  let a := m.addr.toNat
  let vppb (u : Nat) (v : Nat) : Target :=
    match vcsOf s u with
    | some x =>
      let b := tabVal s 0x11 (64 * x + v)
      if bstate b = 2 then .lost
      else if bstate b ≠ 1 then .noMatch
      else if btype b = 3 then .internal (svcEp u)
      else .port (bport b) (bld b) a
    | none => .noMatch
  let io (u : Nat) : Target :=
    match m.io with
    | .svc _ => .internal (svcEp u)
    | .vppb v => vppb u v
    | .up => .port u 0 a
    | .own _ => .internal (svcEp u)
    | .hdm => lookupHpa s u a
    | .nowhere => .noMatch
  match roleOf s p with
  | 1 =>
    if m.dpid.toNat ≠ 0xFFF then routePid s p m.dpid.toNat a
    else match m.kind with
      | .mgmt => .internal (7 * 64 + 4)
      | k => if classOf (homeCmd k).1 = 1 then io p else lookupHpa s p a
  | 2 =>
    if m.dpid.toNat ≠ 0xFFF then routePid s p m.dpid.toNat a
    else match hostOf s p m.ld.toNat with
      | none => .noMatch
      | some u =>
        match m.kind with
        | .mgmt => .port u 0 a
        | k =>
          if classOf (homeCmd k).1 = 1 then io u
          else match lookupHpa s u a with
            | .noMatch => .port u 0 a
            | t => t
  | 3 => routePid s p m.dpid.toNat a
  | 4 => if m.kind = .mgmt then .internal (7 * 64 + 4) else .internal (svcEp p)
  | _ => .noMatch

/-- A TLP that accesses no memory, and a management message, have no address in a region (R197). -/
def noAddress : MsgKind → Bool
  | .cfg _ => true
  | .ioMsg => true
  | .mgmt => true
  | _ => false

/-- The target of a message at a port (R178, R190, R197, Table 5.1). -/
def lookupTarget (s : State) (p : Nat) (m : Msg) : Target :=
  match routeTarget s p m with
  | .home g key q ld b => if noAddress m.kind then .port q ld b else .home g key q ld b
  | t => if (homeCmd m.kind).1 = 0x22 ∨ (homeCmd m.kind).1 = 0x25 then holderTarget s t else t

/-- The fence unit's access for a message (Table 15.3). -/
def portAccess (m : Msg) (t : Target) : Access :=
  let bar := match m.kind, t, m.io with
    | .cfg _, _, _ => 3
    | _, .internal _, _ => 2
    | k, _, .hdm => if classOf (homeCmd k).1 = 1 then 0 else 0
    | k, _, .vppb _ => if classOf (homeCmd k).1 = 1 then 2 else 0
    | _, _, _ => 0
  ⟨bar, m.addr.toNat, max 1 m.len.toNat, (reqKinds m.kind).1, (reqKinds m.kind).2⟩

/-- The DPID of a message: its own, or that of the G-FAM range of its host (R189). -/
def msgDpid (s : State) (p : Nat) (m : Msg) : Nat :=
  if m.dpid ≠ 0xFFF then m.dpid.toNat
  else match roleOf s p with
    | 1 => gfamPid s p m.addr.toNat
    | 2 => match hostOf s p m.ld.toNat with | some u => gfamPid s u m.addr.toNat | none => 0xFFF
    | _ => 0xFFF

/-- The transaction that a message becomes as a command with ARG[5:0]. -/
def msgTxn (s : State) (p : Nat) (m : Msg) (c : Nat × Nat) : Txn :=
  let cmd := c.1
  let ocls := classOf cmd
  let fn := match m.io with | .svc fn => 1 + fn.val | .own b => 300 + b.val | _ => 0
  { cmd := cmd, oc := ocOf cmd, src := portEp p, addr := m.addr.toNat, len := m.len.toNat, ld := m.ld.toNat, mval := c.2,
    tag := m.tag.toNat, spid := if m.spid = 0xFFF then portPid s p else m.spid.toNat, dpid := if ocls = 1 ∨ ocls = 3 then m.dpid.toNat else msgDpid s p m, flow := p, poison := m.poison,
    posted := isPosted m.kind, caid := m.caid.toNat, cd := m.cd.toNat, reply := (isAnswer m.kind && cmd != 0x04) || cmd == 0x25 || decide (0x10 ≤ cmd ∧ cmd ≤ 0x13), gen := (endpOf s (portEp p)).gen, ingress := p, cls := ocls,
    kind := kindNo m.kind, looked := s.commitNum, got := 1, units := max 1 m.units.toNat, devload := m.devload.toNat, data := m.data, fn := fn }

/-- Message class for staging (R125): 0 MEM, 1 IO non-posted, 2 BULK, 3 MGMT, 4 IO posted, 5 responses, writebacks and snoops. -/
def stageClass (t : Txn) : Nat := if t.reply then 5 else if t.cls = 1 ∧ t.posted then 4 else t.cls

/-- Something of the class waits in the port's staging area. -/
def stagedBefore (s : State) (t : Txn) : Bool :=
  s.txns.any fun e => e.2.phase == 0 && e.2.ingress == t.ingress && stageClass e.2 == stageClass t

/-- A locally decided transaction: answered at once, or at its turn in its class (R125). -/
def decideLocal (s : State) (p : Nat) (t : Txn) (why : Nat) : State :=
  if stagedBefore s t then newTxn s { t with phase := 0, answer := 1 + why } else localAnswer s p t why

/-- Cut-through by transaction and egress (Table 5.2). -/
def cutsThrough (s : State) (t : Txn) : Bool :=
  match epPort t.dst with
  | some q => (t.cls == 1 && !t.reply) || (t.cls == 1 && t.reply) || ((t.cmd == 0x07 || t.cmd == 0x26) && roleOf s q == 3)
  | none => false

/-- A transaction forwarded by cut-through: its full length, and so its cells, are known from its header (R129). -/
def asCut (t : Txn) : Txn :=
  let t := { t with cut := true, got := 1, full := if isTlp t then tlpTotal t.data else t.len }
  { t with cells := txnCells t }

/-- A forwarded transaction enters staging (Table 5.1). -/
def stage (s : State) (t : Txn) : State :=
  let t := if cutsThrough s t ∧ 1 < t.units then asCut t else { t with cut := false, got := t.units, cells := txnCells t }
  newTxn s { t with phase := 0, resv := respCells t }

/-- The outstanding request that a response from a port answers. -/
def matchResponse (s : State) (p : Nat) (m : Msg) : Option Nat :=
  (txnsWhere s fun t => t.phase == 3 && t.dst == portEp p && !(decide (0x10 ≤ t.cmd ∧ t.cmd ≤ 0x13)) && t.tag == m.tag.toNat && (roleOf s p != 3 || t.spid == m.dpid.toNat) &&
    (match m.kind with | .ioCpl _ => t.cls == 1 | .bulkData => t.cls == 2 | .fabric c _ => if c.toNat = 0x31 then t.cls == 1 else t.cls != 1
                       | _ => t.cls == 0 || t.cls == 2)).head?

/-- The request takes its response's place, toward whoever awaits it (R63, R160). -/
def answered (s : State) (i : Nat) (m : Msg) : State :=
  let rstat := match m.kind with
    | .fabric c sub => if c = 0x21 then (if sub = 2 then 4 else 1) else if m.poison then 4 else 0
    | .ioCpl st => if st.val = 1 then 2 else if st.val = 2 then 3 else if m.poison then 4 else 0
    | _ => if m.poison then 4 else 0
  let q := txnOf s i
  let far : Bool := match epPort q.dst with | some p => roleOf s p == 3 && (agentOfPid s q.spid).isSome | none => false
  let s := answer s i (homeCmd m.kind).1 rstat m.poison m.data
  -- a home on another chip grants what was asked (Table 8.3)
  setTxn s i { txnOf s i with devload := m.devload.toNat, grant := if far ∧ (q.cmd = 0x01 ∨ q.cmd = 0x02) then q.cmd else q.grant }

/-- The response, answering request i, that goes on by cut-through (Table 5.2): toward a CXL.io port, or toward an ISL. The request stays open until the
last unit, since a replayed copy answers it again (R131). -/
def cutAnswer (s : State) (i : Nat) (m : Msg) : Option Txn :=
  let a := txnOf (answered s i m) i
  match epPort a.dst with
  | some q =>
    if portReaches s q ∧ (a.cls = 1 ∨ roleOf s q = 3) ∧ a.parent = 0 then some { asCut a with units := m.units.toNat, key := i, held := false } else none
  | none => none

/-- The last unit of a response forwarded by cut-through: the request it answers is answered, and its cells go with the response (R142). -/
def cutAnswered (s : State) (i : Nat) : State :=
  let t := txnOf s i
  if (s.txns.any fun e => e.1 == t.key) ∧ (txnOf s t.key).phase = 3 then setTxn (dropTxn s t.key) i { t with held := (txnOf s t.key).held } else s

/-- A response arrives at a port. -/
def takeResponse (s : State) (p : Nat) (m : Msg) : State :=
  match matchResponse s p m with
  | none => count s (portCtr p 16) 1
  | some i =>
    match (if 1 < m.units.toNat then cutAnswer s i m else none) with
    | some a => newTxn s a
    | none => answered s i m

/-- A caching read of a region by a requester that is no active agent of its domain (R203). -/
def notAgent (s : State) (t : Txn) (key : Nat) : Bool := (t.cmd == 0x01 || t.cmd == 0x02) && !(agentOk s (keyRegion key) t.spid)

/-- The data of one line of a write that is split (R216): the bytes from an offset of the line on, and whether they fill it. -/
def splitLine (pay : List Byte) (off len i : Nat) : Bool × List Byte :=
  let lo := off - 64 * i
  let hi := min 64 (off + len - 64 * i)
  let bytes := slice (List.replicate off 0 ++ pay) (64 * i) 64
  if lo = 0 ∧ hi = 64 then (true, bytes) else (false, bytes ++ natBytes 16 (2 ^ hi - 2 ^ lo))

/-- R216: a bulk or CXL.io transaction that reaches a region becomes one line command per 64-byte line, of its own ordering class (Table 5.4); the whole
waits for their answers. -/
def splitLines (s : State) (t : Txn) (p ld b : Nat) : State :=
  let n := max 1 ((b % 64 + t.len + 63) / 64)
  let parent := s.nextTxn
  let rd := isRead t || t.kind == 30
  let pay := if t.cls = 1 then tlpPayload t.data else t.data
  let s := newTxn s { t with phase := 6, units := n, got := 0, resv := if rd then respCells t else 0,
                             data := if t.cls = 1 then slice t.data 0 16 else if rd then [] else t.data }
  (List.range n).foldl (fun s i =>
    let a := b / 64 * 64 + 64 * i
    let w := splitLine pay (b % 64) t.len i
    let u : Txn := { t with cmd := if rd then 0x03 else if w.1 then 0x04 else 0x05, kind := 0, addr := a, ld := ld, len := 64,
                            parent := parent + 1, posted := false, units := 1, data := if rd then [] else w.2 }
    match shareCheck s p ld a with
    | .home g key _ _ _ => stage s { u with dst := sliceEp g, key := key, home := some (g, key) }
    | _ => stage s { u with dst := portEp p }) s

/-- An answer to a snoop takes back the snoop that another chip's home sent through the port (R223). -/
def snoopAnswered (s : State) (p : Nat) (m : Msg) : State :=
  if (homeCmd m.kind).1 ≠ 0x22 then s
  else match (txnsWhere s fun t => t.phase == 3 && t.reply && decide (0x10 ≤ t.cmd ∧ t.cmd ≤ 0x12) && t.dst == portEp p && t.addr / 64 == m.addr.toNat / 64).head? with
    | some i => dropTxn s i
    | none => s

/-- The outcome of a lookup (Table 5.1). Toward an ISL a message stays the home command that it is (Table 8.3): the chip beyond may hold the home. -/
def lookupOutcome (s : State) (p : Nat) (m : Msg) (tg : Target) : State :=
  let t := msgTxn s p m (privateCmd m.kind)
  let a := m.addr.toNat
  let denied := fun (s : State) => decideLocal s p t 2
  let judge := fun (f : State → State) =>
    if t.reply then f s
    else
      let c := fenceCheck s p (portAccess m tg)
      if c.1 ≠ 0 then denied c.2 else f c.2
  match tg with
  | .noMatch => decideLocal (if t.reply then s else raiseEvent s 0x280 p [a]) p t 0
  | .sameIsl => decideLocal (raiseEvent s 0x280 p [a]) p t 0
  | .lost => decideLocal s p t 1
  | .internal ep => judge fun s => stage s { t with dst := ep }
  | .port q ld b =>
    let t := if roleOf s q = 3 then msgTxn s p m (homeCmd m.kind) else t
    if !(portReaches s q) then decideLocal s p t 1   -- DESIGN CHOICE (log 95): a port that is down and not lost answers as a lost one
    else judge fun s => snoopAnswered (stage s { t with dst := portEp q, addr := b, ld := if ld = 0 then t.ld else ld }) p m
  | .home g key q ld b =>
    let h := { msgTxn s p m (homeCmd m.kind) with dst := sliceEp g, addr := b, ld := ld, key := key, home := if (homeCmd m.kind).1 = 0x25 ∨ t.reply then none else some (g, key) }
    if notAgent s h key then decideLocal (raiseEvent (raiseEvent s 0x280 p [a]) 0x300 p [a]) p t 0
    else judge fun s => if t.cls = 1 ∨ t.cls = 2 then splitLines s h q ld b else stage s h

/-- A CLOSE from another chip: the home's ISL delivers it to the slice as DONE (R210); one for no region is discarded. -/
def closeArrived (s : State) (p : Nat) (m : Msg) : State :=
  match holderTarget s (routePid s p m.dpid.toNat m.addr.toNat) with
  | .home g key _ _ _ =>
    newTxn s { cmd := 0x27, oc := 2, src := portEp p, dst := sliceEp g, addr := m.addr.toNat / 64 * 64, key := key, reply := true, phase := 1, ingress := p, looked := s.commitNum,
               spid := m.spid.toNat, tag := m.tag.toNat, rstat := if m.poison then 1 else 0 }
  | .port q _ _ =>
    if roleOf s q = 3 then stage s { msgTxn s p m (0x20, 1) with dst := portEp q } else s
  | _ => s

/-- A USP answers configuration requests with retry status until fabric ready, and while HOLD_BOOT holds it (R459). -/
def configHeld (s : State) (p : Nat) (m : Msg) : Bool :=
  roleOf s p == 1 && (match m.kind with | .cfg _ => true | _ => false) &&
  (!s.boot.ready || (tabFld s 0x3E (p / 8) 17 1 == 1 && !s.boot.holdOver && s.boot.released / 2 ^ (p / 8) % 2 == 0))

/-- A snoop answer with dirty data (Table 8.3): the WB, which answers the snoop, and then SNP_RSP with WBF = 1. -/
def dirtyAnswer (s : State) (p : Nat) (m : Msg) (st : Fin 3) : State :=
  let w := { m with kind := .fabric 0x25 (BitVec.ofNat 4 (st.val + 8)) }
  let s := lookupOutcome s p w (lookupTarget s p w)
  lookupOutcome s p { m with data := [] } (lookupTarget s p m)

/-- A message at its header lookup becomes what Table 5.1 says. -/
def lookUp (s : State) (p : PortId) (m : Msg) : State :=
  let s := countPort (count s (tileCtr (p.val / 8) 25) 1) p false (ocOf (homeCmd m.kind).1) m.len.toNat
  if (match m.kind with | .fabric c sub => c.toNat == 0x20 && sub.toNat == 1 | _ => false) then closeArrived s p m
  else if (match m.kind with | .memData => true | .memCmp => true | .ioCpl _ => true | .bulkData => true
                             | .fabric c _ => isResponse c.toNat && c.toNat != 0x24 | _ => false) then takeResponse s p m
  else if configHeld s p m then decideLocal s p (msgTxn s p m (0x30, 0)) 3
  else match m.kind with
    | .devRsp st true => dirtyAnswer s p m st
    | .dirtyEvict => lookupOutcome (emit s (.port p 0x301 2 0 m.tag.toNat [])) p m (lookupTarget s p m)   -- GO-WritePull (Table 8.3)
    | _ => lookupOutcome s p m (lookupTarget s p m)

/-- A message that came by a port and what it became: a link other than an ISL holds one credit of its class for it (R125). -/
def credited (s : State) (p : Nat) (m : Msg) (t : State) : State :=
  if roleOf s p = 3 then t else chargeSlots s t p (stageClass (msgTxn s p m (homeCmd m.kind))) 1

/-- A CXL.io message as its header gives it: a tag has 14 bits in flit mode and 10 in non-flit mode; a poisoned one is reported (R57). -/
def ioHeader (s : State) (p : Nat) (m : Msg) : State × Msg :=
  if classOf (homeCmd m.kind).1 ≠ 1 ∨ roleOf s p = 3 then (s, m)
  else (if m.poison then ioError s p m.ld.toNat 12 m.data else s, { m with tag := m.tag % (if tabFld s 0x02 p 15 2 = 0 then 1024 else 16384) })

/-- A message that passed its ingress check reaches its header lookup (R126, R127). A nullified TLP is discarded whole (R131). -/
def headerLookup (s : State) (p : PortId) (m : Msg) : State :=
  credited s p m (if m.nullified then s else lookUp (ioHeader s p m).1 p (ioHeader s p m).2)

/-- HEADER_LOOKUP (R126, R127). -/
def execHeaderLookup (p : PortId) (m : Msg) (s : State) : Res :=
  if !(fabricRuns s) ∨ !(portExists s p) ∨ roleOf s p = 0 then .next s else .next (headerLookup s p m)

/-! Admission (R125, R129, R142-R145). -/

/-- Who holds the response cells of a transaction: itself, or the split read whose line it is (R142). -/
def cellHolder (s : State) (i : Nat) : Nat := if (txnOf s i).parent ≠ 0 ∧ (txnOf s i).resv = 0 then (txnOf s i).parent - 1 else i

/-- The response cells are held, are not needed, or are free: a transaction of no port needs none (Table 6.5). -/
def cellsReady (s : State) (i : Nat) : Bool :=
  let t := txnOf s (cellHolder s i)
  t.resv == 0 || t.held || t.ingress == 96 || decide (reserveUsed s (txnTile t) + t.resv ≤ 3072)

/-- The transaction's cells of the response reserve, if they are free. -/
def reserve (s : State) (i : Nat) : State :=
  let h := cellHolder s i
  let t := txnOf s h
  if t.resv = 0 ∨ t.held ∨ t.ingress = 96 ∨ !(cellsReady s i) then s
  else
    let s := setTxn s h { t with held := true }
    peak s (tileCtr (txnTile t) 1) (reserveUsed s (txnTile t))

/-- The slice at a transaction's destination can take no further request (R209, R237). -/
def sliceFull (s : State) (t : Txn) : Bool :=
  match epSlice t.dst with
  | some g => !t.reply && (decide (256 ≤ (sliceOf s g).conf.length) || decide (64 ≤ (sliceOf s g).scq.length) || !(sliceOf s g).ready)
  | none => false

/-- A transaction leaves staging: its credits are returned (R116, R125). -/
def leaveStaging (s : State) (t : Txn) : State := if t.cost = 0 then s else giveBack s t.ingress t.vc t.cost

/-- The port holds back what it may not forward: an IDE gate, or a USP without CXL (R50, Table 2.3). -/
def portGated (s : State) (t : Txn) : Bool := ideGated s t.ingress t || declined s t.ingress

/-- ADMISSION of the front of a message class at a port. DESIGN CHOICE (log 95): with α above 1 the cells must also be free, which R145 does not say. -/
def execAdmission (p : PortId) (cls : Fin 6) (s : State) : Res :=
  match (txnsWhere s fun t => t.phase == 0 && t.ingress == p.val && stageClass t == cls.val).head? with
  | none => .next s
  | some i =>
    let t := txnOf s i
    if !(fabricRuns s) ∨ portGated s t then .next s
    else if t.answer ≠ 0 then .next (localAnswer (leaveStaging (dropTxn s i) t) p t (t.answer - 1))
    else if t.reply then .next (setTxn (leaveStaging s t) i { t with phase := 1, cost := 0 })
    else
      let tile := p.val / 8
      let q := queueCells s p t.dst t.cls
      let f := poolFree s tile
      let k := queueKey p t.dst t.cls
      if q + t.cells ≤ alphaOf (alphaCode s p t.cls) f ∧ t.cells ≤ f ∧ !(sliceFull s t) then
        let s1 := count (setTxn (leaveStaging s t) i { t with phase := 1, cost := 0 }) (tileCtr tile (4 + t.cls)) 1
        let s2 := lowest (peak s1 (tileCtr tile 0) (poolUsed s1 tile)) (tileCtr tile 3) (poolFree s1 tile)
        .next (reserve s2 i)
      else .next (withhold s p k)

/-! Selection and injection (R133-R148). -/

/-- Cells of the selection share that a tile's, or a port's, packets hold: selected, and not yet gone (R141, R148). What answers a request lies in the
response reserve, and snoops pass without cells (R142, R143). -/
def selectedCells (s : State) (f : Nat → Bool) : Nat :=
  sumOf ((s.txns.filter fun e => (e.2.phase == 2 || e.2.phase == 4) && !e.2.reply && (match epPort e.2.dst with | some p => f p | none => false)).map
    fun e => e.2.cells)

/-- The port may take c more cells of its tile's selection share: 256 at most, 64 kept for each existing port, the rest shared (R141). -/
def shareFree (s : State) (p c : Nat) : Bool :=
  let own := selectedCells s fun q => q == p
  let ports := (List.range 8).filter fun k => portExists s (p / 8 * 8 + k)
  let beyond := sumOf (ports.map fun k => (selectedCells s fun q => q == p / 8 * 8 + k) - 64)
  decide (own + c ≤ 256) && (decide (own + c ≤ 64) || decide (beyond + (max (own + c) 64 - max own 64) ≤ 1024 - 64 * ports.length))

/-- Cells of non-posted CXL.io requests at a port's egress (R139). -/
def nonPostedCells (s : State) (p : Nat) : Nat :=
  sumOf ((s.txns.filter fun e => (e.2.phase == 2 || e.2.phase == 4) && e.2.dst == portEp p && e.2.cmd == 0x30 && !e.2.posted).map fun e => e.2.cells)

/-- A stream whose cut-through transaction is still arriving: its packets take consecutive numbers (R133). -/
def streamBusy (s : State) (t : Txn) : Bool :=
  s.txns.any fun e => e.2.phase == 2 && e.2.cut && decide (e.2.got < e.2.units) && e.2.src == t.src && e.2.dst == t.dst && e.2.oc == t.oc

/-- The writeback slot that an unsolicited WB toward a slice takes, 0 if it needs none (R166, Table 6.5): 1 + tile × 16 + slice. -/
def wbSlot (t : Txn) : Nat :=
  match epSlice t.dst, poolTile t with
  | some g, some k => if t.cmd = 0x25 ∧ t.mval / 8 % 2 = 0 then 1 + k * 16 + g else 0
  | _, _ => 0

/-- The slice still grants the tile one of its 8 slots. -/
def slotFree (s : State) (t : Txn) : Bool := wbSlot t == 0 || decide ((s.txns.filter fun e => e.2.slot == wbSlot t).length < 8)

/-- A queued transaction may be selected now: its response cells, its stream's window, its writeback slot, its share of the egress stage. -/
def selectable (s : State) (i : Nat) : Bool :=
  let t := txnOf s i
  cellsReady s i && slotFree s t &&
  (sameTile t.src t.dst || decide ((streamOf s (streamKey t.src t.dst t.oc)).unreleased + txnPackets t ≤ 256)) && !(streamBusy s t) &&
  (match epPort t.dst with
   | some p => (t.reply || shareFree s p t.cells) && (t.cmd != 0x30 || t.posted || decide (nonPostedCells s p + t.cells ≤ 128))
   | none => true)

/-- Key of a flow's scheduler at a destination. -/
def schedKey (dst flow : Nat) : Nat := dst * 97 + flow

/-- GMIN and WEIGHT of a flow at a destination (Table 5.8); a home has no flow table and takes the reset values. -/
def flowEntry (s : State) (dst flow : Nat) : Entry :=
  match epPort dst with
  | some p => tabVal s 0x07 (p * 97 + flow)
  | none => tabReset 0x07 0

/-- A bucket refilled to now: GMIN quarter-bytes per ns, 8 KiB deep (R146). -/
def refilled (s : State) (dst flow : Nat) : Sched :=
  let x := smGet {} s.scheds (schedKey dst flow)
  { x with tokens := min 32768 (x.tokens + fld (flowEntry s dst flow) 0 16 * (s.clock - x.last)), last := s.clock }

/-- Charge of a transaction in bytes (R148). -/
def charge (t : Txn) : Nat := if t.cls = 0 then 64 else max 1 t.len

/-- Deficit round robin from a flow on (R146): the flow served, with the deficits after it. -/
def drr (s : State) (dst : Nat) (front : Nat → Option Nat) : Nat → Nat → SMap Sched → Option (Nat × SMap Sched)
  | 0, _, _ => none
  | n + 1, f, m =>
    match front f with
    | none => drr s dst front n ((f + 1) % 97) (smMod {} m (schedKey dst f) fun x => { x with deficit := 0 })
    | some i =>
      let x := smGet {} m (schedKey dst f)
      let c := charge (txnOf s i)
      if c ≤ x.deficit then some (f, smSet {} m (schedKey dst f) { x with deficit := x.deficit - c })
      else drr s dst front n ((f + 1) % 97)
        (smSet {} m (schedKey dst f) { x with deficit := x.deficit + fld (flowEntry s dst f) 16 8 * 256 })

/-- No transaction of the same stream was looked up before this one and still waits: numbers go out in the order of the lookups (R133). -/
def streamHead (s : State) (i : Nat) : Bool :=
  let t := txnOf s i
  s.txns.all fun e => !(decide (e.2.ord < t.ord) && decide (e.2.phase ≤ 1) && e.2.answer == 0 && e.2.src == t.src && e.2.dst == t.dst && e.2.oc == t.oc)

/-- The transaction that an egress serves next (R146), with the schedulers after it. -/
def pickNext (s : State) (dst : Nat) : Option (Nat × SMap Sched × Nat) :=
  let ids := txnsWhere s fun t => t.phase == 1 && t.dst == dst
  let turn := (smGet {} s.paces dst).turn
  match ids.find? fun i => (txnOf s i).reply && streamHead s i && selectable s i with
  | some i => some (i, s.scheds, turn)
  | none =>
    let front := fun f => ids.find? fun i => (txnOf s i).flow == f && !(txnOf s i).reply && streamHead s i && selectable s i
    match (List.range 97).find? fun f =>
        fld (flowEntry s dst f) 0 16 != 0 && (match front f with | some i => decide (charge (txnOf s i) * 4 ≤ (refilled s dst f).tokens) | none => false) with
    | some f =>
      match front f with
      | some i =>
        let x := refilled s dst f
        some (i, smSet {} s.scheds (schedKey dst f) { x with tokens := x.tokens - charge (txnOf s i) * 4 }, turn)
      | none => none
    | none =>
      if (List.range 97).all fun f => (front f).isNone then none
      else match drr s dst front 9700 turn s.scheds with
        | some (f, m) => (front f).map fun i => (i, m, f)
        | none => none

/-- The generation that a packet bears: a requester's own, which the answer copies; toward a slice, which asked, the slice's (R175). -/
def genFor (s : State) (t : Txn) : Nat := if t.reply ∧ (epSlice t.dst).isSome then (endpOf s t.dst).gen else t.gen

/-- The packets of a transaction from number k on, as many as have arrived, each with its sequence number. -/
def sendPackets (s : State) (i : Nat) : Nat → State
  | 0 => s
  | n + 1 =>
    let t := txnOf s i
    let total := txnPackets t
    let ready := if t.cut ∧ t.got < t.units then min (total - 1) (t.data.length / 128) else total
    if ready ≤ t.count ∨ t.phase ≠ 2 then s
    else
      let same := sameTile t.src t.dst
      let k := streamKey t.src t.dst t.oc
      let x := streamOf s k
      let pk : Packet := { txn := i, cmd := t.cmd, src := t.src, dst := t.dst, oc := t.oc, epoch := 0, seq := x.next, eot := decide (t.count + 1 = total),
                           posted := t.posted, gen := genFor s t, rstat := t.rstat, tag := t.tag, seqd := !same }
      let s := setTxn s i { t with count := t.count + 1, first := if t.count = 0 then x.next else t.first }
      let s := if same then release s pk
        else inject (setStream s k { x with next := (x.next + 1) % 1024, unreleased := x.unreleased + 1 }) pk
      sendPackets s i n

/-- Service rate of a port in quarter GB/s (Table 5.7): SVC_RATE, or lanes × rate / 8 as negotiated. -/
def rateGt (code : Nat) : Nat := match code with | 0 => 25 | 1 => 50 | 2 => 80 | 3 => 160 | 4 => 320 | 5 => 640 | 6 => 640 | _ => 1280
/-- See rateGt. -/
def svcRate (s : State) (p : Nat) : Nat :=
  if tabFld s 0x06 p 0 16 ≠ 0 then tabFld s 0x06 p 0 16
  else tabFld s 0x02 p 10 5 * rateGt (tabFld s 0x02 p 6 4) * 4 / 80

/-- EGRESS_SELECT (R146, R148). -/
def execEgressSelect (dst : Fin 3072) (s : State) : Res :=
  let pc := smGet {} s.paces dst.val
  if !(fabricRuns s) ∨ s.clock * 1000 < pc.freeAt then .next s
  else
    match pickNext s dst with
    | none =>
      .next (match (s.txns.find? fun e => e.2.phase == 1 && e.2.dst == dst.val && !(cellsReady s e.1)) with
        | some e => count s (tileCtr (txnTile e.2) 24) 1
        | none => s)
    | some (i, m, turn) =>
      let s1 := reserve { s with scheds := m } i
      let t := txnOf s1 i
      let busy := match epPort dst with
        | some p => if svcRate s1 p = 0 then 0 else charge t * 4000 / svcRate s1 p
        | none => 0
      let s2 := { s1 with paces := smSet {} s1.paces dst.val { freeAt := max pc.freeAt (s1.clock * 1000) + busy, turn := turn } }
      let s3 := if sameTile t.src t.dst then (match epTile t.dst with | some x => count s2 (tileCtr x 20) 1 | none => s2) else s2
      let s4 := match epPort dst with
        | some p => peak s3 (tileCtr (p / 8) 2) (selectedCells s3 (fun q => q / 8 == p / 8) + if t.reply then 0 else t.cells)
        | none => s3
      .next (sendPackets (setTxn s4 i { t with phase := 2, slot := wbSlot t }) i (txnPackets t))

/-- Packets of a transaction that wait at its source router. -/
def waitingPackets (s : State) (i : Nat) : List Packet :=
  let t := txnOf s i
  (routerOf s (if onRs t.cmd then 1 else 0) (epRouter t.src)).inj.filter fun p => p.txn == i && p.cmd == t.cmd

/-- A transaction that has its numbers and none of whose packets has been injected (R137). -/
def uninjected (s : State) (i : Nat) : Bool :=
  let t := txnOf s i
  t.phase == 2 && t.count != 0 && !(sameTile t.src t.dst) && (waitingPackets s i).length == t.count

/-- A skip marker takes the place of a transaction's packets, and covers the numbers it held (R137). -/
def skipTxn (s : State) (i : Nat) : State :=
  let t := txnOf s i
  let pl := if onRs t.cmd then 1 else 0
  let x := routerOf s pl (epRouter t.src)
  let s := setRouter s pl (epRouter t.src) { x with inj := x.inj.filter fun p => !(p.txn == i && p.cmd == t.cmd) }
  injectOn s pl { txn := i, cmd := 0x51, src := t.src, dst := t.dst, oc := t.oc, epoch := 0, seq := t.first, seqd := true, arg := t.first + t.count * 1024 }

/-- A transaction whose ingress or target is gone before its end (R130, R137): dropped, skipped, or closed under its next number. -/
def cancelTxn (s : State) (i : Nat) : State :=
  let t := txnOf s i
  if t.phase ≠ 2 ∨ t.count = 0 then dropTxn s i
  else if uninjected s i then dropTxn (skipTxn s i) i
  else
    let k := streamKey t.src t.dst t.oc
    let x := streamOf s k
    let same := sameTile t.src t.dst
    let pk : Packet := { txn := i, cmd := 0x52, src := t.src, dst := t.dst, oc := t.oc, epoch := 0, seq := x.next, seqd := !same }
    let s := setTxn s i { t with bad := true, got := t.units }
    if same then release s pk
    else injectOn (setStream s k { x with next := (x.next + 1) % 1024, unreleased := x.unreleased + 1 }) (if onRs t.cmd then 1 else 0) pk

/-- A unit that passed its check joins its transaction and follows the header; a nullified TLP is closed (R128, R130, R131). -/
def cutUnit (s : State) (u : MacUnit) : State :=
  match (txnsWhere s fun t => t.src == portEp u.port && t.cut && t.reply == u.cpl && !t.bad && t.tag == u.tag && decide (t.got < t.units) && decide (t.phase ≤ 2)).head? with
  | none => s
  | some i =>
    let t := txnOf s i
    if u.bad then cancelTxn s i
    else
      let s1 := setTxn s i { t with got := t.got + 1, data := t.data ++ u.data, poison := t.poison || u.poison }
      let s2 := if t.reply ∧ t.got + 1 = t.units then cutAnswered s1 i else s1
      if t.phase = 2 then sendPackets s2 i (txnPackets t) else s2

/-- CUT_THROUGH_UNIT (R128): with IDE active the unit waits for its MAC epoch (R129). -/
def execCutThroughUnit (p : PortId) (cpl : Bool) (tag : BitVec 16) (data : List Byte) (poison bad : Bool) (s : State) : Res :=
  let u : MacUnit := { port := p, cpl := cpl, tag := tag.toNat, data := data, poison := poison, bad := bad }
  .next (if tabFld s 0x02 p 18 1 = 1 then { s with macUnits := s.macUnits ++ [u] } else cutUnit s u)

/-- The units of a port whose MAC epoch has been checked; those of a bad one are lost, and their transactions are closed. -/
def releaseUnits (s : State) (p : Nat) (ok : Bool) : State :=
  (s.macUnits.filter fun u => u.port == p).foldl (fun s u => cutUnit s (if ok then u else { u with bad := true }))
    { s with macUnits := s.macUnits.filter fun u => u.port != p }

/-! Responses (R142, R153, R210). -/

/-- Ihlyon's own DevLoad value for the MEM queue of a port toward what answered (R153). -/
def ownLoad (s : State) (ingress dst : Nat) : Nat :=
  let k := queueKey ingress dst 0
  if atThreshold s k then 3
  else if alphaOf (alphaCode s ingress 0) (poolFree s (ingress / 8)) / 2 < queueCells s ingress dst 0 then 2 else 0

/-- A CXL.mem response from another chip closes its line there with CMP SUB 1, CLOSE (R210). -/
def closeRemote (s : State) (t : Txn) (rstat : Nat) : State :=
  match epPort t.src with
  | some q =>
    if roleOf s q = 3 ∧ t.oc = 2 ∧ t.dpid ≠ 0xFFF ∧ t.home.isNone then
      newTxn s { cmd := 0x20, oc := 2, src := t.dst, dst := t.src, addr := t.addr, mval := 1, rstat := rstat, reply := true, phase := 1,
                 ingress := t.ingress, looked := s.commitNum, dpid := t.dpid, spid := t.spid, tag := t.tag, poison := rstat == 1 }   -- log 96
    else s
  | none => s

/-- A response at a port's egress, whole, or a TLP cut through that has begun to arrive. -/
def atEgress (p : Nat) (t : Txn) : Bool :=
  t.dst == portEp p && t.reply && !(decide (0x10 ≤ t.cmd ∧ t.cmd ≤ 0x13)) &&
  (t.phase == 4 || (t.phase == 2 && t.cut && !t.bad && isTlp t && t.parent == 0 && decide (0 < t.arrived) && !t.data.isEmpty && t.sent == 0))

/-- A response at a port of a lost or absent partner is sunk, and closes with RSTAT = 1 (R63, R210). -/
def sinkResponse (s : State) (p i : Nat) : State :=
  let t := txnOf s i
  closeRemote (closeHome (count (dropTxn s i) (portCtr p 16) 1) t (portEp p) 1) t 1

/-- The message of a response: DevLoad in the code's bits [5:4], RSTAT below, the grant above. -/
def responseMsg (p : Nat) (t : Txn) (devload : Nat) (data : List Byte) : Out :=
  .port p (0x200 + t.cmd) (devload * 16 + (if t.rstat = 0 ∧ t.poison then 4 else t.rstat) + t.grant * 64) t.addr t.tag data

/-- A completion that its requester awaits no message of: a device's evict had its GO-WritePull, and a writeback with a snoop answer draws nothing. -/
def silent (s : State) (t : Txn) : Bool :=
  t.cmd == 0x20 && (t.kind == 15 || (t.kind == 0 && (match epPort t.src with | some q => roleOf s q == 3 | none => false)))

/-- A response leaves: in CXL.mem responses at a USP, DevLoad is the worse of the device's and Ihlyon's own (R153). -/
def sendResponse (s : State) (p i : Nat) : State :=
  let t := txnOf s i
  if t.phase = 2 then
    let n := min t.data.length (128 * t.arrived)
    setTxn (emit s (responseMsg p t t.devload ((leavingData t).take n))) i { t with sent := n }
  else
    let mem := t.oc == 2 && roleOf s p == 1
    let own := ownLoad s p (match t.home with | some (g, _) => sliceEp g | none => t.src)
    let s1 := if mem ∧ own = 2 then count s (portCtr p 6) 1 else if mem ∧ own = 3 then count s (portCtr p 7) 1 else s
    let out := if 0 < t.sent then sendPart s1 p i
      else if silent s1 t then s1 else emit s1 (responseMsg p t (if mem then max t.devload own else t.devload) (if dropsData t.kind ∨ t.noData then [] else leavingData t))
    let s2 := countPort (dropTxn out i) p true t.oc t.len
    let s3 := closeRemote (closeHome s2 t (portEp p) 0) t 0
    if 0 < t.sent then egressFlush s3 p else s3

/-- RESPONSE_LEAVES (R139, R142, R153, R210): the oldest response at a port's egress that nothing holds back. -/
def execResponseLeaves (p : PortId) (s : State) : Res :=
  let lost := tabFld s 0x02 p 20 1 == 1
  if !(fabricRuns s) ∨ (roleOf s p = 3 ∧ !lost) then .next s
  else if lost ∨ roleOf s p = 0 then
    match (txnsWhere s fun t => atEgress p t && t.phase == 4).head? with
    | some i => .next (sinkResponse s p i)
    | none => .next s
  else
    match (txnsWhere s (atEgress p)).find? fun i => mayLeave s p (if (txnOf s i).phase = 2 then { txnOf s i with ord := s.nextTxn } else txnOf s i) with
    | some i => .next (sendResponse s p i)
    | none => .next s

/-- LOAD_SEVERE (R154). -/
def execLoadSevere (p q : PortId) (cls : Fin 4) (s : State) : Res :=
  let k := queueKey p (portEp q) cls
  let t := smGet {} s.thrs k
  let sev := tabFld s 0x06 q 40 4
  if sev ≠ 0 ∧ atThreshold s k ∧ !t.raised ∧ t.since + sev * 1000000 ≤ s.clock + 1 then
    .next (raiseEvent { s with thrs := smSet {} s.thrs k { t with raised := true } } 0x181 p [q, cls])
  else .next s

/-! Drain points (R126, R282). -/

/-- Transactions looked up below a commit number that have not left toward an endpoint. -/
def drainLeft (s : State) (ep below : Nat) : Nat :=
  (s.txns.filter fun e => e.2.dst == ep && decide (e.2.looked < below) && decide (e.2.phase ≤ 2 ∨ e.2.phase = 4)).length

end Sys2Proof.Machine
end

