-- ==== Sys2Proof/Machine/Gazetteer.lean ====
section
/-! DEFINITION. The Gazetteer directory: on-die ways, backing sets, allocation, victims, memory errors (R227-R244). -/
namespace Sys2Proof.Machine

/-! On-die ways (Table 9.2). -/

/-- Number of way w of on-die set c of slice g. -/
def wayNo (g c w : Nat) : Nat := (g * 4096 + c) * 16 + w
/-- An on-die way. -/
def wayOfNo (s : State) (n : Nat) : Way := smGet {} s.ways n
/-- Replacing an on-die way. -/
def setWay (s : State) (n : Nat) (w : Way) : State := { s with ways := smSet {} s.ways n w }
/-- A backing way. -/
def backOf (s : State) (x h : Nat) : DirEnt := smGet {} s.backing (x * 8 + h)
/-- Replacing a backing way. -/
def setBack (s : State) (x h : Nat) (e : DirEnt) : State := { s with backing := smSet {} s.backing (x * 8 + h) e }

/-- The set index that an on-die way's place and SEXT give. -/
def setOfWay (n sext : Nat) : Nat :=
  let g := n / 65536
  let c := n / 16 % 4096
  sext * 2 ^ 16 + c / 16 * 2 ^ 8 + nbits g 1 2 * 2 ^ 6 + g / 8 * 2 ^ 5 + g % 2 * 2 ^ 4 + c % 16

/-- The on-die way that holds a line: VALID, not quarantined, SEXT and TAG equal (R233). -/
def findDie (s : State) (k : Nat) : Option Nat :=
  let x := keySet k
  ((List.range 16).map fun w => wayNo (setSliceNo x) (setCset x) w).find? fun n =>
    let v := wayOfNo s n
    v.valid && !v.quar && v.sext == x / 2 ^ 16 && v.ent.tag == keyTag k

/-- The entry of a line as the slice holds it on die, else in its backing set, else none (R229). -/
def backBound (s : State) (x h : Nat) : Bool :=
  (List.range 16).any fun w =>
    let v := wayOfNo s (wayNo (setSliceNo x) (setCset x) w)
    v.valid && v.sext == x / 2 ^ 16 && v.hway == h
/-- The backing way that holds a line (R233). -/
def findBack (s : State) (k : Nat) : Option Nat :=
  let x := keySet k
  (List.range 8).find? fun h => (backOf s x h).tag == keyTag k && (backOf s x h).st != 0 && (backOf s x h).st != 15 && !(backBound s x h)

/-- A line's entry as the slice holds it (R229): zero fields and state I where there is none. -/
def entryOf (s : State) (k : Nat) : DirEnt :=
  match findDie s k with
  | some n => (wayOfNo s n).ent
  | none => match findBack s k with
    | some h => backOf s (keySet k) h
    | none => {}

/-- The check bits of a 64-bit half, SEC-DED; the codes are linear, so zero carries zero (R229). -/
def eccOf (w : Word) : Nat := if w = 0 then 0 else (Config.ecc w).toNat

/-- An entry's 128 bits (Table 9.1). -/
def entBits (e : DirEnt) : Entry :=
  let lo := e.tag * 2 ^ 38 + e.st * 2 ^ 34 + e.owner * 2 ^ 28 + e.domain * 2 ^ 24 + e.opn * 2 ^ 16
  mkEntry [(0, eccOf (BitVec.ofNat 64 lo)), (8, eccOf e.sharers), (0, lo), (64, e.sharers.toNat)]

/-- The on-die copy of a line changes; its backing way is no longer current (R231). -/
def putEnt (s : State) (n : Nat) (e : DirEnt) : State := setWay s n { wayOfNo s n with ent := e, modified := true }

/-- R232: an entry with open transactions, or with a transient state, is pinned. -/
def pinned (e : DirEnt) : Bool := decide (0 < e.opn) || e.st == 4 || e.st == 5

/-! Tree pseudo-LRU (R234): bit i of node i set names the right half; node 0 is the root. -/

/-- The way that the tree names. -/
def plruWay (t : Nat) : Nat :=
  let a := nbits t 0 1
  let b := nbits t (1 + a) 1
  let c := nbits t (3 + 2 * a + b) 1
  let d := nbits t (7 + 4 * a + 2 * b + c) 1
  8 * a + 4 * b + 2 * c + d

/-- Bit i of the tree with value v. -/
def plruBit (t i v : Nat) : Nat := if nbits t i 1 = v then t else if v = 1 then t + 2 ^ i else t - 2 ^ i

/-- A way becomes most recent: every node on its path points away from it. -/
def plruTouch (t w : Nat) : Nat :=
  let a := w / 8 % 2
  let b := w / 4 % 2
  let c := w / 2 % 2
  plruBit (plruBit (plruBit (plruBit t 0 (1 - a)) (1 + a) (1 - b)) (3 + 2 * a + b) (1 - c)) (7 + 4 * a + 2 * b + c) (1 - w % 2)

/-- A hit makes the way most recent. -/
def touchWay (s : State) (n : Nat) : State := { s with plru := smMod 0 s.plru (n / 16) fun t => plruTouch t (n % 16) }

/-- The tree's choice among the ways that qualify: its own way, or the next qualifying one above it, wrapping. -/
def plruAmong (t : Nat) (ok : Nat → Bool) : Option Nat := ((List.range 16).map fun i => (plruWay t + i) % 16).find? ok

/-- Writing an on-die entry back to its backing way when it is not current (R231). -/
def writeBack (s : State) (n : Nat) : State :=
  let v := wayOfNo s n
  let s := if v.valid ∧ v.modified then count (setBack s (setOfWay n v.sext) v.hway { v.ent with opn := 0 }) (sliceCtr (n / 65536) 4) 1 else s
  setWay s n { v with valid := false, modified := false, ent := {}, sext := 0, hway := 0 }

/-- An on-die way for a set (R234): a free one, lowest first, or the pseudo-LRU's among those not pinned, written back. -/
def takeDie (s : State) (x : Nat) : Option (Nat × State) :=
  let base := wayNo (setSliceNo x) (setCset x) 0
  match (List.range 16).find? fun w => !(wayOfNo s (base + w)).valid && !(wayOfNo s (base + w)).quar with
  | some w => some (base + w, s)
  | none =>
    match plruAmong (smGet 0 s.plru (base / 16)) fun w => let v := wayOfNo s (base + w); v.valid && !v.quar && !(pinned v.ent) with
    | some w => some (base + w, writeBack s (base + w))
    | none => none

/-- The on-die way bound to backing way h of set x. -/
def boundDie (s : State) (x h : Nat) : Option Nat :=
  ((List.range 16).map fun w => wayNo (setSliceNo x) (setCset x) w).find? fun n =>
    let v := wayOfNo s n
    v.valid && v.sext == x / 2 ^ 16 && v.hway == h

/-- The entry by which a backing way is judged: its on-die copy while bound (R235). -/
def judged (s : State) (x h : Nat) : DirEnt :=
  match boundDie s x h with
  | some n => (wayOfNo s n).ent
  | none => backOf s x h

/-- Number of sharers. -/
def sharerList (v : BitVec 64) : List Nat := (List.range 64).filter fun c => v.getLsbD c

/-- Victim cost (Table 9.3), none where the way is no candidate: quarantined in HBM or on die, pinned, or its line has an active transaction (R208). -/
def victimCost (s : State) (x h : Nat) : Option Nat :=
  let e := judged s x h
  let lost : Bool := match boundDie s x h with | some n => (wayOfNo s n).quar | none => false
  if (backOf s x h).st = 15 ∨ lost ∨ pinned e ∨ (sliceOf s (setSliceNo x)).act.any (fun a => a.key == keyBack e.tag x) then none
  else match e.st with
    | 1 => some (sharerList e.sharers).length
    | 2 => some 2
    | _ => none

/-- A backing way for a set (R235): a free one, lowest first. -/
def freeBack (s : State) (x : Nat) : Option Nat :=
  (List.range 8).find? fun h => (backOf s x h).st == 0 && (boundDie s x h).isNone

/-- The backing victim: the lowest cost, ties to the lowest way (R235). -/
def victimWay (s : State) (x : Nat) : Option Nat :=
  ((List.range 8).foldl (fun (b : Option (Nat × Nat)) h =>
    match victimCost s x h, b with
    | some c, none => some (c, h)
    | some c, some (d, k) => if c < d then some (c, h) else some (d, k)
    | none, b => b) none).map (·.2)

/-- The set is uncertain (R241). -/
def uncertain (s : State) (x : Nat) : Bool :=
  let g := sliceOf s (setSliceNo x)
  g.uncAll || g.unc.any (· == x)

/-- A set becomes uncertain; a 17th makes every set of the slice so (R241). -/
def makeUncertain (s : State) (x : Nat) : State :=
  let g := setSliceNo x
  let c := sliceOf s g
  if c.unc.any (· == x) then s
  else if 16 ≤ c.unc.length then setSlice s g { c with uncAll := true }
  else setSlice s g { c with unc := c.unc ++ [x] }

/-- The enabled VCSs whose host is an agent of a domain with a region on the chip (R240). -/
def agentVcs (s : State) : List Nat :=
  let doms := (listed s 0x20).filterMap fun r => if rstate (tabVal s 0x20 r) = 0 then none else some (tabFld s 0x20 r 57 4)
  (enabledVcs s).filter fun v =>
    (List.range 64).any fun c => tabFld s 0x22 c 0 2 != 0 && tabFld s 0x22 c 4 2 == 0 && tabFld s 0x22 c 9 7 == tabFld s 0x10 v 0 7 &&
      doms.any fun d => (tabVal s 0x21 d).getLsbD (64 + c)

/-- An uncorrectable error in the identity half of backing way h (R240): quarantined, its set uncertain. -/
def entryUe (s : State) (x h : Nat) : State :=
  let g := setSliceNo x
  let s := makeUncertain (setBack s x h { st := 15 }) x
  internalUe (raiseEvent (count s (sliceCtr g 13) 1) 0x305 g [x]) (agentVcs s)

/-- An uncorrectable error in the sharers half (R240). -/
def sharersUe (s : State) (x h : Nat) : State :=
  let e := backOf s x h
  let sh := if e.st = 1 ∨ e.st = 4 then BitVec.ofNat 64 (tabFld s 0x21 e.domain 64 64) else 0
  raiseEvent (count (setBack s x h { e with sharers := sh }) (sliceCtr (setSliceNo x) 13) 1) 0x304 (setSliceNo x) [x]

/-- What a read of a backing set finds in its memory (R239, R240): ways bound on die keep their on-die copies. -/
def setErrors (s : State) (x : Nat) (b : BackRead) : State :=
  (List.range 8).foldl (fun s h =>
    let s := if b.corr.getLsbD h then count s (sliceCtr (setSliceNo x) 12) 1 else s
    if (boundDie s x h).isSome then s
    else if b.hbm ∨ b.lo.getLsbD h then entryUe s x h
    else if b.hi.getLsbD h then sharersUe s x h else s) s

/-- Removing a line's entry: from the die, and state I in its backing way (R230). -/
def removeEnt (s : State) (n : Nat) : State :=
  let v := wayOfNo s n
  let s := setBack s (setOfWay n v.sext) v.hway {}
  count (setWay s n { v with valid := false, modified := false, ent := {}, sext := 0, hway := 0 }) (sliceCtr (n / 65536) 5) 1

/-- Binding a line's backing entry to an on-die way (R233). -/
def bindDie (s : State) (k h : Nat) : Option (Nat × State) :=
  match takeDie s (keySet k) with
  | some (n, s) =>
    some (n, touchWay (setWay s n { ent := { backOf s (keySet k) h with opn := 0 }, sext := keySet k / 2 ^ 16, hway := h, valid := true }) n)
  | none => none

/-- A new entry for a line in state I (R233): on-die and backing ways; none where one of the two cannot be had now. -/
def newEnt (s : State) (k : Nat) : Option (Nat × State) :=
  match freeBack s (keySet k), takeDie s (keySet k) with
  | some h, some (n, s) =>
    let e : DirEnt := { tag := keyTag k, domain := tabFld s 0x20 (keyRegion k) 57 4 }
    some (n, count (touchWay (setWay s n { ent := e, sext := keySet k / 2 ^ 16, hway := h, modified := true, valid := true }) n)
      (sliceCtr (setSliceNo (keySet k)) 3) 1)
  | _, _ => none

/-- Every directory entry of a slice: on die and in the backing sets, as keys. -/
def sliceKeys (s : State) (g : Nat) : List Nat :=
  let die := (s.ways.filter fun e => e.1 / 65536 == g && e.2.valid && !e.2.quar).map fun e => keyBack e.2.ent.tag (setOfWay e.1 e.2.sext)
  let back := (s.backing.filter fun e => setSliceNo (e.1 / 8) == g && e.2.st != 0 && e.2.st != 15 && (boundDie s (e.1 / 8) (e.1 % 8)).isNone).map
    fun e => keyBack e.2.tag (e.1 / 8)
  die ++ back

end Sys2Proof.Machine
end

