-- ==== Sys2Proof/Machine/Coherence.lean ====
section
/-! DEFINITION. The fabric coherence protocol (R204-R226): the home's actions, snoops, closures, forwarding, losses and walks. -/
namespace Sys2Proof.Machine

/-! Agents. -/

/-- ASTATE of an agent. -/
def astate (s : State) (c : Nat) : Nat := tabFld s 0x22 c 0 2
/-- The lost agents. -/
def lostAgents (s : State) : List Nat := (listed s 0x22).filter fun c => astate s c == 2

/-- Bit n of an agent vector cleared. -/
def clearBit (v : BitVec 64) (c : Nat) : BitVec 64 := v &&& ~~~(BitVec.ofNat 64 (2 ^ c))
/-- Bit n set. -/
def setBit (v : BitVec 64) (c : Nat) : BitVec 64 := v ||| BitVec.ofNat 64 (2 ^ c)

/-- R224: a line owned by a lost agent becomes LOST, or I where the grant closed undelivered or is still open. -/
def ownerGone (x : Slice) (k : Nat) (e : DirEnt) : DirEnt :=
  if x.voids.any (· == k) ∨ x.opens.any (fun o => o.key == k && o.grant && o.agent == some e.owner) then { e with st := 0, owner := 0, sharers := 0 }
  else { e with st := 3 }

/-- R222: a loss applied to an entry as it is read. -/
def applyLoss (s : State) (x : Slice) (k : Nat) (e : DirEnt) : DirEnt :=
  let e := { e with sharers := (lostAgents s).foldl clearBit e.sharers }
  let e := if e.st = 1 ∧ e.sharers = 0 then { e with st := 0 } else e
  if e.st = 2 ∧ astate s e.owner = 2 then ownerGone x k e else e

/-! Memory accesses of a slice (R206, R214): the request itself goes on to the region's DSP, and the answer goes straight to its requester (R30). -/

/-- The port and logical device of a key's region. -/
def regionPort (s : State) (k : Nat) : Nat := tabFld s 0x20 (keyRegion k) 65 7
/-- See regionPort. -/
def regionLd (s : State) (k : Nat) : Nat := tabFld s 0x20 (keyRegion k) 61 4

/-- The request goes to memory as a command of Table 6.4, MetaField and SnpType No-Op, behind what the slice sent there before (R214). The completion
of a writeback that its sender awaits no message of returns to the slice: dirty data that was forwarded, or that came with a device's snoop answer or evict. -/
def toMemory (s : State) (g k i cmd grant : Nat) : State :=
  let t := txnOf s i
  let here := t.cmd == 0x25 && (t.mval / 4 % 2 == 1 || (roleOf s t.ingress != 3 && !(decide (5 ≤ t.kind ∧ t.kind ≤ 8))))
  let n := { t with cmd := cmd, oc := 1, src := sliceEp g, dst := portEp (regionPort s k), addr := keyAddr s k, ld := regionLd s k, mval := 16,
                    reply := false, back := if here then 1 + sliceEp g else 1 + t.src, phase := 1, kind := 0,
                    noData := dropsData t.kind, grant := grant, cut := false, sent := 0, first := 0, count := 0, arrived := 0 }
  lineUp s i { n with cells := txnCells n }

/-- The write that a request asks for: partial or full. -/
def writeCmd (t : Txn) : Nat := if t.cmd = 0x05 then 0x05 else 0x04

/-- An answer from the slice itself: data poisoned, or a completion. -/
def fromSlice (s : State) (g i cmd rstat : Nat) : State :=
  let t := txnOf s i
  setTxn s i { t with cmd := cmd, oc := 2, src := sliceEp g, dst := t.src, reply := true, rstat := rstat, poison := rstat == 4, data := [], phase := 1,
                      first := 0, count := 0, arrived := 0 }

/-! Active transactions of a line. -/

/-- A line's active transaction. -/
def actOf (x : Slice) (k : Nat) : Option Active := x.act.find? fun a => a.key == k
/-- Changing it. -/
def modAct (s : State) (g k : Nat) (f : Active → Active) : State :=
  let x := sliceOf s g
  setSlice s g { x with act := modFirst (fun a => a.key == k) f x.act }
/-- The line's transaction has ended. -/
def endAct (s : State) (g k : Nat) : State :=
  let x := sliceOf s g
  setSlice s g { x with act := x.act.filter fun a => a.key != k }

/-- An agent has an open transaction on a line (R211), other than the one that the snoop is sent for: Table 8.6 snoops the owner that sends MRD_NA, and
every sharer for a sharer's write (log 88). -/
def hasOpen (x : Slice) (k c : Nat) (own : Option Nat) : Bool := x.opens.any fun o => o.key == k && o.agent == some c && own != some o.txn

/-- The unit of SNP_FWD (Table 8.4): requester PID, requester TAG, KIND. -/
def fwdUnit (pid tag kind : Nat) : List Byte := natBytes 64 (pid + tag % 65536 * 2 ^ 16 + kind * 2 ^ 48)

/-- Sending a snoop to an agent, over the ISL of its PID where it lives on another chip (R204, R217). -/
def sendSnoop (s : State) (g k c cmd : Nat) (unit : List Byte) : State :=
  let a := tabVal s 0x22 c
  let remote := fld a 4 2 == 2
  let port := if remote then tabFld s 0x17 (fld a 36 12) 0 7 else fld a 9 7
  newTxn s { cmd := cmd, oc := 3, src := sliceEp g, dst := portEp port, addr := keyAddr s k, reply := true, phase := 1, looked := s.commitNum,
             spid := memberPid s (regionPort s k) (regionLd s k), dpid := fld a 36 12, key := k, data := unit }

/-- Sending the snoops of a line that no open transaction holds back (R211). -/
def sendReady (s : State) (g k : Nat) (unit : List Byte) : State :=
  match actOf (sliceOf s g) k with
  | none => s
  | some a =>
    let ready := a.toSnoop.filter fun c => !(hasOpen (sliceOf s g) k c a.txn)
    let s := ready.foldl (fun s c => sendSnoop s g k c a.snoop unit) s
    modAct s g k fun a => { a with toSnoop := a.toSnoop.filter fun c => !(ready.contains c), awaits := a.awaits ++ ready }

/-- Snoops begin: the line goes transient, its transaction takes a tracker (R209, R213). -/
def startSnoops (s : State) (g k n cmd st : Nat) (cs : List Nat) (unit : List Byte) : State :=
  let s := putEnt s n { (wayOfNo s n).ent with st := st }
  let s := modAct s g k fun a => { a with cmd := match a.txn with | some i => (txnOf s i).cmd | none => 0, req := match a.txn with | some i => agentOfPid s (txnOf s i).spid | none => none, stage := 2, toSnoop := cs, awaits := [], snoop := cmd, tracker := true, wbDue := [], wbGot := [], kept := 0, fwd := false }
  sendReady s g k unit

/-- The requester's agent. -/
def reqAgent (s : State) (i : Nat) : Option Nat := agentOfPid s (txnOf s i).spid

/-- A grant of ownership is recorded with its open transaction (R224). -/
def markGrant (s : State) (g k i : Nat) : State :=
  let x := sliceOf s g
  setSlice s g { x with opens := x.opens.map fun o => if o.key == k && o.txn == i then { o with grant := true } else o,
                        voids := x.voids.filter fun v => v != k }

/-- A request of the recorded owner: its ownership stands as it was granted, anew only where that grant closed undelivered (R224). -/
def regrant (s : State) (g k i : Nat) : State :=
  if (txnOf s i).cmd = 0x02 ∧ (sliceOf s g).voids.any (· == k) then markGrant s g k i else s

/-- The line rests in S with these sharers, or in I with none. -/
def restS (s : State) (n : Nat) (v : BitVec 64) : State :=
  putEnt s n { (wayOfNo s n).ent with st := if v = 0 then 0 else 1, owner := 0, sharers := v }
/-- The line rests in O with its owner. -/
def restO (s : State) (n c : Nat) : State := putEnt s n { (wayOfNo s n).ent with st := 2, owner := c, sharers := 0 }
/-- The line rests in I. -/
def restI (s : State) (n : Nat) : State := putEnt s n { (wayOfNo s n).ent with st := 0, owner := 0, sharers := 0 }

/-- An agent as a vector. -/
def only (c : Option Nat) : BitVec 64 := match c with | some c => BitVec.ofNat 64 (2 ^ c) | none => 0

/-- An on-die entry takes a value; one that does not change stays current. -/
def changeEnt (s : State) (n : Nat) (e : DirEnt) : State := if e = (wayOfNo s n).ent then s else putEnt s n e

/-- A loss applied to the on-die entry that is read (R222). -/
def readEnt (s : State) (g k n : Nat) : State := changeEnt s n (applyLoss s (sliceOf s g) k (wayOfNo s n).ent)

/-- A closed line in state I with nothing open leaves the die (R230). -/
def settleEnt (s : State) (g k n : Nat) : State :=
  let e := (wayOfNo s n).ent
  if e.st = 0 ∧ e.opn = 0 ∧ (actOf (sliceOf s g) k).isNone then removeEnt s n else s

/-- A loss applied to backing way h of a set that is read, or to its on-die copy while bound (R222). -/
def readWay (s : State) (x h : Nat) : State :=
  let g := setSliceNo x
  match boundDie s x h with
  | some n =>
    let k := keyBack (wayOfNo s n).ent.tag x
    if (wayOfNo s n).quar then s else settleEnt (readEnt s g k n) g k n
  | none =>
    let e := backOf s x h
    if e.st = 0 ∨ e.st = 15 then s
    else
      let e := applyLoss s (sliceOf s g) (keyBack e.tag x) e
      setBack s x h (if e.st = 0 then {} else e)

/-- The losses applied to every way of a set that is read. -/
def readSet (s : State) (x : Nat) : State := if (lostAgents s).isEmpty then s else (List.range 8).foldl (fun s h => readWay s x h) s

/-- A request against the stable state of its line (Table 8.6). -/
def homeAct (s : State) (g k n i : Nat) : State :=
  let s := readEnt s g k n
  let e := (wayOfNo s n).ent
  let t := txnOf s i
  let r := reqAgent s i
  let wr := t.cmd == 0x04 || t.cmd == 0x05 || t.cmd == 0x25
  let fin := fun (s : State) => endAct s g k
  match e.st with
  | 3 =>
    if t.cmd = 0x01 ∨ t.cmd = 0x02 ∨ t.cmd = 0x03 then fin (fromSlice s g i 0x23 4)
    else if t.cmd = 0x05 then fin (toMemory s g k i 0x05 0)
    else fin (toMemory (restI s n) g k i 0x04 0)
  | 1 =>
    let others := (sharerList e.sharers).filter fun c => some c != r
    if t.cmd = 0x01 then fin (toMemory (restS s n (e.sharers ||| only r)) g k i 0x03 1)
    else if t.cmd = 0x03 then fin (toMemory s g k i 0x03 0)
    else if t.cmd = 0x02 then
      if others.isEmpty then fin (toMemory (markGrant (restO s n (r.getD 0)) g k i) g k i 0x03 2) else startSnoops s g k n 0x10 4 others []
    else startSnoops s g k n 0x10 4 (sharerList e.sharers) []
  | 2 =>
    if r = some e.owner ∧ t.cmd ≠ 0x03 then
      if wr then
        let s1 := if t.cmd = 0x25 then (match t.mval / 16 % 4 with | 0 => restI s n | 1 => restS s n (only r) | _ => s) else s
        fin (toMemory s1 g k i (writeCmd t) 0)
      else fin (toMemory (regrant s g k i) g k i 0x03 (if t.cmd = 0x01 then 1 else 2))
    else
      let far := tabFld s 0x22 e.owner 4 2 == 2
      let cmd := if t.cmd = 0x01 then (if far then 0x13 else 0x11) else if t.cmd = 0x02 ∧ far then 0x13 else if t.cmd = 0x03 then 0x12 else 0x10
      startSnoops s g k n cmd 5 [e.owner] (if cmd = 0x13 then fwdUnit t.spid t.tag (if t.cmd = 0x01 then 0 else 1) else [])
  | _ =>
    if t.cmd = 0x01 then fin (toMemory (restS s n (only r)) g k i 0x03 1)
    else if t.cmd = 0x02 then fin (toMemory (markGrant (restO s n (r.getD 0)) g k i) g k i 0x03 2)
    else if t.cmd = 0x03 then fin (toMemory s g k i 0x03 0)
    else fin (toMemory s g k i (writeCmd t) 0)

/-- A request is open from its acceptance (R210). -/
def openReq (s : State) (g k n i : Nat) : State :=
  let t := txnOf s i
  let s := setWay s n { wayOfNo s n with ent := { (wayOfNo s n).ent with opn := (wayOfNo s n).ent.opn + 1 }, modified := true }
  let x := sliceOf s g
  setSlice s g { x with opens := x.opens ++ [{ key := k, txn := i, agent := reqAgent s i, grant := false, spid := t.spid, tag := t.tag, ingress := t.ingress }] }

/-- The slice's 512 trackers are all in use (R209). -/
def trackersFull (x : Slice) : Bool := decide (512 ≤ (x.act.filter (·.tracker)).length)

/-- A request against an entry sends snoops, and so needs a tracker (R209, Table 8.6). -/
def needsSnoops (e : DirEnt) (r : Option Nat) (cmd : Nat) : Bool :=
  match e.st with
  | 1 => if cmd = 0x02 then (sharerList e.sharers).any fun c => some c != r else cmd != 0x01 && cmd != 0x03
  | 2 => !(r == some e.owner && cmd != 0x03)
  | _ => false

/-- A request for a line cannot have the tracker that it needs (R209). -/
def lacksTracker (s : State) (g k i : Nat) (e : DirEnt) : Bool :=
  trackersFull (sliceOf s g) && needsSnoops (applyLoss s (sliceOf s g) k e) (reqAgent s i) (txnOf s i).cmd

/-- The active request of a line goes to the conflict list, ahead of the later ones of its line (R209). -/
def park (s : State) (g k i : Nat) : State :=
  let x := sliceOf s g
  setSlice s g { x with act := x.act.filter fun a => a.key != k, conf := i :: x.conf }

/-- A request whose line has its way: it is opened and acts; where it needs a tracker and none is free, it waits. -/
def proceed (s : State) (g k n i : Nat) : State :=
  if lacksTracker s g k i (wayOfNo s n).ent then park s g k i else homeAct (openReq s g k n i) g k n i

/-- R241: the request's set is uncertain and no way matches: reads poisoned, writes to memory, no entry. -/
def answerUncertain (s : State) (g k i : Nat) : State :=
  let t := txnOf s i
  let s := raiseEvent (count (setTxn s i { t with home := none }) (sliceCtr g 14) 1) 0x306 g []
  let s := endAct s g k
  if t.cmd = 0x01 ∨ t.cmd = 0x02 ∨ t.cmd = 0x03 then fromSlice s g i 0x23 4 else toMemory s g k i (writeCmd t) 0

/-- Joining the set-conflict queue of 64 entries (R237): SCQ_HIGH when the depth reaches SCQ_EVT. A lookup that finds it full waits for a place. -/
def joinScq (s : State) (g k : Nat) : State :=
  let x := sliceOf s g
  if 64 ≤ x.scq.length then modAct s g k fun a => { a with stage := 3 }
  else
  let s := setSlice s g { x with scq := x.scq ++ [k], act := modFirst (fun a => a.key == k) (fun a => { a with stage := 1 }) x.act }
  let lim := tabFld s 0x24 g 9 7
  if lim ≠ 0 ∧ x.scq.length + 1 = lim then raiseEvent s 0x303 g [keySet k] else s

/-- Evicting the backing victim of a set (R236): its entry is brought on die, pinned, and its holders are back-invalidated. -/
def startEviction (s : State) (x : Nat) : State :=
  let g := setSliceNo x
  match victimWay s x with
  | none => s
  | some h =>
    let e := judged s x h
    let k := keyBack e.tag x
    if trackersFull (sliceOf s g) then s
    else
      let got := match boundDie s x h with | some n => some (n, s) | none => bindDie s k h
      match got with
      | none => s
      | some (n, s) =>
        let sl := sliceOf s g
        let s := setSlice s g { sl with act := sl.act ++ [{ key := k, txn := none, goal := 1, tracker := true }] }
        let s := setWay s n { wayOfNo s n with ent := { (wayOfNo s n).ent with opn := (wayOfNo s n).ent.opn + 1 } }
        let cs := if e.st = 2 then [e.owner] else sharerList e.sharers
        let s := count (count s (sliceCtr g (if e.st = 2 then 7 else 6)) 1) (sliceCtr g 8) cs.length
        startSnoops s g k n 0x10 (if e.st = 2 then 5 else 4) cs []

/-- An older request of the same set waits for a way, which it takes first (R236, R237). -/
def olderWaits (s : State) (g k : Nat) : Bool := (sliceOf s g).scq.any fun j => keySet j == keySet k

/-- A request waits for a way (R237); a free backing way that only lacks a way on die is not evicted for (R234, R235). -/
def waitForWay (s : State) (g k : Nat) : State :=
  let s := joinScq s g k
  if (freeBack s (keySet k)).isSome then s else startEviction s (keySet k)

/-- The lookup of R233 once the backing set is read, with the losses applied (R222): the on-die copy, UNCERTAIN, or a new entry; where no way can be had,
or an older request waits for one, the set-conflict queue. A request that leaves that queue, first, waits for none. -/
def lookupSet (s : State) (g k i : Nat) (first : Bool) : State :=
  let s := readSet s (keySet k)
  match findDie s k with
  | some n => proceed (touchWay s n) g k n i
  | none =>
    match findBack s k with
    | some h =>
      match (if !first && olderWaits s g k then none else bindDie s k h) with
      | some (n, s) => proceed s g k n i
      | none => joinScq s g k
    | none =>
      if uncertain s (keySet k) then answerUncertain s g k i
      else match (if !first && olderWaits s g k then none else newEnt s k) with
        | some (n, s) => proceed s g k n i
        | none => waitForWay s g k

/-! Errors of the on-die ways that a lookup reads (R239, R240). -/

/-- The entry of an on-die way is lost (R240): what is known of its line goes with it; the active request of the line finds its set uncertain. -/
def lostEntry (s : State) (g k : Nat) : State :=
  let x := sliceOf s g
  let s1 := setSlice s g { x with opens := x.opens.filter fun o => o.key != k, voids := x.voids.filter fun v => v != k }
  match actOf x k with
  | none => s1
  | some a => match a.txn with
    | some j => answerUncertain s1 g k j
    | none => endAct s1 g k

/-- An uncorrectable error in the identity half of an on-die way (R240): quarantined, still bound, its set uncertain. -/
def dieLost (s : State) (g n : Nat) : State :=
  let v := wayOfNo s n
  let x := setOfWay n v.sext
  let s1 := makeUncertain (setWay s n { v with quar := true }) x
  let s2 := internalUe (raiseEvent (count s1 (sliceCtr g 13) 1) 0x305 g [x]) (agentVcs s1)
  lostEntry s2 g (keyBack v.ent.tag x)

/-- An uncorrectable error in the sharers half of an on-die way (R240). -/
def dieSharers (s : State) (g n : Nat) : State :=
  let e := (wayOfNo s n).ent
  let sh := if e.st = 1 ∨ e.st = 4 then BitVec.ofNat 64 (tabFld s 0x21 e.domain 64 64) else 0
  raiseEvent (count (putEnt s n { e with sharers := sh }) (sliceCtr g 13) 1) 0x304 g [setOfWay n (wayOfNo s n).sext]

/-- What one way of the set read finds (R239, R240). -/
def dieWay (s : State) (g n : Nat) (lo hi corr : Bool) : State :=
  let s1 := if corr then count s (sliceCtr g 12) 1 else s
  if !(wayOfNo s1 n).valid || (wayOfNo s1 n).quar then s1 else if lo then dieLost s1 g n else if hi then dieSharers s1 g n else s1

/-- What a read of the 16 ways of an on-die set finds. -/
def dieSet (s : State) (g x : Nat) (d : DieRead) : State :=
  (List.range 16).foldl (fun s w => dieWay s g (wayNo (setSliceNo x) (setCset x) w) (d.lo.getLsbD w) (d.hi.getLsbD w) (d.corr.getLsbD w)) s

/-- What the lookup of a line finds in its on-die set. -/
def dieErrors (s : State) (g k : Nat) (d : DieRead) : State := dieSet s g (keySet k) d

/-! Acceptance (R208, R209). -/

/-- A request becomes its line's active transaction and is looked up (R233). -/
def activate (s : State) (g k i : Nat) (d : DieRead) : State :=
  let x := sliceOf s g
  let s := dieErrors (count (setSlice s g { x with act := x.act ++ [{ key := k, txn := some i }] }) (sliceCtr g 0) 1) g k d
  match findDie s k with
  | some n => proceed (touchWay (count s (sliceCtr g 1) 1) n) g k n i
  | none => count s (sliceCtr g 2) 1

/-- The line of a waiting request. -/
def homeLine (s : State) (i : Nat) : Option Nat := (txnOf s i).home.map (·.2)

/-- A new request for a line must wait (R209, R210): the line is active, its open count is full, or an older request of the line waits. -/
def mustWait (s : State) (g k : Nat) : Bool :=
  let x := sliceOf s g
  (actOf x k).isSome || decide (255 ≤ (entryOf s k).opn) || x.conf.any fun j => homeLine s j == some k

/-- A request that a slice takes: it becomes the line's active transaction, or waits in the conflict list (R208, R209). -/
def takeRequest (s : State) (g i : Nat) (d : DieRead) : State :=
  match homeLine s i with
  | none => s
  | some k =>
    if mustWait s g k then setSlice s g { sliceOf s g with conf := (sliceOf s g).conf ++ [i] } else activate s g k i d

/-- The oldest waiting request of a slice, when it is of a command; must-sink commands go first (R208). -/
def acceptReq (s : State) (g cmd : Nat) (d : DieRead) : State :=
  let x := sliceOf s g
  match x.inq with
  | i :: rest =>
    if fabricRuns s ∧ (txnOf s i).cmd = cmd ∧ x.ready ∧ x.sink.isEmpty ∧ x.conf.length < 256 ∧ x.scq.length < 64 then takeRequest (setSlice s g { x with inq := rest }) g i d else s
  | [] => s

/-- MRD (Table 8.6). -/
def execMrd (g : SliceId) (d : DieRead) (s : State) : Res := .next (acceptReq s g 0x01 d)
/-- MRD_OWN. -/
def execMrdOwn (g : SliceId) (d : DieRead) (s : State) : Res := .next (acceptReq s g 0x02 d)
/-- MRD_NA. -/
def execMrdNa (g : SliceId) (d : DieRead) (s : State) : Res := .next (acceptReq s g 0x03 d)
/-- MWR. -/
def execMwr (g : SliceId) (d : DieRead) (s : State) : Res := .next (acceptReq s g 0x04 d)
/-- MWR_PTL. -/
def execMwrPtl (g : SliceId) (d : DieRead) (s : State) : Res := .next (acceptReq s g 0x05 d)

/-! The end of a transient state (Table 8.7, R219, R224, R236). -/

/-- What remains of an entry as its eviction, or a walk's transaction on it, closes: a LOST line stays LOST but where its region is released (R225);
the removal of one agent takes that agent's part, anything else the whole. -/
def heldAfter (e : DirEnt) (a : Active) : DirEnt :=
  if e.st = 3 ∧ a.goal ≠ 3 then e
  else if a.goal = 2 ∧ e.st ≠ 5 then
    let v := clearBit e.sharers a.agent
    { e with st := if v = 0 then 0 else 1, sharers := v }
  else { e with st := 0, owner := 0, sharers := 0 }

/-- The line of an eviction, or of a walk, closes (R225, R236). -/
def closeHolding (s : State) (g k n : Nat) (a : Active) : State :=
  let e := heldAfter (wayOfNo s n).ent a
  let s := putEnt (endAct s g k) n { e with opn := e.opn - 1 }
  if e.st = 0 ∧ e.opn ≤ 1 then removeEnt s n else s

/-- The last awaited answer is in: the request goes on. -/
def endTransient (s : State) (g k n : Nat) (a : Active) : State :=
  match a.txn with
  | none => closeHolding s g k n a
  | some i =>
    let e := (wayOfNo s n).ent
    let t := { txnOf s i with cmd := a.cmd }
    let r := a.req
    let fin := fun (s : State) => endAct s g k
    if e.st = 4 then
      if t.cmd = 0x02 then fin (toMemory (markGrant (restO s n (r.getD 0)) g k i) g k i 0x03 2)
      else fin (toMemory (restI s n) g k i (writeCmd t) 0)
    else
      let p := e.owner
      let keptS := if a.kept = 1 then only (some p) else 0
      if a.fwd then
        -- the data went to the requester: on another chip what answers it is that chip's (R218, R219)
        let s := if roleOf s t.ingress = 3 ∧ (txnOf s i).phase = 5 then dropTxn s i else s
        fin (if t.cmd = 0x01 then restS s n (only r ||| keptS) else markGrant (restO s n (r.getD 0)) g k i)
      else if t.cmd = 0x01 then fin (toMemory (restS s n (only r ||| keptS)) g k i 0x03 1)
      else if t.cmd = 0x02 then fin (toMemory (markGrant (restO s n (r.getD 0)) g k i) g k i 0x03 2)
      else if t.cmd = 0x03 then
        fin (toMemory (if a.kept = 2 then restO s n p else restS s n keptS) g k i 0x03 0)
      else fin (toMemory (restI s n) g k i (writeCmd t) 0)

/-- Judging whether a line's transient state has ended. -/
def judgeTransient (s : State) (g k : Nat) : State :=
  match actOf (sliceOf s g) k, findDie s k with
  | some a, some n =>
    if a.stage = 2 ∧ a.awaits.isEmpty ∧ a.toSnoop.isEmpty ∧ a.wbDue.isEmpty then endTransient s g k n a else s
  | _, _ => s

/-- The front must-sink command of a slice, when it is of a command: it leaves the list. -/
def takeSink (s : State) (g cmd : Nat) : Option (Nat × State) :=
  let x := sliceOf s g
  match x.sink with
  | i :: rest => if fabricRuns s ∧ (txnOf s i).cmd = cmd ∧ x.ready then some (i, setSlice s g { x with sink := rest }) else none
  | [] => none

/-- The owner's unsolicited WB (Table 8.6): KEPT I gives I, S gives S{P}, E keeps O. -/
def keptEnt (e : DirEnt) (a : Option Nat) (kept : Nat) : DirEnt :=
  match kept with
  | 0 => { e with st := 0, owner := 0, sharers := 0 }
  | 1 => { e with st := 1, owner := 0, sharers := only a }
  | _ => e

/-- The backing way of a line that an agent owns and that is not on die. -/
def backOwned (s : State) (g k : Nat) (a : Option Nat) : Option Nat :=
  match findBack s k with
  | some h =>
    let e := applyLoss s (sliceOf s g) k (backOf s (keySet k) h)
    if e.st = 2 ∧ a = some e.owner then some h else none
  | none => none

/-- A WB that finds its line on die (Table 8.6, Table 8.7): from the owner it ends or advances the line's state, from any other agent it is a write. -/
def wbOnDie (s : State) (g k n i : Nat) : State :=
  let t := txnOf s i
  let a := agentOfPid s t.spid
  let e := (wayOfNo s n).ent
  let act := actOf (sliceOf s g) k
  let mine := a == some e.owner && a.isSome
  if e.st = 2 ∧ mine ∧ act.isNone then
    let s1 := toMemory (changeEnt s n (keptEnt e a (t.mval / 16 % 4))) g k i 0x04 0
    let e1 := (wayOfNo s1 n).ent
    if e1.st = 0 ∧ e1.opn = 0 then removeEnt s1 n else s1
  else if (e.st = 5 ∨ e.st = 4) ∧ act.isSome ∧ (mine || (match act, a with | some v, some c => v.awaits.contains c | _, _ => false)) then
    let c := a.getD 0
    let s1 := modAct s g k fun v =>
      if t.mval / 4 % 2 = 1 then { v with fwd := true, kept := t.mval / 16 % 4, awaits := v.awaits.filter (· != c), wbDue := v.wbDue.filter (· != c) }
      else { v with wbGot := v.wbGot ++ [c], wbDue := v.wbDue.filter (· != c) }
    judgeTransient (toMemory s1 g k i 0x04 0) g k
  else takeRequest (setTxn s i { t with home := some (g, k) }) g i {}

/-- WB (R215, R219): a must-sink command, written on arrival; one that finds its owned line in the backing directory moves it there. -/
def execWb (g : SliceId) (d : DieRead) (b : BackRead) (s : State) : Res :=
  match takeSink s g 0x25 with
  | none => .next s
  | some (i, s) =>
    let t := txnOf s i
    let a := agentOfPid s t.spid
    let s := dieErrors s g t.key d
    match findDie s t.key with
    | some n => .next (wbOnDie (readEnt s g t.key n) g t.key n i)
    | none =>
      let s := setErrors s (keySet t.key) b
      match backOwned s g t.key a with
      | some h => .next (toMemory (setBack s (keySet t.key) h (let e := keptEnt (backOf s (keySet t.key) h) a (t.mval / 16 % 4); if e.st = 0 then {} else e)) g t.key i 0x04 0)
      | none => .next (takeRequest (setTxn s i { t with home := some (g.val, t.key) }) g i {})

/-- An agent's answer to the snoop of a line (R215, R224): its state, and whether a WB goes with it. -/
def snoopAnswer (s : State) (g k c st : Nat) (wbf : Bool) : State :=
  let s := modAct s g k fun v =>
    if v.awaits.contains c then
      { v with awaits := v.awaits.filter (· != c), kept := st, wbDue := if wbf ∧ !(v.wbGot.contains c) then v.wbDue ++ [c] else v.wbDue } else v
  judgeTransient s g k

/-- SNP_RSP (R215). -/
def execSnpRsp (g : SliceId) (d : DieRead) (s : State) : Res :=
  match takeSink s g 0x22 with
  | none => .next s
  | some (i, s) =>
    let t := txnOf s i
    let k := t.key
    let s := dieErrors s g k d
    match agentOfPid s t.spid with
    | some c => .next (snoopAnswer (dropTxn s i) g k c (t.mval / 16 % 4) (t.mval / 8 % 2 == 1))
    | none => .next (dropTxn s i)

/-- ERR (R224): counts as state I and no data; a line that the lost agent owned becomes LOST or I, and its transaction goes on from there. -/
def execErr (g : SliceId) (d : DieRead) (s : State) : Res :=
  match takeSink s g 0x21 with
  | none => .next s
  | some (i, s) =>
    let t := txnOf s i
    let k := t.key
    let s := dieErrors s g k d
    match agentOfPid s t.dpid, findDie s k, actOf (sliceOf s g) k with
    | some c, some n, some a =>
      let s1 := dropTxn s i
      let e := (wayOfNo s1 n).ent
      if e.st = 5 ∧ e.owner = c ∧ astate s1 c = 2 then
        let s2 := putEnt s1 n (ownerGone (sliceOf s1 g) k e)
        match a.txn with
        | some j => .next (homeAct s2 g k n j)
        | none => .next (closeHolding s2 g k n a)
      else .next (snoopAnswer s1 g k c 0 false)
    | _, _, _ => .next (dropTxn s i)

/-- DONE (R210, R211, R230): the closure of an open transaction; one that finds no entry is discarded and counted. -/
def execDone (g : SliceId) (d : DieRead) (s : State) : Res :=
  match takeSink s g 0x27 with
  | none => .next s
  | some (i, s) =>
    let t := txnOf s i
    let k := t.key
    let s := dieErrors (dropTxn s i) g k d
    let x := sliceOf s g
    let isIt := fun (o : OpenTx) => o.key == k && o.tag == t.tag && o.spid == t.spid && o.ingress == t.ingress
    match findDie s k, takeFirst isIt x.opens with
    | some n, some (o, rest) =>
      let s1 := setSlice s g { x with opens := rest, voids := if t.rstat = 1 ∧ o.grant then x.voids ++ [k] else x.voids }
      let s2 := setWay s1 n { wayOfNo s1 n with ent := { (wayOfNo s1 n).ent with opn := (wayOfNo s1 n).ent.opn - 1 }, modified := true }
      let unit := match actOf (sliceOf s2 g) k with
        | some a => if a.snoop = 0x13 then (match a.txn with
            | some j => fwdUnit (txnOf s2 j).spid (txnOf s2 j).tag (if a.cmd = 0x01 then 0 else 1) | none => []) else []
        | none => []
      .next (settleEnt (sendReady s2 g k unit) g k n)
    | _, _ => .next (count s (sliceCtr g 15) 1)

/-- A waiting request may become active (R209, R210): it is the oldest of its line, the line is free, and a tracker is free if it needs one. -/
def mayActivate (s : State) (g i : Nat) : Bool :=
  let x := sliceOf s g
  match homeLine s i with
  | some k => x.conf.find? (fun j => homeLine s j == some k) == some i && (actOf x k).isNone && decide ((entryOf s k).opn < 255) && !(lacksTracker s g k i (entryOf s k))
  | none => false

/-- CONFLICT_LIST_ACTIVATE (R209): the oldest waiting request whose line is free. -/
def execConflictListActivate (g : SliceId) (d : DieRead) (s : State) : Res :=
  match takeFirst (mayActivate s g) (sliceOf s g).conf with
  | some (i, rest) =>
    match homeLine s i with
    | some k => .next (activate (setSlice s g { sliceOf s g with conf := rest }) g k i d)
    | none => .next s
  | none => .next s

/-- BACKING_READ_RETURN (R233, R240): the oldest lookup that waits for its backing set. -/
def execBackingReadReturn (g : SliceId) (b : BackRead) (s : State) : Res :=
  match (sliceOf s g).act.find? fun a => a.stage == 0 && (match a.txn with | some _ => true | none => false) with
  | some a =>
    match a.txn with
    | some i => .next (lookupSet (setErrors s (keySet a.key) b) g a.key i false)
    | none => .next s
  | none => .next s

/-- A way of its set can be had for a waiting line now. -/
def canTake (s : State) (k : Nat) : Bool :=
  (findDie s k).isSome || ((takeDie s (keySet k)).isSome && ((findBack s k).isSome || (freeBack s (keySet k)).isSome))

/-- The oldest waiting request of its set: entries of one set leave in the order of arrival (R237). -/
def oldestOfSet (x : Slice) (k : Nat) : Bool := x.scq.find? (fun j => keySet j == keySet k) == some k

/-- A lookup that found the set-conflict queue full takes the place that is free now. -/
def fillScq (s : State) (g : Nat) : State :=
  match (sliceOf s g).act.find? fun a => a.stage == 3 with
  | some a => if (sliceOf s g).scq.length < 64 then joinScq s g a.key else s
  | none => s

/-- The oldest request of a set that lacks a backing way, and for which no eviction runs: it is judged again (R244, Table 9.7). -/
def lacksVictim (s : State) (x : Slice) (k : Nat) : Bool :=
  oldestOfSet x k && (findDie s k).isNone && (findBack s k).isNone && (freeBack s (keySet k)).isNone &&
    !(x.act.any fun a => a.goal == 1 && keySet a.key == keySet k)

/-- SET_CONFLICT_RELEASE (R237): the oldest request of a set leaves as soon as its set has a way; where its set has none to evict yet, it is judged again. -/
def execSetConflictRelease (g : SliceId) (s : State) : Res :=
  let x := sliceOf s g
  match takeFirst (fun k => oldestOfSet x k && canTake s k) x.scq with
  | some (k, rest) =>
    let s1 := setSlice s g { x with scq := rest }
    match actOf x k with
    | some a => .next (match a.txn with | some i => fillScq (lookupSet s1 g k i true) g | none => fillScq s1 g)
    | none => .next (fillScq s1 g)
  | none =>
    match x.scq.find? (lacksVictim s x) with
    | some k => .next (startEviction (readSet s (keySet k)) (keySet k))
    | none => .next s

/-- Set number n of a slice's patrol: its own sets in rising order of the bits that do not choose the slice. -/
def patrolSet (g n : Nat) : Nat := n / 16 % 2 ^ 20 * 2 ^ 8 + nbits g 1 2 * 2 ^ 6 + g / 8 * 2 ^ 5 + g % 2 * 2 ^ 4 + n % 16

/-- PATROL_READ (R239): the next backing set of the slice, each of its 2^24 sets once in PATROL_H hours; PATROL_H 0 is no patrol. -/
def execPatrolRead (g : SliceId) (b : BackRead) (s : State) : Res :=
  let x := sliceOf s g
  let h := tabFld s 0x24 g 16 8
  if h = 0 ∨ !x.ready ∨ s.clock < x.patrolAt + h * 3600000000000 / 2 ^ 24 then .next s
  else .next (setErrors (setSlice s g { x with patrol := (x.patrol + 1) % 2 ^ 24, patrolAt := s.clock }) (patrolSet g x.patrol) b)

/-! Messages at the edge (R204, R205). -/

/-- BICONFLICT (R205): BIConflictAck, after every response already sent. -/
def execBiConflict (p : PortId) (addr : BitVec 64) (tag : BitVec 16) (s : State) : Res := .next (emit s (.port p 0x300 0 addr.toNat tag.toNat []))

/-- MEMINV (R204): MRD_OWN with MetaValue A, MRD_NA otherwise; the port drops the data. -/
def execMemInv (p : PortId) (own : Bool) (m : Msg) (s : State) : Res :=
  let m := { m with kind := .memInv own }
  if !(portExists s p) ∨ roleOf s p = 0 then .next s
  else .next (lookupOutcome (countPort (count s (tileCtr (p.val / 8) 25) 1) p false 1 0) p m (lookupTarget s p m))

/-- CLEANEVICT (R204, R212): GO-WritePull-Drop, or GO-I where no data came. -/
def execCleanEvict (p : PortId) (tag : BitVec 16) (data : Bool) (s : State) : Res :=
  .next (emit s (.port p 0x301 (if data then 1 else 0) 0 tag.toNat []))

/-- D2H_UNSUPPORTED (R204): GO-Err and an event of class 6. -/
def execD2hUnsupported (p : PortId) (tag : BitVec 16) (s : State) : Res :=
  .next (raiseEvent (emit s (.port p 0x302 7 0 tag.toNat [])) 0x307 p [])

/-! Forwarding across an Atlas (R217-R220). -/

/-- SNP_FWD (R218): the owner's port sends BISnpData or BISnpInv and waits as the forwarding proxy. -/
def execSnpFwd (p : PortId) (s : State) : Res :=
  match (txnsWhere s fun t => t.phase == 4 && t.cmd == 0x13 && t.dst == portEp p).head? with
  | none => .next s
  | some i =>
    let t := txnOf s i
    let kind := leAt t.data 6 1 % 2
    let f : Fwd := { port := p, line := t.addr, kind := kind, reqPid := leAt t.data 0 2 % 4096, reqTag := leAt t.data 2 2, homePid := t.spid }
    .next (emit { dropTxn s i with fwds := s.fwds ++ [f] } (.port p (if kind = 0 then 0x111 else 0x110) 0 t.addr t.tag []))

/-- A transaction from a forwarding proxy toward a PID. -/
def toPid (s : State) (p pid cmd mval addr tag : Nat) (data : List Byte) : State :=
  match routePid s 96 pid addr with
  | .port q _ a => newTxn s { cmd := cmd, oc := 2, src := portEp p, dst := portEp q, addr := a, mval := mval, tag := tag, reply := true, phase := 1,
                              looked := s.commitNum, spid := portPid s p, dpid := pid, ingress := p, data := data, len := data.length }
  | .home g key _ _ a => newTxn s { cmd := cmd, oc := 2, src := portEp p, dst := sliceEp g, addr := a, mval := mval, tag := tag, reply := true, phase := 1,
                                    looked := s.commitNum, spid := portPid s p, dpid := pid, ingress := p, data := data, key := key, len := data.length }
  | _ => count s (portCtr p 16) 1

/-- Owner data reaches a requester on this chip (R218, R220), whose request is at its home here or went to another chip: delivered as DATA, with the state
that the request asked for (Table 8.3). -/
def deliverFwd (s : State) (pid tag : Nat) (data : List Byte) : State :=
  match (txnsWhere s fun t => (t.phase == 3 || t.phase == 5) && (t.cmd == 0x01 || t.cmd == 0x02) && t.spid == pid && t.tag == tag).head? with
  | some i =>
    let c := (txnOf s i).cmd
    let s := answer s i 0x23 0 false data
    setTxn s i { txnOf s i with grant := c }
  | none => s

/-- PROXY_SNOOP_ANSWER (R218): dirty data goes to the requester and to the home in one cycle; otherwise only the owner's state to the home. -/
def execProxySnoopAnswer (p : PortId) (addr : BitVec 64) (kept : Fin 3) (dirty : Option (List Byte)) (s : State) : Res :=
  match takeFirst (fun f : Fwd => f.port == p.val && f.line == addr.toNat) s.fwds with
  | none => .next s
  | some (f, rest) =>
    let s := { s with fwds := rest }
    match dirty with
    | some d =>
      let local? := tabFld s 0x17 f.reqPid 12 3 == 1
      let s1 := if local? then deliverFwd s f.reqPid f.reqTag d else toPid s p f.reqPid 0x24 0 f.line f.reqTag d
      .next (toPid s1 p f.homePid 0x25 (kept.val * 16 + 8 + 4) f.line f.reqTag d)
    | none => .next (toPid s p f.homePid 0x22 (kept.val * 16) f.line f.reqTag [])

/-- DATA_FWD (R218): the requester's chip delivers it as DATA; the CLOSE follows when the data leaves (R210). -/
def execDataFwd (p : PortId) (pid : BitVec 12) (tag : BitVec 16) (data : List Byte) (s : State) : Res :=
  .next (deliverFwd (countPort s p false 2 data.length) pid.toNat tag.toNat data)

/-! Walks (R222, R225). -/

/-- What a walk must still do to an entry: an agent removal finds its agent, a region release finds an entry of the region. -/
def walkFinds (w : Walk) (k : Nat) (e : DirEnt) : Bool :=
  match w.kind with
  | 0 => e.sharers.getLsbD w.obj || (e.st == 2 && e.owner == w.obj)
  | 1 => e.sharers.getLsbD w.obj || (e.st == 2 && e.owner == w.obj)
  | _ => keyRegion k == w.obj

/-- A walk at one line (R222, R225): a loss is applied; a removal or a release back-invalidates the holders, or drops an entry that has none. -/
def walkLine (s : State) (w : Walk) (g k : Nat) : State :=
  if !(walkFinds w k (entryOf s k)) ∨ (w.kind ≠ 0 ∧ (actOf (sliceOf s g) k).isSome) then s
  else if w.kind = 0 then
    match findDie s k with
    | some n => settleEnt (readEnt s g k n) g k n
    | none => match findBack s k with
      | some h =>
        let e := applyLoss s (sliceOf s g) k (backOf s (keySet k) h)
        setBack s (keySet k) h (if e.st = 0 then {} else e)
      | none => s
  else
    let got := match findDie s k with
      | some n => some (n, s)
      | none => match findBack s k with | some h => bindDie s k h | none => none
    match got with
    | none => s
    | some (n, s) =>
      let e := (wayOfNo s n).ent
      let cs := if w.kind = 1 then [w.obj] else if e.st = 2 then [e.owner] else if e.st = 1 then sharerList e.sharers else []
      if e.opn ≠ 0 then s
      else if cs.isEmpty then removeEnt s n
      else if trackersFull (sliceOf s g) then s
      else
        let x := sliceOf s g
        let s := setSlice s g { x with act := x.act ++ [{ key := k, txn := none, goal := if w.kind = 1 then 2 else 3, agent := w.obj, tracker := true }] }
        let s := setWay s n { wayOfNo s n with ent := { e with opn := e.opn + 1 } }
        startSnoops s g k n 0x10 (if e.st = 2 then 5 else 4) cs []

/-- A slice has nothing left for a walk. -/
def walkClear (s : State) (w : Walk) (g : Nat) : Bool :=
  !((sliceKeys s g).any fun k => walkFinds w k (entryOf s k)) && !((sliceOf s g).act.any fun a => a.txn.isNone && a.goal != 0)

/-- What a walk finds as it reads the sets of a slice (R239, R240). -/
def walkErrors (s : State) (g : Nat) (errs : List SetRead) : State :=
  errs.foldl (fun s r => if setSliceNo r.x.toNat = g then setErrors (dieSet s g r.x.toNat r.die) r.x.toNat r.back else s) s

/-- LOSS_WALK (R222): the oldest walk that has not finished a slice visits every entry of it. -/
def execLossWalk (g : SliceId) (errs : List SetRead) (s : State) : Res :=
  match s.walks.find? fun w => w.slices / 2 ^ g.val % 2 == 0 with
  | none => .next s
  | some w =>
    let s := walkErrors s g errs
    let s1 := (sliceKeys s g).foldl (fun s k => walkLine s w g k) s
    .next (if walkClear s1 w g then { s1 with walks := modFirst (fun v => v == w) (fun v => { v with slices := v.slices + 2 ^ g.val }) s1.walks } else s1)

/-- DIRECTORY_CLEAR_DONE (R243): the slices accept requests. -/
def execDirectoryClearDone (s : State) : Res :=
  if s.boot.hbm ∧ !s.boot.dirClear then
    .next { (List.range 16).foldl (fun s g => setSlice s g { sliceOf s g with ready := true }) s with
            backing := [], ways := [], plru := [], boot := { s.boot with dirClear := true } }
  else .next s

end Sys2Proof.Machine
end

