-- ==== Sys2Proof/Machine/Loss.lean ====
section
/-! DEFINITION. Device updates, lane status, and what the loss or containment of a port does (R62-R66, R72, R75, R123, R191, R221-R223, R258). -/
namespace Sys2Proof.Machine

/-! Device updates (R258). -/

/-- The last number was taken by a device update of this same instant. -/
def updatedNow (s : State) : Bool := s.updated == some (s.clock, s.commitNum)

/-- The entries that the device itself writes: they take the next commit number, are digested and counted. The updates of one instant share one
number, one digest and one count. -/
def deviceUpdate (s : State) (ws : List (Nat × Nat × Entry)) : State :=
  if ws.isEmpty then s
  else if updatedNow s then
    let k := s.commitNum
    let s := ws.foldl (fun s w => setTab s w.1 w.2.1 w.2.2 k) s
    { s with mer := { s.mer with reports := s.mer.reports.map fun r => if r.k = k then { r with entries := r.entries ++ ws } else r } }
  else
    let k := s.commitNum + 1
    let s := ws.foldl (fun s w => setTab s w.1 w.2.1 w.2.2 k) { s with commitNum := k, updated := some (s.clock, k) }
    count { s with mer := { s.mer with reports := s.mer.reports ++ [⟨k, ws, s.clock + 2000⟩] } } (devCtr 3) 1

/-! Lane status (Table 3.3). -/

/-- A bit of a lane's status. -/
def laneBit (s : State) (l b : Nat) : Bool := tabFld s 0x04 l b 1 == 1
/-- Setting a bit of a lane's status. -/
def setLaneBit (s : State) (b : Nat) (v : Bool) (l : Nat) : State := setLive s 0x04 l b 1 (if v then 1 else 0)
/-- Setting a bit on a list of lanes. -/
def setLanesBit (s : State) (ls : List Nat) (b : Nat) (v : Bool) : State := ls.foldl (fun s l => setLaneBit s b v l) s
/-- CDR_LOCK on every lane of a port. -/
def cdrAll (s : State) (p : Nat) : Bool := (portLanes s p).all fun l => laneBit s l 2
/-- PLL_LOCK on every lane of a port. -/
def pllAll (s : State) (p : Nat) : Bool := (portLanes s p).all fun l => laneBit s l 1
/-- Every lane holds a stored boundary that may be used: ALIGN_VALID = 1 and OFS_STALE = 0 (Table 4.7). -/
def boundsGood (s : State) (p : Nat) : Bool := (portLanes s p).all fun l => tabFld s 0x03 l 51 1 == 1 && !(laneBit s l 4)

/-- RX_ADAPT takes effect at the entry to L0 or the opening of a session (R70). -/
def adaptNow (s : State) (p : Nat) : State := (portLanes s p).foldl (fun s l => setLane s l { laneOf s l with adapt := tabFld s 0x03 l 43 2 }) s

/-- Time in low power is counted when it ends (LOWPWR_US). -/
def lowEnd (s : State) (p : Nat) : State :=
  let a := smGet 0 s.lowSince p
  if a = 0 then s else count { s with lowSince := smSet 0 s.lowSince p 0 } (portCtr p 19) ((s.clock + 1 - a) / 1000)
/-- Time in low power begins. -/
def lowBegin (s : State) (p : Nat) : State := if smGet 0 s.lowSince p = 0 then { s with lowSince := smSet 0 s.lowSince p (s.clock + 1) } else s

/-! Agents (R221-R223). -/

/-- The agents whose loss the loss of a port is: hosts of a USP, Type-2 devices of a DSP, agents on the chips that the PID table reaches by an ISL. -/
def agentsBehind (s : State) (p : Nat) : List Nat :=
  (listed s 0x22).filter fun c =>
    let v := tabVal s 0x22 c
    (fld v 0 2 == 1 || fld v 0 2 == 3) &&
    (match roleOf s p with
     | 1 => fld v 4 2 == 0 && fld v 9 7 == p
     | 2 => fld v 4 2 == 1 && fld v 9 7 == p
     | 3 => fld v 4 2 == 2 && tabFld s 0x17 (fld v 36 12) 12 3 == 3 && tabFld s 0x17 (fld v 36 12) 0 7 == p
     | _ => false)

/-- The ASTATE entries of lost agents. -/
def agentLostEntries (s : State) (cs : List Nat) : List (Nat × Nat × Entry) := cs.map fun c => (0x22, c, setFld (tabVal s 0x22 c) 0 2 2)

/-- A snoop that a lost agent can no longer answer is answered with ERR (R223). -/
def errSnoop (s : State) (p g k c : Nat) : State :=
  newTxn s { cmd := 0x21, oc := 2, src := portEp p, dst := sliceEp g, addr := keyAddr s k, key := k, rstat := 1, reply := true, phase := 1, ingress := p,
             looked := s.commitNum, dpid := tabFld s 0x22 c 36 12 }

/-- A snoop of a line to an agent is still on its way to its port. -/
def snoopInside (s : State) (k c : Nat) : Bool :=
  s.txns.any fun e => decide (0x10 ≤ e.2.cmd ∧ e.2.cmd ≤ 0x13) && e.2.key == k && e.2.dpid == tabFld s 0x22 c 36 12

/-- The awaited snoops of an agent, answered at once when they have left the port. -/
def errAwaited (s : State) (p c : Nat) : State :=
  (List.range 16).foldl (fun s g =>
    ((sliceOf s g).act.filter fun a => a.awaits.contains c).foldl (fun s a => if snoopInside s a.key c then s else errSnoop s p g a.key c) s) s

/-- The forwards that the lost port's agent was asked for are answered with ERR toward their homes (R223). -/
def errFwds (s : State) (p : Nat) : State :=
  (s.fwds.filter fun f => f.port == p).foldl (fun s f =>
    match routePid s 96 f.homePid f.line with
    | .port q _ a => newTxn s { cmd := 0x21, oc := 2, src := portEp p, dst := portEp q, addr := a, rstat := 1, reply := true, phase := 1, ingress := p,
                                looked := s.commitNum, spid := f.homePid, dpid := portPid s p }
    | _ => count s (portCtr p 16) 1) { s with fwds := s.fwds.filter fun f => f.port != p }

/-- The agent's requests leave the conflict lists unanswered (R223). -/
def dropConflicts (s : State) (c : Nat) : State :=
  let pid := tabFld s 0x22 c 36 12
  (List.range 16).foldl (fun s g =>
    let x := sliceOf s g
    let gone := x.conf.filter fun i => (txnOf s i).spid == pid
    if gone.isEmpty then s else gone.foldl dropTxn (setSlice s g { x with conf := x.conf.filter fun i => !(gone.contains i) })) s

/-- Agents are lost: events, walks, answers for their snoops. -/
def loseAgents (s : State) (p : Nat) (cs : List Nat) : State :=
  cs.foldl (fun s c =>
    let s := raiseEvent s 0x301 c []
    dropConflicts (errAwaited { s with walks := s.walks ++ [{ kind := 0, obj := c, started := s.clock }] } p c) c) s

/-! Bindings, extents and pool members (R63, R191, R193). -/

/-- The bindings of a DSP that its loss marks. -/
def bindLostEntries (s : State) (p : Nat) : List (Nat × Nat × Entry) :=
  ((bindingsOf s p).filter fun i => bstate (tabVal s 0x11 i) == 1).map fun i => (0x11, i, setFld (tabVal s 0x11 i) 24 3 2)

/-- The extents over a member that are neither free nor lost. -/
def liveExtentsOf (s : State) (p : Nat) : List Nat :=
  (listed s 0x15).filter fun i => emport (tabVal s 0x15 i) == p && decide (1 ≤ estate (tabVal s 0x15 i) ∧ estate (tabVal s 0x15 i) ≤ 3)

/-- Those extents, lost. -/
def extLostEntries (s : State) (p : Nat) : List (Nat × Nat × Entry) :=
  (liveExtentsOf s p).map fun i => (0x15, i, setFld (tabVal s 0x15 i) 22 3 4)

/-- Registered granules of a member (table 0x19): its key is port × 16 + logical device. -/
def registered (s : State) (m : Nat) : Nat := tabFld s 0x19 m 0 32

/-- The members of a DSP. -/
def membersOf (s : State) (p : Nat) : List Nat := ((List.range 16).map (16 * p + ·)).filter fun m => registered s m != 0

/-- The members of a lost DSP: every granule is LOST (Table 7.8). -/
def loseMembers (s : State) (p : Nat) : State :=
  let ms := membersOf s p
  { s with poolLost := ms.foldl (fun m k => smSet false m k true) s.poolLost
           granules := s.granules.filter fun g => !(ms.contains (g.1 / 2 ^ 28))
           scrubs := s.scrubs.filter fun c => !(ms.contains c.mem)
           offers := smErase s.offers fun i => (liveExtentsOf s p).contains i }

/-! The virtual configuration state of a VCS (R64). -/

/-- The committed decoders of a USP and of its vPPBs, cleared. -/
def decoderResets (s : State) (u : Nat) : List (Nat × Nat × Entry) :=
  let v := (vcsOf s u).getD 64
  (((listed s 0x12).filter fun i => i / 32 == u && tabVal s 0x12 i != 0).map fun i => (0x12, i, (0 : Entry))) ++
  (((listed s 0x13).filter fun i => i / 1024 == v && tabVal s 0x13 i != 0).map fun i => (0x13, i, (0 : Entry)))

/-- The reset propagates to what is bound: a hot reset of each device, a logical device reset of each logical device. -/
def vcsPropagate (s : State) (u : Nat) : State :=
  match vcsOf s u with
  | none => s
  | some v =>
    let s := { s with vcsReset := smMod 0 s.vcsReset v (· + 1),
                      decRegs := smErase s.decRegs fun k => (keyTab k == 0x12 && keyIdx k / 32 == u) || (keyTab k == 0x13 && keyIdx k / 1024 == v),
                      biIds := smErase s.biIds fun k => k == u,
                      bridges := smErase s.bridges fun k => k / 65 == v }
    (List.range 64).foldl (fun s i =>
      let b := tabVal s 0x11 (64 * v + i)
      if bstate b ≠ 1 then s
      else match btype b with
        | 1 => emit s (.link (bport b) 3 0)
        | 2 => emit s (.link (bport b) 10 (bld b))
        | _ => s) s

/-! A port is lost. -/

/-- The ingress of a port is gone (R63, R123, R130, R137): what is being cut through is closed at its egress, and its requests that no packet has left
for are cancelled. -/
def closeIngress (s : State) (p : Nat) : State :=
  let s := (txnsWhere s fun t => t.src == portEp p && t.cut && !t.bad && decide (t.got < t.units) && decide (t.phase ≤ 2)).foldl cancelTxn s
  (txnsWhere s fun t => t.ingress == p && t.src == portEp p && t.parent == 0 && !t.reply && !t.bad && decide (t.phase ≤ 2)).foldl
    (fun s i => if (txnOf s i).phase ≤ 1 ∨ uninjected s i then cancelTxn s i else s) s

/-- A CXL or PCIe link is alive, from which a fall to Detect, Disabled or Hot Reset is a loss (R62). -/
def linkAlive (s : State) (p : Nat) : Bool := decide (0x06 ≤ tabFld s 0x02 p 0 6 ∧ tabFld s 0x02 p 0 6 ≤ 0x0E)

/-- The lanes in use at a reduced L0p width, 0 at full width (R52). -/
def setL0p (s : State) (p n : Nat) : State := setLive { s with l0pWidth := smSet 0 s.l0pWidth p n } 0x02 p 19 1 (if n = 0 then 0 else 1)

/-- The link goes down to an LTSSM code: status bits and what the partner negotiated. -/
def linkDown (s : State) (p code : Nat) : State :=
  let s := setL0p (setLive (setLive (setLive s 0x02 p 0 6 code) 0x02 p 17 1 0) 0x02 p 18 1 0) p 0
  let s := setLanesBit s (portLanes s p) 2 false
  lowEnd { s with macUnits := s.macUnits.filter fun u => u.port != p, ideUp := smSet 0 s.ideUp p 0, cxlCache := smSet false s.cxlCache p false, noCxl := smSet false s.noCxl p false, viral := smSet false s.viral p false, woken := smSet false s.woken p false } p

/-- A snoop. -/
def isSnoop (t : Txn) : Bool := decide (0x10 ≤ t.cmd ∧ t.cmd ≤ 0x13)

/-- A writeback toward a home on another chip, which completes it (Table 8.3); one whose data went to the requester awaits nothing. -/
def awaitsCmp (t : Txn) : Bool := t.cmd == 0x25 && t.mval / 4 % 2 == 0

/-- A transaction that its port answers once the port is lost or contained: a request, a writeback or a snoop, forwarded or held. -/
def lossTakes (p : Nat) (t : Txn) : Bool :=
  t.dst == portEp p && (!t.reply || awaitsCmp t || isSnoop t) && (t.phase == 3 || t.phase == 4)

/-- A request toward a lost port that no packet has left for: cancelled before injection (R137), and answered like those that reached the port. -/
def notSent (s : State) (p i : Nat) : Bool :=
  let t := txnOf s i
  t.dst == portEp p && (!t.reply || awaitsCmp t) && (t.phase == 1 || uninjected s i)

/-- The transactions that a lost or contained port must answer are marked. -/
def markLoss (s : State) (p : Nat) : State :=
  let mark := fun (s : State) i => setTxn s i { txnOf s i with phase := 7 }
  let s := (txnsWhere s (lossTakes p)).foldl mark s
  (s.txns.map (·.1)).foldl (fun s i => if notSent s p i then mark (if (txnOf s i).phase = 2 then skipTxn s i else s) i else s) s

/-- The loss of a CXL or PCIe port (R62-R65, R221): LOST, the lost markings and every device update in one cycle. -/
def losePort (s : State) (p code : Nat) : State :=
  let role := roleOf s p
  let cs := agentsBehind s p
  let ws := (if role = 2 then bindLostEntries s p ++ extLostEntries s p else []) ++ (if role = 1 then decoderResets s p else []) ++ agentLostEntries s cs
  let s := if role = 2 then loseMembers s p else s
  let s := deviceUpdate (setLive (linkDown s p code) 0x02 p 20 1 1) ws
  let s := { s with lostAt := smSet 0 s.lostAt p (s.clock + 1) }
  let s := raiseEvent s 0x081 p [role]
  let s := if role = 2 then raiseEvent s 0x281 p [] else s
  let s := errFwds (loseAgents (markLoss (closeIngress s p) p) p cs) p
  if role = 1 then vcsPropagate s p else s

/-! Synthesised answers (R63, R64, R123). -/

/-- A transaction that waits for its synthesised answer: marked at the containment (phase 7), or come since to a port that is down. -/
def lossWaits (s : State) (p : Nat) (t : Txn) : Bool :=
  (t.phase == 7 && t.dst == portEp p) || (tabFld s 0x02 p 20 1 == 1 && tabFld s 0x02 p 17 1 == 0 && lossTakes p t)

/-- The answer to one of them. -/
def lossAnswer (s : State) (p i : Nat) : State :=
  let t := txnOf s i
  let isl := roleOf s p == 3
  if t.posted then count (dropTxn s i) (portCtr p 15) 1   -- discarded and counted, without an answer
  else if t.kind = 80 then setTxn (count s (portCtr p 17) 1) i { t with phase := 3, rstat := 1 }   -- a chart's read, ended by HOST_READ_RESPONSE
  else
  let s := count s (portCtr p 17) 1
  if 0x10 ≤ t.cmd ∧ t.cmd ≤ 0x13 then
    match epSlice t.src with
    | some g => newTxn (dropTxn s i) { cmd := 0x21, oc := 2, src := portEp p, dst := sliceEp g, addr := t.addr, key := t.key, rstat := 1, reply := true, phase := 1,
                                       ingress := p, looked := s.commitNum, dpid := t.dpid }
    | none => setTxn s i { t with cmd := 0x21, src := t.dst, dst := t.src, reply := true, rstat := 1, phase := 1, data := [], first := 0, count := 0, arrived := 0 }
  else if t.cls = 1 then complete s i p 1 []
  else if t.cls = 3 then answer s i 0x21 1 false []
  else if isRead t then answer s i (respCmd t) 4 true []
  else
    let s := count s (portCtr p 15) 1
    answer (if isl then raiseEvent s 0x104 p [t.addr] else s) i 0x20 0 false []

/-- LOSS_RESPONSE_ISSUE (R63, R64, R123): the oldest waiting one. -/
def execLossResponseIssue (p : PortId) (s : State) : Res :=
  match (txnsWhere s (lossWaits s p)).head? with
  | some i => .next (lossAnswer s p i)
  | none => .next s

end Sys2Proof.Machine
end

