-- ==== Sys2Proof/Machine/Folio.lean ====
section
/-! DEFINITION. The folio and its units: layout, CRC-64, opcodes, building and reading (R90-R99, R115, R117). -/
namespace Sys2Proof.Machine

/-! The CRC of a guarded folio (R95). -/

/-- One bit of the CRC-64 register under polynomial 0x42F0_E1EB_A9EA_3693, most significant bit first. -/
def crcBit (r : Nat) (b : Bool) : Nat :=
  let top := decide (2 ^ 63 ≤ r)
  let x := r * 2 % 2 ^ 64
  if top != b then Nat.xor x 0x42F0E1EBA9EA3693 else x

/-- One byte. -/
def crcByte (r : Nat) (b : Byte) : Nat := (List.range 8).foldl (fun r i => crcBit r (b.getLsbD (7 - i))) r

/-- The CRC-64 over a byte string: from all ones, no final XOR. -/
def crc64 (bs : List Byte) : Nat := bs.foldl crcByte (2 ^ 64 - 1)

/-! Header units (Table 4.5). -/

/-- The fields of a header unit. -/
structure Unit where
  op : Nat
  vc : Nat
  len : Nat
  dpid : Nat
  spid : Nat
  tag : Nat
  caid : Nat := 0
  cd : Nat := 0
  poison : Bool
  bad : Bool
  sub : Nat
  addr : Nat
  deriving DecidableEq, Repr

/-- Reading a header unit. -/
def unitOf (bs : List Byte) : Unit :=
  let v := leAt bs 0 16
  { op := nbits v 120 8, vc := nbits v 117 3, len := nbits v 108 9, dpid := nbits v 96 12, spid := nbits v 84 12, tag := nbits v 68 16,
    caid := nbits v 62 6, cd := nbits v 58 4, poison := nbits v 57 1 == 1, bad := nbits v 56 1 == 1, sub := nbits v 52 4, addr := nbits v 0 52 * 64 }

/-- Writing a header unit. -/
def unitBytes (u : Unit) : List Byte :=
  natBytes 16 (u.op * 2 ^ 120 + u.vc * 2 ^ 117 + u.len * 2 ^ 108 + u.dpid * 2 ^ 96 + u.spid * 2 ^ 84 + u.tag % 65536 * 2 ^ 68 +
    u.caid % 64 * 2 ^ 62 + u.cd % 16 * 2 ^ 58 +
    (if u.poison then 2 ^ 57 else 0) + (if u.bad then 2 ^ 56 else 0) + u.sub % 16 * 2 ^ 52 + u.addr / 64 % 2 ^ 52)

/-- Table 4.6: the VC of an opcode and whether a LEN is in its range. -/
def opInfo (op len : Nat) : Option (Nat × Bool) :=
  if op ∈ [0x10, 0x11, 0x12, 0x15] then some (0, len == 0)
  else if op = 0x13 then some (0, len == 4)
  else if op = 0x14 then some (0, len == 5)
  else if op = 0x16 then some (0, decide (4 ≤ len ∧ len ≤ 256 ∧ len % 4 = 0))
  else if op ∈ [0x20, 0x21, 0x22] then some (1, len == 0)
  else if op = 0x23 then some (1, len == 1)
  else if op ∈ [0x30, 0x31, 0x32] then some (2, len == 0)
  else if op ∈ [0x40, 0x41, 0x42] then some (3, len == 4)
  else if op = 0x43 then some (3, decide (16 ≤ len ∧ len ≤ 256 ∧ len % 16 = 0))
  else if op = 0x50 then some (4, decide (1 ≤ len ∧ len ≤ 260))
  else if op = 0x60 ∨ op = 0x61 then some (5, len == 1)
  else if op = 0x62 then some (5, decide (1 ≤ len ∧ len ≤ 16))
  else none

/-- The opcode of a command of Table 6.4. -/
def opOfCmd (cmd : Nat) : Nat :=
  match cmd with
  | 0x01 => 0x10 | 0x02 => 0x11 | 0x03 => 0x12 | 0x04 => 0x13 | 0x05 => 0x14 | 0x06 => 0x15 | 0x07 => 0x16
  | 0x10 => 0x20 | 0x11 => 0x21 | 0x12 => 0x22 | 0x13 => 0x23
  | 0x20 => 0x30 | 0x21 => 0x31 | 0x22 => 0x32 | 0x23 => 0x40 | 0x24 => 0x41 | 0x25 => 0x42 | 0x26 => 0x43
  | 0x30 => 0x50 | 0x31 => 0x50 | _ => 0x62

/-- The command of an opcode; TLPs and MCTP packets are told apart by their own headers. -/
def cmdOfOp (op : Nat) : Nat :=
  match op with
  | 0x10 => 0x01 | 0x11 => 0x02 | 0x12 => 0x03 | 0x13 => 0x04 | 0x14 => 0x05 | 0x15 => 0x06 | 0x16 => 0x07
  | 0x20 => 0x10 | 0x21 => 0x11 | 0x22 => 0x12 | 0x23 => 0x13
  | 0x30 => 0x20 | 0x31 => 0x21 | 0x32 => 0x22 | 0x40 => 0x23 | 0x41 => 0x24 | 0x42 => 0x25 | 0x43 => 0x26
  | 0x50 => 0x30 | _ => 0x40

/-- SUB of a command (Table 8.4, Table 4.6): STATE, KEPT, WBF, SNOOPED, FWD from ARG[5:0], the bulk size, the cause of an error. -/
def subOf (t : Txn) : Nat :=
  match t.cmd with
  | 0x06 => (max 1 ((t.len + 255) / 256) - 1) % 16
  | 0x13 => leAt t.data 6 1 % 2
  | 0x20 => if t.mval = 1 then 1 else 0
  | 0x21 => if t.rstat = 4 then 2 else if t.cls = 3 ∧ t.rstat = 1 then 1 else 0
  | 0x22 => t.mval / 16 % 4 + t.mval / 8 % 2 * 8
  | 0x25 => t.mval / 16 % 4 + t.mval / 8 % 2 * 8 + t.mval / 4 % 2 * 4
  | _ => 0

/-- The data unit of SNP_FWD with KIND in bit 48, and the reserved bits above it zero (Table 8.4). -/
def fwdKind (data : List Byte) (kind : Nat) : List Byte := data.take 6 ++ natBytes 1 (kind % 2) ++ List.replicate (data.length - 7) 0

/-- An answer goes back to the requester: its PIDs are exchanged (R142). A CLOSE keeps its own. -/
def isReturn (t : Txn) : Bool :=
  (t.cmd == 0x20 && t.mval != 1) || t.cmd == 0x21 || t.cmd == 0x23 || t.cmd == 0x26 || t.cmd == 0x31 || t.cmd == 0x41

/-- Data units of a transaction by its opcode. -/
def unitsLen (t : Txn) : Nat :=
  let n := (t.data.length + 15) / 16
  match t.cmd with
  | 0x04 => 4 | 0x05 => 5 | 0x13 => 1 | 0x23 => 4 | 0x24 => 4 | 0x25 => 4
  | 0x07 => min 256 (max 4 ((max n ((t.len + 15) / 16) + 3) / 4 * 4))
  | 0x26 => min 256 (max 16 ((max n ((t.len + 15) / 16) + 15) / 16 * 16))
  | 0x30 => min 260 (max 1 n)
  | 0x31 => min 260 (max 1 n)
  | 0x40 => min 16 (max 1 n)
  | 0x41 => min 16 (max 1 n)
  | _ => 0

/-- The header unit of a transaction. DESIGN CHOICE (log 95): CD, which no response's opcode names, carries the DevLoad of a CMP or DATA (R153). -/
def headOf (t : Txn) : Unit :=
  let op := opOfCmd t.cmd
  { op := op, vc := ((opInfo op (unitsLen t)).getD (0, true)).1, len := unitsLen t,
    dpid := if isReturn t then t.spid else t.dpid, spid := if isReturn t then t.dpid else t.spid, tag := t.tag, caid := t.caid,
    cd := if t.cmd = 0x20 ∨ t.cmd = 0x23 then t.devload else t.cd, poison := t.poison, bad := false,
    sub := subOf t, addr := if op = 0x50 ∨ op = 0x62 then 0 else t.addr }

/-! Folios (Tables 4.2-4.4). -/

/-- HDR. -/
structure Hdr where
  typ : Nat
  seq : Nat
  ack : Nat
  cr : List Nat        -- CR_REQ, CR_SNP, CR_RSP, CR_DATA, CR_IO, CR_MGMT
  smap : Nat
  mode : Bool
  rxl : Bool
  deriving DecidableEq, Repr

/-- Reading HDR. -/
def hdrOf (f : List Byte) : Hdr :=
  let v := leAt f 0 8
  { typ := nbits v 60 4, seq := nbits v 48 12, ack := nbits v 36 12, cr := [32, 28, 24, 20, 16, 12].map fun b => nbits v b 4,
    smap := nbits v 5 7, mode := nbits v 4 1 == 1, rxl := nbits v 3 1 == 1 }

/-- A whole folio: HDR, 112 bytes of slots, and TRL: the CRC in guarded mode, zero in lean mode. -/
def folioBytes (h : Hdr) (body : List Byte) : List Byte :=
  let crs := sumOf (([32, 28, 24, 20, 16, 12].zip h.cr).map fun e => e.2 % 16 * 2 ^ e.1)
  let v := h.typ * 2 ^ 60 + h.seq % 4096 * 2 ^ 48 + h.ack % 4096 * 2 ^ 36 + crs + h.smap % 128 * 32 + (if h.mode then 16 else 0) + (if h.rxl then 8 else 0)
  let bs := natBytes 8 v ++ slice body 0 112
  bs ++ (if h.mode then natBytes 8 0 else natBytes 8 (crc64 bs))

/-- The CRC of a folio with MODE = 0 matches its TRL. -/
def crcGood (f : List Byte) : Bool := crc64 (slice f 0 120) == leAt f 120 8

/-! Capacity (Table 4.10). -/

/-- Ihlyon's receive capacity per VC at a width in lanes. -/
def ownCap (width vc : Nat) : Nat :=
  match vc with
  | 0 => 128 * width
  | 1 => 16 * width
  | 2 => 32 * width
  | 3 => 512 * width
  | 4 => 128 * width
  | _ => 64

/-- The least CAP that a peer may offer (R117). -/
def leastCap (vc : Nat) : Nat := match vc with | 1 => 8 | 2 => 8 | 5 => 24 | _ => 264

end Sys2Proof.Machine
end

