-- ==== Sys2Proof/Machine/Trorno.lean ====
section
/-! DEFINITION. The Trorno inter-switch link: session states, PARAM, reception, replay, credits, electrical idle, containment, time (R100-R124). -/
namespace Sys2Proof.Machine

/-! State of a port. -/

/-- A Trorno port. -/
def islOf (s : State) (p : Nat) : Isl := smGet {} s.isls p
/-- Replacing it. -/
def setIsl (s : State) (p : Nat) (x : Isl) : State := { s with isls := smSet {} s.isls p x }
/-- Changing it. -/
def modIsl (s : State) (p : Nat) (f : Isl → Isl) : State := setIsl s p (f (islOf s p))
/-- A field of the session status word (Table 4.9). -/
def sessFld (s : State) (p lo w : Nat) : Nat := tabFld s 0x05 p lo w
/-- Setting a field of it. -/
def setSess (s : State) (p lo w v : Nat) : State := setLive s 0x05 p lo w v
/-- TSTATE. -/
def tstate (s : State) (p : Nat) : Nat := sessFld s p 28 4
/-- The session is open. -/
def islOpen (s : State) (p : Nat) : Bool := tstate s p == 5 || tstate s p == 6
/-- RX_LEAN. -/
def rxLean (s : State) (p : Nat) : Bool := sessFld s p 25 1 == 1
/-- Lean mode is permitted at this end: TMODE = 0b00 and FALLBACK = 0 (R107). -/
def leanOk (s : State) (p : Nat) : Bool := tabFld s 0x01 p 18 2 == 0 && sessFld s p 24 1 == 0
/-- MODE = 1 may be sent (R107). -/
def txLean (s : State) (p : Nat) : Bool := sessFld s p 26 1 == 1 && leanOk s p
/-- The stretch of OPEN that counts toward qualification runs while TSTATE is OPEN and RX_LEAN is 0, and is added up where it ends (R108). -/
def syncOpen (s : State) (p : Nat) : State :=
  modIsl s p fun x =>
    match x.openAt, tstate s p == 5 && !(rxLean s p) with
    | none, true => { x with openAt := some s.clock }
    | some a, false => { x with openAt := none, goodNs := x.goodNs + (s.clock - a) }
    | _, _ => x
/-- Entering a state: TSTATE, and the LTSSM code that stands for it (R104). -/
def setTstate (s : State) (p v : Nat) : State := syncOpen (setLive (setSess s p 28 4 v) 0x02 p 0 6 (if v = 0 then 0x0F else 0x12)) p
/-- RXL as sent and MODE as sent follow TMODE, FALLBACK, qualification and the peer's RXL (R104, R107). -/
def setRxLean (s : State) (p : Nat) : State :=
  let s := setSess s p 25 1 (if leanOk s p && (islOf s p).qualified then 1 else 0)
  syncOpen (setSess s p 27 1 (if txLean s p then 1 else 0)) p

/-- Distance from a to b, modulo 2^32 (R110). -/
def seqDist (a b : Nat) : Nat := (b + 2 ^ 32 - a % 2 ^ 32) % 2 ^ 32
/-- a is at or below b, modulo 2^32. -/
def seqLe (a b : Nat) : Bool := decide (seqDist a b < 2 ^ 31)
/-- Addition modulo 2^32. -/
def seqAdd (a n : Nat) : Nat := (a + n) % 2 ^ 32

/-! Sending. -/

/-- Slots queued for return on a VC. -/
def returns (s : State) (p vc : Nat) : Nat := smGet 0 s.islRet (p * 8 + vc)
/-- Slots held in the receive store by transactions not yet gone from it. -/
def heldSlots (s : State) (p vc : Nat) : Nat :=
  sumOf ((s.txns.filter fun e => e.2.phase == 0 && e.2.ingress == p && e.2.vc == vc).map fun e => e.2.cost)
/-- A port's width in lanes as negotiated. -/
def negWidth (s : State) (p : Nat) : Nat := tabFld s 0x02 p 10 5

/-- The bits of a lane's next n that error injection inverts (R87): one, or a burst, from a place in the first word that nothing fixes, once after a
COMMIT; or at rate INJ_RATE at places that nothing fixes (log 93). -/
def injectMask (s : State) (l word n : Nat) : State × List Bool :=
  let mode := tabFld s 0x03 l 10 2
  let draw := (Config.freeValue s.freeCtr).toNat % word
  let len := if mode = 1 then 1 else 2 ^ tabFld s 0x03 l 7 3
  let x := laneOf s l
  if mode = 3 then
    ({ s with freeCtr := s.freeCtr + n }, (List.range n).map fun i => (Config.freeValue (s.freeCtr + i)).getLsbD 0)
  else if (mode = 1 ∨ mode = 2) ∧ x.inject then
    (setLane (tick s) l { x with inject := false }, (List.range n).map fun i => decide (draw ≤ i ∧ i < draw + len))
  else (s, [])

/-- Lane by lane, the codewords of a position as they leave: injection comes after FEC encoding (R87). -/
def codewordsOut (s : State) : List (Nat × List Byte) → State × List (List Level)
  | [] => (s, [])
  | (l, d) :: rest =>
    let m := injectMask s l 128 1024
    let r := codewordsOut m.1 rest
    (r.1, symbolsOf true (invertBits (bitsOf (laneCodeword d)) m.2) :: r.2)

/-- One codeword position leaves: the stream bytes striped over the lanes (R90-R92). -/
def codewordOut (s : State) (p : Nat) (bs : List Byte) : State :=
  let w := negWidth s p
  let r := codewordsOut s (((List.range w).map (firstLane p + ·)).zip (striped w bs))
  emit r.1 (.codeword p r.2)

/-- Bytes join the port's stream; a whole codeword position leaves. -/
def sendStream (s : State) (p : Nat) (bs : List Byte) : State :=
  let n := 120 * negWidth s p
  let buf := (islOf s p).txBuf ++ bs
  if 0 < n ∧ n ≤ buf.length then codewordOut (modIsl s p fun x => { x with txBuf := buf.drop n }) p (buf.take n)
  else modIsl s p fun x => { x with txBuf := buf }

/-- Launching a folio: HDR carries ACK, the returns that fit, MODE and RXL. -/
def launch (s : State) (p typ seq smap : Nat) (lean : Bool) (body : List Byte) : State :=
  let x := islOf s p
  let crs := (List.range 6).map fun v => min 15 (returns s p v)
  let h : Hdr := { typ := typ, seq := seq, ack := x.accept, cr := crs, smap := smap, mode := lean, rxl := rxLean s p }
  let s := { s with islRet := ((List.range 6).zip crs).foldl (fun m e => smMod 0 m (p * 8 + e.1) (· - e.2)) s.islRet }
  sendStream (emit (setIsl s p { x with ackSent := x.accept }) (.port p (0x400 + typ) 0 0 0 (folioBytes h body))) p (folioBytes h body)

/-- A folio of a type that consumes no sequence. -/
def launchPlain (s : State) (p typ : Nat) (body : List Byte) : State := launch s p typ (islOf s p).next 0 (txLean s p && typ != 2) body

/-- The peer is new to this end, or not yet authenticated: ADV is zero but on MGMT (R103). -/
def peerNew (s : State) (p : Nat) : Bool := (islOf s p).partner.isNone || sessFld s p 23 1 == 1

/-- ADV of a VC (R118). -/
def advOf (s : State) (p vc : Nat) : Nat := if peerNew s p && vc != 5 then 0 else ownCap (negWidth s p) vc - heldSlots s p vc

/-- The contents of a PARAM folio (Table 4.8). -/
def paramBody (s : State) (p : Nat) : List Byte :=
  let x := islOf s p
  let flags := (if tabFld s 0x01 p 18 2 = 0 then 1 else 0) + (if sessFld s p 24 1 = 1 then 2 else 0) + (if peerNew s p then 4 else 0)
  natBytes 2 1 ++ natBytes 1 (negWidth s p) ++ natBytes 1 (tabFld s 0x02 p 6 4) ++ natBytes 1 x.reason ++ natBytes 1 flags ++
  natBytes 2 (tabFld s 0x01 p 20 7) ++ natBytes 8 Config.serial ++ natBytes 4 x.accept ++ natBytes 4 x.next ++
  (List.range 6).flatMap (fun v => natBytes 2 (advOf s p v)) ++ (List.range 6).flatMap (fun v => natBytes 2 (ownCap (negWidth s p) v)) ++
  natBytes 1 (chipOf s)

/-- Sending PARAM: the queued returns are dropped first (R118). -/
def sendParam (s : State) (p : Nat) : State :=
  let s := { s with islRet := smErase s.islRet fun k => k / 8 == p, lostAt := smSet 0 s.lostAt p (s.clock + 1) }
  modIsl (launchPlain s p 2 (paramBody s p)) p fun x => { x with lastParam := s.clock, firstParam := some (x.firstParam.getD s.clock) }

/-- A NULL folio with nothing to return, as filling. -/
def nullImage (s : State) (p : Nat) : List Byte :=
  let x := islOf s p
  folioBytes { typ := 0, seq := x.next, ack := x.accept, cr := [], smap := 0, mode := txLean s p, rxl := rxLean s p } []

/-- The folio stream stops at its next codeword boundary (R100): the rest of the codeword is NULL folios, the last of them cut short (log 92). -/
def stopStream (s : State) (p : Nat) : State :=
  let n := 120 * negWidth s p
  let buf := (islOf s p).txBuf
  if buf.isEmpty ∨ !(pllAll s p) then modIsl s p fun x => { x with txBuf := [] }
  else codewordOut (modIsl s p fun x => { x with txBuf := [] }) p (slice (buf ++ (List.replicate 15 (nullImage s p)).flatten) 0 n)

/-- A marker run begins, once the lane PLLs are locked: a folio stream stops first (R100). -/
def markerRun (s : State) (p : Nat) : State :=
  let s := stopStream s p
  if pllAll s p then emit s (.link p 1 0) else s

/-! Reception of the stream (R90-R93). -/

/-- The bytes that the port's lanes deliver in a codeword position, by logical lane: polarity and lane order put right (R43, R92). -/
def lanesIn (s : State) (p : Nat) (lanes : List (List Level)) : List (List Byte) :=
  let put := (lanes.zip (portLanes s p)).map fun e => bytesOf (symbolBits true (if laneBit s e.2 5 then e.1.map invertLevel else e.1))
  if (islOf s p).reversed then put.reverse else put

/-- One lane word at the stored boundary is the marker (R81). -/
def wordIsMarker (s : State) (l : Nat) (w : List Level) : Bool := (if laneBit s l 5 then w.map invertLevel else w) == markerSymbols

/-- The next folio of the received stream: its bytes, its codewords (0 clean, 1 corrected, 2 uncorrectable), a lane parity error. It comes from what
the last codeword position left, or from the one received now, which a marker run is not (R93). -/
def takeFolio (s : State) (p : Nat) (lanes : List (List Level)) : Option (State × List Byte × Nat × Bool) :=
  let x := islOf s p
  if 128 ≤ x.rxBuf.length then
    if lanes.isEmpty then some (setIsl s p { x with rxBuf := x.rxBuf.drop 128 }, x.rxBuf.take 128, x.rxFec, x.rxPar) else none
  else
    let cws := lanesIn s p lanes
    if cws.length ≠ negWidth s p ∨ cws.isEmpty ∨ !(cws.all fun c => c.length == 128) ∨ cws.all isMarkerRun then none
    else
      let ds := cws.map fun c => (rsDecode c).getD (c, 4)
      let fec := if ds.any fun d => d.2 == 4 then 2 else if ds.any fun d => d.2 != 0 then 1 else 0
      let par := ds.any fun d => laneParBad d.1
      let buf := x.rxBuf ++ unstriped (ds.map (·.1))
      let s := setIsl s p { x with rxBuf := buf.drop 128, rxFec := fec, rxPar := par }
      let s := count (count s (portCtr p 8) (ds.filter fun d => d.2 != 0 && d.2 != 4).length) (portCtr p 9) (ds.filter fun d => d.2 == 4).length
      some (s, buf.take 128, if x.rxBuf.isEmpty then fec else max x.rxFec fec, par || (!x.rxBuf.isEmpty && x.rxPar))

/-- Codeword 0 of the received stream begins next (R92). -/
def restartRx (s : State) (p : Nat) : State := modIsl s p fun x => { x with rxBuf := [], rxFec := 0, rxPar := false }

/-! The received side of a broken stream. -/

/-- The open received transaction is closed BAD: what was cut through is cancelled (R99, R105, R116). -/
def closeRx (s : State) (p : Nat) : State :=
  match (islOf s p).rx with
  | none => s
  | some o =>
    let s := modIsl s p fun x => { x with rx := none, expect := x.expect }
    match o.fwd with
    | some i => if s.txns.any (fun e => e.1 == i) then cancelTxn (count s (portCtr p 18) 1) i else s
    | none => s

/-! States (Table 4.7). -/

/-- DETECT: the live boundaries start from the committed offsets (R79). -/
def enterDetect (s : State) (p : Nat) : State :=
  let s := (portLanes s p).foldl (fun s l => setLane s l { laneOf s l with bound := tabFld s 0x03 l 45 6 }) s
  let s := setLive (setLive (setLive s 0x02 p 6 4 (tabFld s 0x01 p 6 4)) 0x02 p 10 5 (widthLanes (portWidth s p))) 0x02 p 15 2 3
  markerRun (setTstate (modIsl s p fun x => { x with begun := true }) p 1) p

/-- ALIGN: the tile engine is asked to run LANE.ALIGN as a resident chart. -/
def enterAlign (s : State) (p : Nat) : State :=
  let s := setTstate (modIsl s p fun x => { x with alignAt := none, runAt := none }) p 3
  if s.residents.any fun r => r.kind == 1 && r.port == p then s
  else { s with residents := s.residents ++ [{ engine := p / 8, kind := 1, port := p }] }

/-- WAKE, with the hold of the 20 µs rule or without. -/
def enterWake (s : State) (p : Nat) (long : Bool) : State :=
  markerRun (setTstate (modIsl s p fun x => { x with runAt := none, longHold := long }) p 2) p

/-- Leaving OPEN or IDLE for WAKE with a REASON (R100, R101). -/
def leaveOpen (s : State) (p reason : Nat) : State :=
  let s := lowEnd (closeRx s p) p
  let s := modIsl s p fun x =>
    { x with reason := reason, deadline := some (s.clock + 100000 + tabFld s 0x01 p 20 7 * 1000000), nakCause := 0, discarded := 0, rply := none, replay := none,
             firstParam := none, peerParam := [], txIdle := none, rxIdle := false, rxExit := none, quiet := none, expect := seqAdd x.accept 1 }
  let s := count (setSess (setLive s 0x02 p 17 1 0) p 0 8 (min 255 (sessFld s p 0 8 + 1))) (portCtr p 12) 1
  let s := if tabFld s 0x0C 0 8 7 = p then raiseEvent s 0x581 p [] else s
  enterWake s p false

/-- A lean fatal event of the session (R109): the fourth within 1 s sets FALLBACK. -/
def countFatal (s : State) (p reason : Nat) : State :=
  let recent := (islOf s p).fatals.filter fun t => decide (s.clock < t + 1000000000)
  let s := modIsl s p fun x => { x with fatals := recent ++ [s.clock] }
  let s := raiseEvent (setSess s p 8 8 (min 255 (sessFld s p 8 8 + 1))) 0x105 p [reason]
  if 3 ≤ recent.length ∧ sessFld s p 24 1 = 0 then raiseEvent (setRxLean (setSess s p 24 1 1) p) 0x102 p [] else s

/-- A lean fatal error detected here (R106, R108). -/
def leanFatal (s : State) (p : Nat) : State :=
  let s := setRxLean (modIsl s p fun x => { x with qualified := false, goodNs := 0 }) p
  leaveOpen (countFatal s p 1) p 1

/-- A NAK leaves (R105). -/
def sendNak (s : State) (p : Nat) : State :=
  let x := islOf s p
  modIsl (launchPlain s p 3 (natBytes 4 x.accept ++ natBytes 1 x.nakCause)) p fun x => { x with nakAt := s.clock + 2000 }

/-- One more folio is discarded; 1,024 in a row leave OPEN (R111). -/
def discardOne (s : State) (p : Nat) : State :=
  let s := modIsl s p fun x => { x with discarded := x.discarded + 1 }
  if 1024 ≤ (islOf s p).discarded then leaveOpen s p 2 else s

/-- A detected error of guarded reception (R105, R108). -/
def detected (s : State) (p cause : Nat) : State :=
  let s := if (cause = 1 ∨ cause = 2) ∧ !(rxLean s p) then
      modIsl s p fun x => { x with goodNs := 0, openAt := x.openAt.map fun _ => s.clock }
    else s
  if (islOf s p).nakCause ≠ 0 then discardOne s p
  else
    let s := modIsl (closeRx s p) p fun x => { x with nakCause := cause, nakAt := s.clock, expect := seqAdd x.accept 1, discarded := 0 }
    discardOne (if (islOf s p).txIdle.isNone then sendNak s p else s) p

/-! Containment (R123). -/

/-- Open transactions of homes on this chip whose requester lies behind the port, closed with RSTAT = 1 (R210, R223). -/
def voidOpens (s : State) (p : Nat) : State :=
  (List.range 16).foldl (fun s g =>
    ((sliceOf s g).opens.filter fun o => o.ingress == p && !(s.txns.any fun e => e.1 == o.txn)).foldl (fun s o =>
      newTxn s { cmd := 0x27, oc := 2, src := portEp p, dst := sliceEp g, addr := keyAddr s o.key, key := o.key, rstat := 1, reply := true, phase := 1, ingress := p,
                 looked := s.commitNum, tag := o.tag, spid := o.spid }) s) s

/-- Responses and data toward the lost partner are sunk: those at the port at once, those still on their way when they reach it. -/
def sinkReplies (s : State) (p : Nat) : State :=
  let s := (txnsWhere s fun t => t.phase == 4 && t.dst == portEp p && t.reply && !(isSnoop t) && !(awaitsCmp t)).foldl (fun s i => sinkReply s p i) s
  (txnsWhere s fun t => decide (t.phase ≤ 2) && t.dst == portEp p && t.reply && !(isSnoop t) && !(awaitsCmp t)).foldl (fun s i => setTxn s i { txnOf s i with sunk := true }) s

/-- Everything of R123 but the state that follows: the session is gone. What remains is the port's own: its training, its streams, and the cause that
ended its last OPEN (R101). -/
def contain (s : State) (p : Nat) : State :=
  let cs := agentsBehind s p
  let s := sinkReplies (markLoss (closeIngress (closeRx (lowEnd s p) p) p) p) p
  let s := deviceUpdate (setLive (setLive s 0x02 p 17 1 0) 0x02 p 20 1 1) (agentLostEntries s cs)
  let s := voidOpens (loseAgents s p cs) p
  let s := { s with islRet := smErase s.islRet fun k => k / 8 == p }
  -- FATAL_CNT, RETRAIN_CNT, FALLBACK, RX_LEAN, TX_LEAN, PEER_RXL, NEW_PARTNER and CREDIT_LOW are the session's
  let s := setSess (setSess s p 0 16 0) p 22 6 0
  modIsl s p fun x =>
    { begun := x.begun, alignDone := x.alignDone, alignAt := x.alignAt, reason := x.reason, runAt := x.runAt, longHold := x.longHold,
      firstParam := x.firstParam, lastParam := x.lastParam, reversed := x.reversed, rxBuf := x.rxBuf, rxFec := x.rxFec, rxPar := x.rxPar, txBuf := x.txBuf }

/-- The session of a link that is disabled, or leaves ROLE = 3, ends: DISABLED, and its word and state as before the first (R100, R104). -/
def endSession (s : State) (p : Nat) : State :=
  let s := setTstate s p 0
  { setSess (setSess s p 0 16 0) p 22 6 0 with isls := smSet {} s.isls p {} }

/-! Opening a session (R103, R113, R118). -/

/-- Trim the store to what lies after an acknowledged sequence. -/
def trimStore (x : Isl) (acked : Nat) : Isl :=
  let n := min x.store.length (seqDist x.acked acked)
  { x with store := x.store.drop n, acked := seqAdd x.acked n, replay := x.replay.map fun i => i - n }

/-- Credits: the peer's ADV less the cost of the headers in folios after its ACCEPT (R118). -/
def creditsFrom (par : List Byte) (store : List TxFolio) : SMap Nat :=
  (List.range 6).foldl (fun m v =>
    smSet 0 m v (leAt par (32 + 2 * v) 2 - sumOf ((store.flatMap fun f => f.heads).filterMap fun h => if h.1 = v then some h.2 else none))) []

/-- The peer's CAP. -/
def capsFrom (par : List Byte) : SMap Nat := (List.range 6).foldl (fun m v => smSet 0 m v (leAt par (44 + 2 * v) 2)) []

/-- LOST clears when LINK_UP next becomes 1, unless a binding or a lost extent names the port (Table 2.4). -/
def upClearsLost (s : State) (p : Nat) : State :=
  if (bindingsOf s p).isEmpty ∧ !((listed s 0x15).any fun i => emport (tabVal s 0x15 i) == p && estate (tabVal s 0x15 i) == 4) then setLive s 0x02 p 20 1 0 else s

/-- OPEN: own PARAM sent and the peer's received. A partner without a session here starts one afresh. -/
def openSession (s : State) (p : Nat) : State :=
  let par := (islOf s p).peerParam
  let fresh := (islOf s p).partner.isNone
  let s := modIsl s p fun x =>
    let x := if fresh then { x with partner := some (leAt par 16 8) } else { trimStore x (leAt par 24 4) with rply := some (seqAdd (leAt par 24 4) 1) }
    { x with peerChip := leAt par 56 1, cap := capsFrom par, credit := creditsFrom par x.store, high := creditsFrom par x.store, low := [],
             replay := if fresh ∨ x.store.isEmpty then none else some 0, expect := seqAdd x.accept 1, replayEnd := leAt par 28 4, rx := none, nakCause := 0, discarded := 0,
             deadline := none, firstParam := none, runAt := none, ackAt := s.clock, periodAt := s.clock + 1000000, quiet := none,
             stepDue := tabFld s 0x0C 0 8 7 == p, markAt := s.clock, peerParam := [] }
  let s := if fresh then setSess s p 23 1 1 else s
  upClearsLost (setLive (setRxLean (adaptNow (setTstate s p 5) p) p) 0x02 p 17 1 1) p

/-- Survey has authenticated the partner (R103, R300): CAP is returned through CR and NEW_PARTNER clears. -/
def partnerTrusted (s : State) (p : Nat) : State :=
  if sessFld s p 23 1 = 0 then s
  else setSess ((List.range 5).foldl (fun s v => giveBack s p v (ownCap (negWidth s p) v)) s) p 23 1 0

/-- The offset of the first PARAM field that R102 or R117 refuses. -/
def paramFault (s : State) (p : Nat) (f : List Byte) : Option Nat :=
  if leAt f 8 2 ≠ 1 then some 8
  else if leAt f 10 1 ≠ negWidth s p then some 10
  else if leAt f 11 1 ≠ tabFld s 0x02 p 6 4 then some 11
  else ((List.range 6).find? fun v => decide (leAt f (44 + 2 * v) 2 < leastCap v)).map fun v => 44 + 2 * v

/-! Reception of header fields (R107, R111, R116). -/

/-- ACK: the smallest value not below the acknowledged sequence that matches, if the store reaches it. DESIGN CHOICE (log 94): one that lies beyond the
last folio sent is ignored. -/
def takeAck (s : State) (p ack : Nat) : State :=
  modIsl s p fun x =>
    let d := (ack + 4096 - x.acked % 4096) % 4096
    if d = 0 ∨ x.store.length < d then x else { trimStore x (seqAdd x.acked d) with ackAt := s.clock }

/-- Credit returns; the highest credit of the period follows (R120). -/
def takeCredits (s : State) (p : Nat) (cr : List Nat) : State :=
  modIsl s p fun x =>
    ((List.range 6).zip cr).foldl (fun x e =>
      let c := smGet 0 x.credit e.1 + e.2
      { x with credit := smSet 0 x.credit e.1 c, high := smSet 0 x.high e.1 (max (smGet 0 x.high e.1) c) }) x

/-- RXL and what it permits this end to send. -/
def takeRxl (s : State) (p : Nat) (rxl : Bool) : State := setRxLean (setSess s p 26 1 (if rxl then 1 else 0)) p

/-- A folio's checks (R105-R107): none if it ends here, else the state after its header is read. fec: 0 clean, 1 corrected, 2 uncorrectable. -/
def checkFolio (s : State) (p : Nat) (f : List Byte) (fec : Nat) (par : Bool) : State × Option Hdr :=
  let h := hdrOf f
  if fec = 2 ∨ par then (if rxLean s p then leanFatal s p else detected s p (if fec = 2 then 2 else 3), none)
  else if !h.mode ∧ !(crcGood f) then (detected (count s (portCtr p 10) 1) p 1, none)
  else (takeCredits (takeAck (takeRxl (modIsl s p fun x => { x with rxExit := none }) p h.rxl) p h.ack) p h.cr, some h)

/-- A folio reaches the receiver of an open session while the peer's direction is not idle. -/
def receiving (s : State) (p : Nat) : Bool := fabricRuns s && roleOf s p == 3 && islOpen s p && !(islOf s p).rxIdle

/-- A folio comes off the stream in a state that takes none but PARAM: it is passed over (R100, R101). -/
def passFolio (s : State) (p : Nat) (lanes : List (List Level)) : State :=
  if roleOf s p = 3 ∧ (tstate s p = 2 ∨ tstate s p = 4) then
    match takeFolio s p lanes with
    | some r => r.1
    | none => s
  else s

/-- A folio of the received stream, as its checks leave it (R105-R107): the state, and its bytes and header if it passed. -/
def nextFolio (s : State) (p : Nat) (lanes : List (List Level)) : Option (State × Option (List Byte × Hdr)) :=
  match takeFolio s p lanes with
  | none => none
  | some (s, f, fec, par) =>
    let c := checkFolio s p f fec par
    some (c.1, c.2.map fun h => (f, h))

/-- A folio of a type that consumes no sequence. DESIGN CHOICE (log 94): while folios are discarded (R105) NAK and IDLE still act, since neither carries
units, and every folio but RPLY counts among the discarded. -/
def plainFolio (s : State) (p typ : Nat) (lanes : List (List Level)) (act : State → List Byte → Hdr → State) : State :=
  if !(receiving s p) then passFolio s p lanes
  else
    match nextFolio s p lanes with
    | none => s
    | some (t, none) => t
    | some (t, some (f, h)) =>
      if h.typ ≠ typ then s
      else if (islOf t p).nakCause ≠ 0 ∧ typ ≠ 4 then discardOne (act t f h) p else act t f h

/-! Units. -/

/-- A TLP's kind, and a completion's status, by its header, as the PCIe base gives Fmt and Type in non-flit mode. -/
def tlpKind (data : List Byte) : MsgKind :=
  let b0 := leAt data 0 1
  let typ := b0 % 32
  let st := leAt data 6 1 / 32
  if typ = 0x0A ∨ typ = 0x0B then .ioCpl (if st = 0 then 0 else if st = 4 then 2 else 1)
  else if typ = 0x04 ∨ typ = 0x05 then .cfg (b0 / 64 % 2 == 1)
  else if 0x0C ≤ typ ∧ typ ≤ 0x0E then .ioAtomic
  else if typ / 8 = 2 then .ioMsg
  else if typ = 0 ∧ b0 / 64 % 2 = 1 then .ioWr
  else .ioRd

/-- The kind of a received transaction. -/
def kindOf (u : Unit) (data : List Byte) : MsgKind :=
  if u.op = 0x50 then tlpKind data
  else if u.op = 0x62 then (if leAt data 3 1 / 8 % 2 = 1 then .mgmt else .fabric 0x41 0)
  else .fabric (BitVec.ofNat 8 (cmdOfOp u.op)) (BitVec.ofNat 4 u.sub)

/-- The message that a received transaction becomes; a memory TLP holds its address and length itself. -/
def unitMsg (u : Unit) (data : List Byte) (units : Nat) : Msg :=
  let k := kindOf u data
  let tlp := u.op == 0x50
  { kind := k, addr := BitVec.ofNat 64 (if tlp && !(noAddress k) then tlpAddr data else u.addr),
    len := BitVec.ofNat 13 (if tlp then tlpLen data else if u.op = 0x15 then (u.sub + 1) * 256 else if u.len = 0 then 64 else 16 * u.len),
    tag := BitVec.ofNat 16 u.tag, spid := BitVec.ofNat 12 u.spid, dpid := BitVec.ofNat 12 u.dpid, caid := BitVec.ofNat 6 u.caid, cd := BitVec.ofNat 4 u.cd, ld := 0, io := .hdm, poison := u.poison, devload := if u.op = 0x30 ∨ u.op = 0x40 then BitVec.ofNat 2 u.cd else 0,
    units := BitVec.ofNat 6 units, data := if u.op = 0x23 then fwdKind data u.sub else data }

/-- An error completion that answers no request of this chip: the answer of another chip to a snoop, for its home (R223, R224). -/
def remoteErr (s : State) (p : Nat) (m : Msg) : State :=
  match holderTarget s (routePid s p m.dpid.toNat m.addr.toNat) with
  | .home g key _ _ a => newTxn s { cmd := 0x21, oc := 2, src := portEp p, dst := sliceEp g, addr := a, key := key, rstat := 1, reply := true, phase := 1,
                                    ingress := p, looked := s.commitNum, dpid := m.spid.toNat }
  | _ => lookupOutcome s p m (lookupTarget s p m)

/-- A whole transaction leaves the receiver for the switch core. -/
def deliver (s : State) (p : Nat) (u : Unit) (data : List Byte) (replayed : Bool) : State :=
  let m := unitMsg u data 1
  let vc := u.vc
  let cost := 1 + u.len
  let s := countPort s p false (ocOf (homeCmd m.kind).1) m.len.toNat
  if u.op = 0x60 ∨ u.op = 0x61 then
    let s := giveBack s p vc cost
    if replayed then s
    else modIsl s p fun x => { x with timeRx := x.timeRx ++ [{ op := u.op, pid := u.spid, tag := u.tag, a := leAt data 0 8, b := leAt data 8 8, arrived := s.ts }] }
  else if (u.op = 0x23 ∨ u.op = 0x30) ∧ 2 ≤ u.sub then giveBack s p vc cost   -- DESIGN CHOICE (log 96): a reserved SUB names no command
  else if u.op = 0x30 ∧ u.sub = 1 then giveBack (closeArrived s p m) p vc cost
  else if u.op = 0x41 ∧ tabFld s 0x17 u.dpid 12 3 = 1 then giveBack (deliverFwd s u.dpid u.tag data) p vc cost
  else if u.op = 0x31 ∧ (matchResponse s p m).isNone then giveBack (remoteErr s p m) p vc cost
  else if u.op = 0x30 ∨ u.op = 0x31 ∨ u.op = 0x40 ∨ u.op = 0x43 ∨ (m.kind matches .ioCpl _) ∨ m.kind = .fabric 0x41 0 then
    giveBack (takeResponse s p m) p vc cost
  else chargeSlots s (lookupOutcome (count s (tileCtr (p / 8) 25) 1) p m (lookupTarget s p m)) p vc cost

/-- A response forwarded by cut-through (Table 5.2). -/
def forwardAnswer (s : State) (p : Nat) (o : OpenIn) (m : Msg) : State :=
  match matchResponse s p m with
  | none => s
  | some i =>
    match cutAnswer s i m with
    | some a => modIsl (newTxn (countPort s p false a.oc m.len.toNat) a) p fun x => { x with rx := some { o with fwd := some s.nextTxn, data := [] } }
    | none => s

/-- A transaction that outlasts its first folio is forwarded by cut-through where Table 5.2 says so. -/
def forwardEarly (s : State) (p : Nat) (o : OpenIn) : State :=
  let u := unitOf o.hdr
  let m := unitMsg u o.data (1 + (o.left + 6) / 7)
  if u.op = 0x43 ∨ (m.kind matches .ioCpl _) then forwardAnswer s p o m
  else if u.op ≠ 0x50 ∧ u.op ≠ 0x16 then s
  else match lookupTarget s p m with
    | .port q _ _ =>
      if portReaches s q ∧ (u.op = 0x50 ∨ roleOf s q = 3) then
        let s1 := lookupOutcome (countPort (count s (tileCtr (p / 8) 25) 1) p false (ocOf (homeCmd m.kind).1) m.len.toNat) p m (lookupTarget s p m)
        modIsl s1 p fun x => { x with rx := some { o with fwd := some (if s1.nextTxn = s.nextTxn then 0 else s.nextTxn), data := [] } }
      else s
    | _ => s

/-- More units of a transaction already forwarded. -/
def forwardMore (s : State) (i : Nat) (data : List Byte) (last : Bool) : State :=
  let t := txnOf s i
  if !(s.txns.any fun e => e.1 == i) ∨ !t.cut then s
  else
    let s := setTxn s i { t with got := if last then t.units else min (t.units - 1) (t.got + 1), data := t.data ++ data }
    if t.phase = 2 then sendPackets s i (txnPackets t) else s

/-- The units of a DATA folio from slot k on; none is a protocol error (R98). -/
def takeUnits (s : State) (p : Nat) (f : List Byte) (smap : Nat) (replayed : Bool) : Nat → Nat → Option State
  | _, 0 => some s
  | k, n + 1 =>
    let bs := slice f (8 + 16 * k) 16
    let x := islOf s p
    if smap / 2 ^ k % 2 = 1 then
      let u := unitOf bs
      match x.rx with
      | some o =>
        if u.op ≠ 0xFF ∨ u.len ≠ 0 ∨ u.vc ≠ o.vc then none
        else takeUnits (giveBack (closeRx s p) p o.vc o.cost) p f smap replayed (k + 1) n
      | none =>
        if u.op = 0 then (if u.len = 0 then takeUnits s p f smap replayed (k + 1) n else none)
        else match opInfo u.op u.len with
          | none => none
          | some (vc, ok) =>
            if !ok ∨ vc ≠ u.vc then none
            else if u.len = 0 then takeUnits (deliver s p u [] replayed) p f smap replayed (k + 1) n
            else takeUnits (setIsl s p { x with rx := some { hdr := bs, vc := vc, cost := 1 + u.len, left := u.len } }) p f smap replayed (k + 1) n
    else
      match x.rx with
      | none => none
      | some o =>
        let o1 := { o with left := o.left - 1, data := o.data ++ bs }
        if o1.left = 0 then
          let s := setIsl s p { x with rx := none }
          match o.fwd with
          | some i => takeUnits (holdSlots (forwardMore (if (txnOf s i).reply then cutAnswered s i else s) i o1.data true) p [i] o.vc o.cost) p f smap replayed (k + 1) n
          | none => takeUnits (deliver s p (unitOf o.hdr) o1.data replayed) p f smap replayed (k + 1) n
        else takeUnits (setIsl s p { x with rx := some o1 }) p f smap replayed (k + 1) n

/-- What a clean DATA folio does in order: its units, early forwarding, ACCEPT (R110). -/
def takeData (s : State) (p : Nat) (f : List Byte) (smap : Nat) : State :=
  let x := islOf s p
  let replayed := !(seqLe x.replayEnd x.expect)
  match takeUnits s p f smap replayed 0 7 with
  | none => leaveOpen s p 2
  | some s1 =>
    let s2 := match (islOf s1 p).rx with
      | some o =>
        match o.fwd with
        | some i => modIsl (forwardMore s1 i o.data false) p fun x => { x with rx := some { o with data := [] } }
        | none => if x.rx.isNone then forwardEarly s1 p o else s1
      | none => s1
    modIsl s2 p fun y => { y with expect := seqAdd x.expect 1, accept := if y.rx.isNone then x.expect else y.accept }

/-- DATA_FOLIO (R105-R114). DESIGN CHOICE (log 94): a duplicate discarded under R114 does not count toward the 1,024 of R111. -/
def execDataFolio (p : PortId) (lanes : List (List Level)) (s : State) : Res :=
  if !(receiving s p) then .next (passFolio s p lanes)
  else
    match nextFolio s p lanes with
    | none => .next s
    | some (t, none) => .next t
    | some (t, some (f, h)) =>
      let x := islOf t p
      if h.typ ≠ 1 then .next s
      else if x.nakCause ≠ 0 then .next (discardOne t p)
      else if h.seq ≠ x.expect % 4096 then .next (detected t p 4)
      else if seqLe x.expect x.accept then .next (setIsl t p { x with expect := seqAdd x.expect 1 })
      else .next (takeData t p f h.smap)

/-- NULL_FOLIO: only its header counts (R94, R111, R116). -/
def execNullFolio (p : PortId) (lanes : List (List Level)) (s : State) : Res := .next (plainFolio s p 0 lanes fun s _ _ => s)

/-- Replay begins with RPLY at a START (R113): what lies before it is acknowledged. -/
def startReplay (s : State) (p start : Nat) : State :=
  modIsl s p fun x =>
    let x := trimStore x (seqAdd start (2 ^ 32 - 1))
    { x with rply := some start, replay := if x.store.isEmpty then none else some 0, ackAt := s.clock, opened := x.opened }

/-- NAK_FOLIO (R113): replay from the NAK's ACCEPT + 1. -/
def execNakFolio (p : PortId) (lanes : List (List Level)) (s : State) : Res :=
  .next (plainFolio s p 3 lanes fun s f _ =>
    if seqDist (islOf s p).acked (leAt f 8 4) ≤ (islOf s p).store.length then startReplay s p (seqAdd (leAt f 8 4) 1) else s)

/-- RPLY_FOLIO (R105, R114): acceptance resumes; a START above ACCEPT + 1 is a protocol error. -/
def execRplyFolio (p : PortId) (lanes : List (List Level)) (s : State) : Res :=
  .next (plainFolio s p 4 lanes fun s f h =>
    let start := leAt f 8 4
    if !(seqLe start (seqAdd (islOf s p).accept 1)) then leaveOpen s p 2
    else
      let s := closeRx s p
      modIsl s p fun x => { x with nakCause := 0, discarded := 0, expect := start, replayEnd := seqAdd start ((h.seq + 4096 - start % 4096) % 4096) })

/-- IDLE_FOLIO (R121): the peer's direction enters electrical idle. -/
def execIdleFolio (p : PortId) (lanes : List (List Level)) (s : State) : Res :=
  .next (plainFolio s p 5 lanes fun s _ _ => modIsl s p fun x => { x with rxIdle := true })

/-- A PARAM that its checks passed counts as received (R103, R109). Another NODE_ID than the session's contains it at once, and where this end's PARAM
had already gone out in this entry, it goes out again with the ADV and FLAGS of a new partner (DESIGN CHOICE, log 94). -/
def takeParam (s : State) (p : Nat) (f : List Byte) : State :=
  let x := islOf s p
  let changed := x.partner.isSome && x.partner != some (leAt f 16 8)
  let again := !x.peerParam.isEmpty
  let s := if changed then contain s p else s
  let s := takeRxl (modIsl s p fun x => { x with peerParam := f }) p (hdrOf f).rxl
  let s := if changed ∧ tstate s p = 4 ∧ x.firstParam.isSome then sendParam s p else s
  if leAt f 12 1 = 1 ∧ !again ∧ (islOf s p).partner.isSome then countFatal s p 1 else s

/-- PARAM_FOLIO (R101-R103, R109, R117). -/
def execParamFolio (p : PortId) (lanes : List (List Level)) (s : State) : Res :=
  if roleOf s p ≠ 3 ∨ !(tstate s p == 2 || tstate s p == 4) then .next s
  else match takeFolio s p lanes with
    | none => .next s
    | some (t, f, fec, par) =>
      if fec = 2 ∨ par then .next t
      else if (hdrOf f).typ ≠ 2 ∨ (hdrOf f).mode then .next s
      else if !(crcGood f) then .next (count t (portCtr p 10) 1)
      else match paramFault t p f with
        | some o => .next (raiseEvent t 0x101 p [o])
        | none =>
          let s2 := takeParam t p f
          .next (if tstate s p = 4 ∧ (islOf s2 p).firstParam.isSome then openSession s2 p else s2)

/-! Training. -/

/-- CDR_LOCK_ALL (R43, R100): training finds each lane's polarity and the lanes' order. -/
def execCdrLockAll (p : PortId) (inv : BitVec 16) (rev : Bool) (s : State) : Res :=
  if !(portExists s p) then .next s
  else
    let s1 := setLanesBit s (portLanes s p) 2 true
    if roleOf s p ≠ 3 then .next s1
    else
      let s2 := modIsl ((portLanes s p).foldl (fun s l => setLaneBit s 5 (inv.getLsbD (l - firstLane p)) l) s1) p fun x => { x with reversed := rev }
      if tstate s p = 1 then .next (if boundsGood s2 p then enterWake s2 p false else enterAlign s2 p)
      else if tstate s p = 2 ∧ !(boundsGood s2 p) then .next (enterAlign s2 p)
      else .next s2

/-- CDR_LOCK_LOST (R100): lost on the port's lanes whose bit is set. -/
def cdrLost (s : State) (p : Nat) (lanes : List Nat) : State :=
  let s := setLanesBit s lanes 2 false
  if roleOf s p = 3 ∧ islOpen s p ∧ !(islOf s p).rxIdle ∧ !(cdrAll s p) then leaveOpen s p 3 else s

/-- CDR_LOCK_LOST (R100). -/
def execCdrLockLost (p : PortId) (lanes : BitVec 16) (s : State) : Res :=
  if !(portExists s p) then .next s
  else .next (cdrLost s p ((portLanes s p).filter fun l => lanes.getLsbD (l - firstLane p)))

/-- MARKER_RUN_SEEN (R93, R100): all eight lane words of the position equal the marker on every lane. The peer's run ends OPEN, or brings a new partner
to a contained port; the stream that follows it begins with codeword 0 (R92). -/
def execMarkerRunSeen (p : PortId) (lanes : List (List Level)) (s : State) : Res :=
  if roleOf s p ≠ 3 ∨ lanes.length ≠ (portLanes s p).length ∨ !((lanesIn s p lanes).all isMarkerRun) then .next s
  else
    let s := restartRx s p
    if islOpen s p then .next (leaveOpen s p 7)
    else if tstate s p = 7 then .next (enterDetect s p)
    else .next s

/-- The lanes of a port on which a word is not the marker. -/
def unmarked (s : State) (p : Nat) (words : List (List Level)) : List Nat :=
  ((portLanes s p).zip (words ++ List.replicate 16 [])).filterMap fun e => if wordIsMarker s e.1 e.2 then none else some e.1

/-- MARKER_CHECK (R81, R100): in WAKE, lane by lane. -/
def execMarkerCheck (p : PortId) (words : List (List Level)) (s : State) : Res :=
  if roleOf s p ≠ 3 ∨ tstate s p ≠ 2 ∨ !(cdrAll s p) ∨ (islOf s p).runAt.isSome then .next s
  else if !(boundsGood s p) then .next (enterAlign s p)
  else
    let bad := unmarked s p words
    if bad.isEmpty then
      .next (modIsl (restartRx s p) p fun x => { x with runAt := some (s.clock + (if x.longHold then 2000000 else 1000)) })
    else .next (enterAlign (bad.foldl (fun s l => raiseEvent s 0x001 l []) s) p)

/-- WAKE_HOLD_END (R100, R101): PARAM is sent; the session opens if the peer's has come. -/
def execWakeHoldEnd (p : PortId) (s : State) : Res :=
  match (islOf s p).runAt with
  | none => .next s
  | some t =>
    if roleOf s p = 3 ∧ tstate s p = 2 ∧ (t ≤ s.clock ∨ ((islOf s p).longHold ∧ !(islOf s p).peerParam.isEmpty)) then
      let s1 := sendParam (setTstate (modIsl s p fun x => { x with runAt := none, longHold := false, firstParam := none }) p 4) p
      .next (if (islOf s1 p).peerParam.isEmpty then s1 else openSession s1 p)
    else .next s

/-- ALIGN_RERUN (R100). -/
def execAlignRerun (p : PortId) (s : State) : Res :=
  match (islOf s p).alignAt with
  | some t => if tstate s p = 3 ∧ t ≤ s.clock then .next (enterAlign s p) else .next s
  | none => .next s

/-- ALIGN_RESULT (R100): the resident chart's status and slips. -/
def execAlignResult (p : PortId) (s : State) : Res :=
  match (islOf s p).alignDone with
  | none => .next s
  | some (st, n) =>
    .next (raiseEvent (modIsl s p fun x => { x with alignDone := none, alignAt := if st ≠ 0 ∧ tstate s p = 3 then some (s.clock + 1000000) else none }) 0x100 p [st, n])

/-- PARAM_RESEND (R101). -/
def execParamResend (p : PortId) (s : State) : Res :=
  if tstate s p = 4 ∧ (islOf s p).peerParam.isEmpty ∧ (islOf s p).lastParam + 10000 ≤ s.clock then .next (sendParam s p) else .next s

/-- PARAM_TIMEOUT (R100): 20 µs after the first PARAM of this entry. -/
def execParamTimeout (p : PortId) (s : State) : Res :=
  match (islOf s p).firstParam with
  | some t => if tstate s p = 4 ∧ (islOf s p).peerParam.isEmpty ∧ t + 20000 ≤ s.clock then
      .next (enterWake (modIsl s p fun x => { x with firstParam := none }) p true) else .next s
  | none => .next s

/-- REOPEN_DEADLINE (R100, R123). -/
def execReopenDeadline (p : PortId) (s : State) : Res :=
  match (islOf s p).deadline with
  | some t => if 2 ≤ tstate s p ∧ tstate s p ≤ 4 ∧ t ≤ s.clock then .next (setTstate (contain s p) p 7) else .next s
  | none => .next s

/-! Timers of an open session. -/

/-- NAK_RESEND (R105). -/
def execNakResend (p : PortId) (s : State) : Res :=
  let x := islOf s p
  if islOpen s p ∧ x.nakCause ≠ 0 ∧ x.nakAt ≤ s.clock ∧ x.txIdle.isNone then .next (sendNak s p) else .next s

/-- ACK_TIMEOUT (R113): replay in guarded mode, REASON 6 in lean mode. -/
def execAckTimeout (p : PortId) (s : State) : Res :=
  let x := islOf s p
  if islOpen s p ∧ !x.store.isEmpty ∧ x.ackAt + 8000 ≤ s.clock then
    .next (if sessFld s p 27 1 = 1 then leaveOpen s p 6 else startReplay s p (seqAdd x.acked 1))
  else .next s

/-- LEAN_QUALIFIED (R108): 1 s of OPEN with RX_LEAN = 0, the pre-FEC byte error ratio of every lane as measured. -/
def execLeanQualified (p : PortId) (ber : Bool) (s : State) : Res :=
  let x := islOf s p
  match x.openAt with
  | some a =>
    if islOpen s p ∧ ber ∧ !x.qualified ∧ 1000000000 ≤ x.goodNs + (s.clock - a) then
      .next (setRxLean (setIsl s p { x with qualified := true }) p)
    else .next s
  | none => .next s

/-- CREDIT_PERIOD (R120). -/
def execCreditPeriod (p : PortId) (s : State) : Res :=
  let x := islOf s p
  if islOpen s p ∧ x.periodAt ≤ s.clock then
    let lowVcs := (List.range 6).filter fun v => decide (smGet 0 x.high v * 2 < smGet 0 x.cap v)
    let s1 := if sessFld s p 23 1 = 1 then s else lowVcs.foldl (fun s v => raiseEvent s 0x103 p [v, smGet 0 x.high v]) s
    let pct := ((List.range 6).map fun v => smGet 0 x.high v * 100 / max 1 (smGet 0 x.cap v)).foldl min 100
    let s2 := setSess (feedGauge s1 3 p pct) p 22 1 (if lowVcs.isEmpty then 0 else 1)
    .next (modIsl s2 p fun x => { x with high := x.credit, low := lowVcs.foldl (fun m v => smSet false m v true) [], periodAt := x.periodAt + 1000000 })
  else .next s

/-! Transmission (R96-R99, R112-R115). -/

/-- The data bytes of a transaction that stand at the egress so far. -/
def dataReady (s : State) (i : Nat) : Nat :=
  let t := txnOf s i
  if t.phase = 4 ∨ !t.cut then t.data.length else min t.data.length (128 * t.arrived)

/-- Whole units ready beyond those sent. -/
def unitsReady (s : State) (o : OpenOut) : Nat :=
  if (txnOf s o.txn).phase = 4 then o.len - o.sent else min (o.len - o.sent) (dataReady s o.txn / 16 - o.sent)

/-- A transaction that may go out: arrived whole, or being cut through. -/
def mayLaunch (p : Nat) (t : Txn) : Bool := t.dst == portEp p && (t.phase == 4 || (t.phase == 2 && t.cut && decide (0 < t.arrived) && !t.bad))

/-- A time message was queued before a transaction took its turn, so that it goes first on the MGMT channel (R115). -/
def timeBefore (x : Isl) (ord : Nat) : Bool := match x.timeTx.head? with | some t => decide (t.stamp ≤ ord) | none => false

/-- The next transaction to begin (R115): the oldest whose VC's credit covers it, order kept within a VC. -/
def nextLaunch (s : State) (p : Nat) : Option Nat :=
  let x := islOf s p
  let f := (txnsWhere s (mayLaunch p)).foldl (fun (a : Option Nat × List Nat) i =>
    match a.1 with
    | some _ => a
    | none =>
      let u := headOf (txnOf s i)
      if a.2.contains u.vc ∨ (u.vc = 5 ∧ timeBefore x (txnOf s i).ord) then a
      else if 1 + u.len ≤ smGet 0 x.credit u.vc then (some i, a.2) else (none, u.vc :: a.2)) (none, [])
  f.1

/-- A transaction's data as it goes over a Trorno link: the unit of SNP_FWD leaves KIND to SUB (Table 8.4). -/
def linkData (t : Txn) : List Byte := if t.cmd = 0x13 then fwdKind t.data 0 else t.data

/-- Units of a transaction's data from number k on, n of them. -/
def dataUnits (s : State) (i k n : Nat) : List (List Byte) := (List.range n).map fun j => slice (linkData (txnOf s i)) (16 * (k + j)) 16

/-- The transaction has left by the link: an answer or a posted request is done, a request or a writeback waits for its answer. -/
def launched (s : State) (p i : Nat) : State :=
  let t := txnOf s i
  let s := countPort s p true t.oc t.len
  if (t.reply ∨ t.posted) ∧ !(awaitsCmp t) then dropTxn s i else setTxn s i { t with phase := 3 }

/-- Debiting a header's cost (R115). -/
def debit (s : State) (p vc cost : Nat) : State := modIsl s p fun x => { x with credit := smMod 0 x.credit vc (· - cost) }

/-- The slots of a folio under construction: (is header, bytes), and the headers begun. -/
structure Pack where
  slots : List (Bool × List Byte) := []
  heads : List (Nat × Nat) := []
  deriving DecidableEq, Repr

/-- A TIME_MARK or TIME_ECHO's units: t1, or t2 and t3, the latter at the launch (R124). -/
def timeUnits (s : State) (t : TimeMsg) : List (Bool × List Byte) :=
  [(true, unitBytes { op := t.op, vc := 5, len := 1, dpid := t.pid, spid := 0xFFF, tag := t.tag, poison := false, bad := false, sub := 0, addr := 0 }),
   (false, if t.op = 0x60 then natBytes 8 s.ts ++ natBytes 8 0 else natBytes 8 t.a ++ natBytes 8 s.ts)]

/-- The time message that may begin: MGMT credit covers it, and no older message of that channel waits (R115). -/
def timeReady (s : State) (p : Nat) : List TimeMsg :=
  let x := islOf s p
  match x.timeTx with
  | [] => []
  | t :: rest =>
    if 2 ≤ smGet 0 x.credit 5 ∧ !((txnsWhere s (mayLaunch p)).any fun i => decide ((txnOf s i).ord < t.stamp) && (headOf (txnOf s i)).vc == 5) then t :: rest else []

/-- Filling the slots that remain with transactions that may begin (R96, R97, R115). -/
def fill (s : State) (p : Nat) (k : Pack) : Nat → State × Pack
  | 0 => (s, k)
  | n + 1 =>
    let x := islOf s p
    let room := 7 - k.slots.length
    match timeReady s p with
    | t :: rest =>
      if 2 ≤ room then
        let s1 := debit (setIsl s p { x with timeTx := rest, t1 := if t.op = 0x60 then s.ts else x.t1 }) p 5 2
        fill s1 p { slots := k.slots ++ timeUnits s t, heads := k.heads ++ [(5, 2)] } n
      else (s, k)
    | [] =>
      match nextLaunch s p with
      | none => (s, k)
      | some i =>
        let u := headOf (txnOf s i)
        let ready := unitsReady s { txn := i, vc := u.vc, len := u.len }
        if 1 + u.len ≤ room ∧ ready = u.len then
          let k1 : Pack := { slots := k.slots ++ (true, unitBytes u) :: (dataUnits s i 0 u.len).map (fun b => (false, b)), heads := k.heads ++ [(u.vc, 1 + u.len)] }
          fill (launched (debit s p u.vc (1 + u.len)) p i) p k1 n
        else if k.slots.isEmpty ∧ 6 < u.len ∧ 6 ≤ ready then
          (modIsl (debit s p u.vc (1 + u.len)) p fun x => { x with opened := some { txn := i, vc := u.vc, len := u.len, sent := 6 } },
           { slots := (true, unitBytes u) :: (dataUnits s i 0 6).map (fun b => (false, b)), heads := [(u.vc, 1 + u.len)] })
        else (s, k)

/-- The new DATA folio of this folio time, if there is anything to put in it. -/
def packFolio (s : State) (p : Nat) : State × Option Pack :=
  let x := islOf s p
  match x.opened with
  | some o =>
    if !(s.txns.any fun e => e.1 == o.txn) ∨ (txnOf s o.txn).bad then
      -- the source failed: END with BAD = 1 in place of the rest (R99)
      let e : Unit := { op := 0xFF, vc := o.vc, len := 0, dpid := 0, spid := 0, tag := 0, poison := false, bad := true, sub := 0, addr := 0 }
      let f := fill (setIsl s p { x with opened := none }) p { slots := [(true, unitBytes e)] } 7
      (f.1, some f.2)
    else
      let n := min 7 (o.len - o.sent)
      if unitsReady s o < n then (s, none)
      else
        let us := (dataUnits s o.txn o.sent n).map fun b => (false, b)
        if o.sent + n = o.len then
          let f := fill (launched (setIsl s p { x with opened := none }) p o.txn) p { slots := us } 7
          (f.1, some f.2)
        else (setIsl s p { x with opened := some { o with sent := o.sent + n } }, some { slots := us })
  | none =>
    let f := fill s p {} 7
    (f.1, if f.2.slots.isEmpty then none else some f.2)

/-- Unacknowledged folios that may be held: 32,768, or the 256 on die while HP1 takes no spill (R112). -/
def storeLimit (s : State) : Nat := if s.boot.hbm then 32768 else 256

/-- Where HP1 holds the spilled folio of a sequence: a ring of 32,768 in the port's 4 MiB (R112, Table 1.8). -/
def spillAddr (p seq : Nat) : Nat := 0x840000000 + p * 0x400000 + seq % 32768 * 128

/-- The newest 256 unacknowledged folios stay on die; the one before them spills to HP1 (R112). -/
def spillOldest (s : State) (p : Nat) : State :=
  let x := islOf s p
  let i := x.store.length - 257
  match x.store[i]? with
  | some f =>
    if x.store.length ≤ 256 ∨ f.spilled then s
    else
      let seq := seqAdd x.acked (i + 1)
      let h : Hdr := { typ := 1, seq := seq, ack := 0, cr := [], smap := f.smap, mode := true, rxl := false }
      hbmWrite (setIsl s p { x with store := x.store.set i { f with body := [], spilled := true } }) (spillAddr p seq) (folioBytes h f.body)
  | none => s

/-- The slots of a stored folio: on die, or read back from HP1. -/
def storedBody (s : State) (p seq : Nat) (f : TxFolio) : List Byte := if f.spilled then hbmRead s (spillAddr p seq + 8) 112 else f.body

/-- A packed folio leaves as new DATA and is kept for replay. -/
def launchNew (s : State) (p : Nat) (k : Pack) : State :=
  let slots := k.slots ++ List.replicate (7 - k.slots.length) (true, natBytes 16 0)
  let smap := sumOf (((List.range 7).zip slots).map fun e => if e.2.1 then 2 ^ e.1 else 0)
  let body := slots.flatMap (·.2)
  let x := islOf s p
  let s := setIsl s p { x with store := x.store ++ [{ smap := smap, body := body, heads := k.heads }], next := seqAdd x.next 1,
                               ackAt := if x.store.isEmpty then s.clock else x.ackAt }
  launch (spillOldest s p) p 1 x.next smap (txLean s p) body

/-- Nothing but NULL to send, nothing unacknowledged, ACCEPT and every return sent (R121). -/
def nothingDue (s : State) (p : Nat) : Bool :=
  let x := islOf s p
  x.store.isEmpty && x.rply.isNone && x.opened.isNone && x.timeTx.isEmpty && x.nakCause == 0 && x.ackSent == x.accept &&
  ((List.range 6).all fun v => returns s p v == 0) && (nextLaunch s p).isNone

/-- FOLIO_TRANSMIT (R100, R101, R112-R115): RPLY, then the replayed folios, then new DATA, else NULL. -/
def execFolioTransmit (p : PortId) (s : State) : Res :=
  let x := islOf s p
  if !(fabricRuns s) ∨ roleOf s p ≠ 3 ∨ x.txIdle.isSome then .next s
  else if tstate s p = 4 then .next (launchPlain s p 0 [])
  else if !(islOpen s p) then .next s
  else
    let s1 := match x.rply, x.replay with
      | some a, _ => count (launchPlain (setIsl s p { x with rply := none }) p 4 (natBytes 4 a)) (portCtr p 11) 1
      | none, some i =>
        match x.store[i]? with
        | some f => launch (setIsl s p { x with replay := if i + 1 < x.store.length then some (i + 1) else none }) p 1 (seqAdd x.acked (i + 1)) f.smap (txLean s p)
            (storedBody s p (seqAdd x.acked (i + 1)) f)
        | none => setIsl s p { x with replay := none }
      | none, none =>
        if storeLimit s ≤ x.store.length then launchPlain s p 0 []
        else
          let k := packFolio s p
          match k.2 with
          | some pk => launchNew k.1 p pk
          | none => launchPlain k.1 p 0 []
    .next (modIsl s1 p fun y => { y with quiet := if nothingDue s1 p then some (y.quiet.getD s.clock) else none })

/-! Electrical idle (R76, R77, R121). -/

/-- IDLE_ENTRY (R121). -/
def execIdleEntry (p : PortId) (s : State) : Res :=
  match (islOf s p).quiet with
  | some q =>
    if roleOf s p = 3 ∧ islOpen s p ∧ tabFld s 0x01 p 14 1 = 1 ∧ (islOf s p).txIdle.isNone ∧ q + 2000 ≤ s.clock ∧ nothingDue s p then
      .next (lowBegin (setTstate (modIsl (stopStream (launchPlain s p 5 []) p) p fun x => { x with txIdle := some s.clock, quiet := none }) p 6) p)
    else .next s
  | none => .next s

/-- The idle transmitter sends its burst: 4 markers after at most 100 ms, else 64 (R76). -/
def leaveIdle (s : State) (p : Nat) : State :=
  match (islOf s p).txIdle with
  | some t => lowEnd (setTstate (emit (modIsl s p fun x => { x with txIdle := none }) (.link p 2 (if s.clock ≤ t + 100000000 then 4 else 64))) p 5) p
  | none => s

/-- IDLE_EXIT_REQUEST (R121). -/
def execIdleExitRequest (p : PortId) (s : State) : Res :=
  if islOpen s p ∧ (islOf s p).txIdle.isSome ∧ !(nothingDue s p) then .next (leaveIdle s p) else .next s

/-- BURST_RECEIVED (R77, R100): the peer's direction leaves idle, and this one with it. -/
def execBurstReceived (p : PortId) (s : State) : Res :=
  if islOpen s p ∧ (islOf s p).rxIdle then
    .next (leaveIdle (modIsl (restartRx s p) p fun x => { x with rxIdle := false, rxExit := some s.clock }) p)
  else .next s

/-- IDLE_EXIT_FAILURE (R121): no folio symbol accepted within 1 µs of the exit. -/
def execIdleExitFailure (p : PortId) (s : State) : Res :=
  match (islOf s p).rxExit with
  | some t => if islOpen s p ∧ t + 1000 ≤ s.clock then .next (leaveOpen s p 5) else .next s
  | none => .next s

/-! Time (R124). -/

/-- TIME_MARK_SEND: at each opening and every 1 ms, by the child. -/
def execTimeMarkSend (p : PortId) (s : State) : Res :=
  let x := islOf s p
  if tabFld s 0x0C 0 8 7 = p ∧ islOpen s p ∧ x.markAt ≤ s.clock then
    .next (setIsl s p { x with timeTx := x.timeTx ++ [{ op := 0x60, pid := 0xFFF, tag := x.markTag, arrived := 0, stamp := s.nextTxn }], markTag := (x.markTag + 1) % 65536, markAt := s.clock + 1000000 })
  else .next s

/-- TIME_MARK: the parent answers with t2, and t3 at the launch. -/
def execTimeMark (p : PortId) (s : State) : Res :=
  let x := islOf s p
  match takeFirst (fun t : TimeMsg => t.op == 0x60) x.timeRx with
  | some (t, rest) => .next (setIsl s p { x with timeRx := rest, timeTx := x.timeTx ++ [{ op := 0x61, pid := t.pid, tag := t.tag, a := t.arrived, arrived := 0, stamp := s.nextTxn }] })
  | none => .next s

/-- TIME_ECHO. DESIGN CHOICE (log 94): TAG is not compared, and t1 is that of the last TIME_MARK launched. The offset ((t2 − t1) − (t4 − t3)) / 2 steps TS forward at an opening if positive, and is slewed out otherwise. -/
def execTimeEcho (p : PortId) (s : State) : Res :=
  let x := islOf s p
  match takeFirst (fun t : TimeMsg => t.op == 0x61) x.timeRx with
  | none => .next s
  | some (t, rest) =>
    let off : Int := (((t.a : Int) - x.t1) - ((t.arrived : Int) - t.b)) / 2
    let s1 := setIsl s p { x with timeRx := rest, stepDue := false }
    if tabFld s 0x0C 0 8 7 ≠ p then .next s1
    else if x.stepDue then
      let s2 := raiseEvent s1 0x580 p [(wordOfInt off).toNat]
      .next (if 0 < off then { s2 with ts := s2.ts + off.toNat, tsync := { s2.tsync with slew := 0 } } else { s2 with tsync := { s2.tsync with slew := off } })
    else .next { s1 with tsync := { s1.tsync with slew := off } }

end Sys2Proof.Machine
end

