-- ==== Sys2Proof/Machine/Lanes.lean ====
section
/-! DEFINITION. Lanes and their macros, and the PORT and ISL macros (R68-R89, R283, R288). -/
namespace Sys2Proof.Machine

/-! The pattern checker (R72, R86). -/

/-- Saturating addition to a 48-bit count of a lane's status. -/
def laneCount (s : State) (l lo n : Nat) : State := setLive s 0x04 l lo 48 (min (2 ^ 48 - 1) (tabFld s 0x04 l lo 48 + n))

/-- What a locked checker has compared is added up, with errors that it found. -/
def checkerCount (s : State) (l errs : Nat) : State :=
  let x := laneOf s l
  if x.lockAt = 0 then s
  else setLane (laneCount (laneCount s l 80 (checkerBits s l)) l 32 errs) l { x with lockAt := s.clock + 1 }

/-- The errors of a window of the lane's pattern (R86): the own generator's under near-end loopback, which sends them unaltered where it runs (R88). -/
def windowErrors (s : State) (l : Nat) (rx : List Level) : Option Nat :=
  let pat := tabFld s 0x03 l 16 4
  if tabFld s 0x03 l 12 2 = 1 then (if tabFld s 0x03 l 15 1 = 1 ∧ patDegree pat ≠ 0 then some 0 else none)
  else patErrors pat (symbolBits (isPam4 (tabFld s 0x03 l 52 4)) (if laneBit s l 5 then rx.map invertLevel else rx))

/-- What a lane receives goes out again under far-end and PCS loopback (R88). -/
def loopBack (s : State) (l : Nat) (rx : List Level) : State :=
  if 2 ≤ tabFld s 0x03 l 12 2 then emit s (.lane l 2 rx) else s

/-- CHK_LOCK (R86): 256 bits without error lock the checker; while it is locked, the errors of a window are counted. -/
def execChkLock (l : LaneId) (rx : List Level) (s : State) : Res :=
  if tabFld s 0x03 l 14 1 = 0 then .next s
  else
    let s1 := loopBack s l rx
    match windowErrors s l rx with
    | none => .next s1
    | some n =>
      if laneBit s l 3 then .next (if n ≤ 32 then checkerCount s1 l n else s1)
      else if n = 0 then .next (setLane (setLaneBit s1 3 true l) l { laneOf s1 l with lockAt := s.clock + 1 })
      else .next s1

/-- LOCK_LOSS (R86): more than 32 of 256 bits in error. -/
def execLockLoss (l : LaneId) (rx : List Level) (s : State) : Res :=
  match windowErrors s l rx with
  | none => .next s
  | some n =>
    if laneBit s l 3 ∧ 32 < n then
      let s1 := setLaneBit (checkerCount (loopBack s l rx) l n) 3 false l
      .next (setLane (setLive s1 0x04 l 16 16 (min 65535 (tabFld s1 0x04 l 16 16 + 1))) l { laneOf s1 l with lockAt := 0 })
    else .next s

/-! The generator and the transmitter in a lane test (R83, R85, R87, R88). -/

/-- A lane of a disabled port sends its generator's pattern, at TEST_RATE, the first 256 bits of which are recorded; under near-end loopback, and
without its generator, it stays in electrical idle (R83, R88). The register's first value is free, but never zero, for a PRBS pattern (log 93). -/
def laneDrives (s : State) (l : Nat) : State :=
  let v := tabVal s 0x03 l
  let pat := fld v 16 4
  let d := patDegree pat
  if fld v 15 1 = 0 ∨ fld v 12 2 = 1 ∨ d = 0 then emit s (.lane l 0 [])
  else
    let seed := if pat = 8 then markerWord else 1 + (Config.freeValue s.freeCtr).toNat % (2 ^ d - 1)
    let bits := patBits (patTaps pat) seed 256
    let m := injectMask (tick s) l (if isPam4 (fld v 52 4) then 128 else 64) 256
    emit (setLane m.1 l { laneOf m.1 l with gen := patReg (bits.drop (256 - d)) }) (.lane l 1 (symbolsOf (isPam4 (fld v 52 4)) (invertBits bits m.2)))

/-- Injection into the live traffic of a CXL or PCIe port: the bits it inverts. An ISL port's codewords carry theirs (R87). -/
def laneInjects (s : State) (l : Nat) : State :=
  let m := injectMask s l 128 256
  if m.2.isEmpty then s else emit m.1 (.inverted l m.2)

/-- A lane entry's settings take effect (R72, R79, R83, R87): the change of CHK_EN, the committed boundary, the transmitter, a due injection. The checker
counts up to the COMMIT at the rate in force before it. DESIGN CHOICE (log 93): CHK_LOCK falls with CHK_EN. -/
def laneFlip (s : State) (l : Nat) (old mask : Entry) : State :=
  let v := tabVal s 0x03 l
  let x := laneOf s l
  let ran := if x.lockAt = 0 then 0 else (s.clock + 1 - x.lockAt) * rateBits (fld old 52 4) / 10
  let s := if x.lockAt = 0 then s else setLane (laneCount s l 80 ran) l { x with lockAt := s.clock + 1 }
  let s := if fld old 14 1 = 0 ∧ fld v 14 1 = 1 then setLive (setLive (setLive s 0x04 l 80 48 0) 0x04 l 32 48 0) 0x04 l 16 16 0
    else if fld old 14 1 = 1 ∧ fld v 14 1 = 0 then
      let s := setLaneBit s 3 false l
      setLane s l { laneOf s l with lockAt := 0 }
    else s
  let s := if mask &&& ones 45 7 ≠ 0 then setLaneBit s 4 false l else s
  let s := if mask &&& ones 45 6 ≠ 0 then setLane s l { laneOf s l with bound := fld v 45 6 } else s
  let s := if fld v 10 2 = 1 ∨ fld v 10 2 = 2 then setLane s l { laneOf s l with inject := true } else s
  match (lanePort s l).map (roleOf s) with
  | some 3 => s
  | some 0 => if fld old 15 1 = 1 ∨ fld v 15 1 = 1 then laneDrives s l else s
  | some _ => laneInjects s l
  | none => s

/-! Drafting lane settings. -/

/-- Injection into live traffic needs Fabric tier (R87). -/
def injectDenied (s : State) (x : Engine) (l : Nat) (v mask : Entry) : Bool :=
  decide (x.tier < 2) && mask &&& ones 10 2 != 0 && fld v 10 2 != 0 && (match lanePort s l with | some p => roleOf s p != 0 | none => false)

/-- LANE.SET's drafts, lane by lane. -/
def laneDrafts (s : State) (e : Nat) (x : Engine) (v m : Entry) : List Nat → Nat × State × Engine
  | [] => (0, s, x)
  | l :: ls =>
    if !(tapsOk (merge (seenVal s x 0x03 l) v m)) then (6, s, x)
    else if injectDenied s x l v m then (1, s, x)
    else
      let d := draftMasked s e x 0x03 l v m
      if d.1 ≠ 0 then d else laneDrafts d.2.1 e d.2.2 v m ls

/-- LANE.SET. -/
def execLaneSet (e : EngineId) (s : State) : Res :=
  .next (macroOp s e 0x50 [rowBits [(8, 0), (21, 16)], tabWordMask 0x03 0, allBits] 0 (.tile tileOfLane0) fun s x b =>
    let l := wfld (b 0) 0 9
    let n := wfld (b 0) 16 6
    if n = 0 ∨ 32 < n ∨ l / 32 ≠ (l + n - 1) / 32 ∨ !(maskWhole 0x03 (entryOfWords [b 2])) then (6, s, x)
    else if 384 ≤ l then (5, s, x)
    else laneDrafts s e x (entryOfWords [b 1]) (entryOfWords [b 2]) ((List.range n).map (l + ·)))

/-- The lane's port is an ISL in the alignment step (R79). -/
def laneAligns (s : State) (l : Nat) : Option Nat :=
  match lanePort s l with
  | some p => if roleOf s p = 3 ∧ tstate s p = 3 then some p else none
  | none => none

/-- The live boundary after n shifts. -/
def slipped (s : State) (l n : Nat) : State := setLane s l { laneOf s l with bound := ((laneOf s l).bound + n) % 64 }

/-- The marker checks at the lane's live boundary, of the symbols it receives from boundary 0 on (R79). -/
def markerChecks (s : State) (l : Nat) (rx : List Level) : Bool :=
  markerAt (if laneBit s l 5 then rx.map invertLevel else rx) (laneOf s l).bound

/-- LANE.SLIP (R79). -/
def execLaneSlip (e : EngineId) (rx : List Level) (s : State) : Res :=
  .next (macroOp s e 0x51 [rowBits [(8, 0)]] 0 (.tile tileOfLane0) fun s x b =>
    let l := wfld (b 0) 0 9
    if 384 ≤ l then (5, s, x)
    else if (laneAligns s l).isNone then (6, s, x)
    else if !(laneBit s l 2) then (3, s, x)
    else if reservedElsewhere s e (tkey 0x03 l) then (2, s, x)
    else
      let s := slipped s l 1
      (0, s, regSet (regSet x 1 (if markerChecks s l rx then 1 else 0)) 2 (BitVec.ofNat 64 (laneOf s l).bound)))

/-- LANE.ALIGN's drafts: the found boundary of each lane. -/
def alignDrafts (s : State) (e : Nat) (x : Engine) : List Nat → Nat × State × Engine
  | [] => (0, s, x)
  | l :: ls =>
    let d := draft s e x 0x03 l (mkEntry [(45, (laneOf s l).bound), (51, 1)]) (ones 45 7)
    if d.1 ≠ 0 then d else alignDrafts d.2.1 e d.2.2 ls

/-- The slips after which a lane's marker first checks, 63 at most (R80). -/
def searchLane (s : State) (l : Nat) (rx : List Level) : Option Nat := findFrom (fun n => markerChecks (slipped s l n) l rx) 0 64

/-- LANE.ALIGN (R80). DESIGN CHOICE (log 93): a lane without a boundary does not end the search of the others, and all slips count in G1. -/
def execLaneAlign (e : EngineId) (rx : List (List Level)) (s : State) : Res :=
  .next (macroOp s e 0x52 [rowBits [(6, 0)]] 0 (.tile tileOfPort0) fun s x b =>
    let p := wfld (b 0) 0 7
    let ls := portLanes s p
    if !(portExists s p) then (5, s, x)
    else if roleOf s p ≠ 3 ∨ tstate s p ≠ 3 then (6, s, x)
    else if !(cdrAll s p) then (3, s, x)
    else if ls.any fun l => reservedElsewhere s e (tkey 0x03 l) then (2, s, x)
    else
      let found := (ls.zip (rx ++ List.replicate (ls.length - rx.length) [])).map fun h => (h.1, searchLane s h.1 h.2)
      let slips := found.map fun h => h.2.getD 63
      let s := found.foldl (fun s h => slipped s h.1 (h.2.getD 63)) s
      let x := regSet x 1 (BitVec.ofNat 64 (sumOf slips))
      if found.any fun h => h.2.isNone then (7, s, x) else alignDrafts s e x ls)

/-- The rate at which a lane runs: its port's current rate, or TEST_RATE where the port is disabled (Table 3.2). -/
def laneRate (s : State) (l : Nat) : Nat :=
  match lanePort s l with
  | some p => if roleOf s p = 0 then tabFld s 0x03 l 52 4 else tabFld s 0x02 p 6 4
  | none => tabFld s 0x03 l 52 4

/-- Four 16-bit counts to a word, 2,048 words (R89). -/
def eyeWords (errs : List Nat) : List Word :=
  (List.range 2048).map fun k => BitVec.ofNat 64
    (min 65535 (nth 0 errs (4 * k)) + min 65535 (nth 0 errs (4 * k + 1)) * 2 ^ 16 + min 65535 (nth 0 errs (4 * k + 2)) * 2 ^ 32 +
     min 65535 (nth 0 errs (4 * k + 3)) * 2 ^ 48)

/-- LANE.EYE (R89). -/
def execLaneEye (e : EngineId) (errs : List Nat) (s : State) : Res :=
  .next (macroOp s e 0x53 [rowBits [(8, 0), (10, 9), (20, 16)], rowBits [(15, 0)]] 0 (.tile tileOfLane0) fun s x b =>
    let l := wfld (b 0) 0 9
    let eye := wfld (b 0) 9 2
    let k := wfld (b 0) 16 5
    let off := wfld (b 1) 0 16
    if eye = 3 ∨ k < 10 ∨ 30 < k ∨ off % 8 ≠ 0 ∨ off < 0x8000 ∨ 0xC000 < off then (6, s, x)
    else if 384 ≤ l then (5, s, x)
    else if (laneRate s l ≤ 4 ∧ eye ≠ 1) then (6, s, x)
    else if claimCheck s x.sub (132 + l / 4) ≠ 0 then (claimCheck s x.sub (132 + l / 4), s, x)
    else (0, s, setData x (areaWord off) (eyeWords errs)))

/-- LANE.STAT. -/
def execLaneStat (e : EngineId) (s : State) : Res :=
  .next (macroOp s e 0x54 [rowBits [(8, 0)]] 0 (.tile tileOfLane0) fun s x b =>
    let l := wfld (b 0) 0 9
    if 384 ≤ l then (5, s, x)
    else (0, s, regSet (regSet x 1 (entryWord (laneShown s l) 0)) 2 (entryWord (laneShown s l) 1)))

/-! PORT and ISL macros (R288). -/

/-- PORT.CONFIG. -/
def execPortConfig (e : EngineId) (s : State) : Res :=
  .next (macroOp s e 0x40 [rowBits [(6, 0)], tabWordMask 0x01 0, allBits] 0 (.tile tileOfPort0) fun s x b =>
    let p := wfld (b 0) 0 7
    if maskWhole 0x01 (entryOfWords [b 2]) ∧ !(portExists s p) then (5, s, x) else draftMasked s e x 0x01 p (entryOfWords [b 1]) (entryOfWords [b 2]))

/-- Directing a link to Recovery. -/
def toRecovery (s : State) (p : Nat) : State := count (lowEnd (setL0p (setLive s 0x02 p 0 6 0x06) p 0) p) (portCtr p 12) 1

/-- PORT.RETRAIN. -/
def execPortRetrain (e : EngineId) (s : State) : Res :=
  .next (macroOp s e 0x41 [rowBits [(6, 0)]] 0 (.tile tileOfPort0) fun s x b =>
    let p := wfld (b 0) 0 7
    if !(portExists s p) then (5, s, x)
    else if roleOf s p = 3 ∨ roleOf s p = 0 then (6, s, x)
    else if tabFld s 0x02 p 0 6 ≠ 0x0B then (3, s, x)
    else (0, emit (toRecovery s p) (.link p 6 0), x))

/-- PORT.STATUS. -/
def execPortStatus (e : EngineId) (s : State) : Res :=
  .next (macroRead s e 0x42 [rowBits [(6, 0)]] (.tile tileOfPort0) fun s x b =>
    let p := wfld (b 0) 0 7
    if !(portExists s p) then (5, x)
    else if !(mayActOn s x p) then (1, x)
    else (0, regSet (regSet x 1 (entryWord (tabVal s 0x02 p) 0)) 2 (if roleOf s p = 3 then entryWord (tabVal s 0x05 p) 0 else 0)))

/-- ISL.RETRAIN. -/
def execIslRetrain (e : EngineId) (s : State) : Res :=
  .next (macroOp s e 0x58 [rowBits [(6, 0)]] 0 (.tile tileOfPort0) fun s x b =>
    let p := wfld (b 0) 0 7
    if !(portExists s p) then (5, s, x)
    else if roleOf s p ≠ 3 then (6, s, x)
    else if !(islOpen s p) then (3, s, x)
    else (0, leaveOpen s p 4, regSet x 1 (BitVec.ofNat 64 (sessFld s p 0 8))))

/-- ISL.CHIP. -/
def execIslChip (e : EngineId) (s : State) : Res :=
  .next (macroOp s e 0x59 [tabWordMask 0x0C 0] 0 .glob fun s x b => ruledWhole s e x 0x0C 0 (entryOfWords [b 0]))

end Sys2Proof.Machine
end

