-- ==== Sys2Proof/Machine/ChartMem.lean ====
section
/-! DEFINITION. Submitter memory: the path and the check of an access, HLD, HST, HGET, HPUT (R37, R275, R276). -/
namespace Sys2Proof.Machine

/-- The check of an access of n bytes at address a by a chart's master (R37, R267, R276): its status, and the state after what a denial records.
A core address outside the map is ABSENT to a read and DENIED to a write. -/
def memCheck (s : State) (x : Engine) (a n : Nat) (wr : Bool) : Nat × State :=
  if x.subReset then (1, s)
  else match subPath s x.sub x.master a n with
    | .none => (1, s)
    | .ext m sp q => fenceCheck s m ⟨sp, q, n, !wr, wr⟩
    | .hbm _ => (0, s)
    | .regs _ => (0, s)
    | .outside => (if wr then 1 else 5, s)

/-- The words of an access that does not leave the device, none for one whose answer comes from outside. -/
def memLocal (s : State) (x : Engine) (a n : Nat) : Option (List Word × State) :=
  match subPath s x.sub x.master a (8 * n) with
  | .hbm h => some (bytesWords (hbmRead s h (8 * n)) n, s)
  | .regs o => let r := stewLoad s o (8 * n); some (bytesWords r.1 n, r.2)
  | _ => none

/-- Asking the master's path for the words of a read; the requests bear the chart's serial number. -/
def memAsk (s : State) (e : Nat) (x : Engine) (a n : Nat) : State :=
  match subPath s x.sub x.master a (8 * n) with
  | .ext m sp q => (pieces 0 q (8 * n) (n / 512 + 2)).foldl (fun s c =>
      sendOut s (engineEp e) (accessPort m sp q) 0 (subFlow s x.sub) c.2.2 false x.serial (.hostRead e m c.2.1 (c.2.2 / 8))) s
  | _ => s

/-- A posted write of words; it reaches submitter memory in issue order. -/
def memStore (s : State) (e : Nat) (x : Engine) (a : Nat) (bs : List Byte) : State :=
  match subPath s x.sub x.master a bs.length with
  | .ext m sp q => (pieces 0 q bs.length (bs.length / 4096 + 2)).foldl (fun s c =>
      sendOut s (engineEp e) (accessPort m sp q) 0 (subFlow s x.sub) c.2.2 true 0 (.hostWrite m c.2.1 (slice bs c.1 c.2.2))) s
  | .hbm h => hbmWrite s h bs
  | .regs o => stewStore s o bs
  | _ => s

/-- HLD: 8 bytes of submitter memory. -/
def execHld (e : EngineId) (s : State) : Res :=
  .next (onOp s e 0x22 fun s x w =>
    let a := memAddr x w
    if a % 8 ≠ 0 then finish s e x 8
    else
      let c := memCheck s x a 8 false
      if c.1 ≠ 0 then finish c.2 e x c.1
      else match memLocal c.2 x a 1 with
        | some (ws, s) => finish s e (regSet x (gdOf w) (nth 0 ws 0)) 0
        | none => setEngine (memAsk c.2 e x a 1) e { x with wait := .hld (gdOf w) })

/-- HST: 8 bytes, posted. -/
def execHst (e : EngineId) (s : State) : Res :=
  .next (onOp s e 0x23 fun s x w =>
    let a := memAddr x w
    if a % 8 ≠ 0 then finish s e x 8
    else
      let c := memCheck s x a 8 true
      if c.1 ≠ 0 then finish c.2 e x c.1 else finish (memStore c.2 e x a (wordBytes (opB x w))) e x 0)

/-- The checks of HGET and HPUT before the fence's, in the order of R276: alignment, count, chart-memory span. -/
def blockMove (x : Engine) (w : Word) : Nat :=
  let a := (opA x w).toNat
  let g := (regGet x (gdOf w)).toNat
  let n := (opB x w).toNat
  if a % 8 ≠ 0 ∨ g % 8 ≠ 0 then 8 else if n < 1 ∨ 4096 < n then 6 else if !(spanOk g n) then 8 else 0

/-- HGET: GB words from submitter memory. -/
def execHget (e : EngineId) (s : State) : Res :=
  .next (onOp s e 0x24 fun s x w =>
    let a := (opA x w).toNat
    let n := (opB x w).toNat
    let off := areaWord (regGet x (gdOf w)).toNat
    if blockMove x w ≠ 0 then finish s e x (blockMove x w)
    else
      let c := memCheck s x a (8 * n) false
      if c.1 ≠ 0 then finish c.2 e x c.1
      else match memLocal c.2 x a n with
        | some (ws, s) => finish s e (setData x off ws) 0
        | none => setEngine (memAsk c.2 e x a n) e { x with wait := .hget off n })

/-- HPUT: GB words to submitter memory, posted. ue: a word of chart memory holds an uncorrectable error (R252: FAULT). -/
def execHput (e : EngineId) (ue : Bool) (s : State) : Res :=
  .next (onOp s e 0x25 fun s x w =>
    let a := (opA x w).toNat
    let n := (opB x w).toNat
    let off := areaWord (regGet x (gdOf w)).toNat
    if blockMove x w ≠ 0 then finish s e x (blockMove x w)
    else
      let c := memCheck s x a (8 * n) true
      if c.1 ≠ 0 then finish c.2 e x c.1
      else if ue then finish c.2 e x 8
      else finish (memStore c.2 e x a (wordsBytes ((List.range n).map fun i => dataWord x (off + i)))) e x 0)

end Sys2Proof.Machine
end

