-- ==== Sys2Proof/Machine/Service.lean ====
section
/-! DEFINITION. Virtual functions and resets, doorbells and registers, migration (R264, R332-R344, R351-R360, R440). -/
namespace Sys2Proof.Machine

/-! The release of claims (R264, R402). -/

/-- Releasing claims: the entries are free, the pins of released GPIOs let go, released timers stop and return to reset as one device update. -/
def releaseClaims (s : State) (is : List Nat) : State :=
  let ts := (is.filter fun i => decide (48 ≤ i ∧ i < 112)).map (· - 48)
  let pins := is.filter (· < 48)
  let letGo := (listed s 0x32).filter fun t => pins.contains (tabFld s 0x32 t 18 6)
  let s := { s with claims := is.foldl (fun m i => smSet 0xFFFF m i 0xFFFF) s.claims,
                    timers := (ts.foldl (fun m t => smSet {} m t {}) (letGo.foldl (fun m t => smMod {} m t fun l => { l with driving := false, pulseEnd := none }) s.timers)) }
  deviceUpdate s ((ts.filter fun t => tabVal s 0x32 t != tabReset 0x32 t).map fun t => (0x32, t, tabReset 0x32 t))

/-- The claims of a submitter that a reset of it releases: those without PERM. -/
def claimsOf (s : State) (sub : Nat) : List Nat := (s.claims.filter fun e => e.2 == sub).map (·.1)

/-- The charts of a submitter that run while it is reset: their later accesses are DENIED and their records unwritten (R267). -/
def subWasReset (s : State) (sub : Nat) : State :=
  (List.range 16).foldl (fun s e =>
    if !(engineIdle (engineOf s e)) && (engineOf s e).sub == sub then setEngine s e { engineOf s e with subReset := true } else s) s

/-- The rings of a function whose EN = 1, with EN = 0. -/
def ringsOff (s : State) (f : Nat) : List (Nat × Nat × Entry) :=
  ((List.range (fnRings s f).2).map ((fnRings s f).1 + ·)).filterMap fun r =>
    if tabFld s 0x30 r 100 1 = 1 then some (0x30, r, setFld (tabVal s 0x30 r) 100 1 0) else none

/-- A function's event queue is disabled. -/
def queueOff (s : State) (q : Nat) : State := setEq s q { eqOf s q with enable := false }

/-- GEN advances, modulo 16 (R337). -/
def genUp (s : State) (f : Nat) : State := setLive s 0x3D f 4 4 (funcGen s f + 1)

/-! The reset of a VF (R358, R360). -/

/-- Descriptors of a submitter stop at their next line; a chart that waits for one finds it DENIED (R267). -/
def stopDescs (s : State) (sub : Nat) : State :=
  let mine := fun (d : Desc) => d.sub == sub && !d.known
  { s with svc := { s.svc with
      descs := s.svc.descs.map fun d =>
        if mine d.2 then
          (d.1, { d.2 with known := true, stopped := false, status := 1, res1 := BitVec.ofNat 64 d.2.progress, res2 := BitVec.ofNat 64 d.2.progress })
        else d
      landed := s.svc.landed.filter fun a => !(s.svc.descs.any fun d => mine d.2 && d.2.mover == some a.mover) } }

/-- A VF reset. -/
def vfReset (s : State) (v : Nat) : State :=
  if funcState s v = 0 then s
  else
    let s := (frostWaiters s v).foldl (fun s e => finish s e (engineOf s e) 3) s
    let s := subWasReset (stopDescs s v) v
    let s := queueOff (deviceUpdate s (ringsOff s v)) v
    let s := { s with svc := { s.svc with msix := smSet {} s.svc.msix v {}, frozen := smSet {} s.svc.frozen v {} },
                      ev := { s.ev with store := s.ev.store.filter fun r => r.queue != v } }
    setLive (genUp (releaseClaims s (claimsOf s v)) v) 0x3D v 0 4 1

/-- The VFs of a USP. -/
def vfsOf (s : State) (u : Nat) : List Nat := (List.range (funcFld s (2048 + u) 59 9)).map (funcFld s (2048 + u) 68 12 + ·)

/-- The fields of PF0's entry that VF.ENABLE drafts: FIRST_VF, NUM_VF, FIRST_RING, NRINGS, USP. -/
def pfMask : Entry := ones 68 12 ||| ones 59 9 ||| ones 36 12 ||| ones 32 4 ||| ones 16 7

/-- PF0's entry with a run of VFs. -/
def pfEntry (u first n : Nat) : Entry := mkEntry [(68, first), (59, n), (36, 16 + 8 * u), (32, 8), (16, u)]

/-- The entries that disabling the VFs of a USP writes: GEN stays, STATE is DISABLED. -/
def vfsOffEntries (s : State) (u : Nat) : List (Nat × Nat × Entry) :=
  if funcFld s (2048 + u) 59 9 = 0 then []
  else (0x3D, 2048 + u, merge (tabVal s 0x3D (2048 + u)) (pfEntry u 0 0) pfMask) ::
    (vfsOf s u).map fun v => (0x3D, v, setFld (merge (tabVal s 0x3D v) (tabReset 0x3D v) (draftable 0x3D)) 0 4 0)

/-- A PF0 reset (R359): an FLR of PF0, or a hot reset or loss of its USP. -/
def pfReset (s : State) (u : Nat) : State :=
  let sub := 0x2000 + u
  let s := (vfsOf s u).foldl vfReset s
  let s := subWasReset (stopDescs s sub) sub
  let s := deviceUpdate s (vfsOffEntries s u ++ ringsOff s (2048 + u))
  let s := { s with svc := { s.svc with pf := smMod {} s.svc.pf u fun c => { c with vfEnable := false, numVfs := 0 } } }
  genUp (releaseClaims (queueOff s (2048 + u)) (claimsOf s sub)) (2048 + u)

/-! VF.ENABLE (R333, R334, R336). -/

/-- The span [a, a + n) meets no taken run. -/
def runFree (taken : List (Nat × Nat)) (a n : Nat) : Bool := taken.all fun t => decide (a + n ≤ t.1 ∨ t.1 + t.2 ≤ a)

/-- The least element of a list. -/
def leastOf : List Nat → Option Nat
  | [] => none
  | x :: xs => match leastOf xs with
    | none => some x
    | some y => some (min x y)

/-- The lowest-numbered run of n consecutive free numbers in [lo, hi): it begins at lo or at the end of a taken run. -/
def lowestRun (taken : List (Nat × Nat)) (lo hi n : Nat) : Option Nat :=
  if n = 0 then some lo
  else leastOf ((lo :: taken.map fun t => t.1 + t.2).filter fun a => decide (lo ≤ a ∧ a + n ≤ hi) && runFree taken a n)

/-- The drafts that give a USP n VFs of r rings each: their status, and the entries with the bits they name. -/
def vfEnableDrafts (s : State) (x : Engine) (u n r : Nat) : Nat × List (Nat × Nat × Entry × Entry) :=
  let see (f lo w : Nat) := fld (seenVal s x 0x3D f) lo w
  let pf := 2048 + u
  let cur := see pf 59 9
  let first := see pf 68 12
  let mine := (List.range cur).map (first + ·)
  if 256 < n ∨ r = 0 ∨ 8 < r then (6, [])
  else if !(portExists s u) then (5, [])
  else if fld (seenVal s x 0x01 u) 0 3 ≠ 1 then (6, [])
  else if n = cur ∧ (n = 0 ∨ see first 32 4 = r) then (0, [])
  else if mine.any fun v => decide (funcState s v ≠ 1) || !(ringsOff s v).isEmpty then (2, [])
  else
    let others := (List.range 96).filter fun p => p != u && see (2048 + p) 59 9 != 0
    let vfs := others.map fun p => (see (2048 + p) 68 12, see (2048 + p) 59 9)
    let rings := others.map fun p => let v := see (2048 + p) 68 12; (see v 36 12, see v 32 4 * see (2048 + p) 59 9)
    match lowestRun vfs 0 2048 n, lowestRun rings 784 4096 (n * r) with
    | some v0, some r0 =>
      let new (v : Nat) : Bool := decide (v0 ≤ v ∧ v < v0 + n)
      (0, (0x3D, pf, pfEntry u (if n = 0 then 0 else v0) n, pfMask) ::
          ((mine.filter fun v => !(new v)).map fun v => (0x3D, v, tabReset 0x3D v, draftable 0x3D)) ++
          (List.range n).map fun k => (0x3D, v0 + k, merge (tabReset 0x3D 0) (mkEntry [(36, r0 + k * r), (32, r), (23, k + 1), (16, u)]) (ones 36 12 ||| ones 32 4 ||| ones 23 9 ||| ones 16 7),
                                       draftable 0x3D))
    | _, _ => (4, [])

/-- The entries beside its own that VF.ENABLE reads (R27): the USP's ROLE, and the VFs and rings that the other USPs hold. -/
def vfReads (s : State) (u : Nat) : List (Nat × Nat) :=
  let others := (List.range 96).filter fun p => p != u && portExists s p
  (0x01, u) :: (others.map fun p => (0x3D, 2048 + p)) ++ others.map fun p => (0x3D, tabFld s 0x3D (2048 + p) 68 12)

/-- Entering drafts that a rule of the device's own places, whatever the engine's scope. -/
def draftsAny (s : State) (e : Nat) (x : Engine) : List (Nat × Nat × Entry × Entry) → Nat × State × Engine
  | [] => (0, s, x)
  | (t, i, v, m) :: r =>
    let d := draftAny s e x t i v m false
    if d.1 ≠ 0 then d else draftsAny d.2.1 e d.2.2 r

/-- VF.ENABLE. -/
def execVfEnable (e : EngineId) (s : State) : Res :=
  .next (macroOp s e 0xC0 [rowBits [(6, 0), (24, 16), (31, 28)]] 0 (.tile tileOfPort0) fun s x b =>
    let u := wfld (b 0) 0 7
    if !(mayActOn s x u) then (1, s, x)
    else
      let d := vfEnableDrafts s x u (wfld (b 0) 16 9) (wfld (b 0) 28 4)
      if d.1 ≠ 0 then (d.1, s, x) else draftsAny s e (readsOf s x (vfReads s u)) d.2)

/-- VF_ENABLE_SET (R336): the internal chart runs at the tile engine of the USP's tile. -/
def execVfEnableSet (p : PortId) (s : State) : Res :=
  if roleOf s p = 1 then
    .next { s with internals := s.internals ++ [⟨p / 8, .vfEnable p (smGet {} s.svc.pf p).numVfs⟩] }
  else .next s

/-- VF_ENABLE_CLEAR (R336): every VF is reset, then VF.ENABLE runs with 0 VFs. -/
def execVfEnableClear (p : PortId) (s : State) : Res :=
  if roleOf s p = 1 then
    let s := (vfsOf s p).foldl vfReset s
    .next { s with internals := s.internals ++ [⟨p / 8, .vfEnable p 0⟩] }
  else .next s

/-- VF_FLR. -/
def execVfFlr (v : VfId) (s : State) : Res := .next (vfReset s v)

/-- PF0_FLR. -/
def execPf0Flr (p : PortId) (s : State) : Res := if roleOf s p = 1 then .next (pfReset s p) else .next s

/-! The VF macros' objects. -/

/-- What a VF macro finds before its own rule: ABSENT for a DISABLED VF, DENIED outside the engine's tile or the submitter's USP. -/
def vfObject (s : State) (x : Engine) (v : Nat) : Nat :=
  if funcState s v = 0 then 5 else if !(mayActOnVf s x v) then 1 else 0

/-- The mask of a block's VF word. -/
def vfWord : Nat := rowBits [(10, 0)]

/-- VF.FROST (R351): fetch stops; the macro waits for the VF's charts and descriptors. -/
def execVfFrost (e : EngineId) (s : State) : Res :=
  .next (macroThen s e 0xC1 [vfWord] 0 (.tile tileOfVf0) true fun s x b =>
    let v := wfld (b 0) 0 11
    let o := vfObject s x v
    if o ≠ 0 then finish s e x o
    else match funcState s v with
      | 6 => finish s e x 3
      | 1 =>
        let s := setLive s 0x3D v 0 4 2
        let s := { s with svc := { s.svc with frozen := smMod {} s.svc.frozen v fun z => { z with deadline := some (s.clock + 100000000) } } }
        frostStep (setEngine s e (seqWait x 1 v 0)) v
      | 2 =>
        let s := { s with svc := { s.svc with frozen := smMod {} s.svc.frozen v fun z => { z with deadline := some (s.clock + 100000000) } } }
        frostStep (setEngine s e (seqWait x 1 v 0)) v
      | _ => finish s e x 0)

/-- VF_FROST_TIMEOUT (R351): charts still run after 100 ms; the macro ends TIMEOUT and the VF stays FREEZING. -/
def execVfFrostTimeout (v : VfId) (s : State) : Res :=
  match (smGet {} s.svc.frozen v).deadline with
  | some t =>
    if funcState s v = 2 ∧ subRuns s v ∧ t ≤ s.clock then .next ((frostWaiters s v).foldl (fun s e => finish s e (engineOf s e) 7) s)
    else .next s
  | none => .next s

/-! The state blob (Table 14.8). -/

/-- The serial of a session's peer; a session of the device with itself names its own. -/
def peerSerial (x : Session) : Nat := if x.peer = 0 then Config.serial else x.peer

/-- The MAC of a blob (R354): HMAC under HKDF-Expand of the session's export master secret. -/
def blobMac (id : Nat) (x : Session) (seq : Nat) (body : List Byte) : List Byte :=
  mac (Config.hkdf (Config.sessionSecret id x.keyGen) (ascii "ihlyon vf state" ++ natBytes 8 seq) 64) body

/-- The last doorbell value latched of a kind for an object, plus 1. -/
def lastLatched (z : FrozenVf) (kind obj : Nat) : Nat :=
  match z.latched.reverse.find? fun l => l.kind == kind && l.obj == obj with
  | some l => l.value + 1
  | none => 0

/-- A ring's 64 bytes: its slot, the engine head, the completion position, the doorbells in force or latched. -/
def ringBlob (s : State) (v r : Nat) : List Byte :=
  let l := smGet {} s.rings r
  let z := smGet {} s.svc.frozen v
  ((List.range 8).flatMap fun i => natBytes 4 (slotRead s r (4 * i))) ++ natBytes 8 l.cmdHead ++ natBytes 8 l.cplTail ++
    natBytes 4 l.cmdTail ++ natBytes 4 l.cplHead ++ natBytes 4 (lastLatched z 0 r) ++ natBytes 4 (lastLatched z 1 r)

/-- A held event record's 64 bytes; its SEQ and PHASE are given when it is delivered. -/
def eventBlob (s : State) (r : EvRec) : List Byte := recordBytes s r 0 false

/-- The VF's stopped descriptors with their slots. -/
def stoppedOf (s : State) (v : Nat) : List (Nat × Desc) := s.svc.descs.filter fun d => d.2.sub == v && d.2.stopped && !d.2.known

/-- Padding a string with zeros to n bytes. -/
def padTo (n : Nat) (bs : List Byte) : List Byte := slice bs 0 n

/-- The blob without its MAC. -/
def blobBody (s : State) (v id seq : Nat) (x : Session) : List Byte :=
  let z := smGet {} s.svc.frozen v
  let ds := (stoppedOf s v).take 64
  let rs := fnRings s v
  natBytes 4 0x46565753 ++ natBytes 2 1 ++ natBytes 2 0 ++ natBytes 4 9920 ++ natBytes 1 rs.2 ++ natBytes 1 z.events.length ++
    natBytes 1 ds.length ++ natBytes 1 0 ++ natBytes 8 Config.serial ++ natBytes 8 (peerSerial x) ++ natBytes 2 id ++ natBytes 6 0 ++
    natBytes 8 seq ++ natBytes 16 0 ++
    padTo 64 (natBytes 1 (funcFld s v 52 7) ++ natBytes 1 rs.2 ++ natBytes 2 0 ++ natBytes 4 z.lost) ++
    ((List.range 256).map fun i => configByte s v i) ++
    padTo 512 ((List.range rs.2).flatMap fun j => ringBlob s v (rs.1 + j)) ++
    padTo 64 (((List.range 8).flatMap fun i => natBytes 4 (eqPageRead s v (4 * i))) ++ natBytes 4 (lastLatched z 2 v)) ++
    ((List.range 32).flatMap fun i => natBytes 4 (msixRead s v (4 * i))) ++
    padTo 64 (natBytes 1 (msixOf s v).pba.toNat) ++
    padTo 4096 (z.events.flatMap (eventBlob s)) ++
    padTo 4608 (ds.flatMap fun d => wordsBytes d.2.words ++ natBytes 8 d.2.progress)

/-- VF.SAVE (R353, R354). -/
def execVfSave (e : EngineId) (s : State) : Res :=
  .next (macroThen s e 0xC2 [vfWord, allBits, rowBits [(15, 0)]] 0 (.tile tileOfVf0) true fun s x b =>
    let v := wfld (b 0) 0 11
    let a := (b 1).toNat
    let o := vfObject s x v
    if o ≠ 0 then finish s e x o
    else if funcState s v ≠ 3 ∧ funcState s v ≠ 4 then finish s e x 3
    else match sessionOf s (wfld (b 2) 0 16) with
      | none => finish s e x 6
      | some y =>
        if a % 8 ≠ 0 then finish s e x 8
        else
          let c := memCheck s x a 9920 true
          if c.1 ≠ 0 then finish c.2 e x c.1
          else
            let id := wfld (b 2) 0 16
            let body := blobBody c.2 v id (y.saveSeq + 1) y
            let s := memStore c.2 e x a (body ++ padTo 64 (blobMac id y (y.saveSeq + 1) body))
            let s := { s with mer := { s.mer with sessions := smPut s.mer.sessions id { y with saveSeq := y.saveSeq + 1 } } }
            finish (setLive s 0x3D v 0 4 4) e x 0)

/-- A blob that VF.RESTORE must refuse (R356). -/
def blobBad (s : State) (v id : Nat) (y : Session) (bs : List Byte) : Bool :=
  leAt bs 0 4 != 0x46565753 || leAt bs 4 2 != 1 || leAt bs 8 4 != 9920 || leAt bs 0x18 8 != Config.serial || leAt bs 0x20 2 != id ||
    decide (leAt bs 0x28 8 ≤ y.restoreSeq) || decide ((fnRings s v).2 < leAt bs 0x0C 1) ||
    slice bs 0x2680 64 != padTo 64 (blobMac id y (leAt bs 0x28 8) (bs.take 0x2680))

/-- A held record as a blob gives it. -/
def recordOf (v : Nat) (bs : List Byte) : EvRec :=
  { queue := v, ts := leAt bs 0 8, esid := leAt bs 8 2, subj := leAt bs 10 2, suppressed := leAt bs 12 2,
    payload := (List.range 5).map fun i => leAt bs (16 + 8 * i) 8 }

/-- Loading one ring of a blob: its slot, its pointers, its latched doorbells. -/
def restoreRing (s : State) (v r : Nat) (bs : List Byte) : State :=
  let ctrl := leAt bs 16 4
  let s := setRingSlot s r { cbase := BitVec.ofNat 64 (leAt bs 0 8), qbase := BitVec.ofNat 64 (leAt bs 8 8), csize := nbits ctrl 0 4, qsize := nbits ctrl 4 4
                             target := nbits ctrl 8 4, tlim := nbits ctrl 16 8, qvec := nbits ctrl 24 3, enable := nbits ctrl 31 1 == 1, lastStatus := leAt bs 21 1 }
  let s := { s with rings := smSet {} s.rings r { smGet {} s.rings r with cmdHead := leAt bs 32 8, cplNext := leAt bs 40 8, cplTail := leAt bs 40 8, cplEnded := [], cmdTail := leAt bs 48 4, cplHead := leAt bs 52 4 } }
  let s := if leAt bs 56 4 = 0 then s else latchDoorbell s v 0 r (leAt bs 56 4 - 1)
  if leAt bs 60 4 = 0 then s else latchDoorbell s v 1 r (leAt bs 60 4 - 1)

/-- The ring table entry that a staged slot describes, for a function. -/
def ringEntryOf (s : State) (f r : Nat) (on : Bool) : Entry :=
  let x := ringSlot s r
  mkEntry [(100, if on then 1 else 0), (101, x.qvec), (104, if r < 8 then 12 else x.target), (108, x.tlim), (116, if r < 8 then 0x4000 else funcSub s f), (132, x.qsize),
           (136, wfld x.qbase 6 58), (194, x.csize), (198, wfld x.cbase 6 58)]

/-- Loading a blob's event queue. -/
def restoreQueue (s : State) (v : Nat) (bs : List Byte) : State :=
  let c := leAt bs 8 4
  let t := leAt bs 12 4
  let s := setEq s v { base := leAt bs 0 8, enable := nbits c 31 1 == 1, vec := nbits c 28 3, ien := nbits c 27 1 == 1, size := nbits c 23 4, modCnt := nbits c 15 8
                       modTime := nbits c 0 15, ovf := nbits t 31 1 == 1, faulted := nbits t 30 1 == 1, tail := leAt bs 16 2, phase := nbits (leAt bs 16 4) 16 1 == 1
                       head := leAt bs 20 2, lost := leAt bs 24 4, nextSeq := leAt bs 28 4 }
  if leAt bs 32 4 = 0 then s else latchDoorbell s v 2 v (leAt bs 32 4 - 1)

/-- A free descriptor slot: the lowest that is not in use (R347). -/
def freeDesc (s : State) : Option Nat :=
  findFrom (fun i => match s.svc.descs.find? fun d => d.1 == i with
    | none => true
    | some d => d.2.finished && (d.2.waited || !((engineOf s d.2.engine).serial == d.2.chart && !(engineIdle (engineOf s d.2.engine))))) 0 1024

/-- Entering a descriptor in a slot: its issue count and its order. -/
def placeDesc (s : State) (i : Nat) (d : Desc) : State :=
  let n := smGet 0 s.svc.issues i + 1
  { s with svc := { s.svc with descs := smPut s.svc.descs i { d with issue := n, order := s.svc.nextOrder }, issues := smSet 0 s.svc.issues i n, nextOrder := s.svc.nextOrder + 1 } }

/-- Loading one stopped descriptor of a blob. -/
def restoreDesc (s : State) (v : Nat) (bs : List Byte) : State :=
  match freeDesc s with
  | none => s
  | some i => placeDesc s i { words := bytesWords bs 8, sub := v, func := some v, gen := funcGen s v, master := some (funcPort s v), progress := leAt bs 64 8, stopped := true
                              crc := BitVec.ofNat 64 (leAt bs 32 8), engine := 16 }

/-- The blob's state replaces the VF's (R356). -/
def restoreState (s : State) (v : Nat) (bs : List Byte) : State :=
  let rs := fnRings s v
  let n := leAt bs 0x0C 1
  let s := { s with svc := { s.svc with frozen := smSet {} s.svc.frozen v { events := (List.range (leAt bs 0x0D 1)).map fun i => recordOf v (slice bs (0x480 + 64 * i) 64), lost := leAt bs 0x44 4 },
                                        descs := s.svc.descs.filter fun d => !(d.2.sub == v && d.2.stopped),
                                        config := smSetRun 0 s.svc.config (v * 4096) (slice bs 0x80 256) } }
  let s := (List.range n).foldl (fun s j => restoreRing s v (rs.1 + j) (slice bs (0x180 + 64 * j) 64)) s
  let s := genUp (restoreQueue s v (slice bs 0x380 64)) v
  let s := (List.range 32).foldl (fun s i => msixWrite s v (4 * i) (leAt bs (0x3C0 + 4 * i) 4)) (setMsix s v { msixOf s v with pba := 0 })
  let s := setMsix s v { msixOf s v with pba := BitVec.ofNat 8 (leAt bs 0x440 1) }
  let s := (List.range (leAt bs 0x0E 1)).foldl (fun s i => restoreDesc s v (slice bs (0x1480 + 72 * i) 72)) s
  let on (j : Nat) : Bool := nbits (leAt bs (0x180 + 64 * j + 16) 4) 31 1 == 1
  let own (w : Entry) : Entry := if fld w 104 4 = 12 then w else setFld w 104 4 (funcPort s v / 8)
  let s := deviceUpdate s ((0x3D, v, setFld (setFld (tabVal s 0x3D v) 52 7 (leAt bs 0x40 1)) 0 4 5) ::
    (List.range n).map fun j => (0x30, rs.1 + j, own (ringEntryOf s v (rs.1 + j) (on j))))
  s

/-- VF.RESTORE once its blob is read (R356): the lower engine number restores, another finds the VF LOADED and ends BUSY (Table 14.9). -/
def restoreBlob (s : State) (e : Nat) (x : Engine) (bs : List Byte) : State :=
  let w := wordAt x
  let v := wfld (blockWord x w 0) 0 11
  let id := wfld (blockWord x w 2) 0 16
  if funcState s v ≠ 3 then finish s e x 3
  else match sessionOf s id with
    | none => finish s e x 6
    | some y =>
      if blobBad s v id y bs then finish s e x 6
      else
        let s := restoreState s v bs
        finish { s with mer := { s.mer with sessions := smPut s.mer.sessions id { y with restoreSeq := leAt bs 0x28 8 } } } e x 0

/-- VF.RESTORE (R356). -/
def execVfRestore (e : EngineId) (s : State) : Res :=
  .next (macroThen s e 0xC3 [vfWord, allBits, rowBits [(15, 0)]] 0 (.tile tileOfVf0) true fun s x b =>
    let v := wfld (b 0) 0 11
    let a := (b 1).toNat
    let o := vfObject s x v
    if o ≠ 0 then finish s e x o
    else if funcState s v ≠ 3 then finish s e x 3
    else if (sessionOf s (wfld (b 2) 0 16)).isNone then finish s e x 6
    else if a % 8 ≠ 0 then finish s e x 8
    else
      let c := memCheck s x a 9920 false
      if c.1 ≠ 0 then finish c.2 e x c.1
      else match memLocal c.2 x a 1240 with
        | some (ws, s) => restoreBlob s e x (wordsBytes ws)
        | none => setEngine (memAsk c.2 e x a 1240) e (seqWait x 1 0 0))

/-- The return of a VF to ACTIVE (R357). -/
def thaw (s : State) (v : Nat) : State :=
  let z := smGet {} s.svc.frozen v
  let ds := stoppedOf s v
  let s := setLive s 0x3D v 0 4 1
  let s := ds.foldl (fun s d => { s with svc := { s.svc with descs := smPut s.svc.descs d.1 { d.2 with stopped := false, mover := none, stage := 0, order := s.svc.nextOrder, gen := funcGen s v },
                                                             nextOrder := s.svc.nextOrder + 1 } }) s
  let s := { s with svc := { s.svc with frozen := smSet {} s.svc.frozen v {} } }
  let s := z.events.foldl (fun s r => writeRecord s v r) s
  let q := eqOf s v
  let s := if z.lost = 0 then s else setEq s v { q with lost := min (2 ^ 32 - 1) (q.lost + z.lost), ovf := true, nextSeq := (q.nextSeq + z.lost) % 2 ^ 32 }
  msixFlush (z.latched.foldl (fun s l => actLatched s v l) s) v

/-- VF.THAW. -/
def execVfThaw (e : EngineId) (s : State) : Res :=
  .next (macroThen s e 0xC4 [vfWord] 0 (.tile tileOfVf0) true fun s x b =>
    let v := wfld (b 0) 0 11
    let o := vfObject s x v
    if o ≠ 0 then finish s e x o
    else if 3 ≤ funcState s v ∧ funcState s v ≤ 5 then finish (thaw s v) e x 0
    else finish s e x 3)

/-- VF.RESET. -/
def execVfReset (e : EngineId) (s : State) : Res :=
  .next (macroThen s e 0xC5 [vfWord] 0 (.tile tileOfVf0) true fun s x b =>
    let v := wfld (b 0) 0 11
    let o := vfObject s x v
    if o ≠ 0 then finish s e x o else finish (vfReset s v) e x 0)

/-! Doorbells and registers by their own steps. -/

/-- The index by which a doorbell or a slot names its owner: a function, or 0xFFFF for Steward. -/
def ownerNo (f : Option FuncId) : Nat := match f with | some f => f.val | none => 0xFFFF

/-- CMD_TAIL (R339). -/
def execCmdTail (f : Option FuncId) (j : Fin 8) (v : BitVec 16) (s : State) : Res :=
  match f with
  | some f => .next (fnDoorbell s f j 0 v.toNat)
  | none => .next (ringDoorbell s 0xFFFF j 0 v.toNat)

/-- CPL_HEAD (R247, R339). -/
def execCplHead (f : Option FuncId) (j : Fin 8) (v : BitVec 16) (s : State) : Res :=
  match f with
  | some f => .next (fnDoorbell s f j 1 v.toNat)
  | none => .next (ringDoorbell s 0xFFFF j 1 v.toNat)

/-- The ring of a slot. -/
def slotRing (s : State) (f : Option FuncId) (j : Nat) : Option Nat := match f with | some f => fnRing s f j | none => some j

/-- The ENABLE bit of a ring slot's CTRL as last written; a write while its commit is in progress is ignored (Table 14.6). -/
def slotEnable (s : State) (r : Nat) (on : Bool) : State := if ringCommitting s r then s else setRingSlot s r { ringSlot s r with enable := on }

/-- RING_ENABLE (R246, R340): the staged slot is submitted for commit; ignored while a commit is in progress. -/
def execRingEnable (f : Option FuncId) (j : Fin 8) (s : State) : Res :=
  match slotRing s f j with
  | some r => .next (submitFor (slotEnable s r true) (ownerNo f) r true)
  | none => .next s

/-- RING_DISABLE (R340). -/
def execRingDisable (f : Option FuncId) (j : Fin 8) (s : State) : Res :=
  match slotRing s f j with
  | some r => .next (submitFor (slotEnable s r false) (ownerNo f) r false)
  | none => .next s

/-- MSIX_UNMASK (R344). -/
def execMsixUnmask (f : FuncId) (vec : Fin 8) (s : State) : Res :=
  let m := msixOf s f
  .next (msixVector (setMsix s f { m with mask := m.mask &&& ~~~(BitVec.ofNat 8 (2 ^ vec.val)) }) f vec)

/-- MMIO_BAD (R343): a read is answered with Unsupported Request, a write is discarded. -/
def execMmioBad (f : FuncId) (off : BitVec 20) (read : Bool) (s : State) : Res :=
  let s := if read then emit s (.completion (funcPort s f) 1 []) else s
  .next (raiseEvent s 0x481 f [off.toNat])

/-- A host's write of a decoder's registers: they keep their values while the decoder is committed (R180). -/
def decWrite (s : State) (k : Nat) (v : Entry) (mask : Entry) : State :=
  let d := smGet {} s.decRegs k
  if d.committed then s else { s with decRegs := smSet {} s.decRegs k { d with val := v &&& mask, lockOn := fld v 46 1 == 1 } }

/-- REGISTER_WRITE (R6-R8): a register acts by its access code. -/
def execRegisterWrite (t : RegTarget) (v : BitVec 64) (s : State) : Res :=
  match t with
  | .bar0 f off wide => .next (barStore s f off.toNat (if wide then 8 else 4) v.toNat)
  | .steward off wide => .next (if mmioOk off.toNat (if wide then 8 else 4) then stewStore s off.toNat (natBytes (if wide then 8 else 4) v.toNat) else s)
  | .msixControl f => .next (msixFlush (setMsix s f { msixOf s f with enable := v.getLsbD 15, fnMask := v.getLsbD 14 }) f)
  | .config f off => .next { s with svc := { s.svc with config := smSetRun 0 s.svc.config (f * 4096 + off.toNat / 4 * 4) (natBytes 4 v.toNat) } }
  | .numVfs p => .next { s with svc := { s.svc with pf := smMod {} s.svc.pf p fun c => if c.vfEnable then c else { c with numVfs := wfld v 0 16 } } }
  | .uspDecoder p n w => .next (decWrite s (tkey 0x12 (p * 32 + n)) w (draftable 0x12))
  | .vppbDecoder b n w => .next (decWrite s (tkey 0x13 (b * 16 + n)) w (draftable 0x13))
  | .biId p => .next { s with biIds := smSet 0 s.biIds p (if v.getLsbD 16 then wfld v 0 12 + 1 else 0) }

/-! Steward's cores (R440, R366). -/

/-- A load's answer to a core; with a fault it reads all ones. -/
def coreLoad (s : State) (c : Nat) (bs : List Byte) : State := emit s (.coreData c bs)
/-- A denied or unmapped access: a load reads all ones, and the core takes an access fault. -/
def coreFaults (s : State) (c n : Nat) (store : Bool) : State :=
  emit (if store then s else coreLoad s c (List.replicate n 0xFF)) (.coreFault c)

/-- A permitted access through an aperture leaves toward its port: DPA as media, MMIO and configuration as a message of the space. -/
def apertureOut (s : State) (c sp q n : Nat) (bs : List Byte) : State :=
  if sp = 1 then emit s (.media (q / 2 ^ 57) (q / 2 ^ 53 % 16) (q % 2 ^ 53) n bs) else emit s (.port (q / 2 ^ 57) (0x300 + sp) n (q % 2 ^ 57) c bs)

/-- STEWARD_CORE_ACCESS: mapped by Table 18.10; an access through an aperture is judged by the core's fence unit. -/
def execStewardCoreAccess (c : CoreId) (addr : BitVec 64) (store : Option (List Byte)) (len : Fin 65) (ans : List Byte) (s : State) : Res :=
  let n := match store with | some bs => bs.length | none => len.val
  match coreMap s addr.toNat n with
  | .hbm a => match store with
    | some bs => .next (hbmWrite s a bs)
    | none => .next (coreLoad s c (hbmRead s a n))
  | .regs o =>
    if !(mmioOk o n) then .next (coreFaults s c n store.isSome)
    else match store with
      | some bs => .next (stewStore s o bs)
      | none => let r := stewLoad s o n; .next (coreLoad r.2 c r.1)
  | .aperture sp q =>
    let f := fenceCheck s (144 + c.val) ⟨sp, q, n, store.isNone, store.isSome⟩
    if f.1 ≠ 0 then .next (coreFaults f.2 c n store.isSome)
    else match store with
      | some bs => .next (apertureOut f.2 c sp q n bs)
      | none => .next (coreLoad (apertureOut f.2 c sp q n []) c (slice ans 0 n))
  | .outside => .next (coreFaults s c n store.isSome)

end Sys2Proof.Machine
end

