-- ==== Sys2Proof/Machine/Ports.lean ====
section
/-! DEFINITION. CXL and PCIe links: coming up, power states, recovery, loss, IDE, viral, and the reference pairs (R43, R48-R57, R62-R65, R75). -/
namespace Sys2Proof.Machine

/-- A CXL or PCIe port that exists. -/
def cxlPort (s : State) (p : Nat) : Bool := portExists s p && (roleOf s p == 1 || roleOf s p == 2 || roleOf s p == 4)
/-- LTSSM. -/
def ltssm (s : State) (p : Nat) : Nat := tabFld s 0x02 p 0 6
/-- FLIT: 0 non-flit, 1 68-byte flit, 2 256-byte flit. -/
def flitOf (s : State) (p : Nat) : Nat := tabFld s 0x02 p 15 2

/-- The slot power channel mapped to a port. -/
def channelOf (s : State) (p : Nat) : Option Nat := (List.range 32).find? fun c => tabFld s 0x38 c 0 7 == p
/-- Presence is decided by a pin (R297). -/
def byPin (s : State) (p : Nat) : Bool := match channelOf s p with | some c => decide (tabFld s 0x38 c 80 6 < 48) | none => false

/-- The rate at which a link mode runs under a highest rate (Table 2.6): 68-byte flits at 8 to 32 GT/s, non-flit at 2.5 to 32. -/
def modeRate (flit top : Nat) : Option Nat :=
  match flit with
  | 2 => some top
  | 1 => if 2 ≤ top then some (min top 4) else none
  | _ => some (min top 4)

/-- The link modes that FLIT_POLICY permits, in its order (Table 2.3). -/
def policyModes (s : State) (p : Nat) : List Nat :=
  match tabFld s 0x01 p 10 2 with
  | 0 => [2, 1, 0]
  | 1 => [2]
  | 2 => [2, 1]
  | _ => []

/-- A mode suits the partner (Table 2.6): 68-byte flits are for CXL partners, non-flit is for PCIe endpoints on a DSP. -/
def modeFits (s : State) (p flit : Nat) (cxl : Bool) : Bool :=
  match flit with
  | 2 => true
  | 1 => cxl
  | _ => !cxl && roleOf s p == 2

/-- The mode and rate negotiated (R50): the first mode that FLIT_POLICY permits and the partner offers, at the highest rate that both and the mode have. -/
def negotiate (s : State) (p rate : Nat) (offers : BitVec 3) (cxl : Bool) : Option (Nat × Nat) :=
  (policyModes s p).findSome? fun f =>
    if offers.getLsbD f && modeFits s p f cxl then (modeRate f (min rate (tabFld s 0x01 p 6 4))).map fun r => (f, r) else none

/-- A rate and a width that a running link may change to. -/
def speedOk (s : State) (p rate width : Nat) : Bool :=
  decide (rate ≤ tabFld s 0x01 p 6 4 ∧ 2 ^ width ≤ widthLanes (portWidth s p)) && modeRate (flitOf s p) rate == some rate

/-- Caching devices that the VCSs of a DSP's bindings have already (R58). -/
def cachingDevices (s : State) (p : Nat) : Nat :=
  let vcss := (((bindingsOf s p).filter fun i => bstate (tabVal s 0x11 i) == 1).map (· / 64)).eraseDups
  vcss.foldl (fun n v => max n ((List.range 64).filter fun k =>
    let b := tabVal s 0x11 (64 * v + k)
    bstate b == 1 && (btype b == 1 || btype b == 2) && bport b != p && smGet false s.cxlCache (bport b)).length) 0

/-- LTSSM codes of training (Table 2.5). -/
def trainingCode : Training → Nat
  | .detectActive => 0x01
  | .pollingActive => 0x02
  | .pollingCompliance => 0x03
  | .pollingConfiguration => 0x04
  | .configuration => 0x05
  | .loopback => 0x10
  | .up => 0x0B

/-- A lane of a disabled port runs a test (R83). -/
def laneTested (s : State) (p : Nat) : Bool :=
  portExists s p && roleOf s p == 0 && (portLanes s p).any fun l => tabFld s 0x03 l 15 1 == 1 || tabFld s 0x03 l 14 1 == 1

/-- A state of training that the port can show (Table 2.5): Polling.Compliance in a lane test only, Loopback there too. -/
def canShow (s : State) (p : Nat) (stage : Training) : Bool :=
  match stage with
  | .pollingCompliance => laneTested s p
  | .loopback => laneTested s p || cxlPort s p
  | _ => cxlPort s p

/-- The link is up with what was negotiated (R48, R50, R58). -/
def linkComesUp (s : State) (p flit rate width : Nat) (cxl cache : Bool) (inv : BitVec 16) : State :=
  let st := mkEntry [(0, 0x0B), (6, rate), (10, min (2 ^ width) (widthLanes (portWidth s p))), (15, flit), (17, 1)]
  let s := setLive s 0x02 p 0 20 (fld st 0 20)
  let s := setLanesBit s (portLanes s p) 2 true
  let s := (portLanes s p).foldl (fun s l => setLaneBit s 5 (inv.getLsbD (l - firstLane p)) l) s
  let s := { s with noCxl := smSet false s.noCxl p (!cxl), woken := smSet false s.woken p false,
                    cxlCache := smSet false s.cxlCache p (cxl && cache && roleOf s p == 2 && decide (cachingDevices s p < 16)) }
  let s := upClearsLost (adaptNow s p) p
  let s := if roleOf s p = 1 ∧ !cxl then raiseEvent s 0x080 p [] else s
  egressFlush s p

/-- LINK_UP (R48-R50): a link that trains shows the state it has reached, and comes up in the mode and at the rate negotiated; without a mode in common
it trains no further. -/
def execLinkUp (p : PortId) (stage : Training) (rate : Fin 6) (width : Fin 5) (offers : BitVec 3) (cxl cache : Bool) (inv : BitVec 16) (s : State) : Res :=
  if !(fabricRuns s) ∨ !s.boot.settings ∨ !(canShow s p stage) ∨ linkAlive s p ∨ ltssm s p = 0x0F then .next s
  else if stage ≠ .up then .next (setLive s 0x02 p 0 6 (trainingCode stage))
  else match negotiate s p rate offers cxl with
    | some (flit, r) => .next (linkComesUp s p flit r width cxl cache inv)
    | none => .next s

/-- The loss of a port, and the PF0 reset that the loss of a USP is (R359). -/
def loseCxl (s : State) (p code : Nat) : State :=
  let s := losePort s p code
  if roleOf s p = 1 then pfReset s p else s

/-- A return of the LTSSM to Detect after a failed run counts as absence, where presence is in-band (R294). -/
def detectAbsence (s : State) (p : Nat) : State :=
  let st := (smGet {} s.partners p).st
  if (st = 3 ∨ st = 7) ∧ !(byPin s p) ∧ smGet false s.present p then
    raiseEvent { s with present := smSet false s.present p false, arriving := smSet false s.arriving p false } 0x400 p []
  else s

/-- PORT_LOST (R62): a fall during the last steps of a managed detach is no loss, nor is one of a link that has not come up; one that trains after a
wake from L2 is lost from L2. -/
def execPortLost (p : PortId) (dest : Fin 3) (s : State) : Res :=
  let code := match dest with | 0 => 0x00 | 1 => 0x0F | 2 => 0x11
  let back := fun (s : State) => if dest = 0 then detectAbsence s p else s
  if !(cxlPort s p) ∧ !(laneTested s p) then .next s
  else if !(linkAlive s p) ∧ !(smGet false s.woken p) then
    .next (if ltssm s p = 0x0F ∨ ltssm s p = 0 then s else back (setLive s 0x02 p 0 6 code))
  else .next (back (if smGet false s.detaching p then linkDown s p code else loseCxl s p code))

/-- HOT_RESET_RECEIVED (R64): the fall of the link to Hot Reset is a loss of the USP (R62). -/
def execHotResetReceived (p : PortId) (s : State) : Res :=
  if !(cxlPort s p) ∨ roleOf s p ≠ 1 ∨ !(linkAlive s p) then .next s else .next (loseCxl s p 0x11)

/-- PME_TURN_OFF (R52): a USP or DSP goes to L2; not on the FMP port. -/
def execPmeTurnOff (p : PortId) (s : State) : Res :=
  if !(cxlPort s p) ∨ roleOf s p = 4 ∨ ltssm s p ≠ 0x0B then .next s
  else .next (setL0p (setLive (setLive s 0x02 p 0 6 0x0E) 0x02 p 17 1 0) p 0)

/-- RECOVERY_ENTRY (R49, R62): a link in L0, L0s or L1 enters Recovery.RcvrLock; one in Recovery goes on to another of its substates, Equalization only
at 8 GT/s and above. -/
def execRecoveryEntry (p : PortId) (sub : Fin 5) (s : State) : Res :=
  if !(cxlPort s p) then .next s
  else if 0x0B ≤ ltssm s p ∧ ltssm s p ≤ 0x0D then .next (toRecovery s p)
  else if 0x06 ≤ ltssm s p ∧ ltssm s p ≤ 0x0A ∧ (sub ≠ 1 ∨ 2 ≤ tabFld s 0x02 p 6 4) then .next (setLive s 0x02 p 0 6 (6 + sub.val))
  else .next s

/-- RETURN_TO_L0 (R62, R70). -/
def execReturnToL0 (p : PortId) (rate : Fin 6) (width : Fin 5) (s : State) : Res :=
  if !(cxlPort s p) ∨ ltssm s p < 0x06 ∨ 0x0A < ltssm s p ∨ !(speedOk s p rate width) then .next s
  else
    let s := setLive (setLive (setLive s 0x02 p 0 6 0x0B) 0x02 p 6 4 rate) 0x02 p 10 5 (2 ^ width.val)
    .next (egressFlush (adaptNow s p) p)

/-- LOW_POWER_ENTRY (R52): L0s in non-flit mode, L1, or L0p in 256-byte flit mode at fewer lanes than negotiated, each where its enable permits it. -/
def execLowPowerEntry (p : PortId) (kind : Fin 3) (lanes : Fin 4) (s : State) : Res :=
  if !(cxlPort s p) ∨ ltssm s p ≠ 0x0B ∨ tabFld s 0x01 p (match kind with | 0 => 13 | 1 => 14 | 2 => 12) 1 = 0 then .next s
  else
    match kind with
    | 0 => if flitOf s p = 0 then .next (lowBegin (setLive s 0x02 p 0 6 0x0C) p) else .next s
    | 1 => .next (lowBegin (setL0p (setLive s 0x02 p 0 6 0x0D) p 0) p)
    | 2 => if flitOf s p = 2 ∧ 2 ^ lanes.val < tabFld s 0x02 p 10 5 then .next (lowBegin (setL0p s p (2 ^ lanes.val)) p) else .next s

/-- LOW_POWER_EXIT (R52): L0 again at full width; a wake from L2, detected in-band, trains the link anew (DESIGN CHOICE, log 98: from Polling on, which
is no entry to Detect and so no loss under R62). -/
def execLowPowerExit (p : PortId) (s : State) : Res :=
  if !(cxlPort s p) then .next s
  else if ltssm s p = 0x0C ∨ ltssm s p = 0x0D then .next (egressFlush (adaptNow (lowEnd (setLive s 0x02 p 0 6 0x0B) p) p) p)
  else if ltssm s p = 0x0E then .next { setLive s 0x02 p 0 6 0x02 with woken := smSet false s.woken p true }
  else if tabFld s 0x02 p 19 1 = 1 then .next (lowEnd (setL0p s p 0) p)
  else .next s

/-! IDE (R56). -/

/-- The streams a port's link needs: CXL.io, and CXL.cachemem where the link runs CXL's memory protocols. -/
def ideNeeded (s : State) (p : Nat) : Nat := if roleOf s p = 4 ∨ smGet false s.noCxl p then 2 else 3

/-- IDE_KEY_MANAGEMENT: keys are established or refreshed; a refresh interrupts nothing. -/
def execIdeKeyManagement (p : PortId) (stream : Fin 2) (ok : Bool) (s : State) : Res :=
  if !(cxlPort s p) ∨ tabFld s 0x02 p 17 1 = 0 then .next s
  else if !ok then .next (raiseEvent s 0x082 p [])
  else
    let up := smGet 0 s.ideUp p ||| 2 ^ stream.val
    let s := { s with ideUp := smSet 0 s.ideUp p up }
    if up &&& ideNeeded s p = ideNeeded s p then .next (egressFlush (setLive s 0x02 p 18 1 1) p) else .next s

/-- MAC_EPOCH_CHECK: a good MAC releases the epoch's messages, and its units of transactions that are cut through (R129); a bad one discards them, and the streams are secure no longer. -/
def execMacEpochCheck (p : PortId) (ok : Bool) (msgs : List Msg) (s : State) : Res :=
  if !(cxlPort s p) ∨ tabFld s 0x02 p 18 1 = 0 then .next s
  else if ok then .next (releaseUnits (msgs.foldl (fun s m => headerLookup s p m) s) p true)
  else
    let s := (portBridges s p 0).foldl (fun s k => rasReport s k 16 []) s   -- PRESUMED (log 97): CXL RAS's bit for a received IDE error
    .next (setLive { raiseEvent (count (releaseUnits s p false) (portCtr p 13) 1) 0x082 p [] with ideUp := smSet 0 s.ideUp p 0 } 0x02 p 18 1 0)

/-! Viral (R57). -/

/-- The VCSs that a port belongs to: the USP's, or those that bind through the DSP. -/
def vcssOf (s : State) (p : Nat) : List Nat :=
  match roleOf s p with
  | 1 => (vcsOf s p).toList
  | 2 => (((bindingsOf s p).filter fun i => bstate (tabVal s 0x11 i) == 1).map (· / 64)).eraseDups
  | _ => []

/-- The ports of a VCS: its USP, and the ports its vPPBs bind. -/
def portsOfVcs (s : State) (v : Nat) : List Nat :=
  (if tabFld s 0x10 v 14 1 = 1 then [tabFld s 0x10 v 0 7] else []) ++
  (((List.range 64).filter fun i => bstate (tabVal s 0x11 (64 * v + i)) == 1 && (btype (tabVal s 0x11 (64 * v + i)) == 1 || btype (tabVal s 0x11 (64 * v + i)) == 2)).map
    fun i => bport (tabVal s 0x11 (64 * v + i))).eraseDups

/-- VIRAL: every other port of the VCS sends it on. -/
def execViral (p : PortId) (s : State) : Res :=
  if !(cxlPort s p) ∨ tabFld s 0x02 p 17 1 = 0 then .next s
  else
    let ps := (((vcssOf s p).map (portsOfVcs s)).flatten).eraseDups.filter fun q => q != p.val
    .next (ps.foldl (fun s q => emit { s with viral := smSet false s.viral q true } (.link q 11 0)) s)

/-! Reference pairs (R75). -/

/-- A port whose lane PLLs lost their reference. -/
def refFails (s : State) (p : Nat) : State :=
  if !(portExists s p) then s
  else if roleOf s p = 3 then cdrLost s p (portLanes s p)
  else if !(cxlPort s p) ∨ !(linkAlive s p) then s
  else if smGet false s.detaching p then linkDown s p 0
  else loseCxl s p 0

/-- The lanes of a reference pair whose tiles have power and have left reset: the others' status reads its reset value. -/
def pairLanes (s : State) (pair : Nat) : List Nat :=
  if s.boot.settings then ((List.range 64).map (64 * pair + ·)).filter fun l => tabFld s 0x3E (l / 32) 20 4 != 3 else []

/-- REF_LOST. -/
def execRefLost (pair : RefPairId) (s : State) : Res :=
  if !(smGet false s.refPair pair) then .next s
  else
    let ls := pairLanes s pair
    let s := setLanesBit (setLanesBit (setLanesBit { s with refPair := smSet false s.refPair pair false } ls 0 false) ls 1 false) ls 4 true
    .next (((List.range 16).map (16 * pair.val + ·)).foldl refFails (raiseEvent s 0x000 pair []))

/-- A port trains again as its configuration permits. -/
def trainAgain (s : State) (p : Nat) : State :=
  if !(portExists s p) ∨ roleOf s p = 0 ∨ ltssm s p = 0x0F then s
  else if roleOf s p = 3 then (if tstate s p = 0 then s else markerRun s p)
  else if linkAlive s p then s
  else emit s (.link p 4 0)

/-- REF_RETURN: the pair shows edges; the lane PLLs of the tiles that have power relock, which resets them. -/
def execRefReturn (pair : RefPairId) (s : State) : Res :=
  if smGet false s.refPair pair then .next s
  else
    let ls := pairLanes s pair
    let s := setLanesBit (setLanesBit (setLanesBit { s with refPair := smSet false s.refPair pair true } ls 0 true) ls 1 true) ls 4 true
    .next (((List.range 16).map (16 * pair.val + ·)).foldl trainAgain s)

end Sys2Proof.Machine
end

