-- ==== Sys2Proof/Machine/Judge.lean ====
section
/-! DEFINITION. The rules judged at COMMIT (R256): each over the tables that the COMMIT would produce, or over the committed ones where R256 says so. -/
namespace Sys2Proof.Machine

/-- Tables as a rule sees them: the committed ones under a chart's drafts, and the indices that may differ from reset. -/
structure View where
  get : Nat → Nat → Entry
  idx : Nat → List Nat

/-- What a COMMIT of the engine's drafts would produce. -/
def viewOf (s : State) (x : Engine) : View where
  get := seenVal s x
  idx t := (listed s t ++ x.drafts.filterMap fun d => if keyTab d.key = t then some (keyIdx d.key) else none).eraseDups

/-- The committed tables. -/
def committed (s : State) : View := ⟨tabVal s, listed s⟩

/-- A field of an entry in a view. -/
def View.fld (v : View) (t i lo w : Nat) : Nat := Machine.fld (v.get t i) lo w

/-- The indices of a table that a chart drafts. -/
def draftedOf (x : Engine) (t : Nat) : List Nat := x.drafts.filterMap fun d => if keyTab d.key = t then some (keyIdx d.key) else none
/-- A macro's drafts that its subject's rules judge at once, as the COMMIT will again (R286, R289). -/
def judgedDraft (d : Nat × State × Engine) (j : View → Nat) : Nat × State × Engine := if d.1 ≠ 0 then d else (j (viewOf d.2.1 d.2.2), d.2)
/-- The bits of an entry that a chart drafts. -/
def draftedBits (x : Engine) (t i : Nat) : Entry := match draftOf x (tkey t i) with | some d => d.mask | none => 0

/-- The first failing status of a list of judgements. -/
def firstBad : List Nat → Nat
  | [] => 0
  | a :: r => if a ≠ 0 then a else firstBad r

/-- A status when a condition holds. -/
def when (c : Bool) (st : Nat) : Nat := if c then st else 0

/-- Two runs meet. -/
def overlap (a n b m : Nat) : Bool := decide (a < b + m ∧ b < a + n)

/-! Staleness and locks (R27, R258, R439). -/

/-- Some entry that the chart read or drafted has been committed anew. -/
def stale (s : State) (x : Engine) : Bool :=
  (x.reads.any fun r => (smGet (entryReset r.1) s.tab r.1).num != r.2) || (x.drafts.any fun d => (smGet (entryReset d.key) s.tab d.key).num != d.num)

/-- The first draft of a locked field. -/
def lockedDraft (s : State) (x : Engine) : Option Draft := x.drafts.find? fun d => d.mask &&& lockedMask s.fieldLock (keyTab d.key) != 0

/-! Ports, lanes and profiles (R41, R42, R44, R45, R47, R83-R85, R88). -/

/-- The profile of a tile in a view. -/
def vProfile (v : View) (t : Nat) : Nat := v.fld 0x0B t 0 3
/-- The width code of a port in a view. -/
def vWidth (v : View) (p : Nat) : Nat := profileWidth (vProfile v (p / 8)) (p % 8)
/-- ROLE of a port in a view; a port that does not exist has none. -/
def vRole (v : View) (p : Nat) : Nat := if p < 96 ∧ vWidth v p ≠ 0 then v.fld 0x01 p 0 3 else 0
/-- The lanes of a port in a view. -/
def vLanes (v : View) (p : Nat) : List Nat := (List.range (widthLanes (vWidth v p))).map (firstLane p + ·)
/-- The ports of a tile that exist in a view. -/
def vPorts (v : View) (t : Nat) : List Nat := ((List.range 8).map (8 * t + ·)).filter fun p => vWidth v p != 0

/-- A TL-128 tile (R42, R84). -/
def tl128 (v : View) (t : Nat) : Bool :=
  (vPorts v t).any (fun p => v.fld 0x01 p 6 4 == 7) ||
  (List.range 32).any fun k => (v.fld 0x03 (32 * t + k) 15 1 == 1 || v.fld 0x03 (32 * t + k) 14 1 == 1) && v.fld 0x03 (32 * t + k) 52 4 == 7

/-- The tiles whose ports or lanes the chart drafts. -/
def tilesDrafted (x : Engine) : List Nat :=
  ((draftedOf x 0x01).map (· / 8) ++ (draftedOf x 0x03).map (· / 32) ++ draftedOf x 0x0B).eraseDups

/-- A link is down: no session, no data link layer, and no state from which it could be lost (R45, R62). -/
def linkDownNow (s : State) (p : Nat) : Bool := tabFld s 0x02 p 17 1 == 0 && !(linkAlive s p)

/-- Something is bound through a port (R45), as committed. -/
def boundThrough (s : State) (p : Nat) : Bool :=
  !(bindingsOf s p).isEmpty || (vcsOf s p).isSome || (listed s 0x15).any fun i => emport (tabVal s 0x15 i) == p && decide (1 ≤ estate (tabVal s 0x15 i))

/-- R45, and the limits of Table 2.2. -/
def judgeRole (s : State) (v : View) (p : Nat) : Nat :=
  let r := vRole v p
  if v.fld 0x01 p 0 3 = tabFld s 0x01 p 0 3 then 0
  else if !(linkDownNow s p) ∨ boundThrough s p then 2
  else if 64 < ((List.range 96).filter fun q => vRole v q == 1).length ∨ 2 < ((List.range 96).filter fun q => vRole v q == 4).length then 4
  else when (r == 4 && vWidth v p == 3) 6

/-- R47. -/
def judgePort (v : View) (p : Nat) : Nat :=
  if vRole v p = 3 then when (decide (v.fld 0x01 p 6 4 < 6) || v.fld 0x01 p 16 2 == 0) 6 else when (decide (6 ≤ v.fld 0x01 p 6 4)) 6

/-- A lane uses its generator, checker or a loopback. -/
def laneTests (v : View) (l : Nat) : Bool := v.get 0x03 l &&& (ones 12 2 ||| ones 14 2) != 0

/-- R83, R85 and R88 over the lanes of a tile. -/
def judgeLanes (v : View) (t : Nat) : Nat :=
  let ls := (List.range 32).map (32 * t + ·)
  if ls.any fun l => v.fld 0x03 l 16 4 == 7 && decide (v.fld 0x03 l 52 4 ≤ 4) && v.get 0x03 l &&& ones 14 2 != 0 then 6
  else if (vPorts v t).any fun p => (vLanes v p).any fun l => v.fld 0x03 l 12 2 != v.fld 0x03 (firstLane p) 12 2 then 6
  else when ((vPorts v t).any fun p => vRole v p != 0 && (vLanes v p).any (laneTests v)) 3

/-- R41. -/
def judgeProfile (s : State) (v : View) (t : Nat) : Nat :=
  if vProfile v t = profileOf s t then 0
  else
    let ps := vPorts (committed s) t ++ vPorts v t
    when (ps.any fun p => v.fld 0x01 p 0 3 != 0 || tabFld s 0x01 p 0 3 != 0 || !(tabFld s 0x02 p 0 6 == 0x00 || tabFld s 0x02 p 0 6 == 0x0F)) 3

/-- The rules of ports, lanes and profiles. -/
def judgePorts (s : State) (x : Engine) (v : View) : Nat :=
  let ts := tilesDrafted x
  if ts.isEmpty then 0
  else firstBad ((draftedOf x 0x0B).map (judgeProfile s v) ++ (draftedOf x 0x01).map (judgeRole s v) ++ (draftedOf x 0x01).map (judgePort v) ++
    ts.map (judgeLanes v) ++ [when (decide (4 < ((List.range 12).filter (tl128 v)).length)) 4])

/-! Guaranteed minimums (R151) and route tables (R169). -/

/-- R151 for a port: SVC_RATE, or the raw rate at RATE_MAX and WIDTH. -/
def judgeRate (v : View) (p : Nat) : Nat :=
  let sum := sumOf ((List.range 97).map fun f => v.fld 0x07 (97 * p + f) 0 16)
  let svc := v.fld 0x06 p 0 16
  if vWidth v p = 0 then 0
  else if svc ≠ 0 then when (decide (svc < sum)) 4
  else when (decide (widthLanes (vWidth v p) * rateGt (v.fld 0x01 p 6 4) < 20 * sum)) 4

/-- The ports whose R151 a chart's drafts may change. -/
def ratePorts (x : Engine) : List Nat :=
  (draftedOf x 0x01 ++ draftedOf x 0x06 ++ (draftedOf x 0x07).map (· / 97) ++ ((draftedOf x 0x0B).map fun t => (List.range 8).map (8 * t + ·)).flatten).eraseDups

/-- LINK_EN of a router in a view. -/
def vLinks (v : View) (pl r : Nat) : Nat := v.fld 0x09 (48 * pl + r) 0 4

/-- One relaxation of the distances to a destination over enabled links. -/
def relax (v : View) (pl : Nat) (ds : List Nat) : List Nat :=
  (List.range 48).map fun r => ((List.range 4).filter fun d => (vLinks v pl r).testBit d).foldl (fun m d => min m (nth 99 ds (neighbour r d) + 1)) (nth 99 ds r)

/-- Distances of every router to a destination, exact up to 17 hops. -/
def distances (v : View) (pl d : Nat) : List Nat :=
  (List.range 17).foldl (fun ds _ => relax v pl ds) ((List.range 48).map fun r => if r = d then 0 else 99)

/-- The route entry of a router for a destination is right under the distances. -/
def routeOk (v : View) (pl d : Nat) (ds : List Nat) (r : Nat) : Bool :=
  let e := v.get 0x08 (2304 * pl + 48 * r + d)
  let prod := fld e 0 4
  if r = d then prod == 0
  else decide (nth 99 ds r ≤ 16) && prod.testBit (fld e 4 2) &&
    (List.range 4).all fun o => prod.testBit o == ((vLinks v pl r).testBit o && decide (nth 99 ds (neighbour r o) < nth 99 ds r))

/-- R169 for a plane. -/
def routesOk (v : View) (pl : Nat) : Bool :=
  ((List.range 48).all fun r =>
    (List.range 4).all (fun o => (vLinks v pl r).testBit o == (vLinks v pl (neighbour r o)).testBit (oppositeIn o)) &&
    decide (2 ≤ ones4 (vLinks v pl r))) &&
  (List.range 48).all fun d => let ds := distances v pl d; (List.range 48).all (routeOk v pl d ds)

/-- The planes a chart drafts. -/
def planesDrafted (x : Engine) : List Nat := ((draftedOf x 0x08).map (· / 2304) ++ (draftedOf x 0x09).map (· / 48)).eraseDups

/-! Virtual switches and bindings (R59, R183-R185). -/

/-- The vPPBs of a VCS that are bound or lost. -/
def vBound (v : View) (c : Nat) : List Nat :=
  (List.range 64).filter fun i => bstate (v.get 0x11 (64 * c + i)) == 1 || bstate (v.get 0x11 (64 * c + i)) == 2

/-- R183 for a VCS. -/
def judgeVcs (v : View) (c : Nat) : Nat :=
  let e := v.get 0x10 c
  let en := fld e 14 1 == 1
  let on := (v.idx 0x10).filter fun k => v.fld 0x10 k 14 1 == 1
  if 1024 < sumOf (on.map fun k => v.fld 0x10 k 7 7) then 4
  else if (vBound v c).any fun i => !en || decide (fld e 7 7 ≤ i) then 2
  else if !en then 0
  else if vWidth v (fld e 0 7) = 0 then 5
  else if vRole v (fld e 0 7) ≠ 1 then 6
  else when (on.any fun k => k != c && v.fld 0x10 k 0 7 == fld e 0 7) 2

/-- Registered granules of a DSP's members in a view. -/
def vMember (v : View) (p : Nat) : Bool := (List.range 16).any fun ld => v.fld 0x19 (16 * p + ld) 0 32 != 0

/-- Two bindings name one object, or a whole device and one of its logical devices (R184). -/
def bindClash (a b : Entry) : Bool :=
  match btype a, btype b with
  | 3, 3 => bpld a == bpld b
  | 1, 1 => bport a == bport b
  | 1, 2 => bport a == bport b
  | 2, 1 => bport a == bport b
  | 2, 2 => bport a == bport b && bld a == bld b
  | _, _ => false

/-- What a new binding names exists: its VCS and vPPB, and the DSP, logical device or PLD. -/
def bindTarget (s : State) (v : View) (i : Nat) : Bool :=
  let b := v.get 0x11 i
  v.fld 0x10 (i / 64) 14 1 == 1 && decide (i % 64 < v.fld 0x10 (i / 64) 7 7) &&
  (match btype b with
   | 1 => vRole v (bport b) == 2
   | 2 => vRole v (bport b) == 2 && !((smGet {} s.partners (bport b)).st == 2 && decide ((smGet {} s.partners (bport b)).nld ≤ bld b))
   | 3 => v.fld 0x14 (bpld b) 36 1 == 1
   | _ => false)

/-- The vPPBs of a VCS bound, in a view, to DSPs whose devices run CXL.cache (R58). -/
def cachingBound (s : State) (v : View) (vcs : Nat) : Nat :=
  ((List.range 64).filter fun k =>
    let b := v.get 0x11 (64 * vcs + k)
    bstate b == 1 && (btype b == 1 || btype b == 2) && smGet false s.cxlCache (bport b)).length

/-- R184, R185 for a binding that the COMMIT leaves bound: new is whether this COMMIT binds it. -/
def judgeBinding (s : State) (v : View) (i : Nat) (new : Bool) : Nat :=
  let b := v.get 0x11 i
  if bstate b ≠ 1 ∧ bstate b ≠ 2 then 0
  else if new ∧ !(bindTarget s v i) then 5
  else if (btype b = 1 ∨ btype b = 2) ∧ (vMember v (bport b) ∨ (new ∧ (smGet {} s.partners (bport b)).st = 4)) then 2
  else if (v.idx 0x11).any fun j => j != i && (bstate (v.get 0x11 j) == 1 || bstate (v.get 0x11 j) == 2) && bindClash b (v.get 0x11 j) then 2
  else when (new && decide (16 < cachingBound s v (i / 64))) 4   -- at most 16 caching devices per VCS (R58)

/-! Decoders and G-FAM ranges (R180, R182, R189). -/

/-- A range entry is in use: COMMITTED or VALID. -/
def inUse (e : Entry) : Bool := fld e 47 1 == 1
/-- Its first granule. -/
def rBase (e : Entry) : Nat := fld e 92 36
/-- Its length in granules. -/
def rSize (e : Entry) : Nat := fld e 56 36
/-- Two ranges meet. -/
def rOverlap (a b : Entry) : Bool := overlap (rBase a) (rSize a) (rBase b) (rSize b)

/-- The order and overlap rules among the n decoders from index base, for decoder i. -/
def decodersClash (v : View) (t base n i : Nat) : Bool :=
  let e := v.get t i
  (List.range n).any fun k =>
    let j := base + k
    let o := v.get t j
    j != i && inUse o && (rOverlap e o || (j + 1 == i && decide (rBase e < rBase o + rSize o)) || (j == i + 1 && decide (rBase o < rBase e + rSize e)))

/-- NVPPB of the enabled VCS of a USP in a view. -/
def vNvppb (v : View) (u : Nat) : Nat :=
  match (v.idx 0x10).find? fun k => v.fld 0x10 k 14 1 == 1 && v.fld 0x10 k 0 7 == u with
  | some k => v.fld 0x10 k 7 7
  | none => 0

/-- R180 for a USP decoder. -/
def judgeUspDecoder (v : View) (i : Nat) : Nat :=
  let e := v.get 0x12 i
  let u := i / 32
  if !(inUse e) then 0
  else when (rSize e == 0 || rSize e % 2 ^ fld e 52 4 != 0 || decodersClash v 0x12 (32 * u) 32 i ||
    (List.range (2 ^ fld e 52 4)).any (fun n => decide (vNvppb v u ≤ tgtOf e n)) ||
    (List.range 16).any fun k => inUse (v.get 0x16 (16 * u + k)) && rOverlap e (v.get 0x16 (16 * u + k))) 6

/-- R180, R182 for a decoder of a vPPB: it is the host's only while the vPPB is bound to a pooled logical device. -/
def judgeVppbDecoder (v : View) (i : Nat) : Nat :=
  let e := v.get 0x13 i
  let b := v.get 0x11 (i / 16)
  if !(inUse e) then 0
  else when (bstate b != 1 || btype b != 3 || rSize e == 0 || rSize e % 2 ^ fld e 52 4 != 0 || decodersClash v 0x13 (i / 16 * 16) 16 i) 6

/-- R189 for a G-FAM range. -/
def judgeGfam (v : View) (i : Nat) : Nat :=
  let e := v.get 0x16 i
  if !(inUse e) then 0
  else when (rSize e == 0 || rSize e % 2 ^ fld e 52 4 != 0 || decide (0xFFE < fld e 32 12 + 2 ^ fld e 52 4 - 1) ||
    (List.range 32).any fun k => inUse (v.get 0x12 (32 * (i / 16) + k)) && rOverlap e (v.get 0x12 (32 * (i / 16) + k))) 6

/-! The pool (R187, R188, R194). -/

/-- The key of a member's granule. -/
def granKey (m g : Nat) : Nat := m * 2 ^ 28 + g
/-- The granules of a run that the pool holds in a state where they may be given out or shared: CLEAN or HELD. -/
def readyGranules (s : State) (m a n : Nat) : Nat :=
  (s.granules.filter fun g => decide (granKey m a ≤ g.1 ∧ g.1 < granKey m a + n) && (g.2.st == 2 || g.2.st == 3)).length
/-- R194 over a run of a member's granules. -/
def granulesStatus (s : State) (v : View) (m a n : Nat) : Nat :=
  if smGet false s.poolLost m ∨ v.fld 0x19 m 0 32 < a + n then 5
  else when (decide (readyGranules s m a n < n)) 3

/-- A region in a view that is active and holds a granule of a port and logical device. -/
def vRegionAt (v : View) (p ld g : Nat) : Option Nat :=
  (v.idx 0x20).find? fun r =>
    let e := v.get 0x20 r
    rstate e == 1 && fld e 65 7 == p && fld e 61 4 == ld && decide (fld e 100 28 ≤ g ∧ g < fld e 100 28 + fld e 72 28)

/-- The host of a PLD is an agent of a domain: the host of the VCS that binds the PLD. -/
def hostInDomain (v : View) (pld cd : Nat) : Bool :=
  (v.idx 0x11).any fun i =>
    let b := v.get 0x11 i
    btype b == 3 && bstate b == 1 && bpld b == pld &&
    (v.idx 0x22).any fun c =>
      v.fld 0x22 c 0 2 == 1 && v.fld 0x22 c 4 2 == 0 && v.fld 0x22 c 9 7 == v.fld 0x10 (i / 64) 0 7 && (v.get 0x21 cd).getLsbD (64 + c)

/-- Two extents may hold the same granules (R188): both SHARED, the granules in one shared region, both hosts agents of its domain. -/
def mayShare (v : View) (a b : Entry) : Bool :=
  let lo := max (emgran a) (emgran b)
  let hi := min (emgran a + engran a) (emgran b + engran b) - 1
  fld a 21 1 == 1 && fld b 21 1 == 1 &&
  (match vRegionAt v (emport a) (emld a) lo with
   | some r =>
     let cd := v.fld 0x20 r 57 4
     hostInDomain v (epld a) cd && hostInDomain v (epld b) cd &&
     (List.range (hi + 1 - lo)).all fun k =>
       match vRegionAt v (emport a) (emld a) (lo + k) with | some q => v.fld 0x20 q 57 4 == cd | none => false
   | none => false)

/-- Two extents hold the same member granules. -/
def membersMeet (a b : Entry) : Bool := emport a == emport b && emld a == emld b && overlap (emgran a) (engran a) (emgran b) (engran b)

/-- The extents of a view that are not free, but for one. -/
def vExtents (v : View) (but : Nat) : List Entry := ((v.idx 0x15).filter fun j => j != but && estate (v.get 0x15 j) != 0).map (v.get 0x15)

/-- R194's limits, and R188's overlaps, for an extent that is not free. -/
def extentRules (v : View) (i : Nat) : Nat :=
  let e := v.get 0x15 i
  let os := vExtents v i
  let own := os.filter fun o => epld o == epld e
  if engran e = 0 then 6
  else if v.fld 0x14 (epld e) 36 1 ≠ 1 then 5
  else if v.fld 0x14 (epld e) 0 28 < elgran e + engran e ∨ 64 ≤ own.length then 4
  else if own.any fun o => overlap (elgran e) (engran e) (elgran o) (engran o) then 2
  else when (os.any fun o => membersMeet e o && !(mayShare v e o)) 2

/-- Two extent entries name the same member granules. -/
def sameRun (a b : Entry) : Bool := emport a == emport b && emld a == emld b && emgran a == emgran b && engran a == engran b

/-- R188, R194 and Table 12.6 step 1 for an extent: granules that the entry did not hold are judged too. -/
def judgeExtent (s : State) (v : View) (i : Nat) : Nat :=
  let e := v.get 0x15 i
  let m := 16 * emport e + emld e
  let o := tabVal s 0x15 i
  if estate e = 0 then 0
  else if estate o ≠ 0 ∧ sameRun o e then extentRules v i
  else if (smGet {} s.partners (emport e)).st = 4 then 2
  else firstBad [granulesStatus s v m (emgran e) (engran e), extentRules v i]

/-- BIND.PLD (Table 7.11): deletion needs every extent free; MAXG covers every extent. -/
def judgePld (v : View) (i : Nat) : Nat :=
  let es := (vExtents v 16384).filter fun e => epld e == i
  if v.fld 0x14 i 36 1 = 0 then when (!es.isEmpty) 2
  else when (es.any fun e => decide (v.fld 0x14 i 0 28 < elgran e + engran e)) 4

/-! Coherence (R199-R202, Table 8.10). -/

/-- All granules of a SHARED extent outside [a, a + n) lie in active regions of a domain, and some lie outside (R199). -/
def straddles (v : View) (e : Entry) (a n cd self : Nat) : Bool :=
  let out := ((List.range (engran e)).map (emgran e + ·)).filter fun g => !(decide (a ≤ g ∧ g < a + n))
  fld e 21 1 == 1 && !out.isEmpty &&
  out.all fun g => match vRegionAt v (emport e) (emld e) g with | some r => r != self && v.fld 0x20 r 57 4 == cd | none => false

/-- Two region entries declare the same range for the same domain. -/
def sameRegion (a b : Entry) : Bool := fld a 57 4 == fld b 57 4 && fld a 61 11 == fld b 61 11 && fld a 72 56 == fld b 72 56

/-- Table 8.10, R199 and R228 for a region that the COMMIT makes active, or whose range it changes. -/
def judgeRegion (s : State) (v : View) (i : Nat) : Nat :=
  let e := v.get 0x20 i
  let p := fld e 65 7
  let ld := fld e 61 4
  let a := fld e 100 28
  let n := fld e 72 28
  if rstate e = 0 then 0
  else if n = 0 ∨ 16777216 < n then 6
  else if rstate e ≠ 1 ∨ (rstate (tabVal s 0x20 i) = 1 ∧ sameRegion (tabVal s 0x20 i) e) then 0
  else if v.fld 0x21 (fld e 57 4) 0 1 = 0 ∨
      (v.idx 0x20).any (fun j => j != i && rstate (v.get 0x20 j) != 0 && v.fld 0x20 j 65 7 == p && v.fld 0x20 j 61 4 == ld &&
        overlap a n (v.fld 0x20 j 100 28) (v.fld 0x20 j 72 28)) then 6
  else if vRole v p ≠ 2 ∨ (smGet {} s.partners p).nld ≤ ld then 5
  else if (v.idx 0x11).any (fun j => let b := v.get 0x11 j
      (bstate b == 1 || bstate b == 2) && bport b == p && (btype b == 1 || (btype b == 2 && bld b == ld))) then 2
  else when ((vExtents v 16384).any fun x => emport x == p && emld x == ld && overlap a n (emgran x) (engran x) &&
      !(straddles v x a n (fld e 57 4) i)) 2

/-- Table 8.10 for a domain that the COMMIT disables. -/
def judgeDomain (s : State) (v : View) (i : Nat) : Nat :=
  if v.fld 0x21 i 0 1 = 1 ∨ tabFld s 0x21 i 0 1 = 0 then 0
  else when (fld (v.get 0x21 i) 64 64 != 0 || (v.idx 0x20).any fun r => rstate (v.get 0x20 r) != 0 && v.fld 0x20 r 57 4 == i) 2

/-- The domains of an agent in a view. -/
def domainsOf (v : View) (c : Nat) : List Nat := (List.range 16).filter fun d => (v.get 0x21 d).getLsbD (64 + c)

/-- Another active or removing agent is served by the same port: the same local port, or on whichever chip the port of the same PID. -/
def portServed (v : View) (c : Nat) : Bool :=
  (v.idx 0x22).any fun k => k != c && (v.fld 0x22 k 0 2 == 1 || v.fld 0x22 k 0 2 == 3) &&
    (v.fld 0x22 k 36 12 == v.fld 0x22 c 36 12 || (v.fld 0x22 k 4 2 != 2 && v.fld 0x22 c 4 2 != 2 && v.fld 0x22 k 9 7 == v.fld 0x22 c 9 7))

/-- The agent's port has no PID (R202): its entry names none, or no entry of the PID table is its local port's. -/
def noPid (v : View) (c : Nat) : Bool :=
  v.fld 0x22 c 36 12 == 0xFFF ||
    (v.fld 0x22 c 4 2 != 2 && !((v.idx 0x17).any fun i => v.fld 0x17 i 12 3 == 1 && v.fld 0x17 i 0 7 == v.fld 0x22 c 9 7))

/-- R202 for an agent entry: a COMMIT that drafts ASTATE active adds the agent. -/
def judgeAgent (s : State) (v : View) (c : Nat) (adds : Bool) : Nat :=
  let e := v.get 0x22 c
  let p := fld e 9 7
  let old := tabFld s 0x22 c 0 2
  if fld e 0 2 ≠ 1 ∨ !adds then 0
  else if (fld e 4 2 = 0 ∧ (vRole v p ≠ 1 ∨ tabFld s 0x02 p 15 2 ≠ 2 ∨ tabFld s 0x02 p 17 1 = 0 ∨ smGet 0 s.biIds p ≠ fld e 24 12 + 1)) ∨
      (fld e 4 2 = 1 ∧ (vRole v p ≠ 2 ∨ !(smGet false s.cxlCache p))) ∨ noPid v c ∨ (domainsOf v c).any (fun d => v.fld 0x21 d 0 1 == 0) then 6
  else if old = 1 ∨ old = 3 ∨ portServed v c then 2
  else if old = 2 then (if smGet false s.lostWalked c then 2 else 3)
  else 0

/-! Slots, timers and tiles (R315, R461, R490). -/

/-- R315 for a channel. -/
def judgeSlot (s : State) (v : View) (c : Nat) : Nat :=
  let g := c / 8 * 8
  if (List.range 8).any fun k => v.fld 0x38 (g + k) 8 2 != v.fld 0x38 g 8 2 then 6
  else if v.fld 0x38 c 8 3 ≠ tabFld s 0x38 c 8 3 ∧ (slotOf s c).st ≠ 0 then 6
  else when (decide (v.fld 0x38 c 0 7 < 96) && (List.range 32).any fun k => k != c && v.fld 0x38 k 0 7 == v.fld 0x38 c 0 7) 2

/-- The GPIOs that the slot channels and the driving timers name (R490). -/
def namedPins (v : View) : List Nat :=
  (((List.range 32).map fun c => [v.fld 0x38 c 80 6, v.fld 0x38 c 88 6, v.fld 0x38 c 96 6]).flatten ++
    ((List.range 64).filter fun t => v.fld 0x32 t 16 2 != 0).map fun t => v.fld 0x32 t 18 6).filter fun p => p != 63

/-- No element occurs twice. -/
def allDistinct : List Nat → Bool
  | [] => true
  | a :: r => !(r.contains a) && allDistinct r

/-! The whole judgement. -/

/-- A PID entry names a port that exists (R39). -/
def judgePid (v : View) (i : Nat) : Nat := when (v.fld 0x17 i 12 3 != 0 && vWidth v (v.fld 0x17 i 0 7) == 0) 5

/-- The mapped port of a channel exists (R39). -/
def judgeMapped (v : View) (c : Nat) : Nat := when (decide (v.fld 0x38 c 0 7 < 96) && vWidth v (v.fld 0x38 c 0 7) == 0) 5

/-- The entries in use that hold no size (R497) are judged with their tables' rules; this is every rule but R27, R258 and R439. -/
def judgeRules (s : State) (x : Engine) : Nat :=
  let v := viewOf s x
  firstBad [
    judgePorts s x v,
    firstBad ((ratePorts x).map (judgeRate v)),
    firstBad ((planesDrafted x).map fun pl => when (!(routesOk v pl)) 6),
    firstBad ((draftedOf x 0x10).map (judgeVcs v)),
    firstBad ((draftedOf x 0x11).map fun i => judgeBinding s v i (bstate (tabVal s 0x11 i) != 1 && bstate (v.get 0x11 i) == 1)),
    firstBad ((draftedOf x 0x12).map (judgeUspDecoder v)),
    firstBad ((draftedOf x 0x13).map (judgeVppbDecoder v)),
    firstBad ((draftedOf x 0x14).map (judgePld v)),
    firstBad ((draftedOf x 0x15).map (judgeExtent s v)),
    firstBad ((draftedOf x 0x16).map (judgeGfam v)),
    firstBad ((draftedOf x 0x17).map (judgePid v)),
    firstBad ((draftedOf x 0x20).map (judgeRegion s v)),
    firstBad ((draftedOf x 0x21).map (judgeDomain s v)),
    firstBad ((draftedOf x 0x22).map fun c => judgeAgent s v c (x.drafts.any fun d => d.key == tkey 0x22 c && d.mask &&& ones 0 2 != 0)),
    firstBad ((draftedOf x 0x38).map (judgeMapped v)),
    firstBad ((draftedOf x 0x38).map (judgeSlot s v)),
    when (!(draftedOf x 0x38 ++ draftedOf x 0x32).isEmpty && !(allDistinct (namedPins v))) 6,
    firstBad ((draftedOf x 0x3E).map fun t => when (v.fld 0x3E t 0 1 != v.fld 0x3E (t / 2 * 2 + (1 - t % 2)) 0 1) 6)]

/-- The judgement of a COMMIT (R256): the status, 0 when it passes. -/
def judge (s : State) (x : Engine) : Nat :=
  if stale s x then 10 else if (lockedDraft s x).isSome then 9 else judgeRules s x

end Sys2Proof.Machine
end

