-- ==== Sys2Proof/Machine/Sequence.lean ====
section
/-! DEFINITION. What sequenced macros share: their own COMMITs at the arbiter, and drain points (R126, R256, R257, R282). -/
namespace Sys2Proof.Machine

/-- The chart's COMMIT joins the arbiter's queue (R256). -/
def askCommit (s : State) (e : Nat) (x : Engine) : State :=
  setEngine { s with arb := { s.arb with queue := s.arb.queue ++ [e] } } e { x with wait := .commit }

/-- A step of a sequenced macro drafts, and asks for its COMMIT: the step number is kept in seq. -/
def seqCommit (s : State) (e : Nat) (x : Engine) (step a b : Nat) (ds : List (Nat × Nat × Entry × Entry)) : State :=
  let d := drafts s e x ds
  if d.1 ≠ 0 then finish d.2.1 e { d.2.2 with seq := 0 } d.1
  else askCommit d.2.1 e { d.2.2 with seq := step, seqA := a, seqB := b }

/-- The drain point of a wait is reached: 0 an egress port, 1 an internal endpoint, 2 and 3 the planes' old epochs, 4 a pooled logical device,
which is drained when every member that its extents lie on is. -/
def drainOver (s : State) (kind target below : Nat) : Bool :=
  match kind with
  | 0 => drainLeft s (portEp target) below == 0
  | 1 => drainLeft s target below == 0
  | 4 => (listed s 0x15).all fun i =>
      let v := tabVal s 0x15 i
      estate v == 0 || epld v != target || drainLeft s (portEp (emport v)) below == 0
  | k => !(planeDrains s (k - 2))

/-- A macro's entry into a drain wait: the transactions looked up below the current commit number. -/
def seqDrain (s : State) (e : Nat) (x : Engine) (step a kind target : Nat) : State :=
  setEngine s e { x with wait := .drain kind target s.commitNum none, seq := step, seqA := a }

/-- A macro begins its wait for a walk (R222, R225). -/
def seqWalk (s : State) (e : Nat) (x : Engine) (step a kind obj : Nat) : State :=
  setEngine { s with walks := s.walks ++ [{ kind := kind, obj := obj, started := s.clock, engine := some e }] } e (seqWait x step a 0)

end Sys2Proof.Machine
end

