-- ==== Sys2Proof/Machine/Bind.lean ====
section
/-! DEFINITION. The BIND and COH macros (R183-R202, R225, R226, R289, R292). -/
namespace Sys2Proof.Machine

/-- BIND.VCS: vPPBs bound or lost at or above NVPPB, or in a VCS that is disabled, end it (R183, Table 11.11); the rest is judged at COMMIT. -/
def execBindVcs (e : EngineId) (s : State) : Res :=
  .next (macroOp s e 0x60 [rowBits [(5, 0), (14, 8), (22, 16), (24, 24)]] 0 .glob fun s x b =>
    let c := wfld (b 0) 0 6
    let val := mkEntry [(0, wfld (b 0) 8 7), (7, wfld (b 0) 16 7), (14, wfld (b 0) 24 1)]
    let x := readsOf s x [(0x01, wfld (b 0) 8 7)]
    if vWidth (viewOf s x) (fld val 0 7) = 0 then (5, s, x)
    else if (vBound (viewOf s x) c).any fun i => fld val 14 1 == 0 || decide (fld val 7 7 ≤ i) then (2, s, x)
    else draftWhole s e x 0x10 c val)

/-- What the chart sees with one more entry drafted whole. -/
def viewWith (s : State) (x : Engine) (t i : Nat) (val : Entry) : View :=
  let v := viewOf s x
  ⟨fun u k => if u = t ∧ k = i then val else v.get u k, fun u => if u = t then (v.idx u ++ [i]).eraseDups else v.idx u⟩

/-- The entries that say whether a binding's parts exist: its VCS, and the port of a device or the PLD. -/
def bindReads (i : Nat) (b : Entry) : List (Nat × Nat) := [(0x10, i / 64), if btype b = 3 then (0x14, bpld b) else (0x01, bport b)]

/-- Presence Detect State of vPPB i's hot-plug slot registers, as its host reads it (R284, Table 11.9). -/
def slotPresent (s : State) (i : Nat) : Bool := tabFld s 0x18 i 0 2 == 1 || tabFld s 0x18 i 0 2 == 2

/-- Power Controller Control of the same registers reads off (R284). -/
def slotPowerOff (s : State) (i : Nat) : Bool := tabFld s 0x18 i 0 2 == 2

/-- BIND.VPPB: what it names must exist (ABSENT); a vPPB that is already bound is held (CONFLICT), one that is lost is rebound (R185); the
uniqueness rules of R184 are judged at COMMIT (R256). -/
def execBindVppb (e : EngineId) (s : State) : Res :=
  .next (macroOp s e 0x61 [rowBits [(5, 0), (13, 8), (19, 16)], rowBits [(6, 0), (11, 8), (23, 16)]] 0 .glob fun s x b =>
    let i := 64 * wfld (b 0) 0 6 + wfld (b 0) 8 6
    let ty := wfld (b 0) 16 4
    let val := mkEntry [(0, ty), (4, wfld (b 1) 0 7), (11, wfld (b 1) 8 4), (15, wfld (b 1) 16 8), (24, 1)]
    if ty = 0 ∨ 3 < ty then (6, s, x)
    else if !(bindTarget s (viewWith s x 0x11 i val) i) then (5, s, x)
    else if bstate (seenVal s x 0x11 i) = 1 then (2, s, x)
    else
      let d := draftWhole s e (readsOf s x (bindReads i val)) 0x11 i val
      if d.1 ≠ 0 then d else draftWhole d.2.1 e d.2.2 0x18 i 1)

/-- BIND.UNVPPB, its second and third steps (Table 11.14): the drain point, then unbound and the slot empty. -/
def unvppbDrain (s : State) (e : Nat) (x : Engine) (i : Nat) : State :=
  let b := tabVal s 0x11 i
  if btype b = 3 then seqDrain s e x 2 i 4 (bpld b) else seqDrain s e x 2 i 0 (bport b)

/-- See unvppbDrain. -/
def unvppbLast (s : State) (e : Nat) (x : Engine) (i : Nat) : State :=
  seqCommit s e x 3 i 0 [(0x11, i, 0, ones 24 3), (0x18, i, 0, ones 0 2)]

/-- BIND.UNVPPB: step 1 is skipped when SLOT = 2. -/
def execBindUnvppb (e : EngineId) (s : State) : Res :=
  .next (macroThen s e 0x62 [rowBits [(5, 0), (13, 8)]] 0 .glob true fun s x b =>
    let i := 64 * wfld (b 0) 0 6 + wfld (b 0) 8 6
    if bstate (tabVal s 0x11 i) ≠ 1 ∧ bstate (tabVal s 0x11 i) ≠ 2 then finish s e x 5
    else if tabFld s 0x18 i 0 2 = 2 then unvppbDrain s e x i
    else seqCommit s e x 1 i 0 [(0x18, i, 2, ones 0 2)])

/-- BIND.PLD. -/
def execBindPld (e : EngineId) (s : State) : Res :=
  .next (macroOp s e 0x63 [rowBits [(7, 0), (8, 8), (63, 36)]] 0 .glob fun s x b =>
    let i := wfld (b 0) 0 8
    judgedDraft (draftWhole s e x 0x14 i (mkEntry [(0, wfld (b 0) 36 28), (36, wfld (b 0) 8 1)])) fun v => judgePld v i)

/-! BIND.ADD (R194). -/

/-- The runs of a member that open drafts hold: those drafted as not free. -/
def openRuns (s : State) (p ld : Nat) : List (Nat × Nat) :=
  ((List.range 16).map fun f => (engineOf s f).drafts).flatten.filterMap fun d =>
    if keyTab d.key = 0x15 ∧ estate d.val ≠ 0 ∧ emport d.val = p ∧ emld d.val = ld then some (emgran d.val, engran d.val) else none

/-- The first of a rising list of granules at which n consecutive ones begin: run is where the present run began and its length. -/
def firstRun (n : Nat) : Nat × Nat → List Nat → Option Nat
  | run, [] => if n ≤ run.2 then some run.1 else none
  | run, g :: r => if n ≤ run.2 then some run.1 else firstRun n (if g = run.1 + run.2 then (run.1, run.2 + 1) else (g, 1)) r

/-- The lowest-numbered run of CLEAN granules of a member that no other open draft holds. -/
def cleanRun (s : State) (x : Engine) (p ld n : Nat) : Option Nat :=
  let held := openRuns s p ld ++ (x.drafts.filterMap fun d => if keyTab d.key = 0x15 ∧ estate d.val ≠ 0 ∧ emport d.val = p ∧ emld d.val = ld then some (emgran d.val, engran d.val) else none)
  let m := 16 * p + ld
  let gs := (s.granules.filter fun g => g.1 / 2 ^ 28 == m && g.2.st == 2).map fun g => g.1 % 2 ^ 28
  firstRun n (0, 0) (gs.filter fun g => held.all fun r => decide (g < r.1 ∨ r.1 + r.2 ≤ g))

/-- The lowest extent entry that is free and not reserved by another chart. -/
def freeExtent (s : State) (e : Nat) (x : Engine) : Option Nat :=
  findFrom (fun i => estate (seenVal s x 0x15 i) == 0 && !(reservedElsewhere s e (tkey 0x15 i))) 0 16384

/-- BIND.ADD: the limits and overlaps of R188 and R194 are judged at the draft and at COMMIT, the granules at COMMIT (R194), as NGRAN 0 is (R497). -/
def execBindAdd (e : EngineId) (s : State) : Res :=
  .next (macroOp s e 0x64 [rowBits [(7, 0), (14, 8), (19, 16), (20, 20), (21, 21)], rowBits [(27, 0), (55, 28)], rowBits [(27, 0)]] 0 .glob fun s x b =>
    let pld := wfld (b 0) 0 8
    let p := wfld (b 0) 8 7
    let ld := wfld (b 0) 16 4
    let n := wfld (b 1) 28 28
    let m := 16 * p + ld
    if 96 ≤ p ∨ registered s m = 0 ∨ smGet false s.poolLost m ∨ fld (seenVal s x 0x14 pld) 36 1 = 0 then (5, s, x)
    else
      match freeExtent s e x, (if wfld (b 0) 21 1 = 1 then cleanRun s x p ld n else some (wfld (b 2) 0 28)) with
      | some i, some g =>
        let d := judgedDraft (draftWhole s e (readsOf s x [(0x14, pld)]) 0x15 i
          (mkEntry [(100, wfld (b 1) 0 28), (72, g), (44, n), (36, pld), (29, p), (25, ld), (22, 1), (21, wfld (b 0) 20 1)]))
          fun v => if n = 0 then 0 else extentRules v i
        if d.1 ≠ 0 then d else (0, d.2.1, regSet (regSet d.2.2 1 (BitVec.ofNat 64 i)) 2 (BitVec.ofNat 64 g))
      | _, _ => (4, s, x))

/-- BIND.RELEASE (Table 7.9): MFLAGS bit 0 is FORCE. An extent whose state the table does not list for it stays as it is (R14). -/
def execBindRelease (e : EngineId) (s : State) : Res :=
  .next (onOp s e 0x65 fun s x w =>
    if x.seq ≠ 0 then s
    else
      let st := macroStatus s e x w [rowBits [(13, 0)]] 1 .glob false
      if st ≠ 0 then finish s e x st
      else
        let i := wfld (blockWord x w 0) 0 14
        let force := mflagsOf w == 1
        let old := estate (seenVal s x 0x15 i)
        let x := regSet x 1 0
        if old = 4 ∨ (force ∧ (old = 2 ∨ old = 3)) then
          let d := draft s e x 0x15 i 0 (ones 22 3)
          finish d.2.1 e d.2.2 d.1
        else if old = 2 then
          let d := draft s e x 0x15 i (setFld 0 22 3 3) (ones 22 3)
          finish d.2.1 e d.2.2 d.1
        else finish s e x (if old = 1 ∨ old = 3 then 0 else 5))

/-- BIND.GFAM (R189). -/
def execBindGfam (e : EngineId) (s : State) : Res :=
  .next (macroOp s e 0x66 [rowBits [(6, 0), (11, 8)], tabWordMask 0x16 0, tabWordMask 0x16 1] 0 .glob fun s x b =>
    let u := wfld (b 0) 0 7
    if !(portExists s u) then (5, s, x)
    else if vRole (viewOf s x) u ≠ 1 then (6, s, x)
    else
      let i := 16 * u + wfld (b 0) 8 4
      judgedDraft (draftWhole s e (readsOf s x [(0x01, u)]) 0x16 i (entry2 b 1)) fun v => judgeGfam v i)

/-- BIND.PID: 0xFFF is no PID (R55), and the port it names exists (R39). -/
def execBindPid (e : EngineId) (s : State) : Res :=
  .next (macroOp s e 0x67 [rowBits [(11, 0)] ||| tabWordMask 0x17 0 * 2 ^ 32] 0 .glob fun s x b =>
    let i := wfld (b 0) 0 12
    if i = 0xFFF then (6, s, x)
    else judgedDraft (draftWhole s e x 0x17 i (BitVec.ofNat 256 (wfld (b 0) 32 32))) fun v => judgePid v i)

/-! Coherence. -/

/-- COH.DOMAIN. -/
def execCohDomain (e : EngineId) (s : State) : Res :=
  .next (macroOp s e 0x70 [rowBits [(3, 0), (8, 8)]] 0 .glob fun s x b =>
    let i := wfld (b 0) 0 4
    judgedDraft (draft s e x 0x21 i (BitVec.ofNat 256 (wfld (b 0) 8 1)) (ones 0 1)) fun v => judgeDomain s v i)

/-- The drafts of an agent's bit in the domains of a mask. -/
def agentBits (c : Nat) (ds : List Nat) (on : Bool) : List (Nat × Nat × Entry × Entry) :=
  ds.map fun d => (0x21, d, setFld 0 (64 + c) 1 (if on then 1 else 0), ones (64 + c) 1)

/-- COH.AGENT.ADD (R202). -/
def execCohAgentAdd (e : EngineId) (s : State) : Res :=
  .next (macroOp s e 0x71 [rowBits [(5, 0), (31, 16)], tabWordMask 0x22 0] 0 .glob fun s x b =>
    let c := wfld (b 0) 0 6
    let val := setFld (entryOfWords [b 1]) 0 2 1
    if fld val 4 2 ≤ 1 ∧ !(portExists s (fld val 9 7)) then (5, s, x)
    else
      let d := draftWhole s e x 0x22 c val
      if d.1 ≠ 0 then d
      else judgedDraft (drafts d.2.1 e d.2.2 (agentBits c ((List.range 16).filter fun d => wfld (b 0) (16 + d) 1 == 1) true))
        fun v => judgeAgent s v c true)

/-- COH.AGENT.REMOVE, its last step: absent, and out of every domain. -/
def agentRemoveLast (s : State) (e : Nat) (x : Engine) (c : Nat) : State :=
  seqCommit s e x 3 c 0 ((0x22, c, 0, ones 0 2) :: agentBits c (domainsOf (committed s) c) false)

/-- COH.AGENT.REMOVE: an agent that is being removed already is walked again. -/
def execCohAgentRemove (e : EngineId) (s : State) : Res :=
  .next (macroThen s e 0x72 [rowBits [(5, 0)]] 0 .glob true fun s x b =>
    let c := wfld (b 0) 0 6
    match tabFld s 0x22 c 0 2 with
    | 0 => finish s e x 5
    | 3 => seqWalk s e x 2 c 1 c
    | _ => seqCommit s e x 1 c 0 [(0x22, c, 3, ones 0 2)])

/-- COH.REGION.SHARE: its port and logical device must exist (ABSENT); then Table 8.10's other rules and R199. NGRAN 0 is left to the COMMIT (R497). -/
def execCohRegionShare (e : EngineId) (s : State) : Res :=
  .next (macroOp s e 0x73 [rowBits [(6, 0), (11, 8), (19, 16)], rowBits [(27, 0), (55, 28)]] 0 .glob fun s x b =>
    let p := wfld (b 0) 0 7
    let ld := wfld (b 0) 8 4
    let cd := wfld (b 0) 16 4
    if vRole (viewOf s x) p ≠ 2 ∨ (smGet {} s.partners p).nld ≤ ld then (5, s, x)
    else
      match findFrom (fun i => rstate (seenVal s x 0x20 i) == 0 && !(reservedElsewhere s e (tkey 0x20 i))) 0 256 with
      | none => (4, s, x)
      | some i =>
        let d := judgedDraft (draftWhole s e (readsOf s x [(0x01, p), (0x21, cd)]) 0x20 i
          (mkEntry [(100, wfld (b 1) 0 28), (72, wfld (b 1) 28 28), (65, p), (61, ld), (57, cd), (55, 1)]))
          fun v => if wfld (b 1) 28 28 = 0 then 0 else judgeRegion s v i
        if d.1 ≠ 0 then d else (0, d.2.1, regSet d.2.2 1 (BitVec.ofNat 64 i)))

/-- Some extent that is not free lies over a region. -/
def regionHeld (s : State) (r : Nat) : Bool :=
  let v := tabVal s 0x20 r
  (vExtents (committed s) 16384).any fun x => emport x == fld v 65 7 && emld x == fld v 61 4 && overlap (fld v 100 28) (fld v 72 28) (emgran x) (engran x)

/-- COH.REGION.RELEASE. -/
def execCohRegionRelease (e : EngineId) (s : State) : Res :=
  .next (macroThen s e 0x74 [rowBits [(7, 0)]] 0 .glob true fun s x b =>
    let r := wfld (b 0) 0 8
    if rstate (tabVal s 0x20 r) = 0 then finish s e x 5
    else if regionHeld s r then finish s e x 2
    else if rstate (tabVal s 0x20 r) = 2 then seqWalk s e x 2 r 2 r
    else seqCommit s e x 1 r 0 [(0x20, r, setFld 0 55 2 2, ones 55 2)])

/-- COH.REGION.RELEASE, its last step. -/
def regionReleaseLast (s : State) (e : Nat) (x : Engine) (r : Nat) : State := seqCommit s e x 3 r 0 [(0x20, r, 0, ones 55 2)]

/-- COH.LOOKUP. -/
def execCohLookup (e : EngineId) (s : State) : Res :=
  .next (macroRead s e 0x75 [rowBits [(7, 0)], allBits] .glob fun s x b =>
    let r := wfld (b 0) 0 8
    let a := (b 1).toNat
    let x := readsOf s x [(0x20, r)]
    let v := seenVal s x 0x20 r
    if rstate v ≠ 1 ∨ a < fld v 100 28 * 2 ^ 28 ∨ (fld v 100 28 + fld v 72 28) * 2 ^ 28 ≤ a then (5, x)
    else
      let k := r * 2 ^ 46 + (a - fld v 100 28 * 2 ^ 28) / 64
      let ent := entBits (entryOf s k)
      (0, regSet (regSet (regSet x 1 (BitVec.ofNat 64 k)) 2 (entryWord ent 0)) 3 (entryWord ent 1)))

end Sys2Proof.Machine
end

