-- ==== Sys2Proof/Machine/Movers.lean ====
section
/-! DEFINITION. Data movers: descriptors and their checks, tickets, lines, completion (R345-R351, R363, R367). -/
namespace Sys2Proof.Machine

/-! The fields of a descriptor (Table 14.7), by its words. -/

/-- OP: 1 COPY, 2 FILL, 3 ZERO, 4 COMPARE, 5 DIGEST. -/
def dOp (w : List Word) : Nat := wfld (nth 0 w 0) 0 8
/-- SAS and DAS: 0 HOST, 1 DPA, 2 HBM. -/
def dSas (w : List Word) : Nat := wfld (nth 0 w 0) 8 8
/-- See dSas. -/
def dDas (w : List Word) : Nat := wfld (nth 0 w 0) 16 8
/-- FLAGS. -/
def dFlags (w : List Word) : Nat := wfld (nth 0 w 0) 24 8
/-- LEN. -/
def dLen (w : List Word) : Nat := (nth 0 w 1).toNat
/-- SRC. -/
def dSrc (w : List Word) : Nat := (nth 0 w 2).toNat
/-- DST. -/
def dDst (w : List Word) : Nat := (nth 0 w 3).toNat
/-- PATTERN. -/
def dPat (w : List Word) : Word := nth 0 w 4
/-- Port of the source, or of the destination. -/
def dPort (w : List Word) (dst : Bool) : Nat := wfld (nth 0 w 5) (if dst then 16 else 0) 8
/-- Logical device of the source, or of the destination. -/
def dLd (w : List Word) (dst : Bool) : Nat := wfld (nth 0 w 5) (if dst then 24 else 8) 8
/-- The operation reads a source. -/
def dReads (w : List Word) : Bool := dOp w == 1 || dOp w == 4 || dOp w == 5
/-- The operation names a destination. -/
def dHasDst (w : List Word) : Bool := dOp w != 5

/-- A named side: its address space, address, port and logical device. -/
structure Side where
  sp : Nat
  a : Nat
  port : Nat
  ld : Nat
  deriving DecidableEq, Repr

/-- The side of a descriptor. -/
def sideOf (w : List Word) (dst : Bool) : Side := ⟨if dst then dDas w else dSas w, if dst then dDst w else dSrc w, dPort w dst, dLd w dst⟩
/-- The sides a descriptor uses, with whether each is the destination. -/
def sidesOf (w : List Word) : List (Side × Bool) :=
  (if dReads w then [(sideOf w false, false)] else []) ++ (if dHasDst w then [(sideOf w true, true)] else [])

/-- A side breaks Table 14.7, R346 or R363. -/
def sideBad (s : State) (d : Side) (len : Nat) : Bool :=
  decide (2 < d.sp) || d.a % 64 != 0 || decide (2 ^ 64 < d.a + len) ||
  (d.sp == 1 && (decide (2 ^ 53 < d.a + len) || decide (95 < d.port) || roleOf s d.port != 2 || decide (15 < d.ld)))

/-- The descriptor breaks Table 14.7, R345 or R346 (INVALID). -/
def descBad (s : State) (w : List Word) : Bool :=
  decide (dOp w = 0 ∨ 5 < dOp w) || decide (1 < dFlags w) || dLen w % 64 != 0 || decide (dLen w < 64 ∨ 2 ^ 32 < dLen w) ||
  ((dOp w != 2 && dOp w != 5) && dPat w != 0) || (sidesOf w).any fun d => sideBad s d.1 (dLen w)

/-- The right to a space (R346): HOST needs a master with a HOST space, DPA and HBM Fabric tier, HBM a partition that the submitter holds; Steward has HP0. -/
def sideRight (s : State) (x : Engine) (d : Side) (len : Nat) : Nat :=
  match d.sp with
  | 0 => if x.master.isNone ∨ x.sub / 0x2000 = 2 ∨ x.subReset then 1 else 0
  | 1 => if x.tier < 2 then 1 else 0
  | _ =>
    if x.tier < 2 then 1
    else if x.sub / 0x2000 = 2 ∧ 0x800000000 ≤ d.a ∧ d.a + len ≤ 0x840000000 then 0
    else partitionCheck s x.sub d.a len

/-- A span as a fence unit matches it (Table 15.3), none for HBM. -/
def sideAccess (d : Side) (off len : Nat) (wr : Bool) : Option Access :=
  match d.sp with
  | 0 => some ⟨0, d.a + off, len, !wr, wr⟩
  | 1 => some ⟨1, d.port * 2 ^ 57 + d.ld * 2 ^ 53 + d.a + off, len, !wr, wr⟩
  | _ => none

/-- A span judged by a master's fence unit; a submitter with no master meets the lock regions alone. -/
def spanCheck (s : State) (m : Option Nat) (a : Option Access) : Nat × State :=
  match a, m with
  | some a, some m => fenceCheck s m a
  | some a, none => ((judgeAccess s 153 a).1, s)
  | none, _ => (0, s)

/-- The first status that is not OK among the sides, judged in turn. -/
def spansCheck (s : State) (m : Option Nat) (off len : Nat) : List (Side × Bool) → Nat × State
  | [] => (0, s)
  | d :: ds =>
    let c := spanCheck s m (sideAccess d.1 off len d.2)
    if c.1 ≠ 0 then c else spansCheck c.2 m off len ds

/-- The status of the sides' rights. -/
def rightsCheck (s : State) (x : Engine) (len : Nat) : List (Side × Bool) → Nat
  | [] => 0
  | d :: ds => if sideRight s x d.1 len ≠ 0 then sideRight s x d.1 len else rightsCheck s x len ds

/-- Descriptors of a submitter that are not complete, and its limit: DM_LIMIT of its function, else 64. -/
def descLimit (s : State) (sub : Nat) : Nat := match subFunc sub with | some f => funcFld s f 52 7 | none => 64
/-- See descLimit. -/
def descsOf (s : State) (sub : Nat) : Nat := (s.svc.descs.filter fun d => d.2.sub == sub && !d.2.finished).length

/-- Accepting a descriptor (R347): the status, the state, the slot. -/
def acceptDesc (s : State) (e : Nat) (x : Engine) (w : List Word) : Nat × State × Nat :=
  if descBad s w then (6, s, 0)
  else if rightsCheck s x (dLen w) (sidesOf w) ≠ 0 then (rightsCheck s x (dLen w) (sidesOf w), s, 0)
  else
    let c := spansCheck s x.master 0 (dLen w) (sidesOf w)
    if c.1 ≠ 0 then (c.1, c.2, 0)
    else if descLimit c.2 x.sub ≤ descsOf c.2 x.sub then (4, c.2, 0)
    else match freeDesc c.2 with
      | none => (4, c.2, 0)
      | some i =>
        let f := subFunc x.sub
        (0, placeDesc c.2 i { words := w, sub := x.sub, func := f, gen := (match f with | some f => funcGen s f | none => 0), master := x.master, engine := e
                              chart := x.serial, crc := dPat w }, i)

/-- The block of a descriptor: the bits that Table 14.7 defines. -/
def descMasks : List Nat := [rowBits [(31, 0)], allBits, allBits, allBits, allBits, rowBits [(31, 0)], 0, 0]

/-- The eight words of a descriptor's block. -/
def descWords (b : Nat → Word) : List Word := (List.range 8).map b

/-- MOVER.RUN: the descriptor is issued and waited for. -/
def execMoverRun (e : EngineId) (s : State) : Res :=
  .next (macroThen s e 0xC8 descMasks 0 .any false fun s x b =>
    let a := acceptDesc s e x (descWords b)
    if a.1 ≠ 0 then finish a.2.1 e x a.1 else setEngine a.2.1 e (seqWait x 1 a.2.2 0))

/-- The ticket of a slot: its number and its issue count (R350). -/
def ticketOf (s : State) (i : Nat) : Word := BitVec.ofNat 64 (i + smGet 0 s.svc.issues i * 1024)

/-- MOVER.POST: the descriptor is issued; G1 is its ticket. -/
def execMoverPost (e : EngineId) (s : State) : Res :=
  .next (macroThen s e 0xC9 descMasks 0 .any false fun s x b =>
    let a := acceptDesc s e x (descWords b)
    if a.1 ≠ 0 then finish a.2.1 e x a.1 else finish a.2.1 e (regSet x 1 (ticketOf a.2.1 a.2.2)) 0)

/-- The descriptor in a slot. -/
def descAt (s : State) (i : Nat) : Option Desc := (s.svc.descs.find? fun d => d.1 == i).map (·.2)
/-- Replacing it. -/
def setDesc (s : State) (i : Nat) (d : Desc) : State := { s with svc := { s.svc with descs := smPut s.svc.descs i d } }

/-- The waiting instruction ends with the descriptor's outcome. -/
def reportDesc (s : State) (i e : Nat) (x : Engine) (d : Desc) : State :=
  finish (setDesc s i { d with waited := true }) e (regSet (regSet x 1 d.res1) 2 d.res2) d.status

/-- MOVER.WAIT: a ticket of another chart, or that names no descriptor, is ABSENT. -/
def execMoverWait (e : EngineId) (s : State) : Res :=
  .next (macroThen s e 0xCA [allBits] 0 .any false fun s x b =>
    let i := wfld (b 0) 0 10
    match descAt s i with
    | none => finish s e x 5
    | some d =>
      if d.issue ≠ wfld (b 0) 10 54 ∨ d.engine ≠ e.val ∨ d.chart ≠ x.serial then finish s e x 5
      else if d.finished then reportDesc s i e x d
      else setEngine s e (seqWait x 1 i 0))

/-! The movers. -/

/-- The slot of the descriptor that a mover runs. -/
def moverDesc (s : State) (m : Nat) : Option (Nat × Desc) := s.svc.descs.find? fun d => d.2.mover == some m && !d.2.finished

/-- A mover is free: it runs no descriptor and no scrub. -/
def moverFree (s : State) (m : Nat) : Bool := (moverDesc s m).isNone && !(s.scrubs.any fun c => c.mover == m)

/-- A descriptor waits for a mover. -/
def descWaits (d : Desc) : Bool := d.mover.isNone && !d.known && !d.stopped && !d.finished

/-- The oldest of the descriptors that wait. -/
def oldestDesc : SMap Desc → Option (Nat × Desc)
  | [] => none
  | d :: ds =>
    match oldestDesc ds with
    | none => if descWaits d.2 then some d else none
    | some y => if descWaits d.2 && decide (d.2.order ≤ y.2.order) then some d else some y

/-- A descriptor's outcome is known: status, G1, G2. -/
def endDesc (s : State) (i : Nat) (d : Desc) (st r1 : Nat) (r2 : Word) : State :=
  setDesc s i { d with known := true, status := st, stage := 0, res1 := BitVec.ofNat 64 r1, res2 := r2 }

/-- A failing line (R349, R367): G1 the offset of the line, G2 the bytes completed. -/
def failDesc (s : State) (i : Nat) (d : Desc) (st : Nat) : State := endDesc s i d st d.progress (BitVec.ofNat 64 d.progress)

/-- MOVER_TAKE (R347, R348): the oldest accepted descriptor; its spans are checked against the mover's own fence unit before any byte moves. -/
def execMoverTake (m : MoverId) (s : State) : Res :=
  if !(fabricRuns s) ∨ !(moverFree s m) then .next s
  else match oldestDesc s.svc.descs with
    | none => .next s
    | some (i, d) =>
      let d := { d with mover := some m.val }
      let c := spansCheck s (some (96 + m.val)) 0 (dLen d.words) (sidesOf d.words)
      .next (if c.1 ≠ 0 then endDesc c.2 i d c.1 0 0 else setDesc c.2 i d)

/-- What a mover's line does next: it leaves the device's answer at hand, its data come from the device, or it is on its way. -/
inductive LineOut where
  | sent (s : State)
  | data (s : State) (bs : List Byte)
  | gone

/-- A transaction of a mover (R132, R346, R348): class OC4, the submitter's flow, its GEN. -/
def moverTxn (s : State) (m : Nat) (d : Desc) (cmd ep a ld : Nat) (wr : Option (List Byte)) : Txn :=
  { cmd := cmd, oc := 4, src := moverEp m, dst := ep, addr := a, len := 64, ld := ld, tag := 0xF000 + m, flow := subFlow s d.sub, gen := d.gen, cls := 2
    looked := s.commitNum, phase := 1, data := wr.getD [] }

/-- One line request toward a target: a read (no data) or a write. -/
def lineTo (s : State) (m : Nat) (d : Desc) (t : Target) (poison : Bool) (wr : Option (List Byte)) : LineOut :=
  match t with
  | .port p ld a =>
    if !(portReaches s p) then .gone
    else .sent (newTxn s { moverTxn s m d (if wr.isSome then 0x04 else 0x03) (portEp p) a ld wr with poison := poison })
  | .home g key _ ld a =>
    .sent (newTxn s { moverTxn s m d (if wr.isSome then 0x04 else 0x03) (sliceEp g) a ld wr with key := key, home := some (g, key), poison := poison })
  | _ => .gone

/-- One line of a HOST address (R346): by the USP's decoders and G-FAM ranges, else upstream as a DMA request; a posted write counts once it is issued. -/
def lineHost (s : State) (m : Nat) (d : Desc) (a : Nat) (poison : Bool) (wr : Option (List Byte)) : LineOut :=
  match d.master with
  | none => .gone
  | some p =>
    let up : LineOut :=
      let t := { moverTxn s m d 0x30 (portEp p) a 0 wr with cls := 1, full := 16 + (wr.getD []).length, kind := if wr.isSome then 31 else 30
                                                            posted := wr.isSome, poison := poison }
      if !(portReaches s p) then .gone else if wr.isSome then .data (newTxn s t) [] else .sent (newTxn s t)
    if roleOf s p = 1 then
      match lookupHpa s p a with
      | .noMatch => up
      | t => lineTo s m d t poison wr
    else up

/-- One line of a side; fabric-private HBM is reached over the Graticule (R157). -/
def lineOf (s : State) (m : Nat) (d : Desc) (x : Side) (poison : Bool) (wr : Option (List Byte)) : LineOut :=
  let a := x.a + d.progress
  match x.sp with
  | 0 => lineHost s m d a poison wr
  | 1 => lineTo s m d (shareCheck s x.port x.ld a) poison wr
  | _ => .sent (newTxn s { moverTxn s m d (if wr.isSome then 0x04 else 0x03) (hbmEp a) a 0 wr with poison := poison })

/-- A line is done: the descriptor is complete after its last (R349). -/
def lineDone (s : State) (i : Nat) (d : Desc) : State :=
  let d := { d with progress := d.progress + 64, stage := 0, line := [] }
  if dLen d.words ≤ d.progress then
    endDesc s i d 0 (if dOp d.words = 4 then 2 ^ 64 - 1 else if dOp d.words = 5 then d.crc.toNat else 0) (BitVec.ofNat 64 (dLen d.words))
  else setDesc s i d

/-- The destination line of COPY, FILL or ZERO. -/
def writeLine (s : State) (m i : Nat) (d : Desc) (bs : List Byte) : State :=
  match lineOf s m d (sideOf d.words true) d.badLine (some bs) with
  | .sent s => setDesc s i { d with stage := 3 }
  | .data s _ => if d.badLine then failDesc s i d 8 else lineDone s i d
  | .gone => failDesc s i d 5

/-- Index of the first byte in which two lines differ. -/
def firstDiff : List Byte → List Byte → Nat → Option Nat
  | a :: as, b :: bs, n => if a = b then firstDiff as bs (n + 1) else some n
  | _, _, _ => none

/-- COMPARE's two lines are at hand: G1 is the offset of the first differing byte; how many bytes count as compared then is left open. -/
def compareLines (s : State) (i : Nat) (d : Desc) (bs : List Byte) : State :=
  match firstDiff d.line bs 0 with
  | some n => tick (endDesc s i d 0 (d.progress + n) (Config.freeValue s.freeCtr))
  | none => lineDone s i d

/-- A source line is at hand. -/
def haveLine (s : State) (m i : Nat) (d : Desc) (bs : List Byte) : State :=
  match dOp d.words with
  | 5 => lineDone s i { d with crc := BitVec.ofNat 64 (bs.foldl crcByte d.crc.toNat) }
  | 4 =>
    let d := { d with line := bs }
    match lineOf s m d (sideOf d.words true) false none with
    | .sent s => setDesc s i { d with stage := 2 }
    | .data s b => compareLines s i d b
    | .gone => failDesc s i d 5
  | _ => writeLine s m i d bs

/-- A line begins: it is checked against the mover's fence unit (R367), then its source is read or its pattern written. -/
def beginLine (s : State) (m i : Nat) (d : Desc) : State :=
  let c := spansCheck s (some (96 + m)) d.progress 64 (sidesOf d.words)
  if c.1 ≠ 0 then failDesc c.2 i d c.1
  else if dReads d.words then
    match lineOf c.2 m d (sideOf d.words false) false none with
    | .sent s => setDesc s i { d with stage := 1 }
    | .data s bs => haveLine s m i d bs
    | .gone => failDesc c.2 i d 5
  else writeLine c.2 m i d ((List.range 8).flatMap fun _ => if dOp d.words = 2 then wordBytes (dPat d.words) else List.replicate 8 0)

/-- An answer reaches the line that awaits it (R349): poison in a source is FAULT, after COPY has written that line with poison. -/
def lineAnswer (s : State) (m i : Nat) (d : Desc) (a : Landed) : State :=
  let bs := slice a.data 0 64
  match d.stage with
  | 1 =>
    if a.rstat = 4 then (if dOp d.words = 1 then writeLine s m i { d with badLine := true } bs else failDesc s i d 8)
    else if a.rstat ≠ 0 then failDesc s i d 5 else haveLine s m i d bs
  | 2 => if a.rstat = 4 then failDesc s i d 8 else if a.rstat ≠ 0 then failDesc s i d 5 else compareLines s i d bs
  | _ => if d.badLine then failDesc s i d 8 else if a.rstat ≠ 0 then failDesc s i d 5 else lineDone s i d

/-- The first answer that has reached a mover, and the state without it. -/
def takeLanded (s : State) (m : Nat) : Option (Landed × State) :=
  (takeFirst (fun a : Landed => a.mover == m) s.svc.landed).map fun r => (r.1, { s with svc := { s.svc with landed := r.2 } })

/-- MOVER_LINE_ISSUE: the line in progress takes its answer, or the next begins; a descriptor of a FREEZING VF stops at a 4 KiB boundary (R351). -/
def execMoverLineIssue (m : MoverId) (s : State) : Res :=
  match moverDesc s m with
  | none => .next s
  | some (i, d) =>
    if d.known ∨ !(fabricRuns s) then .next s
    else if d.stage = 0 then
      if d.sub < 2048 ∧ funcState s d.sub = 2 ∧ !(subRuns s d.sub) ∧ d.progress % 4096 = 0 then .next (frostStep s d.sub)
      else .next (beginLine s m i d)
    else match takeLanded s m with
      | none => .next s
      | some (a, s) => .next (lineAnswer s m i d a)

/-- The engine that waits for a descriptor in MOVER.RUN or MOVER.WAIT. -/
def descWaiter (s : State) (i : Nat) (d : Desc) : Option Nat :=
  let x := engineOf s d.engine
  if d.engine < 16 ∧ x.serial = d.chart ∧ x.wait = .macroStep ∧ x.seq = 1 ∧ x.seqA = i ∧ opcodeOf (wordAt x) ∈ [0xC8, 0xCA] then some d.engine else none

/-- DESCRIPTOR_COMPLETE (R345, R349): MOVER_DONE where FLAGS asks for it, the end of the instruction that waits, the mover free again. -/
def execDescriptorComplete (slot : Fin 1024) (s : State) : Res :=
  match descAt s slot with
  | none => .next s
  | some d =>
    if !d.known ∨ d.finished then .next s
    else
      let d := { d with finished := true, mover := none }
      let s := setDesc s slot d
      let s := if dFlags d.words % 2 = 1 then raiseEvent s 0x482 (d.func.getD 0xFFFF) [d.status, d.res1.toNat, d.res2.toNat] else s
      let s := match descWaiter s slot d with
        | some e => reportDesc s slot e (engineOf s e) d
        | none => s
      .next (if d.sub < 2048 then frostStep s d.sub else s)

end Sys2Proof.Machine
end

