-- ==== Sys2Proof/Machine/Tables.lean ====
section
/-! DEFINITION. Table instructions, the drafting and reading macros over one table, UNCLAIM and DRAIN (R277-R282, R286-R291). -/
namespace Sys2Proof.Machine

/-! Reset values as straps and SETTINGS give them (R40, R46, R315, R457, R460). -/

/-- The bits of an entry whose Reset column reads "eMRAM". -/
def keptMask (t : Nat) : Entry :=
  match t with
  | 0x01 => ones 0 3 ||| ones 6 12 ||| ones 20 7
  | 0x0B => ones 0 3
  | 0x3E => ones 8 2 ||| ones 17 1
  | _ => 0

/-- RAIL and FEED_MODE of a channel group under STRAP_E, as bits 0 and 1. -/
def strapE (level g : Nat) : Nat :=
  match level with
  | 0 => 0
  | 1 => 2
  | 2 => 1
  | 3 => 3
  | 4 => if g < 2 then 0 else 3
  | 5 => if g < 2 then 0 else 1
  | 6 => if g < 3 then 0 else 3
  | _ => if g < 2 then 1 else 3

/-- What the straps alone give an entry. -/
def strapEntry (s : State) (t i : Nat) : Entry :=
  let v := tabReset t i
  match t with
  | 0x01 => setFld v 18 2 (min 1 (strapLevel s 5))
  | 0x0B => setFld v 0 3 (strapLevel s (if i < 6 then 0 else 1))
  | 0x38 => setFld v 8 2 (strapE (strapLevel s 4) (i / 8))
  | 0x3E => setFld v 0 1 (min 1 (strapLevel s 6))
  | _ => v

/-- The reset value of an entry: the straps', with the stored value over it where one is stored. -/
def bootEntry (s : State) (t i : Nat) : Entry :=
  match smGet none s.settings (tkey t i) with
  | some v => merge (strapEntry s t i) v.1 v.2
  | none => strapEntry s t i

/-! Reading a table (R281). -/

/-- The committed or live value of an entry as a reader sees it. -/
def readEntry (s : State) (t i : Nat) : Entry :=
  match t with
  | 0x01 => setFld (tabVal s 0x01 i) 4 2 (portWidth s i)
  | 0x04 => laneShown s i
  | 0x23 => entBits (entryOf s i)
  | 0x25 => sliceWord s i
  | 0x31 => BitVec.ofNat 256 (claimOf s i)
  | 0x3D => functionEntry s i
  | _ => tabVal s t i

/-- What a chart reads of an entry: its own draft over that. -/
def seenEntry (s : State) (x : Engine) (t i : Nat) : Entry :=
  if t = 0x23 then readEntry s t i   -- RO, and its keys reach past the range of an index of the other tables: it has no draft
  else match draftOf x (tkey t i) with
    | some d => merge (readEntry s t i) d.val d.mask
    | none => readEntry s t i

/-- The index names an entry of a table (R278): in range, and of a port, lane or object that exists. -/
def entryExists (s : State) (t i : Nat) : Bool :=
  match tableInfo t with
  | none => false
  | some f =>
    decide (i < f.count) &&
    (match t with
     | 0x01 => portExists s i
     | 0x02 => portExists s i
     | 0x05 => portExists s i && roleOf s i == 3
     | 0x06 => portExists s i
     | 0x07 => portExists s (i / 97)
     | 0x12 => uspExists (i / 32)
     | 0x16 => uspExists (i / 16)
     | 0x23 => rstate (tabVal s 0x20 (i / 2 ^ 46)) == 1
     | 0x39 => decide (i % 64 < fenceRegions (i / 64)) && (decide (96 ≤ i / 64) || portExists s (i / 64))
     | 0x3C => counterExists i
     | 0x3D => decide (i < 2048) || uspExists (i - 2048)
     | _ => true)
where
  uspExists (p : Nat) : Bool := portExists s p && roleOf s p == 1
  counterExists (i : Nat) : Bool := decide (i < 0x0FB2) || decide (0x0FC0 ≤ i ∧ i < 0x0FCC)

/-! Field selectors (R279). -/

/-- What an FSEL selects of a table's entry: a field that is not RO or is, a 64-bit word, or nothing. -/
inductive Sel where
  | field (f : Fld)
  | word (k : Nat)
  | none
  deriving DecidableEq, Repr

/-- Decoding an FSEL. -/
def selOf (t fsel : Nat) : Sel :=
  if fsel < 0xF0 then (match (fields t)[fsel]? with | some f => .field f | Option.none => .none)
  else
    let k := fsel - 0xF0
    if decide (k < 4) && (match tableInfo t with | some f => decide (64 * k < f.bits) | Option.none => false) then .word k else .none

/-- TRD (R281): an RO table and the claims are live and are not recorded for R27; nor is an entry that the chart has drafted. -/
def execTrd (e : EngineId) (s : State) : Res :=
  .next (onOp s e 0x30 fun s x w =>
    let t := wfld w 48 8
    let i := (regGet x (wfld w 44 4)).toNat
    match tableInfo t with
    | none => finish s e x 6
    | some f =>
      if f.acc = .digest then finish s e x 6
      else if !(entryExists s t i) then finish s e x 5
      else
        let v := seenEntry s x t i
        let x1 := if f.acc = .ro ∨ (draftOf x (tkey t i)).isSome then x else recordRead s x t i
        match selOf t (wfld w 32 8) with
        | .field g => finish s e (regSet x1 (wfld w 40 4) (BitVec.ofNat 64 (fld v g.lo g.w))) 0
        | .word k => finish s e (regSet x1 (wfld w 40 4) (entryWord v k)) 0
        | .none => finish s e x 6)

/-- The bits of 64-bit word k of an entry. -/
def wordBits (k : Nat) : Entry := ones (64 * k) 64

/-- TWR (R279, R280). -/
def execTwr (e : EngineId) (s : State) : Res :=
  .next (onOp s e 0x31 fun s x w =>
    let t := wfld w 48 8
    let i := (regGet x (wfld w 44 4)).toNat
    let gv := (regGet x (wfld w 40 4)).toNat
    match tableInfo t with
    | none => finish s e x 6
    | some f =>
      if !(entryExists s t i) then finish s e x 5
      else if f.acc ≠ .rw then finish s e x 6
      else
        match selOf t (wfld w 32 8) with
        | .none => finish s e x 6
        | .field g =>
          if g.ro then finish s e x 6
          else
            let d := draftRuled s e x t i (mkEntry [(g.lo, gv % 2 ^ g.w)]) (fldMask g) (decide (2 ^ g.w ≤ gv))
            finish d.2.1 e d.2.2 d.1
        | .word k =>
          let mask := draftable t &&& wordBits k
          let v := BitVec.ofNat 256 (gv * 2 ^ (64 * k))
          if mask = 0 then finish s e x 6
          else
            let d := draftRuled s e x t i v mask (v &&& unionMask (fields t) != v)
            finish d.2.1 e d.2.2 d.1)

/-- TCLR: every field that is not RO, to its reset value. -/
def execTclr (e : EngineId) (s : State) : Res :=
  .next (onOp s e 0x32 fun s x w =>
    let t := wfld w 48 8
    let i := (regGet x (wfld w 44 4)).toNat
    match tableInfo t with
    | none => finish s e x 6
    | some f =>
      if !(entryExists s t i) then finish s e x 5
      else if f.acc ≠ .rw then finish s e x 6
      else
        let mask := draftable t
        let v := bootEntry s t i
        if outOfScope s e t i mask then finish s e x 1
        else
          let d := draftAny s e x t i (v &&& mask) mask false
          finish d.2.1 e d.2.2 d.1)

/-! QOS and FENCE macros (R290). -/

/-- QOS.PORT. -/
def execQosPort (e : EngineId) (s : State) : Res :=
  .next (macroOp s e 0x80 [rowBits [(6, 0)], tabWordMask 0x06 0, allBits] 0 (.tile tileOfPort0) fun s x b =>
    let p := wfld (b 0) 0 7
    if maskWhole 0x06 (entryOfWords [b 2]) ∧ !(portExists s p) then (5, s, x) else draftMasked s e x 0x06 p (entryOfWords [b 1]) (entryOfWords [b 2]))

/-- QOS.FLOW. -/
def execQosFlow (e : EngineId) (s : State) : Res :=
  .next (macroOp s e 0x81 [rowBits [(6, 0), (14, 8), (31, 16), (39, 32)]] 0 (.tile tileOfPort0) fun s x b =>
    let p := wfld (b 0) 0 7
    let f := wfld (b 0) 8 7
    if 96 < f ∨ !(portExists s p) then (5, s, x)
    else draftWhole s e x 0x07 (97 * p + f) (mkEntry [(0, wfld (b 0) 16 16), (16, wfld (b 0) 32 8)]))

/-- FENCE.SET. -/
def execFenceSet (e : EngineId) (s : State) : Res :=
  .next (macroOp s e 0x90 [rowBits [(7, 0), (13, 8)], allBits, allBits] 0 .glob fun s x b =>
    let i := 64 * wfld (b 0) 0 8 + wfld (b 0) 8 6
    if !(entryExists s 0x39 i) then (5, s, x) else ruledWhole s e x 0x39 i (entry2 b 1))

/-- FENCE.CLEAR. -/
def execFenceClear (e : EngineId) (s : State) : Res :=
  .next (macroOp s e 0x91 [rowBits [(7, 0), (13, 8)]] 0 .glob fun s x b =>
    let i := 64 * wfld (b 0) 0 8 + wfld (b 0) 8 6
    if !(entryExists s 0x39 i) then (5, s, x) else draftWhole s e x 0x39 i 0)

/-! SLOT macros that draft (R315). -/

/-- The tile of a channel's mapped port, 99 where it is unmapped: then global engines only (R24). -/
def tileOfSlot0 (s : State) (b : Nat → Word) : Nat := (entryTile s 0x38 (wfld (b 0) 0 5)).getD 99

/-- SLOT.CONFIG: MAP_PORT must be as committed, and is not drafted. -/
def execSlotConfig (e : EngineId) (s : State) : Res :=
  .next (macroOp s e 0xA0 [rowBits [(4, 0)], tabWordMask 0x38 0, tabWordMask 0x38 1] 0 (.tile tileOfSlot0) fun s x b =>
    let c := wfld (b 0) 0 5
    let v := entry2 b 1
    if fld v 0 7 ≠ tabFld s 0x38 c 0 7 then (1, s, x)
    else draft s e x 0x38 c (v &&& ~~~(ones 0 7)) (draftable 0x38 &&& ~~~(ones 0 7)))

/-- SLOT.MAP. -/
def execSlotMap (e : EngineId) (s : State) : Res :=
  .next (macroOp s e 0xA1 [rowBits [(4, 0), (14, 8)]] 0 .glob fun s x b =>
    let c := wfld (b 0) 0 5
    let p := wfld (b 0) 8 7
    if 96 ≤ p ∧ p ≠ 127 then (6, s, x)
    else if p ≠ 127 ∧ !(portExists s p) then (5, s, x)
    else if p ≠ 127 ∧ (List.range 32).any (fun k => k != c && fld (seenVal s x 0x38 k) 0 7 == p) then (2, s, x)
    else draft s e (readsOf s x (((List.range 32).filter fun k => p != 127 && k != c).map fun k => (0x38, k))) 0x38 c (BitVec.ofNat 256 p) (ones 0 7))

/-! EVT and PERF macros (R291, R379, R392, R401, R403-R411, R417). -/

/-- The ESIDs that Ihlyon raises (R379). -/
def esidKnown (i : Nat) : Bool :=
  decide (i ≤ 0x001) || decide (0x080 ≤ i ∧ i ≤ 0x082) || decide (0x100 ≤ i ∧ i ≤ 0x105) || i == 0x180 || i == 0x181 || i == 0x200 || i == 0x201 ||
  decide (0x280 ≤ i ∧ i ≤ 0x285) || decide (0x300 ≤ i ∧ i ≤ 0x307) || i == 0x380 || i == 0x381 || decide (0x400 ≤ i ∧ i ≤ 0x409) ||
  decide (0x410 ≤ i ∧ i ≤ 0x416) || decide (0x480 ≤ i ∧ i ≤ 0x483) || decide (0x500 ≤ i ∧ i ≤ 0x506) || decide (0x580 ≤ i ∧ i ≤ 0x583) ||
  decide (0x5F0 ≤ i ∧ i ≤ 0x5FF)

/-- EVT.ROUTE. -/
def execEvtRoute (e : EngineId) (s : State) : Res :=
  .next (macroOp s e 0xB0 [rowBits [(10, 0)], tabWordMask 0x3A 0] 0 .glob fun s x b =>
    let i := wfld (b 0) 0 11
    if !(esidKnown i) then (5, s, x) else draftWhole s e x 0x3A i (entryOfWords [b 1]))

/-- EVT.METRIC: a source ESID that is reserved names nothing. -/
def execEvtMetric (e : EngineId) (s : State) : Res :=
  .next (macroOp s e 0xB1 [rowBits [(9, 0)], tabWordMask 0x3B 0] 0 .glob fun s x b =>
    let v := entryOfWords [b 1]
    if fld v 55 2 ≠ 2 ∧ !(esidKnown (fld v 44 11)) then (5, s, x)
    else if fld v 55 2 = 2 ∧ 5 < fld v 44 11 then (5, s, x)
    else ruledWhole s e x 0x3B (wfld (b 0) 0 10) v)

/-- EVT.POST: SUBJ is the submitter ID and P0 the payload. -/
def execEvtPost (e : EngineId) (s : State) : Res :=
  .next (macroOp s e 0xB2 [rowBits [(3, 0)], allBits] 0 .any fun s x b =>
    (0, raiseEvent s (0x5F0 + wfld (b 0) 0 4) x.sub [(b 1).toNat], x))

/-- EVT.TIMER. -/
def execEvtTimer (e : EngineId) (s : State) : Res :=
  .next (macroOp s e 0xB3 [rowBits [(5, 0)], tabWordMask 0x32 0, tabWordMask 0x32 1] 0 .any fun s x b =>
    draftWhole s e x 0x32 (wfld (b 0) 0 6) (entry2 b 1))

/-- The tile of a counter named in bits [15:0] of word 0, 99 for the others: then global engines only. -/
def tileOfCounter0 (_ : State) (b : Nat → Word) : Nat := (counterTile (wfld (b 0) 0 16)).getD 99

/-- PERF.ARM. -/
def execPerfArm (e : EngineId) (s : State) : Res :=
  .next (macroOp s e 0xB8 [rowBits [(15, 0)], tabWordMask 0x3C 0] 0 (.tile tileOfCounter0) fun s x b =>
    let i := wfld (b 0) 0 16
    if !(entryExists s 0x3C i) then (5, s, x) else ruledWhole s e x 0x3C i (entryOfWords [b 1]))

/-- PERF.DUMP (R411). -/
def execPerfDump (e : EngineId) (s : State) : Res :=
  .next (macroOp s e 0xB9 [tabWordMask 0x40 0, tabWordMask 0x40 1] 0 .glob fun s x b =>
    let v := entry2 b 0
    let p := fld v 8 7
    let part := partitionCheck s x.sub (fld v 15 49 * 2 ^ 15) (fld v 72 8 * 32768)
    if hasReserved 0x40 0 v (draftable 0x40) then (6, s, x)
    else if fld v 0 2 = 1 ∧ part ≠ 0 then (part, s, x)
    else if fld v 0 2 = 2 ∧ vWidth (viewOf s x) p = 0 then (5, s, x)
    else if fld v 0 2 = 2 ∧ vRole (viewOf s x) p ≠ 1 ∧ vRole (viewOf s x) p ≠ 4 then (6, s, x)
    else draftWhole s e (if fld v 0 2 = 2 then readsOf s x [(0x01, p)] else x) 0x40 0 v)

/-- PERF.GRANT. -/
def execPerfGrant (e : EngineId) (s : State) : Res :=
  .next (macroOp s e 0xBA [rowBits [(10, 0), (16, 16)]] 0 (.tile tileOfVf0) fun s x b =>
    let v := wfld (b 0) 0 11
    if funcState s v = 0 then (5, s, x)
    else if !(mayActOnVf s x v) then (1, s, x)
    else draft s e x 0x3D v (mkEntry [(50, wfld (b 0) 16 1)]) (ones 50 1))

/-- PERF.READ: the latched value, and the TS of its latch (R409). -/
def execPerfRead (e : EngineId) (s : State) : Res :=
  .next (macroRead s e 0xBB [rowBits [(15, 0)]] (.tile tileOfCounter0) fun s x b =>
    let i := wfld (b 0) 0 16
    if !(entryExists s 0x3C i) then (5, x)
    else if x.tier < 2 ∧ !(decide (i < 0x0900) && mayActOn s x (i / 24)) then (1, x)
    else (0, regSet (regSet x 1 (BitVec.ofNat 64 (smGet 0 s.cnt.latched i))) 2 (BitVec.ofNat 64 (latchTsOf s i))))

/-- PERF.TRACE. -/
def execPerfTrace (e : EngineId) (s : State) : Res :=
  .next (macroOp s e 0xBC [rowBits [(1, 0)], tabWordMask 0x3F 0, tabWordMask 0x3F 1] 0 .glob fun s x b =>
    draftWhole s e x 0x3F (wfld (b 0) 0 2) (entry2 b 1))

/-- The tile named in bits [3:0] of word 0. -/
def tileOf0 (_ : State) (b : Nat → Word) : Nat := wfld (b 0) 0 4

/-- TILE.PROFILE: the drafts clear the ports that cease to exist or come into existence (R41). -/
def execTileProfile (e : EngineId) (s : State) : Res :=
  .next (macroOp s e 0xD0 [rowBits [(3, 0), (10, 8)]] 0 (.tile tileOf0) fun s x b =>
    let t := wfld (b 0) 0 4
    if 12 ≤ t then (5, s, x) else draftWhole s e x 0x0B t (BitVec.ofNat 256 (wfld (b 0) 8 3)))

/-! UNCLAIM and DRAIN. -/

/-- UNCLAIM (R263, R264). -/
def execUnclaim (e : EngineId) (s : State) : Res :=
  .next (onOp s e 0x39 fun s x w =>
    let i := claimIndex x w
    let force := wfld w 15 1 == 1
    if 228 ≤ i then finish s e x 5
    else if force ∧ x.tier < 2 then finish s e x 1
    else if claimOf s i / 0x10000 % 2 = 1 then finish s e x 1
    else if claimOwner s i = x.sub then finish (releaseClaims s [i]) e x 0
    else if !force then finish s e x 2
    else if claimOwner s i = 0xFFFF then finish s e x 0
    else finish (raiseEvent (releaseClaims s [i]) 0x381 i [claimOwner s i]) e x 0)

/-- DRAIN (R282): a drain point that is reached already holds nothing up. -/
def execDrain (e : EngineId) (s : State) : Res :=
  .next (onOp s e 0x36 fun s x w =>
    let kind := wfld w 0 2
    let lim := wfld w 2 14
    let ga := (regGet x (gaOf w)).toNat
    if kind = 0 ∧ !(decide (ga < 96) && portExists s ga) then finish s e x 5
    else if kind = 1 ∧ !(decide (ga < 3072) && depValid ga && (epPort ga).isNone) then finish s e x 5
    else if drainOver s kind ga s.commitNum then finish s e x 0
    else setEngine s e { x with wait := .drain kind ga s.commitNum (if lim = 0 then none else some (s.clock + lim * 1000000)) })

/-- DRAIN_TIMEOUT (R282). -/
def execDrainTimeout (e : EngineId) (s : State) : Res :=
  let x := engineOf s e
  match x.wait with
  | .drain kind target below (some d) =>
    if d ≤ s.clock ∧ !(drainOver s kind target below) ∧ x.seq = 0 then .next (finish s e { x with wait := .run } 7) else .next s
  | _ => .next s

end Sys2Proof.Machine
end

