-- ==== Sys2Proof/Machine/Pool.lean ====
section
/-! DEFINITION. The pool of granules and the bind state machine (R186-R195), decoders' host charts (R180, R182), and the mailbox of a pooled logical device (R187). -/
namespace Sys2Proof.Machine

/-! Granules (Table 7.8). -/

/-- A granule of the pool. -/
def granuleOf (s : State) (m g : Nat) : Granule := smGet {} s.granules (granKey m g)
/-- Replacing it. -/
def setGranule (s : State) (m g : Nat) (x : Granule) : State := { s with granules := smSet {} s.granules (granKey m g) x }
/-- The granule is in the pool and not LOST. -/
def inPool (s : State) (m g : Nat) : Bool := decide (g < registered s m) && !(smGet false s.poolLost m)

/-- The hold count of a granule (R191). -/
def holdCount (s : State) (m g : Nat) : Nat :=
  ((listed s 0x15).filter fun i =>
    let e := tabVal s 0x15 i
    estate e != 0 && 16 * emport e + emld e == m && decide (emgran e ≤ g ∧ g < emgran e + engran e)).length

/-- A region that is not free covers the granule. -/
def sharedOver (s : State) (m g : Nat) : Bool :=
  (listed s 0x20).any fun r =>
    let e := tabVal s 0x20 r
    rstate e != 0 && 16 * fld e 65 7 + fld e 61 4 == m && decide (fld e 100 28 ≤ g ∧ g < fld e 100 28 + fld e 72 28)

/-- A granule whose hold count has reached 0, or whose region was released: CLEAN if no extent over it was bound, else DRAIN once no shared region covers it. -/
def letGo (s : State) (m g : Nat) : State :=
  let x := granuleOf s m g
  if !(inPool s m g) ∨ x.st ≠ 3 ∨ holdCount s m g ≠ 0 then s
  else if !x.ever then setGranule s m g { st := 2 }
  else if sharedOver s m g then s
  else setGranule s m g { x with st := 4, drain := s.commitNum }

/-- A granule that an offer takes. -/
def hold (s : State) (m g : Nat) : State :=
  if inPool s m g ∧ (granuleOf s m g).st = 2 then setGranule s m g { st := 3 } else s

/-- A granule over which an extent becomes bound. -/
def everBound (s : State) (m g : Nat) : State := if inPool s m g then setGranule s m g { granuleOf s m g with ever := true } else s

/-- An act on every granule of an extent. -/
def overGranules (s : State) (e : Entry) (f : State → Nat → Nat → State) : State :=
  (List.range (engran e)).foldl (fun s k => f s (16 * emport e + emld e) (emgran e + k)) s

/-- What an extent's new state does beside the table (Table 7.9), the table having been written: quiet says that the host's own release frees it. -/
def extentChange (s : State) (i : Nat) (old new : Entry) (quiet : Bool) : State :=
  let a := estate old
  let b := estate new
  let stamp (s : State) : State := { s with offers := smSet 0 s.offers i (s.clock + 1) }
  -- an extent that is not free and whose run changes holds the new granules and lets the old ones go
  let s :=
    if a = 0 ∨ b = 0 ∨ sameRun old new then s
    else
      let s := overGranules (overGranules s new hold) old letGo
      if a = 2 ∧ b = 2 then overGranules s new everBound else s
  if a = b then s
  else
    let s := { s with offers := smSet 0 s.offers i 0, overdue := smSet false s.overdue i false }
    let s := if a = 0 then overGranules s new hold else s
    match b with
    | 1 => emit (stamp s) (.dcEvent (epld new) 0 i)
    | 2 => overGranules s new everBound
    | 3 => emit (stamp s) (.dcEvent (epld new) 1 i)
    | 0 =>
      let s := overGranules s old letGo
      if a = 1 then raiseEvent s 0x283 i [] else if a = 4 ∨ quiet then s else raiseEvent s 0x285 i []
    | _ => s

/-- The release of a region lets its held granules go (R191). -/
def regionFreed (s : State) (old : Entry) : State :=
  (List.range (fld old 72 28)).foldl (fun s k => letGo s (16 * fld old 65 7 + fld old 61 4) (fld old 100 28 + k)) s

/-- The drain point of a member port: its DRAIN granules become DIRTY. -/
def drainGranules (s : State) (p : Nat) : State :=
  { s with granules := s.granules.filter fun g => !(g.1 / 2 ^ 28 / 16 == p && g.2.st == 4 && drainLeft s (portEp p) g.2.drain == 0) }

/-! Scrubbing (R192). -/

/-- The lowest DIRTY granule of a member. -/
def dirtyGranule (s : State) (m : Nat) : Option Nat :=
  findFrom (fun g => decide (g < registered s m) && (granuleOf s m g).st == 0) 0 ((s.granules.filter fun g => g.1 / 2 ^ 28 == m).length + 1)

/-- A run of DIRTY granules from g, at most n. -/
def dirtyRun (s : State) (m g : Nat) : Nat → Nat
  | 0 => 0
  | n + 1 => if g < registered s m ∧ (granuleOf s m g).st = 0 then dirtyRun s m (g + 1) n + 1 else 0

/-- The first member that has a DIRTY granule and a port with fewer than 2 scrubbing movers. -/
def scrubMember (s : State) : Option Nat :=
  (listed s 0x19).find? fun m => !(smGet false s.poolLost m) && (dirtyGranule s m).isSome && decide ((s.scrubs.filter fun c => c.mem / 16 == m / 16).length < 2)

/-- The device's own ZERO over granules of a member (R192): no submitter, so its lines take flow 96; it stands beside the submitters' 1,024 slots. -/
def scrubDesc (k g n m : Nat) : Desc :=
  { words := [BitVec.ofNat 64 (3 + 2 ^ 16), BitVec.ofNat 64 (n * 2 ^ 28), 0, BitVec.ofNat 64 (g * 2 ^ 28), 0, BitVec.ofNat 64 (k / 16 * 2 ^ 16 + k % 16 * 2 ^ 24), 0, 0]
    sub := 0x7FFF, engine := 16, mover := some m }

/-- SCRUB_START (R191, R192): a ZERO of at most 1 GiB, 4 granules, over the lowest DIRTY granules. -/
def execScrubStart (m : MoverId) (s : State) : Res :=
  if !(moverFree s m) then .next s
  else match scrubMember s with
    | none => .next s
    | some k => match dirtyGranule s k with
      | none => .next s
      | some g =>
        let n := dirtyRun s k g 4
        let s := (List.range n).foldl (fun s i => setGranule s k (g + i) { st := 1 }) s
        .next (setDesc { s with scrubs := s.scrubs ++ [⟨k, g, n, m⟩] } (1024 + m) (scrubDesc k g n m))

/-- ZERO_COMPLETE (R191): the ZERO that a mover ran for a scrub has its outcome; one whose member has left the pool meanwhile ends with nothing. -/
def execZeroComplete (m : MoverId) (s : State) : Res :=
  match descAt s (1024 + m.val) with
  | none => .next s
  | some d =>
    if !d.known then .next s
    else
      let s := { s with svc := { s.svc with descs := smDel s.svc.descs (1024 + m.val) } }
      match s.scrubs.find? fun c => c.mover == m.val with
      | none => .next s
      | some c =>
        let s := { s with scrubs := s.scrubs.filter fun d => d.mover != m.val }
        let s := (List.range c.n).foldl (fun s i => setGranule s c.mem (c.first + i) { st := if d.status = 0 then 2 else 0 }) s
        .next (if d.status = 0 then s else raiseEvent s 0x282 (c.mem / 16) [c.first])

/-! Extents' timeouts (R193). -/

/-- A COMMIT that has been judged drafts the extent, and this is the very instant at which its offer ends: the acceptance takes effect (R195). -/
def acceptedNow (s : State) (i a : Nat) : Bool :=
  s.arb.judged && decide (a + 2000000000 = s.clock + 1) &&
  (match s.arb.queue with | e :: _ => (draftOf (engineOf s e) (tkey 0x15 i)).isSome | [] => false)

/-- OFFER_EXPIRED: an offer unanswered for 2 s is freed by the device, and its granules follow R191. -/
def execOfferExpired (x : ExtentId) (s : State) : Res :=
  let e := tabVal s 0x15 x
  let a := smGet 0 s.offers x
  if estate e = 1 ∧ a ≠ 0 ∧ a + 2000000000 ≤ s.clock + 1 ∧ !(acceptedNow s x a) then
    .next (extentChange (deviceUpdate s [(0x15, x, setFld e 22 3 0)]) x e (setFld e 22 3 0) false)
  else .next s

/-- RELEASE_OVERDUE: 10 s after the release was asked; the mapping stays. -/
def execReleaseOverdue (x : ExtentId) (s : State) : Res :=
  let a := smGet 0 s.offers x
  if estate (tabVal s 0x15 x) = 3 ∧ a ≠ 0 ∧ a + 10000000000 ≤ s.clock + 1 ∧ !(smGet false s.overdue x) then
    .next (raiseEvent { s with overdue := smSet false s.overdue x true } 0x284 x [])
  else .next s

/-! Decoders (R180, R182). -/

/-- The table key of a decoder named as in DECODER_COMMIT. -/
def decoderKey (d : Nat) : Nat := if d < 3072 then tkey 0x12 d else tkey 0x13 (d - 3072)

/-- A chart for this decoder waits or runs. -/
def decoderBusy (s : State) (k : Nat) : Bool :=
  let mine (j : Job) : Bool := match j with | .decoder key _ _ => key == k | _ => false
  s.internals.any (fun i => mine i.job) || (List.range 16).any fun e => match (engineOf s e).origin with | .internal j => mine j | _ => false

/-- A decoder chart is submitted on the host's behalf. -/
def decoderSubmit (s : State) (k : Nat) (on : Bool) : State := { s with internals := s.internals ++ [⟨12, .decoder k on false⟩] }

/-- The host may reach the decoder: its port is a USP, or its vPPB is bound to a pooled logical device. -/
def decoderShown (s : State) (d : Nat) : Bool :=
  if d < 3072 then roleOf s (d / 32) == 1
  else let b := tabVal s 0x11 ((d - 3072) / 16); bstate b == 1 && btype b == 3

/-- The decoder is that of a vPPB which is bound to something other than a pooled logical device (R182). -/
def decoderForeign (s : State) (d : Nat) : Bool :=
  decide (3072 ≤ d) && (let b := tabVal s 0x11 ((d - 3072) / 16); (bstate b == 1 || bstate b == 2) && btype b != 3)

/-- DECODER_COMMIT (R180, R182). -/
def execDecoderCommit (d : Fin 68608) (s : State) : Res :=
  let k := decoderKey d
  if decoderForeign s d then .next { s with decRegs := smMod {} s.decRegs k fun r => { r with error := true } } else
  if decoderShown s d ∧ !(smGet {} s.decRegs k).committed ∧ !(decoderBusy s k) then .next (decoderSubmit s k true) else .next s

/-- DECODER_UNCOMMIT (R180): a locked decoder stays. -/
def execDecoderUncommit (d : Fin 68608) (s : State) : Res :=
  let k := decoderKey d
  let r := smGet {} s.decRegs k
  if decoderShown s d ∧ r.committed ∧ !r.lockOn ∧ !(decoderBusy s k) then .next (decoderSubmit s k false) else .next s

/-! The mailbox of a pooled logical device (R187, R193). -/

/-- The PLD that a vPPB is bound to. -/
def pldOf (s : State) (v : Nat) : Option Nat :=
  let b := tabVal s 0x11 v
  if bstate b = 1 ∧ btype b = 3 then some (bpld b) else none

/-- n bytes that the spec leaves open. -/
def freeBytes (s : State) (n : Nat) : List Byte := slice (wordsBytes ((List.range (n / 8 + 1)).map fun k => Config.freeValue (s.freeCtr + k))) 0 n

/-- The counter moves past the free values of n bytes. -/
def tickBytes (s : State) (n : Nat) : State := { s with freeCtr := s.freeCtr + n / 8 + 1 }

/-- An answer on the mailbox of a vPPB that shows a pooled logical device; where none is shown there is no mailbox. -/
def onMailbox (s : State) (v : Nat) (f : Nat → State) : Res := match pldOf s v with | some p => .next (f p) | none => .next s

/-- IDENTIFY_MEMORY_DEVICE: all its capacity is dynamic, so the fixed capacities read 0; the other fields are not the spec's. -/
def execIdentifyMemoryDevice (v : VppbId) (s : State) : Res :=
  onMailbox s v fun _ => emit (tickBytes s 45) (.mailbox v 0x4000 0 ((freeBytes s 45).take 16 ++ natBytes 24 0 ++ (freeBytes s 45).drop 16))

/-- GET_DYNAMIC_CAPACITY_CONFIGURATION: region 0 of MAXG granules, block size 256 MiB, and the extents supported and free. -/
def execGetDynamicCapacityConfiguration (v : VppbId) (s : State) : Res :=
  onMailbox s v fun p =>
    let maxg := tabFld s 0x14 p 0 28
    let used := ((listed s 0x15).filter fun i => estate (tabVal s 0x15 i) != 0 && epld (tabVal s 0x15 i) == p).length
    emit (tickBytes s 8) (.mailbox v 0x4800 0 (natBytes 8 0x101 ++ natBytes 8 0 ++ natBytes 8 maxg ++ natBytes 8 (maxg * 2 ^ 28) ++ natBytes 8 (2 ^ 28) ++
      freeBytes s 8 ++ natBytes 4 64 ++ natBytes 4 (64 - used) ++ natBytes 8 0))

/-- The extents of a PLD that its host has accepted and not released, by index. -/
def heldExtents (s : State) (p : Nat) : List Nat :=
  (listed s 0x15).filter fun i => epld (tabVal s 0x15 i) == p && (estate (tabVal s 0x15 i) == 2 || estate (tabVal s 0x15 i) == 3)

/-- An extent in a list: its address and length in the device's region, with no tag. -/
def extentBytes (s : State) (i : Nat) : List Byte :=
  let e := tabVal s 0x15 i
  natBytes 8 (elgran e * 2 ^ 28) ++ natBytes 8 (engran e * 2 ^ 28) ++ natBytes 16 0 ++ natBytes 8 0

/-- GET_DYNAMIC_CAPACITY_EXTENT_LIST; the generation number is not the spec's. -/
def execGetDynamicCapacityExtentList (v : VppbId) (count start : BitVec 32) (s : State) : Res :=
  onMailbox s v fun p =>
    let all := heldExtents s p
    let some' := (all.drop start.toNat).take count.toNat
    emit (tickBytes s 4) (.mailbox v 0x4801 0 (natBytes 4 some'.length ++ natBytes 4 all.length ++ freeBytes s 4 ++ natBytes 4 0 ++ some'.flatMap (extentBytes s)))

/-- The extent of a PLD in a state that a host names by its first granule and length; 16,384 where there is none. -/
def namedExtent (s : State) (p st : Nat) (r : BitVec 28 × BitVec 28) : Nat :=
  ((listed s 0x15).find? fun i =>
    let e := tabVal s 0x15 i
    estate e == st && epld e == p && elgran e == r.1.toNat && engran e == r.2.toNat).getD 16384

/-- The oldest offer to a PLD's host. -/
def oldestOffer (s : State) (p : Nat) : Option Nat :=
  let os := (listed s 0x15).filter fun i => estate (tabVal s 0x15 i) == 1 && epld (tabVal s 0x15 i) == p
  os.find? fun i => os.all fun j => decide (smGet 0 s.offers i ≤ smGet 0 s.offers j)

/-- ADD_DYNAMIC_CAPACITY_RESPONSE: a host chart accepts the extents named, or declines the oldest offer. -/
def execAddDynamicCapacityResponse (v : VppbId) (exts : List (BitVec 28 × BitVec 28)) (s : State) : Res :=
  onMailbox s v fun p =>
    let no := if exts.isEmpty then [(oldestOffer s p).getD 16384] else []
    { s with internals := s.internals ++ [⟨12, .dcAdd v (exts.map (namedExtent s p 1)) no⟩] }

/-- RELEASE_DYNAMIC_CAPACITY: a host chart frees the releasing extents named. -/
def execReleaseDynamicCapacity (v : VppbId) (exts : List (BitVec 28 × BitVec 28)) (s : State) : Res :=
  onMailbox s v fun p => { s with internals := s.internals ++ [⟨12, .dcRelease v (exts.map (namedExtent s p 3))⟩] }

/-- MAILBOX_UNSUPPORTED: the return code is that of CXL for Unsupported. -/
def execMailboxUnsupported (v : VppbId) (op : BitVec 16) (s : State) : Res :=
  onMailbox s v fun _ => emit s (.mailbox v op.toNat 0x03 [])

end Sys2Proof.Machine
end

