-- ==== Sys2Proof/Machine/Flip.lean ====
section
/-! DEFINITION. What a COMMIT writes at its flip, and what each table's entry does when it takes its new value (R40, R41, R45, R66, R87, R100, R170, R185, R191, R193, R242, R247, R316, R392, R402, R406, R407, R413, R417, R460, R498). -/
namespace Sys2Proof.Machine

/-! The entries written. -/

/-- The drafts' own entries. -/
def draftWrites (s : State) (x : Engine) : List (Nat × Nat × Entry) :=
  x.drafts.map fun d => (keyTab d.key, keyIdx d.key, merge (tabVal s (keyTab d.key) (keyIdx d.key)) d.val d.mask)

/-- The ports of a tile that a profile change removes or creates (R41). -/
def changedPorts (s : State) (t new : Nat) : List Nat :=
  ((List.range 8).filter fun k => decide (profileWidth (profileOf s t) k ≠ 0) != decide (profileWidth new k ≠ 0)).map (8 * t + ·)

/-- The port entries that the profile changes of a list of writes clear. -/
def clearedPorts (s : State) (ws : List (Nat × Nat × Entry)) : List Nat :=
  (ws.map fun w => if w.1 = 0x0B then changedPorts s w.2.1 (fld w.2.2 0 3) else []).flatten

/-- The ports whose ROLE a list of writes takes to 4, or away from it. -/
def roleMoves (s : State) (ws : List (Nat × Nat × Entry)) (to4 : Bool) : List Nat :=
  (ws.filter fun w => w.1 == 0x01 && (decide (fld w.2.2 0 3 = 4) == to4) && (decide (roleOf s w.2.1 = 4) != to4)).map fun w => w.2.1

/-- The rings 12 and 13 that return to the values of Table 10.13 with their port (R498). -/
def ringsLeft (s : State) (ps : List Nat) : List Nat := [12, 13].filter fun r => ps.any fun p => tabFld s 0x30 r 116 16 == 0x6000 + p

/-- The rings 12 and 13 without an owner, once those returned are free. -/
def ringsOpen (s : State) (left : List Nat) : List Nat := [12, 13].filter fun r => left.contains r || tabFld s 0x30 r 116 16 == 0xFFFF

/-- The ring entries that the role changes of a COMMIT write (R498). -/
def ringWrites (s : State) (ws : List (Nat × Nat × Entry)) : List (Nat × Nat × Entry) :=
  let left := ringsLeft s (roleMoves s ws false)
  let taken := (ringsOpen s left).zip (roleMoves s ws true)
  left.map (fun r => (0x30, r, tabReset 0x30 r)) ++ taken.map fun t => (0x30, t.1, setFld (tabReset 0x30 t.1) 116 16 (0x6000 + t.2))

/-- Every entry that a COMMIT writes: the drafts, the ports cleared, the rings assigned. -/
def commitWrites (s : State) (x : Engine) : List (Nat × Nat × Entry) :=
  let ws := draftWrites s x
  ws ++ ((clearedPorts s ws).map fun p => (0x01, p, strapEntry s 0x01 p)) ++ ringWrites s ws

/-! SETTINGS (R21, R41, R460). -/

/-- The drafted value of a field whose Reset column reads eMRAM is stored (R40, R460), whether or not it differs from the committed one (R499):
the stored values of an entry with the bits that are stored. -/
def persist (s : State) (x : Engine) (w : Nat × Nat × Entry) : State :=
  let m := draftedBits x w.1 w.2.1 &&& keptMask w.1
  let k := tkey w.1 w.2.1
  if m = 0 then s
  else
    let o := (smGet none s.settings k).getD (0, 0)
    { s with settings := smSet none s.settings k (some (merge o.1 w.2.2 m, o.2 ||| m)) }

/-- A cleared port's stored values are removed. -/
def forget (s : State) (p : Nat) : State := { s with settings := smSet none s.settings (tkey 0x01 p) none }

/-! What the new values do. -/

/-- A port's configuration (R45, R100, R109, R498): a role change starts or ends the link. -/
def portFlip (s : State) (p : Nat) (old new mask : Entry) : State :=
  let a := fld old 0 3
  let b := fld new 0 3
  let s :=
    if a = b then s
    else
      let s := if a = 3 then endSession s p else s
      if b = 3 then enterDetect s p
      else if b = 0 then s
      else emit (setLive s 0x02 p 0 6 0) (.link p 4 0)
  if mask &&& ones 18 2 = 0 ∨ b ≠ 3 then s else setRxLean (setSess s p 24 1 0) p

/-- A route-table flip: the plane's old table is kept while its epoch drains (R168, R170). -/
def planeFlip (s : State) (before : State) (pl : Nat) : State :=
  let mine (k : Nat) : Bool := (keyTab k == 0x08 && keyIdx k / 2304 == pl) || (keyTab k == 0x09 && keyIdx k / 48 == pl)
  let kept := (before.tab.filter fun e => mine e.1).foldl (fun m e => smPut m e.1 e.2.val) (smErase s.routeOld mine)
  let s := { s with routeOld := kept }
  setLive (setLive s 0x0A pl 0 1 (1 - planeEpoch s pl)) 0x0A pl 1 1 1

/-- A binding (R66, R185): the slot of the vPPB shows Presence Detect Changed when it becomes bound, or ceases to be; a bind through a lost port
clears its LOST. -/
def bindFlip (s : State) (i : Nat) (old new : Entry) : State :=
  if (bstate old = 1) = (bstate new = 1) then s
  else
    let s := { s with presence := smSet false s.presence i true }
    if bstate new = 1 ∧ (btype new = 1 ∨ btype new = 2) then setLive s 0x02 (bport new) 20 1 0 else s

/-- A registered capacity (R186): every granule DIRTY, HDM decoder 0 of the member programmed. -/
def memberFlip (s : State) (m : Nat) (new : Entry) : State :=
  { s with granules := s.granules.filter fun g => g.1 / 2 ^ 28 != m, poolLost := smSet false s.poolLost m false, member0 := smSet 0 s.member0 m (fld new 0 32) }

/-- CLR_UNC (R241): the uncertain sets and the quarantine marks of a slice; a quarantined way, and the backing way bound to it, are free again (log 39). -/
def clearUncertain (s : State) (g : Nat) : State :=
  let s := setSlice s g { sliceOf s g with unc := [], uncAll := false }
  let bad := s.ways.filter fun w => w.1 / 65536 == g && w.2.quar
  { s with ways := s.ways.filter fun w => !(w.1 / 65536 == g && w.2.quar)
           backing := s.backing.filter fun b => !(setSliceNo (b.1 / 8) == g && (b.2.st == 15 || bad.any fun w => b.1 == setOfWay w.1 w.2.sext * 8 + w.2.hway)) }

/-- A ring (R247): its pointers start at 0 with the COMMIT that drafts EN = 1, also where EN was 1 (R499). -/
def ringFlip (s : State) (r : Nat) (mask new : Entry) : State :=
  if mask &&& ones 100 1 ≠ 0 ∧ fld new 100 1 = 1 then { s with rings := smSet {} s.rings r { gen := (smGet {} s.rings r).gen + 1 } } else s

/-- A timer (R402): a COMMIT that drafts EN = 1 sets it, also where EN was 1 (R499). -/
def timerFlip (s : State) (t : Nat) (old new mask : Entry) : State :=
  let l := smGet {} s.timers t
  let l := if fld new 0 1 = 0 ∨ fld old 16 8 ≠ fld new 16 8 then { l with driving := false, pulseEnd := none } else l
  let l := if fld new 0 1 = 1 ∧ (mask &&& ones 0 1 ≠ 0 ∨ fld old 24 104 ≠ fld new 24 104) then { l with next := some (fld new 64 64) } else l
  { s with timers := smSet {} s.timers t l }

/-- A changed metric closes the open records of its old setting (R392). -/
def metricFlip (s : State) (m : Nat) (old new : Entry) : State :=
  if old = new then s
  else { s with alm := (s.alm.openRecs.filter fun o => o.rcd.metric == m).foldl (fun a o => almClose (almView s) a o 0) s.alm }

/-- What a peak or minimum counter restarts from: its present value (Tables 17.2, 17.3). -/
def presentValue (s : State) (i : Nat) : Nat :=
  if i < 0x0900 then (if 22 ≤ i % 24 then smGet 0 s.cnt.live (i - 2) else 0)
  else if i < 0x0A80 then
    let t := (i - 0x0900) / 32
    match (i - 0x0900) % 32 with
    | 0 => poolUsed s t
    | 1 => reserveUsed s t
    | 2 => selectedCells s fun q => q / 8 == t
    | 3 => poolFree s t
    | 12 => earlyOf t true
    | 13 => earlyOf t false
    | _ => 0
  else 0
where
  earlyOf (t : Nat) (rs : Bool) : Nat := ((List.range 8).map fun k => earlyHeld s (portEp (8 * t + k)) rs).foldl max 0

/-- A counter's arming (R406, R407): CLEAR, and a new WIN, which starts a new window at the next boundary. -/
def armFlip (s : State) (i : Nat) (old new : Entry) : State :=
  let s := if fld new 1 1 = 1 then { s with cnt := { s.cnt with live := smSet 0 s.cnt.live i (presentValue s i) } } else s
  if fld old 5 5 = fld new 5 5 then s
  else { s with cnt := { s.cnt with live := smSet 0 s.cnt.live i 0, winAcc := smSet 0 s.cnt.winAcc i 0, winStart := smSet 0 s.cnt.winStart i s.ts } }

/-- A function's entry (R333, R336): a VF that gains an index is ACTIVE, one that loses it is DISABLED; PF0 shows the VFs it committed. -/
def functionFlip (s : State) (f : Nat) (mask : Entry) (new : Entry) : State :=
  if f < 2048 then
    if mask &&& ones 23 9 = 0 then s
    else if fld new 23 9 = 0 then setLive s 0x3D f 0 4 0
    else if funcState s f = 0 then setLive s 0x3D f 0 4 1 else s
  else if mask &&& ones 59 9 = 0 then s
  else { s with svc := { s.svc with pf := smMod {} s.svc.pf (f - 2048) fun c => { c with numVfs := fld new 59 9, vfEnable := decide (fld new 59 9 ≠ 0) } } }

/-- A trace buffer (R417): EN from 0 to 1 clears what it recorded. -/
def traceFlip (s : State) (t : Nat) (old new : Entry) : State :=
  if fld old 0 1 = 0 ∧ fld new 0 1 = 1 then
    { setLive s 0x3F t 18 54 0 with traces := smSet {} s.traces t {} } else s

/-- A tile takes its committed operating point (R461); a change counts (Table 17.3). -/
def applyOpp (s : State) (t : Nat) : State :=
  let v := tabFld s 0x3E t 8 2
  if smGet 0 s.oppNow t = v then s else count { s with oppNow := smSet 0 s.oppNow t v } (tileCtr t 30) 1

/-- A tile entry (R459, R461): RELEASE ends the hold of HOLD_BOOT, and OPP applies while the tile is LIVE. -/
def tileFlip (s : State) (t : Nat) (new : Entry) : State :=
  let s := if fld new 16 1 = 1 then { s with boot := { s.boot with released := s.boot.released ||| 2 ^ t } } else s
  if tabFld s 0x3E t 20 4 = 0 then applyOpp s t else s

/-- What one written entry does. quiet: the chart is a host's release of extents. -/
def entryFlip (quiet : Bool) (s : State) (w : Nat × Nat × Entry × Entry × Entry) : State :=
  let i := w.2.1
  let old := w.2.2.1
  let new := w.2.2.2.1
  let mask := w.2.2.2.2
  match w.1 with
  | 0x01 => portFlip s i old new mask
  | 0x03 => laneFlip s i old mask
  | 0x11 => bindFlip s i old new
  | 0x15 => extentChange s i old new quiet
  | 0x19 => memberFlip s i new
  | 0x20 => if rstate old ≠ 0 ∧ rstate new = 0 then regionFreed s old else s
  | 0x22 => if fld old 0 2 = fld new 0 2 then s else { s with lostWalked := smSet false s.lostWalked i false }
  | 0x24 => if fld new 8 1 = 1 then clearUncertain s i else s
  | 0x30 => ringFlip s i mask new
  | 0x32 => timerFlip s i old new mask
  | 0x38 => slotFresh s i old
  | 0x3B => metricFlip s i old new
  | 0x3C => armFlip s i old new
  | 0x3D => functionFlip s i mask new
  | 0x3E => tileFlip s i new
  | 0x3F => traceFlip s i old new
  | 0x40 => { s with cnt := { s.cnt with schedNew := true } }
  | _ => s

/-- The fields that return to 0 when their act is done: CLEAR, CLR_UNC and RELEASE (R258). -/
def selfClears (ws : List (Nat × Nat × Entry)) : List (Nat × Nat × Entry) :=
  ws.filterMap fun w =>
    match w.1 with
    | 0x3C => if fld w.2.2 1 1 = 1 then some (0x3C, w.2.1, setFld w.2.2 1 1 0) else none
    | 0x24 => if fld w.2.2 8 1 = 1 then some (0x24, w.2.1, setFld w.2.2 8 1 0) else none
    | 0x3E => if fld w.2.2 16 1 = 1 then some (0x3E, w.2.1, setFld w.2.2 16 1 0) else none
    | _ => none

/-- The Legend's PROFILE or CHIP changes (R266). -/
def legendFlip (s : State) (ws : List (Nat × Nat × Entry × Entry × Entry)) : State :=
  if ws.any fun w => (w.1 == 0x0B && w.2.2.1 != w.2.2.2.1) || (w.1 == 0x0C && fld w.2.2.1 0 8 != fld w.2.2.2.1 0 8) then legendChanged s else s

/-- A chart that is a resident LANE.ALIGN takes its port from ALIGN to WAKE at its flip (R100). -/
def alignFlip (s : State) (x : Engine) : State :=
  match x.origin with
  | .resident 1 p => if tstate s p = 3 then enterWake s p false else s
  | _ => s

/-- The flip of a chart's drafts (R256): every entry at once, the next commit number, the digest to Meridian, and what the new values do. -/
def flip (s : State) (x : Engine) : State :=
  let ws := commitWrites s x
  let k := s.commitNum + 1
  let full := ws.map fun w => (w.1, w.2.1, tabVal s w.1 w.2.1, w.2.2,
    (draftedBits x w.1 w.2.1 ||| (if x.drafts.any (fun d => d.key == tkey w.1 w.2.1) then 0 else draftable w.1)))
  let t := ws.foldl (fun t w => setTab t w.1 w.2.1 w.2.2 k) { s with commitNum := k }
  let t := ws.foldl (fun t w => persist t x w) t
  let t := (clearedPorts s (draftWrites s x)).foldl forget t
  let t := { t with mer := { t.mer with reports := t.mer.reports ++ [⟨k, ws, t.clock + 2000⟩] } }
  let t := count t (devCtr 3) 1
  let quiet := match x.origin with | .internal (.dcRelease _ _) => true | _ => false
  let t := full.foldl (entryFlip quiet) t
  let t := (planesDrafted x).foldl (fun t pl => planeFlip t s pl) t
  alignFlip (deviceUpdate (legendFlip t full) (selfClears ws)) x

end Sys2Proof.Machine
end

