-- ==== Sys2Proof/Machine/Survey.lean ====
section
/-! DEFINITION. Survey (R294-R310): presence, the arrival sequence, partner records, managed detach, surprise departure. -/
namespace Sys2Proof.Machine

/-! Records (Table 12.3). -/

/-- A port's partner record. -/
def partnerOf (s : State) (p : Nat) : Partner := smGet {} s.partners p
/-- Changing it. -/
def modPartner (s : State) (p : Nat) (f : Partner → Partner) : State := { s with partners := smMod {} s.partners p f }

/-- The 128 bytes of a record. -/
def partnerBytes (p : Nat) (r : Partner) : List Byte :=
  natBytes 1 p ++ natBytes 1 r.st ++ natBytes 1 r.step ++ natBytes 1 r.outcome ++ natBytes 1 r.kind ++ natBytes 1 r.auth ++ natBytes 1 r.flags ++
    natBytes 1 r.nld ++ natBytes 2 r.vendor ++ natBytes 2 r.device ++ natBytes 3 r.cls ++ natBytes 1 0 ++ natBytes 8 r.serial ++ natBytes 1 r.width ++
    natBytes 1 r.rate ++ natBytes 1 r.proto ++ natBytes 1 r.chip ++ natBytes 4 0 ++ natBytes 8 r.arriveTs ++ natBytes 8 r.departTs ++
    natBytes 2 r.rdLat ++ natBytes 2 r.rdBw ++ natBytes 2 r.arrivals ++ natBytes 2 0 ++ natBytes 8 r.meas ++
    (List.range 16).flatMap fun n => natBytes 4 (smGet 0 r.ldGran n)

/-- The status that an outcome ends SURVEY.RUN with (R296). -/
def outcomeStatus (o : Nat) : Nat := if o ≤ 2 then 0 else if o = 0x16 then 5 else if o = 0x14 ∨ o = 0x17 then 1 else 7

/-! Slots, links and presence. -/

/-- SLOT.OFF where a channel is mapped. -/
def slotOffAt (s : State) (p : Nat) : State := match channelOf s p with | some c => slotCmdOff s c | none => s
/-- SLOT.ON where a channel is mapped. -/
def slotOnAt (s : State) (p : Nat) : State := match channelOf s p with | some c => slotCmdOn s c | none => s
/-- The GPIO that carries the slot's PERST#, of a mapped channel. -/
def perstPin (s : State) (p : Nat) : Option Nat :=
  match channelOf s p with | some c => if tabFld s 0x38 c 96 6 < 48 then some (tabFld s 0x38 c 96 6) else none | none => none

/-- Survey's own disabling of a link, which is no loss (R300, Table 12.6 step 7). -/
def disableLink (s : State) (p : Nat) : State :=
  if roleOf s p = 3 then setLive (endSession (lowEnd s p) p) 0x02 p 17 1 0
  else emit (linkDown s p 0x0F) (.link p 5 0)

/-- The link trains toward L0 or OPEN; a disabled one leaves its state. -/
def startTraining (s : State) (p : Nat) : State :=
  if roleOf s p = 3 then (if tstate s p = 0 then enterDetect s p else s)
  else if linkAlive s p ∨ (1 ≤ ltssm s p ∧ ltssm s p ≤ 0x05) then s else emit (setLive s 0x02 p 0 6 0) (.link p 4 0)

/-- Training has ended: L0, or OPEN on an ISL. -/
def trained (s : State) (p : Nat) : Bool := if roleOf s p = 3 then islOpen s p else linkAlive s p && tabFld s 0x02 p 17 1 == 1

/-- The port is lost and its link is down. -/
def lostNow (s : State) (p : Nat) : Bool := tabFld s 0x02 p 20 1 == 1 && tabFld s 0x02 p 17 1 == 0

/-! Capacity (R186, R302). -/

/-- The logical devices of a port that a binding names, bound or lost. -/
def boundLd (s : State) (p ld : Nat) : Bool :=
  (bindingsOf s p).any fun i =>
    let b := tabVal s 0x11 i
    (bstate b == 1 || bstate b == 2) && (btype b == 1 || (btype b == 2 && bld b == ld))

/-- A lost extent names the port. -/
def lostExtent (s : State) (p : Nat) : Bool := (listed s 0x15).any fun i => emport (tabVal s 0x15 i) == p && estate (tabVal s 0x15 i) == 4

/-- The capacity that step 7 would register: logical devices not bound, with at least one granule. -/
def toRegister (s : State) (p nld : Nat) (gs : List Nat) : List (Nat × Nat) :=
  ((List.range nld).filterMap fun ld => if boundLd s p ld ∨ nth 0 gs ld = 0 then none else some (ld, nth 0 gs ld))

/-- Capacity has entered the pool: the record and the event. -/
def registeredNow (s : State) (p : Nat) (todo : List (Nat × Nat)) : State :=
  let s := modPartner s p fun r =>
    { r with flags := (r.flags ||| 1) &&& 0xFD, ldGran := todo.foldl (fun m t => smSet 0 m t.1 t.2) r.ldGran }
  raiseEvent s 0x404 p [sumOf (todo.map (·.2))]

/-- The members of a port leave the pool. -/
def leavePool (s : State) (p : Nat) : State :=
  let ms := membersOf s p
  let s := deviceUpdate s (ms.map fun m => (0x19, m, (0 : Entry)))
  { s with poolLost := ms.foldl (fun m k => smSet false m k false) s.poolLost
           granules := s.granules.filter fun g => !(ms.contains (g.1 / 2 ^ 28))
           scrubs := s.scrubs.filter fun c => !(ms.contains c.mem)
           member0 := ms.foldl (fun m k => smSet 0 m k 0) s.member0 }

/-- DEFERRED_REGISTRATION (R302): a device update, once no lost extent names the port. -/
def execDeferredRegistration (p : PortId) (s : State) : Res :=
  let todo := smGet [] s.deferred p
  if todo.isEmpty ∨ lostExtent s p ∨ (partnerOf s p).st ≠ 2 then .next s
  else
    let s := deviceUpdate s (todo.map fun t => (0x19, 16 * p + t.1, BitVec.ofNat 256 t.2))
    let s := todo.foldl (fun s t => memberFlip s (16 * p + t.1) (BitVec.ofNat 256 t.2)) s
    .next (registeredNow { s with deferred := smSet [] s.deferred p [] } p todo)

/-! A run's end. -/

/-- The run of a port. -/
def runOf (s : State) (p : Nat) : Option SurveyRun := (s.surveys.find? fun r => r.1 == p).map (·.2)
/-- Replacing it. -/
def setRun (s : State) (p : Nat) (r : SurveyRun) : State := { s with surveys := smPut s.surveys p r }

/-- The macro of a run ends with an outcome: G1 holds it (R296). -/
def runEnds (s : State) (p e o : Nat) : State :=
  let s := { s with surveys := smDel s.surveys p }
  let x := engineOf s e
  if engineIdle x then s else finish s e (regSet x 1 (BitVec.ofNat 64 o)) (outcomeStatus o)

/-- A run fails (R298, R300): the slot goes off, the record is FAILED, or REFUSED with the link disabled where authentication failed. -/
def runFails (s : State) (p : Nat) (r : SurveyRun) (o : Nat) : State :=
  let step := (partnerOf s p).step
  let s := if step < 2 then s else slotOffAt s p
  let s := if o = 0x14 then raiseEvent (disableLink (modPartner s p fun q => { q with auth := 3 }) p) 0x403 p [] else s
  let s := modPartner s p fun q => { q with st := if o = 0x14 then 3 else 7, outcome := o, flags := q.flags &&& 0xEF }
  let s := raiseEvent s 0x401 p [o, step]
  -- a link that is in Detect already has returned there (R294)
  runEnds (if cxlPort s p ∧ ltssm s p ≤ 1 then detectAbsence s p else s) p r.engine o

/-- Step 8: the partner has arrived. -/
def runArrives (s : State) (p : Nat) (r : SurveyRun) (o : Nat) : State :=
  let s := modPartner s p fun q =>
    { q with st := 2, step := 8, outcome := o, arriveTs := s.ts, departTs := 0, arrivals := (q.arrivals + 1) % 65536 }
  runEnds (raiseEvent s 0x402 p []) p r.engine o

/-! Steps (Table 12.1). -/

/-- A step begins: its bound runs from now. -/
def beginStep (s : State) (p k : Nat) (r : SurveyRun) : State :=
  setRun (modPartner s p fun q => { q with step := k }) p { r with began := s.clock }

/-- Step 7 or 8, once the steps before are done (R302). -/
def step7 (s : State) (p : Nat) (r : SurveyRun) : State :=
  let q := partnerOf s p
  let s := { s with stated := smSet [] s.stated p r.grans }
  if roleOf s p ≠ 2 ∨ (q.kind ≠ 4 ∧ q.kind ≠ 5) then runArrives s p r 0
  else
    let n := if q.kind = 4 then 1 else q.nld
    let o := if (List.range n).any (boundLd s p) then 1 else 0
    let todo := toRegister s p n r.grans
    let s := modPartner s p fun q => { q with step := 7 }
    if todo.isEmpty then runArrives s p r o
    else if lostExtent s p then
      runArrives (modPartner { s with deferred := smSet [] s.deferred p todo } p fun q => { q with flags := q.flags ||| 2 }) p r 2
    else
      setRun { s with residents := s.residents ++ [{ engine := 12, kind := 3, port := p }] } p { r with began := s.clock, todo := todo, reg := none }

/-- Step 6 applies to CXL memory devices on a DSP. -/
def step6 (s : State) (p : Nat) (r : SurveyRun) : State :=
  let k := (partnerOf s p).kind
  if roleOf s p = 2 ∧ 3 ≤ k ∧ k ≤ 6 then beginStep s p 6 r else step7 s p r

/-- Step 5 applies on an ISL, and on a DSP per AUTH and IDE_REQ (R300). -/
def step5 (s : State) (p : Nat) (r : SurveyRun) : State :=
  if roleOf s p = 3 ∨ (roleOf s p = 2 ∧ (tabFld s 0x01 p 16 2 ≠ 0 ∨ tabFld s 0x01 p 15 1 = 1)) then beginStep s p 5 r else step6 s p r

/-- Step 3. -/
def step3 (s : State) (p : Nat) (r : SurveyRun) : State := startTraining (beginStep s p 3 r) p

/-- Step 2 applies where a channel is mapped. -/
def step2 (s : State) (p : Nat) (r : SurveyRun) : State :=
  if (channelOf s p).isSome then slotOnAt (beginStep s p 2 r) p else step3 s p r

/-- A run begins with step 1: the record is overwritten, but for the count of arrivals. -/
def beginRun (s : State) (e : Nat) (p : Nat) : State :=
  let old := partnerOf s p
  let s := modPartner s p fun _ =>
    { st := 1, step := 1, arrivals := old.arrivals, flags := if byPin s p then 8 else 0 }
  let s := { s with arriving := smSet false s.arriving p false, deferred := smSet [] s.deferred p [] }
  let r : SurveyRun := { engine := e, prev := if old.st = 0 then none else some old.serial }
  if smGet false s.present p then step2 (setRun s p r) p r else runFails (setRun s p r) p r 0x10

/-- What identity says at step 4 (R299): the record's identity fields; SERIAL is compared with the record's previous one. -/
def identified (s : State) (p : Nat) (prev : Option Nat) (f : Partner → Partner) : State :=
  let s := modPartner s p f
  match prev with
  | some n => if n = (partnerOf s p).serial then s else raiseEvent s 0x405 p []
  | none => s

/-- The link as negotiated, for the record. -/
def linkFields (s : State) (p : Nat) (proto : Nat) (q : Partner) : Partner :=
  let f := tabFld s 0x02 p 15 2
  { q with width := tabFld s 0x02 p 10 5, rate := tabFld s 0x02 p 6 4,
           proto := if roleOf s p = 3 then 0 else proto ||| (if f = 2 then 8 else if f = 1 then 16 else 0) }

/-- Step 4's identity by role (R299); none: not enough was read. The second part is whether the partner suits the role. -/
def step4Found (s : State) (p : Nat) (prev : Option Nat) (x : StepFound) : Option (State × Bool × List Nat) :=
  match roleOf s p, x with
  | 1, _ => some (identified s p prev fun q => { linkFields s p 7 q with kind := 1, serial := 0 }, !(smGet false s.noCxl p), [])
  | 3, _ => some (identified s p prev fun q => { linkFields s p 0 q with kind := 9, serial := (islOf s p).partner.getD 0, chip := (islOf s p).peerChip }, true, [])
  | 4, _ => some (identified s p prev fun q => { linkFields s p 1 q with kind := 10, serial := 0 }, true, [])
  | 2, .identity kind nld v d c n pr gs =>
    some (identified s p prev fun q => { linkFields s p (pr.toNat &&& 0x27) q with
      kind := kind.toNat, nld := if kind.toNat = 5 then min 16 nld.toNat else if kind.toNat = 4 then 1 else 0, vendor := v.toNat, device := d.toNat,
      cls := c.toNat, serial := n.toNat }, decide (2 ≤ kind.toNat ∧ kind.toNat ≤ 8), gs.map (·.toNat))
  | _, _ => none

/-- Step 5's outcome on success (R300): the record, the IDE streams, NEW_PARTNER. -/
def step5Passed (s : State) (p : Nat) (meas : BitVec 64) (ide : Bool) : State :=
  let full := tabFld s 0x01 p 16 2 == 2
  let s := modPartner s p fun q => { q with auth := if full then 2 else 1, meas := if full then meas.toNat else 0, flags := if ide then q.flags ||| 4 else q.flags }
  if roleOf s p = 3 then partnerTrusted s p
  else if ide then egressFlush (setLive { s with ideUp := smSet 0 s.ideUp p 3 } 0x02 p 18 1 1) p else s

/-- Slot power is on, and PERST# is released where the channel names a pin. -/
def slotReady (s : State) (p : Nat) (r : SurveyRun) : Bool :=
  match channelOf s p with
  | some c => (slotOf s c).pg && ((perstPin s p).isNone || r.perst)
  | none => true

/-- SURVEY_STEP_COMPLETE (R298-R302): the step in progress ends with what it found, and the next that applies begins. -/
def execSurveyStepComplete (p : PortId) (x : StepFound) (s : State) : Res :=
  match runOf s p with
  | none => .next s
  | some r =>
    let k := (partnerOf s p).step
    if 4 ≤ k ∧ lostNow s p ∧ !(k = 7 ∧ r.reg = none) then .next (runFails s p r 0x16)
    else match k, x with
      | 2, _ => .next (if slotReady s p r then step3 (modPartner s p fun q => { q with flags := q.flags ||| 16 }) p r else s)
      | 3, _ => .next (if trained s p then beginStep s p 4 r else s)
      | 4, x =>
        match step4Found s p r.prev x with
        | none => .next s
        | some (s, ok, gs) => .next (if ok then step5 s p { r with grans := gs } else runFails s p r 0x17)
      | 5, .auth ok meas ide => .next (if ok then step6 (step5Passed s p meas (ide && tabFld s 0x01 p 15 1 == 1 && roleOf s p == 2)) p r else runFails s p r 0x14)
      | 6, .cdat lat bw gs =>
        .next (step7 (modPartner s p fun q => { q with rdLat := lat.toNat, rdBw := bw.toNat }) p
          { r with grans := if gs.isEmpty then r.grans else gs.map (·.toNat) })
      | 7, _ =>
        match r.reg with
        | none => .next s
        | some st =>
          let s := if st = 0 then registeredNow s p r.todo else s
          let n := if (partnerOf s p).kind = 4 then 1 else (partnerOf s p).nld
          .next (runArrives s p r (if (List.range n).any (boundLd s p) then 1 else 0))
      | _, _ => .next s

/-- SURVEY_STEP_TIMEOUT (R298, Table 12.1): the bound of the step in progress has passed, or its channel has tripped. -/
def execSurveyStepTimeout (p : PortId) (s : State) : Res :=
  match runOf s p with
  | none => .next s
  | some r =>
    let past (ms : Nat) : Bool := decide (r.began + ms * 1000000 ≤ s.clock)
    match (partnerOf s p).step with
    | 2 =>
      match channelOf s p with
      | some c => .next (if !(slotOf s c).pg ∧ (past 100 ∨ (slotOf s c).st = 4) then runFails s p r 0x11 else s)
      | none => .next s
    | 3 => .next (if past 1000 ∧ !(trained s p) then runFails s p r 0x12 else s)
    | 4 => .next (if past 1000 then runFails s p r (if lostNow s p then 0x16 else 0x13) else s)
    | 5 => .next (if past 2000 then runFails s p r (if lostNow s p then 0x16 else 0x14) else s)
    | 6 => .next (if past 1000 then (if lostNow s p then runFails s p r 0x16 else step7 s p r) else s)
    | _ => .next s

/-- SURVEY_PERST_RELEASE (R298, R321): 100 ms after PG, while PG is asserted. -/
def execSurveyPerstRelease (p : PortId) (s : State) : Res :=
  match runOf s p, channelOf s p, perstPin s p with
  | some r, some c, some g =>
    if (partnerOf s p).step = 2 ∧ (slotOf s c).pg ∧ !r.perst ∧ (slotOf s c).pgAt + 100000000 ≤ s.clock then
      .next { setRun s p { r with perst := true } with pinLow := smSet false s.pinLow g false }
    else .next s
  | _, _, _ => .next s

/-! Presence and the automatic run (R294, R297, R309, R310). -/

/-- A detach macro runs on the port. -/
def detachOf (s : State) (p : Nat) : Option Nat :=
  (List.range 16).find? fun e => let x := engineOf s e; !(engineIdle x) && opcodeOf (wordAt x) == 0xA9 && x.seq != 0 && x.seqA == p
/-- A Survey run of the port is in progress, or its resident chart waits. -/
def surveying (s : State) (p : Nat) : Bool := (runOf s p).isSome || s.residents.any fun r => r.kind == 0 && r.port == p

/-- Presence qualifies without a pin (R297): the LTSSM has left Detect for Polling; an ISL has reached DETECT with CDR_LOCK on every lane. -/
def inBand (s : State) (p : Nat) : Bool :=
  if roleOf s p = 3 then tstate s p != 0 && cdrAll s p else cxlPort s p && (linkAlive s p || decide (2 ≤ ltssm s p ∧ ltssm s p ≤ 0x05))

/-- PRESENCE (R297). -/
def execPresence (p : PortId) (s : State) : Res :=
  if !(portExists s p) ∨ smGet false s.present p ∨ (!(byPin s p) ∧ !(inBand s p)) then .next s
  else .next (raiseEvent { s with present := smSet false s.present p true, arriving := smSet false s.arriving p true } 0x400 p [])

/-- SURVEY_START (R294): on the tile engine of the port's tile. The session that resumes with its partner (R295) finds its record ARRIVED. -/
def execSurveyStart (p : PortId) (s : State) : Res :=
  let st := (partnerOf s p).st
  if smGet false s.arriving p ∧ roleOf s p ≠ 0 ∧ (st = 0 ∨ st = 3 ∨ st = 5 ∨ st = 6 ∨ st = 7) ∧ !(surveying s p) ∧ (detachOf s p).isNone then
    .next { s with residents := s.residents ++ [{ engine := p / 8, kind := 0, port := p }], arriving := smSet false s.arriving p false }
  else .next s

/-- PRESENCE_ABSENT (R309, R310): by a pin, a CXL or PCIe link that is not down is directed to Detect, which is a loss unless step 7 of a detach
has begun; a run in progress ends GONE. -/
def execPresenceAbsent (p : PortId) (s : State) : Res :=
  if !(smGet false s.present p) then .next s
  else
    let s := raiseEvent { s with present := smSet false s.present p false, arriving := smSet false s.arriving p false } 0x400 p []
    let s := if byPin s p ∧ cxlPort s p ∧ linkAlive s p then
        (if smGet false s.detaching p then linkDown s p 0 else loseCxl s p 0) else s
    match runOf s p with
    | some r => if (partnerOf s p).step ≤ 6 then .next (runFails s p r (if (partnerOf s p).step < 2 then 0x10 else 0x16)) else .next s
    | none => .next s

/-- PARTNER_LOST (R309): the loss is set, and presence is absent or the link has stayed down for 1 s; on an ISL the containment alone (Table 12.7). -/
def execPartnerLost (p : PortId) (s : State) : Res :=
  let st := (partnerOf s p).st
  let down := smGet 0 s.lostAt p
  if lostNow s p ∧ (detachOf s p).isNone ∧ 1 ≤ st ∧ st ≤ 4 ∧
      (roleOf s p = 3 ∨ !(smGet false s.present p) ∨ down + 1000000000 ≤ s.clock + 1) then
    let s := match runOf s p with | some r => runFails s p r 0x16 | none => s
    let s := slotOffAt (leavePool s p) p
    .next (raiseEvent (modPartner { s with deferred := smSet [] s.deferred p [] } p fun q => { q with st := 6, departTs := s.ts }) 0x409 p [])
  else .next s

/-! SURVEY.RUN and SURVEY.RECORD (R296, R304). -/

/-- SURVEY.RUN. -/
def execSurveyRun (e : EngineId) (s : State) : Res :=
  .next (macroThen s e 0xA8 [rowBits [(6, 0)]] 0 (.tile tileOfPort0) true fun s x b =>
    let p := wfld (b 0) 0 7
    let q := partnerOf s p
    let x := regSet x 1 (BitVec.ofNat 64 q.outcome)
    if !(portExists s p) ∨ roleOf s p = 0 then finish s e x 5
    else if (runOf s p).isSome ∨ (s.residents.any fun r => r.kind == 0 && r.port == p) ∨ (detachOf s p).isSome then finish s e x 3
    else if q.st = 2 ∧ q.flags % 2 = 1 then finish s e x 0
    else
      let s := setEngine s e (seqWait x 1 p 0)
      if q.st = 2 then
        let r : SurveyRun := { engine := e, began := s.clock, grans := smGet [] s.stated p }
        step7 (setRun (modPartner s p fun q => { q with st := 1 }) p r) p r
      else beginRun s e p)

/-- SURVEY.RECORD: the 128 bytes go to the data area. -/
def execSurveyRecord (e : EngineId) (s : State) : Res :=
  .next (macroOp s e 0xAA [rowBits [(6, 0)], rowBits [(15, 0)]] 0 (.tile tileOfPort0) fun s x b =>
    let p := wfld (b 0) 0 7
    let off := wfld (b 1) 0 16
    if off % 8 ≠ 0 then (6, s, x)
    else if !(portExists s p) then (5, s, x)
    else if off < 0x8000 ∨ 0x10000 < off + 128 then (8, s, x)
    else (0, s, setData x (areaWord off) (bytesWords (partnerBytes p (partnerOf s p)) 16)))

/-- PARTNER (R304): a port that does not exist is ABSENT. -/
def execPartner (src : MctpSrc) (tag : BitVec 16) (p : BitVec 8) (s : State) : Res :=
  .next (vendor s src fromSIFU 2 tag fun s =>
    if portExists s p.toNat then mgmtAnswer s src 2 tag 0 (partnerBytes p.toNat (partnerOf s p.toNat)) else mgmtAnswer s src 2 tag 5 [])

/-! Managed detach (R306, Table 12.6). -/

/-- A detach step begins. -/
def detachStep (s : State) (p k : Nat) : State := modPartner s p fun q => { q with step := k }

/-- Steps 7 and 8. -/
def detachEnd (s : State) (e : Nat) (x : Engine) (p : Nat) : State :=
  let s := leavePool (detachStep { s with detaching := smSet false s.detaching p true } p 7) p
  let s := disableLink s p
  let s := match perstPin s p with | some g => { s with pinLow := smSet false s.pinLow g true } | none => s
  let s := slotOffAt s p
  let s := modPartner { s with detaching := smSet false s.detaching p false, detachAt := smSet 0 s.detachAt p 0 } p fun q => { q with st := 5, step := 8, departTs := s.ts }
  finish (raiseEvent s 0x408 p []) e { x with seq := 0 } 0

/-- Every registered granule of the port is CLEAN. -/
def portClean (s : State) (p : Nat) : Bool :=
  (membersOf s p).all fun m => (s.granules.filter fun g => g.1 / 2 ^ 28 == m && g.2.st == 2).length == registered s m

/-- Step 6. -/
def detach6 (s : State) (e : Nat) (x : Engine) (p : Nat) : State :=
  let s := detachStep s p 6
  if portClean s p then detachEnd s e x p else setEngine s e (seqWait x 6 p 0)

/-- Step 5. -/
def detach5 (s : State) (e : Nat) (x : Engine) (p : Nat) : State :=
  let s := detachStep s p 5
  if drainOver s 0 p s.commitNum then detach6 s e x p else seqDrain s e x 5 p 0 p

/-- The agents of step 4. -/
def detachAgents (s : State) (p : Nat) : List Nat :=
  (listed s 0x22).filter fun c =>
    let v := tabVal s 0x22 c
    fld v 0 2 != 0 &&
    (if roleOf s p = 3 then fld v 4 2 == 2 && tabFld s 0x17 (fld v 36 12) 12 3 == 3 && tabFld s 0x17 (fld v 36 12) 0 7 == p
     else fld v 4 2 != 2 && fld v 9 7 == p)

/-- Step 4: one region, then one agent, at a time. -/
def detach4 (s : State) (e : Nat) (x : Engine) (p : Nat) : State :=
  let s := detachStep s p 4
  match (listed s 0x20).find? fun r => rstate (tabVal s 0x20 r) != 0 && tabFld s 0x20 r 65 7 == p with
  | some r =>
    if rstate (tabVal s 0x20 r) = 2 then seqWalk s e { x with seqB := r } 42 p 2 r
    else seqCommit s e x 41 p r [(0x20, r, setFld 0 55 2 2, ones 55 2)]
  | none =>
    match (detachAgents s p).head? with
    | some c => if tabFld s 0x22 c 0 2 = 3 then seqWalk s e { x with seqB := c } 45 p 1 c else seqCommit s e x 44 p c [(0x22, c, 3, ones 0 2)]
    | none => detach5 s e x p

/-- Step 3: bound extents are released, lost ones freed, and all must become free. -/
def detach3 (s : State) (e : Nat) (x : Engine) (p : Nat) : State :=
  let s := if (partnerOf s p).step = 3 then s else { detachStep s p 3 with detachAt := smSet 0 s.detachAt p (s.clock + 1) }
  let es := (listed s 0x15).filter fun i => emport (tabVal s 0x15 i) == p && estate (tabVal s 0x15 i) != 0
  let due := es.filterMap fun i =>
    match estate (tabVal s 0x15 i) with
    | 2 => some (0x15, i, setFld 0 22 3 3, ones 22 3)
    | 4 => some (0x15, i, (0 : Entry), ones 22 3)
    | _ => none
  if es.isEmpty then detach4 s e x p
  else if due.isEmpty then setEngine s e (seqWait x 32 p 0)
  else seqCommit s e x 31 p 0 due

/-- Step 2: one vPPB at a time, as BIND.UNVPPB does. -/
def detach2 (s : State) (e : Nat) (x : Engine) (p : Nat) : State :=
  let s := detachStep s p 2
  let bs := (bindingsOf s p).filter fun i =>
    let b := tabVal s 0x11 i
    (bstate b == 1 || bstate b == 2) && (btype b == 1 || btype b == 2)
  match bs.head? with
  | none => detach3 s e x p
  | some i => if tabFld s 0x18 i 0 2 = 2 then seqDrain s e { x with seqB := i } 22 p 0 p else seqCommit s e x 21 p i [(0x18, i, 2, ones 0 2)]

/-- The detach goes on after what it waited for; a link that fell skips to step 7 (R309). -/
def detachGo (s : State) (e : Nat) (x : Engine) : State :=
  let p := x.seqA
  let i := x.seqB
  if lostNow s p then detachEnd s e x p
  else match x.seq with
    | 21 => seqDrain s e x 22 p 0 p
    | 22 => seqCommit s e x 23 p i [(0x11, i, 0, ones 24 3), (0x18, i, 0, ones 0 2)]
    | 23 => detach2 s e x p
    | 41 => seqWalk s e x 42 p 2 i
    | 42 => seqCommit s e x 43 p i [(0x20, i, 0, ones 55 2)]
    | 43 => detach4 s e x p
    | 44 => seqWalk s e x 45 p 1 i
    | 45 => seqCommit s e x 46 p i ((0x22, i, 0, ones 0 2) :: agentBits i (domainsOf (committed s) i) false)
    | 46 => detach4 s e x p
    | 5 => detach6 s e x p
    | 6 => detach6 s e x p
    | _ => detach3 s e x p

/-- SURVEY.DETACH: it begins, or goes on where it polls (Table 12.6 steps 3 and 6) or where the partner is gone. One that finds a run or another detach
in progress on the port waits. -/
def execSurveyDetach (e : EngineId) (s : State) : Res :=
  let x := engineOf s e
  if atOp s e 0xA9 then
    .next (macroThen s e 0xA9 [rowBits [(6, 0)]] 0 .glob true fun s x b =>
      let p := wfld (b 0) 0 7
      let st := (partnerOf s p).st
      if surveying s p ∨ (detachOf s p).isSome then s
      else if !(portExists s p) ∨ (st ≠ 2 ∧ st ≠ 3 ∧ st ≠ 4) then finish s e x 5
      else
        let s := modPartner { s with attn := smSet 0 s.attn p 0, detachAt := smSet 0 s.detachAt p 0 } p fun q => { q with st := 4, step := 1 }
        if lostNow s p then detachEnd s e x p else detach2 s e x p)
  else if x.origin != .none ∧ opcodeOf (wordAt x) = 0xA9 ∧ (x.seq = 32 ∨ x.seq = 6 ∨ (x.seq ≠ 0 ∧ x.wait ≠ .commit ∧ lostNow s x.seqA)) then .next (detachGo s e x)
  else .next s

/-- DETACH_TIMEOUT (R306): step 3 has lasted 10 s. -/
def execDetachTimeout (p : PortId) (s : State) : Res :=
  match detachOf s p with
  | none => .next s
  | some e =>
    let x := engineOf s e
    let a := smGet 0 s.detachAt p
    if x.seq = 32 ∧ a ≠ 0 ∧ a + 10000000000 ≤ s.clock + 1 then .next (finish s e { x with seq := 0 } 7) else .next s

/-! The attention button (R307). -/

/-- ATTENTION: the first press opens the window, a second within 5 s cancels; ignored while a detach runs. -/
def execAttention (p : PortId) (s : State) : Res :=
  let named := match channelOf s p with | some c => decide (tabFld s 0x38 c 88 6 < 48) | none => false
  let a := smGet 0 s.attn p
  if !named ∨ (detachOf s p).isSome then .next s
  else
    let s := raiseEvent s 0x406 p []
    if a = 0 then .next { s with attn := smSet 0 s.attn p (s.clock + 1) }
    else if s.clock + 1 ≤ a + 5000000000 then .next (raiseEvent { s with attn := smSet 0 s.attn p 0 } 0x407 p [])
    else .next s

/-- ATTENTION_DETACH_START: 5 s after the first press. -/
def execAttentionDetachStart (p : PortId) (s : State) : Res :=
  let a := smGet 0 s.attn p
  if a ≠ 0 ∧ a + 5000000000 ≤ s.clock + 1 then
    .next { s with attn := smSet 0 s.attn p 0, residents := s.residents ++ [{ engine := 12, kind := 2, port := p }] }
  else .next s

end Sys2Proof.Machine
end

