-- ==== Sys2Proof/Machine/Commit.lean ====
section
/-! DEFINITION. COMMIT at the arbiter (R256, R257), and what lets a waiting macro go on: its COMMIT, a drain point, a walk (R126, R170, R222, R225, R282). -/
namespace Sys2Proof.Machine

/-- What a chart does once its wait is over: the next step of its sequenced macro, or the next instruction. -/
def macroNext (s : State) (e : Nat) (x : Engine) : State :=
  let i := x.seqA
  match opcodeOf (wordAt x), x.seq with
  | 0x62, 1 => unvppbDrain s e x i
  | 0x62, 2 => unvppbLast s e x i
  | 0x72, 1 => seqWalk s e x 2 i 1 i
  | 0x72, 2 => agentRemoveLast s e x i
  | 0x74, 1 => seqWalk s e x 2 i 2 i
  | 0x74, 2 => regionReleaseLast s e x i
  | 0xA9, _ => detachGo s e x
  | _, _ => finish s e x 0

/-! The arbiter. -/

/-- COMMIT (R256): with no drafts it returns OK at once. -/
def execCommit (e : EngineId) (s : State) : Res :=
  .next (onOp s e 0x33 fun s x _ => if x.drafts.isEmpty then finish s e x 0 else askCommit s e x)

/-- The front COMMIT leaves the arbiter. -/
def arbNext (s : State) : State := { s with arb := { queue := s.arb.queue.drop 1, judged := false } }

/-- A COMMIT that fails: counted, its chart ends with the status, and none of its drafts takes effect. -/
def commitFails (s : State) (e : Nat) (x : Engine) (st : Nat) : State :=
  let t := count (arbNext s) (devCtr 4) 1
  finish (if st = 9 then lkWrite t ((lockedDraft s x).elim 0 fun d => keyIdx d.key) else t) e { x with wait := .run } st

/-- COMMIT_JUDGEMENT (R256): the COMMIT that arrived first is judged. -/
def execCommitJudgement (s : State) : Res :=
  match s.arb.queue with
  | [] => .next s
  | e :: _ =>
    if s.arb.judged ∨ !(fabricRuns s) then .next s
    else
      let x := engineOf s e
      if x.wait ≠ .commit then .next (arbNext s)
      else
        let st := judge s x
        .next (if st = 0 then { s with arb := { s.arb with judged := true } } else commitFails s e x st)

/-- A device update has written an entry that the judged COMMIT drafts (R256). -/
def overtaken (s : State) (x : Engine) : Bool := x.drafts.any fun d => (smGet (entryReset d.key) s.tab d.key).num != d.num

/-- The chart after the flip of commit number k, in the state after it: reservations released, EPOCH and NCOMMIT of its completion record, and the
reads of entries it wrote itself forgotten. -/
def afterFlip (s : State) (k : Nat) (x : Engine) : Engine :=
  { x with
    drafts := [], epoch := k, ncommit := x.ncommit + 1, wait := .run
    reads := x.reads.filter fun r => !(x.drafts.any fun d => d.key == r.1) && (smGet (entryReset r.1) s.tab r.1).num != k }

/-- The losses of DSPs that fall in the instant of a flip apply after it (R195): what the COMMIT bound or added through them is lost. -/
def lossesAfter (s : State) : State :=
  (((List.range 96).filter fun p => smGet 0 s.lostAt p == s.clock + 1 && roleOf s p == 2)).foldl (fun s p =>
    deviceUpdate (setLive (loseMembers s p) 0x02 p 20 1 1) (bindLostEntries s p ++ extLostEntries s p)) s

/-- COMMIT_FLIP (R256): the judged COMMIT takes effect, and its chart goes on. -/
def execCommitFlip (s : State) : Res :=
  match s.arb.queue with
  | [] => .next s
  | e :: _ =>
    let x := engineOf s e
    if !s.arb.judged ∨ !(fabricRuns s) then .next s
    else if x.wait ≠ .commit then .next (arbNext s)
    else if overtaken s x then .next (commitFails s e x 10)
    else
      let k := s.commitNum + 1
      let s := lossesAfter (flip (arbNext s) x)
      let y := afterFlip s k x
      let s := setEngine (if e < 12 then count s (tileCtr e 29) 1 else s) e y
      .next (if y.seq = 0 then finish s e y 0 else macroNext s e y)

/-! Drain points and walks. -/

/-- The engines whose wait for a drain point is over go on. -/
def drainWaiters (s : State) : State :=
  (List.range 16).foldl (fun s e =>
    let x := engineOf s e
    match x.wait with
    | .drain kind target below _ => if drainOver s kind target below then macroNext s e { x with wait := .run } else s
    | _ => s) s

/-- EPOCH_DRAIN_SUM (R170): the sum of a plane's old counts; the engines that wait for it go on at zero. -/
def execEpochDrainSum (pl : Plane) (s : State) : Res := .next (drainWaiters (epochDrain s (planeNo pl)))

/-- DRAIN_POINT_REACHED (R126): the waiting engines, and the DRAIN granules behind the port. -/
def execDrainPointReached (ep : Fin 3072) (s : State) : Res :=
  let s := match epPort ep with | some p => drainGranules s p | none => s
  .next (drainWaiters s)

/-- WALK_DONE (R222, R225): the walk's end; a lost or removed agent's is raised, and the macro that waits goes on. -/
def execWalkDone (s : State) : Res :=
  match takeFirst (fun w => w.slices == 0xFFFF && (List.range 16).all (walkClear s w)) s.walks with
  | none => .next s
  | some (w, rest) =>
    let s := { s with walks := rest }
    let s := if w.kind = 0 then { s with lostWalked := smSet false s.lostWalked w.obj true } else s
    let s := if w.kind = 2 then s else raiseEvent s 0x302 w.obj []
    match w.engine with
    | none => .next s
    | some e =>
      let x := engineOf s e
      let goes := x.wait == .macroStep && (x.seqA == w.obj || x.seqB == w.obj) && (x.seq == 2 || x.seq == 42 || x.seq == 45)
      .next (if goes then macroNext s e { x with wait := .run } else s)

end Sys2Proof.Machine
end

