-- ==== Sys2Proof/Machine/Fetch.lean ====
section
/-! DEFINITION. How an engine takes its next chart (R245-R249, R261, R498, R500), the charts that come from no ring (R61, R100, R180, R246, R294, R302, R307, R336),
and the answers to reads of submitter memory (R276). -/
namespace Sys2Proof.Machine

/-! The end of a fetch. -/

/-- A chart that ends during fetch: its PC reads 0xFFFF (Table 10.7). -/
def fetchFails (s : State) (e : Nat) (x : Engine) (st : Nat) : State := endChart (setEngine s e x) e st 0xFFFF

/-- The scan of step 4: FAULT at a reserved opcode, DENIED at one above the chart's tier, whichever comes first. -/
def scanOps (tier : Nat) : List Word → Nat
  | [] => 0
  | w :: ws =>
    match opTier (opcodeOf w) with
    | none => 8
    | some t => if tier < t then 1 else scanOps tier ws

/-- Steps 4 and 5: every instruction is scanned, G1-G3 take ARGS, and the chart begins at instruction 0. -/
def fetchBegins (s : State) (e : Nat) (x : Engine) : State :=
  let st := scanOps x.tier ((List.range x.ninstr).map (smGet 0 x.imem))
  if st ≠ 0 then fetchFails s e x st
  else setEngine s e { x with wait := .run, pc := 0, regs := smSetRun 0 [] 1 (x.args.take 3), boundary := s.clock }

/-- NINSTR and NDATA are in their range, CHART and DATA aligned (Table 10.4). -/
def countsOk (x : Engine) : Bool := decide (1 ≤ x.ninstr ∧ x.ninstr ≤ 4096 ∧ x.ndata ≤ 4096 ∧ x.caddr.toNat % 8 = 0 ∧ x.daddr.toNat % 8 = 0)

/-- Step 2, once the three reads are done, then step 3: the data words go to a cleared data area. -/
def fetchData (s : State) (e : Nat) (x : Engine) (ws : List Word) : State :=
  if !(countsOk x) then fetchFails s e x 6
  else fetchBegins s e { x with dmem := smSetRun 0 [] 0 ((List.range x.ndata).map (nth 0 ws)) }

/-- The read of the data words. -/
def readData (s : State) (e : Nat) (x : Engine) : State :=
  if x.ndata = 0 then fetchData s e x []
  else
    let c := memCheck s x x.daddr.toNat (8 * x.ndata) false
    if c.1 ≠ 0 then fetchFails c.2 e x c.1
    else match memLocal c.2 x x.daddr.toNat x.ndata with
      | some (ws, s) => fetchData s e x ws
      | none => setEngine (memAsk c.2 e x x.daddr.toNat x.ndata) e { x with wait := .fetchData }

/-- The instructions are in the instruction area. -/
def fetchInstr (s : State) (e : Nat) (x : Engine) (ws : List Word) : State :=
  readData s e { x with imem := smSetRun 0 [] 0 ((List.range (min 4096 x.ninstr)).map (nth 0 ws)) }

/-- The read of the instructions. -/
def readInstr (s : State) (e : Nat) (x : Engine) : State :=
  if x.ninstr = 0 then readData s e x else
  let c := memCheck s x x.caddr.toNat (8 * x.ninstr) false
  if c.1 ≠ 0 then fetchFails c.2 e x c.1
  else match memLocal c.2 x x.caddr.toNat x.ninstr with
    | some (ws, s) => fetchInstr s e x ws
    | none => setEngine (memAsk c.2 e x x.caddr.toNat x.ninstr) e { x with wait := .fetchInstr }

/-- What a command entry says (Table 10.4). -/
def entryFields (x : Engine) (ws : List Word) : Engine :=
  let w (k : Nat) : Word := nth 0 ws k
  { x with tag := w 0, caddr := w 1, ninstr := wfld (w 2) 0 16, ndata := wfld (w 2) 16 16, notify := wfld (w 2) 32 1 == 1, daddr := w 3, args := [w 4, w 5, w 6] }

/-- An entry read from memory: the reads of the instructions and of the data words follow before step 2 judges its counts (R249). -/
def fetchEntry (s : State) (e : Nat) (x : Engine) (ws : List Word) : State := readInstr s e (entryFields x ws)

/-- A chart that came with its message (R248): its length must be NINSTR + NDATA words. -/
def fetchMessage (s : State) (e : Nat) (x : Engine) (m : ChartMsg) : State :=
  let x := { entryFields { x with binding := m.binding } m.entry with caddr := 0, daddr := 0 }   -- CHART and DATA are ignored (R248)
  if !(countsOk x) ∨ m.words.length ≠ x.ninstr + x.ndata then fetchFails s e x 6
  else fetchData s e { x with imem := smSetRun 0 [] 0 (m.words.take x.ninstr) } (m.words.drop x.ninstr)

/-! The choice of a ring (R261). -/

/-- The tier of a submitter (Table 10.1). -/
def subTier (sub : Nat) : Nat := match sub / 0x2000 with | 0 => 0 | 1 => 1 | 5 => 3 | _ => 2

/-- The master of a submitter's accesses (R37): a port for a function and for a message over that port's VDM, a Steward core, none for SMBus, I3C and Meridian. -/
def subMaster (s : State) (sub r binding : Nat) : Option Nat :=
  match sub / 0x2000 with
  | 2 => some (144 + r % 8)
  | 4 => if 2 ≤ binding ∧ binding < 98 then some (binding - 2) else none
  | 5 => none
  | _ => (subFunc sub).map (funcPort s)

/-- The ring may be fetched from: an entry waits, a completion record is free, its VF is ACTIVE, its FMP link is up (R65, R247, R351). -/
def ringReady (s : State) (r : Nat) : Bool :=
  let v := tabVal s 0x30 r
  let l := smGet {} s.rings r
  let sub := fld v 116 16
  if 9 ≤ r ∧ r ≤ 11 then !l.msgs.isEmpty
  else
    decide (l.cmdHead ≠ l.cmdTail) && decide ((l.cplNext + 1) % ringEntries (fld v 132 4) ≠ l.cplHead) &&
    (match sub / 0x2000 with
     | 0 => funcState s (sub % 0x2000) == 1
     | 3 => tabFld s 0x02 (sub % 0x2000) 17 1 == 1
     | _ => true)

/-- The rings an engine may serve now. -/
def ringsFor (s : State) (e : Nat) : List Nat :=
  ((listed s 0x30 ++ [9, 10, 11]).filter fun r =>
    r != 8 && r != 14 && r != 15 && tabFld s 0x30 r 100 1 == 1 && tabFld s 0x30 r 104 4 == min e 12 && ringReady s r).eraseDups

/-- Round robin by ring number: the next above the last served, else the lowest. -/
def nextRing (turn : Nat) (rs : List Nat) : Option Nat :=
  match leastOf (rs.filter fun r => decide (turn < r)) with
  | some r => some r
  | none => leastOf rs

/-- An engine with a chart of its own serial number and the time its fetch began. -/
def newChart (s : State) (o : Origin) (sub : Nat) : Engine :=
  { origin := o, sub := sub, tier := subTier sub, start := s.clock, serial := s.svc.nextChart, tag := Config.freeValue s.freeCtr }
/-- The counters behind it. -/
def chartTaken (s : State) : State := tick { s with svc := { s.svc with nextChart := s.svc.nextChart + 1 } }

/-- Fetching from a message ring. -/
def takeMessage (s : State) (e r : Nat) : State :=
  let l := smGet {} s.rings r
  match l.msgs with
  | [] => s
  | m :: rest =>
    let sub := tabFld s 0x30 r 116 16
    let x := { newChart s (.ring r) sub with master := subMaster s sub r m.binding }
    fetchMessage (chartTaken { s with rings := smSet {} s.rings r { l with msgs := rest } }) e x m

/-- Fetching from a command ring in memory: the entry at the command head, the next completion record reserved (R247). -/
def takeEntry (s : State) (e r : Nat) : State :=
  let l := smGet {} s.rings r
  let v := tabVal s 0x30 r
  let n := ringEntries (fld v 194 4)
  let a := fld v 198 58 * 64 + l.cmdHead % n * 64
  let sub := fld v 116 16
  let x := { newChart s (.ring r) sub with master := subMaster s sub r 0, cplPos := l.cplNext, cplGen := l.gen, wait := .fetchEntry }
  let s := chartTaken { s with rings := smSet {} s.rings r { l with cmdHead := (l.cmdHead + 1) % n, cplNext := l.cplNext + 1 } }
  let c := memCheck s x a 64 false
  if c.1 ≠ 0 then fetchFails c.2 e x c.1
  else match memLocal c.2 x a 8 with
    | some (ws, s) => fetchEntry s e x ws
    | none => setEngine (memAsk c.2 e x a 8) e x

/-! Charts from no ring. -/

/-- The word of a macro: opcode, GP = G4, LEN, MFLAGS (Format M). -/
def macroWord (op len : Nat) (flags : Nat := 0) : Word := BitVec.ofNat 64 (op * 2 ^ 56 + 4 * 2 ^ 48 + len * 2 ^ 40 + flags * 2 ^ 32)
/-- COMMIT. -/
def commitWord : Word := BitVec.ofNat 64 (0x33 * 2 ^ 56)

/-- An engine's own chart: its instructions, and its block at the start of the data area, to which G4 points. -/
def romChart (x : Engine) (is block : List Word) : Engine :=
  { x with ninstr := is.length, ndata := block.length, imem := smSetRun 0 [] 0 is, dmem := smSetRun 0 [] 0 block, regs := [(4, 0x8000)] }

/-- A chart whose drafts are made and whose COMMIT is due, or that ends with the status of the draft that failed. -/
def draftedChart (e : Nat) (d : Nat × State × Engine) : State :=
  if d.1 ≠ 0 then endChart (setEngine d.2.1 e d.2.2) e d.1 0 else setEngine d.2.1 e (romChart d.2.2 [commitWord, 0] [])

/-- The USP whose host a vPPB is shown to. -/
def uspOfVppb (s : State) (v : Nat) : Nat := tabFld s 0x10 (v / 64) 0 7

/-- The entry that a host's registers describe, committed or removed (R180). -/
def decoderEntry (s : State) (k : Nat) (on : Bool) : Entry :=
  let d := smGet {} s.decRegs k
  if on then setFld (setFld d.val 47 1 1) 46 1 (if d.lockOn then 1 else 0) else 0

/-- The submitter that an internal chart runs for, at whose tier it runs. -/
def jobSub (s : State) (j : Job) : Nat :=
  match j with
  | .decoder k _ _ => 0x2000 + (if keyTab k = 0x12 then keyIdx k / 32 else uspOfVppb s (keyIdx k / 16))
  | .ring r _ => if r < 8 then 0x4000 else match ringFunc s r with | some f => funcSub s f | none => 0xFFFF
  | .vfEnable u _ => 0x2000 + u
  | .dcAdd v _ _ => 0x2000 + uspOfVppb s v
  | .dcRelease v _ => 0x2000 + uspOfVppb s v
  | .fm b _ _ _ _ => if b = 200 then 0x4000 else 0x8000 + min b 2

/-- A ring slot's commit (R246, R340): TARGET and TLIM of a function's ring are judged first. -/
def ringDraft (s : State) (e : Nat) (x : Engine) (r : Nat) (on : Bool) : Nat × State × Engine :=
  let f := (ringFunc s r).getD 0
  let v := ringEntryOf s f r on
  if on ∧ 8 ≤ r ∧ (fld v 108 8 = 0 ∨ (fld v 104 4 ≠ 12 ∧ fld v 104 4 ≠ funcPort s f / 8)) then (6, s, x)
  else draftAny s e x 0x30 r v (if on then draftable 0x30 else ones 100 1) false

/-- The drafts that move extents from one state to another; an extent not in it is ABSENT (Table 7.10). -/
def extentDrafts (s : State) (e : Nat) (x : Engine) (was now : Nat) : List Nat → Nat × State × Engine
  | [] => (0, s, x)
  | i :: is =>
    if 16384 ≤ i ∨ estate (seenVal s x 0x15 i) ≠ was then (5, s, x)
    else
      let d := draftAny s e x 0x15 i (setFld 0 22 3 now) (ones 22 3) false
      if d.1 ≠ 0 then d else extentDrafts d.2.1 e d.2.2 was now is

/-- Starting an internal chart. -/
def startJob (s : State) (e : Nat) (j : Job) : State :=
  let x := newChart s (.internal j) (jobSub s j)
  let s := chartTaken s
  match j with
  | .decoder k on _ => draftedChart e (draftAny s e x (keyTab k) (keyIdx k) (decoderEntry s k on) (draftable (keyTab k)) false)
  | .ring r on => draftedChart e (ringDraft s e x r on)
  | .vfEnable u n =>
    setEngine s e (romChart x [macroWord 0xC0 1, commitWord, 0] [BitVec.ofNat 64 (u + min n 511 * 2 ^ 16 + (smGet {} s.svc.pf u).vfRings * 2 ^ 28)])
  | .dcAdd _ yes no =>
    let d := extentDrafts s e x 1 2 yes
    draftedChart e (if d.1 ≠ 0 then d else extentDrafts d.2.1 e d.2.2 1 0 no)
  | .dcRelease _ is => draftedChart e (extentDrafts s e x 3 0 is)
  | .fm _ _ _ w block => setEngine s e (romChart x [w, commitWord, 0] block)

/-- The registration of step 7: every logical device in one COMMIT (R302). -/
def registerDrafts (s : State) (e : Nat) (x : Engine) (p : Nat) : Nat × State × Engine :=
  match runOf s p with
  | none => (5, s, x)
  | some r => draftsAny s e x (r.todo.map fun t => (0x19, 16 * p + t.1, BitVec.ofNat 256 t.2, draftable 0x19))

/-- Starting a resident chart, at Fabric tier, for the device: 0 Survey, 1 LANE.ALIGN, 2 a detach, 3 a registration. -/
def startResident (s : State) (e : Nat) (r : Resident) : State :=
  let x := newChart s (.resident r.kind r.port) 0xC000
  let s := chartTaken s
  let block : List Word := [BitVec.ofNat 64 r.port]
  match r.kind with
  | 0 => setEngine s e (romChart x [macroWord 0xA8 1, 0] block)
  | 1 => setEngine s e (romChart x [macroWord 0x52 1, commitWord, 0] block)
  | 2 => setEngine s e (romChart x [macroWord 0xA9 1, 0] block)
  | _ => draftedChart e (registerDrafts s e x r.port)

/-! CHART_FETCH and the answers of reads. -/

/-- A global engine fetches only while no lower-numbered one is free (R261); a tile engine only while its tile is LIVE (R462). -/
def mayFetch (s : State) (e : Nat) : Bool :=
  engineIdle (engineOf s e) && engineLive s e && s.paused.isNone && (decide (12 ≤ e) || tabFld s 0x3E e 20 4 == 0) &&
  (decide (e < 12) || (List.range (e - 12)).all fun k => !(engineIdle (engineOf s (12 + k))))

/-- What the engine chooses (R261): ring 8, resident and internal charts, then the other rings. -/
def fetchNext (s : State) (e : Nat) : State :=
  let mine (t : Nat) : Bool := t == min e 12
  if 12 ≤ e ∧ !(smGet {} s.rings 8).msgs.isEmpty then takeMessage s e 8
  else match takeFirst (fun r => mine r.engine) s.residents with
    | some (r, rest) => startResident { s with residents := rest } e r
    | none => match takeFirst (fun i => mine i.target) s.internals with
      | some (i, rest) => startJob { s with internals := rest } e i.job
      | none => match nextRing (smGet 0 s.ringTurn (min e 12)) (ringsFor s e) with
        | some r =>
          let s := { s with ringTurn := smSet 0 s.ringTurn (min e 12) r }
          if 9 ≤ r ∧ r ≤ 11 then takeMessage s e r else takeEntry s e r
        | none => s

/-- CHART_FETCH. -/
def execChartFetch (e : EngineId) (mer : Option (List Word)) (s : State) : Res :=
  let s := match mer with
    | some ws => { s with rings := smMod {} s.rings 8 fun l => { l with msgs := l.msgs ++ [{ entry := ws.take 8, words := ws.drop 8 }] } }
    | none => s
  .next (if mayFetch s e then fetchNext s e else s)

/-- The reads of submitter memory that an engine has issued. -/
def readsInside (s : State) (e : Nat) : List Nat := txnsWhere s fun t => t.kind == 80 && t.src == engineEp e

/-- The chart whose read is the oldest of them; the one that runs where there is none. -/
def oldestRead (s : State) (e serial : Nat) : Nat := match readsInside s e with | i :: _ => (txnOf s i).key | [] => serial

/-- HOST_READ_RESPONSE: no match or Unsupported Request is ABSENT, poison FAULT; else the waiting read has its words. An answer comes for reads that
have all left by their port; one to a chart that has ended is discarded, and one that a lost port gave in its partner's place is ABSENT (R63). -/
def execHostReadResponse (e : EngineId) (outcome : Fin 3) (data : List Word) (s : State) : Res :=
  let x := engineOf s e
  let c := oldestRead s e x.serial
  let ids := (readsInside s e).filter fun i => (txnOf s i).key == c
  if ids.any (fun i => (txnOf s i).phase != 3) then .next s
  else
  let st := if ids.any (fun i => (txnOf s i).rstat != 0) then 5 else match outcome with | 0 => 0 | 1 => 5 | _ => 8
  let words (n : Nat) : List Word := (List.range n).map (nth 0 data)
  let s := ids.foldl dropTxn s
  if c ≠ x.serial then .next s else
  if engineIdle x then .next s
  else match x.wait with
    | .fetchEntry => .next (if st ≠ 0 then fetchFails s e x st else fetchEntry s e x (words 8))
    | .fetchInstr => .next (if st ≠ 0 then fetchFails s e x st else fetchInstr s e x (words x.ninstr))
    | .fetchData => .next (if st ≠ 0 then fetchFails s e x st else fetchData s e x (words x.ndata))
    | .hld gd => .next (finish s e (if st = 0 then regSet x gd (nth 0 data 0) else x) st)
    | .hget off n => .next (finish s e (if st = 0 then setData x off (words n) else x) st)
    | .macroStep =>
      if opcodeOf (wordAt x) = 0xC3 then .next (if st ≠ 0 then finish s e { x with seq := 0 } st else restoreBlob s e x (wordsBytes (words 1240)))
      else .next s
    | _ => .next s

end Sys2Proof.Machine
end

