-- ==== Sys2Proof/Machine/FmApi.lean ====
section
/-! DEFINITION. The Fabric Manager API (R60, R61, R196, R321, R389): its commands come over SMBus, I3C and PCIe VDM; what changes state runs as a macro chart. -/
namespace Sys2Proof.Machine

/-! Sources and answers. -/

/-- A Fabric Manager API command: Steward's mailbox carries none, a USP's VDM that the admitMask mask refuses is answered Unsupported (R445). -/
def fmFrom (s : State) (src : MctpSrc) (tag : BitVec 8) (code : Nat) (f : State → State) : State :=
  match srcLetter s src with
  | 4 => s
  | 5 => fmAnswer s (bindingOf src) tag.toNat code 3 0 []
  | _ => f s

/-- A response that carries a return code and a payload. -/
def fmReply (s : State) (src : MctpSrc) (tag : BitVec 8) (code rc : Nat) (body : List Byte) : State :=
  fmAnswer s (bindingOf src) tag.toNat code rc 0 body

/-- A command that runs as a chart at Fabric tier on a global engine (R61, R196). One background command runs at a time: another is answered Busy. -/
def fmChart (s : State) (src : MctpSrc) (tag : BitVec 8) (code : Nat) (w : Word) (block : List Word) : State :=
  let s' := { s with internals := s.internals ++ [⟨12, .fm (bindingOf src) tag.toNat code w block⟩] }
  if !(fmBackground code) then s'
  else if s.mctp.bgRunning then fmReply s src tag code 6 []
  else fmReply { s' with mctp := { s.mctp with bgRunning := true, bgOpcode := code } } src tag code 1 []

/-- Bits of the numbers of a list that satisfy a test. -/
def bitmap (n : Nat) (f : Nat → Bool) : Nat := ((List.range n).map fun i => if f i then 2 ^ i else 0).sum

/-! Infrastructure. -/

/-- IDENTIFY: vendor, device, serial, the largest message, component type 0, a switch; the subsystem is not the spec's. -/
def execIdentify (src : MctpSrc) (tag : BitVec 8) (s : State) : Res :=
  .next (fmFrom s src tag 0x0001 fun s =>
    fmReply (tickBytes s 4) src tag 0x0001 0 (natBytes 2 Config.vendorId.toNat ++ natBytes 2 0x9696 ++ freeBytes s 4 ++ natBytes 8 Config.serial ++ [13, 0]))

/-- BACKGROUND_OPERATION_STATUS: running, or the percentage done, the opcode, the return code and the chart's status. -/
def execBackgroundOperationStatus (src : MctpSrc) (tag : BitVec 8) (s : State) : Res :=
  .next (fmFrom s src tag 0x0002 fun s =>
    fmReply (tickBytes s 1) src tag 0x0002 0
      (natBytes 1 (if s.mctp.bgRunning then 1 + 2 * ((freeBytes s 1).headD 0).toNat % 128 else 200) ++ [0] ++ natBytes 2 s.mctp.bgOpcode ++
        natBytes 2 (if s.mctp.bgRunning then 0 else s.mctp.bgReturn) ++ natBytes 2 (if s.mctp.bgRunning then 0 else s.mctp.bgExt)))

/-- GET_RESPONSE_MESSAGE_LIMIT, as a power of two. -/
def execGetResponseMessageLimit (src : MctpSrc) (tag : BitVec 8) (s : State) : Res :=
  .next (fmFrom s src tag 0x0003 fun s => fmReply s src tag 0x0003 0 (natBytes 1 (Nat.log2 s.mctp.fmLimit)))

/-- SET_RESPONSE_MESSAGE_LIMIT: 256 bytes to 8 KiB. -/
def execSetResponseMessageLimit (src : MctpSrc) (tag : BitVec 8) (n : BitVec 8) (s : State) : Res :=
  .next (fmFrom s src tag 0x0004 fun s =>
    if 8 ≤ n.toNat ∧ n.toNat ≤ 13 then
      fmReply { s with mctp := { s.mctp with fmLimit := 2 ^ n.toNat } } src tag 0x0004 0 (natBytes 1 n.toNat)
    else fmReply s src tag 0x0004 2 [])

/-- Records waiting in queue 4,095. -/
def fmWaiting (e : EvQueue) : Nat := (e.tail + eqEntries e - e.head % eqEntries e) % eqEntries e

/-- The record at a place of queue 4,095, as HP0 holds it. -/
def fmRecord (s : State) (i : Nat) : List Byte :=
  let e := eqOf s 4095
  match coreMap s (e.base + 64 * (i % eqEntries e)) 64 with
  | .hbm h => hbmRead s h 64
  | _ => []

/-- Its handle: the low 16 bits of SEQ (R389). -/
def fmHandle (s : State) (i : Nat) : Nat := leAt (fmRecord s i) 56 2

/-- How many records fit the response limit: 128 bytes each after a header of 32. -/
def fmFit (s : State) : Nat := (s.mctp.fmLimit - 32) / 128

/-- GET_EVENT_RECORDS: from the head, each record's 64 bytes with its handle. -/
def execGetEventRecords (src : MctpSrc) (tag : BitVec 8) (s : State) : Res :=
  .next (fmFrom s src tag 0x0100 fun s =>
    let e := eqOf s 4095
    let n := min (fmWaiting e) (fmFit s)
    fmReply s src tag 0x0100 0 (natBytes 1 (if e.ovf then 1 else 0) ++ natBytes 1 (if n < fmWaiting e then 1 else 0) ++ natBytes 4 e.lost ++ natBytes 2 n ++
      (List.range n).flatMap fun k => natBytes 2 (fmHandle s (e.head + k)) ++ fmRecord s (e.head + k)))

/-- The handles name the records from the head, in order. -/
def fmNamed (s : State) (i left : Nat) : List (BitVec 16) → Bool
  | [] => true
  | h :: hs => decide (left ≠ 0) && (h.toNat == fmHandle s i && fmNamed s (i + 1) (left - 1) hs)

/-- CLEAR_EVENT_RECORDS: the head advances past the handles named, which must be those from the head on. -/
def execClearEventRecords (src : MctpSrc) (tag : BitVec 8) (handles : List (BitVec 16)) (s : State) : Res :=
  .next (fmFrom s src tag 0x0101 fun s =>
    let e := eqOf s 4095
    if fmNamed s e.head (fmWaiting e) handles then
      fmReply (setEq s 4095 { e with head := (e.head + handles.length) % eqEntries e }) src tag 0x0101 0 []
    else fmReply s src tag 0x0101 0x0E [])

/-! Physical Switch. -/

/-- IDENTIFY_SWITCH_DEVICE: 96 ports, 64 VCSs, which are active, 1,024 vPPBs and how many are bound, 32 decoders of a USP. -/
def execIdentifySwitchDevice (src : MctpSrc) (tag : BitVec 8) (s : State) : Res :=
  .next (fmFrom s src tag 0x5100 fun s =>
    let bound := ((listed s 0x11).filter fun i => bstate (tabVal s 0x11 i) == 1).length
    fmReply s src tag 0x5100 0 (natBytes 1 (match src with | .vdm p => p.val | _ => 0xFF) ++ [0, 96, 64] ++
      natBytes 32 (bitmap 96 (portExists s)) ++ natBytes 32 (bitmap 64 fun v => tabFld s 0x10 v 14 1 == 1) ++
      natBytes 2 1024 ++ natBytes 2 bound ++ natBytes 1 32))

/-- The entries, from the first on, that fit n bytes of a response (R60). -/
def fmFitting : Nat → List (List Byte) → List (List Byte)
  | _, [] => []
  | n, e :: es => if e.length ≤ n then e :: fmFitting (n - e.length) es else []

/-- A port's entry: number, role, partner, widths and rate, LTSSM code, the status word, logical devices. -/
def fmPort (s : State) (p : Nat) : List Byte :=
  let q := partnerOf s p
  natBytes 1 p ++ natBytes 1 (roleOf s p) ++ natBytes 1 q.kind ++ natBytes 1 q.proto ++ natBytes 1 (widthLanes (portWidth s p)) ++
    natBytes 1 (tabFld s 0x02 p 10 5) ++ natBytes 1 (tabFld s 0x02 p 6 4) ++ natBytes 1 (tabFld s 0x02 p 0 6) ++ natBytes 4 (tabFld s 0x02 p 0 21) ++
    natBytes 1 q.nld

/-- GET_PHYSICAL_PORT_STATE; a port that does not exist is Invalid Input. -/
def execGetPhysicalPortState (src : MctpSrc) (tag : BitVec 8) (ports : List (BitVec 8)) (s : State) : Res :=
  .next (fmFrom s src tag 0x5101 fun s =>
    if ports.all fun p => portExists s p.toNat then
      let es := fmFitting (s.mctp.fmLimit - 32) (ports.map fun p => fmPort s p.toNat)
      fmReply s src tag 0x5101 0 (natBytes 4 es.length ++ es.flatten)
    else fmReply s src tag 0x5101 2 [])

/-- The pin that carries a port's PERST#: the GPIO that its slot channel names, held in the claims table. -/
def fmPerst (s : State) (p : Nat) : Option Nat := if p < 96 then perstPin s p else none

/-- ASSERT_PERST; without a pin Unsupported. -/
def execAssertPerst (src : MctpSrc) (tag : BitVec 8) (p : BitVec 8) (s : State) : Res :=
  .next (fmFrom s src tag 0x5102 fun s =>
    match fmPerst s p.toNat with
    | some g => fmReply { s with pinLow := smSet false s.pinLow g true } src tag 0x5102 0 []
    | none => fmReply s src tag 0x5102 3 [])

/-- DEASSERT_PERST releases the pin only while PG is asserted (R321); the return code of a release that PG refuses is not the spec's. -/
def execDeassertPerst (src : MctpSrc) (tag : BitVec 8) (p : BitVec 8) (s : State) : Res :=
  .next (fmFrom s src tag 0x5102 fun s =>
    match fmPerst s p.toNat, channelOf s p.toNat with
    | some g, some c =>
      if (slotOf s c).pg then fmReply { s with pinLow := smSet false s.pinLow g false } src tag 0x5102 0 []
      else fmReply (tickBytes s 2) src tag 0x5102 (leAt (freeBytes s 2) 0 2) []
    | _, _ => fmReply s src tag 0x5102 3 [])

/-- SEND_PPB_CXL_IO_CONFIGURATION_REQUEST: four bytes of the configuration space of a port's bridge (R53). -/
def execSendPpbCxlIoConfigurationRequest (src : MctpSrc) (tag : BitVec 8) (p : BitVec 8) (write : Bool) (reg : BitVec 12) (data : BitVec 32) (s : State) : Res :=
  .next (fmFrom s src tag 0x5103 fun s =>
    let k := 4160 + p.toNat
    let a := reg.toNat / 4 * 4
    if !(portExists s p.toNat) then fmReply s src tag 0x5103 2 []
    else if write then fmReply (bridgeWrite s k a data.toNat) src tag 0x5103 0 []
    else fmReply s src tag 0x5103 0 (bridgeRead s k a 4))

/-! Virtual Switch. -/

/-- A vPPB's entry: 0 unbound, 2 bound to a device, 3 to a logical device, 4 to a pooled one; its port, and the logical or pooled device. -/
def fmVppb (s : State) (v : Nat) : List Byte :=
  let b := tabVal s 0x11 v
  if bstate b = 0 then [0, 0xFF, 0xFF]
  else natBytes 1 (1 + btype b) ++ natBytes 1 (bport b) ++ natBytes 1 (match btype b with | 2 => bld b | 3 => bpld b | _ => 0xFF)

/-- A VCS's entry: number, enabled, USP, its vPPBs. -/
def fmVcs (s : State) (v : Nat) : List Byte :=
  let n := tabFld s 0x10 v 7 7
  natBytes 1 v ++ natBytes 1 (tabFld s 0x10 v 14 1) ++ natBytes 1 (tabFld s 0x10 v 0 7) ++ natBytes 1 n ++ (List.range n).flatMap fun k => fmVppb s (64 * v + k)

/-- GET_VIRTUAL_CXL_SWITCH_INFO. -/
def execGetVirtualCxlSwitchInfo (src : MctpSrc) (tag : BitVec 8) (vcss : List (BitVec 8)) (s : State) : Res :=
  .next (fmFrom s src tag 0x5200 fun s =>
    if vcss.all fun v => decide (v.toNat < 64) then
      let es := fmFitting (s.mctp.fmLimit - 32) (vcss.map fun v => fmVcs s v.toNat)
      fmReply s src tag 0x5200 0 (natBytes 4 es.length ++ es.flatten)
    else fmReply s src tag 0x5200 2 [])

/-- FM_BIND_VPPB runs BIND.VPPB in the background. -/
def execFmBindVppb (src : MctpSrc) (tag : BitVec 8) (vcs vppb : Fin 64) (btype : BitVec 4) (p : BitVec 7) (ld : BitVec 4) (pld : BitVec 8) (s : State) : Res :=
  .next (fmFrom s src tag 0x5201 fun s => fmChart s src tag 0x5201 (macroWord 0x61 2)
    [BitVec.ofNat 64 (vcs.val + vppb.val * 2 ^ 8 + btype.toNat * 2 ^ 16), BitVec.ofNat 64 (p.toNat + ld.toNat * 2 ^ 8 + pld.toNat * 2 ^ 16)])

/-- FM_UNBIND_VPPB runs BIND.UNVPPB in the background. -/
def execFmUnbindVppb (src : MctpSrc) (tag : BitVec 8) (vcs vppb : Fin 64) (s : State) : Res :=
  .next (fmFrom s src tag 0x5202 fun s => fmChart s src tag 0x5202 (macroWord 0x62 1) [BitVec.ofNat 64 (vcs.val + vppb.val * 2 ^ 8)])

/-- GENERATE_AER_EVENT: the vPPB's AER takes the error and its header, and the report goes to the host of an enabled VCS whose vPPB it names. -/
def execGenerateAerEvent (src : MctpSrc) (tag : BitVec 8) (vcs vppb : Fin 64) (error : BitVec 32) (header : List Byte) (s : State) : Res :=
  .next (fmFrom s src tag 0x5203 fun s =>
    if tabFld s 0x10 vcs.val 14 1 = 0 ∨ tabFld s 0x10 vcs.val 7 7 ≤ vppb.val then fmReply s src tag 0x5203 2 []
    else
      let s := modBridge s (65 * vcs.val + vppb.val) fun b => { b with uncorr := b.uncorr ||| error.toNat, log := if b.uncorr = 0 then slice header 0 16 else b.log }
      fmReply (emit s (.port (tabFld s 0x10 vcs.val 0 7) 0x501 vppb.val error.toNat tag.toNat header)) src tag 0x5203 0 [])

/-! MLD Port and MLD Components: forwarded through the tunnel, whose answer comes back. -/

/-- A port behind which an MLD has arrived. -/
def fmMld (s : State) (p : Nat) : Bool := decide (p < 96) && roleOf s p == 2 && (partnerOf s p).st == 2 && (partnerOf s p).kind == 5

/-- A command through the tunnel of an MLD port, and its answer; a port without an MLD is Invalid Input. -/
def fmTunnel (s : State) (src : MctpSrc) (tag : BitVec 8) (code : Nat) (p : BitVec 8) (body answer : List Byte) : Res :=
  .next (fmFrom s src tag code fun s =>
    if fmMld s p.toNat then fmReply (emit s (.port p.toNat 0x502 code 0 tag.toNat body)) src tag code 0 answer
    else fmReply s src tag code 2 [])

/-- TUNNEL_MANAGEMENT_COMMAND. -/
def execTunnelManagementCommand (src : MctpSrc) (tag : BitVec 8) (p : BitVec 8) (body answer : List Byte) (s : State) : Res :=
  fmTunnel s src tag 0x5300 p body answer

/-- A request to a logical device that the MLD has. -/
def fmLd (s : State) (src : MctpSrc) (tag : BitVec 8) (code : Nat) (p : BitVec 8) (ld : BitVec 16) (write : Bool) (addr : Nat) (data answer : List Byte) : Res :=
  .next (fmFrom s src tag code fun s =>
    if fmMld s p.toNat ∧ ld.toNat < (partnerOf s p.toNat).nld then
      fmReply (emit s (.port p.toNat (0x503 + code % 4) (ld.toNat * 2 + (if write then 1 else 0)) addr tag.toNat (if write then data else []))) src tag code 0
        (if write then [] else answer)
    else fmReply s src tag code 2 [])

/-- SEND_LD_CXL_IO_CONFIGURATION_REQUEST. -/
def execSendLdCxlIoConfigurationRequest (src : MctpSrc) (tag : BitVec 8) (p : BitVec 8) (ld : BitVec 16) (write : Bool) (reg : BitVec 12)
    (data answer : BitVec 32) (s : State) : Res :=
  fmLd s src tag 0x5301 p ld write reg.toNat (natBytes 4 data.toNat) (natBytes 4 answer.toNat)

/-- SEND_LD_CXL_IO_MEMORY_REQUEST. -/
def execSendLdCxlIoMemoryRequest (src : MctpSrc) (tag : BitVec 8) (p : BitVec 8) (ld : BitVec 16) (write : Bool) (addr : BitVec 64)
    (data answer : List Byte) (s : State) : Res :=
  fmLd s src tag 0x5302 p ld write addr.toNat data answer

/-- GET_LD_INFO. -/
def execGetLdInfo (src : MctpSrc) (tag : BitVec 8) (p : BitVec 8) (body answer : List Byte) (s : State) : Res := fmTunnel s src tag 0x5400 p body answer
/-- GET_LD_ALLOCATIONS. -/
def execGetLdAllocations (src : MctpSrc) (tag : BitVec 8) (p : BitVec 8) (body answer : List Byte) (s : State) : Res := fmTunnel s src tag 0x5401 p body answer
/-- SET_LD_ALLOCATIONS. -/
def execSetLdAllocations (src : MctpSrc) (tag : BitVec 8) (p : BitVec 8) (body answer : List Byte) (s : State) : Res := fmTunnel s src tag 0x5402 p body answer
/-- GET_QOS_CONTROL. -/
def execGetQosControl (src : MctpSrc) (tag : BitVec 8) (p : BitVec 8) (body answer : List Byte) (s : State) : Res := fmTunnel s src tag 0x5403 p body answer
/-- SET_QOS_CONTROL. -/
def execSetQosControl (src : MctpSrc) (tag : BitVec 8) (p : BitVec 8) (body answer : List Byte) (s : State) : Res := fmTunnel s src tag 0x5404 p body answer
/-- GET_QOS_STATUS. -/
def execGetQosStatus (src : MctpSrc) (tag : BitVec 8) (p : BitVec 8) (body answer : List Byte) (s : State) : Res := fmTunnel s src tag 0x5405 p body answer
/-- GET_QOS_ALLOCATED_BW. -/
def execGetQosAllocatedBw (src : MctpSrc) (tag : BitVec 8) (p : BitVec 8) (body answer : List Byte) (s : State) : Res := fmTunnel s src tag 0x5406 p body answer
/-- SET_QOS_ALLOCATED_BW. -/
def execSetQosAllocatedBw (src : MctpSrc) (tag : BitVec 8) (p : BitVec 8) (body answer : List Byte) (s : State) : Res := fmTunnel s src tag 0x5407 p body answer
/-- GET_QOS_BW_LIMIT. -/
def execGetQosBwLimit (src : MctpSrc) (tag : BitVec 8) (p : BitVec 8) (body answer : List Byte) (s : State) : Res := fmTunnel s src tag 0x5408 p body answer
/-- SET_QOS_BW_LIMIT. -/
def execSetQosBwLimit (src : MctpSrc) (tag : BitVec 8) (p : BitVec 8) (body answer : List Byte) (s : State) : Res := fmTunnel s src tag 0x5409 p body answer

/-! DCD Management. -/

/-- The granules registered in the pool. -/
def fmPoolGranules (s : State) : Nat := ((listed s 0x19).map (registered s)).sum

/-- GET_DCD_INFO: 64 hosts, one region each, the pool's capacity, block size 256 MiB; the rest is not the spec's. -/
def execGetDcdInfo (src : MctpSrc) (tag : BitVec 8) (s : State) : Res :=
  .next (fmFrom s src tag 0x5600 fun s =>
    fmReply (tickBytes s 8) src tag 0x5600 0 (natBytes 1 64 ++ natBytes 1 1 ++ freeBytes s 8 ++ natBytes 8 (fmPoolGranules s * 2 ^ 28) ++ natBytes 8 (2 ^ 28)))

/-- GET_HOST_DC_REGION_CONFIGURATION of a pooled logical device: region 0 of MAXG granules. -/
def execGetHostDcRegionConfiguration (src : MctpSrc) (tag : BitVec 8) (pld : BitVec 8) (s : State) : Res :=
  .next (fmFrom s src tag 0x5601 fun s =>
    if tabFld s 0x14 pld.toNat 36 1 = 0 then fmReply s src tag 0x5601 2 []
    else
      let maxg := tabFld s 0x14 pld.toNat 0 28
      fmReply (tickBytes s 8) src tag 0x5601 0 (natBytes 2 pld.toNat ++ natBytes 2 0x101 ++ natBytes 8 0 ++ natBytes 8 maxg ++ natBytes 8 (maxg * 2 ^ 28) ++
        natBytes 8 (2 ^ 28) ++ freeBytes s 8))

/-- SET_DC_REGION_CONFIGURATION runs BIND.PLD. -/
def execSetDcRegionConfiguration (src : MctpSrc) (tag : BitVec 8) (pld : BitVec 8) (en : Bool) (maxg : BitVec 28) (s : State) : Res :=
  .next (fmFrom s src tag 0x5602 fun s => fmChart s src tag 0x5602 (macroWord 0x63 1)
    [BitVec.ofNat 64 (pld.toNat + (if en then 2 ^ 8 else 0) + maxg.toNat * 2 ^ 36)])

/-- GET_DC_REGION_EXTENT_LISTS: the extents that a pooled logical device's host holds. -/
def execGetDcRegionExtentLists (src : MctpSrc) (tag : BitVec 8) (pld : BitVec 8) (count start : BitVec 32) (s : State) : Res :=
  .next (fmFrom s src tag 0x5603 fun s =>
    if tabFld s 0x14 pld.toNat 36 1 = 0 then fmReply s src tag 0x5603 2 []
    else
      let all := heldExtents s pld.toNat
      let part := (all.drop start.toNat).take (min count.toNat ((s.mctp.fmLimit - 32) / 40))
      fmReply (tickBytes s 4) src tag 0x5603 0 (natBytes 2 pld.toNat ++ natBytes 4 start.toNat ++ natBytes 4 part.length ++ natBytes 4 all.length ++
        freeBytes s 4 ++ part.flatMap (extentBytes s)))

/-- INITIATE_DYNAMIC_CAPACITY_ADD runs BIND.ADD in the background. -/
def execInitiateDynamicCapacityAdd (src : MctpSrc) (tag : BitVec 8) (pld : BitVec 8) (p : BitVec 7) (ld : BitVec 4) (shared auto : Bool)
    (lgran ngran mgran : BitVec 28) (s : State) : Res :=
  .next (fmFrom s src tag 0x5604 fun s => fmChart s src tag 0x5604 (macroWord 0x64 3)
    [BitVec.ofNat 64 (pld.toNat + p.toNat * 2 ^ 8 + ld.toNat * 2 ^ 16 + (if shared then 2 ^ 20 else 0) + (if auto then 2 ^ 21 else 0)),
     BitVec.ofNat 64 (lgran.toNat + ngran.toNat * 2 ^ 28), BitVec.ofNat 64 (if auto then 0 else mgran.toNat)])

/-- INITIATE_DYNAMIC_CAPACITY_RELEASE runs BIND.RELEASE in the background; the scrub of R191 follows. -/
def execInitiateDynamicCapacityRelease (src : MctpSrc) (tag : BitVec 8) (x : ExtentId) (force : Bool) (s : State) : Res :=
  .next (fmFrom s src tag 0x5605 fun s => fmChart s src tag 0x5605 (macroWord 0x65 1 (if force then 1 else 0)) [BitVec.ofNat 64 x.val])

/-- FM_UNSUPPORTED_COMMAND. -/
def execFmUnsupportedCommand (src : MctpSrc) (tag : BitVec 8) (code : BitVec 16) (s : State) : Res :=
  .next (fmFrom s src tag code.toNat fun s => fmReply s src tag code.toNat 3 [])

end Sys2Proof.Machine
end

