-- ==== Sys2Proof/Machine/Tiles.lean ====
section
/-! DEFINITION. Tiles: Frost, Thaw, power and reset, and the reset of a port (R140, R172-R175, R415, R450, R453, R460-R464). -/
namespace Sys2Proof.Machine

/-- TILE_ST (Table 19.6). -/
def tileSt (s : State) (t : Nat) : Nat := tabFld s 0x3E t 20 4
/-- TILE_ST takes a value. -/
def setTileSt (s : State) (t v : Nat) : State := setLive s 0x3E t 20 4 v
/-- The ports that a tile's profile creates. -/
def tilePorts (s : State) (t : Nat) : List Nat := ((List.range 8).map (8 * t + ·)).filter (portExists s)
/-- The endpoints of a tile's three routers. -/
def tileEps (t : Nat) : List Nat := ((List.range 3).flatMap fun a => (List.range 18).map (tileRouter t a * 64 + ·)).filter depValid
/-- The lanes of a tile. -/
def tileLanes (t : Nat) : List Nat := (List.range 32).map (32 * t + ·)
/-- The Frost of a tile. -/
def frostOf (s : State) (t : Nat) : Frost := smGet {} s.frost t

/-! The conditions of Frost (R462). -/

/-- A port of the tile is one that Frost may not take. -/
def frostConflict (s : State) (t : Nat) : Bool :=
  let ps := tilePorts s t
  let held (v : Entry) : Bool := bstate v == 1 || bstate v == 2
  ((List.range 64).any fun v => tabFld s 0x10 v 14 1 == 1 && ps.contains (tabFld s 0x10 v 0 7) && (List.range 64).any fun k => held (tabVal s 0x11 (64 * v + k))) ||
  ((listed s 0x11).any fun i => held (tabVal s 0x11 i) && (btype (tabVal s 0x11 i) == 1 || btype (tabVal s 0x11 i) == 2) && ps.contains (bport (tabVal s 0x11 i))) ||
  ((listed s 0x15).any fun i => estate (tabVal s 0x15 i) != 0 && ps.contains (emport (tabVal s 0x15 i))) ||
  ((listed s 0x20).any fun i => rstate (tabVal s 0x20 i) == 1 && ps.contains (tabFld s 0x20 i 65 7)) ||
  ps.any fun p => roleOf s p == 3 && (islOpen s p || tabFld s 0x0C 0 8 7 == p)

/-- The tile's queues and egress hold no request, its own requests are answered, no early packet is held, its engine is idle (R462 step 2). -/
def tileDrained (s : State) (t : Nat) : Bool :=
  (s.txns.all fun e =>
    let x := e.2
    !(!x.reply && (x.ingress / 8 == t && decide (x.phase ≤ 1))) && !(!x.reply && x.phase == 4 && epTile x.dst == some t) &&
    !(!x.reply && epTile x.src == some t) && !(x.reply && epTile x.dst == some t && decide (x.phase ≤ 2))) &&
  (s.early.all fun p => epTile p.dst != some t) && engineIdle (engineOf s t)

/-! The steps of Frost. -/

/-- Step 1: FREEZING, with the bound of the drain. lost: MER.RESET, whose links are lost. -/
def frostBegin (s : State) (e : Nat) (x : Engine) (t ns : Nat) (lost : Bool) : State :=
  let s := setEngine (setTileSt s t 1) e (seqWait x 1 t 0)
  { s with frost := smSet {} s.frost t { frostOf s t with bound := s.clock + ns, engine := some e, lost := lost } }

/-- Step 3: a chart that the tile engine still runs ends TIMEOUT; a Survey run that it was is over. -/
def frostCut (s : State) (t : Nat) : State :=
  let x := engineOf s t
  if engineIdle x then s
  else
    let s := endChart s t 7 x.pc
    (s.surveys.filter fun r => r.2.engine == t).foldl (fun s r => runFails s r.1 r.2 0x16) s

/-- Step 4: a port goes to Disabled; under MER.RESET this is a loss, and an ISL is contained at once. -/
def frostPort (lost : Bool) (s : State) (p : Nat) : State :=
  if roleOf s p = 0 then s
  else if !lost then disableLink s p
  else if roleOf s p = 3 then disableLink (contain s p) p
  else if linkAlive s p then emit (loseCxl s p 0x0F) (.link p 5 0)
  else disableLink s p

/-- A request or snoop that an endpoint has accepted and not answered passes to its proxy (R174): one at its egress or beyond, or one held early. What
expects no response, or is a response, is discarded and counted. -/
def passHeld (t : Nat) (early : List Nat) (s : State) (i : Nat) : State :=
  let x := txnOf s i
  let ep := endpOf s x.dst
  if (!x.reply ∨ isSnoop x) ∧ !x.posted ∧ epTile x.dst = some t ∧ (3 ≤ x.phase ∨ i ∈ early) ∧ ep.handed.length < 4096 then
    setEndp s x.dst { ep with handed := ep.handed ++ [i] }
  else count (dropTxn s i) (routerCtr 0 (epRouter x.dst) 7) 1

/-- The last packets of transactions that the tile's resequencer holds early. -/
def earlyLast (s : State) (t : Nat) : List Nat := (s.early.filter fun p => epTile p.dst == some t && p.eot).map (·.txn)

/-- The transactions that the tile holds: those of its ports' staging and queues, those at its egress or sent to its partners, its early packets. -/
def tileHolds (s : State) (t : Nat) : List Nat :=
  ((txnsWhere s fun x => (poolTile x == some t && decide (x.phase ≤ 1)) || (epTile x.dst == some t && decide (3 ≤ x.phase))) ++ earlyLast s t).eraseDups

/-- Step 5: every endpoint of the three routers switches to PROXY, and takes what the tile holds. -/
def toProxy (s : State) (t : Nat) : State :=
  let held := tileHolds s t
  let early := earlyLast s t
  let s := (tileEps t).foldl (fun s ep => setEndp s ep { endpOf s ep with proxy := true, leaving := false }) s
  held.foldl (passHeld t early) { s with early := s.early.filter fun p => epTile p.dst != some t }

/-- The engine that waits for a tile or a port has its chart go on. -/
def resumeOk (s : State) (e : Option Nat) : State :=
  match e with
  | some e =>
    let x := engineOf s e
    if engineIdle x ∨ x.wait ≠ .macroStep then s else finish s e x 0
  | none => s

/-! Resets of a tile's and a port's blocks (Table 19.2). -/

/-- The functions of a port: PF0 with its VFs is reset (R359), an FMP function's claims are freed. -/
def functionsReset (s : State) (p : Nat) : State :=
  match roleOf s p with
  | 1 => pfReset s p
  | 4 => releaseClaims s (claimsOf s (0x6000 + p))
  | _ => s

/-- Status words, live lanes and session of a port at their reset values, LOST kept: the lane PLLs relock where the pair is present, with OFS_STALE set. -/
def portBlockReset (s : State) (p : Nat) : State :=
  let lost := tabFld s 0x02 p 20 1
  let ref := smGet false s.refPair (p / 16)
  let s := setLive (setLive s 0x02 p 0 32 0) 0x02 p 20 1 lost
  let s := setLive s 0x05 p 0 32 0
  let s := (portLanes s p).foldl (fun s l =>
    let s := setLive s 0x04 l 0 128 0
    setLaneBit (setLaneBit (setLaneBit s 0 ref l) 1 ref l) 4 true l) s
  { s with lanes := smErase s.lanes fun l => (portLanes s p).contains l
           isls := smSet {} s.isls p {}
           ideUp := smSet 0 s.ideUp p 0, cxlCache := smSet false s.cxlCache p false, noCxl := smSet false s.noCxl p false
           lowSince := smSet 0 s.lowSince p 0, viral := smSet false s.viral p false }

/-- Live counters count again from zero (R415). -/
def countersZero (s : State) (mine : Nat → Bool) : State :=
  { s with cnt := { s.cnt with live := smErase s.cnt.live mine, winAcc := smErase s.cnt.winAcc mine, winStart := smErase s.cnt.winStart mine } }

/-- A tile's blocks are reset: port controllers, lanes, buffers, resequencer, tile engine, service endpoints. -/
def tileBlocksReset (s : State) (t : Nat) : State :=
  let s := (tilePorts s t).foldl functionsReset s
  let s := (tilePorts s t).foldl portBlockReset s
  let s := countersZero (setEngine s t {}) fun i => counterTile i == some t
  let mine (p : Nat) : Bool := p / 8 == t
  { s with partners := smErase s.partners mine, present := smErase s.present mine, arriving := smErase s.arriving mine
           surveys := s.surveys.filter fun r => !(mine r.1), deferred := smErase s.deferred mine, attn := smErase s.attn mine
           detachAt := smErase s.detachAt mine, residents := s.residents.filter fun r => r.engine != t
           internals := s.internals.filter fun i => i.target != t
           frost := smSet {} s.frost t { frostOf s t with latched := [] } }

/-- The generations of endpoints advance (R175). -/
def advanceGens (s : State) (eps : List Nat) : State := eps.foldl (fun s ep => setEndp s ep { endpOf s ep with gen := ((endpOf s ep).gen + 1) % 16 }) s

/-- Those of a tile. -/
def tileGens (s : State) (t : Nat) : State := advanceGens s (tileEps t)

/-- TILE.RESET's act: the tile is FROZEN again. -/
def tileResetNow (s : State) (t : Nat) : State := setTileSt (tileGens (tileBlocksReset s t) t) t 2

/-- Steps 4 to 6 of Frost; under MER.RESET the reset of the tile follows. The macro that began it ends OK. -/
def frostEnd (s : State) (t : Nat) : State :=
  let f := frostOf s t
  let s := (tilePorts s t).foldl (frostPort f.lost) s
  let s := setTileSt (toProxy s t) t 2
  let s := { s with frost := smSet {} s.frost t { frostOf s t with bound := 0, engine := none, lost := false } }
  resumeOk (if f.lost then tileResetNow s t else s) f.engine

/-! The rows. -/

/-- A tile macro: a tile above 11 is ABSENT. -/
def tileMacro (s : State) (e op mask : Nat) (f : State → Engine → Nat → Word → State) : State :=
  macroThen s e op [rowBits [(3, 0)] ||| mask] 0 .glob true fun s x b =>
    if 12 ≤ wfld (b 0) 0 4 then finish s e x 5 else f s x (wfld (b 0) 0 4) (b 0)

/-- TILE_FROST: BUSY unless LIVE, CONFLICT while a port is one that R462 names; else FREEZING. -/
def execTileFrost (e : EngineId) (s : State) : Res :=
  .next (tileMacro s e 0xD1 (rowBits [(31, 16)]) fun s x t w =>
    if tileSt s t ≠ 0 then finish s e x 3
    else if frostConflict s t then finish s e x 2
    else frostBegin s e x t ((if wfld w 16 16 = 0 then 100 else wfld w 16 16) * 1000) false)

/-- FROST_DRAIN_COMPLETE. -/
def execFrostDrainComplete (t : TileId) (s : State) : Res :=
  if tileSt s t = 1 ∧ tileDrained s t then .next (frostEnd s t) else .next s

/-- FROST_BOUND_EXPIRY: at B; a drain complete in the same cycle wins (Table 19.10). -/
def execFrostBoundExpiry (t : TileId) (s : State) : Res :=
  if tileSt s t = 1 ∧ (frostOf s t).bound ≤ s.clock then .next (frostEnd (frostCut s t) t) else .next s

/-- A port of a thawing tile leaves Disabled and trains. -/
def thawPort (s : State) (p : Nat) : State :=
  if roleOf s p = 0 then s
  else if roleOf s p = 3 then enterDetect s p
  else emit (setLive s 0x02 p 0 6 0) (.link p 4 0)

/-- A latched doorbell of a tile acts for the function whose ring or queue it names. -/
def thawDoorbell (s : State) (l : Latched) : State := actLatched s (if l.kind = 2 then l.obj else (ringFunc s l.obj).getD 0xFFFF) l

/-- The steps of R463. -/
def thawTile (s : State) (t : Nat) : State :=
  let s := tileGens s t
  let s := { s with streams := s.streams.filter fun e => epTile (e.1 / 8 % 4096) != some t }
  let s := (tileEps t).foldl (fun s ep =>
    let x := endpOf s ep
    setEndp s ep (if x.errs.isEmpty ∧ x.handed.isEmpty then { x with proxy := false } else { x with leaving := true })) s
  let ls := (frostOf s t).latched
  let s := applyOpp s t
  let s := setTileSt { s with frost := smSet {} s.frost t {} } t 0
  (tilePorts s t).foldl thawPort (ls.foldl thawDoorbell s)

/-- TILE_THAW: BUSY unless FROZEN. -/
def execTileThaw (e : EngineId) (s : State) : Res :=
  .next (tileMacro s e 0xD2 0 fun s x t _ => if tileSt s t ≠ 2 then finish s e x 3 else finish (thawTile s t) e x 0)

/-- TILE.POWER with its ON bit: the row of the other value is not this one. -/
def tilePower (s : State) (e : Nat) (on : Bool) (f : State → Engine → Nat → State) : State :=
  if atOp s e 0xD3 ∧ blockStatus (engineOf s e) (wordAt (engineOf s e)) [rowBits [(3, 0), (8, 8)]] 0 = 0 ∧
      (wfld (blockWord (engineOf s e) (wordAt (engineOf s e)) 0) 8 1 == 1) ≠ on then s
  else tileMacro s e 0xD3 (rowBits [(8, 8)]) fun s x t _ => f s x t

/-- TILE_POWER_DOWN: FROZEN to OFF; OFF stays; else BUSY. -/
def execTilePowerDown (e : EngineId) (s : State) : Res :=
  .next (tilePower s e false fun s x t =>
    if tileSt s t = 3 then finish s e x 0
    else if tileSt s t ≠ 2 then finish s e x 3
    else
      let s := (tilePorts s t).foldl portBlockReset s
      let s := (tileLanes t).foldl (fun s l => setLaneBit (setLaneBit s 0 false l) 1 false l) s
      let s := (tilePorts s t).foldl (fun s p => setLive s 0x02 p 0 32 0) s
      finish (setTileSt (setEngine s t {}) t 3) e x 0)

/-- TILE_POWER_UP: OFF to POWERING; FROZEN stays; else BUSY. -/
def execTilePowerUp (e : EngineId) (s : State) : Res :=
  .next (tilePower s e true fun s x t =>
    if tileSt s t = 2 then finish s e x 0
    else if tileSt s t ≠ 3 then finish s e x 3
    else setEngine { setTileSt s t 4 with frost := smSet {} s.frost t { frostOf s t with engine := some e } } e (seqWait x 1 t 0))

/-- POWER_UP_COMPLETE: the blocks are reset, the lane PLLs relock, the tile is FROZEN. -/
def execPowerUpComplete (t : TileId) (s : State) : Res :=
  if tileSt s t = 4 then
    let e := (frostOf s t).engine
    let s := tileResetNow s t
    .next (resumeOk { s with frost := smSet {} s.frost t { frostOf s t with engine := none } } e)
  else .next s

/-- TILE_RESET: BUSY unless FROZEN. -/
def execTileReset (e : EngineId) (s : State) : Res :=
  .next (tileMacro s e 0xD4 0 fun s x t _ => if tileSt s t ≠ 2 then finish s e x 3 else finish (tileResetNow s t) e x 0)

/-! MER.RESET of a tile and a port (R442, R453, R462). -/

/-- MER.RESET: the row of another scope is not this one; scope 3 is INVALID. -/
def merReset (e : Nat) (s : State) (scope : Nat) (f : State → Engine → Nat → State) : State :=
  onOp s e 0xF2 fun s x w =>
    let w0 := blockWord x w 0
    let st := macroStatus s e x w [rowBits [(1, 0), (11, 4)]] 0 .glob true
    if x.seq ≠ 0 then s
    else if st = 0 ∧ wfld w0 0 2 ≠ scope ∧ wfld w0 0 2 ≠ 3 then s
    else if st ≠ 0 then finish s e x st
    else if wfld w0 0 2 = 3 then finish s e x 6
    else f s (regSet x 1 0) (wfld w0 4 8)

/-- MER_RESET_TILE: a LIVE tile is frozen without a conflict check, its links lost, and reset; a FROZEN one is reset; else BUSY. -/
def execMerResetTile (e : EngineId) (s : State) : Res :=
  .next (merReset e s 1 fun s x t =>
    if 12 ≤ t then finish s e x 5
    else if tileSt s t = 0 then frostBegin s e x t 100000 true
    else if tileSt s t = 2 then finish (tileResetNow s t) e x 0
    else finish s e x 3)

/-- Steps 1 to 3 of R453: the loss of the port, the reset of its controller, endpoints and lanes, and of PF0 on a USP. -/
def portResetNow (s : State) (p : Nat) : State :=
  let s :=
    if roleOf s p = 3 then (if tstate s p = 0 then s else contain s p)
    else if roleOf s p ≠ 0 ∧ linkAlive s p then loseCxl s p 0 else functionsReset s p
  let s := if roleOf s p = 4 then releaseClaims s (claimsOf s (0x6000 + p)) else s
  let s := countersZero (advanceGens (portBlockReset s p) [portEp p, svcEp p]) fun i => i / 24 == p
  if roleOf s p = 3 then setTstate s p 0 else s

/-- MER_RESET_PORT. -/
def execMerResetPort (e : EngineId) (s : State) : Res :=
  .next (merReset e s 2 fun s x p =>
    if !(portExists s p) then finish s e x 5
    else if smGet none s.portResets p ≠ none then finish s e x 3
    else
      let s := portResetNow s p
      setEngine { s with portResets := smSet none s.portResets p (some (s.clock + 10000)) } e (seqWait x 1 (256 + p) 0))

/-- The engine whose MER.RESET waits for a port. -/
def portResetWaiter (s : State) (p : Nat) : Option Nat :=
  (List.range 16).find? fun e => let x := engineOf s e; !(engineIdle x) && x.wait == .macroStep && opcodeOf (wordAt x) == 0xF2 && x.seqA == 256 + p

/-- PORT_RESET_END: the port trains, or an ISL sends a marker run and enters DETECT. -/
def execPortResetEnd (p : PortId) (s : State) : Res :=
  match smGet none s.portResets p with
  | none => .next s
  | some _ =>
    let s := { s with portResets := smSet none s.portResets p none }
    .next (resumeOk (if tileSt s (p.val / 8) = 0 then thawPort s p else s) (portResetWaiter s p))

end Sys2Proof.Machine
end

