-- ==== Sys2Proof/Machine/Boot.lean ====
section
/-! DEFINITION. Resets of the chip and of Meridian, and the boot that follows them (R23, R243, R368, R396, R425-R428, R443, R449-R459, R475, R482). -/
namespace Sys2Proof.Machine

/-! Reset values of tables. -/

/-- Every entry whose reset value the straps choose takes it; 0x38 is the slot channels'. -/
def strapTables (s : State) (slots : Bool) : State :=
  let put (t n : Nat) (s : State) : State := (List.range n).foldl (fun s i => setTab s t i (strapEntry s t i) 0) s
  let s := put 0x3E 12 (put 0x0B 12 (put 0x01 96 s))
  if slots then put 0x38 32 s else s

/-- SETTINGS: the stored values of fields whose Reset column reads eMRAM (R40, R46, R460). -/
def applySettings (s : State) : State :=
  s.settings.foldl (fun s e => match e.2 with
    | some v => setTab s (keyTab e.1) (keyIdx e.1) (merge (tabVal s (keyTab e.1) (keyIdx e.1)) v.1 v.2) (tabEntry s (keyTab e.1) (keyIdx e.1)).num
    | none => s) s

/-! Before a reset takes effect (R396, R452, R471). -/

/-- The COMMIT being served completes, by its flip or by its judgement. -/
def serveCommit (s : State) : State :=
  match s.arb.queue with
  | e :: _ => if s.arb.judged ∧ !(overtaken s (engineOf s e)) then flip s (engineOf s e) else s
  | [] => s

/-- Every open Almanac record is written and closed with RESET set. -/
def flushAlmanac (s : State) : State := { s with alm := almFlush (almView s) s.alm }

/-- Every GPIO that a channel setting names as PERST_GPIO is driven asserted. -/
def perstAll (s : State) : State := (List.range 32).foldl (fun s c => perstAssert s (tabVal s 0x38 c)) s

/-! What a reset reaches (Table 19.2). -/

/-- The claims of VFs, PF0s and FMP functions are freed. -/
def functionClaimsFreed (s : State) : State :=
  { s with claims := s.claims.filter fun e => !(e.2 / 0x2000 % 8 == 0 || e.2 / 0x2000 % 8 == 1 || e.2 / 0x2000 % 8 == 3) || e.2 / 0x10000 == 1 }

/-- Every endpoint's proxy empties and its generation advances (R175). -/
def endpointsReset (s : State) : State :=
  { s with endps := ((List.range 3072).filter depValid).foldl (fun m ep => smSet {} m ep { gen := ((smGet {} s.endps ep).gen + 1) % 16 }) [] }

/-- The counters of the blocks reached return to zero: every one (R415). -/
def allCountersZero (s : State) : State := { s with cnt := { nextTick := s.cnt.nextTick } }

/-- The function queues and Steward's, as a chip soft reset leaves them: those of functions are the service endpoints'. -/
def stewardQueues (s : State) : Events :=
  { store := s.ev.store.filter fun r => decide (2144 ≤ r.queue), wins := s.ev.wins, queues := smErase s.ev.queues fun q => decide (q < 2144) }

/-- The blocks that cold, warm and chip soft resets all reach: slices and the backing directory, routers, engines, movers, the aggregator, tiles,
the committed tables but for slot channel settings, the commit number and with it measurement 5. DEDUCED (log 78): the staged configuration slots of rings
0-7 in Steward's register space are reset with the engines that their rings feed, also by a chip soft reset. -/
def fabricReset (s : State) : State :=
  let r := State.reset
  let e := endpointsReset s
  { s with
    tab := s.tab.filter fun e => keyTab e.1 == 0x38
    commitNum := 0
    engines := [], arb := {}, rings := [], ringTurn := [], residents := [], paused := none, internals := []
    txns := [], routers := [], streams := [], early := [], endps := e.endps, scheds := [], paces := [], thrs := [], routeOld := [], arrived := [], islRet := []
    decRegs := [], granules := [], poolLost := [], member0 := [], scrubs := [], offers := [], overdue := [], presence := [], vcsReset := [], viral := [], bridges := []
    slices := [], ways := [], plru := [], backing := [], walks := [], fwds := [], lostWalked := []
    ideUp := [], cxlCache := [], noCxl := [], macUnits := [], l0pWidth := [], woken := [], biIds := [], lanes := [], isls := [], detaching := [], lowSince := []
    partners := [], present := [], arriving := [], surveys := [], deferred := [], attn := [], detachAt := [], lostAt := [], stated := []
    frost := [], portResets := [], oppNow := [], traces := [], timers := [], svc := { r.svc with nextChart := s.svc.nextChart }
    alm := { s.alm with openRecs := [], recent := [], missedFor := [], missed := 0, cursors := [], waiting := [] }
    mer := { s.mer with chain := List.replicate 64 0, chainK := 0, reports := [] }
    fabricRdy := false }

/-- The commit numbers of slot channel entries that are kept start over with the chip's. -/
def renumber (s : State) : State :=
  { s with tab := (s.tab.map fun e => (e.1, { e.2 with num := 0 })).filter fun e => e.2 != entryReset e.1 }

/-- Waiting Almanac writes go out before a reset of the aggregator, while the bridge takes them. -/
def drainAlmanac (s : State) : State :=
  if s.mer.running then
    { s with alm := { s.alm with slots := s.alm.waiting.foldl (fun m w => smSet {} m w.1 w.2) s.alm.slots, waiting := [] } }
  else s

/-- Steward and HP0, HP1 reset; HP2-HP15 are undefined and read as memory that nothing has written. -/
def stewardReset (s : State) : State := { s with stw := {}, hbm := [], ev := {}, legend := { s.legend with stwVer := 0 } }

/-- A cold reset (R449, R450): everything but eMRAM, flash, straps' pins and the model's own fields. -/
def coldReset (s : State) : State :=
  let r := State.reset
  let s := slotsReset s
  { r with
    pending := s.pending, clock := s.clock, freeCtr := s.freeCtr, out := s.out, sec := s.sec, settings := s.settings, refPair := s.refPair
    alm := { r.alm with opened := s.alm.opened, slots := s.alm.slots, next := s.alm.next, foundUsed := s.alm.foundUsed }
    mer := { r.mer with mer0 := s.mer.mer0, mer1 := s.mer.mer1, flashA := s.mer.flashA, flashB := s.mer.flashB, staged := s.mer.staged }
    legend := { r.legend with lgen := s.legend.lgen } }

/-- What precedes a reset of the fabric, in order. -/
def beforeReset (s : State) : State := flushAlmanac (drainAlmanac (serveCommit s))

/-- A warm reset's effect (R450, R452). -/
def warmReset (s : State) : State :=
  let s := perstAll (beforeReset s)
  let s := functionClaimsFreed (allCountersZero (stewardReset (renumber (fabricReset s))))
  { strapTables { s with locks := [], mer := { s.mer with upd := none } } false with   -- Steward starts anew from flash: a live update ends (log 89)
    boot := { straps := s.boot.straps, pwrOk := true, warm := some s.clock, thermtrip := s.boot.thermtrip } }

/-- A chip soft reset's effect: Steward runs on, and boot resumes from step 6. -/
def chipSoftReset (s : State) : State :=
  let s := perstAll (beforeReset s)
  let b := s.boot
  let ev := stewardQueues s
  let s := functionClaimsFreed (allCountersZero (renumber (fabricReset s)))
  { resubmitUpdate (strapTables { s with ev := ev, hbm := s.hbm.filter fun c => !(decide (0x840000000 ≤ c.1 ∧ c.1 < 0x880000000)) } false) with
    boot := { straps := b.straps, pwrOk := true, reference := s.clock, strapped := b.strapped, hbm := b.hbm, steward := b.steward,
              banksTried := b.banksTried, thermtrip := b.thermtrip } }

/-! Meridian starts (R425, R426, R430, R431, R396). -/

/-- The copy that the mask ROM starts: the valid one with the higher VERSION, copy 0 on a tie. -/
def romChoice (s : State) : Option Nat :=
  match imageOk s 1 s.mer.mer0, imageOk s 1 s.mer.mer1 with
  | true, true => if cartVersion s.mer.mer0.cart < cartVersion s.mer.mer1.cart then some 1 else some 0
  | true, false => some 0
  | false, true => some 1
  | false, false => none

/-- Records that the eMRAM still marks OPEN are closed, with UNCLEAN set; those that SRAM still holds open are not touched. -/
def closeUnclean (s : State) : State :=
  let held (k : Nat) : Bool := s.alm.openRecs.any fun o => o.slot == k
  { s with alm := { s.alm with slots := s.alm.slots.map fun e =>
      if e.2.flags % 2 = 1 ∧ !(held e.1) then (e.1, almTouch { e.2 with flags := (e.2.flags - 1) ||| 32 }) else e } }

/-- Meridian runs the image of a copy: its identity is derived and MER_VER written. -/
def startMeridian (s : State) (c : Nat) : State :=
  let m := copyOf s c
  let s := { s with mer := { s.mer with running := true, copy := c, restartAt := none } }
  let s := { s with mer := { s.mer with aliasSeed := aliasSeedOf s }, sec := { s.sec with lastCdi := cdiOf s } }
  let v : Word := BitVec.ofNat 64 (cartVersion m.cart + cartSvn m.cart * 2 ^ 32)
  let s := if s.legend.merVer = v then s else legendChanged { s with legend := { s.legend with merVer := v } }
  drainAlmanac (closeUnclean s)

/-- A reset of the Meridian core (R454): sessions, scope and nonces end; an open staging is abandoned, a live update past step 4 is in eMRAM. -/
def meridianReset (s : State) : State :=
  let s := closeScope s 4
  let s := match s.mer.staging with | some g => setTarget s g.kind g.target {} | none => s
  { s with dbg := { s.dbg with nonce := none, token := none }
           mer := { s.mer with running := false, sessions := [], nonce := none, spdmState := 0, spdmVersion := 0, staging := none,
                               restartAt := some (s.clock + 6000000),
                               upd := match s.mer.upd with | some u => if u.step < 4 then none else some u | none => none } }

/-! The rows. -/

/-- VDD_AO_POWER_ON (R396, R451): a cold reset without a flush; Meridian's mask ROM begins its check. -/
def execVddAoPowerOn (s : State) : Res := .next (coldReset s)

/-- COLD_RESET (R23, R449, R471): PWR_OK falls. The aggregator is flushed while VDD_AO stays; THERMTRIP_n is released. -/
def execColdReset (s : State) : Res := if s.boot.pwrOk then .next (legendSync s (coldReset (beforeReset s))) else .next s

/-- MASK_ROM_CHECK (R425): the valid copy starts; with none Meridian does not run, and every master stays in reset. -/
def execMaskRomCheck (s : State) : Res :=
  if s.mer.running ∨ s.mer.restartAt.isSome then .next s
  else match romChoice s with
    | some c => .next (startMeridian s c)
    | none => .next s

/-- PWR_OK_RISE (R458, R468): the reference of the boot, at which TS is 0. -/
def execPwrOkRise (s : State) : Res :=
  if s.boot.pwrOk then .next s
  else .next { s with ts := 0, boot := { s.boot with pwrOk := true, reference := s.clock } }

/-- The pins that straps hold, with PERM = 1 (Tables 10.9, 20.13): GPIO46 while references carry spread, GPIO47 for recovery. -/
def strapClaims (s : State) : State :=
  let s := if strapLevel s 6 = 0 then s else setClaim s 46 0x1C000
  if strapC s = 3 then setClaim s 47 0x1C000 else s

/-- Meridian loads the lock regions and the field-lock word before any master runs, and reads the strap for recovery (R368, R426, R439). -/
def releaseMasters (s : State) : State :=
  { s with locks := s.sec.lockRegions, fieldLock := s.sec.fieldLock, boot := { s.boot with strapped := true, steward := strapC s == 3 } }

/-- STRAP_LATCH (R456, R457, R426): 1 ms after PWR_OK, once Meridian runs. -/
def execStrapLatch (levels : BitVec 24) (s : State) : Res :=
  if !s.boot.pwrOk ∨ s.boot.strapped ∨ s.boot.warm.isSome ∨ s.clock < s.boot.reference + 1000000 then .next s
  else
    let s := { s with boot := { s.boot with straps := levels.toNat } }
    if !s.mer.running then .next s
    else .next (legendSync s (releaseMasters (strapClaims (strapTables { s with sec := { s.sec with boot := (s.sec.boot + 1) % 2 ^ 32 } } true))))

/-- HBM_TRAINED: the clearing of the backing directory begins. -/
def execHbmTrained (s : State) : Res :=
  if s.boot.strapped ∧ !s.boot.hbm then .next { s with boot := { s.boot with hbm := true } } else .next s

/-- The bank that is checked after n have failed (R426). -/
def bootBank (s : State) (n : Nat) : Nat :=
  let b := match strapC s with | 1 => 0 | 2 => 1 | _ => s.sec.prefBank
  if n = 0 then b else 1 - b

/-- A rollback counter rises to the lowest SVN among the valid images of its KIND (R428). -/
def raisedSvn (s : State) (kind old : Nat) (a b : Image) : Nat :=
  match imageOk s kind a, imageOk s kind b with
  | true, true => max old (min (cartSvn a.cart) (cartSvn b.cart))
  | true, false => max old (cartSvn a.cart)
  | false, true => max old (cartSvn b.cart)
  | false, false => old

/-- After every boot (R428). -/
def raiseSvns (s : State) : State :=
  { s with sec := { s.sec with svn1 := raisedSvn s 1 s.sec.svn1 s.mer.mer0 s.mer.mer1, svn2 := raisedSvn s 2 s.sec.svn2 s.mer.flashA s.mer.flashB } }

/-- Steward starts from a bank: the image and its Cartouche in HP0 slot 0, cores 0-7 at ENTRY with boot kind 0. -/
def startSteward (s : State) (b : Nat) : State :=
  let m := bankOf s b
  let s := hbmWrite s (slotAddr 0) (m.cart ++ m.bytes)
  let s := { s with stw := { s.stw with held := 0, running := true, bootKind := 0, slot := 0, entry := BitVec.ofNat 64 (slotAddr 0 - 0x800000000 + 256 + cartEntry m.cart) },
                    mer := { s.mer with stwVersion := cartVersion m.cart, stwSvn := cartSvn m.cart, stwBank := b, stwDigest := cartDigest m.cart,
                                        startCommit := s.commitNum, staged := if s.mer.staged = some b then none else s.mer.staged } }
  legendChanged { s with legend := { s.legend with stwVer := BitVec.ofNat 64 (cartVersion m.cart + cartSvn m.cart * 2 ^ 32) } }

/-- STEWARD_IMAGE_VERIFIED (R424, R426): the bank starts, or zeros cover its copy and the other bank is tried; with neither Steward is held. -/
def execStewardImageVerified (s : State) : Res :=
  if !s.boot.strapped ∨ !s.boot.hbm ∨ s.boot.steward ∨ !s.mer.running then .next s
  else
    let b := bootBank s s.boot.banksTried
    if imageOk s 2 (bankOf s b) then
      let s := startSteward s b
      .next (raiseSvns { s with boot := { s.boot with steward := true } })
    else
      let s := hbmWrite s (slotAddr 0) (List.replicate (256 + (bankOf s b).bytes.length) 0)
      let s := { s with boot := { s.boot with banksTried := s.boot.banksTried + 1, steward := decide (1 ≤ s.boot.banksTried) } }
      .next (if s.boot.steward then raiseSvns s else s)

/-- SETTINGS_APPLIED (step 6 of Table 19.5): the stored values apply, the tiles leave reset LIVE, and ports with a ROLE begin training. -/
def execSettingsApplied (s : State) : Res :=
  if !s.boot.strapped ∨ s.boot.settings ∨ !s.mer.running then .next s
  else
    let s0 := s
    let s := applySettings { s with boot := { s.boot with settings := true } }
    let s := { s with oppNow := (List.range 12).foldl (fun m t => smSet 0 m t (tabFld s 0x3E t 8 2)) [] }
    let s := (List.range 384).foldl (fun s l =>
      let ref := smGet false s.refPair (l / 64)
      setLaneBit (setLaneBit s 0 ref l) 1 ref l) s
    .next (legendSync s0 (((List.range 96).filter (portExists s)).foldl thawPort s))

/-- FABRIC_READY (R459, R491): the directory is clear, SETTINGS applied, Steward released or held. -/
def execFabricReady (s : State) : Res :=
  if s.boot.dirClear ∧ s.boot.settings ∧ s.boot.steward ∧ !s.boot.ready then .next { s with fabricRdy := true, boot := { s.boot with ready := true } }
  else .next s

/-- HOLD_BOOT_TIMEOUT (R459): 1,000 ms after the reference. -/
def execHoldBootTimeout (s : State) : Res :=
  if s.boot.pwrOk ∧ s.boot.reference + 1000000000 ≤ s.clock then .next { s with boot := { s.boot with holdOver := true } } else .next s

/-- WARM_RESET (R449, R452): SYS_RESET_n low for 1 µs while PWR_OK is high. -/
def execWarmReset (s : State) : Res := if s.boot.pwrOk ∧ s.boot.warm.isNone then .next (legendSync s (warmReset s)) else .next s

/-- WARM_RESET_END (R449, R452): at the earliest 6 ms after the fall; boot goes on from step 2 without the straps and the boot count. -/
def execWarmResetEnd (s : State) : Res :=
  match s.boot.warm with
  | some t =>
    if t + 6000000 ≤ s.clock then
      let s := { s with boot := { s.boot with warm := none, reference := s.clock } }
      .next (if s.mer.running then releaseMasters s else s)
    else .next s
  | none => .next s

/-- MER_RESET_CHIP (R452): the chart that asks for it is reset with its engine. -/
def execMerResetChip (e : EngineId) (s : State) : Res := .next (merReset e s 0 fun s _ _ => legendSync s (chipSoftReset s))

/-- MERIDIAN_WATCHDOG (R454). -/
def execMeridianWatchdog (s : State) : Res :=
  if s.mer.running then .next (meridianReset { s with engines := s.engines.map fun e => (e.1, if e.2.origin == .ring 8 then { e.2 with subReset := true } else e.2) })
  else .next s

/-- MERIDIAN_RESTART (R425, R443, R454): the mask ROM's choice starts; what waited in the senders goes on. -/
def execMeridianRestart (s : State) : Res :=
  match s.mer.restartAt with
  | none => .next s
  | some _ =>
    match romChoice s with
    | some c => .next (startMeridian s c)
    | none => .next { s with mer := { s.mer with restartAt := none } }

/-- THERMTRIP (R482): the core clocks stop until PWR_OK falls. -/
def execThermtrip (s : State) : Res :=
  if s.boot.pwrOk then .next { s with boot := { s.boot with thermtrip := true } } else .next s

end Sys2Proof.Machine
end

