-- ==== Sys2Proof/Machine/Debug.lean ====
section
/-! DEFINITION. The TAP and the Theodolite debug master (R370-R377). -/
namespace Sys2Proof.Machine

/-- Selecting a data register and returning what it shifts out. -/
def tapReturn (s : State) (ir : Nat) (data : List Byte) : State := emit { s with dbg := { s.dbg with ir := ir } } (.tap ir data)

/-- The bypass register, which an instruction selects that the policy or the scope does not allow (R371). -/
def tapBypass (s : State) : State := tapReturn s 0 [0]

/-- A SCOPE bit is open: [7:0] lock classes, 8 MASTER, 9 CORE, 10 SCAN (Table 15.7). -/
def scopeBit (s : State) (b : Nat) : Bool := s.dbg.scope / 2 ^ b % 2 == 1

/-- BYPASS. -/
def execBypass (s : State) : Res := .next (tapBypass s)

/-- IDCODE: part field 0x9696 in [27:12] and bit 0 set, as IEEE 1149.1 places them; version and manufacturer are free. -/
def execIdcode (s : State) : Res :=
  let v := (Config.freeValue s.freeCtr).toNat
  .next (tapReturn (tick s) 1 (natBytes 4 (1 + nbits v 0 11 * 2 + 0x9696 * 2 ^ 12 + nbits v 11 4 * 2 ^ 28)))

/-- SAMPLE/PRELOAD, at policies 0-2: the pins are captured and the preloaded value takes the boundary scan register. -/
def execSamplePreload (pins preload : Word) (s : State) : Res :=
  if debugPolicy s ≤ 2 then .next (tapReturn { s with dbg := { s.dbg with boundary := preload.toNat } } 2 (wordBytes pins))
  else .next (tapBypass s)

/-- EXTEST, with SCAN open. -/
def execExtest (v : Word) (s : State) : Res :=
  if scopeBit s 10 then
    .next (tapReturn { s with dbg := { s.dbg with boundary := v.toNat } } 3 (wordBytes (BitVec.ofNat 64 s.dbg.boundary)))
  else .next (tapBypass s)

/-- CHALLENGE, at policies 0-1: a fresh nonce voids the previous one (R372). -/
def execTapChallenge (s : State) : Res :=
  if debugPolicy s ≤ 1 ∧ s.mer.running then
    let n := nonceOf s.freeCtr
    .next (tapReturn (tick { s with dbg := { s.dbg with nonce := some n } }) 4
      (natBytes 8 Config.serial ++ n ++ natBytes 4 s.sec.boot ++ natBytes 1 (debugPolicy s) ++ natBytes 3 0))
  else .next (tapBypass s)

/-- TOKEN, at policies 0-1: 196 bytes shifted in for Meridian to verify (R373). -/
def execTapToken (tok : List Byte) (s : State) : Res :=
  if debugPolicy s ≤ 1 ∧ tok.length = 196 then .next { s with dbg := { s.dbg with ir := 5, token := some tok } } else .next (tapBypass s)

/-- The first check of R374 that an unlock token fails; 0: none. -/
def unlockFails (s : State) (t : List Byte) : Nat :=
  let k := keyAt s (leAt t 6 1)
  let sc := leAt t 52 4
  if leAt t 0 4 ≠ 0x54445753 ∨ leAt t 4 2 ≠ 1 ∨ leAt t 7 1 ≠ 0 ∨ leAt t 60 4 ≠ 0 ∨ 2 ^ 11 ≤ sc then 1
  else if leAt t 8 8 ≠ Config.serial ∨ some (slice t 16 32) ≠ s.dbg.nonce ∨ leAt t 48 4 ≠ s.sec.boot then 2
  else if 16 ≤ leAt t 6 1 ∨ k.state ≠ 1 ∨ k.purpose / 4 % 2 = 0 ∨ !(Config.ecdsaVerify k.pub (sha (t.take 64)) (slice t 64 132)) then 3
  else if 2 ≤ debugPolicy s ∨ (debugPolicy s = 1 ∧ sc % 256 ≠ 0) then 4
  else if leAt t 56 4 = 0 ∨ 86400 < leAt t 56 4 then 5
  else 0

/-- UNLOCK_TOKEN_VERDICT (R374): the scope opens and replaces any open one, or the token is refused; the nonce is void either way. -/
def execUnlockTokenVerdict (s : State) : Res :=
  match s.dbg.token with
  | none => .next s
  | some t =>
    if !s.mer.running then .next s
    else
      let c := unlockFails s t
      let s := { s with dbg := { s.dbg with token := none, nonce := none } }
      if c ≠ 0 then .next (raiseEvent s 0x505 0 [c])
      else
        let s := { s with dbg := { s.dbg with scope := leAt t 52 4, expiry := s.clock + leAt t 56 4 * 1000000000 } }
        .next (raiseEvent s 0x504 0 [leAt t 52 4, leAt t 6 1, leAt t 56 4])

/-- The form an ACCESS request must have (R375, R363). -/
def accessOk (space nwords : Nat) (q : Word) : Bool :=
  match space with
  | 1 => (nwords == 16 || nwords == 32) && q.toNat % 64 == 0 && decide (wfld q 0 53 + 4 * nwords ≤ 2 ^ 53)
  | 2 => decide (1 ≤ nwords ∧ nwords ≤ 32) && q.toNat % 4 == 0
  | 3 => decide (1 ≤ nwords ∧ nwords ≤ 32) && q.toNat % 4 == 0 && wfld q 12 41 == 0
  | _ => false

/-- The ACCESS register as returned (Table 15.8): DATA is all ones when STATUS is not OK. -/
def accessResult (op space nwords st : Nat) (q : Word) (data : List Byte) : List Byte :=
  natBytes 1 op ++ natBytes 1 space ++ natBytes 1 nwords ++ natBytes 1 0 ++ natBytes 1 st ++ natBytes 3 0 ++ wordBytes q ++
    (if st = 0 then slice data 0 128 else List.replicate 128 0xFF)

/-- Theodolite's request, issued as master 152 under R365; ans is what its target answers (0 done, 1 absent, 2 poisoned). -/
def access (s : State) (op : Nat) (space nwords : BitVec 8) (q : Word) (ans : Nat) (data : List Byte) : State :=
  let ret (s : State) (st : Nat) : State :=
    let r := accessResult op space.toNat nwords.toNat st q data
    tapReturn { s with dbg := { s.dbg with result := r } } 6 r
  if !(scopeBit s 8) then tapBypass s
  else if !(accessOk space.toNat nwords.toNat q) then ret s 6
  else
    let c := fenceCheck s 152 ⟨space.toNat, q.toNat, 4 * nwords.toNat, op == 0, op == 1⟩
    if c.1 = 9 then ret c.2 2
    else if c.1 ≠ 0 then ret c.2 1
    else
      let s := emit c.2 (.media (wfld q 57 7) (wfld q 53 4) (wfld q 0 53) (4 * nwords.toNat) (if op = 1 then slice data 0 (4 * nwords.toNat) else []))
      ret s (if ans = 0 then 0 else if ans = 1 then 4 else 5)

/-- ACCESS, read. -/
def execAccessRead (space nwords : BitVec 8) (q : Word) (answer : Fin 3) (data : List Byte) (s : State) : Res :=
  .next (access s 0 space nwords q answer data)
/-- ACCESS, write. -/
def execAccessWrite (space nwords : BitVec 8) (q : Word) (data : List Byte) (s : State) : Res :=
  .next (access s 1 space nwords q 0 data)

/-- CORE, with CORE open: the debug module of a Steward core answers; what it reads as is free (RISC-V external debug). -/
def execCore (addr : BitVec 7) (wr : Bool) (v : BitVec 32) (s : State) : Res :=
  if scopeBit s 9 then
    let d := if wr then natBytes 4 v.toNat else natBytes 4 (Config.freeValue s.freeCtr).toNat
    .next (tapReturn (tick s) 7 (natBytes 1 addr.toNat ++ d))
  else .next (tapBypass s)

/-- CLOSE: closes every open scope. -/
def execTapClose (s : State) : Res := .next (closeScope { s with dbg := { s.dbg with ir := 8 } } 2)

/-- SCOPE_LIFETIME_END: LIFETIME of the accepted token has passed. -/
def execScopeLifetimeEnd (s : State) : Res :=
  if s.dbg.scope ≠ 0 ∧ s.dbg.expiry ≤ s.clock then .next (closeScope s 1) else .next s

end Sys2Proof.Machine
end

