-- ==== Sys2Proof/Machine/Time.lean ====
section
/-! DEFINITION. TS_SYNC, TS_PPS, the sampled gauges and the LED frames (R390-R393, R469, R470, R481, R491, R492). -/
namespace Sys2Proof.Machine

/-- The multiples of 10⁹ ns of TS. -/
def second : Nat := 1000000000

/-- The first multiple of 10⁹ at or above a TS. -/
def nextSecond (ts : Nat) : Nat := (ts + second - 1) / second * second

/-- The signed offset of a TS to its nearest multiple of 10⁹. -/
def secondOffset (ts : Nat) : Int := if ts % second ≤ second / 2 then -(ts % second : Nat) else ((second - ts % second : Nat) : Int)

/-- The last valid edge, while it still counts: after 3 s without one the next counts as a first edge. -/
def lastEdge (s : State) : Option Nat :=
  match s.tsync.lastEdge with
  | some a => if s.clock < a + 3 * second then some a else none
  | none => none

/-- TS_SYNC_EDGE (R469): the first valid edge steps TS forward, a later one sets what is to be slewed out; a chip with a time parent ignores it. -/
def execTsSyncEdge (s : State) : Res :=
  if tabFld s 0x0C 0 8 7 ≠ 127 then .next s
  else match lastEdge s with
    | none => .next { s with ts := nextSecond s.ts, tsync := { s.tsync with lastEdge := some s.clock, slew := 0 } }
    | some a =>
      if a + 999000000 ≤ s.clock ∧ s.clock ≤ a + 1001000000 then
        .next { s with tsync := { s.tsync with lastEdge := some s.clock, slew := secondOffset s.ts } }
      else .next s

/-- TS_SYNC_LOSS (R469): after 3 s without a valid edge the chip runs free. -/
def execTsSyncLoss (s : State) : Res :=
  match s.tsync.lastEdge with
  | some a => if a + 3 * second ≤ s.clock then .next { s with tsync := { s.tsync with lastEdge := none, slew := 0 } } else .next s
  | none => .next s

/-- TS_PPS (R470, R491): one pulse of 1 µs at a multiple of 10⁹, however many a forward step passed. -/
def execTsPps (s : State) : Res :=
  if s.tsync.nextPps ≤ s.ts then
    .next { s with tsync := { s.tsync with nextPps := (s.ts / second + 1) * second, ppsEnd := some (s.clock + 1000) } }
  else .next s

/-- GAUGE_SAMPLE (Table 16.11): TJ_MAX and the VOUT of a channel that is ON; the other gauges are fed at their own changes and periods. -/
def execGaugeSample (g : Fin 6) (subj : Fin 96) (reading : BitVec 16) (s : State) : Res :=
  if g.val = 2 then .next (feedGauge s 2 0 reading.toNat)
  else if g.val = 5 ∧ subj.val < 32 ∧ (slotOf s subj).st = 3 then
    let v := reading.toNat % 1024
    .next (feedGauge (setSlot s subj { slotOf s subj with vout := v }) 5 subj v)
  else .next s

/-- A port's transactions counted so far. -/
def portTxns (s : State) (p : Nat) : Nat := smGet 0 s.cnt.live (portCtr p 2) + smGet 0 s.cnt.live (portCtr p 3)

/-- Transactions of a port changed within the last 50 ms, this frame's sample included. -/
def portActive (s : State) (p : Nat) : Bool :=
  portTxns s p != smGet 0 s.ledLast p || (smGet 0 s.ledWhen p != 0 && decide (s.clock + 1 < smGet 0 s.ledWhen p + 50000000))

/-- The 192 bits of a frame: LINK_UP of port p at 2p, its activity at 2p + 1, alternating between frames. -/
def ledBits (s : State) : Nat :=
  ((List.range 96).map fun p => (tabFld s 0x02 p 17 1 + (if portActive s p ∧ s.ledPhase then 2 else 0)) * 2 ^ (2 * p)).sum

/-- LED_FRAME (R492): every 10 ms. -/
def execLedFrame (s : State) : Res :=
  if s.clock < s.ledNext then .next s
  else
    let moved := (List.range 96).filter fun p => portTxns s p != smGet 0 s.ledLast p
    let s1 := emit s (.led (ledBits s))
    .next { s1 with ledLast := moved.foldl (fun m p => smSet 0 m p (portTxns s p)) s.ledLast
                    ledWhen := moved.foldl (fun m p => smSet 0 m p (s.clock + 1)) s.ledWhen
                    ledPhase := !s.ledPhase, ledNext := s.ledNext + 10000000 }

end Sys2Proof.Machine
end

