-- ==== Sys2Proof/Machine/Dispatch.lean ====
section
/-! DEFINITION. One arm per command: each is a direct call of that command's meaning. -/
namespace Sys2Proof.Machine

/-- The effect of a command on everything but the queue. -/
def exec (i : Instr) (s : State) : Host.Outcome State Fault Refusal :=
  match i with
  | .routerCycle pl r hdr unit corr => Sys2Proof.Machine.execRouterCycle pl r hdr unit corr s
  | .starve pl r => Sys2Proof.Machine.execStarve pl r s
  | .epochDrainSum pl => Sys2Proof.Machine.execEpochDrainSum pl s
  | .proxyErrIssue ep => Sys2Proof.Machine.execProxyErrIssue ep s
  | .headerLookup p m => Sys2Proof.Machine.execHeaderLookup p m s
  | .cutThroughUnit p cpl tag data poison bad => Sys2Proof.Machine.execCutThroughUnit p cpl tag data poison bad s
  | .admission p cls => Sys2Proof.Machine.execAdmission p cls s
  | .egressSelect dst => Sys2Proof.Machine.execEgressSelect dst s
  | .responseLeaves p => Sys2Proof.Machine.execResponseLeaves p s
  | .relReportTimer dst src oc => Sys2Proof.Machine.execRelReportTimer dst src oc s
  | .rel ep => Sys2Proof.Machine.execRel ep s
  | .skip ep => Sys2Proof.Machine.execSkip ep s
  | .close ep => Sys2Proof.Machine.execClose ep s
  | .loadSevere p q cls => Sys2Proof.Machine.execLoadSevere p q cls s
  | .linkUp p stage rate width offers cxl cache inv => Sys2Proof.Machine.execLinkUp p stage rate width offers cxl cache inv s
  | .portLost p dest => Sys2Proof.Machine.execPortLost p dest s
  | .lossResponseIssue p => Sys2Proof.Machine.execLossResponseIssue p s
  | .hotResetReceived p => Sys2Proof.Machine.execHotResetReceived p s
  | .pmeTurnOff p => Sys2Proof.Machine.execPmeTurnOff p s
  | .macEpochCheck p ok msgs => Sys2Proof.Machine.execMacEpochCheck p ok msgs s
  | .viral p => Sys2Proof.Machine.execViral p s
  | .biConflict p addr tag => Sys2Proof.Machine.execBiConflict p addr tag s
  | .memInv p own m => Sys2Proof.Machine.execMemInv p own m s
  | .cleanEvict p tag data => Sys2Proof.Machine.execCleanEvict p tag data s
  | .d2hUnsupported p tag => Sys2Proof.Machine.execD2hUnsupported p tag s
  | .mrd g d => Sys2Proof.Machine.execMrd g d s
  | .mrdOwn g d => Sys2Proof.Machine.execMrdOwn g d s
  | .mrdNa g d => Sys2Proof.Machine.execMrdNa g d s
  | .mwr g d => Sys2Proof.Machine.execMwr g d s
  | .mwrPtl g d => Sys2Proof.Machine.execMwrPtl g d s
  | .wb g d b => Sys2Proof.Machine.execWb g d b s
  | .snpRsp g d => Sys2Proof.Machine.execSnpRsp g d s
  | .err g d => Sys2Proof.Machine.execErr g d s
  | .done g d => Sys2Proof.Machine.execDone g d s
  | .conflictListActivate g d => Sys2Proof.Machine.execConflictListActivate g d s
  | .snpFwd p => Sys2Proof.Machine.execSnpFwd p s
  | .proxySnoopAnswer p addr kept dirty => Sys2Proof.Machine.execProxySnoopAnswer p addr kept dirty s
  | .dataFwd p pid tag data => Sys2Proof.Machine.execDataFwd p pid tag data s
  | .backingReadReturn g b => Sys2Proof.Machine.execBackingReadReturn g b s
  | .setConflictRelease g => Sys2Proof.Machine.execSetConflictRelease g s
  | .patrolRead g b => Sys2Proof.Machine.execPatrolRead g b s
  | .lossWalk g errs => Sys2Proof.Machine.execLossWalk g errs s
  | .walkDone => Sys2Proof.Machine.execWalkDone s
  | .directoryClearDone => Sys2Proof.Machine.execDirectoryClearDone s
  | .drainPointReached ep => Sys2Proof.Machine.execDrainPointReached ep s
  | .scrubStart m => Sys2Proof.Machine.execScrubStart m s
  | .zeroComplete m => Sys2Proof.Machine.execZeroComplete m s
  | .offerExpired x => Sys2Proof.Machine.execOfferExpired x s
  | .releaseOverdue x => Sys2Proof.Machine.execReleaseOverdue x s
  | .deferredRegistration p => Sys2Proof.Machine.execDeferredRegistration p s
  | .decoderCommit d => Sys2Proof.Machine.execDecoderCommit d s
  | .decoderUncommit d => Sys2Proof.Machine.execDecoderUncommit d s
  | .identifyMemoryDevice v => Sys2Proof.Machine.execIdentifyMemoryDevice v s
  | .getDynamicCapacityConfiguration v => Sys2Proof.Machine.execGetDynamicCapacityConfiguration v s
  | .getDynamicCapacityExtentList v count start => Sys2Proof.Machine.execGetDynamicCapacityExtentList v count start s
  | .addDynamicCapacityResponse v exts => Sys2Proof.Machine.execAddDynamicCapacityResponse v exts s
  | .releaseDynamicCapacity v exts => Sys2Proof.Machine.execReleaseDynamicCapacity v exts s
  | .mailboxUnsupported v op => Sys2Proof.Machine.execMailboxUnsupported v op s
  | .identify src tag => Sys2Proof.Machine.execIdentify src tag s
  | .backgroundOperationStatus src tag => Sys2Proof.Machine.execBackgroundOperationStatus src tag s
  | .getResponseMessageLimit src tag => Sys2Proof.Machine.execGetResponseMessageLimit src tag s
  | .setResponseMessageLimit src tag n => Sys2Proof.Machine.execSetResponseMessageLimit src tag n s
  | .getEventRecords src tag => Sys2Proof.Machine.execGetEventRecords src tag s
  | .clearEventRecords src tag handles => Sys2Proof.Machine.execClearEventRecords src tag handles s
  | .identifySwitchDevice src tag => Sys2Proof.Machine.execIdentifySwitchDevice src tag s
  | .getPhysicalPortState src tag ports => Sys2Proof.Machine.execGetPhysicalPortState src tag ports s
  | .assertPerst src tag p => Sys2Proof.Machine.execAssertPerst src tag p s
  | .deassertPerst src tag p => Sys2Proof.Machine.execDeassertPerst src tag p s
  | .sendPpbCxlIoConfigurationRequest src tag p write reg data => Sys2Proof.Machine.execSendPpbCxlIoConfigurationRequest src tag p write reg data s
  | .getVirtualCxlSwitchInfo src tag vcss => Sys2Proof.Machine.execGetVirtualCxlSwitchInfo src tag vcss s
  | .fmBindVppb src tag vcs vppb btype p ld pld => Sys2Proof.Machine.execFmBindVppb src tag vcs vppb btype p ld pld s
  | .fmUnbindVppb src tag vcs vppb => Sys2Proof.Machine.execFmUnbindVppb src tag vcs vppb s
  | .generateAerEvent src tag vcs vppb error header => Sys2Proof.Machine.execGenerateAerEvent src tag vcs vppb error header s
  | .tunnelManagementCommand src tag p body answer => Sys2Proof.Machine.execTunnelManagementCommand src tag p body answer s
  | .sendLdCxlIoConfigurationRequest src tag p ld write reg data answer => Sys2Proof.Machine.execSendLdCxlIoConfigurationRequest src tag p ld write reg data answer s
  | .sendLdCxlIoMemoryRequest src tag p ld write addr data answer => Sys2Proof.Machine.execSendLdCxlIoMemoryRequest src tag p ld write addr data answer s
  | .getLdInfo src tag p body answer => Sys2Proof.Machine.execGetLdInfo src tag p body answer s
  | .getLdAllocations src tag p body answer => Sys2Proof.Machine.execGetLdAllocations src tag p body answer s
  | .setLdAllocations src tag p body answer => Sys2Proof.Machine.execSetLdAllocations src tag p body answer s
  | .getQosControl src tag p body answer => Sys2Proof.Machine.execGetQosControl src tag p body answer s
  | .setQosControl src tag p body answer => Sys2Proof.Machine.execSetQosControl src tag p body answer s
  | .getQosStatus src tag p body answer => Sys2Proof.Machine.execGetQosStatus src tag p body answer s
  | .getQosAllocatedBw src tag p body answer => Sys2Proof.Machine.execGetQosAllocatedBw src tag p body answer s
  | .setQosAllocatedBw src tag p body answer => Sys2Proof.Machine.execSetQosAllocatedBw src tag p body answer s
  | .getQosBwLimit src tag p body answer => Sys2Proof.Machine.execGetQosBwLimit src tag p body answer s
  | .setQosBwLimit src tag p body answer => Sys2Proof.Machine.execSetQosBwLimit src tag p body answer s
  | .getDcdInfo src tag => Sys2Proof.Machine.execGetDcdInfo src tag s
  | .getHostDcRegionConfiguration src tag pld => Sys2Proof.Machine.execGetHostDcRegionConfiguration src tag pld s
  | .setDcRegionConfiguration src tag pld en maxg => Sys2Proof.Machine.execSetDcRegionConfiguration src tag pld en maxg s
  | .getDcRegionExtentLists src tag pld count start => Sys2Proof.Machine.execGetDcRegionExtentLists src tag pld count start s
  | .initiateDynamicCapacityAdd src tag pld p ld shared auto lgran ngran mgran => Sys2Proof.Machine.execInitiateDynamicCapacityAdd src tag pld p ld shared auto lgran ngran mgran s
  | .initiateDynamicCapacityRelease src tag x force => Sys2Proof.Machine.execInitiateDynamicCapacityRelease src tag x force s
  | .fmUnsupportedCommand src tag code => Sys2Proof.Machine.execFmUnsupportedCommand src tag code s
  | .refLost pair => Sys2Proof.Machine.execRefLost pair s
  | .refReturn pair => Sys2Proof.Machine.execRefReturn pair s
  | .cdrLockAll p inv rev => Sys2Proof.Machine.execCdrLockAll p inv rev s
  | .cdrLockLost p lanes => Sys2Proof.Machine.execCdrLockLost p lanes s
  | .markerRunSeen p lanes => Sys2Proof.Machine.execMarkerRunSeen p lanes s
  | .markerCheck p words => Sys2Proof.Machine.execMarkerCheck p words s
  | .wakeHoldEnd p => Sys2Proof.Machine.execWakeHoldEnd p s
  | .alignRerun p => Sys2Proof.Machine.execAlignRerun p s
  | .alignResult p => Sys2Proof.Machine.execAlignResult p s
  | .paramResend p => Sys2Proof.Machine.execParamResend p s
  | .paramTimeout p => Sys2Proof.Machine.execParamTimeout p s
  | .paramFolio p lanes => Sys2Proof.Machine.execParamFolio p lanes s
  | .dataFolio p lanes => Sys2Proof.Machine.execDataFolio p lanes s
  | .nullFolio p lanes => Sys2Proof.Machine.execNullFolio p lanes s
  | .nakFolio p lanes => Sys2Proof.Machine.execNakFolio p lanes s
  | .rplyFolio p lanes => Sys2Proof.Machine.execRplyFolio p lanes s
  | .idleFolio p lanes => Sys2Proof.Machine.execIdleFolio p lanes s
  | .nakResend p => Sys2Proof.Machine.execNakResend p s
  | .ackTimeout p => Sys2Proof.Machine.execAckTimeout p s
  | .leanQualified p ber => Sys2Proof.Machine.execLeanQualified p ber s
  | .creditPeriod p => Sys2Proof.Machine.execCreditPeriod p s
  | .idleEntry p => Sys2Proof.Machine.execIdleEntry p s
  | .idleExitRequest p => Sys2Proof.Machine.execIdleExitRequest p s
  | .burstReceived p => Sys2Proof.Machine.execBurstReceived p s
  | .idleExitFailure p => Sys2Proof.Machine.execIdleExitFailure p s
  | .reopenDeadline p => Sys2Proof.Machine.execReopenDeadline p s
  | .timeMarkSend p => Sys2Proof.Machine.execTimeMarkSend p s
  | .timeMark p => Sys2Proof.Machine.execTimeMark p s
  | .timeEcho p => Sys2Proof.Machine.execTimeEcho p s
  | .tsSyncEdge => Sys2Proof.Machine.execTsSyncEdge s
  | .tsSyncLoss => Sys2Proof.Machine.execTsSyncLoss s
  | .tsPps => Sys2Proof.Machine.execTsPps s
  | .chartFetch e mer => Sys2Proof.Machine.execChartFetch e mer s
  | .hostReadResponse e outcome data => Sys2Proof.Machine.execHostReadResponse e outcome data s
  | .chartTimeout e => Sys2Proof.Machine.execChartTimeout e s
  | .endChart e => Sys2Proof.Machine.execEndChart e s
  | .bCc e => Sys2Proof.Machine.execBCc e s
  | .wait e => Sys2Proof.Machine.execWait e s
  | .waitExpiry e => Sys2Proof.Machine.execWaitExpiry e s
  | .time e => Sys2Proof.Machine.execTime e s
  | .rdcs e => Sys2Proof.Machine.execRdcs e s
  | .fail e => Sys2Proof.Machine.execFail e s
  | .add e => Sys2Proof.Machine.execAdd e s
  | .sub e => Sys2Proof.Machine.execSub e s
  | .and e => Sys2Proof.Machine.execAnd e s
  | .or e => Sys2Proof.Machine.execOr e s
  | .xor e => Sys2Proof.Machine.execXor e s
  | .shl e => Sys2Proof.Machine.execShl e s
  | .shr e => Sys2Proof.Machine.execShr e s
  | .sar e => Sys2Proof.Machine.execSar e s
  | .cmp e => Sys2Proof.Machine.execCmp e s
  | .tst e => Sys2Proof.Machine.execTst e s
  | .mul e => Sys2Proof.Machine.execMul e s
  | .ext e => Sys2Proof.Machine.execExt e s
  | .ins e => Sys2Proof.Machine.execIns e s
  | .li e => Sys2Proof.Machine.execLi e s
  | .lih e => Sys2Proof.Machine.execLih e s
  | .ld e ue => Sys2Proof.Machine.execLd e ue s
  | .st e => Sys2Proof.Machine.execSt e s
  | .hld e => Sys2Proof.Machine.execHld e s
  | .hst e => Sys2Proof.Machine.execHst e s
  | .hget e => Sys2Proof.Machine.execHget e s
  | .hput e ue => Sys2Proof.Machine.execHput e ue s
  | .trd e => Sys2Proof.Machine.execTrd e s
  | .twr e => Sys2Proof.Machine.execTwr e s
  | .tclr e => Sys2Proof.Machine.execTclr e s
  | .commit e => Sys2Proof.Machine.execCommit e s
  | .commitJudgement => Sys2Proof.Machine.execCommitJudgement s
  | .commitFlip => Sys2Proof.Machine.execCommitFlip s
  | .abort e => Sys2Proof.Machine.execAbort e s
  | .epoch e => Sys2Proof.Machine.execEpoch e s
  | .drain e => Sys2Proof.Machine.execDrain e s
  | .drainTimeout e => Sys2Proof.Machine.execDrainTimeout e s
  | .claim e => Sys2Proof.Machine.execClaim e s
  | .unclaim e => Sys2Proof.Machine.execUnclaim e s
  | .qclaim e => Sys2Proof.Machine.execQclaim e s
  | .merStewardHold e => Sys2Proof.Machine.execMerStewardHold e s
  | .merStewardRelease e => Sys2Proof.Machine.execMerStewardRelease e s
  | .merStewardReset e => Sys2Proof.Machine.execMerStewardReset e s
  | .merLegend e => Sys2Proof.Machine.execMerLegend e s
  | .merResetChip e => Sys2Proof.Machine.execMerResetChip e s
  | .merResetTile e => Sys2Proof.Machine.execMerResetTile e s
  | .merResetPort e => Sys2Proof.Machine.execMerResetPort e s
  | .portConfig e => Sys2Proof.Machine.execPortConfig e s
  | .portRetrain e => Sys2Proof.Machine.execPortRetrain e s
  | .portStatus e => Sys2Proof.Machine.execPortStatus e s
  | .laneSet e => Sys2Proof.Machine.execLaneSet e s
  | .laneSlip e rx => Sys2Proof.Machine.execLaneSlip e rx s
  | .laneAlign e rx => Sys2Proof.Machine.execLaneAlign e rx s
  | .laneEye e errs => Sys2Proof.Machine.execLaneEye e errs s
  | .laneStat e => Sys2Proof.Machine.execLaneStat e s
  | .islRetrain e => Sys2Proof.Machine.execIslRetrain e s
  | .islChip e => Sys2Proof.Machine.execIslChip e s
  | .bindVcs e => Sys2Proof.Machine.execBindVcs e s
  | .bindVppb e => Sys2Proof.Machine.execBindVppb e s
  | .bindUnvppb e => Sys2Proof.Machine.execBindUnvppb e s
  | .bindPld e => Sys2Proof.Machine.execBindPld e s
  | .bindAdd e => Sys2Proof.Machine.execBindAdd e s
  | .bindRelease e => Sys2Proof.Machine.execBindRelease e s
  | .bindGfam e => Sys2Proof.Machine.execBindGfam e s
  | .bindPid e => Sys2Proof.Machine.execBindPid e s
  | .cohDomain e => Sys2Proof.Machine.execCohDomain e s
  | .cohAgentAdd e => Sys2Proof.Machine.execCohAgentAdd e s
  | .cohAgentRemove e => Sys2Proof.Machine.execCohAgentRemove e s
  | .cohRegionShare e => Sys2Proof.Machine.execCohRegionShare e s
  | .cohRegionRelease e => Sys2Proof.Machine.execCohRegionRelease e s
  | .cohLookup e => Sys2Proof.Machine.execCohLookup e s
  | .qosPort e => Sys2Proof.Machine.execQosPort e s
  | .qosFlow e => Sys2Proof.Machine.execQosFlow e s
  | .fenceSet e => Sys2Proof.Machine.execFenceSet e s
  | .fenceClear e => Sys2Proof.Machine.execFenceClear e s
  | .slotConfig e => Sys2Proof.Machine.execSlotConfig e s
  | .slotMap e => Sys2Proof.Machine.execSlotMap e s
  | .slotOn e adc => Sys2Proof.Machine.execSlotOn e adc s
  | .slotOnTimeout e => Sys2Proof.Machine.execSlotOnTimeout e s
  | .slotOff e => Sys2Proof.Machine.execSlotOff e s
  | .slotStatus e adc => Sys2Proof.Machine.execSlotStatus e adc s
  | .surveyRun e => Sys2Proof.Machine.execSurveyRun e s
  | .surveyDetach e => Sys2Proof.Machine.execSurveyDetach e s
  | .surveyRecord e => Sys2Proof.Machine.execSurveyRecord e s
  | .evtRoute e => Sys2Proof.Machine.execEvtRoute e s
  | .evtMetric e => Sys2Proof.Machine.execEvtMetric e s
  | .evtPost e => Sys2Proof.Machine.execEvtPost e s
  | .evtTimer e => Sys2Proof.Machine.execEvtTimer e s
  | .perfArm e => Sys2Proof.Machine.execPerfArm e s
  | .perfDump e => Sys2Proof.Machine.execPerfDump e s
  | .perfGrant e => Sys2Proof.Machine.execPerfGrant e s
  | .perfRead e => Sys2Proof.Machine.execPerfRead e s
  | .perfTrace e => Sys2Proof.Machine.execPerfTrace e s
  | .vfEnable e => Sys2Proof.Machine.execVfEnable e s
  | .vfFrost e => Sys2Proof.Machine.execVfFrost e s
  | .vfSave e => Sys2Proof.Machine.execVfSave e s
  | .vfRestore e => Sys2Proof.Machine.execVfRestore e s
  | .vfThaw e => Sys2Proof.Machine.execVfThaw e s
  | .vfReset e => Sys2Proof.Machine.execVfReset e s
  | .moverRun e => Sys2Proof.Machine.execMoverRun e s
  | .moverPost e => Sys2Proof.Machine.execMoverPost e s
  | .moverWait e => Sys2Proof.Machine.execMoverWait e s
  | .moverTake m => Sys2Proof.Machine.execMoverTake m s
  | .moverLineIssue m => Sys2Proof.Machine.execMoverLineIssue m s
  | .descriptorComplete slot => Sys2Proof.Machine.execDescriptorComplete slot s
  | .tileProfile e => Sys2Proof.Machine.execTileProfile e s
  | .tileFrost e => Sys2Proof.Machine.execTileFrost e s
  | .frostDrainComplete t => Sys2Proof.Machine.execFrostDrainComplete t s
  | .frostBoundExpiry t => Sys2Proof.Machine.execFrostBoundExpiry t s
  | .tileThaw e => Sys2Proof.Machine.execTileThaw e s
  | .tilePowerDown e => Sys2Proof.Machine.execTilePowerDown e s
  | .tilePowerUp e => Sys2Proof.Machine.execTilePowerUp e s
  | .powerUpComplete t => Sys2Proof.Machine.execPowerUpComplete t s
  | .tileReset e => Sys2Proof.Machine.execTileReset e s
  | .enginePause => Sys2Proof.Machine.execEnginePause s
  | .engineResume => Sys2Proof.Machine.execEngineResume s
  | .cmdTail f j v => Sys2Proof.Machine.execCmdTail f j v s
  | .cplHead f j v => Sys2Proof.Machine.execCplHead f j v s
  | .eqHead q v => Sys2Proof.Machine.execEqHead q v s
  | .ringEnable f j => Sys2Proof.Machine.execRingEnable f j s
  | .ringDisable f j => Sys2Proof.Machine.execRingDisable f j s
  | .vfEnableSet p => Sys2Proof.Machine.execVfEnableSet p s
  | .vfEnableClear p => Sys2Proof.Machine.execVfEnableClear p s
  | .vfFlr v => Sys2Proof.Machine.execVfFlr v s
  | .pf0Flr p => Sys2Proof.Machine.execPf0Flr p s
  | .eqEnable q => Sys2Proof.Machine.execEqEnable q s
  | .eqDisable q => Sys2Proof.Machine.execEqDisable q s
  | .ovfClear q => Sys2Proof.Machine.execOvfClear q s
  | .faultClear q => Sys2Proof.Machine.execFaultClear q s
  | .msixUnmask f vec => Sys2Proof.Machine.execMsixUnmask f vec s
  | .mmioBad f off read => Sys2Proof.Machine.execMmioBad f off read s
  | .registerWrite t v => Sys2Proof.Machine.execRegisterWrite t v s
  | .stewardCoreAccess c addr store len answer => Sys2Proof.Machine.execStewardCoreAccess c addr store len answer s
  | .eventRecordWrite q => Sys2Proof.Machine.execEventRecordWrite q s
  | .rateWindowEnd esid subj q => Sys2Proof.Machine.execRateWindowEnd esid subj q s
  | .interruptModerationTimeout q => Sys2Proof.Machine.execInterruptModerationTimeout q s
  | .almanacPeriodicWrite slot => Sys2Proof.Machine.execAlmanacPeriodicWrite slot s
  | .gaugeSample g subj reading => Sys2Proof.Machine.execGaugeSample g subj reading s
  | .timerExpired t => Sys2Proof.Machine.execTimerExpired t s
  | .timerPulseEnd t => Sys2Proof.Machine.execTimerPulseEnd t s
  | .counterTick => Sys2Proof.Machine.execCounterTick s
  | .bwWindowEnd p n => Sys2Proof.Machine.execBwWindowEnd p n s
  | .dumpBlockComplete => Sys2Proof.Machine.execDumpBlockComplete s
  | .traceRecordWrite t => Sys2Proof.Machine.execTraceRecordWrite t s
  | .ledFrame => Sys2Proof.Machine.execLedFrame s
  | .presence p => Sys2Proof.Machine.execPresence p s
  | .presenceAbsent p => Sys2Proof.Machine.execPresenceAbsent p s
  | .surveyStart p => Sys2Proof.Machine.execSurveyStart p s
  | .surveyStepComplete p r => Sys2Proof.Machine.execSurveyStepComplete p r s
  | .surveyPerstRelease p => Sys2Proof.Machine.execSurveyPerstRelease p s
  | .surveyStepTimeout p => Sys2Proof.Machine.execSurveyStepTimeout p s
  | .attention p => Sys2Proof.Machine.execAttention p s
  | .attentionDetachStart p => Sys2Proof.Machine.execAttentionDetachStart p s
  | .detachTimeout p => Sys2Proof.Machine.execDetachTimeout p s
  | .partnerLost p => Sys2Proof.Machine.execPartnerLost p s
  | .feedValid c feed dv above => Sys2Proof.Machine.execFeedValid c feed dv above s
  | .feedInvalid c feed dv => Sys2Proof.Machine.execFeedInvalid c feed dv s
  | .reverse c feed => Sys2Proof.Machine.execReverse c feed s
  | .rampDone c vds => Sys2Proof.Machine.execRampDone c vds s
  | .slotPg c adc vds => Sys2Proof.Machine.execSlotPg c adc vds s
  | .voutLow c dv => Sys2Proof.Machine.execVoutLow c dv s
  | .limitTimerExpiry c => Sys2Proof.Machine.execLimitTimerExpiry c s
  | .limitCountReset c => Sys2Proof.Machine.execLimitCountReset c s
  | .severeOvercurrent c isense => Sys2Proof.Machine.execSevereOvercurrent c isense s
  | .enLowOff c => Sys2Proof.Machine.execEnLowOff c s
  | .enLowLatchClear c => Sys2Proof.Machine.execEnLowLatchClear c s
  | .enHigh c => Sys2Proof.Machine.execEnHigh c s
  | .handoverConfirmed c => Sys2Proof.Machine.execHandoverConfirmed c s
  | .handback c => Sys2Proof.Machine.execHandback c s
  | .slotSettingsApply c => Sys2Proof.Machine.execSlotSettingsApply c s
  | .vddPcdUndervoltage => Sys2Proof.Machine.execVddPcdUndervoltage s
  | .thermtrip => Sys2Proof.Machine.execThermtrip s
  | .vddAoPowerOn => Sys2Proof.Machine.execVddAoPowerOn s
  | .maskRomCheck => Sys2Proof.Machine.execMaskRomCheck s
  | .coldReset => Sys2Proof.Machine.execColdReset s
  | .pwrOkRise => Sys2Proof.Machine.execPwrOkRise s
  | .strapLatch levels => Sys2Proof.Machine.execStrapLatch levels s
  | .hbmTrained => Sys2Proof.Machine.execHbmTrained s
  | .stewardImageVerified => Sys2Proof.Machine.execStewardImageVerified s
  | .settingsApplied => Sys2Proof.Machine.execSettingsApplied s
  | .fabricReady => Sys2Proof.Machine.execFabricReady s
  | .holdBootTimeout => Sys2Proof.Machine.execHoldBootTimeout s
  | .warmReset => Sys2Proof.Machine.execWarmReset s
  | .warmResetEnd => Sys2Proof.Machine.execWarmResetEnd s
  | .meridianWatchdog => Sys2Proof.Machine.execMeridianWatchdog s
  | .portResetEnd p => Sys2Proof.Machine.execPortResetEnd p s
  | .measurementReport => Sys2Proof.Machine.execMeasurementReport s
  | .ready => Sys2Proof.Machine.execReady s
  | .handoverTimeout => Sys2Proof.Machine.execHandoverTimeout s
  | .fwStagingTimeout => Sys2Proof.Machine.execFwStagingTimeout s
  | .spdmHeartbeatTimeout sess => Sys2Proof.Machine.execSpdmHeartbeatTimeout sess s
  | .setEndpointId src eid => Sys2Proof.Machine.execSetEndpointId src eid s
  | .getEndpointId src => Sys2Proof.Machine.execGetEndpointId src s
  | .getEndpointUuid src => Sys2Proof.Machine.execGetEndpointUuid src s
  | .getMctpVersionSupport src => Sys2Proof.Machine.execGetMctpVersionSupport src s
  | .getMessageTypeSupport src => Sys2Proof.Machine.execGetMessageTypeSupport src s
  | .getVendorDefinedMessageSupport src => Sys2Proof.Machine.execGetVendorDefinedMessageSupport src s
  | .mctpDiscard src typ len => Sys2Proof.Machine.execMctpDiscard src typ len s
  | .chart src tag entry words => Sys2Proof.Machine.execChart src tag entry words s
  | .partner src tag p => Sys2Proof.Machine.execPartner src tag p s
  | .almanac src tag slot => Sys2Proof.Machine.execAlmanac src tag slot s
  | .legend src tag => Sys2Proof.Machine.execLegend src tag s
  | .admitRead src tag => Sys2Proof.Machine.execAdmitRead src tag s
  | .admitWrite src tag mask => Sys2Proof.Machine.execAdmitWrite src tag mask s
  | .fwBegin src tag cart => Sys2Proof.Machine.execFwBegin src tag cart s
  | .fwData src tag off data => Sys2Proof.Machine.execFwData src tag off data s
  | .fwEnd src tag => Sys2Proof.Machine.execFwEnd src tag s
  | .fwActivateLive src tag ms => Sys2Proof.Machine.execFwActivateLive src tag ms s
  | .fwActivatePreferred src tag => Sys2Proof.Machine.execFwActivatePreferred src tag s
  | .challenge src tag => Sys2Proof.Machine.execChallenge src tag s
  | .transfer src tag tok => Sys2Proof.Machine.execTransfer src tag tok s
  | .release src tag tok => Sys2Proof.Machine.execRelease src tag tok s
  | .keySet src tag tok => Sys2Proof.Machine.execKeySet src tag tok s
  | .anchorSet src tag tok => Sys2Proof.Machine.execAnchorSet src tag tok s
  | .policy src tag tok => Sys2Proof.Machine.execPolicy src tag tok s
  | .lockSet src tag tok => Sys2Proof.Machine.execLockSet src tag tok s
  | .svnRaise src tag tok => Sys2Proof.Machine.execSvnRaise src tag tok s
  | .fieldLock src tag tok => Sys2Proof.Machine.execFieldLock src tag tok s
  | .steward src tag body => Sys2Proof.Machine.execSteward src tag body s
  | .getVersion via => Sys2Proof.Machine.execGetVersion via s
  | .getCapabilities via => Sys2Proof.Machine.execGetCapabilities via s
  | .negotiateAlgorithms via => Sys2Proof.Machine.execNegotiateAlgorithms via s
  | .getDigests via => Sys2Proof.Machine.execGetDigests via s
  | .getCertificate via slot => Sys2Proof.Machine.execGetCertificate via slot s
  | .spdmChallenge via nonce => Sys2Proof.Machine.execSpdmChallenge via nonce s
  | .getMeasurements via idx => Sys2Proof.Machine.execGetMeasurements via idx s
  | .keyExchange via peer root => Sys2Proof.Machine.execKeyExchange via peer root s
  | .heartbeat sess => Sys2Proof.Machine.execHeartbeat sess s
  | .keyUpdate sess => Sys2Proof.Machine.execKeyUpdate sess s
  | .endSession sess => Sys2Proof.Machine.execEndSession sess s
  | .bypass => Sys2Proof.Machine.execBypass s
  | .idcode => Sys2Proof.Machine.execIdcode s
  | .samplePreload pins preload => Sys2Proof.Machine.execSamplePreload pins preload s
  | .extest v => Sys2Proof.Machine.execExtest v s
  | .tapChallenge => Sys2Proof.Machine.execTapChallenge s
  | .tapToken tok => Sys2Proof.Machine.execTapToken tok s
  | .unlockTokenVerdict => Sys2Proof.Machine.execUnlockTokenVerdict s
  | .accessRead space nwords q answer data => Sys2Proof.Machine.execAccessRead space nwords q answer data s
  | .accessWrite space nwords q data => Sys2Proof.Machine.execAccessWrite space nwords q data s
  | .core addr wr v => Sys2Proof.Machine.execCore addr wr v s
  | .tapClose => Sys2Proof.Machine.execTapClose s
  | .scopeLifetimeEnd => Sys2Proof.Machine.execScopeLifetimeEnd s
  | .recoveryEntry p sub => Sys2Proof.Machine.execRecoveryEntry p sub s
  | .returnToL0 p rate width => Sys2Proof.Machine.execReturnToL0 p rate width s
  | .lowPowerEntry p kind lanes => Sys2Proof.Machine.execLowPowerEntry p kind lanes s
  | .lowPowerExit p => Sys2Proof.Machine.execLowPowerExit p s
  | .chkLock l rx => Sys2Proof.Machine.execChkLock l rx s
  | .lockLoss l rx => Sys2Proof.Machine.execLockLoss l rx s
  | .slotLimit c isense vds => Sys2Proof.Machine.execSlotLimit c isense vds s
  | .vfFrostTimeout v => Sys2Proof.Machine.execVfFrostTimeout v s
  | .meridianRestart => Sys2Proof.Machine.execMeridianRestart s
  | .entdaa addr => Sys2Proof.Machine.execEntdaa addr s
  | .folioTransmit p => Sys2Proof.Machine.execFolioTransmit p s
  | .ideKeyManagement p stream ok => Sys2Proof.Machine.execIdeKeyManagement p stream ok s

end Sys2Proof.Machine
end

