-- ==== Sys2Proof/Machine/Idle.lean ====
section
/-! DEFINITION. What happens in a nanosecond in which no command comes: the clock and the timestamp counter advance (R468, R469). -/
namespace Sys2Proof.Machine

/-- The slew due in the nanosecond that ends at clock c: at most 1 ns for each µs, away from what remains (R469). -/
def slewDue (c : Nat) (slew : Int) : Int :=
  if c % 1000 ≠ 0 then 0 else if 0 < slew then 1 else if slew < 0 then -1 else 0

/-- One idle nanosecond (assumption log 2): TS counts 1 ns, slewed, from the rise of PWR_OK on, and never decreases (R468, R470). -/
def idleTick (s : State) : State :=
  if s.boot.pwrOk then
    { s with clock := s.clock + 1, ts := (s.ts + 1 + slewDue (s.clock + 1) s.tsync.slew).toNat
             tsync := { s.tsync with slew := s.tsync.slew - slewDue (s.clock + 1) s.tsync.slew } }
  else { s with clock := s.clock + 1 }

end Sys2Proof.Machine
end

