-- ==== Sys2Proof/WellFormed.lean ====
section
/-! DEFINITION. Which commands are well formed: the lengths that their byte strings have on the way into the block. Every other operand is bounded by its type. -/
namespace Sys2Proof

/-- A message names at most 4,096 bytes, and carries at most 4,096 (Table 4.6). -/
def wfMsg (m : Msg) : Bool := decide (m.len.toNat ≤ 4096) && decide (m.data.length ≤ 4096)

/-- What a port's lanes receive has n symbols on each lane (R90, R92). -/
def wfLanes (n : Nat) (lanes : List (List Level)) : Bool := decide (lanes.length ≤ 16) && lanes.all fun l => decide (l.length = n)

/-- A management token is a header of 56 bytes, its body and a signature of 132 bytes (R436). -/
def wfToken (t : List Byte) : Bool := decide (188 ≤ t.length) && decide (t.length ≤ 8192)

/-- An optional byte string has at most n bytes. -/
def wfUpTo (n : Nat) (bs : List Byte) : Bool := decide (bs.length ≤ n)

/-- The commands whose operands meet the bounds that the spec gives and their types do not. -/
def Instr.wellFormed : Instr → Bool
  | .headerLookup _ m => wfMsg m
  | .memInv _ _ m => wfMsg m
  | .macEpochCheck _ _ ms => ms.all wfMsg
  | .cutThroughUnit _ _ _ d _ _ => wfUpTo 64 d
  | .proxySnoopAnswer _ _ _ d => d.all (wfUpTo 64)
  | .dataFwd _ _ _ d => wfUpTo 64 d
  | .paramFolio _ lanes => wfLanes 512 lanes
  | .dataFolio _ lanes => wfLanes 512 lanes
  | .nullFolio _ lanes => wfLanes 512 lanes
  | .nakFolio _ lanes => wfLanes 512 lanes
  | .rplyFolio _ lanes => wfLanes 512 lanes
  | .idleFolio _ lanes => wfLanes 512 lanes
  | .markerRunSeen _ lanes => wfLanes 512 lanes
  | .markerCheck _ words => wfLanes 64 words
  | .laneSlip _ rx => decide (rx.length = 128)
  | .laneAlign _ rx => wfLanes 128 rx
  | .chkLock _ rx => decide (rx.length ≤ 512)
  | .lockLoss _ rx => decide (rx.length ≤ 512)
  | .chart _ _ entry words => decide (entry.length = 8) && decide (words.length ≤ 8192)
  | .stewardCoreAccess _ _ o _ _ => o.all (wfUpTo 64)
  | .fwBegin _ _ cart => decide (cart.length = 256)
  | .fwData _ _ _ d => decide (1 ≤ d.length) && wfUpTo 4096 d
  | .transfer _ _ t => wfToken t
  | .release _ _ t => wfToken t
  | .keySet _ _ t => wfToken t
  | .anchorSet _ _ t => wfToken t
  | .policy _ _ t => wfToken t
  | .lockSet _ _ t => wfToken t
  | .svnRaise _ _ t => wfToken t
  | .fieldLock _ _ t => wfToken t
  | .steward _ _ b => decide (1 ≤ b.length) && wfUpTo 8192 b
  | .spdmChallenge _ n => decide (n.length = 32)
  | .tapToken t => decide (t.length = 196)
  | .accessRead _ n _ _ d => decide (n.toNat ≤ 32) && wfUpTo 128 d
  | .accessWrite _ n _ d => decide (n.toNat ≤ 32) && wfUpTo 128 d
  | _ => true

end Sys2Proof
end

