-- ==== Sys2Proof/Safety.lean ====
section
/-! DEFINITION. What the claims speak of: the canonical form of the stores, the reach of a run, and what a command may leave behind. -/
namespace Sys2Proof.Machine

/-- The canonical form of the HBM: addresses strictly rising, no entry equal to the 0 that an unlisted byte reads as. -/
abbrev Memory.wf (m : List Host.Cell) : Bool := smWf (fun _ => (0 : Byte)) m

/-- The canonical form of the committed tables: keys strictly rising, no entry that equals its reset value. -/
abbrev Tables.wf (m : SMap TEntry) : Bool := smWf entryReset m

/-- The canonical form of the claims table. -/
abbrev Claims.wf (m : SMap Nat) : Bool := smWf (fun _ => (0xFFFF : Nat)) m

/-- The canonical form of the engines' store. -/
abbrev Engines.wf (m : SMap Engine) : Bool := smWf (fun _ => ({} : Engine)) m

/-- The addressed stores of the block are in canonical form. -/
abbrev Canonical (s : State) : Prop := Memory.wf s.hbm = true ∧ Tables.wf s.tab = true ∧ Claims.wf s.claims = true ∧ Engines.wf s.engines = true

/-- A step that goes on. -/
def Goes (s t : State) : Prop := step s = .next t

/-- The command answers a next state, and P holds of that state. -/
def Does (c : Instr) (s : State) (P : State → Prop) : Prop := ∃ t, exec c s = .next t ∧ P t

/-- Engine e stands at an instruction of this opcode that nothing ends before it executes: the chart is within its time (R252) and the
word breaks no rule on unused bits (R269). -/
abbrev Stands (s : State) (e op : Nat) : Prop :=
  atOp s e op = true ∧ overTime s (engineOf s e) = false ∧ badUnused (wordAt (engineOf s e)) = false

/-- As Stands, and another instruction follows (R252). -/
abbrev Runs (s : State) (e op : Nat) : Prop := Stands s e op ∧ (engineOf s e).pc + 1 < (engineOf s e).ninstr

/-- As Runs, for a macro that is not yet under way and whose own checks on engine, block and drafts pass (R286, R257). -/
abbrev Begins (s : State) (e op : Nat) (masks : List Nat) (flags : Nat) (eng : MacroEng) (seqd : Bool) : Prop :=
  Runs s e op ∧ (engineOf s e).seq = 0 ∧ macroStatus s e (engineOf s e) (wordAt (engineOf s e)) masks flags eng seqd = 0

/-- Going on to the next instruction: the PC moves by one, and the time of the boundary is noted, which pauses and TLIM count from (R252). -/
def moveOn (s : State) (e : Nat) (x : Engine) : State := setEngine s e { x with pc := x.pc + 1, wait := .run, boundary := s.clock }

/-- As moveOn, with STATUS OK recorded (R251). -/
def moveOk (s : State) (e : Nat) (x : Engine) : State := setEngine s e { x with status := 0, seq := 0, pc := x.pc + 1, wait := .run, boundary := s.clock }

/-- The conditions under which the masked bits of an entry may be drafted, in the order in which they are judged (R26, R254, R168, R439, R280, R82): the
entry is in the engine's scope, no other chart holds it reserved, no plane drains under it, no lock group holds the bits, no reserved encoding results,
the claims it needs are held, and the chart has room for one more of 512 entries. -/
abbrev Draftable (s : State) (e : Nat) (x : Engine) (t i : Nat) (v mask : Entry) : Prop :=
  outOfScope s e t i mask = false ∧ reservedElsewhere s e (tkey t i) = false ∧
  ¬((t = 0x08 ∨ t = 0x09) ∧ tabFld s 0x0A (i / (if t = 0x08 then 2304 else 48)) 1 1 = 1) ∧
  mask &&& lockedMask s.fieldLock t = 0 ∧
  hasReserved t i (merge (seenVal s x t i) v mask) (mask ||| unionMask ((fields t).filter fun f => fldMask f &&& mask ≠ 0)) = false ∧
  resourceCheck s x.sub t i (merge (seenVal s x t i) v mask) mask = 0 ∧
  ((draftOf x (tkey t i)).isSome = true ∨ x.drafts.length < 512)

/-- The command drafts the masked bits of entry i of table t and its chart moves on OK, wherever they may be drafted. -/
def Drafts (c : Instr) (s : State) (e t i : Nat) (v mask : Entry) : Prop :=
  Draftable s e (regSet (engineOf s e) 1 0) t i v mask → exec c s = .next (moveOk s e (putDraft s (regSet (engineOf s e) 1 0) t i v mask))

/-- As Draftable, with the value rules of the table too, judged by the engine y that has read what they read (R27, R183, R279, R280). -/
abbrev RuledDraftable (s : State) (e : Nat) (y : Engine) (t i : Nat) (v mask : Entry) : Prop :=
  belowBound s y t i v mask = false ∧ refusedValue s y t i (merge (seenVal s y t i) v mask) mask = false ∧ Draftable s e y t i v mask

/-- A chart's access of n bytes that leaves the device by its master m, toward address q of a space (Table 15.3): unfenced (R37, R365). -/
def Passes (s : State) (x : Engine) (a n : Nat) (wr : Bool) (m space q : Nat) : Prop :=
  x.subReset = false ∧ subPath s x.sub x.master a n = .ext m space q ∧ (judgeAccess s m ⟨space, q, n, !wr, wr⟩).1 = 0

/-- Engine e's reads of n words there: one non-posted CXL.io access for each piece within 4 KiB, from the engine's endpoint toward the port,
in the flow of its submitter, marked with its chart (R57, R132, R147). -/
def asks (s : State) (e : Nat) (x : Engine) (m space q n : Nat) : State :=
  (pieces 0 q (8 * n) (n / 512 + 2)).foldl (fun s c =>
    sendOut s (engineEp e) (accessPort m space q) 0 (subFlow s x.sub) c.2.2 false x.serial (.hostRead e m c.2.1 (c.2.2 / 8))) s

/-- Engine e's posted writes of bytes there, cut and sent likewise. -/
def sends (s : State) (e : Nat) (x : Engine) (m space q : Nat) (bs : List Byte) : State :=
  (pieces 0 q bs.length (bs.length / 4096 + 2)).foldl (fun s c =>
    sendOut s (engineEp e) (accessPort m space q) 0 (subFlow s x.sub) c.2.2 true 0 (.hostWrite m c.2.1 (slice bs c.1 c.2.2))) s

/-- A chart's access of n bytes that a fence or lock region of its master denies, with the status it gives (R276, R365). -/
abbrev Denied (s : State) (x : Engine) (a n : Nat) (wr : Bool) (m st : Nat) (acc : Access) : Prop :=
  x.subReset = false ∧ subPath s x.sub x.master a n = .ext m acc.space acc.q ∧ acc.len = n ∧ acc.rd = !wr ∧ acc.wr = wr ∧
    (judgeAccess s m acc).1 = st ∧ st ≠ 0

/-- A Steward chart's access of n bytes to an HBM partition that its core reaches (R440). -/
abbrev InHbm (s : State) (x : Engine) (a n h : Nat) : Prop := x.subReset = false ∧ subPath s x.sub x.master a n = .hbm h

end Sys2Proof.Machine
end

