-- ==== Sys2Proof/Certificates/Slice0/Obligations.lean ====
section
/-! DEFINITION. The statements for the provers, one proposition each; OBLIGATIONS.json lists them. -/
open Sys2Proof Sys2Proof.Machine

/-- A step on a queue with a command in front is exec of that command on the state with the queue's rest. (95_what_each_step_holds.md;
00_scope.md R14) -/
def Obligations.StepRunsTheFrontCommand : Prop :=
  ∀ (c : Instr) (q : List Instr) (s : State), step { s with pending := c :: q } = exec c { s with pending := q }

/-- With no command waiting a step is one nanosecond: the clock advances by one, TS never falls, and a slew moves into TS at no more than 1 ns.
(19_reset_power_clocks.md R468; 19_reset_power_clocks.md R469; 19_reset_power_clocks.md R470) -/
def Obligations.IdleNanosecondCountsTimeForward : Prop :=
  ∀ s : State, s.pending = [] →
    ∃ t, step s = .next t ∧ t = { s with clock := s.clock + 1, ts := t.ts, tsync := { s.tsync with slew := t.tsync.slew } } ∧
      (s.boot.pwrOk = false → t.ts = s.ts ∧ t.tsync.slew = s.tsync.slew) ∧
      (s.boot.pwrOk = true → s.ts ≤ t.ts ∧ t.ts ≤ s.ts + 2 ∧ (t.ts : Int) + t.tsync.slew = s.ts + 1 + s.tsync.slew ∧
        ((s.clock + 1) % 1000 ≠ 0 → t.tsync.slew = s.tsync.slew))

/-- At reset the addressed stores (HBM, tables, claims, engines) are in canonical form. (10_chart_engines.md R263; 11_chart_instructions.md
R278; 00_scope.md R5) -/
def Obligations.ResetStoresAreCanonical : Prop := Canonical State.reset

/-- Every step, of every command or of an idle nanosecond, keeps the addressed stores in canonical form. (10_chart_engines.md R263;
11_chart_instructions.md R278; 00_scope.md R5) -/
def Obligations.EveryStepKeepsTheStoresCanonical : Prop := ∀ s t : State, Canonical s → Goes s t → Canonical t

/-- No command changes the queue of waiting commands or the clock; only an idle nanosecond moves time. (95_what_each_step_holds.md;
19_reset_power_clocks.md R468) -/
def Obligations.CommandsLeaveQueueAndClock : Prop :=
  ∀ (c : Instr) (s t : State), exec c s = .next t → t.pending = s.pending ∧ t.clock = s.clock

/-- No step lets a rollback counter fall. (18_meridian_firmware.md R428) -/
def Obligations.RollbackCountersNeverFall : Prop := ∀ s t : State, Goes s t → s.sec.svn1 ≤ t.sec.svn1 ∧ s.sec.svn2 ≤ t.sec.svn2

/-- Every step answers a next state: no command and no data end a run in a fault or a refusal. (00_scope.md R14) -/
def Obligations.NoCommandStopsTheMachine : Prop := ∀ s : State, ∃ t, Goes s t

/-- ADD, SUB and CMP: C is carry out, or no borrow; V is signed overflow; Z and N are those of the result. (11_chart_instructions.md R271) -/
def Obligations.ArithmeticFlagsSayCarryAndOverflow : Prop :=
  ∀ (x : Engine) (a b : Word),
    ((addFlags x a b).flagC = true ↔ (a + b).toNat ≠ a.toNat + b.toNat) ∧
    ((addFlags x a b).flagV = true ↔ (a + b).toInt ≠ a.toInt + b.toInt) ∧
    ((addFlags x a b).flagZ = true ↔ a + b = 0) ∧ ((addFlags x a b).flagN = true ↔ (a + b).toInt < 0) ∧
    ((subFlags x a b).flagC = true ↔ b.toNat ≤ a.toNat) ∧
    ((subFlags x a b).flagV = true ↔ (a - b).toInt ≠ a.toInt - b.toInt) ∧
    ((subFlags x a b).flagZ = true ↔ a = b) ∧ ((subFlags x a b).flagN = true ↔ (a - b).toInt < 0) ∧
    (∀ f ∈ [addFlags x a b, subFlags x a b], { f with flagZ := x.flagZ, flagN := x.flagN, flagC := x.flagC, flagV := x.flagV } = x)

/-- After CMP of a and b the conditions of Table 11.2 say equal, unequal, signed and unsigned order. (11_chart_instructions.md R270;
11_chart_instructions.md R271) -/
def Obligations.ConditionsReadTheFlags : Prop :=
  ∀ (x : Engine) (a b : Word),
    condHolds (subFlags x a b) 0 = true ∧
    (condHolds (subFlags x a b) 1 = true ↔ a = b) ∧ (condHolds (subFlags x a b) 2 = true ↔ a ≠ b) ∧
    (condHolds (subFlags x a b) 3 = true ↔ a.toInt < b.toInt) ∧ (condHolds (subFlags x a b) 4 = true ↔ b.toInt ≤ a.toInt) ∧
    (condHolds (subFlags x a b) 5 = true ↔ a.toNat < b.toNat) ∧ (condHolds (subFlags x a b) 6 = true ↔ b.toNat ≤ a.toNat) ∧
    (condHolds (subFlags x a b) 7 = true ↔ a.toInt ≤ b.toInt) ∧ (condHolds (subFlags x a b) 8 = true ↔ b.toInt < a.toInt)

/-- ADD, SUB, AND, OR, XOR, SHL, SHR, SAR, CMP, TST, MUL: result, flags, PC, and nothing else. (11_chart_instructions.md R274;
11_chart_instructions.md R271; 11_chart_instructions.md Table 11.4) -/
def Obligations.ArithmeticAndLogicResults : Prop :=
  ∀ (e : EngineId) (s : State),
    let x := engineOf s e
    let w := wordAt x
    let a := regGet x (gaOf w)
    let b := regGet x (gbOf w) + wordOfInt (sext (immOf w) 16)
    let logic := fun r : Word => moveOn s e (regSet { x with flagZ := r == 0, flagN := r.msb, flagC := false, flagV := false } (gdOf w) r)
    (Runs s e 0x08 → exec (.add e) s = .next (moveOn s e (regSet (addFlags x a b) (gdOf w) (a + b)))) ∧
    (Runs s e 0x09 → exec (.sub e) s = .next (moveOn s e (regSet (subFlags x a b) (gdOf w) (a - b)))) ∧
    (Runs s e 0x0A → exec (.and e) s = .next (logic (a &&& b))) ∧
    (Runs s e 0x0B → exec (.or e) s = .next (logic (a ||| b))) ∧
    (Runs s e 0x0C → exec (.xor e) s = .next (logic (a ^^^ b))) ∧
    (Runs s e 0x0D → exec (.shl e) s = .next (logic (a <<< (b.toNat % 64)))) ∧
    (Runs s e 0x0E → exec (.shr e) s = .next (logic (a >>> (b.toNat % 64)))) ∧
    (Runs s e 0x0F → exec (.sar e) s = .next (logic (a.sshiftRight (b.toNat % 64)))) ∧
    (Runs s e 0x10 → exec (.cmp e) s = .next (moveOn s e (subFlags x a b))) ∧
    (Runs s e 0x11 → exec (.tst e) s = .next (moveOn s e
      { x with flagZ := (a &&& b) == 0, flagN := (a &&& b).msb, flagC := false, flagV := false })) ∧
    (Runs s e 0x12 → exec (.mul e) s = .next (logic (a * b)))

/-- EXT and INS move the bit field pos, w bit by bit; a field beyond bit 63 ends the chart INVALID. (11_chart_instructions.md R274;
11_chart_instructions.md Table 11.4) -/
def Obligations.BitFieldResults : Prop :=
  ∀ (e : EngineId) (s : State),
    let x := engineOf s e
    let w := wordAt x
    let a := regGet x (gaOf w)
    let pos := wfld w 0 6
    let wid := wfld w 6 6 + 1
    let gives := fun v : Word => moveOn s e (regSet { x with flagZ := v == 0, flagN := v.msb, flagC := false, flagV := false } (gdOf w) v)
    (Runs s e 0x13 → pos + wid ≤ 64 →
      ∃ v : Word, exec (.ext e) s = .next (gives v) ∧ ∀ k, k < 64 → v.getLsbD k = (decide (k < wid) && a.getLsbD (pos + k))) ∧
    (Runs s e 0x14 → pos + wid ≤ 64 →
      ∃ v : Word, exec (.ins e) s = .next (gives v) ∧
        ∀ k, k < 64 → v.getLsbD k = if pos ≤ k ∧ k < pos + wid then a.getLsbD (k - pos) else (regGet x (gdOf w)).getLsbD k) ∧
    (Stands s e 0x13 → 64 < pos + wid → exec (.ext e) s = .next (endChart s e 6 x.pc)) ∧
    (Stands s e 0x14 → 64 < pos + wid → exec (.ins e) s = .next (endChart s e 6 x.pc))

/-- TIME, RDCS, LI, LIH, EPOCH, LD and ST: the value moved, the PC, and nothing else. (11_chart_instructions.md Table 11.4;
11_chart_instructions.md Table 11.5; 11_chart_instructions.md R276; 11_chart_instructions.md Table 11.6; 10_chart_engines.md Table 10.5) -/
def Obligations.MovesAndChartMemory : Prop :=
  ∀ (e : EngineId) (s : State),
    let x := engineOf s e
    let w := wordAt x
    let gd := gdOf w
    let a := (regGet x (gaOf w) + wordOfInt (sext (immOf w) 16)).toNat
    (Runs s e 0x03 → exec (.time e) s = .next (moveOn s e (regSet x gd (BitVec.ofNat 64 s.ts)))) ∧
    (Runs s e 0x04 → exec (.rdcs e) s = .next (moveOn s e (regSet x gd (csOf x)))) ∧
    (Runs s e 0x18 → exec (.li e) s = .next (moveOn s e (regSet x gd (BitVec.ofNat 64 (wfld w 0 48))))) ∧
    (Runs s e 0x19 → exec (.lih e) s = .next (moveOn s e
      (regSet x gd (BitVec.ofNat 64 (wfld (regGet x gd) 0 48 + wfld w 0 16 * 2 ^ 48))))) ∧
    (Runs s e 0x35 → exec (.epoch e) s = .next (moveOn s e (regSet x gd (BitVec.ofNat 64 s.commitNum)))) ∧
    (Runs s e 0x20 → a % 8 = 0 → 0x8000 ≤ a → a + 8 ≤ 0x10000 →
      exec (.ld e false) s = .next (moveOk s e (regSet x gd (smGet 0 x.dmem ((a - 0x8000) / 8))))) ∧
    (Runs s e 0x21 → a % 8 = 0 → 0x8000 ≤ a → a + 8 ≤ 0x10000 →
      exec (.st e) s = .next (moveOk s e { x with dmem := smSet 0 x.dmem ((a - 0x8000) / 8) (regGet x (gbOf w)) })) ∧
    (∀ c ∈ [(Instr.ld e false, 0x20), (Instr.st e, 0x21)], Stands s e c.2 → (a % 8 ≠ 0 ∨ a < 0x8000 ∨ 0x10000 < a + 8) →
      exec c.1 s = .next (endChart (setEngine s e x) e 8 x.pc)) ∧
    (Stands s e 0x20 → exec (.ld e true) s = .next (endChart (setEngine s e x) e 8 x.pc))

/-- B.cc, WAIT and its expiry, END, FAIL, ABORT, the time limit: where the chart goes. (11_chart_instructions.md R270; 11_chart_instructions.md
R274; 10_chart_engines.md R252; 10_chart_engines.md R255) -/
def Obligations.FlowResults : Prop :=
  ∀ (e : EngineId) (s : State),
    let x := engineOf s e
    let w := wordAt x
    let dest := (x.pc : Int) + sext (wfld w 0 24) 24
    let total := (regGet x (gaOf w) + (regGet x (gbOf w) + wordOfInt (sext (immOf w) 16))).toInt
    (Runs s e 0x01 → wfld w 52 4 < 9 → condHolds x (wfld w 52 4) = false → exec (.bCc e) s = .next (moveOn s e x)) ∧
    (Stands s e 0x01 → wfld w 52 4 < 9 → condHolds x (wfld w 52 4) = true → 0 ≤ dest → dest ≤ x.ninstr - 1 →
      exec (.bCc e) s = .next (setEngine s e { x with pc := dest.toNat, boundary := s.clock })) ∧
    (Stands s e 0x01 → wfld w 52 4 < 9 → condHolds x (wfld w 52 4) = true → (dest < 0 ∨ x.ninstr - 1 < dest) →
      exec (.bCc e) s = .next (endChart s e 8 x.pc)) ∧
    (Stands s e 0x01 → 9 ≤ wfld w 52 4 → exec (.bCc e) s = .next (endChart s e 6 x.pc)) ∧
    (Stands s e 0x02 → 0 ≤ total → total ≤ 1000000 →
      exec (.wait e) s = .next (setEngine s e { x with wait := .timer (s.clock + total.toNat * 1000) })) ∧
    (Stands s e 0x02 → (total < 0 ∨ 1000000 < total) → exec (.wait e) s = .next (endChart s e 6 x.pc)) ∧
    (∀ n, x.wait = .timer n → n ≤ s.clock → s.paused = none → x.pc + 1 < x.ninstr → exec (.waitExpiry e) s = .next (moveOn s e x)) ∧
    (Stands s e 0x00 → exec (.endChart e) s = .next (endChart s e (if x.drafts = [] then 0 else 6) x.pc)) ∧
    (Stands s e 0x05 → 1 ≤ wfld w 0 8 → wfld w 0 8 ≤ 10 → exec (.fail e) s = .next (endChart s e (wfld w 0 8) x.pc)) ∧
    (Runs s e 0x34 → exec (.abort e) s = .next (moveOn s e { x with drafts := [] })) ∧
    (x.origin ≠ .none → x.wait = .run → x.seq = 0 → s.paused = none → overTime s x = true →
      exec (.chartTimeout e) s = .next (endChart s e 7 x.pc))

/-- CLAIM takes a free claim, keeps a held one, conflicts with another's; QCLAIM reads the entry. (10_chart_engines.md R263; 10_chart_engines.md
R264; 11_chart_instructions.md R277; 10_chart_engines.md Table 10.8; 10_chart_engines.md Table 10.9) -/
def Obligations.ClaimResults : Prop :=
  ∀ (e : EngineId) (s : State),
    let x := engineOf s e
    let w := wordAt x
    let i := ((regGet x (gaOf w)).toNat + wfld w 0 9) % 2 ^ 64
    (Runs s e 0x38 → i < 228 → claimOwner s i = 0xFFFF → x.sub ≠ 0xFFFF →
      exec (.claim e) s = .next (moveOk (setClaim s i x.sub) e x)) ∧
    (Runs s e 0x38 → i < 228 → claimOwner s i = x.sub → exec (.claim e) s = .next (moveOk s e x)) ∧
    (Stands s e 0x38 → i < 228 → claimOwner s i ≠ x.sub → claimOwner s i ≠ 0xFFFF →
      exec (.claim e) s = .next (endChart (setEngine s e x) e 2 x.pc)) ∧
    (Stands s e 0x38 → 228 ≤ i → exec (.claim e) s = .next (endChart (setEngine s e x) e 5 x.pc)) ∧
    (Runs s e 0x3A → i ≤ 511 → exec (.qclaim e) s = .next (moveOk s e (regSet x (gdOf w) (BitVec.ofNat 64 (claimOf s i))))) ∧
    (Stands s e 0x3A → 511 < i → exec (.qclaim e) s = .next (endChart (setEngine s e x) e 5 x.pc))

/-- HLD, HST, HGET, HPUT: what moves where over the master's path and in HBM, and that nothing moves where the fence denies.
(11_chart_instructions.md R275; 11_chart_instructions.md R276; 01_architecture.md R37; 15_fences.md R365; 18_meridian_firmware.md R440;
11_chart_instructions.md Table 11.5) -/
def Obligations.SubmitterMemoryInstructions : Prop :=
  ∀ (e : EngineId) (s : State),
    let x := engineOf s e
    let w := wordAt x
    let gd := gdOf w
    let a := (regGet x (gaOf w) + wordOfInt (sext (immOf w) 16)).toNat
    let b := (regGet x (gaOf w)).toNat
    let n := (regGet x (gbOf w)).toNat
    let off := ((regGet x gd).toNat - 0x8000) / 8
    let counts := 1 ≤ n ∧ n ≤ 4096 ∧ (regGet x gd).toNat % 8 = 0 ∧ 0x8000 ≤ (regGet x gd).toNat ∧ (regGet x gd).toNat + 8 * n ≤ 0x10000
    (∀ m sp q, Runs s e 0x22 → a % 8 = 0 → Passes s x a 8 false m sp q →
      exec (.hld e) s = .next (setEngine (asks s e x m sp q 1) e { x with wait := .hld gd })) ∧
    (∀ m sp q, Runs s e 0x23 → a % 8 = 0 → Passes s x a 8 true m sp q →
      exec (.hst e) s = .next (moveOk (sends s e x m sp q (wordBytes (regGet x (gbOf w)))) e x)) ∧
    (∀ m sp q, Runs s e 0x24 → b % 8 = 0 → counts → Passes s x b (8 * n) false m sp q →
      exec (.hget e) s = .next (setEngine (asks s e x m sp q n) e { x with wait := .hget off n })) ∧
    (∀ m sp q, Runs s e 0x25 → b % 8 = 0 → counts → Passes s x b (8 * n) true m sp q →
      ∃ bs, exec (.hput e false) s = .next (moveOk (sends s e x m sp q bs) e x) ∧
        bs = wordsBytes ((List.range n).map fun i => smGet 0 x.dmem (off + i))) ∧
    (∀ h, Runs s e 0x22 → a % 8 = 0 → InHbm s x a 8 h →
      exec (.hld e) s = .next (moveOk s e (regSet x gd (nth 0 (bytesWords (hbmRead s h 8) 1) 0)))) ∧
    (∀ h, Runs s e 0x23 → a % 8 = 0 → InHbm s x a 8 h →
      exec (.hst e) s = .next (moveOk (hbmWrite s h (wordBytes (regGet x (gbOf w)))) e x)) ∧
    (∀ h, Runs s e 0x24 → b % 8 = 0 → counts → InHbm s x b (8 * n) h →
      exec (.hget e) s = .next (moveOk s e { x with dmem := smSetRun 0 x.dmem off (bytesWords (hbmRead s h (8 * n)) n) })) ∧
    (∀ h, Runs s e 0x25 → b % 8 = 0 → counts → InHbm s x b (8 * n) h →
      exec (.hput e false) s = .next (moveOk (hbmWrite s h (wordsBytes ((List.range n).map fun i => smGet 0 x.dmem (off + i)))) e x)) ∧
    (∀ c ∈ [(Instr.hld e, 0x22, false), (Instr.hst e, 0x23, true)], ∀ m st acc, Stands s e c.2.1 → a % 8 = 0 → Denied s x a 8 c.2.2 m st acc →
      exec c.1 s = .next (endChart (setEngine (recordDenial s m acc (judgeAccess s m acc)) e x) e st x.pc)) ∧
    (∀ c ∈ [(Instr.hget e, 0x24, false), (Instr.hput e false, 0x25, true)], ∀ m st acc, Stands s e c.2.1 → b % 8 = 0 → counts →
      Denied s x b (8 * n) c.2.2 m st acc →
      exec c.1 s = .next (endChart (setEngine (recordDenial s m acc (judgeAccess s m acc)) e x) e st x.pc)) ∧
    (∀ c ∈ [(Instr.hld e, 0x22), (Instr.hst e, 0x23)], Stands s e c.2 → a % 8 ≠ 0 →
      exec c.1 s = .next (endChart (setEngine s e x) e 8 x.pc)) ∧
    (Stands s e 0x25 → b % 8 = 0 → counts → ((∃ m sp q, Passes s x b (8 * n) true m sp q) ∨ ∃ h, InHbm s x b (8 * n) h) →
      exec (.hput e true) s = .next (endChart (setEngine s e x) e 8 x.pc))

/-- The answer to a read moves its words into the waiting engine; Unsupported Request ends the chart ABSENT and poison FAULT.
(11_chart_instructions.md R276; 10_chart_engines.md R248; 10_chart_engines.md R249; 10_chart_engines.md R500; 10_chart_engines.md Table
10.4) -/
def Obligations.ReadAnswersReachTheWaitingEngine : Prop :=
  ∀ (e : EngineId) (s : State) (data : List Word),
    let x := engineOf s e
    let u := (readsInside s e).foldl dropTxn s
    let is := smSetRun 0 [] 0 ((List.range (min 4096 x.ninstr)).map (nth 0 data))
    let y := { x with imem := is, dmem := [] }
    let st := scanOps x.tier ((List.range x.ninstr).map (smGet 0 is))
    (∀ i k, i ∈ readsInside s e → (txnOf s i).key = x.serial → (txnOf s i).phase ≠ 3 → oldestRead s e x.serial = x.serial →
      exec (.hostReadResponse e k data) s = .next s) ∧
    ((∀ i ∈ readsInside s e, (txnOf s i).key = x.serial ∧ (txnOf s i).phase = 3 ∧ (txnOf s i).rstat = 0) → x.origin ≠ .none →
      (∀ gd, x.wait = .hld gd → x.pc + 1 < x.ninstr →
        exec (.hostReadResponse e 0 data) s = .next (moveOk u e (regSet x gd (nth 0 data 0))) ∧
        exec (.hostReadResponse e 1 data) s = .next (endChart (setEngine u e x) e 5 x.pc) ∧
        exec (.hostReadResponse e 2 data) s = .next (endChart (setEngine u e x) e 8 x.pc)) ∧
      (∀ off n, x.wait = .hget off n → x.pc + 1 < x.ninstr →
        exec (.hostReadResponse e 0 data) s = .next (moveOk u e { x with dmem := smSetRun 0 x.dmem off ((List.range n).map (nth 0 data)) }) ∧
        exec (.hostReadResponse e 1 data) s = .next (endChart (setEngine u e x) e 5 x.pc) ∧
        exec (.hostReadResponse e 2 data) s = .next (endChart (setEngine u e x) e 8 x.pc)) ∧
      (x.wait = .fetchInstr → x.ndata = 0 → countsOk x = true → st = 0 →
        exec (.hostReadResponse e 0 data) s =
          .next (setEngine u e { y with wait := .run, pc := 0, regs := smSetRun 0 [] 1 (x.args.take 3), boundary := s.clock })) ∧
      (x.wait = .fetchInstr → x.ndata = 0 → countsOk x = true → st ≠ 0 →
        exec (.hostReadResponse e 0 data) s = .next (endChart (setEngine u e y) e st 0xFFFF)) ∧
      (x.wait = .fetchInstr → x.ndata = 0 → countsOk x = false →
        exec (.hostReadResponse e 0 data) s = .next (endChart (setEngine u e { x with imem := is }) e 6 0xFFFF)) ∧
      (∀ r, x.wait = r → (r = .fetchEntry ∨ r = .fetchInstr ∨ r = .fetchData) →
        exec (.hostReadResponse e 1 data) s = .next (endChart (setEngine u e x) e 5 0xFFFF) ∧
        exec (.hostReadResponse e 2 data) s = .next (endChart (setEngine u e x) e 8 0xFFFF)))

/-- CHART_FETCH takes the entry at the command head of the next ring, reserves its completion record and asks for the entry's 64 bytes.
(10_chart_engines.md R247; 10_chart_engines.md R248; 10_chart_engines.md R261; 10_chart_engines.md R500; 10_chart_engines.md Table 10.3) -/
def Obligations.ChartFetchTakesTheNextEntry : Prop :=
  ∀ (e : EngineId) (s : State) (r m sp q : Nat),
    let l := smGet {} s.rings r
    let v := tabVal s 0x30 r
    let n := 2 ^ (fld v 194 4 + 4)
    let sub := fld v 116 16
    let s0 := { s with ringTurn := smSet 0 s.ringTurn (min e 12) r }
    let x := { newChart s0 (.ring r) sub with master := subMaster s0 sub r 0, cplPos := l.cplNext, cplGen := l.gen, wait := .fetchEntry }
    let s1 := { s0 with rings := smSet {} s.rings r { l with cmdHead := (l.cmdHead + 1) % n, cplNext := l.cplNext + 1 }
                        svc := { s.svc with nextChart := s.svc.nextChart + 1 }, freeCtr := s.freeCtr + 1 }
    mayFetch s e = true → (e.val < 12 ∨ (smGet {} s.rings 8).msgs = []) → (∀ k ∈ s.residents, k.engine ≠ min e.val 12) →
    (∀ k ∈ s.internals, k.target ≠ min e.val 12) → nextRing (smGet 0 s.ringTurn (min e 12)) (ringsFor s e) = some r → 16 ≤ r →
    Passes s1 x (fld v 198 58 * 64 + l.cmdHead % n * 64) 64 false m sp q →
      exec (.chartFetch e none) s = .next (setEngine (asks s1 e x m sp q 8) e x)

/-- A draft succeeds exactly where it is allowed; then the chart sees the drafted bits over the old value, and only that entry changes for it.
(10_chart_engines.md R254; 11_chart_instructions.md R280; 01_architecture.md R26; 06_graticule_noc.md R168; 18_meridian_firmware.md R439;
03_lanes.md R82) -/
def Obligations.DraftingEntersExactlyTheAllowedBits : Prop :=
  ∀ (s : State) (e : Nat) (x : Engine) (t i : Nat) (v mask : Entry),
    let d := draft s e x t i v mask
    (d.1 = 0 ↔ Draftable s e x t i v mask) ∧
    (d.1 = 0 → d.2.1 = s ∧ d.2.2 = { x with drafts := d.2.2.drafts } ∧
      seenVal s d.2.2 t i = merge (seenVal s x t i) v mask ∧
      ∀ t' i', tkey t' i' ≠ tkey t i → seenVal s d.2.2 t' i' = seenVal s x t' i') ∧
    (d.1 ≠ 0 → d.2.2 = x ∧ (d.2.1 = s ∨ d.1 = 9 ∧ d.2.1 = lkWrite s i))

/-- TRD reads the selected field or word as the chart sees it; TWR and TCLR draft it; what a table refuses. (11_chart_instructions.md R277;
11_chart_instructions.md R278; 11_chart_instructions.md R279; 11_chart_instructions.md R280; 11_chart_instructions.md R281;
10_chart_engines.md R254; 11_chart_instructions.md Table 11.6) -/
def Obligations.TableInstructionResults : Prop :=
  ∀ (e : EngineId) (s : State),
    let x := engineOf s e
    let w := wordAt x
    let t := wfld w 48 8
    let i := (regGet x (wfld w 44 4)).toNat
    let gv := (regGet x (wfld w 40 4)).toNat
    (∀ f, tableInfo t = some f → f.acc ≠ .digest → entryExists s t i = true → Runs s e 0x30 →
      let x1 := if f.acc = .ro ∨ (draftOf x (tkey t i)).isSome then x else recordRead s x t i
      (∀ g, selOf t (wfld w 32 8) = .field g →
        exec (.trd e) s = .next (moveOk s e (regSet x1 (wfld w 40 4) (BitVec.ofNat 64 (fld (seenEntry s x t i) g.lo g.w))))) ∧
      (∀ k, selOf t (wfld w 32 8) = .word k →
        exec (.trd e) s = .next (moveOk s e (regSet x1 (wfld w 40 4) (entryWord (seenEntry s x t i) k))))) ∧
    (∀ f g, tableInfo t = some f → f.acc = .rw → entryExists s t i = true → Runs s e 0x31 → selOf t (wfld w 32 8) = .field g →
      g.ro = false → gv < 2 ^ g.w →
      let v := mkEntry [(g.lo, gv % 2 ^ g.w)]
      let y := ruleReads s x t v (fldMask g)
      RuledDraftable s e y t i v (fldMask g) → exec (.twr e) s = .next (moveOk s e (putDraft s y t i v (fldMask g)))) ∧
    (∀ f k, tableInfo t = some f → f.acc = .rw → entryExists s t i = true → Runs s e 0x31 → selOf t (wfld w 32 8) = .word k →
      let mask := draftable t &&& wordBits k
      let v := BitVec.ofNat 256 (gv * 2 ^ (64 * k))
      let y := ruleReads s x t v mask
      mask ≠ 0 → v &&& unionMask (fields t) = v → RuledDraftable s e y t i v mask →
      exec (.twr e) s = .next (moveOk s e (putDraft s y t i v mask))) ∧
    (∀ f, tableInfo t = some f → f.acc = .rw → entryExists s t i = true → Runs s e 0x32 →
      Draftable s e x t i (bootEntry s t i &&& draftable t) (draftable t) →
      exec (.tclr e) s = .next (moveOk s e (putDraft s x t i (bootEntry s t i &&& draftable t) (draftable t)))) ∧
    (∀ c ∈ [(Instr.trd e, 0x30), (Instr.twr e, 0x31), (Instr.tclr e, 0x32)], Stands s e c.2 →
      (tableInfo t = none → exec c.1 s = .next (endChart (setEngine s e x) e 6 x.pc)) ∧
      (∀ f, tableInfo t = some f → f.acc = .digest → (c.2 = 0x30 ∨ entryExists s t i = true) →
        exec c.1 s = .next (endChart (setEngine s e x) e 6 x.pc)) ∧
      (∀ f, tableInfo t = some f → (f.acc ≠ .digest ∨ c.2 ≠ 0x30) → entryExists s t i = false → exec c.1 s = .next (endChart (setEngine s e x) e 5 x.pc)) ∧
      (∀ f, tableInfo t = some f → f.acc = .ro → entryExists s t i = true → c.2 ≠ 0x30 →
        exec c.1 s = .next (endChart (setEngine s e x) e 6 x.pc)))

/-- DRAIN goes on at a drain point that is reached and waits otherwise, with its limit; UNCLAIM frees what its submitter holds, or by FORCE.
(11_chart_instructions.md R282; 10_chart_engines.md R264; 10_chart_engines.md R263; 11_chart_instructions.md R277) -/
def Obligations.DrainAndUnclaimResults : Prop :=
  ∀ (e : EngineId) (s : State),
    let x := engineOf s e
    let w := wordAt x
    let kind := wfld w 0 2
    let lim := wfld w 2 14
    let ga := (regGet x (gaOf w)).toNat
    let i := ((regGet x (gaOf w)).toNat + wfld w 0 9) % 2 ^ 64
    let named := (kind = 0 → ga < 96 ∧ portExists s ga = true) ∧ (kind = 1 → ga < 3072 ∧ depValid ga = true ∧ epPort ga = none)
    (Runs s e 0x36 → named → drainOver s kind ga s.commitNum = true → exec (.drain e) s = .next (moveOk s e x)) ∧
    (Runs s e 0x36 → named → drainOver s kind ga s.commitNum = false →
      exec (.drain e) s = .next (setEngine s e
        { x with wait := .drain kind ga s.commitNum (if lim = 0 then none else some (s.clock + lim * 1000000)) })) ∧
    (∀ k g n d, x.wait = .drain k g n (some d) → d ≤ s.clock → drainOver s k g n = false → x.seq = 0 →
      exec (.drainTimeout e) s = .next (endChart (setEngine s e { x with wait := .run }) e 7 x.pc)) ∧
    (Runs s e 0x39 → i < 228 → wfld w 15 1 = 0 → claimOf s i / 0x10000 % 2 = 0 → claimOwner s i = x.sub →
      exec (.unclaim e) s = .next (moveOk (releaseClaims s [i]) e x)) ∧
    (Runs s e 0x39 → i < 228 → wfld w 15 1 = 1 → 2 ≤ x.tier → claimOf s i / 0x10000 % 2 = 0 → claimOwner s i ≠ x.sub → claimOwner s i ≠ 0xFFFF →
      exec (.unclaim e) s = .next (moveOk (raiseEvent (releaseClaims s [i]) 0x381 i [claimOwner s i]) e x)) ∧
    (Runs s e 0x39 → i < 228 → wfld w 15 1 = 1 → 2 ≤ x.tier → claimOf s i / 0x10000 % 2 = 0 → claimOwner s i ≠ x.sub → claimOwner s i = 0xFFFF →
      exec (.unclaim e) s = .next (moveOk s e x)) ∧
    (Stands s e 0x39 → i < 228 → wfld w 15 1 = 0 → claimOf s i / 0x10000 % 2 = 0 → claimOwner s i ≠ x.sub →
      exec (.unclaim e) s = .next (endChart (setEngine s e x) e 2 x.pc)) ∧
    (Stands s e 0x39 → i < 228 → claimOf s i / 0x10000 % 2 = 1 → exec (.unclaim e) s = .next (endChart (setEngine s e x) e 1 x.pc)) ∧
    (Stands s e 0x39 → 228 ≤ i → exec (.unclaim e) s = .next (endChart (setEngine s e x) e 5 x.pc))

/-- QOS.PORT, QOS.FLOW, FENCE.SET, FENCE.CLEAR, SLOT.CONFIG, SLOT.MAP, TILE.PROFILE draft the entry their block names. (11_chart_instructions.md
R286; 11_chart_instructions.md R290; 05_switch_core.md Table 5.7; 05_switch_core.md Table 5.8; 15_fences.md R361; 13_slot_power.md R315;
02_ports_protocols.md R41) -/
def Obligations.QosFenceSlotAndTileMacrosDraftTheirRows : Prop :=
  ∀ (e : EngineId) (s : State),
    let x := regSet (engineOf s e) 1 0
    let b := blockWord (engineOf s e) (wordAt (engineOf s e))
    let p := wfld (b 0) 0 7
    let m := entryOfWords [b 2]
    let r := 64 * wfld (b 0) 0 8 + wfld (b 0) 8 6
    let c := wfld (b 0) 0 5
    let q := wfld (b 0) 8 7
    let y := readsOf s x (((List.range 32).filter fun k => q != 127 && k != c).map fun k => (0x38, k))
    (Begins s e 0x80 [rowBits [(6, 0)], tabWordMask 0x06 0, allBits] 0 (.tile tileOfPort0) false → portExists s p = true →
      maskWhole 0x06 m = true → Drafts (.qosPort e) s e 0x06 p (entryOfWords [b 1]) m) ∧
    (Begins s e 0x81 [rowBits [(6, 0), (14, 8), (31, 16), (39, 32)]] 0 (.tile tileOfPort0) false → wfld (b 0) 8 7 ≤ 96 → portExists s p = true →
      Drafts (.qosFlow e) s e 0x07 (97 * p + wfld (b 0) 8 7) (mkEntry [(0, wfld (b 0) 16 16), (16, wfld (b 0) 32 8)]) (draftable 0x07)) ∧
    (Begins s e 0x90 [rowBits [(7, 0), (13, 8)], allBits, allBits] 0 .glob false → entryExists s 0x39 r = true →
      refusedValue s x 0x39 r (merge (seenVal s x 0x39 r) (entryOfWords [b 1, b 2]) (draftable 0x39)) (draftable 0x39) = false →
      Drafts (.fenceSet e) s e 0x39 r (entryOfWords [b 1, b 2]) (draftable 0x39)) ∧
    (Begins s e 0x91 [rowBits [(7, 0), (13, 8)]] 0 .glob false → entryExists s 0x39 r = true →
      Drafts (.fenceClear e) s e 0x39 r 0 (draftable 0x39)) ∧
    (Begins s e 0xA0 [rowBits [(4, 0)], tabWordMask 0x38 0, tabWordMask 0x38 1] 0 (.tile tileOfSlot0) false →
      fld (entryOfWords [b 1, b 2]) 0 7 = tabFld s 0x38 c 0 7 →
      Drafts (.slotConfig e) s e 0x38 c (entryOfWords [b 1, b 2] &&& ~~~(ones 0 7)) (draftable 0x38 &&& ~~~(ones 0 7))) ∧
    (Begins s e 0xA1 [rowBits [(4, 0), (14, 8)]] 0 .glob false → (q = 127 ∨ q < 96 ∧ portExists s q = true ∧
      ∀ k, k < 32 → k ≠ c → fld (seenVal s x 0x38 k) 0 7 ≠ q) → Draftable s e y 0x38 c (BitVec.ofNat 256 q) (ones 0 7) →
      exec (.slotMap e) s = .next (moveOk s e (putDraft s y 0x38 c (BitVec.ofNat 256 q) (ones 0 7)))) ∧
    (Begins s e 0xD0 [rowBits [(3, 0), (10, 8)]] 0 (.tile tileOf0) false → wfld (b 0) 0 4 < 12 →
      Drafts (.tileProfile e) s e 0x0B (wfld (b 0) 0 4) (BitVec.ofNat 256 (wfld (b 0) 8 3)) (draftable 0x0B))

/-- EVT.ROUTE, EVT.METRIC, EVT.TIMER, PERF.ARM, PERF.DUMP, PERF.GRANT, PERF.TRACE draft their entries; EVT.POST raises its event; PERF.READ
gives the latched value. (11_chart_instructions.md R291; 16_events_almanac.md R379; 16_events_almanac.md R392; 16_events_almanac.md R401;
17_counters.md R403; 17_counters.md R409; 17_counters.md R411; 17_counters.md R417) -/
def Obligations.EventAndCounterMacroResults : Prop :=
  ∀ (e : EngineId) (s : State),
    let x := regSet (engineOf s e) 1 0
    let b := blockWord (engineOf s e) (wordAt (engineOf s e))
    let v := entryOfWords [b 1]
    let n := wfld (b 0) 0 16
    let u := entryOfWords [b 0, b 1]
    (Begins s e 0xB0 [rowBits [(10, 0)], tabWordMask 0x3A 0] 0 .glob false → esidKnown (wfld (b 0) 0 11) = true →
      Drafts (.evtRoute e) s e 0x3A (wfld (b 0) 0 11) v (draftable 0x3A)) ∧
    (Begins s e 0xB1 [rowBits [(9, 0)], tabWordMask 0x3B 0] 0 .glob false →
      (fld v 55 2 ≠ 2 ∧ esidKnown (fld v 44 11) = true ∨ fld v 55 2 = 2 ∧ fld v 44 11 ≤ 5) →
      refusedValue s x 0x3B (wfld (b 0) 0 10) (merge (seenVal s x 0x3B (wfld (b 0) 0 10)) v (draftable 0x3B)) (draftable 0x3B) = false →
      Drafts (.evtMetric e) s e 0x3B (wfld (b 0) 0 10) v (draftable 0x3B)) ∧
    (Begins s e 0xB2 [rowBits [(3, 0)], allBits] 0 .any false →
      exec (.evtPost e) s = .next (moveOk (raiseEvent s (0x5F0 + wfld (b 0) 0 4) x.sub [(b 1).toNat]) e x)) ∧
    (Begins s e 0xB3 [rowBits [(5, 0)], tabWordMask 0x32 0, tabWordMask 0x32 1] 0 .any false →
      Drafts (.evtTimer e) s e 0x32 (wfld (b 0) 0 6) (entryOfWords [b 1, b 2]) (draftable 0x32)) ∧
    (Begins s e 0xB8 [rowBits [(15, 0)], tabWordMask 0x3C 0] 0 (.tile tileOfCounter0) false → entryExists s 0x3C n = true →
      refusedValue s x 0x3C n (merge (seenVal s x 0x3C n) v (draftable 0x3C)) (draftable 0x3C) = false →
      Drafts (.perfArm e) s e 0x3C n v (draftable 0x3C)) ∧
    (Begins s e 0xB9 [tabWordMask 0x40 0, tabWordMask 0x40 1] 0 .glob false → hasReserved 0x40 0 u (draftable 0x40) = false →
      (fld u 0 2 = 1 → partitionCheck s x.sub (fld u 15 49 * 2 ^ 15) (fld u 72 8 * 32768) = 0) →
      (fld u 0 2 = 2 → vWidth (viewOf s x) (fld u 8 7) ≠ 0 ∧ (vRole (viewOf s x) (fld u 8 7) = 1 ∨ vRole (viewOf s x) (fld u 8 7) = 4)) →
      let y := if fld u 0 2 = 2 then readsOf s x [(0x01, fld u 8 7)] else x
      Draftable s e y 0x40 0 u (draftable 0x40) → exec (.perfDump e) s = .next (moveOk s e (putDraft s y 0x40 0 u (draftable 0x40)))) ∧
    (Begins s e 0xBA [rowBits [(10, 0), (16, 16)]] 0 (.tile tileOfVf0) false → funcState s (wfld (b 0) 0 11) ≠ 0 →
      mayActOnVf s x (wfld (b 0) 0 11) = true →
      Drafts (.perfGrant e) s e 0x3D (wfld (b 0) 0 11) (mkEntry [(50, wfld (b 0) 16 1)]) (ones 50 1)) ∧
    (Begins s e 0xBB [rowBits [(15, 0)]] 0 (.tile tileOfCounter0) false → entryExists s 0x3C n = true →
      (2 ≤ x.tier ∨ n < 0x0900 ∧ mayActOn s x (n / 24) = true) →
      exec (.perfRead e) s = .next (moveOk s e
        (regSet (regSet x 1 (BitVec.ofNat 64 (smGet 0 s.cnt.latched n))) 2 (BitVec.ofNat 64 (latchTsOf s n))))) ∧
    (Begins s e 0xBC [rowBits [(1, 0)], tabWordMask 0x3F 0, tabWordMask 0x3F 1] 0 .glob false →
      Drafts (.perfTrace e) s e 0x3F (wfld (b 0) 0 2) (entryOfWords [b 1, b 2]) (draftable 0x3F))

/-- LANE.SET, SLIP, ALIGN, EYE, STAT and the checker's lock and loss of lock. (03_lanes.md R72; 03_lanes.md R79; 03_lanes.md R80; 03_lanes.md
R86; 03_lanes.md R87; 03_lanes.md R89; 11_chart_instructions.md R288) -/
def Obligations.LaneMacroResults : Prop :=
  (∀ (e : EngineId) (s : State),
    let x := regSet (engineOf s e) 1 0
    let b := blockWord (engineOf s e) (wordAt (engineOf s e))
    let l := wfld (b 0) 0 9
    let v := entryOfWords [b 1]
    let m := entryOfWords [b 2]
    let p := wfld (b 0) 0 7
    let off := wfld (b 1) 0 16
    (Begins s e 0x50 [rowBits [(8, 0), (21, 16)], tabWordMask 0x03 0, allBits] 0 (.tile tileOfLane0) false → wfld (b 0) 16 6 = 1 → l < 384 →
      tapsOk (merge (seenVal s x 0x03 l) v m) = true → injectDenied s x l v m = false → maskWhole 0x03 m = true →
      Drafts (.laneSet e) s e 0x03 l v m) ∧
    (let n := wfld (b 0) 16 6
     let d := laneDrafts s e x v m ((List.range n).map (l + ·))
     Begins s e 0x50 [rowBits [(8, 0), (21, 16)], tabWordMask 0x03 0, allBits] 0 (.tile tileOfLane0) false → 1 ≤ n → n ≤ 32 → l < 384 →
      l / 32 = (l + n - 1) / 32 → maskWhole 0x03 m = true → d.1 = 0 → exec (.laneSet e) s = .next (moveOk d.2.1 e d.2.2)) ∧
    (∀ rx, Begins s e 0x51 [rowBits [(8, 0)]] 0 (.tile tileOfLane0) false → laneAligns s l ≠ none → laneBit s l 2 = true →
      reservedElsewhere s e (tkey 0x03 l) = false → l < 384 →
      let s1 := setLane s l { laneOf s l with bound := ((laneOf s l).bound + 1) % 64 }
      exec (.laneSlip e rx) s = .next (moveOk s1 e
        (regSet (regSet x 1 (if markerChecks s1 l rx then 1 else 0)) 2 (BitVec.ofNat 64 (laneOf s1 l).bound)))) ∧
    (∀ rx n, searchLane s l rx = some n ↔
      n < 64 ∧ markerChecks (slipped s l n) l rx = true ∧ ∀ k, k < n → markerChecks (slipped s l k) l rx = false) ∧
    (∀ rx, Begins s e 0x52 [rowBits [(6, 0)]] 0 (.tile tileOfPort0) false → roleOf s p = 3 → tstate s p = 3 → portExists s p = true →
      cdrAll s p = true → (∀ k ∈ portLanes s p, reservedElsewhere s e (tkey 0x03 k) = false) →
      let found := ((portLanes s p).zip (rx ++ List.replicate ((portLanes s p).length - rx.length) [])).map fun h => (h.1, searchLane s h.1 h.2)
      let s1 := found.foldl (fun s h => slipped s h.1 (h.2.getD 63)) s
      let y := regSet x 1 (BitVec.ofNat 64 (sumOf (found.map fun h => h.2.getD 63)))
      let d := alignDrafts s1 e y (portLanes s p)
      ((∃ h ∈ found, h.2 = none) → exec (.laneAlign e rx) s = .next (endChart (setEngine s1 e y) e 7 x.pc)) ∧
      ((∀ h ∈ found, h.2 ≠ none) → d.1 = 0 → exec (.laneAlign e rx) s = .next (moveOk d.2.1 e d.2.2))) ∧
    (∀ errs, Begins s e 0x53 [rowBits [(8, 0), (10, 9), (20, 16)], rowBits [(15, 0)]] 0 (.tile tileOfLane0) false → l < 384 →
      wfld (b 0) 9 2 ≠ 3 → 10 ≤ wfld (b 0) 16 5 → wfld (b 0) 16 5 ≤ 30 → off % 8 = 0 → 0x8000 ≤ off → off ≤ 0xC000 →
      (laneRate s l ≤ 4 → wfld (b 0) 9 2 = 1) → claimCheck s x.sub (132 + l / 4) = 0 →
      exec (.laneEye e errs) s = .next (moveOk s e { x with dmem := smSetRun 0 x.dmem ((off - 0x8000) / 8) (eyeWords errs) })) ∧
    (Begins s e 0x54 [rowBits [(8, 0)]] 0 (.tile tileOfLane0) false → l < 384 →
      exec (.laneStat e) s = .next (moveOk s e
        (regSet (regSet x 1 (entryWord (laneShown s l) 0)) 2 (entryWord (laneShown s l) 1))))) ∧
  (∀ (l : LaneId) (rx : List Level) (s : State), tabFld s 0x03 l 14 1 = 1 →
    (laneBit s l 3 = false → windowErrors s l rx = some 0 →
      exec (.chkLock l rx) s = .next (setLane (setLaneBit (loopBack s l rx) 3 true l) l { laneOf s l with lockAt := s.clock + 1 })) ∧
    (∀ n, laneBit s l 3 = true → windowErrors s l rx = some n → n ≤ 32 →
      exec (.chkLock l rx) s = .next (checkerCount (loopBack s l rx) l n))) ∧
  (∀ (l : LaneId) (rx : List Level) (n : Nat) (s : State), laneBit s l 3 = true → windowErrors s l rx = some n → 32 < n →
    let s1 := setLaneBit (checkerCount (loopBack s l rx) l n) 3 false l
    exec (.lockLoss l rx) s =
      .next (setLane (setLive s1 0x04 l 16 16 (min 65535 (tabFld s1 0x04 l 16 16 + 1))) l { laneOf s1 l with lockAt := 0 }))

/-- PORT.CONFIG, PORT.RETRAIN, PORT.STATUS, ISL.RETRAIN, ISL.CHIP. (11_chart_instructions.md R288; 02_ports_protocols.md Table 2.3;
04_trorno_link.md R103; 11_chart_instructions.md Table 11.8) -/
def Obligations.PortAndIslMacroResults : Prop :=
  ∀ (e : EngineId) (s : State),
    let x := regSet (engineOf s e) 1 0
    let b := blockWord (engineOf s e) (wordAt (engineOf s e))
    let p := wfld (b 0) 0 7
    let m := entryOfWords [b 2]
    (Begins s e 0x40 [rowBits [(6, 0)], tabWordMask 0x01 0, allBits] 0 (.tile tileOfPort0) false → portExists s p = true →
      maskWhole 0x01 m = true → Drafts (.portConfig e) s e 0x01 p (entryOfWords [b 1]) m) ∧
    (Begins s e 0x41 [rowBits [(6, 0)]] 0 (.tile tileOfPort0) false → portExists s p = true → roleOf s p ≠ 3 → roleOf s p ≠ 0 →
      tabFld s 0x02 p 0 6 = 0x0B →
      exec (.portRetrain e) s = .next (moveOk (emit (count (lowEnd (setL0p (setLive s 0x02 p 0 6 0x06) p 0) p) (portCtr p 12) 1)
        (.link p 6 0)) e x)) ∧
    (Begins s e 0x42 [rowBits [(6, 0)]] 0 (.tile tileOfPort0) false → portExists s p = true → mayActOn s x p = true →
      exec (.portStatus e) s = .next (moveOk s e (regSet (regSet x 1 (entryWord (tabVal s 0x02 p) 0)) 2
        (if roleOf s p = 3 then entryWord (tabVal s 0x05 p) 0 else 0)))) ∧
    (Begins s e 0x58 [rowBits [(6, 0)]] 0 (.tile tileOfPort0) false → portExists s p = true → roleOf s p = 3 → islOpen s p = true →
      exec (.islRetrain e) s = .next (moveOk (leaveOpen s p 4) e (regSet x 1 (BitVec.ofNat 64 (sessFld s p 0 8))))) ∧
    (let v := entryOfWords [b 0]
     let y := ruleReads s x 0x0C v (draftable 0x0C)
     Begins s e 0x59 [tabWordMask 0x0C 0] 0 .glob false → RuledDraftable s e y 0x0C 0 v (draftable 0x0C) →
      exec (.islChip e) s = .next (moveOk s e (putDraft s y 0x0C 0 v (draftable 0x0C))))

/-- The drafting BIND macros: what they name must exist and the rules of their subject hold; they draft their entries. (07_binding.md R183;
07_binding.md R185; 07_binding.md R187; 07_binding.md R189; 07_binding.md R194; 07_binding.md Table 7.9; 02_ports_protocols.md R55;
11_chart_instructions.md R289) -/
def Obligations.BindMacrosDraftTheirEntries : Prop :=
  ∀ (e : EngineId) (s : State),
    let x := regSet (engineOf s e) 1 0
    let w := wordAt (engineOf s e)
    let b := blockWord (engineOf s e) w
    let c := wfld (b 0) 0 6
    let vcs := mkEntry [(0, wfld (b 0) 8 7), (7, wfld (b 0) 16 7), (14, wfld (b 0) 24 1)]
    let i := 64 * c + wfld (b 0) 8 6
    let vppb := mkEntry [(0, wfld (b 0) 16 4), (4, wfld (b 1) 0 7), (11, wfld (b 1) 8 4), (15, wfld (b 1) 16 8), (24, 1)]
    let pld := mkEntry [(0, wfld (b 0) 36 28), (36, wfld (b 0) 8 1)]
    let m := 16 * wfld (b 0) 8 7 + wfld (b 0) 16 4
    let r := wfld (b 0) 0 14
    let g := 16 * wfld (b 0) 0 7 + wfld (b 0) 8 4
    let y := readsOf s x [(0x01, wfld (b 0) 8 7)]
    let z := readsOf s x (bindReads i vppb)
    (Begins s e 0x60 [rowBits [(5, 0), (14, 8), (22, 16), (24, 24)]] 0 .glob false →
      vWidth (viewOf s y) (fld vcs 0 7) ≠ 0 →
      ((vBound (viewOf s y) c).any fun k => fld vcs 14 1 == 0 || decide (fld vcs 7 7 ≤ k)) = false →
      Draftable s e y 0x10 c vcs (draftable 0x10) → exec (.bindVcs e) s = .next (moveOk s e (putDraft s y 0x10 c vcs (draftable 0x10)))) ∧
    (Begins s e 0x61 [rowBits [(5, 0), (13, 8), (19, 16)], rowBits [(6, 0), (11, 8), (23, 16)]] 0 .glob false →
      1 ≤ wfld (b 0) 16 4 → wfld (b 0) 16 4 ≤ 3 → bstate (seenVal s x 0x11 i) ≠ 1 → bindTarget s (viewWith s x 0x11 i vppb) i = true →
      Draftable s e z 0x11 i vppb (draftable 0x11) → Draftable s e (putDraft s z 0x11 i vppb (draftable 0x11)) 0x18 i 1 (draftable 0x18) →
      exec (.bindVppb e) s = .next (moveOk s e (putDraft s (putDraft s z 0x11 i vppb (draftable 0x11)) 0x18 i 1 (draftable 0x18)))) ∧
    (Begins s e 0x63 [rowBits [(7, 0), (8, 8), (63, 36)]] 0 .glob false →
      let d := putDraft s x 0x14 (wfld (b 0) 0 8) pld (draftable 0x14)
      judgePld (viewOf s d) (wfld (b 0) 0 8) = 0 → Draftable s e x 0x14 (wfld (b 0) 0 8) pld (draftable 0x14) →
      exec (.bindPld e) s = .next (moveOk s e d)) ∧
    (∀ k gr, Begins s e 0x64 [rowBits [(7, 0), (14, 8), (19, 16), (20, 20), (21, 21)], rowBits [(27, 0), (55, 28)], rowBits [(27, 0)]] 0 .glob false →
      wfld (b 0) 8 7 < 96 → registered s m ≠ 0 → smGet false s.poolLost m = false →
      fld (seenVal s x 0x14 (wfld (b 0) 0 8)) 36 1 = 1 → freeExtent s e x = some k →
      (if wfld (b 0) 21 1 = 1 then cleanRun s x (wfld (b 0) 8 7) (wfld (b 0) 16 4) (wfld (b 1) 28 28) else some (wfld (b 2) 0 28)) = some gr →
      let q := readsOf s x [(0x14, wfld (b 0) 0 8)]
      let val := mkEntry [(100, wfld (b 1) 0 28), (72, gr), (44, wfld (b 1) 28 28), (36, wfld (b 0) 0 8), (29, wfld (b 0) 8 7),
        (25, wfld (b 0) 16 4), (22, 1), (21, wfld (b 0) 20 1)]
      let d := putDraft s q 0x15 k val (draftable 0x15)
      (wfld (b 1) 28 28 ≠ 0 → extentRules (viewOf s d) k = 0) → Draftable s e q 0x15 k val (draftable 0x15) →
      exec (.bindAdd e) s = .next (moveOk s e (regSet (regSet d 1 (BitVec.ofNat 64 k)) 2 (BitVec.ofNat 64 gr)))) ∧
    (Runs s e 0x65 → (engineOf s e).seq = 0 → macroStatus s e (engineOf s e) w [rowBits [(13, 0)]] 1 .glob false = 0 →
      let old := estate (seenVal s (engineOf s e) 0x15 r)
      (old = 4 ∨ mflagsOf w = 1 ∧ (old = 2 ∨ old = 3) → Drafts (.bindRelease e) s e 0x15 r 0 (ones 22 3)) ∧
      (old = 2 → mflagsOf w ≠ 1 → Drafts (.bindRelease e) s e 0x15 r (setFld 0 22 3 3) (ones 22 3)) ∧
      (old = 1 ∨ old = 3 ∧ mflagsOf w ≠ 1 → exec (.bindRelease e) s = .next (moveOk s e x)) ∧
      (old = 0 → exec (.bindRelease e) s = .next (endChart (setEngine s e x) e 5 x.pc))) ∧
    (Begins s e 0x66 [rowBits [(6, 0), (11, 8)], tabWordMask 0x16 0, tabWordMask 0x16 1] 0 .glob false → portExists s (wfld (b 0) 0 7) = true →
      vRole (viewOf s x) (wfld (b 0) 0 7) = 1 →
      let q := readsOf s x [(0x01, wfld (b 0) 0 7)]
      let d := putDraft s q 0x16 g (entryOfWords [b 1, b 2]) (draftable 0x16)
      judgeGfam (viewOf s d) g = 0 → Draftable s e q 0x16 g (entryOfWords [b 1, b 2]) (draftable 0x16) →
      exec (.bindGfam e) s = .next (moveOk s e d)) ∧
    (Begins s e 0x67 [rowBits [(11, 0)] ||| tabWordMask 0x17 0 * 2 ^ 32] 0 .glob false → wfld (b 0) 0 12 ≠ 0xFFF →
      let val := BitVec.ofNat 256 (wfld (b 0) 32 32)
      let d := putDraft s x 0x17 (wfld (b 0) 0 12) val (draftable 0x17)
      judgePid (viewOf s d) (wfld (b 0) 0 12) = 0 → Draftable s e x 0x17 (wfld (b 0) 0 12) val (draftable 0x17) →
      exec (.bindPid e) s = .next (moveOk s e d))

/-- BIND.UNVPPB and the COH macros: drafts made, the first step of the sequenced ones, and the lookup. (07_binding.md Table 11.14;
08_coherence.md R200; 08_coherence.md R202; 09_gazetteer.md R222; 09_gazetteer.md R225; 09_gazetteer.md R226; 11_chart_instructions.md R292;
10_chart_engines.md R257) -/
def Obligations.CoherenceMacrosAndUnbindBegin : Prop :=
  ∀ (e : EngineId) (s : State),
    let x := regSet (engineOf s e) 1 0
    let b := blockWord (engineOf s e) (wordAt (engineOf s e))
    let i := 64 * wfld (b 0) 0 6 + wfld (b 0) 8 6
    let bnd := tabVal s 0x11 i
    let d := wfld (b 0) 0 4
    let c := wfld (b 0) 0 6
    let val := setFld (entryOfWords [b 1]) 0 2 1
    let r := wfld (b 0) 0 8
    let reg := tabVal s 0x20 r
    let asks := fun (y : Engine) (step a : Nat) =>
      setEngine { s with arb := { s.arb with queue := s.arb.queue ++ [e.val] } } e { y with wait := .commit, seq := step, seqA := a, seqB := 0 }
    (Begins s e 0x62 [rowBits [(5, 0), (13, 8)]] 0 .glob true → (bstate bnd = 1 ∨ bstate bnd = 2) → tabFld s 0x18 i 0 2 ≠ 2 →
      Draftable s e x 0x18 i 2 (ones 0 2) → exec (.bindUnvppb e) s = .next (asks (putDraft s x 0x18 i 2 (ones 0 2)) 1 i)) ∧
    (Begins s e 0x62 [rowBits [(5, 0), (13, 8)]] 0 .glob true → (bstate bnd = 1 ∨ bstate bnd = 2) → tabFld s 0x18 i 0 2 = 2 →
      exec (.bindUnvppb e) s = .next (setEngine s e { x with
        wait := .drain (if btype bnd = 3 then 4 else 0) (if btype bnd = 3 then bpld bnd else bport bnd) s.commitNum none, seq := 2, seqA := i })) ∧
    (Begins s e 0x70 [rowBits [(3, 0), (8, 8)]] 0 .glob false →
      let v := BitVec.ofNat 256 (wfld (b 0) 8 1)
      judgeDomain s (viewOf s (putDraft s x 0x21 d v (ones 0 1))) d = 0 → Drafts (.cohDomain e) s e 0x21 d v (ones 0 1)) ∧
    (let ds := (List.range 16).filter fun k => wfld (b 0) (16 + k) 1 == 1
     let a := drafts s e (putDraft s x 0x22 c val (draftable 0x22)) (agentBits c ds true)
     Begins s e 0x71 [rowBits [(5, 0), (31, 16)], tabWordMask 0x22 0] 0 .glob false →
      (fld val 4 2 ≤ 1 → portExists s (fld val 9 7) = true) →
      Draftable s e x 0x22 c val (draftable 0x22) → a.1 = 0 → judgeAgent s (viewOf a.2.1 a.2.2) c true = 0 →
      exec (.cohAgentAdd e) s = .next (moveOk a.2.1 e a.2.2)) ∧
    (Begins s e 0x72 [rowBits [(5, 0)]] 0 .glob true → tabFld s 0x22 c 0 2 ≠ 0 → tabFld s 0x22 c 0 2 ≠ 3 → Draftable s e x 0x22 c 3 (ones 0 2) →
      exec (.cohAgentRemove e) s = .next (asks (putDraft s x 0x22 c 3 (ones 0 2)) 1 c)) ∧
    (Begins s e 0x72 [rowBits [(5, 0)]] 0 .glob true → tabFld s 0x22 c 0 2 = 3 →
      exec (.cohAgentRemove e) s = .next (setEngine { s with walks := s.walks ++ [{ kind := 1, obj := c, started := s.clock, engine := some e.val }] } e
        { x with wait := .macroStep, seq := 2, seqA := c, seqB := 0 })) ∧
    (∀ k, Begins s e 0x73 [rowBits [(6, 0), (11, 8), (19, 16)], rowBits [(27, 0), (55, 28)]] 0 .glob false →
      findFrom (fun j => rstate (seenVal s x 0x20 j) == 0 && !(reservedElsewhere s e (tkey 0x20 j))) 0 256 = some k →
      vRole (viewOf s x) (wfld (b 0) 0 7) = 2 → wfld (b 0) 8 4 < (smGet {} s.partners (wfld (b 0) 0 7)).nld →
      let v := mkEntry [(100, wfld (b 1) 0 28), (72, wfld (b 1) 28 28), (65, wfld (b 0) 0 7), (61, wfld (b 0) 8 4), (57, wfld (b 0) 16 4), (55, 1)]
      let y := readsOf s x [(0x01, wfld (b 0) 0 7), (0x21, wfld (b 0) 16 4)]
      let d := putDraft s y 0x20 k v (draftable 0x20)
      (wfld (b 1) 28 28 ≠ 0 → judgeRegion s (viewOf s d) k = 0) → Draftable s e y 0x20 k v (draftable 0x20) →
      exec (.cohRegionShare e) s = .next (moveOk s e (regSet d 1 (BitVec.ofNat 64 k)))) ∧
    (Begins s e 0x74 [rowBits [(7, 0)]] 0 .glob true → rstate reg = 1 → regionHeld s r = false →
      Draftable s e x 0x20 r (setFld 0 55 2 2) (ones 55 2) →
      exec (.cohRegionRelease e) s = .next (asks (putDraft s x 0x20 r (setFld 0 55 2 2) (ones 55 2)) 1 r)) ∧
    (Begins s e 0x74 [rowBits [(7, 0)]] 0 .glob true → rstate reg = 2 → regionHeld s r = false →
      exec (.cohRegionRelease e) s = .next (setEngine { s with walks := s.walks ++ [{ kind := 2, obj := r, started := s.clock, engine := some e.val }] } e
        { x with wait := .macroStep, seq := 2, seqA := r, seqB := 0 })) ∧
    (Begins s e 0x74 [rowBits [(7, 0)]] 0 .glob true → rstate reg ≠ 0 → regionHeld s r = true →
      exec (.cohRegionRelease e) s = .next (endChart (setEngine s e x) e 2 x.pc)) ∧
    (let y := readsOf s x [(0x20, r)]
     let v := seenVal s y 0x20 r
     Begins s e 0x75 [rowBits [(7, 0)], allBits] 0 .glob false → rstate v = 1 → fld v 100 28 * 2 ^ 28 ≤ (b 1).toNat →
      (b 1).toNat < (fld v 100 28 + fld v 72 28) * 2 ^ 28 →
      let k := r * 2 ^ 46 + ((b 1).toNat - fld v 100 28 * 2 ^ 28) / 64
      exec (.cohLookup e) s = .next (moveOk s e
        (regSet (regSet (regSet y 1 (BitVec.ofNat 64 k)) 2 (entryWord (entBits (entryOf s k)) 0)) 3 (entryWord (entBits (entryOf s k)) 1))))

/-- A slot channel's commands and EN: SLOT.ON, its timeout, SLOT.OFF, SLOT.STATUS, ramp end, qualification, EN low and high, settings, VDD_PCD.
(13_slot_power.md R318; 13_slot_power.md R319; 13_slot_power.md R321; 13_slot_power.md R323; 13_slot_power.md R325; 13_slot_power.md R329;
13_slot_power.md Table 13.4; 01_architecture.md R23; 01_architecture.md R24) -/
def Obligations.SlotChannelStartsAndStops : Prop :=
  (∀ (e : EngineId) (s : State) (adc : SlotAdc),
    let x := regSet (engineOf s e) 1 0
    let c := wfld (blockWord (engineOf s e) (wordAt (engineOf s e)) 0) 0 5
    let h := slotAdc (slotOf s c) adc
    let h1 := { h with cmdOn := true }
    let s1 := setSlot s c h
    (Begins s e 0xA2 [rowBits [(4, 0)]] 0 .any false → slotScope s e c = true → h.st = 3 → h.enPin = true →
      exec (.slotOn e adc) s = .next (moveOk (setSlot s c h1) e (regSet x 1 (slotWord (slotEff s c) h1)))) ∧
    (Begins s e 0xA2 [rowBits [(4, 0)]] 0 .any false → slotScope s e c = true → h.st ≠ 3 → h.st ≠ 4 → h.enPin = true →
      exec (.slotOn e adc) s = .next (setEngine (slotCmdOn s1 c) e { x with wait := .macroStep, seq := 1, seqA := c, seqB := s.clock + 100000000 })) ∧
    (Begins s e 0xA3 [rowBits [(4, 0)]] 0 .any false → slotScope s e c = true →
      exec (.slotOff e) s = .next (moveOk (slotOffTo s c { slotOf s c with cmdOn := false } 0) e x)) ∧
    (Begins s e 0xA4 [rowBits [(4, 0)]] 0 .any false → slotScope s e c = true →
      exec (.slotStatus e adc) s = .next (moveOk s1 e (regSet x 1 (slotWord (slotEff s1 c) (slotOf s1 c))))) ∧
    (waitsSlotOn (engineOf s e) (engineOf s e).seqA = true → (engineOf s e).seqB ≤ s.clock →
      exec (.slotOnTimeout e) s = .next (endChart (setEngine s e (engineOf s e)) e 7 (engineOf s e).pc))) ∧
  (∀ (c : ChannelId) (s : State) (adc : SlotAdc) (vds : Nat),
    let h := slotOf s c
    let v := slotEff s c
    let m := slotAdc h adc
    let off := { h with enPin := false }
    let up := { h with enPin := true }
    (vds ≤ 200 → h.st = 1 → h.driven = false →
      exec (.rampDone c vds) s = .next (setSlot s c { h with st := 2, qualAt := s.clock, qual := fld v 64 9 })) ∧
    (vds ≤ 200 → slotRuns h = true → h.st ≠ 1 → h.driven = true →
      exec (.rampDone c vds) s = .next (setSlot (raiseEvent s 0x413 c []) c { h with driven := false, activeB := h.gateB })) ∧
    (h.st = 2 → vds ≤ 200 → 9 * slotVnom v ≤ m.vout * 10 → h.inLimit = false → h.qualAt + h.qual * 100000 ≤ s.clock →
      exec (.slotPg c adc vds) s = .next (slotOnReturn (raiseEvent (setSlot s c { m with
        st := 3, pg := true, pgAt := s.clock, pgSince := true, limitUs := 0, limitAt := s.clock }) 0x410 c []) c)) ∧
    ((slotRuns h = true ∨ h.st = 5) → h.pg = false → exec (.enLowOff c) s = .next (raiseEvent (slotOffTo s c off 0) 0x416 c [])) ∧
    (slotRuns h = true → h.pg = true →
      exec (.enLowOff c) s = .next (raiseEvent (raiseEvent (slotOffTo s c off 0) 0x412 c []) 0x416 c [])) ∧
    (h.st = 4 → exec (.enLowLatchClear c) s = .next (raiseEvent (setSlot s c { off with st := 0 }) 0x416 c [])) ∧
    (h.st = 0 → h.cmdOn = true → exec (.enHigh c) s = .next (slotStart s c up)) ∧
    (¬(h.st = 0 ∧ h.cmdOn = true) → exec (.enHigh c) s = .next (setSlot s c up)) ∧
    (h.fresh = true → h.pg = true → exec (.slotSettingsApply c) s =
      .next (setSlot s c { h with fresh := false, eff := 0, okB := h.okB && slotFitB (tabVal s 0x38 c) })) ∧
    exec .vddPcdUndervoltage s =
      .next { (List.range 32).foldl (fun s c => perstAssert s (slotEff s c)) s with slots := [] })

/-- A slot channel's feeds and protection: validity, reverse current, handover, handback, undervoltage, the limit and its timer, severe
overcurrent. (13_slot_power.md R318; 13_slot_power.md R319; 13_slot_power.md R320; 13_slot_power.md R322; 13_slot_power.md R324;
13_slot_power.md R326; 13_slot_power.md R327; 13_slot_power.md R328; 13_slot_power.md Table 13.4) -/
def Obligations.SlotChannelFeedsAndLimits : Prop :=
  ∀ (c : ChannelId) (s : State) (dv : BitVec 10),
    let h := slotOf s c
    let v := slotEff s c
    let a := { h with feedA := dv.toNat, okA := true, validAt := s.clock }
    let n := { h with feedA := dv.toNat, okA := false }
    let i := { h with isense := dv.toNat, peak := max h.peak dv.toNat }
    let low := { h with vout := dv.toNat }
    (∀ above, 85 * slotVnom v ≤ dv.toNat * 100 → h.okA = false → h.st = 5 →
      exec (.feedValid c 0 dv above) s = .next (slotStart (raiseEvent (setSlot s c a) 0x413 c []) c a)) ∧
    (∀ above, 85 * slotVnom v ≤ dv.toNat * 100 → h.okA = false → slotRuns h = false → h.st ≠ 5 →
      exec (.feedValid c 0 dv above) s = .next (raiseEvent (setSlot s c a) 0x413 c [])) ∧
    (dv.toNat * 100 < 80 * slotVnom v → h.okA = true → slotRuns h = false →
      exec (.feedInvalid c 0 dv) s = .next (setSlot (raiseEvent s 0x413 c []) c n)) ∧
    (dv.toNat * 100 < 80 * slotVnom v → h.okA = true → slotRuns h = true → slotFed v n = false →
      exec (.feedInvalid c 0 dv) s = .next (slotStarve (raiseEvent s 0x413 c []) c n)) ∧
    (slotRuns h = true → h.gateA = true → slotPrio v = false →
      exec (.reverse c 0) s = .next (raiseEvent (setSlot s c { h with gateA := false }) 0x413 c [])) ∧
    (slotRuns h = true → h.gateB = true → slotPrio v = false →
      exec (.reverse c 1) s = .next (raiseEvent (setSlot s c { h with gateB := false }) 0x413 c [])) ∧
    (h.st = 3 → dv.toNat * 10 < 8 * slotVnom v → exec (.voutLow c dv) s =
      .next (raiseEvent (perstAssert (setSlot s c { low with st := 2, pg := false, qualAt := s.clock, qual := fld v 64 9 }) v) 0x412 c [])) ∧
    (h.st = 2 → dv.toNat * 10 < 9 * slotVnom v → exec (.voutLow c dv) s = .next (setSlot s c { low with qualAt := s.clock })) ∧
    (∀ vds, slotRuns h = true → h.inLimit = false → h.pg = true → s.clock < h.limitAt + 1000000 →
      slotLimitUv (slotIlim v) (fld h.ramp 44 12) vds ≤ dv.toNat * 200 →
      exec (.slotLimit c dv vds) s = .next (raiseEvent (setSlot s c { i with
        inLimit := true, foldback := decide (slotLimitUv (slotIlim v) (fld h.ramp 44 12) vds < slotIlim v * 500), qualAt := s.clock,
        limitAt := s.clock }) 0x414 c [])) ∧
    (∀ vds, slotRuns h = true → h.inLimit = true → dv.toNat * 200 < slotLimitUv (slotIlim v) (fld h.ramp 44 12) vds →
      exec (.slotLimit c dv vds) s = .next (setSlot s c { i with
        limitUs := h.limitUs + (s.clock - h.limitAt) / 1000, limitAt := s.clock, qualAt := s.clock, inLimit := false, foldback := false })) ∧
    (slotRuns h = true → h.inLimit = true → slotTimerUs v h ≤ h.limitUs + (s.clock - h.limitAt) / 1000 →
      exec (.limitTimerExpiry c) s = .next (raiseEvent (slotOffTo s c { h with trip := if h.pgSince then 1 else 2 } 4) 0x411 c
        [if h.pgSince then 1 else 2, h.peak])) ∧
    (h.inLimit = false → h.limitAt + 1000000 ≤ s.clock → exec (.limitCountReset c) s = .next (setSlot s c { h with limitUs := 0 })) ∧
    (slotRuns h = true → 15 * slotIlim v ≤ 2 * dv.toNat →
      exec (.severeOvercurrent c dv) s = .next (raiseEvent (slotOffTo s c { i with trip := 3 } 4) 0x411 c [3, i.peak])) ∧
    (∀ t, h.handover = some t → t + 2000 ≤ s.clock → slotRuns h = true →
      exec (.handoverConfirmed c) s = .next (setSlot s c { h with handover := none, driven := true, gateA := h.activeB, gateB := !h.activeB })) ∧
    (slotRuns h = true → slotPrio v = true → h.activeB = true → h.okA = true → h.handover = none → h.driven = false →
      h.validAt + 100000000 ≤ s.clock →
      exec (.handback c) s = .next (setSlot s c { h with gateA := false, gateB := false, handover := some s.clock, driven := false }))

/-- Every command of a slot channel keeps this: a channel that does not run has no gate on and no limit, and PG is asserted only in ON.
(13_slot_power.md R318; 13_slot_power.md R321; 13_slot_power.md R322; 13_slot_power.md Table 13.4) -/
def Obligations.SlotGatesAndPgOnlyWhileRunning : Prop :=
  let safe := fun s : State => smWf (fun _ => ({} : SlotCh)) s.slots = true ∧ ∀ c, let h := slotOf s c
    (slotRuns h = false → h.gateA = false ∧ h.gateB = false ∧ h.pg = false ∧ h.inLimit = false) ∧ (h.pg = true → h.st = 3)
  safe State.reset ∧
  ∀ (s t : State) (e : EngineId) (adc : SlotAdc) (c : ChannelId) (f : Fin 2) (dv : BitVec 10) (above : Bool) (vds : Nat),
    safe s → ∀ i ∈ [Instr.slotOff e, .slotStatus e adc, .feedValid c f dv above, .feedInvalid c f dv, .reverse c f, .rampDone c vds,
      .voutLow c dv, .slotLimit c dv vds, .limitTimerExpiry c, .limitCountReset c, .severeOvercurrent c dv, .enLowOff c, .enLowLatchClear c,
      .enHigh c, .handoverConfirmed c, .handback c, .slotSettingsApply c, .vddPcdUndervoltage], exec i s = .next t → safe t

/-- VF.ENABLE, VF.FROST and its timeout, VF.SAVE, VF.RESTORE, VF.THAW, VF.RESET. (14_service_endpoint.md R333; 14_service_endpoint.md R334;
14_service_endpoint.md R351; 14_service_endpoint.md R353; 14_service_endpoint.md R354; 14_service_endpoint.md R356; 14_service_endpoint.md
R357; 14_service_endpoint.md R358) -/
def Obligations.VfMacroResults : Prop :=
  ∀ (e : EngineId) (s : State),
    let x := regSet (engineOf s e) 1 0
    let b := blockWord (engineOf s e) (wordAt (engineOf s e))
    let u := wfld (b 0) 0 7
    let v := wfld (b 0) 0 11
    let a := (b 1).toNat
    let id := wfld (b 2) 0 16
    let due := { s with svc := { s.svc with frozen := smMod {} s.svc.frozen v fun z => { z with deadline := some (s.clock + 100000000) } } }
    (let d := vfEnableDrafts s x u (wfld (b 0) 16 9) (wfld (b 0) 28 4)
     let r := draftsAny s e (readsOf s x (vfReads s u)) d.2
     Begins s e 0xC0 [rowBits [(6, 0), (24, 16), (31, 28)]] 0 (.tile tileOfPort0) false → mayActOn s x u = true → d.1 = 0 → r.1 = 0 →
      exec (.vfEnable e) s = .next (moveOk r.2.1 e r.2.2)) ∧
    (Begins s e 0xC1 [vfWord] 0 (.tile tileOfVf0) true → vfObject s x v = 0 → funcState s v = 1 →
      let s1 := setLive s 0x3D v 0 4 2
      exec (.vfFrost e) s = .next (frostStep (setEngine { s1 with svc := due.svc } e
        { x with wait := .macroStep, seq := 1, seqA := v, seqB := 0 }) v)) ∧
    (Begins s e 0xC1 [vfWord] 0 (.tile tileOfVf0) true → vfObject s x v = 0 → 3 ≤ funcState s v → funcState s v ≤ 5 →
      exec (.vfFrost e) s = .next (moveOk s e x)) ∧
    (∀ (k : VfId) (t : Nat), (smGet {} s.svc.frozen k).deadline = some t → funcState s k = 2 → subRuns s k = true → t ≤ s.clock →
      exec (.vfFrostTimeout k) s = .next ((frostWaiters s k).foldl (fun s f => finish s f (engineOf s f) 7) s)) ∧
    (∀ y m sp q, Begins s e 0xC2 [vfWord, allBits, rowBits [(15, 0)]] 0 (.tile tileOfVf0) true → vfObject s x v = 0 → (funcState s v = 3 ∨ funcState s v = 4) →
      sessionOf s id = some y → a % 8 = 0 → Passes s x a 9920 true m sp q →
      let body := blobBody s v id (y.saveSeq + 1) y
      let s1 := sends s e x m sp q (body ++ padTo 64 (blobMac id y (y.saveSeq + 1) body))
      exec (.vfSave e) s = .next (moveOk (setLive
        { s1 with mer := { s1.mer with sessions := smPut s1.mer.sessions id { y with saveSeq := y.saveSeq + 1 } } } 0x3D v 0 4 4) e x)) ∧
    (∀ m sp q, Begins s e 0xC3 [vfWord, allBits, rowBits [(15, 0)]] 0 (.tile tileOfVf0) true → vfObject s x v = 0 → funcState s v = 3 → sessionOf s id ≠ none →
      a % 8 = 0 → Passes s x a 9920 false m sp q →
      exec (.vfRestore e) s = .next (setEngine (asks s e x m sp q 1240) e { x with wait := .macroStep, seq := 1, seqA := 0, seqB := 0 })) ∧
    (Begins s e 0xC4 [vfWord] 0 (.tile tileOfVf0) true → vfObject s x v = 0 → 3 ≤ funcState s v → funcState s v ≤ 5 →
      exec (.vfThaw e) s = .next (moveOk (thaw s v) e x)) ∧
    (Begins s e 0xC5 [vfWord] 0 (.tile tileOfVf0) true → vfObject s x v = 0 → exec (.vfReset e) s = .next (moveOk (vfReset s v) e x))

/-- FLR of a VF and of PF0, and VF Enable set and cleared by a host. (14_service_endpoint.md R336; 14_service_endpoint.md R337;
14_service_endpoint.md R358; 14_service_endpoint.md R359; 14_service_endpoint.md R360; 10_chart_engines.md R264) -/
def Obligations.FunctionResetsAndVfEnable : Prop :=
  (∀ (v : VfId) (s : State), funcState s v = 0 → exec (.vfFlr v) s = .next s) ∧
  (∀ (v : VfId) (s : State), Canonical s → funcState s v ≠ 0 → frostWaiters s v = [] →
    Does (.vfFlr v) s fun t => funcState t v = 1 ∧ funcGen t v = (funcGen s v + 1) % 16 ∧
      (∀ i, claimOf s i = v.val → claimOf t i = 0xFFFF) ∧ (∀ r ∈ t.ev.store, r.queue ≠ v.val) ∧
      t.hbm = s.hbm ∧ t.slots = s.slots ∧ t.locks = s.locks) ∧
  (∀ (p : PortId) (s : State), roleOf s p = 1 → exec (.pf0Flr p) s = .next (pfReset s p)) ∧
  (∀ (p : PortId) (s : State), roleOf s p ≠ 1 → exec (.pf0Flr p) s = .next s) ∧
  (∀ (p : PortId) (s : State), roleOf s p = 1 → exec (.vfEnableSet p) s =
    .next { s with internals := s.internals ++ [⟨p / 8, .vfEnable p (smGet {} s.svc.pf p).numVfs⟩] }) ∧
  (∀ (p : PortId) (s : State), roleOf s p = 1 → exec (.vfEnableClear p) s =
    .next (let t := (vfsOf s p).foldl vfReset s; { t with internals := t.internals ++ [⟨p / 8, .vfEnable p 0⟩] }))

/-- CMD_TAIL, CPL_HEAD, RING_ENABLE, RING_DISABLE, MSIX_UNMASK, MMIO_BAD, REGISTER_WRITE. (10_chart_engines.md R247; 14_service_endpoint.md
R339; 14_service_endpoint.md R340; 14_service_endpoint.md R343; 14_service_endpoint.md R344; 14_service_endpoint.md R352; 07_binding.md
R180; 00_scope.md R6) -/
def Obligations.DoorbellAndRegisterResults : Prop :=
  (∀ (f : FuncId) (j : Fin 8) (v : BitVec 16) (s : State) (r : Nat), fnRing s f j = some r →
    (f.val < 2048 → funcState s f < 2 ∨ 5 < funcState s f) → fnTileSt s f = 0 →
    (tabFld s 0x30 r 100 1 = 1 → v.toNat < 2 ^ (tabFld s 0x30 r 194 4 + 4) →
      exec (.cmdTail (some f) j v) s = .next { s with rings := smMod {} s.rings r fun x => { x with cmdTail := v.toNat } }) ∧
    (tabFld s 0x30 r 100 1 = 1 → v.toNat < 2 ^ (tabFld s 0x30 r 132 4 + 4) →
      exec (.cplHead (some f) j v) s = .next { s with rings := smMod {} s.rings r fun x => { x with cplHead := v.toNat } }) ∧
    (tabFld s 0x30 r 100 1 = 0 ∨ 2 ^ (tabFld s 0x30 r 194 4 + 4) ≤ v.toNat →
      exec (.cmdTail (some f) j v) s = .next (raiseEvent s 0x480 f [])) ∧
    (tabFld s 0x30 r 100 1 = 0 ∨ 2 ^ (tabFld s 0x30 r 132 4 + 4) ≤ v.toNat →
      exec (.cplHead (some f) j v) s = .next (raiseEvent s 0x480 f []))) ∧
  (∀ (f : FuncId) (j : Fin 8) (v : BitVec 16) (s : State) (r : Nat), fnRing s f j = some r → f.val < 2048 → 2 ≤ funcState s f →
    funcState s f ≤ 5 → exec (.cmdTail (some f) j v) s = .next (latchDoorbell s f 0 r v.toNat) ∧
      exec (.cplHead (some f) j v) s = .next (latchDoorbell s f 1 r v.toNat)) ∧
  (∀ (j : Fin 8) (v : BitVec 16) (s : State), tabFld s 0x30 j 100 1 = 1 → v.toNat < 2 ^ (tabFld s 0x30 j 194 4 + 4) →
    exec (.cmdTail none j v) s = .next { s with rings := smMod {} s.rings j fun x => { x with cmdTail := v.toNat } }) ∧
  (∀ (f : Option FuncId) (j : Fin 8) (s : State) (r : Nat), slotRing s f j = some r →
    (ringCommitting s r = true → exec (.ringEnable f j) s = .next s ∧ exec (.ringDisable f j) s = .next s) ∧
    (ringCommitting s r = false →
      let dest := match f with | some g => funcPort s g / 8 | none => 12
      exec (.ringEnable f j) s = .next { setRingSlot s r { ringSlot s r with enable := true } with internals := s.internals ++ [⟨dest, .ring r true⟩] } ∧
      exec (.ringDisable f j) s = .next { setRingSlot s r { ringSlot s r with enable := false } with internals := s.internals ++ [⟨dest, .ring r false⟩] })) ∧
  (∀ (f : FuncId) (vec : Fin 8) (s : State), smWf (fun _ => ({} : Msix)) s.svc.msix = true →
    let m := msixOf s f
    (m.pba.getLsbD vec = false → exec (.msixUnmask f vec) s = .next (setMsix s f { m with mask := m.mask &&& ~~~(BitVec.ofNat 8 (2 ^ vec.val)) })) ∧
    (m.pba.getLsbD vec = true → m.enable = true → m.fnMask = false → (funcState s f < 2 ∨ 5 < funcState s f) →
      ∃ u, exec (.msixUnmask f vec) s =
          .next (msixOut u (svcEp (funcPort s f)) 0 (funcPort s f) f vec (smGet 0 m.addr vec) (smGet 0 m.data vec)) ∧
        u = { s with svc := { s.svc with msix := u.svc.msix } } ∧
        msixOf u f = { m with mask := m.mask &&& ~~~(BitVec.ofNat 8 (2 ^ vec.val)), pba := m.pba &&& ~~~(BitVec.ofNat 8 (2 ^ vec.val)) })) ∧
  (∀ (f : FuncId) (off : BitVec 20) (s : State),
    exec (.mmioBad f off true) s = .next (raiseEvent (emit s (.completion (funcPort s f) 1 [])) 0x481 f [off.toNat]) ∧
    exec (.mmioBad f off false) s = .next (raiseEvent s 0x481 f [off.toNat])) ∧
  (∀ (f : FuncId) (v : BitVec 64) (s : State),
    (∀ off, off.toNat % 4 = 0 →
      exec (.registerWrite (.bar0 f off false) v) s = .next (barWrite s f off.toNat (v.toNat % 2 ^ 32))) ∧
    (∀ off, off.toNat % 8 = 0 →
      exec (.registerWrite (.bar0 f off true) v) s =
        .next (barWrite (barWrite s f off.toNat (v.toNat % 2 ^ 32)) f (off.toNat + 4) (v.toNat / 2 ^ 32 % 2 ^ 32))) ∧
    (∀ off, off.toNat % 4 ≠ 0 → exec (.registerWrite (.bar0 f off false) v) s = .next (raiseEvent s 0x481 f [off.toNat])) ∧
    (∀ off, off.toNat % 4 = 0 →
      exec (.registerWrite (.steward off false) v) s = .next (stewWrite s off.toNat (v.toNat % 2 ^ 32))) ∧
    exec (.registerWrite (.msixControl f) v) s =
      .next (msixFlush (setMsix s f { msixOf s f with enable := v.getLsbD 15, fnMask := v.getLsbD 14 }) f) ∧
    (∀ off, exec (.registerWrite (.config f off) v) s = .next { s with svc := { s.svc with
      config := smSetRun 0 s.svc.config (f * 4096 + off.toNat / 4 * 4) (natBytes 4 v.toNat) } }) ∧
    (∀ p, exec (.registerWrite (.numVfs p) v) s = .next { s with svc := { s.svc with
      pf := smMod {} s.svc.pf p fun c => if c.vfEnable then c else { c with numVfs := wfld v 0 16 } } }) ∧
    (∀ (p : PortId) (n : Fin 32) w, (smGet {} s.decRegs (tkey 0x12 (p * 32 + n))).committed = false →
      let d := { smGet ({} : DecReg) s.decRegs (tkey 0x12 (p * 32 + n)) with val := w &&& draftable 0x12, lockOn := fld w 46 1 == 1 }
      exec (.registerWrite (.uspDecoder p n w) v) s = .next { s with decRegs := smSet {} s.decRegs (tkey 0x12 (p * 32 + n)) d }) ∧
    (∀ (b : VppbId) (n : Fin 16) w, (smGet {} s.decRegs (tkey 0x13 (b * 16 + n))).committed = true → exec (.registerWrite (.vppbDecoder b n w) v) s = .next s) ∧
    (∀ p, exec (.registerWrite (.biId p) v) s = .next { s with
      biIds := smSet 0 s.biIds p (if v.getLsbD 16 then wfld v 0 12 + 1 else 0) }))

/-- A Steward core's access: HBM, registers, an aperture judged by the core's fence unit, or an access fault. (18_meridian_firmware.md R440;
18_meridian_firmware.md Table 18.10; 15_fences.md R365; 15_fences.md R366; 18_meridian_firmware.md R441) -/
def Obligations.StewardCoreAccessResults : Prop :=
  ∀ (c : CoreId) (addr : BitVec 64) (len : Fin 65) (bs ans : List Byte) (s : State),
    let n := len.val
    (∀ a, coreMap s addr.toNat n = .hbm a →
      exec (.stewardCoreAccess c addr none len ans) s = .next (emit s (.coreData c (hbmRead s a n)))) ∧
    (∀ a, coreMap s addr.toNat bs.length = .hbm a → exec (.stewardCoreAccess c addr (some bs) len ans) s = .next (hbmWrite s a bs)) ∧
    (∀ o, coreMap s addr.toNat bs.length = .regs o → (bs.length = 4 ∨ bs.length = 8) → o % bs.length = 0 →
      exec (.stewardCoreAccess c addr (some bs) len ans) s = .next (stewStore s o bs)) ∧
    (∀ o, coreMap s addr.toNat n = .regs o → (n = 4 ∨ n = 8) → o % n = 0 →
      exec (.stewardCoreAccess c addr none len ans) s = .next (emit (stewLoad s o n).2 (.coreData c (stewLoad s o n).1))) ∧
    (∀ o, coreMap s addr.toNat n = .regs o → ¬(n = 4 ∨ n = 8) →
      exec (.stewardCoreAccess c addr none len ans) s = .next (emit (emit s (.coreData c (List.replicate n 0xFF))) (.coreFault c))) ∧
    (∀ sp q, coreMap s addr.toNat n = .aperture sp q →
      let acc : Access := ⟨sp, q, n, true, false⟩
      ((judgeAccess s (144 + c.val) acc).1 = 0 → exec (.stewardCoreAccess c addr none len ans) s =
        .next (emit (apertureOut s c sp q n []) (.coreData c (slice ans 0 n)))) ∧
      ((judgeAccess s (144 + c.val) acc).1 ≠ 0 → exec (.stewardCoreAccess c addr none len ans) s =
        .next (emit (emit (recordDenial s (144 + c.val) acc (judgeAccess s (144 + c.val) acc)) (.coreData c (List.replicate n 0xFF)))
          (.coreFault c)))) ∧
    (coreMap s addr.toNat n = .outside →
      exec (.stewardCoreAccess c addr none len ans) s = .next (emit (emit s (.coreData c (List.replicate n 0xFF))) (.coreFault c))) ∧
    (coreMap s addr.toNat bs.length = .outside → exec (.stewardCoreAccess c addr (some bs) len ans) s = .next (emit s (.coreFault c)))

/-- MOVER.RUN, MOVER.POST, MOVER.WAIT, MOVER_TAKE, a mover's line, and the completion of a descriptor. (14_service_endpoint.md R345;
14_service_endpoint.md R347; 14_service_endpoint.md R348; 14_service_endpoint.md R349; 14_service_endpoint.md R350; 14_service_endpoint.md
R367; 15_fences.md R363) -/
def Obligations.MoverMacrosAndCompletion : Prop :=
  (∀ (e : EngineId) (s : State),
    let x := regSet (engineOf s e) 1 0
    let b := blockWord (engineOf s e) (wordAt (engineOf s e))
    let a := acceptDesc s e x ((List.range 8).map b)
    let i := wfld (b 0) 0 10
    (Begins s e 0xC8 descMasks 0 .any false → a.1 = 0 →
      exec (.moverRun e) s = .next (setEngine a.2.1 e { x with wait := .macroStep, seq := 1, seqA := a.2.2, seqB := 0 })) ∧
    (Begins s e 0xC9 descMasks 0 .any false → a.1 = 0 →
      exec (.moverPost e) s = .next (moveOk a.2.1 e (regSet x 1 (BitVec.ofNat 64 (a.2.2 + smGet 0 a.2.1.svc.issues a.2.2 * 1024))))) ∧
    (∀ d, Begins s e 0xCA [allBits] 0 .any false → descAt s i = some d → d.issue = wfld (b 0) 10 54 → d.engine = e.val → d.chart = x.serial →
      (d.finished = false → exec (.moverWait e) s = .next (setEngine s e { x with wait := .macroStep, seq := 1, seqA := i, seqB := 0 })) ∧
      (d.finished = true → d.status = 0 →
        exec (.moverWait e) s = .next (moveOk (setDesc s i { d with waited := true }) e (regSet (regSet x 1 d.res1) 2 d.res2)))) ∧
    (Begins s e 0xCA [allBits] 0 .any false → descAt s i = none → exec (.moverWait e) s = .next (endChart (setEngine s e x) e 5 x.pc))) ∧
  (∀ (m : MoverId) (s : State) (i : Nat) (d : Desc), fabricRuns s = true → moverFree s m = true → oldestDesc s.svc.descs = some (i, d) →
    let c := spansCheck s (some (96 + m.val)) 0 (dLen d.words) (sidesOf d.words)
    let y := { d with mover := some m.val }
    (c.1 = 0 → exec (.moverTake m) s = .next (setDesc c.2 i y)) ∧
    (c.1 ≠ 0 → exec (.moverTake m) s =
      .next (setDesc c.2 i { y with known := true, status := c.1, stage := 0, res1 := 0, res2 := 0 }))) ∧
  (∀ (m : MoverId) (s : State) (i : Nat) (d : Desc), moverDesc s m = some (i, d) → d.known = false → fabricRuns s = true → d.stage = 0 →
    (d.sub < 2048 → funcState s d.sub ≠ 2) → (dOp d.words = 2 ∨ dOp d.words = 3) → dDas d.words = 2 → d.badLine = false →
    let a := dDst d.words + d.progress
    let c := spansCheck s (some (96 + m.val)) d.progress 64 (sidesOf d.words)
    let bs := (List.range 8).flatMap fun _ => if dOp d.words = 2 then wordBytes (dPat d.words) else List.replicate 8 0
    c.1 = 0 → exec (.moverLineIssue m) s = .next (setDesc (newTxn c.2 { moverTxn c.2 m d 0x04 (hbmEp a) a 0 (some bs) with poison := false }) i
      { d with stage := 3 })) ∧
  (∀ (m : MoverId) (s u : State) (i : Nat) (d : Desc) (l : Landed), moverDesc s m = some (i, d) → d.known = false → fabricRuns s = true → d.stage = 3 →
    d.badLine = false → takeLanded s m = some (l, u) → l.rstat = 0 → dOp d.words ≠ 4 → dOp d.words ≠ 5 →
    (d.progress + 64 < dLen d.words →
      exec (.moverLineIssue m) s = .next (setDesc u i { d with progress := d.progress + 64, stage := 0, line := [] })) ∧
    (dLen d.words ≤ d.progress + 64 →
      exec (.moverLineIssue m) s = .next (setDesc u i { d with
        progress := d.progress + 64, stage := 0, line := [], known := true, status := 0, res1 := 0, res2 := BitVec.ofNat 64 (dLen d.words) }))) ∧
  (∀ (k : Fin 1024) (s : State) (d : Desc), descAt s k = some d → d.known = true → d.finished = false → 2048 ≤ d.sub →
    let y := { d with finished := true, mover := none }
    let s1 := setDesc s k y
    descWaiter s1 k y = none →
      (dFlags d.words % 2 = 0 → exec (.descriptorComplete k) s = .next s1) ∧
      (dFlags d.words % 2 = 1 →
        exec (.descriptorComplete k) s = .next (raiseEvent s1 0x482 (d.func.getD 0xFFFF) [d.status, d.res1.toNat, d.res2.toNat])))

/-- Event queues: head, enable, disable, OVF and FAULT cleared, a record written, lost or held, rate windows, interrupt moderation.
(16_events_almanac.md R381; 16_events_almanac.md R382; 16_events_almanac.md R385; 16_events_almanac.md R386; 16_events_almanac.md R387;
16_events_almanac.md R388; 16_events_almanac.md Table 16.7; 14_service_endpoint.md R352) -/
def Obligations.EventQueueResults : Prop :=
  ∀ (q : QueueId) (s : State),
    let e := eqOf s q
    (e.enable = false → exec (.eqEnable q) s = .next (setEq s q { e with
      enable := true, tail := 0, head := 0, phase := true, nextSeq := 0, ovf := false, faulted := false, lost := 0, icount := 0, ifirst := 0 })) ∧
    (e.enable = true → exec (.eqEnable q) s = .next s) ∧
    exec (.eqDisable q) s = .next (setEq s q { e with enable := false }) ∧
    exec (.ovfClear q) s = .next (setEq s q { e with ovf := false, lost := 0 }) ∧
    exec (.faultClear q) s = .next (setEq s q { e with faulted := false }) ∧
    (∀ v : BitVec 16, eqHeld s q = false → v.toNat < 2 ^ (e.size + 4) → exec (.eqHead q v) s = .next (setEq s q { e with head := v.toNat })) ∧
    (∀ v : BitVec 16, eqHeld s q = false → 2 ^ (e.size + 4) ≤ v.toNat →
      exec (.eqHead q v) s = .next (raiseEvent s 0x480 (if q.val < 2144 then q else 0xFFFF) [])) ∧
    (∀ v : BitVec 16, eqHeld s q = true → exec (.eqHead q v) s = .next (latchDoorbell s q 2 q v.toNat)) ∧
    (∀ r rest, takeFirst (fun x : EvRec => x.queue == q.val) s.ev.store = some (r, rest) →
      let s1 := { s with ev := { s.ev with store := rest } }
      (e.enable = false → exec (.eventRecordWrite q) s = .next s1) ∧
      (e.enable = true → eqHeld s q = true → exec (.eventRecordWrite q) s = .next (holdRecord s1 q r)) ∧
      (e.enable = true → eqHeld s q = false → (e.tail + 1) % 2 ^ (e.size + 4) = e.head % 2 ^ (e.size + 4) →
        exec (.eventRecordWrite q) s = .next (setEq s1 q { e with
          lost := min (2 ^ 32 - 1) (e.lost + 1), ovf := true, nextSeq := (e.nextSeq + 1) % 2 ^ 32 })) ∧
      (∀ h, e.enable = true → eqHeld s q = false → e.faulted = false → (e.tail + 1) % 2 ^ (e.size + 4) ≠ e.head % 2 ^ (e.size + 4) →
        2144 ≤ q.val → e.ien = false → coreMap s (e.base + 64 * e.tail) 64 = .hbm h →
        let t := (e.tail + 1) % 2 ^ (e.size + 4)
        exec (.eventRecordWrite q) s = .next (setEq (hbmWrite s1 h (recordBytes s1 r e.nextSeq e.phase)) q { e with
          tail := t, phase := if t = 0 then !e.phase else e.phase, nextSeq := (e.nextSeq + 1) % 2 ^ 32, icount := 0
          ifirst := if e.icount = 0 then s.clock else e.ifirst }))) ∧
    (∀ (i : Fin 1536) (subj : BitVec 16) w, s.ev.wins.find? (isWin i subj.toNat q) = some w → w.ends < s.ts →
      exec (.rateWindowEnd i subj q) s = .next { s with ev := (releaseWin s.tab (s.ev, s.cnt) w).1, cnt := (releaseWin s.tab (s.ev, s.cnt) w).2 }) ∧
    (e.ien = true → e.icount ≠ 0 → e.modTime ≠ 0 → e.ifirst + e.modTime * 1000 ≤ s.clock → 2144 ≤ q.val →
      exec (.interruptModerationTimeout q) s =
        .next (let t := setEq s q { smGet {} s.ev.queues q with icount := 0 }; emit t (.coreInt (eqOf t q).vec)))

/-- Timer expiries and pulse ends, counter ticks, dump blocks, bandwidth windows, trace records, the Almanac's periodic write.
(16_events_almanac.md R396; 16_events_almanac.md R402; 17_counters.md R406; 17_counters.md R408; 17_counters.md R412; 17_counters.md R413;
17_counters.md R414; 17_counters.md R418) -/
def Obligations.TimersCountersAndTraces : Prop :=
  (∀ (t : TimerId) (s : State) (n : Nat),
    let v := tabVal s 0x32 t
    let l := smGet {} s.timers t
    l.next = some n → fld v 0 1 = 1 → n ≤ s.ts → fld v 24 40 = 0 →
      (fld v 16 2 = 0 → fld v 15 1 = 0 → exec (.timerExpired t) s = .next { s with timers := smSet {} s.timers t { l with next := none } }) ∧
      (fld v 16 2 = 1 → fld v 15 1 = 1 → exec (.timerExpired t) s = .next (raiseEvent
        { s with timers := smSet {} s.timers t { l with next := none, driving := true, pulseEnd := some (s.clock + 1000) } } 0x583 t [s.ts, 0]))) ∧
  (∀ (t : TimerId) (s : State) (c : Nat),
    let l := smGet {} s.timers t
    l.pulseEnd = some c → c ≤ s.clock →
      exec (.timerPulseEnd t) s = .next { s with timers := smSet {} s.timers t { l with driving := false, pulseEnd := none } }) ∧
  (∀ s : State, s.cnt.nextTick ≤ s.ts → s.cnt.schedNew = false → fld s.cnt.sched 0 2 = 0 →
    let per := fld s.cnt.sched 80 24 * 100000
    exec .counterTick s = .next { s with cnt := { latchAll s (tickNow s) with nextTick := (s.ts / per + 1) * per } }) ∧
  (∀ s : State, s.cnt.dumpBusy = true → s.cnt.dumpDest = 1 →
    exec .dumpBlockComplete s = .next (count (let t := hbmSend s almanacEp s.cnt.dumpAddr s.cnt.dumpBlock 512
      { t with cnt := { t.cnt with dumpBusy := false, dumpBlock := [] } }) (devCtr 11) 1)) ∧
  (∀ (p : PortId) (n : Fin 2) (s : State),
    let i := portCtr p (20 + n)
    let w := 2 ^ fld (tabVal s 0x3C i) 5 5 * 1000
    let st := smGet 0 s.cnt.winStart i
    let b := if st % w = 0 then smGet 0 s.cnt.winAcc i else 0
    (st / w + 1) * w ≤ s.ts → fld (tabVal s 0x3C i) 0 1 = 1 →
      exec (.bwWindowEnd p n) s = .next (peak { s with cnt := { s.cnt with
        winAcc := smSet 0 s.cnt.winAcc i 0, winStart := smSet 0 s.cnt.winStart i (s.ts / w * w), live := smSet 0 s.cnt.live i b } }
        (portCtr p (22 + n)) b)) ∧
  (∀ (t : TraceId) (s : State) r rest,
    let b := smGet {} s.traces t
    let v := tabVal s 0x3F t
    let n := 2 ^ (fld v 96 4 + 10)
    let full := b.full || b.records + 1 == n
    b.held = r :: rest → fld v 0 1 = 1 → b.full = false →
      exec (.traceRecordWrite t) s = .next (let u := setLive (setLive (hbmWrite s (fld v 100 28 * 256 + 32 * (b.records % n)) (wordsBytes r))
          0x3F t 41 31 (min (2 ^ 31 - 1) (b.records + 1))) 0x3F t 18 1 (if full then 1 else 0)
        { u with traces := smSet {} s.traces t { b with held := rest, records := b.records + 1, full := full } })) ∧
  (∀ (k : Fin 20480) (s : State) o, (s.alm.openRecs.find? fun x => x.slot == k.val && x.changed && decide (x.written + 10000000000 ≤ s.ts)) = some o →
    exec (.almanacPeriodicWrite k) s = .next (let a := almWrite (almView s) s.alm o.slot o.rcd
      { s with alm := { a with openRecs := modFirst (fun x => x.slot == k.val) (fun x => { x with written := s.ts, changed := false }) a.openRecs } }))

/-- PCIe and CXL links: LINK_UP, recovery and return, low power in and out, PME_Turn_Off, loss and hot reset. (02_ports_protocols.md R48;
02_ports_protocols.md R50; 02_ports_protocols.md R52; 02_ports_protocols.md R62; 02_ports_protocols.md R64; 03_lanes.md R70;
14_service_endpoint.md R359; 02_ports_protocols.md Table 2.4) -/
def Obligations.CxlLinkStateResults : Prop :=
  ∀ (p : PortId) (s : State), cxlPort s p = true →
    (∀ stage rate width offers cxl cache inv, fabricRuns s = true → s.boot.settings = true → linkAlive s p = false → ltssm s p ≠ 0x0F →
      stage ≠ .up → stage ≠ .pollingCompliance →
      exec (.linkUp p stage rate width offers cxl cache inv) s = .next (setLive s 0x02 p 0 6 (trainingCode stage))) ∧
    (∀ rate offers cxl flit r, negotiate s p rate offers cxl = some (flit, r) →
      flit ∈ policyModes s p ∧ offers.getLsbD flit = true ∧ modeFits s p flit cxl = true ∧ r ≤ rate ∧ r ≤ tabFld s 0x01 p 6 4) ∧
    (∀ rate width offers cxl cache inv flit r, fabricRuns s = true → s.boot.settings = true → linkAlive s p = false → ltssm s p ≠ 0x0F →
      negotiate s p rate.val offers cxl = some (flit, r) →
      exec (.linkUp p .up rate width offers cxl cache inv) s = .next (
        let lanes := min (2 ^ width.val) (widthLanes (portWidth s p))
        let s1 := setLive s 0x02 p 0 20 (fld (mkEntry [(0, 0x0B), (6, r), (10, lanes), (15, flit), (17, 1)]) 0 20)
        let s2 := setLanesBit s1 (portLanes s1 p) 2 true
        let s3 := (portLanes s2 p).foldl (fun s l => setLaneBit s 5 (inv.getLsbD (l - firstLane p)) l) s2
        let s4 := { s3 with noCxl := smSet false s3.noCxl p (!cxl), woken := smSet false s3.woken p false
                            cxlCache := smSet false s3.cxlCache p (cxl && cache && roleOf s3 p == 2 && decide (cachingDevices s3 p < 16)) }
        let s5 := upClearsLost (adaptNow s4 p) p
        egressFlush (if roleOf s5 p = 1 ∧ !cxl then raiseEvent s5 0x080 p [] else s5) p)) ∧
    (∀ sub, 0x0B ≤ ltssm s p → ltssm s p ≤ 0x0D →
      exec (.recoveryEntry p sub) s = .next (count (lowEnd (setL0p (setLive s 0x02 p 0 6 0x06) p 0) p) (portCtr p 12) 1)) ∧
    (∀ sub : Fin 5, 0x06 ≤ ltssm s p → ltssm s p ≤ 0x0A → (sub ≠ 1 ∨ 2 ≤ tabFld s 0x02 p 6 4) →
      exec (.recoveryEntry p sub) s = .next (setLive s 0x02 p 0 6 (6 + sub.val))) ∧
    (∀ rate width, 0x06 ≤ ltssm s p → ltssm s p ≤ 0x0A → speedOk s p rate.val width.val = true →
      exec (.returnToL0 p rate width) s =
        .next (egressFlush (adaptNow (setLive (setLive (setLive s 0x02 p 0 6 0x0B) 0x02 p 6 4 rate) 0x02 p 10 5 (2 ^ width.val)) p) p)) ∧
    (∀ n : Fin 4, ltssm s p = 0x0B →
      (tabFld s 0x01 p 13 1 = 1 → flitOf s p = 0 → exec (.lowPowerEntry p 0 n) s = .next (lowBegin (setLive s 0x02 p 0 6 0x0C) p)) ∧
      (tabFld s 0x01 p 14 1 = 1 → exec (.lowPowerEntry p 1 n) s = .next (lowBegin (setL0p (setLive s 0x02 p 0 6 0x0D) p 0) p)) ∧
      (tabFld s 0x01 p 12 1 = 1 → flitOf s p = 2 → 2 ^ n.val < tabFld s 0x02 p 10 5 →
        exec (.lowPowerEntry p 2 n) s = .next (lowBegin (setL0p s p (2 ^ n.val)) p))) ∧
    ((ltssm s p = 0x0C ∨ ltssm s p = 0x0D) →
      exec (.lowPowerExit p) s = .next (egressFlush (adaptNow (lowEnd (setLive s 0x02 p 0 6 0x0B) p) p) p)) ∧
    (ltssm s p = 0x0E → exec (.lowPowerExit p) s = .next { setLive s 0x02 p 0 6 0x02 with woken := smSet false s.woken p true }) ∧
    (ltssm s p = 0x0B → tabFld s 0x02 p 19 1 = 1 → exec (.lowPowerExit p) s = .next (lowEnd (setL0p s p 0) p)) ∧
    (roleOf s p ≠ 4 → ltssm s p = 0x0B →
      exec (.pmeTurnOff p) s = .next (setL0p (setLive (setLive s 0x02 p 0 6 0x0E) 0x02 p 17 1 0) p 0)) ∧
    (let gone := fun code : Nat => let t := losePort s p code; if roleOf t p = 1 then pfReset t p else t
     linkAlive s p = true → smGet false s.detaching p = false →
      exec (.portLost p 0) s = .next (detectAbsence (gone 0x00) p) ∧ exec (.portLost p 1) s = .next (gone 0x0F) ∧
      exec (.portLost p 2) s = .next (gone 0x11)) ∧
    (linkAlive s p = true → smGet false s.detaching p = true → exec (.portLost p 0) s = .next (detectAbsence (linkDown s p 0) p)) ∧
    (linkAlive s p = false → smGet false s.woken p = false → ltssm s p ≠ 0x0F → ltssm s p ≠ 0 →
      exec (.portLost p 1) s = .next (setLive s 0x02 p 0 6 0x0F)) ∧
    (linkAlive s p = true → roleOf s p = 1 → exec (.hotResetReceived p) s =
      .next (let t := losePort s p 0x11; if roleOf t p = 1 then pfReset t p else t))

/-- After the loss of a DSP its status says LOST and not LINK_UP, its bindings are lost, and its pool members are lost. (02_ports_protocols.md
R62; 02_ports_protocols.md R63; 02_ports_protocols.md Table 2.4; 07_binding.md R193) -/
def Obligations.LostPortIsMarkedLost : Prop :=
  ∀ (p : PortId) (s : State), Canonical s → cxlPort s p = true → roleOf s p = 2 → linkAlive s p = true → smGet false s.detaching p = false →
    Does (.portLost p 1) s fun t =>
      tabFld t 0x02 p 20 1 = 1 ∧ tabFld t 0x02 p 17 1 = 0 ∧ tabFld t 0x02 p 0 6 = 0x0F ∧
      (∀ i, i < 4096 → i ∈ bindingsOf s p → bstate (tabVal s 0x11 i) = 1 → bstate (tabVal t 0x11 i) = 2) ∧
      (∀ g ∈ t.granules, registered s (g.1 / 2 ^ 28) ≠ 0 → g.1 / 2 ^ 28 / 16 ≠ p.val) ∧
      t.hbm = s.hbm ∧ t.claims = s.claims ∧ t.slots = s.slots

/-- IDE keys and MAC epochs, viral, and the loss and return of a reference pair. (02_ports_protocols.md R56; 02_ports_protocols.md R57;
03_lanes.md R75; 02_ports_protocols.md Table 2.4) -/
def Obligations.IdeViralAndReferenceResults : Prop :=
  (∀ (p : PortId) (s : State), cxlPort s p = true → tabFld s 0x02 p 17 1 = 1 →
    (∀ st, exec (.ideKeyManagement p st false) s = .next (raiseEvent s 0x082 p [])) ∧
    (∀ st : Fin 2, let up := smGet 0 s.ideUp p ||| 2 ^ st.val
      let s1 := { s with ideUp := smSet 0 s.ideUp p up }
      (up &&& ideNeeded s p = ideNeeded s p → exec (.ideKeyManagement p st true) s = .next (egressFlush (setLive s1 0x02 p 18 1 1) p)) ∧
      (up &&& ideNeeded s p ≠ ideNeeded s p → exec (.ideKeyManagement p st true) s = .next s1)) ∧
    (let ps := (((vcssOf s p).map (portsOfVcs s)).flatten).eraseDups.filter fun q => q != p.val
     exec (.viral p) s = .next (ps.foldl (fun s q => emit { s with viral := smSet false s.viral q true } (.link q 11 0)) s))) ∧
  (∀ (p : PortId) (msgs : List Msg) (s : State), cxlPort s p = true → tabFld s 0x02 p 18 1 = 1 →
    exec (.macEpochCheck p true msgs) s = .next (releaseUnits (msgs.foldl (fun s m => headerLookup s p m) s) p true) ∧
    exec (.macEpochCheck p false msgs) s = .next (setLive
      { raiseEvent (count (releaseUnits ((portBridges s p 0).foldl (fun s k => rasReport s k 16 []) s) p false) (portCtr p 13) 1) 0x082 p [] with ideUp := smSet 0 s.ideUp p 0 } 0x02 p 18 1 0)) ∧
  (∀ (r : RefPairId) (s : State),
    (smGet false s.refPair r = true → exec (.refLost r) s = .next (((List.range 16).map (16 * r.val + ·)).foldl refFails
      (raiseEvent (setLanesBit (setLanesBit (setLanesBit { s with refPair := smSet false s.refPair r false } (pairLanes s r) 0 false)
        (pairLanes s r) 1 false) (pairLanes s r) 4 true) 0x000 r []))) ∧
    (smGet false s.refPair r = false → exec (.refReturn r) s = .next (((List.range 16).map (16 * r.val + ·)).foldl trainAgain
      (setLanesBit (setLanesBit (setLanesBit { s with refPair := smSet false s.refPair r true } (pairLanes s r) 0 true)
        (pairLanes s r) 1 true) (pairLanes s r) 4 true))))

/-- Lookup, admission, cut-through units, selection, responses leaving, severe load, and the answer a lost port gives. (05_switch_core.md R125;
05_switch_core.md R127; 05_switch_core.md R128; 05_switch_core.md R142; 05_switch_core.md R144; 05_switch_core.md R146; 05_switch_core.md
R148; 05_switch_core.md R153; 05_switch_core.md R154; 02_ports_protocols.md R63) -/
def Obligations.SwitchCoreResults : Prop :=
  (∀ (p : PortId) (m : Msg) (s : State), fabricRuns s = true → portExists s p = true → roleOf s p ≠ 0 →
    exec (.headerLookup p m) s = .next (headerLookup s p m)) ∧
  (∀ (p : PortId) (c : Fin 6) (s : State) (i : Nat),
    (txnsWhere s fun t => t.phase == 0 && t.ingress == p.val && stageClass t == c.val).head? = some i →
    let t := txnOf s i
    let tile := p.val / 8
    let fits := queueCells s p t.dst t.cls + t.cells ≤ alphaOf (alphaCode s p t.cls) (poolFree s tile) ∧ t.cells ≤ poolFree s tile ∧ sliceFull s t = false
    fabricRuns s = true → portGated s t = false →
      (t.answer ≠ 0 → exec (.admission p c) s = .next (localAnswer (leaveStaging (dropTxn s i) t) p t (t.answer - 1))) ∧
      (t.answer = 0 → t.reply = true → exec (.admission p c) s = .next (setTxn (leaveStaging s t) i { t with phase := 1, cost := 0 })) ∧
      (t.answer = 0 → t.reply = false → fits → exec (.admission p c) s =
        .next (let s1 := count (setTxn (leaveStaging s t) i { t with phase := 1, cost := 0 }) (tileCtr tile (4 + t.cls)) 1
          reserve (lowest (peak s1 (tileCtr tile 0) (poolUsed s1 tile)) (tileCtr tile 3) (poolFree s1 tile)) i)) ∧
      (t.answer = 0 → t.reply = false → ¬fits → exec (.admission p c) s = .next (withhold s p (queueKey p t.dst t.cls)))) ∧
  (∀ (p : PortId) (cpl : Bool) (tag : BitVec 16) (data : List Byte) (poison bad : Bool) (s : State), tabFld s 0x02 p 18 1 = 1 →
    exec (.cutThroughUnit p cpl tag data poison bad) s = .next { s with macUnits := s.macUnits ++
      [{ port := p, cpl := cpl, tag := tag.toNat, data := data, poison := poison, bad := bad }] }) ∧
  (∀ (p : PortId) (cpl : Bool) (tag : BitVec 16) (data : List Byte) (poison : Bool) (s : State) (i : Nat),
    (txnsWhere s fun t => t.src == portEp p && t.cut && t.reply == cpl && !t.bad && t.tag == tag.toNat && decide (t.got < t.units) &&
      decide (t.phase ≤ 2)).head? = some i → tabFld s 0x02 p 18 1 ≠ 1 →
    let t := txnOf s i
    let s1 := setTxn s i { t with got := t.got + 1, data := t.data ++ data, poison := t.poison || poison }
    let s2 := if t.reply ∧ t.got + 1 = t.units then cutAnswered s1 i else s1
    (t.phase ≠ 2 → exec (.cutThroughUnit p cpl tag data poison false) s = .next s2) ∧
    (t.phase = 2 → exec (.cutThroughUnit p cpl tag data poison false) s = .next (sendPackets s2 i (txnPackets t))) ∧
    exec (.cutThroughUnit p cpl tag data poison true) s = .next (cancelTxn s i)) ∧
  (∀ (d : Fin 3072) (s : State) i m turn, fabricRuns s = true → (smGet {} s.paces d).freeAt ≤ s.clock * 1000 →
    pickNext s d = some (i, m, turn) →
    let s1 := reserve { s with scheds := m } i
    let t := txnOf s1 i
    let busy := match epPort d with | some p => if svcRate s1 p = 0 then 0 else charge t * 4000 / svcRate s1 p | none => 0
    let s2 := { s1 with paces := smSet {} s1.paces d { freeAt := max (smGet {} s.paces d).freeAt (s1.clock * 1000) + busy, turn := turn } }
    let s3 := if sameTile t.src t.dst then (match epTile t.dst with | some x => count s2 (tileCtr x 20) 1 | none => s2) else s2
    let s4 := match epPort d with | some p => peak s3 (tileCtr (p / 8) 2) (selectedCells s3 (fun q => q / 8 == p / 8) + if t.reply then 0 else t.cells) | none => s3
    exec (.egressSelect d) s = .next (sendPackets (setTxn s4 i { t with phase := 2, slot := wbSlot t }) i (txnPackets t))) ∧
  (∀ (p : PortId) (s : State) (i : Nat),
    (txnsWhere s fun t => atEgress p t && t.phase == 4).head? = some i → fabricRuns s = true → tabFld s 0x02 p 20 1 = 1 →
      exec (.responseLeaves p) s = .next (closeRemote (closeHome (count (dropTxn s i) (portCtr p 16) 1) (txnOf s i) (portEp p) 1) (txnOf s i) 1)) ∧
  (∀ (p : PortId) (s : State) (i : Nat),
    ((txnsWhere s (atEgress p)).find? fun i => mayLeave s p (if (txnOf s i).phase = 2 then { txnOf s i with ord := s.nextTxn } else txnOf s i)) = some i →
    fabricRuns s = true → roleOf s p ≠ 0 → roleOf s p ≠ 3 → tabFld s 0x02 p 20 1 = 0 →
    let t := txnOf s i
    let msg := fun (dl : Nat) (bs : List Byte) =>
      Out.port p (0x200 + t.cmd) (dl * 16 + (if t.rstat = 0 ∧ t.poison then 4 else t.rstat) + t.grant * 64) t.addr t.tag bs
    (t.phase = 2 → exec (.responseLeaves p) s = .next (let n := min t.data.length (128 * t.arrived)
      setTxn (emit s (msg t.devload ((leavingData t).take n))) i { t with sent := n })) ∧
    (t.phase ≠ 2 → t.sent = 0 →
      let mem := t.oc == 2 && roleOf s p == 1
      let own := ownLoad s p (match t.home with | some (g, _) => sliceEp g | none => t.src)
      let s1 := if mem ∧ own = 2 then count s (portCtr p 6) 1 else if mem ∧ own = 3 then count s (portCtr p 7) 1 else s
      let s2 := if silent s1 t then s1 else emit s1 (msg (if mem then max t.devload own else t.devload) (if dropsData t.kind ∨ t.noData then [] else leavingData t))
      exec (.responseLeaves p) s =
        .next (closeRemote (closeHome (countPort (dropTxn s2 i) p true t.oc t.len) t (portEp p) 0) t 0))) ∧
  (∀ (p q : PortId) (c : Fin 4) (s : State),
    let k := queueKey p (portEp q) c
    let t := smGet {} s.thrs k
    tabFld s 0x06 q 40 4 ≠ 0 → atThreshold s k = true → t.raised = false → t.since + tabFld s 0x06 q 40 4 * 1000000 ≤ s.clock + 1 →
      exec (.loadSevere p q c) s = .next (raiseEvent { s with thrs := smSet {} s.thrs k { t with raised := true } } 0x181 p [q, c])) ∧
  (∀ (p : PortId) (s : State) (i : Nat), (txnsWhere s (lossWaits s p)).head? = some i →
    exec (.lossResponseIssue p) s = .next (lossAnswer s p i))

/-- The lanes of a port: from L(32t+4k) four, eight or sixteen in a row; x8 only at even k, x16 only at k 0 or 4. (02_ports_protocols.md R38) -/
def Obligations.PortsTakeTheirLanes : Prop :=
  ∀ (s : State) (t k : Nat), t < 12 → k < 8 →
    let p := 8 * t + k
    (portWidth s p = 1 → portLanes s p = List.range' (32 * t + 4 * k) 4) ∧
    (portWidth s p = 2 → portLanes s p = List.range' (32 * t + 4 * k) 8 ∧ k % 2 = 0) ∧
    (portWidth s p = 3 → portLanes s p = List.range' (32 * t + 4 * k) 16 ∧ (k = 0 ∨ k = 4)) ∧
    (portExists s p = false → portLanes s p = []) ∧
    (portExists s p = true → portWidth s p = 1 ∨ portWidth s p = 2 ∨ portWidth s p = 3)

/-- ABORT: no draft and no reservation of the chart is left, the next instruction follows, STATUS is as before, and the chart may draft again.
(10_chart_engines.md R255) -/
def Obligations.AbortDiscardsEveryDraftAndReservation : Prop :=
  ∀ (e : EngineId) (s : State), Engines.wf s.engines = true → Runs s e 0x34 →
    Does (.abort e) s fun t =>
      (engineOf t e).drafts = [] ∧ (engineOf t e).status = (engineOf s e).status ∧ (engineOf t e).pc = (engineOf s e).pc + 1 ∧
      (engineOf t e).wait = .run ∧ (engineOf t e).regs = (engineOf s e).regs ∧
      (∀ f k, f < 16 → f ≠ e.val → reservedElsewhere t f k = true → ∃ g, g < 16 ∧ g ≠ e.val ∧ g ≠ f ∧ (engineOf s g).drafts.any (fun d => resKey d.key == resKey k) = true) ∧
      (∀ k v mask i, Draftable t e (engineOf t e) k i v mask → (draft t e (engineOf t e) k i v mask).1 = 0) ∧
      (∀ f, f ≠ e.val → engineOf t f = engineOf s f) ∧ t.tab = s.tab ∧ t.hbm = s.hbm ∧ t.commitNum = s.commitNum

/-- PERF.READ: the latched value in G1, the TS of the latch in G2; below Fabric tier only the port counters of the chart's own USP.
(17_counters.md R409) -/
def Obligations.PerfReadReturnsTheLatchedValue : Prop :=
  ∀ (e : EngineId) (s : State), Engines.wf s.engines = true → Begins s e 0xBB [rowBits [(15, 0)]] 0 (.tile tileOfCounter0) false →
    let x := engineOf s e
    let n := wfld (blockWord x (wordAt x) 0) 0 16
    entryExists s 0x3C n = true → smGet 0 s.cnt.latched n < 2 ^ 48 →
    ((2 ≤ x.tier ∨ (n < 0x0900 ∧ ∃ f, subFunc x.sub = some f ∧ funcPort s f = n / 24)) →
      Does (.perfRead e) s fun t =>
        ((regGet (engineOf t e) 1).toNat % 2 ^ 48 = smGet 0 s.cnt.latched n ∧ (regGet (engineOf t e) 1).toNat / 2 ^ 48 = 0) ∧
        regGet (engineOf t e) 2 = BitVec.ofNat 64 (latchTsOf s n) ∧ (engineOf t e).pc = x.pc + 1 ∧ (engineOf t e).status = 0) ∧
    (x.tier < 2 → ¬(n < 0x0900 ∧ ∃ f, subFunc x.sub = some f ∧ funcPort s f = n / 24) →
      exec (.perfRead e) s = .next (finish s e (regSet x 1 0) 1))

/-- COMMIT, its judgement and its flip: what each answers, and the state that a flip of entries that only hold values leaves.
(10_chart_engines.md R254; 10_chart_engines.md R256; 10_chart_engines.md R251; 10_chart_engines.md R252) -/
def Obligations.CommitIsJudgedAndFlips : Prop :=
  (∀ (e : EngineId) (s : State),
    (Runs s e 0x33 → (engineOf s e).drafts = [] → exec (.commit e) s = .next (moveOk s e (engineOf s e))) ∧
    (Stands s e 0x33 → (engineOf s e).drafts ≠ [] → exec (.commit e) s = .next
      (setEngine { s with arb := { s.arb with queue := s.arb.queue ++ [e.val] } } e { engineOf s e with wait := .commit }))) ∧
  (∀ (s : State) (e : Nat) (r : List Nat), fabricRuns s = true → s.arb.queue = e :: r →
    let x := engineOf s e
    let gone := { s with arb := { queue := r, judged := false } }
    let fails := count gone (devCtr 4) 1
    (s.arb.judged = false → x.wait = .commit → judge s x = 0 →
      exec .commitJudgement s = .next { s with arb := { s.arb with judged := true } }) ∧
    (s.arb.judged = false → x.wait = .commit → judge s x ≠ 0 → judge s x ≠ 9 →
      exec .commitJudgement s = .next (endChart (setEngine fails e { x with wait := .run }) e (judge s x) x.pc)) ∧
    (∀ d, s.arb.judged = false → x.wait = .commit → judge s x = 9 → lockedDraft s x = some d →
      exec .commitJudgement s = .next (endChart (setEngine (raiseEvent fails 0x502 (keyIdx d.key % 65536) []) e { x with wait := .run }) e 9 x.pc)) ∧
    (s.arb.judged = false → x.wait ≠ .commit → exec .commitJudgement s = .next gone) ∧
    (s.arb.judged = true → x.wait ≠ .commit → exec .commitFlip s = .next gone) ∧
    (s.arb.judged = true → x.wait = .commit → (∃ d ∈ x.drafts, (smGet (entryReset d.key) s.tab d.key).num ≠ d.num) →
      exec .commitFlip s = .next (endChart (setEngine fails e { x with wait := .run }) e 10 x.pc)) ∧
    (s.arb.judged = true → x.wait = .commit → (∀ d ∈ x.drafts, (smGet (entryReset d.key) s.tab d.key).num = d.num) →
      let k := s.commitNum + 1
      let u := lossesAfter (flip gone x)
      let y := { x with
        drafts := [], epoch := k, ncommit := x.ncommit + 1, wait := .run
        reads := x.reads.filter fun q => !(x.drafts.any fun d => d.key == q.1) && (smGet (entryReset q.1) u.tab q.1).num != k }
      let v := setEngine (if e < 12 then count u (tileCtr e 29) 1 else u) e y
      (x.seq = 0 → x.pc + 1 < x.ninstr → exec .commitFlip s = .next (moveOk v e y)) ∧
      (x.seq = 0 → x.ninstr ≤ x.pc + 1 → exec .commitFlip s = .next (endChart (setEngine v e { y with status := 0, seq := 0 }) e 8 x.pc)) ∧
      (x.seq ≠ 0 → exec .commitFlip s = .next (macroNext v e y)) ∧
      ((∀ d ∈ x.drafts, keyTab d.key ∈ [0x06, 0x07, 0x10, 0x12, 0x13, 0x14, 0x16, 0x17, 0x18, 0x21, 0x39, 0x3A]) →
        (∀ p, p < 96 → smGet 0 s.lostAt p ≠ s.clock + 1) → (∀ p, x.origin ≠ .resident 1 p) →
        let written := x.drafts.map fun d => (keyTab d.key, keyIdx d.key, merge (tabVal s (keyTab d.key) (keyIdx d.key)) d.val d.mask)
        u = count { gone with
          commitNum := k
          tab := written.foldl (fun m w => tabStore m (tkey w.1 w.2.1) ⟨w.2.2, k⟩) s.tab
          mer := { s.mer with reports := s.mer.reports ++ [⟨k, written, s.clock + 2000⟩] } } (devCtr 3) 1)))

/-- A drained epoch, a reached drain point and a finished walk: what they write, and the waiting macros that go on. (05_switch_core.md R126;
06_graticule_noc.md R170; 08_coherence.md R222; 08_coherence.md R225; 07_binding.md R191) -/
def Obligations.WalksDrainPointsAndEpochsLetMacrosGoOn : Prop :=
  let goOn := fun (s : State) => (List.range 16).foldl (fun s e =>
    match (engineOf s e).wait with
    | .drain kind target below _ => if drainOver s kind target below then macroNext s e { engineOf s e with wait := .run } else s
    | _ => s) s
  (∀ (pl : Plane) (s : State),
    let n := planeNo pl
    let sum := (epochSum s n (1 - planeEpoch s n)).toNat
    let shown := setLive s 0x0A n 3 16 (min 65535 sum)
    (planeDrains s n = false → exec (.epochDrainSum pl) s = .next (goOn s)) ∧
    (planeDrains s n = true → sum ≠ 0 → exec (.epochDrainSum pl) s = .next (goOn shown)) ∧
    (planeDrains s n = true → sum = 0 → exec (.epochDrainSum pl) s = .next (goOn { setLive shown 0x0A n 1 1 0 with
      routeOld := shown.routeOld.filter fun e => !((keyTab e.1 == 0x08 && keyIdx e.1 / 2304 == n) || (keyTab e.1 == 0x09 && keyIdx e.1 / 48 == n)) }))) ∧
  (∀ (ep : Fin 3072) (s : State),
    (∀ p, epPort ep = some p → exec (.drainPointReached ep) s = .next (goOn { s with
      granules := s.granules.filter fun g => !(g.1 / 2 ^ 28 / 16 == p && g.2.st == 4 && drainLeft s (portEp p) g.2.drain == 0) })) ∧
    (epPort ep = none → exec (.drainPointReached ep) s = .next (goOn s))) ∧
  (∀ (s : State) (w : Walk) (rest : List Walk), takeFirst (fun w => w.slices == 0xFFFF && (List.range 16).all (walkClear s w)) s.walks = some (w, rest) →
    let s1 := { s with walks := rest, lostWalked := if w.kind = 0 then smSet false s.lostWalked w.obj true else s.lostWalked }
    let s2 := if w.kind = 2 then s1 else raiseEvent s1 0x302 w.obj []
    (w.engine = none → exec .walkDone s = .next s2) ∧
    (∀ e, w.engine = some e → (engineOf s2 e).wait = .macroStep → (engineOf s2 e).seqA = w.obj → (engineOf s2 e).seq = 2 →
      exec .walkDone s = .next (macroNext s2 e { engineOf s2 e with wait := .run })) ∧
    (∀ e, w.engine = some e → (engineOf s2 e).wait ≠ .macroStep → exec .walkDone s = .next s2)) ∧
  (∀ (s : State), takeFirst (fun w => w.slices == 0xFFFF && (List.range 16).all (walkClear s w)) s.walks = none → exec .walkDone s = .next s)

/-- A router moves a lone packet one hop on its preferred output; STARVE; proxy ERRs; release reports, skip markers and closing packets.
(06_graticule_noc.md R155; 06_graticule_noc.md R162; 06_graticule_noc.md R164; 06_graticule_noc.md R172; 06_graticule_noc.md R173;
06_graticule_noc.md R174; 05_switch_core.md R130; 05_switch_core.md R135; 05_switch_core.md R137) -/
def Obligations.RoutersMovePacketsAndStreamsReport : Prop :=
  (∀ (pl : Plane) (r : RouterId) (s : State) (i : Nat) (p : Packet), fabricRuns s = true → smWf (fun _ => ({} : Router)) s.routers = true →
    let n := planeNo pl
    let x := routerOf s n r
    let d := nbits (routeEntry s n p.epoch r (epRouter p.dst)) 4 2
    let nb := neighbour r d
    i < 4 → x.inputs = [(i, p)] → x.inj = [] → epRouter p.dst ≠ r → usableOut s n r / 2 ^ d % 2 = 1 →
    Does (.routerCycle pl r 0 0 0) s fun t =>
      routerOf t n r = { x with inputs := [], firstIn := (x.firstIn + 1) % 4, firstOut := (x.firstOut + 1) % 4 } ∧
      routerOf t n nb = { routerOf s n nb with inputs := (routerOf s n nb).inputs ++ [(oppositeIn d, { p with hops := min 255 (p.hops + 1) })] } ∧
      (∀ m q, q < 48 → m < 2 → ¬(m = n ∧ (q = r ∨ q = nb)) → routerOf t m q = routerOf s m q) ∧ t.txns = s.txns ∧ t.tab = s.tab) ∧
  (∀ (pl : Plane) (r : RouterId) (hdr unit corr : BitVec 4) (s : State), fabricRuns s = true → smWf (fun _ => ({} : Router)) s.routers = true →
    let x := routerOf s (planeNo pl) r
    x.inputs = [] → x.inj = [] →
    Does (.routerCycle pl r hdr unit corr) s fun t =>
      routerOf t (planeNo pl) r = { x with firstIn := (x.firstIn + 1) % 4, firstOut := (x.firstOut + 1) % 4 } ∧
      (∀ m q, q < 48 → m < 2 → ¬(m = planeNo pl ∧ q = r) → routerOf t m q = routerOf s m q) ∧ t.txns = s.txns) ∧
  (∀ (pl : Plane) (r : RouterId) (s : State),
    let x := routerOf s (planeNo pl) r
    (256 ≤ x.wait → x.inj ≠ [] → x.starve = false →
      exec (.starve pl r) s = .next (starveAny (setRouter s (planeNo pl) r { x with starve := true }) (planeNo pl))) ∧
    (x.wait < 256 ∨ x.starve = true → exec (.starve pl r) s = .next s)) ∧
  (∀ (ep : Fin 3072) (s : State), (endpOf s ep).proxy = true → (endpOf s ep).leaving = false →
    let x := endpOf s ep
    let sent := fun y : Endp => count (setEndp s ep y) (routerCtr 0 (epRouter ep) 6) 1
    (∀ p rest, x.errs = p :: rest → (endpOf (inject (sent { x with errs := rest }) p) ep).leaving = false →
      exec (.proxyErrIssue ep) s = .next (inject (sent { x with errs := rest }) p)) ∧
    (x.errs = [] → x.handed = [] → exec (.proxyErrIssue ep) s = .next s)) ∧
  (∀ (ep : Fin 3072) (s : State), (endpOf s ep).proxy = true → (endpOf s ep).leaving = true → (endpOf s ep).errs = [] → (endpOf s ep).handed = [] →
    exec (.proxyErrIssue ep) s = .next (setEndp s ep { endpOf s ep with proxy := false, leaving := false })) ∧
  (∀ (dst src : Fin 3072) (oc : Fin 6) (s : State) (a : Nat), (streamOf s (streamKey src dst oc)).relAt = some a →
    (a + 1000 ≤ s.clock → exec (.relReportTimer dst src oc) s = .next (sendRel s src dst oc)) ∧
    (s.clock < a + 1000 → exec (.relReportTimer dst src oc) s = .next s)) ∧
  (∀ (ep : Fin 3072) (s : State) (p : Packet) (rest : List Packet),
    (takeFirst (fun p : Packet => p.cmd == 0x50 && p.dst == ep.val) s.arrived = some (p, rest) →
      exec (.rel ep) s = .next (let s1 := { s with arrived := rest }
        let k := streamKey p.dst p.src p.oc
        setStream s1 k { streamOf s1 k with unreleased := ((streamOf s1 k).next + 1024 - p.arg % 1024) % 1024 })) ∧
    (takeFirst (fun p : Packet => p.cmd == 0x51 && p.dst == ep.val) s.arrived = some (p, rest) →
      (∀ t, epTile ep = some t → exec (.skip ep) s = .next (resequence (count { s with arrived := rest } (tileCtr t 16) 1) p)) ∧
      (epTile ep = none → exec (.skip ep) s = .next (resequence { s with arrived := rest } p))) ∧
    (takeFirst (fun p : Packet => p.cmd == 0x52 && p.dst == ep.val) s.arrived = some (p, rest) →
      (∀ t, epTile ep = some t → exec (.close ep) s = .next (resequence (count { s with arrived := rest } (tileCtr t 17) 1) p)) ∧
      (epTile ep = none → exec (.close ep) s = .next (resequence { s with arrived := rest } p))))

/-- MRD, MRD_OWN, MRD_NA, MWR and MWR_PTL at their home slice, for a line whose entry is on die: Table 8.6 state by state. (08_coherence.md
R208; 08_coherence.md R209; 08_coherence.md R210; 08_coherence.md R211; 08_coherence.md R213; 08_coherence.md R214; 08_coherence.md R224;
08_coherence.md Table 8.6; 09_gazetteer.md R233) -/
def Obligations.HomeServesRequestsByTheStateOfTheLine : Prop :=
  ∀ (g : SliceId) (d : DieRead) (s : State) (i k n : Nat) (rest : List Nat),
    let x := sliceOf s g
    let s1 := setSlice s g { x with inq := rest }
    let x1 := sliceOf s1 g
    let cmd := (txnOf s i).cmd
    fabricRuns s = true → x.ready = true → x.sink = [] → x.conf.length < 256 → x.scq.length < 64 → x.inq = i :: rest → (txnOf s1 i).home.map (·.2) = some k →
    let go := fun (t : State) => (cmd = 1 → exec (.mrd g d) s = .next t) ∧ (cmd = 2 → exec (.mrdOwn g d) s = .next t) ∧
      (cmd = 3 → exec (.mrdNa g d) s = .next t) ∧ (cmd = 4 → exec (.mwr g d) s = .next t) ∧ (cmd = 5 → exec (.mwrPtl g d) s = .next t)
    let busy := (actOf x1 k).isSome = true ∨ 255 ≤ (entryOf s1 k).opn ∨ (x1.conf.any fun j => homeLine s1 j == some k) = true
    let s2 := dieErrors (count (setSlice s1 g { x1 with act := x1.act ++ [{ key := k, txn := some i }] }) (sliceCtr g 0) 1) g k d
    (busy → go (setSlice s1 g { x1 with conf := x1.conf ++ [i] })) ∧
    (¬busy → findDie s2 k = none → go (count s2 (sliceCtr g 2) 1)) ∧
    (¬busy → findDie s2 k = some n →
      let v := touchWay (count s2 (sliceCtr g 1) 1) n
      lacksTracker v g k i (wayOfNo v n).ent = true → go (park v g k i)) ∧
    (¬busy → findDie s2 k = some n →
      let v := touchWay (count s2 (sliceCtr g 1) 1) n
      let w := openReq v g k n i
      let e := (wayOfNo w n).ent
      let r := reqAgent w i
      let t := txnOf w i
      let others := (sharerList e.sharers).filter fun c => some c != r
      let far := tabFld w 0x22 e.owner 4 2 = 2
      lacksTracker v g k i (wayOfNo v n).ent = false → applyLoss w (sliceOf w g) k e = e → t.cmd = cmd →
      (e.st = 0 →
        (cmd = 1 → go (endAct (toMemory (restS w n (only r)) g k i 3 1) g k)) ∧
        (cmd = 2 → go (endAct (toMemory (markGrant (restO w n (r.getD 0)) g k i) g k i 3 2) g k)) ∧
        (cmd = 3 → go (endAct (toMemory w g k i 3 0) g k)) ∧
        (cmd = 4 → go (endAct (toMemory w g k i 4 0) g k)) ∧ (cmd = 5 → go (endAct (toMemory w g k i 5 0) g k))) ∧
      (e.st = 1 →
        (cmd = 1 → go (endAct (toMemory (restS w n (e.sharers ||| only r)) g k i 3 1) g k)) ∧
        (cmd = 2 → others = [] → go (endAct (toMemory (markGrant (restO w n (r.getD 0)) g k i) g k i 3 2) g k)) ∧
        (cmd = 2 → others ≠ [] → go (startSnoops w g k n 0x10 4 others [])) ∧
        (cmd = 3 → go (endAct (toMemory w g k i 3 0) g k)) ∧
        (cmd = 4 ∨ cmd = 5 → go (startSnoops w g k n 0x10 4 (sharerList e.sharers) []))) ∧
      (e.st = 2 → r ≠ some e.owner ∨ cmd = 3 →
        (cmd = 1 → ¬far → go (startSnoops w g k n 0x11 5 [e.owner] [])) ∧
        (cmd = 1 → far → go (startSnoops w g k n 0x13 5 [e.owner] (fwdUnit t.spid t.tag 0))) ∧
        (cmd = 2 → ¬far → go (startSnoops w g k n 0x10 5 [e.owner] [])) ∧
        (cmd = 2 → far → go (startSnoops w g k n 0x13 5 [e.owner] (fwdUnit t.spid t.tag 1))) ∧
        (cmd = 3 → go (startSnoops w g k n 0x12 5 [e.owner] [])) ∧
        (cmd = 4 ∨ cmd = 5 → go (startSnoops w g k n 0x10 5 [e.owner] []))) ∧
      (e.st = 2 → r = some e.owner →
        (cmd = 1 → go (endAct (toMemory w g k i 3 1) g k)) ∧ (cmd = 2 → go (endAct (toMemory (if (sliceOf w g).voids.any (· == k) then markGrant w g k i else w) g k i 3 2) g k)) ∧
        (cmd = 4 → go (endAct (toMemory w g k i 4 0) g k)) ∧ (cmd = 5 → go (endAct (toMemory w g k i 5 0) g k))) ∧
      (e.st = 3 →
        (cmd = 1 ∨ cmd = 2 ∨ cmd = 3 → go (endAct (fromSlice w g i 0x23 4) g k)) ∧
        (cmd = 4 → go (endAct (toMemory (restI w n) g k i 4 0) g k)) ∧ (cmd = 5 → go (endAct (toMemory w g k i 5 0) g k))))

/-- WB, SNP_RSP, ERR, DONE, the waiting lists, backing reads and patrols, walks, the cleared directory, and messages at the edge.
(08_coherence.md R209; 08_coherence.md R210; 08_coherence.md R211; 08_coherence.md R215; 08_coherence.md R218; 08_coherence.md R219;
08_coherence.md R222; 08_coherence.md R224; 09_gazetteer.md R230; 09_gazetteer.md R237; 09_gazetteer.md R239; 09_gazetteer.md R243) -/
def Obligations.AnswersClosuresAndWalksAtTheHome : Prop :=
  (∀ (g : SliceId) (d : DieRead) (s : State) (i : Nat) (rest : List Nat), fabricRuns s = true → (sliceOf s g).ready = true → (sliceOf s g).sink = i :: rest →
    let s0 := setSlice s g { sliceOf s g with sink := rest }
    let t := txnOf s0 i
    let k := t.key
    let a := agentOfPid s0 t.spid
    let s1 := dieErrors s0 g k d
    (∀ b n c, (txnOf s i).cmd = 0x25 → findDie s1 k = some n → a = some c → (wayOfNo s1 n).ent.st = 2 → (wayOfNo s1 n).ent.owner = c → actOf (sliceOf s1 g) k = none →
      applyLoss s1 (sliceOf s1 g) k (wayOfNo s1 n).ent = (wayOfNo s1 n).ent → agentOfPid s1 (txnOf s1 i).spid = a → (txnOf s1 i).mval = t.mval →
      let s2 := toMemory (changeEnt s1 n (keptEnt (wayOfNo s1 n).ent a (t.mval / 16 % 4))) g k i 0x04 0
      exec (.wb g d b) s = .next (if (wayOfNo s2 n).ent.st = 0 ∧ (wayOfNo s2 n).ent.opn = 0 then removeEnt s2 n else s2)) ∧
    (∀ b h, (txnOf s i).cmd = 0x25 → findDie s1 k = none →
      let s2 := setErrors s1 (keySet k) b
      backOwned s2 g k a = some h →
      let e := keptEnt (backOf s2 (keySet k) h) a (t.mval / 16 % 4)
      exec (.wb g d b) s = .next (toMemory (setBack s2 (keySet k) h (if e.st = 0 then {} else e)) g k i 0x04 0)) ∧
    (∀ b, (txnOf s i).cmd = 0x25 → findDie s1 k = none →
      let s2 := setErrors s1 (keySet k) b
      backOwned s2 g k a = none → exec (.wb g d b) s = .next (takeRequest (setTxn s2 i { t with home := some (g.val, k) }) g i {})) ∧
    (∀ c, (txnOf s i).cmd = 0x22 → agentOfPid s1 t.spid = some c →
      exec (.snpRsp g d) s = .next (snoopAnswer (dropTxn s1 i) g k c (t.mval / 16 % 4) (t.mval / 8 % 2 == 1))) ∧
    ((txnOf s i).cmd = 0x22 → agentOfPid s1 t.spid = none → exec (.snpRsp g d) s = .next (dropTxn s1 i)) ∧
    (∀ c n v, (txnOf s i).cmd = 0x21 → agentOfPid s1 t.dpid = some c → findDie s1 k = some n → actOf (sliceOf s1 g) k = some v →
      ¬((wayOfNo (dropTxn s1 i) n).ent.st = 5 ∧ (wayOfNo (dropTxn s1 i) n).ent.owner = c ∧ astate (dropTxn s1 i) c = 2) →
      exec (.err g d) s = .next (snoopAnswer (dropTxn s1 i) g k c 0 false)) ∧
    (∀ c n v j, (txnOf s i).cmd = 0x21 → agentOfPid s1 t.dpid = some c → findDie s1 k = some n → actOf (sliceOf s1 g) k = some v →
      (wayOfNo (dropTxn s1 i) n).ent.st = 5 → (wayOfNo (dropTxn s1 i) n).ent.owner = c → astate (dropTxn s1 i) c = 2 → v.txn = some j →
      exec (.err g d) s = .next (homeAct (putEnt (dropTxn s1 i) n (ownerGone (sliceOf (dropTxn s1 i) g) k (wayOfNo (dropTxn s1 i) n).ent)) g k n j)) ∧
    (let s2 := dieErrors (dropTxn s0 i) g k d
     let x := sliceOf s2 g
     let mine := fun o : OpenTx => o.key == k && o.tag == t.tag && o.spid == t.spid && o.ingress == t.ingress
     ((txnOf s i).cmd = 0x27 → findDie s2 k = none → exec (.done g d) s = .next (count s2 (sliceCtr g 15) 1)) ∧
     ((txnOf s i).cmd = 0x27 → takeFirst mine x.opens = none → exec (.done g d) s = .next (count s2 (sliceCtr g 15) 1)) ∧
     (∀ n o others, (txnOf s i).cmd = 0x27 → findDie s2 k = some n → takeFirst mine x.opens = some (o, others) →
      let s3 := setSlice s2 g { x with opens := others, voids := if t.rstat = 1 ∧ o.grant then x.voids ++ [k] else x.voids }
      let s4 := setWay s3 n { wayOfNo s3 n with ent := { (wayOfNo s3 n).ent with opn := (wayOfNo s3 n).ent.opn - 1 }, modified := true }
      actOf (sliceOf s4 g) k = none → exec (.done g d) s = .next (settleEnt (sendReady s4 g k []) g k n)))) ∧
  (∀ (g : SliceId) (s : State),
    let x := sliceOf s g
    (∀ d i k rest, takeFirst (mayActivate s g) x.conf = some (i, rest) → homeLine s i = some k →
      exec (.conflictListActivate g d) s = .next (activate (setSlice s g { x with conf := rest }) g k i d)) ∧
    (∀ d, x.conf = [] → exec (.conflictListActivate g d) s = .next s) ∧
    (∀ b a i, (x.act.find? fun a => a.stage == 0 && (match a.txn with | some _ => true | none => false)) = some a → a.txn = some i →
      exec (.backingReadReturn g b) s = .next (lookupSet (setErrors s (keySet a.key) b) g a.key i false)) ∧
    (∀ k rest a i, takeFirst (fun k => oldestOfSet x k && canTake s k) x.scq = some (k, rest) → actOf x k = some a → a.txn = some i →
      exec (.setConflictRelease g) s = .next (fillScq (lookupSet (setSlice s g { x with scq := rest }) g k i true) g)) ∧
    (∀ k, takeFirst (fun k => oldestOfSet x k && canTake s k) x.scq = none → x.scq.find? (lacksVictim s x) = some k →
      exec (.setConflictRelease g) s = .next (startEviction (readSet s (keySet k)) (keySet k))) ∧
    (x.scq = [] → exec (.setConflictRelease g) s = .next s) ∧
    (∀ b, tabFld s 0x24 g 16 8 ≠ 0 → x.ready = true → x.patrolAt + tabFld s 0x24 g 16 8 * 3600000000000 / 2 ^ 24 ≤ s.clock →
      exec (.patrolRead g b) s =
        .next (setErrors (setSlice s g { x with patrol := (x.patrol + 1) % 2 ^ 24, patrolAt := s.clock }) (patrolSet g x.patrol) b)) ∧
    (∀ b, tabFld s 0x24 g 16 8 = 0 ∨ s.clock < x.patrolAt + tabFld s 0x24 g 16 8 * 3600000000000 / 2 ^ 24 → exec (.patrolRead g b) s = .next s) ∧
    (∀ errs w, (s.walks.find? fun w => w.slices / 2 ^ g.val % 2 == 0) = some w →
      let s0 := walkErrors s g errs
      let s1 := (sliceKeys s0 g).foldl (fun s k => walkLine s w g k) s0
      (walkClear s1 w g = true → exec (.lossWalk g errs) s =
        .next { s1 with walks := modFirst (fun v => v == w) (fun v => { v with slices := v.slices + 2 ^ g.val }) s1.walks }) ∧
      (walkClear s1 w g = false → exec (.lossWalk g errs) s = .next s1))) ∧
  (∀ (s : State), s.boot.hbm = true → s.boot.dirClear = false → exec .directoryClearDone s =
    .next { (List.range 16).foldl (fun s g => setSlice s g { sliceOf s g with ready := true }) s with
      backing := [], ways := [], plru := [], boot := { s.boot with dirClear := true } }) ∧
  (∀ (p : PortId) (addr : BitVec 64) (tag : BitVec 16) (m : Msg) (own data : Bool) (s : State),
    exec (.biConflict p addr tag) s = .next (emit s (.port p 0x300 0 addr.toNat tag.toNat [])) ∧
    (portExists s p = true → roleOf s p ≠ 0 → exec (.memInv p own m) s = .next (let q := { m with kind := .memInv own }
      lookupOutcome (countPort (count s (tileCtr (p.val / 8) 25) 1) p false 1 0) p q (lookupTarget s p q))) ∧
    exec (.cleanEvict p tag data) s = .next (emit s (.port p 0x301 (if data then 1 else 0) 0 tag.toNat [])) ∧
    exec (.d2hUnsupported p tag) s = .next (raiseEvent (emit s (.port p 0x302 7 0 tag.toNat [])) 0x307 p [])) ∧
  (∀ (p : PortId) (s : State) (i : Nat), (txnsWhere s fun t => t.phase == 4 && t.cmd == 0x13 && t.dst == portEp p).head? = some i →
    let t := txnOf s i
    let kind := leAt t.data 6 1 % 2
    let f : Fwd := { port := p, line := t.addr, kind := kind, reqPid := leAt t.data 0 2 % 4096, reqTag := leAt t.data 2 2, homePid := t.spid }
    exec (.snpFwd p) s = .next (emit { dropTxn s i with fwds := s.fwds ++ [f] } (.port p (if kind = 0 then 0x111 else 0x110) 0 t.addr t.tag []))) ∧
  (∀ (p : PortId) (addr : BitVec 64) (kept : Fin 3) (s : State) (f : Fwd) (rest : List Fwd),
    takeFirst (fun f : Fwd => f.port == p.val && f.line == addr.toNat) s.fwds = some (f, rest) →
    let s1 := { s with fwds := rest }
    exec (.proxySnoopAnswer p addr kept none) s = .next (toPid s1 p f.homePid 0x22 (kept.val * 16) f.line f.reqTag []) ∧
    (∀ d, tabFld s 0x17 f.reqPid 12 3 = 1 → exec (.proxySnoopAnswer p addr kept (some d)) s =
      .next (toPid (deliverFwd s1 f.reqPid f.reqTag d) p f.homePid 0x25 (kept.val * 16 + 12) f.line f.reqTag d)) ∧
    (∀ d, tabFld s 0x17 f.reqPid 12 3 ≠ 1 → exec (.proxySnoopAnswer p addr kept (some d)) s =
      .next (toPid (toPid s1 p f.reqPid 0x24 0 f.line f.reqTag d) p f.homePid 0x25 (kept.val * 16 + 12) f.line f.reqTag d))) ∧
  (∀ (p : PortId) (pid : BitVec 12) (tag : BitVec 16) (data : List Byte) (s : State),
    exec (.dataFwd p pid tag data) s = .next (deliverFwd (countPort s p false 2 data.length) pid.toNat tag.toNat data))

/-- Scrubbing, expired offers, overdue releases, decoders' host charts, the mailbox of a pooled logical device, and deferred registration.
(07_binding.md R180; 07_binding.md R187; 07_binding.md R191; 07_binding.md R192; 07_binding.md R193; 07_binding.md Table 7.8;
12_survey_hotplug.md R302) -/
def Obligations.PoolExtentsDecodersAndMailbox : Prop :=
  (∀ (m : MoverId) (s : State),
    (∀ k g, moverFree s m = true → scrubMember s = some k → dirtyGranule s k = some g →
      let n := dirtyRun s k g 4
      let s1 := (List.range n).foldl (fun s i => setGranule s k (g + i) { st := 1 }) s
      exec (.scrubStart m) s = .next (setDesc { s1 with scrubs := s1.scrubs ++ [⟨k, g, n, m⟩] } (1024 + m) (scrubDesc k g n m))) ∧
    (moverFree s m = false → exec (.scrubStart m) s = .next s) ∧
    (descAt s (1024 + m) = none → exec (.zeroComplete m) s = .next s) ∧
    (∀ d c, descAt s (1024 + m) = some d → d.known = true → (s.scrubs.find? fun c => c.mover == m.val) = some c →
      let s1 := { s with svc := { s.svc with descs := smDel s.svc.descs (1024 + m) }, scrubs := s.scrubs.filter fun d => d.mover != m.val }
      (d.status = 0 → exec (.zeroComplete m) s = .next ((List.range c.n).foldl (fun s i => setGranule s c.mem (c.first + i) { st := 2 }) s1)) ∧
      (d.status ≠ 0 → exec (.zeroComplete m) s =
        .next (raiseEvent ((List.range c.n).foldl (fun s i => setGranule s c.mem (c.first + i) { st := 0 }) s1) 0x282 (c.mem / 16) [c.first])))) ∧
  (∀ (x : ExtentId) (s : State),
    let e := tabVal s 0x15 x
    let a := smGet 0 s.offers x
    (estate e = 1 → a ≠ 0 → a + 2000000000 ≤ s.clock + 1 → acceptedNow s x a = false →
      exec (.offerExpired x) s = .next (extentChange (deviceUpdate s [(0x15, x, setFld e 22 3 0)]) x e (setFld e 22 3 0) false)) ∧
    (estate e ≠ 1 ∨ s.clock + 1 < a + 2000000000 ∨ acceptedNow s x a = true → exec (.offerExpired x) s = .next s) ∧
    (estate e = 3 → a ≠ 0 → a + 10000000000 ≤ s.clock + 1 → smGet false s.overdue x = false →
      exec (.releaseOverdue x) s = .next (raiseEvent { s with overdue := smSet false s.overdue x true } 0x284 x [])) ∧
    (estate e ≠ 3 ∨ s.clock + 1 < a + 10000000000 ∨ smGet false s.overdue x = true → exec (.releaseOverdue x) s = .next s)) ∧
  (∀ (d : Fin 68608) (s : State), decoderForeign s d = true →
    exec (.decoderCommit d) s = .next { s with decRegs := smMod {} s.decRegs (decoderKey d) fun r => { r with error := true } }) ∧
  (∀ (d : Fin 68608) (s : State), decoderShown s d = true → decoderBusy s (decoderKey d) = false →
    let r := smGet {} s.decRegs (decoderKey d)
    (r.committed = false → exec (.decoderCommit d) s = .next { s with internals := s.internals ++ [⟨12, .decoder (decoderKey d) true false⟩] }) ∧
    (r.committed = true → exec (.decoderCommit d) s = .next s) ∧
    (r.committed = true → r.lockOn = false →
      exec (.decoderUncommit d) s = .next { s with internals := s.internals ++ [⟨12, .decoder (decoderKey d) false false⟩] }) ∧
    (r.committed = true → r.lockOn = true → exec (.decoderUncommit d) s = .next s)) ∧
  (∀ (v : VppbId) (s : State) (p : Nat), pldOf s v = some p →
    let free := fun n => slice (wordsBytes ((List.range (n / 8 + 1)).map fun k => Config.freeValue (s.freeCtr + k))) 0 n
    exec (.identifyMemoryDevice v) s = .next (emit { s with freeCtr := s.freeCtr + 6 }
      (.mailbox v 0x4000 0 ((free 45).take 16 ++ natBytes 24 0 ++ (free 45).drop 16))) ∧
    exec (.getDynamicCapacityConfiguration v) s = .next (
      let maxg := tabFld s 0x14 p 0 28
      let used := ((listed s 0x15).filter fun i => estate (tabVal s 0x15 i) != 0 && epld (tabVal s 0x15 i) == p).length
      emit { s with freeCtr := s.freeCtr + 2 } (.mailbox v 0x4800 0 (natBytes 8 0x101 ++ natBytes 8 0 ++ natBytes 8 maxg ++ natBytes 8 (maxg * 2 ^ 28) ++
        natBytes 8 (2 ^ 28) ++ free 8 ++ natBytes 4 64 ++ natBytes 4 (64 - used) ++ natBytes 8 0))) ∧
    (∀ n start, exec (.getDynamicCapacityExtentList v n start) s = .next (
      let all := heldExtents s p
      let named := (all.drop start.toNat).take n.toNat
      emit { s with freeCtr := s.freeCtr + 1 } (.mailbox v 0x4801 0
        (natBytes 4 named.length ++ natBytes 4 all.length ++ free 4 ++ natBytes 4 0 ++ named.flatMap (extentBytes s))))) ∧
    (∀ e exts, exec (.addDynamicCapacityResponse v (e :: exts)) s =
      .next { s with internals := s.internals ++ [⟨12, .dcAdd v ((e :: exts).map (namedExtent s p 1)) []⟩] }) ∧
    exec (.addDynamicCapacityResponse v []) s = .next { s with internals := s.internals ++ [⟨12, .dcAdd v [] [(oldestOffer s p).getD 16384]⟩] } ∧
    (∀ exts, exec (.releaseDynamicCapacity v exts) s =
      .next { s with internals := s.internals ++ [⟨12, .dcRelease v (exts.map (namedExtent s p 3))⟩] }) ∧
    (∀ op, exec (.mailboxUnsupported v op) s = .next (emit s (.mailbox v op.toNat 0x03 [])))) ∧
  (∀ (v : VppbId) (s : State), pldOf s v = none → exec (.identifyMemoryDevice v) s = .next s ∧ exec (.getDynamicCapacityConfiguration v) s = .next s)

/-- Survey: presence, the automatic run, each step's end and bound, SURVEY.RUN, RECORD and DETACH, the button, and a lost partner.
(12_survey_hotplug.md R294; 12_survey_hotplug.md R296; 12_survey_hotplug.md R297; 12_survey_hotplug.md R298; 12_survey_hotplug.md R302;
12_survey_hotplug.md R304; 12_survey_hotplug.md R306; 12_survey_hotplug.md R307; 12_survey_hotplug.md R309; 12_survey_hotplug.md R310;
12_survey_hotplug.md Table 12.1; 12_survey_hotplug.md Table 12.6) -/
def Obligations.SurveyArrivalsAndDetaches : Prop :=
  (∀ (p : PortId) (s : State), portExists s p = true →
    (byPin s p = true → smGet false s.present p = false → exec (.presence p) s =
      .next (raiseEvent { s with present := smSet false s.present p true, arriving := smSet false s.arriving p true } 0x400 p [])) ∧
    (byPin s p = false → inBand s p = true → smGet false s.present p = false → exec (.presence p) s =
      .next (raiseEvent { s with present := smSet false s.present p true, arriving := smSet false s.arriving p true } 0x400 p [])) ∧
    (byPin s p = false → inBand s p = false → exec (.presence p) s = .next s) ∧
    (smGet false s.present p = true → exec (.presence p) s = .next s) ∧
    (smGet false s.present p = true → byPin s p = false → runOf s p = none → exec (.presenceAbsent p) s =
      .next (raiseEvent { s with present := smSet false s.present p false, arriving := smSet false s.arriving p false } 0x400 p [])) ∧
    (smGet false s.present p = false → exec (.presenceAbsent p) s = .next s) ∧
    (smGet false s.arriving p = true → roleOf s p ≠ 0 → (partnerOf s p).st ∈ [0, 3, 5, 6, 7] → surveying s p = false → detachOf s p = none →
      exec (.surveyStart p) s = .next { s with residents := s.residents ++ [{ engine := p / 8, kind := 0, port := p }], arriving := smSet false s.arriving p false }) ∧
    (smGet false s.arriving p = false → exec (.surveyStart p) s = .next s)) ∧
  (∀ (e : EngineId) (s : State), Begins s e 0xA8 [rowBits [(6, 0)]] 0 (.tile tileOfPort0) true →
    let p := wfld (blockWord (engineOf s e) (wordAt (engineOf s e)) 0) 0 7
    let q := partnerOf s p
    let x := regSet (regSet (engineOf s e) 1 0) 1 (BitVec.ofNat 64 q.outcome)
    portExists s p = true → roleOf s p ≠ 0 → surveying s p = false → detachOf s p = none →
    (q.st = 2 → q.flags % 2 = 1 → exec (.surveyRun e) s = .next (moveOk s e x)) ∧
    (q.st ≠ 2 → exec (.surveyRun e) s = .next (beginRun (setEngine s e { x with wait := .macroStep, seq := 1, seqA := p, seqB := 0 }) e p)) ∧
    (q.st = 2 → q.flags % 2 = 0 → exec (.surveyRun e) s = .next (
      let t := setEngine s e { x with wait := .macroStep, seq := 1, seqA := p, seqB := 0 }
      let r : SurveyRun := { engine := e, began := s.clock, grans := smGet [] s.stated p }
      step7 (setRun (modPartner t p fun q => { q with st := 1 }) p r) p r))) ∧
  (∀ (e : EngineId) (s : State), Begins s e 0xAA [rowBits [(6, 0)], rowBits [(15, 0)]] 0 (.tile tileOfPort0) false →
    let b := blockWord (engineOf s e) (wordAt (engineOf s e))
    let p := wfld (b 0) 0 7
    let off := wfld (b 1) 0 16
    off % 8 = 0 → portExists s p = true → 0x8000 ≤ off → off + 128 ≤ 0x10000 →
    exec (.surveyRecord e) s = .next (moveOk s e (setData (regSet (engineOf s e) 1 0) (areaWord off) (bytesWords (partnerBytes p (partnerOf s p)) 16)))) ∧
  (∀ (e : EngineId) (s : State), Begins s e 0xA9 [rowBits [(6, 0)]] 0 .glob true →
    let p := wfld (blockWord (engineOf s e) (wordAt (engineOf s e)) 0) 0 7
    let st := (partnerOf s p).st
    let t := modPartner { s with attn := smSet 0 s.attn p 0, detachAt := smSet 0 s.detachAt p 0 } p fun q => { q with st := 4, step := 1 }
    surveying s p = false → detachOf s p = none → portExists s p = true → st = 2 ∨ st = 3 ∨ st = 4 →
    (lostNow t p = false → exec (.surveyDetach e) s = .next (detach2 t e (regSet (engineOf s e) 1 0) p)) ∧
    (lostNow t p = true →
      let t1 := leavePool (modPartner { t with detaching := smSet false t.detaching p true } p fun q => { q with step := 7 }) p
      let t2 := disableLink t1 p
      let t3 := slotOffAt (match perstPin t2 p with | some g => { t2 with pinLow := smSet false t2.pinLow g true } | none => t2) p
      let t4 := modPartner { t3 with detaching := smSet false t3.detaching p false, detachAt := smSet 0 t3.detachAt p 0 } p fun q =>
        { q with st := 5, step := 8, departTs := t3.ts }
      exec (.surveyDetach e) s = .next (moveOk (raiseEvent t4 0x408 p []) e (regSet (engineOf s e) 1 0)))) ∧
  (∀ (p : PortId) (s : State) (r : SurveyRun), runOf s p = some r → lostNow s p = false →
    let k := (partnerOf s p).step
    (∀ x, k = 2 → slotReady s p r = true → exec (.surveyStepComplete p x) s = .next (startTraining (beginStep
      (modPartner s p fun q => { q with flags := q.flags ||| 16 }) p 3 r) p)) ∧
    (∀ x, k = 3 → trained s p = true → exec (.surveyStepComplete p x) s = .next (beginStep s p 4 r)) ∧
    (∀ x t gs, k = 4 → step4Found s p r.prev x = some (t, true, gs) → exec (.surveyStepComplete p x) s = .next (step5 t p { r with grans := gs })) ∧
    (∀ x t gs, k = 4 → step4Found s p r.prev x = some (t, false, gs) → exec (.surveyStepComplete p x) s = .next (runFails t p r 0x17)) ∧
    (∀ meas ide, k = 5 → exec (.surveyStepComplete p (.auth true meas ide)) s =
      .next (step6 (step5Passed s p meas (ide && tabFld s 0x01 p 15 1 == 1 && roleOf s p == 2)) p r)) ∧
    (∀ meas ide, k = 5 → exec (.surveyStepComplete p (.auth false meas ide)) s = .next (runFails s p r 0x14)) ∧
    (∀ lat bw gs, k = 6 → exec (.surveyStepComplete p (.cdat lat bw gs)) s =
      .next (step7 (modPartner s p fun q => { q with rdLat := lat.toNat, rdBw := bw.toNat }) p { r with grans := if gs.isEmpty then r.grans else gs.map (·.toNat) })) ∧
    (k = 3 → r.began + 1000000000 ≤ s.clock → trained s p = false → exec (.surveyStepTimeout p) s = .next (runFails s p r 0x12)) ∧
    (k = 4 → r.began + 1000000000 ≤ s.clock → exec (.surveyStepTimeout p) s = .next (runFails s p r 0x13)) ∧
    (k = 5 → r.began + 2000000000 ≤ s.clock → exec (.surveyStepTimeout p) s = .next (runFails s p r 0x14)) ∧
    (k = 6 → r.began + 1000000000 ≤ s.clock → exec (.surveyStepTimeout p) s = .next (step7 s p r)) ∧
    (∀ c, k = 2 → channelOf s p = some c → (slotOf s c).pg = false → (r.began + 100000000 ≤ s.clock ∨ (slotOf s c).st = 4) →
      exec (.surveyStepTimeout p) s = .next (runFails s p r 0x11)) ∧
    (∀ c g, k = 2 → channelOf s p = some c → perstPin s p = some g → (slotOf s c).pg = true → r.perst = false → (slotOf s c).pgAt + 100000000 ≤ s.clock →
      exec (.surveyPerstRelease p) s = .next { setRun s p { r with perst := true } with pinLow := smSet false s.pinLow g false })) ∧
  (∀ (p : PortId) (s : State),
    (∀ e, detachOf s p = some e → (engineOf s e).seq = 32 → smGet 0 s.detachAt p ≠ 0 → smGet 0 s.detachAt p + 10000000000 ≤ s.clock + 1 →
      exec (.detachTimeout p) s = .next (endChart (setEngine s e { engineOf s e with seq := 0 }) e 7 (engineOf s e).pc)) ∧
    (detachOf s p = none → exec (.detachTimeout p) s = .next s) ∧
    (∀ c, channelOf s p = some c → tabFld s 0x38 c 88 6 < 48 → detachOf s p = none →
      let s1 := raiseEvent s 0x406 p []
      (smGet 0 s.attn p = 0 → exec (.attention p) s = .next { s1 with attn := smSet 0 s1.attn p (s1.clock + 1) }) ∧
      (smGet 0 s.attn p ≠ 0 → s.clock + 1 ≤ smGet 0 s.attn p + 5000000000 →
        exec (.attention p) s = .next (raiseEvent { s1 with attn := smSet 0 s1.attn p 0 } 0x407 p []))) ∧
    (smGet 0 s.attn p ≠ 0 → smGet 0 s.attn p + 5000000000 ≤ s.clock + 1 → exec (.attentionDetachStart p) s =
      .next { s with attn := smSet 0 s.attn p 0, residents := s.residents ++ [{ engine := 12, kind := 2, port := p }] }) ∧
    (lostNow s p = true → detachOf s p = none → 1 ≤ (partnerOf s p).st → (partnerOf s p).st ≤ 4 → runOf s p = none →
      (roleOf s p = 3 ∨ smGet false s.present p = false ∨ smGet 0 s.lostAt p + 1000000000 ≤ s.clock + 1) →
      let t := slotOffAt (leavePool s p) p
      exec (.partnerLost p) s = .next (raiseEvent (modPartner { t with deferred := smSet [] t.deferred p [] } p fun q => { q with st := 6, departTs := t.ts }) 0x409 p [])) ∧
    (smGet [] s.deferred p ≠ [] → lostExtent s p = false → (partnerOf s p).st = 2 →
      let todo := smGet [] s.deferred p
      let t := todo.foldl (fun s t => memberFlip s (16 * p + t.1) (BitVec.ofNat 256 t.2)) (deviceUpdate s (todo.map fun t => (0x19, 16 * p.val + t.1, BitVec.ofNat 256 t.2)))
      exec (.deferredRegistration p) s = .next (registeredNow { t with deferred := smSet [] t.deferred p [] } p todo)))

/-- Fabric Manager API: identity, limits, event records, ports, PERST, switches, bind and unbind, AER, capacity commands, Unsupported.
(02_ports_protocols.md R60; 02_ports_protocols.md R61; 02_ports_protocols.md Table 2.8; 02_ports_protocols.md Table 2.9; 13_slot_power.md
R321; 16_events_almanac.md R389; 07_binding.md R196; 18_meridian_firmware.md R445) -/
def Obligations.FabricManagerQueriesAndSettings : Prop :=
  ∀ (src : MctpSrc) (tag : BitVec 8) (s : State),
    let said := fun (t : State) (code rc : Nat) (body : List Byte) =>
      emit t (.mctp (bindingOf src) code rc (natBytes 1 tag.toNat ++ natBytes 2 0 ++ body))
    let free := fun n => slice (wordsBytes ((List.range (n / 8 + 1)).map fun k => Config.freeValue (s.freeCtr + k))) 0 n
    let used := fun n => { s with freeCtr := s.freeCtr + n }
    let front := fun (code : Nat) (w : Word) (b : List Word) => { s with internals := s.internals ++ [⟨12, .fm (bindingOf src) tag.toNat code w b⟩] }
    let later := fun (code : Nat) (w : Word) (b : List Word) =>
      if s.mctp.bgRunning then said s code 6 [] else said { front code w b with mctp := { s.mctp with bgRunning := true, bgOpcode := code } } code 1 []
    (srcLetter s src = 5 → exec (.identify src tag) s = .next (said s 1 3 []) ∧ ∀ code, exec (.fmUnsupportedCommand src tag code) s = .next (said s code.toNat 3 [])) ∧
    (srcLetter s src = 4 → exec (.identify src tag) s = .next s) ∧
    (srcLetter s src ≠ 4 → srcLetter s src ≠ 5 →
      exec (.identify src tag) s = .next (said (used 1) 1 0 (natBytes 2 Config.vendorId.toNat ++ natBytes 2 0x9696 ++ free 4 ++ natBytes 8 Config.serial ++ [13, 0])) ∧
      (s.mctp.bgRunning = false → exec (.backgroundOperationStatus src tag) s =
        .next (said (used 1) 2 0 (natBytes 1 200 ++ [0] ++ natBytes 2 s.mctp.bgOpcode ++ natBytes 2 s.mctp.bgReturn ++ natBytes 2 s.mctp.bgExt))) ∧
      exec (.getResponseMessageLimit src tag) s = .next (said s 3 0 (natBytes 1 (Nat.log2 s.mctp.fmLimit))) ∧
      (∀ n : BitVec 8, 8 ≤ n.toNat → n.toNat ≤ 13 → exec (.setResponseMessageLimit src tag n) s =
        .next (said { s with mctp := { s.mctp with fmLimit := 2 ^ n.toNat } } 4 0 (natBytes 1 n.toNat))) ∧
      (∀ n : BitVec 8, n.toNat < 8 ∨ 13 < n.toNat → exec (.setResponseMessageLimit src tag n) s = .next (said s 4 2 [])) ∧
      (let e := eqOf s 4095
       let n := min (fmWaiting e) (fmFit s)
       exec (.getEventRecords src tag) s = .next (said s 0x100 0 (natBytes 1 (if e.ovf then 1 else 0) ++ natBytes 1 (if n < fmWaiting e then 1 else 0) ++ natBytes 4 e.lost ++
        natBytes 2 n ++ (List.range n).flatMap fun k => natBytes 2 (fmHandle s (e.head + k)) ++ fmRecord s (e.head + k))) ∧
       (∀ hs, fmNamed s e.head (fmWaiting e) hs = true → exec (.clearEventRecords src tag hs) s =
        .next (said (setEq s 4095 { e with head := (e.head + hs.length) % eqEntries e }) 0x101 0 [])) ∧
       (∀ hs, fmNamed s e.head (fmWaiting e) hs = false → exec (.clearEventRecords src tag hs) s = .next (said s 0x101 0x0E []))) ∧
      exec (.identifySwitchDevice src tag) s = .next (said s 0x5100 0 (natBytes 1 (match src with | .vdm p => p.val | _ => 0xFF) ++ [0, 96, 64] ++
        natBytes 32 (bitmap 96 (portExists s)) ++ natBytes 32 (bitmap 64 fun v => tabFld s 0x10 v 14 1 == 1) ++ natBytes 2 1024 ++
        natBytes 2 ((listed s 0x11).filter fun i => bstate (tabVal s 0x11 i) == 1).length ++ natBytes 1 32)) ∧
      (∀ ps, (∀ p ∈ ps, portExists s p.toNat = true) → exec (.getPhysicalPortState src tag ps) s =
        .next (let es := fmFitting (s.mctp.fmLimit - 32) (ps.map fun p => fmPort s p.toNat)
          said s 0x5101 0 (natBytes 4 es.length ++ es.flatten))) ∧
      (∀ ps, (∃ p ∈ ps, portExists s p.toNat = false) → exec (.getPhysicalPortState src tag ps) s = .next (said s 0x5101 2 [])) ∧
      (∀ (p : BitVec 8) g, fmPerst s p.toNat = some g →
        exec (.assertPerst src tag p) s = .next (said { s with pinLow := smSet false s.pinLow g true } 0x5102 0 []) ∧
        (∀ c, channelOf s p.toNat = some c → (slotOf s c).pg = true →
          exec (.deassertPerst src tag p) s = .next (said { s with pinLow := smSet false s.pinLow g false } 0x5102 0 []))) ∧
      (∀ p : BitVec 8, fmPerst s p.toNat = none →
        exec (.assertPerst src tag p) s = .next (said s 0x5102 3 []) ∧ exec (.deassertPerst src tag p) s = .next (said s 0x5102 3 [])) ∧
      (∀ (p : BitVec 8) reg data, portExists s p.toNat = true →
        exec (.sendPpbCxlIoConfigurationRequest src tag p true reg data) s =
          .next (said (bridgeWrite s (4160 + p.toNat) (reg.toNat / 4 * 4) data.toNat) 0x5103 0 []) ∧
        exec (.sendPpbCxlIoConfigurationRequest src tag p false reg data) s =
          .next (said s 0x5103 0 (bridgeRead s (4160 + p.toNat) (reg.toNat / 4 * 4) 4))) ∧
      (∀ vs, (∀ v ∈ vs, v.toNat < 64) → exec (.getVirtualCxlSwitchInfo src tag vs) s =
        .next (let es := fmFitting (s.mctp.fmLimit - 32) (vs.map fun v => fmVcs s v.toNat)
          said s 0x5200 0 (natBytes 4 es.length ++ es.flatten))) ∧
      (∀ (v k : Fin 64) (btype : BitVec 4) (p : BitVec 7) (ld : BitVec 4) (pld : BitVec 8), exec (.fmBindVppb src tag v k btype p ld pld) s =
        .next (later 0x5201 (macroWord 0x61 2) [BitVec.ofNat 64 (v.val + k.val * 2 ^ 8 + btype.toNat * 2 ^ 16),
          BitVec.ofNat 64 (p.toNat + ld.toNat * 2 ^ 8 + pld.toNat * 2 ^ 16)])) ∧
      (∀ (v k : Fin 64), exec (.fmUnbindVppb src tag v k) s = .next (later 0x5202 (macroWord 0x62 1) [BitVec.ofNat 64 (v.val + k.val * 2 ^ 8)])) ∧
      (∀ (v k : Fin 64) error header, tabFld s 0x10 v 14 1 = 1 → k.val < tabFld s 0x10 v 7 7 → exec (.generateAerEvent src tag v k error header) s =
        .next (said (emit (modBridge s (65 * v.val + k.val) fun b => { b with
          uncorr := b.uncorr ||| error.toNat, log := if b.uncorr = 0 then slice header 0 16 else b.log })
          (.port (tabFld s 0x10 v 0 7) 0x501 k error.toNat tag.toNat header)) 0x5203 0 [])) ∧
      exec (.getDcdInfo src tag) s = .next (said (used 2) 0x5600 0
        (natBytes 1 64 ++ natBytes 1 1 ++ free 8 ++ natBytes 8 (fmPoolGranules s * 2 ^ 28) ++ natBytes 8 (2 ^ 28))) ∧
      (∀ pld : BitVec 8, tabFld s 0x14 pld.toNat 36 1 = 1 →
        (let m := tabFld s 0x14 pld.toNat 0 28
         exec (.getHostDcRegionConfiguration src tag pld) s = .next (said (used 2) 0x5601 0 (natBytes 2 pld.toNat ++ natBytes 2 0x101 ++ natBytes 8 0 ++
          natBytes 8 m ++ natBytes 8 (m * 2 ^ 28) ++ natBytes 8 (2 ^ 28) ++ free 8))) ∧
        (∀ n start : BitVec 32, let all := heldExtents s pld.toNat
         let part := (all.drop start.toNat).take (min n.toNat ((s.mctp.fmLimit - 32) / 40))
         exec (.getDcRegionExtentLists src tag pld n start) s = .next (said (used 1) 0x5603 0 (natBytes 2 pld.toNat ++ natBytes 4 start.toNat ++
          natBytes 4 part.length ++ natBytes 4 all.length ++ free 4 ++ part.flatMap (extentBytes s))))) ∧
      (∀ (pld : BitVec 8) en (maxg : BitVec 28), exec (.setDcRegionConfiguration src tag pld en maxg) s = .next (front 0x5602 (macroWord 0x63 1)
        [BitVec.ofNat 64 (pld.toNat + (if en then 2 ^ 8 else 0) + maxg.toNat * 2 ^ 36)])) ∧
      (∀ (pld : BitVec 8) (p : BitVec 7) (ld : BitVec 4) shared auto (lg ng mg : BitVec 28), exec (.initiateDynamicCapacityAdd src tag pld p ld shared auto lg ng mg) s =
        .next (later 0x5604 (macroWord 0x64 3)
          [BitVec.ofNat 64 (pld.toNat + p.toNat * 2 ^ 8 + ld.toNat * 2 ^ 16 + (if shared then 2 ^ 20 else 0) + (if auto then 2 ^ 21 else 0)),
           BitVec.ofNat 64 (lg.toNat + ng.toNat * 2 ^ 28), BitVec.ofNat 64 (if auto then 0 else mg.toNat)])) ∧
      (∀ (x : ExtentId) force, exec (.initiateDynamicCapacityRelease src tag x force) s =
        .next (later 0x5605 (macroWord 0x65 1 (if force then 1 else 0)) [BitVec.ofNat 64 x.val])) ∧
      (∀ code, exec (.fmUnsupportedCommand src tag code) s = .next (said s code.toNat 3 [])))

/-- Fabric Manager API commands for an MLD go through its port's tunnel and are answered with its answer; without an MLD, Invalid Input.
(02_ports_protocols.md R60; 02_ports_protocols.md Table 2.8) -/
def Obligations.TunnelledCommandsReachTheMld : Prop :=
  ∀ (src : MctpSrc) (tag p : BitVec 8) (s : State), srcLetter s src ≠ 4 → srcLetter s src ≠ 5 →
    let said := fun (t : State) (code rc : Nat) (body : List Byte) =>
      emit t (.mctp (bindingOf src) code rc (natBytes 1 tag.toNat ++ natBytes 2 0 ++ body))
    let sent := fun (code : Nat) (b a : List Byte) => said (emit s (.port p.toNat 0x502 code 0 tag.toNat b)) code 0 a
    (fmMld s p.toNat = true → ∀ b a,
      exec (.tunnelManagementCommand src tag p b a) s = .next (sent 0x5300 b a) ∧
      exec (.getLdInfo src tag p b a) s = .next (sent 0x5400 b a) ∧
      exec (.getLdAllocations src tag p b a) s = .next (sent 0x5401 b a) ∧
      exec (.setLdAllocations src tag p b a) s = .next (sent 0x5402 b a) ∧
      exec (.getQosControl src tag p b a) s = .next (sent 0x5403 b a) ∧
      exec (.setQosControl src tag p b a) s = .next (sent 0x5404 b a) ∧
      exec (.getQosStatus src tag p b a) s = .next (sent 0x5405 b a) ∧
      exec (.getQosAllocatedBw src tag p b a) s = .next (sent 0x5406 b a) ∧
      exec (.setQosAllocatedBw src tag p b a) s = .next (sent 0x5407 b a) ∧
      exec (.getQosBwLimit src tag p b a) s = .next (sent 0x5408 b a) ∧
      exec (.setQosBwLimit src tag p b a) s = .next (sent 0x5409 b a) ∧
      (∀ (ld : BitVec 16) (reg : BitVec 12) (d r : BitVec 32), ld.toNat < (partnerOf s p.toNat).nld →
        exec (.sendLdCxlIoConfigurationRequest src tag p ld true reg d r) s =
          .next (said (emit s (.port p.toNat 0x504 (ld.toNat * 2 + 1) reg.toNat tag.toNat (natBytes 4 d.toNat))) 0x5301 0 []) ∧
        exec (.sendLdCxlIoConfigurationRequest src tag p ld false reg d r) s =
          .next (said (emit s (.port p.toNat 0x504 (ld.toNat * 2 + 0) reg.toNat tag.toNat [])) 0x5301 0 (natBytes 4 r.toNat))) ∧
      (∀ (ld : BitVec 16) (addr : BitVec 64) (d r : List Byte), ld.toNat < (partnerOf s p.toNat).nld →
        exec (.sendLdCxlIoMemoryRequest src tag p ld true addr d r) s =
          .next (said (emit s (.port p.toNat 0x505 (ld.toNat * 2 + 1) addr.toNat tag.toNat d)) 0x5302 0 []) ∧
        exec (.sendLdCxlIoMemoryRequest src tag p ld false addr d r) s =
          .next (said (emit s (.port p.toNat 0x505 (ld.toNat * 2 + 0) addr.toNat tag.toNat [])) 0x5302 0 r))) ∧
    (fmMld s p.toNat = false → ∀ b a,
      exec (.tunnelManagementCommand src tag p b a) s = .next (said s 0x5300 2 []) ∧
      exec (.getLdInfo src tag p b a) s = .next (said s 0x5400 2 []) ∧
      exec (.setQosBwLimit src tag p b a) s = .next (said s 0x5409 2 []) ∧
      (∀ ld wr reg d r, exec (.sendLdCxlIoConfigurationRequest src tag p ld wr reg d r) s = .next (said s 0x5301 2 [])) ∧
      (∀ ld wr addr d r, exec (.sendLdCxlIoMemoryRequest src tag p ld wr addr d r) s = .next (said s 0x5302 2 [])))

/-- MCTP control, vendor commands that read or submit, admission, messages discarded, and the SPDM responder with its sessions.
(18_meridian_firmware.md R430; 18_meridian_firmware.md R431; 18_meridian_firmware.md R432; 18_meridian_firmware.md R433;
18_meridian_firmware.md R434; 18_meridian_firmware.md R444; 18_meridian_firmware.md R445; 18_meridian_firmware.md R446;
18_meridian_firmware.md Table 18.6; 18_meridian_firmware.md Table 18.7; 18_meridian_firmware.md Table 18.12; 12_survey_hotplug.md R304) -/
def Obligations.ManagementAndSpdmMessages : Prop :=
  (∀ (src : MctpSrc) (s : State),
    let ctl := fun (t : State) (code : Nat) (body : List Byte) => emit t (.mctp (bindingOf src) (0x100 + code) 0 body)
    (∀ eid : BitVec 8, exec (.setEndpointId src eid) s =
      .next (ctl { s with mctp := { s.mctp with eids := smSet 0 s.mctp.eids (bindingOf src) eid.toNat } } 1 [eid])) ∧
    exec (.getEndpointId src) s = .next (ctl s 2 (natBytes 1 (smGet 0 s.mctp.eids (bindingOf src)))) ∧
    exec (.getEndpointUuid src) s = .next (ctl s 3 (natBytes 16 Config.serial)) ∧
    exec (.getMctpVersionSupport src) s = .next (ctl s 4 []) ∧
    exec (.getMessageTypeSupport src) s = .next (ctl s 5 [0x00, 0x05, 0x06, 0x07, 0x7E]) ∧
    exec (.getVendorDefinedMessageSupport src) s = .next (ctl s 6 (natBytes 2 Config.vendorId.toNat)) ∧
    (∀ (typ : BitVec 8) len, typ.toNat ∉ [0x00, 0x05, 0x06, 0x07, 0x7E] ∨ 65600 < len ∨ (typ ≠ 0x7E ∧ 8256 < len) →
      exec (.mctpDiscard src typ len) s = .next { s with mctp := { s.mctp with discarded := s.mctp.discarded + 1 } })) ∧
  (∀ (src : MctpSrc) (tag : BitVec 16) (s : State),
    let ans := fun (t : State) (cmd st : Nat) (body : List Byte) =>
      emit t (.mctp (bindingOf src) cmd st (natBytes 1 cmd ++ natBytes 1 st ++ natBytes 2 tag.toNat ++ body))
    let l := srcLetter s src
    (l ∈ [0, 1, 2, 3] → ∀ entry words, exec (.chart src tag entry words) s = .next (
      let r := match src with | .smbus => 9 | .i3c => 10 | _ => 11
      let q := smGet {} s.rings r
      { s with rings := smSet {} s.rings r { q with msgs := q.msgs ++ [{ binding := bindingOf src, entry := entry, words := words }] } })) ∧
    (l ∈ [0, 1, 2, 3] → ∀ p : BitVec 8, portExists s p.toNat = true →
      exec (.partner src tag p) s = .next (ans s 2 0 (partnerBytes p.toNat (partnerOf s p.toNat)))) ∧
    (l ∈ [0, 1, 2, 3] → ∀ p : BitVec 8, portExists s p.toNat = false → exec (.partner src tag p) s = .next (ans s 2 5 [])) ∧
    (l ∈ [0, 1, 2] → ∀ slot : BitVec 32, slot.toNat < 20480 →
      exec (.almanac src tag slot) s = .next (ans s 3 0 (almBytes (almRecordAt s.alm slot.toNat)))) ∧
    (l ∈ [0, 1, 2] → ∀ slot : BitVec 32, 20480 ≤ slot.toNat → exec (.almanac src tag slot) s = .next (ans s 3 5 [])) ∧
    (l ∈ [0, 1, 2, 3] → exec (.legend src tag) s = .next (ans s 4 0 (legendBytes s))) ∧
    (l ∈ [0, 1, 2, 3] → ∀ body : List Byte, 1 ≤ body.length → body.length ≤ 8192 → s.stw.running = true →
      exec (.steward src tag body) s = .next (emit { s with stw := { s.stw with mailRx := body } } (.steward 2 body))) ∧
    (l ∈ [0, 1, 2, 3] → ∀ body : List Byte, 1 ≤ body.length → body.length ≤ 8192 → s.stw.running = false → exec (.steward src tag body) s = .next (ans s 0x20 5 [])) ∧
    (l ∉ [0, 1, 2, 3] → exec (.legend src tag) s = .next (ans s 4 1 []) ∧ (∀ p, exec (.partner src tag p) s = .next (ans s 2 1 [])) ∧
      (∀ body, exec (.steward src tag body) s = .next (ans s 0x20 1 [])) ∧ ∀ entry words, exec (.chart src tag entry words) s = .next (ans s 1 1 [])) ∧
    (s.mer.running = true → l ∈ [0, 1, 2, 4] → exec (.admitRead src tag) s = .next (ans s 5 0 (natBytes 12 s.sec.admitMask.toNat)) ∧
      ∀ mask, exec (.admitWrite src tag mask) s = .next (ans { s with sec := { s.sec with admitMask := mask } } 5 0 (natBytes 12 mask.toNat))) ∧
    (s.mer.running = false → exec (.admitRead src tag) s = .next s)) ∧
  (∀ (via : SpdmVia) (s : State), s.mer.running = true → viaOk s via = true →
    let ans := fun (t : State) (code : Nat) (body : List Byte) => emit t (.mctp (viaOf via) (0x500 + code) 0 body)
    exec (.getVersion via) s = .next (ans { s with mer := { s.mer with spdmState := 1 } } 0x04 [0x13, 0x12]) ∧
    exec (.getCapabilities via) s = .next (ans { s with mer := { s.mer with spdmState := 2 } } 0x61
      (ascii "CERT CHAL MEAS MEAS_FRESH KEY_EX MUT_AUTH ENCRYPT MAC KEY_UPD HBEAT CHUNK")) ∧
    exec (.negotiateAlgorithms via) s = .next (ans { s with mer := { s.mer with spdmState := 3 } } 0x63 (ascii "ECDSA P-521 SHA-512 secp521r1 AES-256-GCM DMTF")) ∧
    exec (.getDigests via) s = .next (ans s 0x01 ([1] ++ sha (certChain s))) ∧
    exec (.getCertificate via 0) s = .next (ans s 0x02 (certChain s)) ∧
    (∀ slot : Fin 8, slot ≠ 0 → exec (.getCertificate via slot) s = .next (ans s 0x7F [])) ∧
    (∀ nonce, exec (.spdmChallenge via nonce) s = .next (ans { s with freeCtr := s.freeCtr + 1 } 0x03
      (nonceOf s.freeCtr ++ Config.ecdsaSign s.mer.aliasSeed (sha (sha (certChain s) ++ nonce ++ nonceOf s.freeCtr))))) ∧
    (∀ idx : BitVec 8, 1 ≤ idx.toNat → idx.toNat ≤ 7 → exec (.getMeasurements via idx) s =
      .next (ans s 0x60 (measurement s idx.toNat ++ Config.ecdsaSign s.mer.aliasSeed (sha (measurement s idx.toNat))))) ∧
    (∀ idx : BitVec 8, 7 < idx.toNat → idx ≠ 0xFF → exec (.getMeasurements via idx) s = .next (ans s 0x7F [])) ∧
    (∀ peer root, freeSession s = none → exec (.keyExchange via peer root) s = .next (ans s 0x7F [])) ∧
    (∀ peer root i, freeSession s = some i →
      ((∃ p, via = .mgmt p) → root = Config.ahnikarRoot ∨ ∃ k, k < 7 ∧ smGet [] s.sec.anchors (k + 1) = root ∧ root ≠ []) →
      let x : Session := { transport := viaOf via, port := match via with | .mgmt p => p.val | .doe p => p.val | .mctp _ => 0,
                           deadline := s.clock + 60000000000, peer := peer.toNat, keyGen := s.freeCtr }
      exec (.keyExchange via peer root) s =
        .next (ans { s with mer := { s.mer with sessions := smPut s.mer.sessions i x }, freeCtr := s.freeCtr + 1 } 0x64 (natBytes 2 i)))) ∧
  (∀ (sess : BitVec 16) (s : State) (x : Session), sessionOf s sess.toNat = some x →
    (s.mer.running = true →
      exec (.heartbeat sess) s = .next { s with mer := { s.mer with sessions := smPut s.mer.sessions sess.toNat { x with deadline := s.clock + 60000000000 } } } ∧
      exec (.keyUpdate sess) s = .next { s with mer := { s.mer with sessions := smPut s.mer.sessions sess.toNat { x with updates := x.updates + 1 } } }) ∧
    exec (.endSession sess) s = .next { s with mer := { s.mer with sessions := smDel s.mer.sessions sess.toNat } } ∧
    (x.deadline ≤ s.clock → exec (.spdmHeartbeatTimeout sess) s = .next { s with mer := { s.mer with sessions := smDel s.mer.sessions sess.toNat } }) ∧
    (s.clock < x.deadline → exec (.spdmHeartbeatTimeout sess) s = .next s)) ∧
  (∀ (addr : BitVec 7) (s : State), exec (.entdaa addr) s = .next { s with mctp := { s.mctp with i3cDynamic := some addr.toNat } })

/-- Firmware staging and activation, the live update's steps, measurement reports, and the macros of Root tier. (18_meridian_firmware.md R424;
18_meridian_firmware.md R429; 18_meridian_firmware.md R435; 18_meridian_firmware.md R442; 18_meridian_firmware.md R443; 10_chart_engines.md
R262; 10_chart_engines.md R266; 19_reset_power_clocks.md R452; 19_reset_power_clocks.md R453; 19_reset_power_clocks.md R462;
18_meridian_firmware.md Table 18.12; 18_meridian_firmware.md Table 18.12a) -/
def Obligations.FirmwareUpdatesAndRootMacros : Prop :=
  (∀ (src : MctpSrc) (tag : BitVec 16) (s : State), s.mer.running = true → srcLetter s src ∈ [0, 1, 2, 4] →
    let ans := fun (t : State) (cmd st : Nat) => emit t (.mctp (bindingOf src) cmd st (natBytes 1 cmd ++ natBytes 1 st ++ natBytes 2 tag.toNat ++ []))
    (s.mer.staging = none → ∀ cart, let k := cartKind cart
      let t := stagingTarget s k
      let s1 := setTarget s k t { cart := cart, bytes := [], valid := false }
      ((k = 1 ∨ k = 2) → cartOk s k cart = true → exec (.fwBegin src tag cart) s = .next (ans { s1 with mer := { s1.mer with
        staging := some ⟨k, t, cart, [], s1.clock⟩, staged := if s1.mer.staged = some t ∧ k = 2 then none else s1.mer.staged } } 0x10 0)) ∧
      (¬((k = 1 ∨ k = 2) ∧ cartOk s k cart = true) → exec (.fwBegin src tag cart) s = .next (ans s 0x10 6)) ∧
      (∀ off data, exec (.fwData src tag off data) s = .next (ans s 0x11 5)) ∧ exec (.fwEnd src tag) s = .next (ans s 0x12 5) ∧
      (∀ b, s.mer.staged = some b → exec (.fwActivatePreferred src tag) s = .next (ans { s with sec := { s.sec with prefBank := b } } 0x13 0)) ∧
      (s.mer.staged = none → exec (.fwActivatePreferred src tag) s = .next (ans s 0x13 6)) ∧
      (∀ b (ms : BitVec 16), s.mer.staged = some b → s.mer.upd = none → ms.toNat ≤ 1000 → imageOk s 2 (bankOf s b) = true →
        let t := if ms = 0 then 100 else ms.toNat
        let slot := 1 - s.stw.slot % 2
        let s1 := hbmWrite s (slotAddr slot) ((bankOf s b).cart ++ (bankOf s b).bytes)
        exec (.fwActivateLive src tag ms) s =
          .next (ans (emit { s1 with mer := { s1.mer with upd := some ⟨2, slot, b, s1.clock + t * 1000000, false⟩ } } (.steward 1 [])) 0x13 0))) ∧
    (∀ g, s.mer.staging = some g →
      (∀ cart, exec (.fwBegin src tag cart) s = .next (ans s 0x10 3)) ∧ exec (.fwActivatePreferred src tag) s = .next (ans s 0x13 3) ∧
      (∀ (off : BitVec 32) (data : List Byte), data.length ≠ 0 → data.length ≤ 4096 → off.toNat = 256 + g.got.length → g.got.length + data.length ≤ cartLength g.cart →
        let s1 := setTarget s g.kind g.target { cart := g.cart, bytes := g.got ++ data, valid := false }
        exec (.fwData src tag off data) s = .next (ans { s1 with mer := { s1.mer with staging := some { g with got := g.got ++ data, last := s1.clock } } } 0x11 0)) ∧
      (let ok := g.got.length == cartLength g.cart && cartDigest g.cart == sha g.got
       let s1 := setTarget s g.kind g.target (if ok then { cart := g.cart, bytes := g.got, valid := true } else {})
       exec (.fwEnd src tag) s = .next (ans { s1 with mer := { s1.mer with staging := none, staged := if ok ∧ g.kind = 2 then some g.target else s1.mer.staged } }
        0x12 (if ok then 0 else 6))))) ∧
  (∀ (s : State) g, s.mer.staging = some g →
    (g.last + 10000000000 ≤ s.clock →
      exec .fwStagingTimeout s = .next (let s1 := setTarget s g.kind g.target {}; { s1 with mer := { s1.mer with staging := none } })) ∧
    (s.clock < g.last + 10000000000 → exec .fwStagingTimeout s = .next s)) ∧
  (∀ (s : State) u, s.mer.upd = some u →
    (u.step = 2 → s.mer.running = true → exec .ready s = .next (handoverHold s u true)) ∧
    (u.step = 2 → s.mer.running = true → u.deadline ≤ s.clock → exec .handoverTimeout s = .next (handoverHold s u false)) ∧
    (u.step = 5 → s.paused = none → exec .enginePause s = .next (switchMeasure { s with paused := some s.clock } u)) ∧
    (∀ t, s.paused = some t →
      let c := (bankOf s u.bank).cart
      let s1 := { s with paused := none, engines := s.engines.map fun e => (e.1, addPause s t e.2),
                         mer := { s.mer with upd := some { u with step := 6 } }, stw := { s.stw with slot := u.slot } }
      exec .engineResume s = .next (merSubmit s1 [0x1804000000008000, 0xF104020000000000, 0x1805000000008010, 0xF005020000000000, 0]
        [1, BitVec.ofNat 64 (cartVersion c + cartSvn c * 2 ^ 32), BitVec.ofNat 64 (0xFF + 1 * 2 ^ 8 + (if u.ready then 1 else 2) * 2 ^ 12),
         BitVec.ofNat 64 (slotAddr u.slot - 0x800000000 + 256 + cartEntry c)]))) ∧
  (∀ (s : State) r rest, s.mer.running = true → s.mer.reports = r :: rest → exec .measurementReport s = .next
    { s with mer := { s.mer with reports := rest, chain := sha (s.mer.chain ++ natBytes 8 r.k ++ sha (reportBytes r.entries)), chainK := r.k } }) ∧
  (∀ (e : EngineId) (s : State), 12 ≤ e.val →
    let x := engineOf s e
    let b := blockWord x (wordAt x)
    let m := BitVec.ofNat 8 (wfld (b 0) 0 8)
    let y := regSet x 1 0
    (Runs s e 0xF0 → blockStatus x (wordAt x) [rowBits [(9, 0), (15, 12)], allBits] 0 = 0 → wfld (b 0) 0 8 ≠ 0 → wfld (b 0) 12 4 ≤ 2 →
      (wfld (b 0) 8 2 = 0 → exec (.merStewardHold e) s = .next (moveOk { s with stw := { s.stw with held := s.stw.held ||| m } } e y)) ∧
      (wfld (b 0) 8 2 = 1 → s.stw.held &&& m = m → exec (.merStewardRelease e) s = .next (moveOk { s with
        stw := { s.stw with held := s.stw.held &&& ~~~m, running := true, entry := b 1, bootKind := wfld (b 0) 12 4 },
        mer := { s.mer with upd := match s.mer.upd with | some u => if u.step = 6 then none else some u | none => none } } e y)) ∧
      (wfld (b 0) 8 2 = 1 → s.stw.held &&& m ≠ m → exec (.merStewardRelease e) s = .next (endChart (setEngine s e y) e 3 y.pc)) ∧
      (wfld (b 0) 8 2 = 2 → exec (.merStewardReset e) s = .next (moveOk { s with
        stw := { s.stw with held := s.stw.held ||| m, running := (s.stw.held ||| m) != 0xFF && s.stw.running },
        mer := { s.mer with upd := match s.mer.upd with | some u => if u.step = 4 then some { u with step := 5 } else some u | none => none } } e y))) ∧
    (Runs s e 0xF1 → blockStatus x (wordAt x) [rowBits [(0, 0)], allBits] 0 = 0 →
      (wfld (b 0) 0 1 = 0 → exec (.merLegend e) s =
        .next (moveOk { s with legend := { s.legend with merVer := b 1, lgen := (s.legend.lgen + 1) % 2 ^ 32 } } e y)) ∧
      (wfld (b 0) 0 1 = 1 → exec (.merLegend e) s =
        .next (moveOk { s with legend := { s.legend with stwVer := b 1, lgen := (s.legend.lgen + 1) % 2 ^ 32 } } e y))) ∧
    (Begins s e 0xF2 [rowBits [(1, 0), (11, 4)]] 0 .glob true →
      (wfld (b 0) 0 2 = 0 → exec (.merResetChip e) s = .next (legendSync s (chipSoftReset s))) ∧
      (wfld (b 0) 0 2 = 1 → wfld (b 0) 4 8 < 12 → tileSt s (wfld (b 0) 4 8) = 2 →
        exec (.merResetTile e) s = .next (moveOk (tileResetNow s (wfld (b 0) 4 8)) e y)) ∧
      (wfld (b 0) 0 2 = 1 → wfld (b 0) 4 8 < 12 → tileSt s (wfld (b 0) 4 8) = 0 →
        exec (.merResetTile e) s = .next (frostBegin s e y (wfld (b 0) 4 8) 100000 true)) ∧
      (let p := wfld (b 0) 4 8
       let t := portResetNow s p
       wfld (b 0) 0 2 = 2 → portExists s p = true → smGet none s.portResets p = none → exec (.merResetPort e) s = .next (setEngine
        { t with portResets := smSet none t.portResets p (some (t.clock + 10000)) } e { y with wait := .macroStep, seq := 1, seqA := 256 + p, seqB := 0 }))))

/-- Management tokens: the nonce is void after each, a refused one changes nothing else but its event, an accepted one has its operation's
effect. (18_meridian_firmware.md R436; 18_meridian_firmware.md R437; 18_meridian_firmware.md R438; 18_meridian_firmware.md R439;
18_meridian_firmware.md R428; 15_fences.md R369; 15_fences.md R374; 18_meridian_firmware.md Table 18.8; 18_meridian_firmware.md Table 18.9) -/
def Obligations.ManagementTokensActOnceOrNotAtAll : Prop :=
  (∀ (src : MctpSrc) (tag : BitVec 16) (s : State), s.mer.running = true → srcLetter s src ∈ [0, 1, 2, 4] →
    let n := nonceOf s.freeCtr
    exec (.challenge src tag) s = .next (emit { s with mer := { s.mer with nonce := some n }, freeCtr := s.freeCtr + 1 }
      (.mctp (bindingOf src) 0x14 0 (natBytes 1 0x14 ++ natBytes 1 0 ++ natBytes 2 tag.toNat ++ (natBytes 8 Config.serial ++ n ++ natBytes 4 s.sec.boot))))) ∧
  (∀ (src : MctpSrc) (tag : BitVec 16) (tok : List Byte) (s : State), s.mer.running = true → srcLetter s src ∈ [0, 1, 2, 4] →
    let ans := fun (t : State) (st : Nat) => emit t (.mctp (bindingOf src) 0x15 st (natBytes 1 0x15 ++ natBytes 1 st ++ natBytes 2 tag.toNat ++ []))
    let op := leAt tok 7 1
    let len := leAt tok 52 4
    let b := slice tok 56 len
    let c := tokenFails s tok
    let s1 := { s with mer := { s.mer with nonce := none } }
    let s2 := raiseEvent s1 0x504 1 [op, leAt tok 6 1, 0]
    let all := fun (n : Nat) (t : State) =>
      (n = 1 → exec (.transfer src tag tok) s = .next t) ∧ (n = 2 → exec (.release src tag tok) s = .next t) ∧ (n = 3 → exec (.keySet src tag tok) s = .next t) ∧
      (n = 4 → exec (.anchorSet src tag tok) s = .next t) ∧ (n = 5 → exec (.policy src tag tok) s = .next t) ∧ (n = 6 → exec (.lockSet src tag tok) s = .next t) ∧
      (n = 7 → exec (.svnRaise src tag tok) s = .next t) ∧ (n = 8 → exec (.fieldLock src tag tok) s = .next t)
    (c ≠ 0 → all op (ans (raiseEvent s1 0x505 1 [c]) 1)) ∧
    (c = 0 → op = 1 → len = 136 → leAt b 132 4 < 4 → all 1 (ans (ownership s2 true (sha (slice b 0 132)) (leAt b 132 4 % 2 == 1) (leAt b 132 4 / 2 % 2 == 1)
      (some (slice b 0 132))) 0)) ∧
    (c = 0 → op = 2 → len = 0 → s.sec.owned = true → all 2 (ans (ownership s2 false (List.replicate 64 0) true true none) 0)) ∧
    (c = 0 → op = 2 → s.sec.owned = false → all 2 (ans s2 6)) ∧
    (let i := leAt b 0 1
     let k := keyAt s2 i
     let entry : KeyEnt := if k.state ≠ 0 ∧ k.origin = 0 then { k with state := 3 } else { pub := slice b 4 132, purpose := leAt b 1 1, state := leAt b 2 1, origin := 1 }
     c = 0 → op = 3 → len = 136 → keySetOk s b = true → all 3 (ans { s2 with sec := { s2.sec with keys := smSet {} s2.sec.keys i entry } } 0)) ∧
    (c = 0 → op = 4 → len = 68 → 1 ≤ leAt b 0 1 → leAt b 0 1 ≤ 7 → leAt b 1 3 = 0 → all 4 (ans { s2 with sec := { s2.sec with
      anchors := smSet [] s2.sec.anchors (leAt b 0 1) (if slice b 4 64 = List.replicate 64 0 then [] else slice b 4 64) } } 0)) ∧
    (c = 0 → op = 5 → len = 4 → leAt b 0 1 ≤ 3 → leAt b 1 3 = 0 → all 5 (ans (let t := { s2 with sec := { s2.sec with policy := leAt b 0 1 } }
      if debugPolicy s2 < debugPolicy t then closeScope t 3 else t) 0)) ∧
    (c = 0 → op = 6 → len = 28 → leAt b 0 1 < 16 → leAt b 1 3 = 0 → leAt b 4 24 < 2 ^ 132 → all 6 (ans { s2 with
      sec := { s2.sec with lockRegions := smSet 0 s2.sec.lockRegions (leAt b 0 1) (BitVec.ofNat 256 (leAt b 4 24)) },
      locks := smSet 0 s2.locks (leAt b 0 1) (BitVec.ofNat 256 (leAt b 4 24)) } 0)) ∧
    (c = 0 → op = 7 → len = 8 → leAt b 0 1 = 1 → leAt b 1 3 = 0 →
      all 7 (ans { s2 with sec := { s2.sec with svn1 := max s2.sec.svn1 (leAt b 4 4) } } 0)) ∧
    (c = 0 → op = 7 → len = 8 → leAt b 0 1 = 2 → leAt b 1 3 = 0 →
      all 7 (ans { s2 with sec := { s2.sec with svn2 := max s2.sec.svn2 (leAt b 4 4) } } 0)) ∧
    (c = 0 → op = 8 → len = 4 → leAt b 0 1 < 8 → leAt b 1 3 = 0 →
      all 8 (ans { s2 with sec := { s2.sec with fieldLock := BitVec.ofNat 8 (leAt b 0 1) }, fieldLock := BitVec.ofNat 8 (leAt b 0 1) } 0)) ∧
    (∀ t u, exec (.lockSet src tag tok) s = .next t → op = 6 → exec (.lockSet src tag tok) t = .next u → u.sec = t.sec ∧ u.locks = t.locks ∧ u.mer.nonce = none) ∧
    (∀ t u, exec (.transfer src tag tok) s = .next t → op = 1 → exec (.transfer src tag tok) t = .next u → u.sec = t.sec ∧ u.mer.nonce = none))

/-- Cold, warm and Meridian resets, and the boot: mask ROM, PWR_OK, straps, HBM, Steward's image, SETTINGS, ready, HOLD_BOOT, THERMTRIP.
(19_reset_power_clocks.md R449; 19_reset_power_clocks.md R450; 19_reset_power_clocks.md R452; 19_reset_power_clocks.md R454;
19_reset_power_clocks.md R456; 19_reset_power_clocks.md R458; 19_reset_power_clocks.md R459; 18_meridian_firmware.md R425;
18_meridian_firmware.md R426; 01_architecture.md R23; 10_chart_engines.md R266; 15_fences.md R368) -/
def Obligations.ResetsAndTheStepsOfBoot : Prop :=
  let r := State.reset
  let cold := fun s : State => { r with
    pending := s.pending, clock := s.clock, freeCtr := s.freeCtr, out := s.out, sec := s.sec, settings := s.settings, refPair := s.refPair
    alm := { r.alm with opened := s.alm.opened, slots := s.alm.slots, next := s.alm.next, foundUsed := s.alm.foundUsed }
    mer := { r.mer with mer0 := s.mer.mer0, mer1 := s.mer.mer1, flashA := s.mer.flashA, flashB := s.mer.flashB, staged := s.mer.staged }
    legend := { r.legend with lgen := s.legend.lgen } }
  let synced := fun s t : State => if legendFields s = legendFields t then t else { t with legend := { t.legend with lgen := (t.legend.lgen + 1) % 2 ^ 32 } }
  (∀ (s : State),
    exec .vddAoPowerOn s = .next (cold s) ∧
    (s.boot.pwrOk = true → exec .coldReset s = .next (synced s (cold (beforeReset s)))) ∧
    (s.boot.pwrOk = false → exec .coldReset s = .next s) ∧
    (s.boot.pwrOk = true → s.boot.warm = none →
      let u := beforeReset s
      Does .warmReset s fun t => t.hbm = [] ∧ t.engines = [] ∧ t.txns = [] ∧ t.commitNum = 0 ∧ t.locks = [] ∧
        t.boot = { straps := u.boot.straps, pwrOk := true, warm := some u.clock, thermtrip := u.boot.thermtrip } ∧
        t.mer.running = u.mer.running ∧ t.mer.upd = none ∧ t.sec = u.sec ∧ t.clock = u.clock) ∧
    (s.boot.pwrOk = false ∨ s.boot.warm ≠ none → exec .warmReset s = .next s) ∧
    (∀ k, s.boot.warm = some k → k + 6000000 ≤ s.clock →
      (s.mer.running = true → exec .warmResetEnd s = .next { s with
        locks := s.sec.lockRegions, fieldLock := s.sec.fieldLock,
        boot := { s.boot with warm := none, reference := s.clock, strapped := true, steward := strapC s == 3 } }) ∧
      (s.mer.running = false → exec .warmResetEnd s = .next { s with boot := { s.boot with warm := none, reference := s.clock } })) ∧
    (∀ k, s.boot.warm = some k → s.clock < k + 6000000 → exec .warmResetEnd s = .next s) ∧
    (s.mer.running = false → s.mer.restartAt = none →
      (∀ c, romChoice s = some c → exec .maskRomCheck s = .next (startMeridian s c)) ∧ (romChoice s = none → exec .maskRomCheck s = .next s)) ∧
    (imageOk s 1 s.mer.mer0 = true → imageOk s 1 s.mer.mer1 = false ∨ cartVersion s.mer.mer1.cart ≤ cartVersion s.mer.mer0.cart → romChoice s = some 0) ∧
    (imageOk s 1 s.mer.mer1 = true → imageOk s 1 s.mer.mer0 = false ∨ cartVersion s.mer.mer0.cart < cartVersion s.mer.mer1.cart → romChoice s = some 1) ∧
    (imageOk s 1 s.mer.mer0 = false → imageOk s 1 s.mer.mer1 = false → romChoice s = none) ∧
    (∀ k, s.mer.restartAt = some k →
      (∀ c, romChoice s = some c → exec .meridianRestart s = .next (startMeridian s c)) ∧
      (romChoice s = none → exec .meridianRestart s = .next { s with mer := { s.mer with restartAt := none } })) ∧
    (s.mer.running = true → Does .meridianWatchdog s fun t => t.mer.running = false ∧ t.mer.restartAt = some (s.clock + 6000000) ∧ t.mer.sessions = [] ∧
      t.mer.nonce = none ∧ t.dbg.scope = 0 ∧ t.dbg.nonce = none ∧ t.mer.staging = none ∧ t.locks = s.locks ∧ t.sec = s.sec ∧ t.tab = s.tab ∧
      t.engines = s.engines.map fun e => (e.1, if e.2.origin == .ring 8 then { e.2 with subReset := true } else e.2)) ∧
    (s.boot.pwrOk = false → exec .pwrOkRise s = .next { s with ts := 0, boot := { s.boot with pwrOk := true, reference := s.clock } }) ∧
    (s.boot.strapped = true → s.boot.hbm = false → exec .hbmTrained s = .next { s with boot := { s.boot with hbm := true } }) ∧
    (s.boot.pwrOk = true → exec .thermtrip s = .next { s with boot := { s.boot with thermtrip := true } }) ∧
    (s.boot.pwrOk = true → s.boot.reference + 1000000000 ≤ s.clock → exec .holdBootTimeout s = .next { s with boot := { s.boot with holdOver := true } }) ∧
    (s.boot.dirClear = true → s.boot.settings = true → s.boot.steward = true → s.boot.ready = false →
      exec .fabricReady s = .next { s with fabricRdy := true, boot := { s.boot with ready := true } }) ∧
    (s.boot.dirClear = false ∨ s.boot.settings = false ∨ s.boot.steward = false → exec .fabricReady s = .next s)) ∧
  (∀ (levels : BitVec 24) (s : State), s.boot.pwrOk = true → s.boot.strapped = false → s.boot.warm = none → s.boot.reference + 1000000 ≤ s.clock →
    let s1 := { s with boot := { s.boot with straps := levels.toNat } }
    (s.mer.running = false → exec (.strapLatch levels) s = .next s1) ∧
    (s.mer.running = true →
      let s2 := strapClaims (strapTables { s1 with sec := { s1.sec with boot := (s1.sec.boot + 1) % 2 ^ 32 } } true)
      exec (.strapLatch levels) s = .next (synced s1 { s2 with
        locks := s2.sec.lockRegions, fieldLock := s2.sec.fieldLock,
        boot := { s2.boot with strapped := true, steward := strapC s2 == 3 } }))) ∧
  (∀ (s : State), s.boot.strapped = true → s.mer.running = true →
    (s.boot.hbm = true → s.boot.steward = false →
      let b := bootBank s s.boot.banksTried
      let s1 := startSteward s b
      let s2 := hbmWrite s (slotAddr 0) (List.replicate (256 + (bankOf s b).bytes.length) 0)
      (imageOk s 2 (bankOf s b) = true → exec .stewardImageVerified s = .next (raiseSvns { s1 with boot := { s1.boot with steward := true } })) ∧
      (imageOk s 2 (bankOf s b) = false → s.boot.banksTried = 0 →
        exec .stewardImageVerified s = .next { s2 with boot := { s2.boot with banksTried := 1, steward := false } }) ∧
      (imageOk s 2 (bankOf s b) = false → 1 ≤ s.boot.banksTried →
        exec .stewardImageVerified s = .next (raiseSvns { s2 with boot := { s2.boot with banksTried := s.boot.banksTried + 1, steward := true } }))) ∧
    (s.boot.settings = false →
      let s1 := applySettings { s with boot := { s.boot with settings := true } }
      let s2 := { s1 with oppNow := (List.range 12).foldl (fun m t => smSet 0 m t (tabFld s1 0x3E t 8 2)) [] }
      let s3 := (List.range 384).foldl (fun s l => let ref := smGet false s.refPair (l / 64); setLaneBit (setLaneBit s 0 ref l) 1 ref l) s2
      exec .settingsApplied s = .next (synced s (((List.range 96).filter (portExists s3)).foldl thawPort s3))))

/-- Frost, Thaw, power and reset of a tile, the end of a port reset, pauses of the second, gauges and LED frames. (19_reset_power_clocks.md
R453; 19_reset_power_clocks.md R461; 19_reset_power_clocks.md R462; 19_reset_power_clocks.md R463; 19_reset_power_clocks.md R464;
19_reset_power_clocks.md R469; 19_reset_power_clocks.md R470; 20_electrical_package.md R492; 06_graticule_noc.md R172; 06_graticule_noc.md
R174; 16_events_almanac.md R393) -/
def Obligations.TilesPortsTimeAndFrames : Prop :=
  (∀ (e : EngineId) (s : State),
    let w0 := blockWord (engineOf s e) (wordAt (engineOf s e)) 0
    let t := wfld w0 0 4
    let x := regSet (engineOf s e) 1 0
    (Begins s e 0xD1 [rowBits [(3, 0)] ||| rowBits [(31, 16)]] 0 .glob true → t < 12 →
      (tileSt s t = 0 → frostConflict s t = false →
        let s1 := setEngine (setTileSt s t 1) e { x with wait := .macroStep, seq := 1, seqA := t, seqB := 0 }
        let ns := (if wfld w0 16 16 = 0 then 100 else wfld w0 16 16) * 1000
        let f := { frostOf s1 t with bound := s1.clock + ns, engine := some e.val, lost := false }
        exec (.tileFrost e) s = .next { s1 with frost := smSet {} s1.frost t f }) ∧
      (tileSt s t = 0 → frostConflict s t = true → exec (.tileFrost e) s = .next (endChart (setEngine s e x) e 2 x.pc)) ∧
      (tileSt s t ≠ 0 → exec (.tileFrost e) s = .next (endChart (setEngine s e x) e 3 x.pc))) ∧
    (Begins s e 0xD2 [rowBits [(3, 0)] ||| 0] 0 .glob true → t < 12 →
      (tileSt s t = 2 → exec (.tileThaw e) s = .next (moveOk (thawTile s t) e x)) ∧
      (tileSt s t ≠ 2 → exec (.tileThaw e) s = .next (endChart (setEngine s e x) e 3 x.pc))) ∧
    (Begins s e 0xD3 [rowBits [(3, 0)] ||| rowBits [(8, 8)]] 0 .glob true → t < 12 →
      (wfld w0 8 1 = 0 → tileSt s t = 3 → exec (.tilePowerDown e) s = .next (moveOk s e x)) ∧
      (wfld w0 8 1 = 0 → tileSt s t = 2 →
        let s1 := (tilePorts s t).foldl portBlockReset s
        let s2 := (tileLanes t).foldl (fun s l => setLaneBit (setLaneBit s 0 false l) 1 false l) s1
        let s3 := (tilePorts s2 t).foldl (fun s p => setLive s 0x02 p 0 32 0) s2
        exec (.tilePowerDown e) s = .next (moveOk (setTileSt (setEngine s3 t {}) t 3) e x)) ∧
      (wfld w0 8 1 = 1 → tileSt s t = 2 → exec (.tilePowerUp e) s = .next (moveOk s e x)) ∧
      (wfld w0 8 1 = 1 → tileSt s t = 3 →
        let f := { frostOf s t with engine := some e.val }
        exec (.tilePowerUp e) s = .next (setEngine { setTileSt s t 4 with frost := smSet {} s.frost t f } e
          { x with wait := .macroStep, seq := 1, seqA := t, seqB := 0 }))) ∧
    (Begins s e 0xD4 [rowBits [(3, 0)] ||| 0] 0 .glob true → t < 12 → tileSt s t = 2 → exec (.tileReset e) s = .next (moveOk (tileResetNow s t) e x))) ∧
  (∀ (t : TileId) (s : State),
    (tileSt s t = 1 → tileDrained s t = true → exec (.frostDrainComplete t) s = .next (frostEnd s t)) ∧
    (tileSt s t ≠ 1 ∨ tileDrained s t = false → exec (.frostDrainComplete t) s = .next s) ∧
    (tileSt s t = 1 → (frostOf s t).bound ≤ s.clock → exec (.frostBoundExpiry t) s = .next (frostEnd (frostCut s t) t)) ∧
    (tileSt s t = 4 →
      let s1 := tileResetNow s t
      let f := { frostOf s1 t with engine := none }
      exec (.powerUpComplete t) s = .next (resumeOk { s1 with frost := smSet {} s1.frost t f } (frostOf s t).engine))) ∧
  (∀ (p : PortId) (s : State) (k : Nat), smGet none s.portResets p = some k →
    let s1 := { s with portResets := smSet none s.portResets p none }
    exec (.portResetEnd p) s = .next (resumeOk (if tileSt s1 (p.val / 8) = 0 then thawPort s1 p else s1) (portResetWaiter s1 p))) ∧
  (∀ (s : State),
    (tabFld s 0x0C 0 8 7 ≠ 127 → exec .tsSyncEdge s = .next s) ∧
    (tabFld s 0x0C 0 8 7 = 127 → (s.tsync.lastEdge = none ∨ ∃ a, s.tsync.lastEdge = some a ∧ a + 3000000000 ≤ s.clock) → exec .tsSyncEdge s =
      .next { s with ts := (s.ts + 999999999) / 1000000000 * 1000000000, tsync := { s.tsync with lastEdge := some s.clock, slew := 0 } }) ∧
    (∀ a, tabFld s 0x0C 0 8 7 = 127 → s.tsync.lastEdge = some a → a + 999000000 ≤ s.clock → s.clock ≤ a + 1001000000 → exec .tsSyncEdge s =
      .next { s with tsync := { s.tsync with lastEdge := some s.clock, slew := secondOffset s.ts } }) ∧
    (∀ a, s.tsync.lastEdge = some a → a + 3000000000 ≤ s.clock →
      exec .tsSyncLoss s = .next { s with tsync := { s.tsync with lastEdge := none, slew := 0 } }) ∧
    (s.tsync.nextPps ≤ s.ts → exec .tsPps s =
      .next { s with tsync := { s.tsync with nextPps := (s.ts / 1000000000 + 1) * 1000000000, ppsEnd := some (s.clock + 1000) } }) ∧
    (s.ts < s.tsync.nextPps → exec .tsPps s = .next s) ∧
    (∀ subj reading, exec (.gaugeSample 2 subj reading) s = .next (feedGauge s 2 0 reading.toNat)) ∧
    (∀ (subj : Fin 96) reading, subj.val < 32 → (slotOf s subj).st = 3 → exec (.gaugeSample 5 subj reading) s =
      .next (let v := reading.toNat % 1024; feedGauge (setSlot s subj { slotOf s subj with vout := v }) 5 subj v)) ∧
    (s.clock < s.ledNext → exec .ledFrame s = .next s) ∧
    (s.ledNext ≤ s.clock → Does .ledFrame s fun t => t.out = (emit s (.led (ledBits s))).out ∧ t.ledNext = s.ledNext + 10000000 ∧ t.ledPhase = !s.ledPhase ∧
      t.tab = s.tab ∧ t.cnt = s.cnt ∧ t.hbm = s.hbm))

/-- The TAP: what each instruction returns, when it selects the bypass register, the unlock token's checks, and the end of a scope.
(15_fences.md R365; 15_fences.md R370; 15_fences.md R371; 15_fences.md R372; 15_fences.md R373; 15_fences.md R374; 15_fences.md R375;
15_fences.md Table 15.6; 15_fences.md Table 15.8) -/
def Obligations.TapInstructionsFollowPolicyAndScope : Prop :=
  (∀ (s : State),
    let shift := fun (t : State) (ir : Nat) (d : List Byte) => emit { t with dbg := { t.dbg with ir := ir } } (.tap ir d)
    let pass := shift s 0 [0]
    exec .bypass s = .next pass ∧
    (∃ v, v < 2 ^ 4 ∧ ∃ m, m < 2 ^ 11 ∧ exec .idcode s = .next (shift { s with freeCtr := s.freeCtr + 1 } 1 (natBytes 4 (1 + m * 2 + 0x9696 * 2 ^ 12 + v * 2 ^ 28)))) ∧
    (∀ pins pre, debugPolicy s ≤ 2 → exec (.samplePreload pins pre) s = .next (shift { s with dbg := { s.dbg with boundary := pre.toNat } } 2 (wordBytes pins))) ∧
    (∀ pins pre, 2 < debugPolicy s → exec (.samplePreload pins pre) s = .next pass) ∧
    (∀ v, scopeBit s 10 = true → exec (.extest v) s = .next (shift { s with dbg := { s.dbg with boundary := v.toNat } } 3 (wordBytes (BitVec.ofNat 64 s.dbg.boundary)))) ∧
    (∀ v, scopeBit s 10 = false → exec (.extest v) s = .next pass) ∧
    (debugPolicy s ≤ 1 → s.mer.running = true → exec .tapChallenge s =
      .next (shift { s with dbg := { s.dbg with nonce := some (nonceOf s.freeCtr) }, freeCtr := s.freeCtr + 1 } 4
        (natBytes 8 Config.serial ++ nonceOf s.freeCtr ++ natBytes 4 s.sec.boot ++ natBytes 1 (debugPolicy s) ++ natBytes 3 0))) ∧
    (1 < debugPolicy s → exec .tapChallenge s = .next pass) ∧
    (∀ tok : List Byte, debugPolicy s ≤ 1 → tok.length = 196 → exec (.tapToken tok) s = .next { s with dbg := { s.dbg with ir := 5, token := some tok } }) ∧
    (∀ tok, 1 < debugPolicy s → exec (.tapToken tok) s = .next pass) ∧
    (∀ tok, s.dbg.token = some tok → s.mer.running = true →
      let s1 := { s with dbg := { s.dbg with token := none, nonce := none } }
      (unlockFails s tok ≠ 0 → exec .unlockTokenVerdict s = .next (raiseEvent s1 0x505 0 [unlockFails s tok])) ∧
      (unlockFails s tok = 0 → exec .unlockTokenVerdict s = .next (raiseEvent
        { s1 with dbg := { s1.dbg with scope := leAt tok 52 4, expiry := s1.clock + leAt tok 56 4 * 1000000000 } } 0x504 0 [leAt tok 52 4, leAt tok 6 1, leAt tok 56 4])) ∧
      (debugPolicy s ≠ 0 → debugPolicy s ≠ 1 → unlockFails s tok ≠ 0) ∧
      (debugPolicy s = 1 → leAt tok 52 4 % 256 ≠ 0 → unlockFails s tok ≠ 0)) ∧
    (∀ sp nw q d ans, scopeBit s 8 = false → exec (.accessRead sp nw q ans d) s = .next pass ∧ exec (.accessWrite sp nw q d) s = .next pass) ∧
    (∀ (sp nw : BitVec 8) (q : Word) (d : List Byte) (ans : Fin 3), scopeBit s 8 = true → accessOk sp.toNat nw.toNat q = true →
      let back := fun (t : State) (op st : Nat) => let r := accessResult op sp.toNat nw.toNat st q d; shift { t with dbg := { t.dbg with result := r } } 6 r
      let acc := fun (rd wr : Bool) => (⟨sp.toNat, q.toNat, 4 * nw.toNat, rd, wr⟩ : Access)
      ((judgeAccess s 152 (acc true false)).1 = 0 → exec (.accessRead sp nw q ans d) s =
        .next (back (emit s (.media (wfld q 57 7) (wfld q 53 4) (wfld q 0 53) (4 * nw.toNat) [])) 0 (if ans.val = 0 then 0 else if ans.val = 1 then 4 else 5))) ∧
      ((judgeAccess s 152 (acc false true)).1 = 0 → exec (.accessWrite sp nw q d) s =
        .next (back (emit s (.media (wfld q 57 7) (wfld q 53 4) (wfld q 0 53) (4 * nw.toNat) (slice d 0 (4 * nw.toNat)))) 1 0)) ∧
      ((judgeAccess s 152 (acc true false)).1 = 9 → exec (.accessRead sp nw q ans d) s = .next (back (fenceCheck s 152 (acc true false)).2 0 2)) ∧
      ((judgeAccess s 152 (acc true false)).1 = 1 → exec (.accessRead sp nw q ans d) s = .next (back (fenceCheck s 152 (acc true false)).2 0 1))) ∧
    (∀ (sp nw : BitVec 8) (q : Word) (d : List Byte) (ans : Fin 3), scopeBit s 8 = true → accessOk sp.toNat nw.toNat q = false →
      let r := accessResult 0 sp.toNat nw.toNat 6 q d
      exec (.accessRead sp nw q ans d) s = .next (shift { s with dbg := { s.dbg with result := r } } 6 r)) ∧
    (∀ (a : BitVec 7) (v : BitVec 32), scopeBit s 9 = true →
      exec (.core a true v) s = .next (shift { s with freeCtr := s.freeCtr + 1 } 7 (natBytes 1 a.toNat ++ natBytes 4 v.toNat)) ∧
      ∃ d, d < 2 ^ 64 ∧ exec (.core a false v) s = .next (shift { s with freeCtr := s.freeCtr + 1 } 7 (natBytes 1 a.toNat ++ natBytes 4 d))) ∧
    (∀ a wr v, scopeBit s 9 = false → exec (.core a wr v) s = .next pass) ∧
    (Does .tapClose s fun t => t.dbg.scope = 0 ∧ t.dbg.ir = 8 ∧ t.sec = s.sec ∧ t.locks = s.locks) ∧
    (s.dbg.scope ≠ 0 → s.dbg.expiry ≤ s.clock → Does .scopeLifetimeEnd s fun t => t.dbg.scope = 0 ∧ t.dbg.expiry = 0) ∧
    (s.clock < s.dbg.expiry → exec .scopeLifetimeEnd s = .next s))

/-- Trorno training: lock, marker checks, holds, ALIGN and its result, PARAM and its faults, the opening, and containment at the deadline.
(04_trorno_link.md R100; 04_trorno_link.md R101; 04_trorno_link.md R102; 04_trorno_link.md R103; 04_trorno_link.md R117; 04_trorno_link.md
R123; 03_lanes.md R79; 03_lanes.md R81; 04_trorno_link.md Table 4.7; 04_trorno_link.md Table 4.8) -/
def Obligations.TrornoTrainsOpensAndIsContained : Prop :=
  ∀ (p : PortId) (s : State), portExists s p = true → roleOf s p = 3 →
    let x := islOf s p
    (∀ (inv : BitVec 16) (rev : Bool),
     let t1 := (portLanes s p).foldl (fun s l => setLaneBit s 5 (inv.getLsbD (l - firstLane p)) l) (setLanesBit s (portLanes s p) 2 true)
     let t := setIsl t1 p { islOf t1 p with reversed := rev }
     (tstate s p = 1 → boundsGood t p = true → exec (.cdrLockAll p inv rev) s = .next (enterWake t p false)) ∧
     (tstate s p = 1 → boundsGood t p = false → exec (.cdrLockAll p inv rev) s = .next (enterAlign t p)) ∧
     (tstate s p = 2 → boundsGood t p = false → exec (.cdrLockAll p inv rev) s = .next (enterAlign t p)) ∧
     (tstate s p = 2 → boundsGood t p = true → exec (.cdrLockAll p inv rev) s = .next t) ∧
     (3 ≤ tstate s p → exec (.cdrLockAll p inv rev) s = .next t)) ∧
    (∀ lanes, islOpen s p = false → exec (.cdrLockLost p lanes) s =
      .next (setLanesBit s ((portLanes s p).filter fun l => lanes.getLsbD (l - firstLane p)) 2 false)) ∧
    (∀ lanes,
      let t := setLanesBit s ((portLanes s p).filter fun l => lanes.getLsbD (l - firstLane p)) 2 false
      islOpen t p = true → (islOf t p).rxIdle = false → cdrAll t p = false → exec (.cdrLockLost p lanes) s = .next (leaveOpen t p 3)) ∧
    (let s0 := setIsl s p { x with rxBuf := [], rxFec := 0, rxPar := false }
     ∀ lanes, lanes.length = (portLanes s p).length →
      ((lanesIn s p lanes).all isMarkerRun = true → islOpen s0 p = true → exec (.markerRunSeen p lanes) s = .next (leaveOpen s0 p 7)) ∧
      ((lanesIn s p lanes).all isMarkerRun = true → tstate s0 p = 7 → exec (.markerRunSeen p lanes) s = .next (enterDetect s0 p)) ∧
      ((lanesIn s p lanes).all isMarkerRun = false → exec (.markerRunSeen p lanes) s = .next s)) ∧
    (∀ words, tstate s p = 2 → cdrAll s p = true → x.runAt = none → boundsGood s p = true →
      (unmarked s p words = [] → exec (.markerCheck p words) s = .next (
        let s0 := setIsl s p { x with rxBuf := [], rxFec := 0, rxPar := false }
        setIsl s0 p { islOf s0 p with runAt := some (s.clock + (if (islOf s0 p).longHold then 2000000 else 1000)) })) ∧
      (unmarked s p words ≠ [] → exec (.markerCheck p words) s = .next (enterAlign ((unmarked s p words).foldl (fun s l => raiseEvent s 0x001 l []) s) p))) ∧
    (∀ words, tstate s p ≠ 2 → exec (.markerCheck p words) s = .next s) ∧
    (∀ t, x.runAt = some t → tstate s p = 2 → t ≤ s.clock ∨ (x.longHold = true ∧ x.peerParam ≠ []) →
      let s1 := sendParam (setTstate (setIsl s p { x with runAt := none, longHold := false, firstParam := none }) p 4) p
      ((islOf s1 p).peerParam = [] → exec (.wakeHoldEnd p) s = .next s1) ∧ ((islOf s1 p).peerParam ≠ [] → exec (.wakeHoldEnd p) s = .next (openSession s1 p))) ∧
    (∀ t, x.alignAt = some t → tstate s p = 3 → t ≤ s.clock → exec (.alignRerun p) s = .next (enterAlign s p)) ∧
    (∀ st n, x.alignDone = some (st, n) → exec (.alignResult p) s = .next (raiseEvent (setIsl s p { x with
      alignDone := none, alignAt := if st ≠ 0 ∧ tstate s p = 3 then some (s.clock + 1000000) else none }) 0x100 p [st, n])) ∧
    (tstate s p = 4 → x.peerParam = [] → x.lastParam + 10000 ≤ s.clock → exec (.paramResend p) s = .next (sendParam s p)) ∧
    (tstate s p = 4 → x.peerParam = [] → s.clock < x.lastParam + 10000 → exec (.paramResend p) s = .next s) ∧
    (∀ t, x.firstParam = some t → tstate s p = 4 → x.peerParam = [] → t + 20000 ≤ s.clock →
      exec (.paramTimeout p) s = .next (enterWake (setIsl s p { x with firstParam := none }) p true)) ∧
    (∀ lanes u f fec, tstate s p = 4 → takeFolio s p lanes = some (u, f, fec, false) → fec ≠ 2 → (hdrOf f).typ = 2 → (hdrOf f).mode = false → crcGood f = true →
      let v := takeParam u p f
      (∀ o, paramFault u p f = some o → exec (.paramFolio p lanes) s = .next (raiseEvent u 0x101 p [o])) ∧
      (paramFault u p f = none → (islOf v p).firstParam.isSome = true → exec (.paramFolio p lanes) s = .next (openSession v p)) ∧
      (paramFault u p f = none → (islOf v p).firstParam = none → exec (.paramFolio p lanes) s = .next v) ∧
      (leAt f 12 1 ≠ 1 → (islOf u p).partner = none ∨ (islOf u p).partner = some (leAt f 16 8) →
        v = takeRxl (setIsl u p { islOf u p with peerParam := f }) p (hdrOf f).rxl)) ∧
    (∀ lanes, tstate s p ≠ 2 → tstate s p ≠ 4 → exec (.paramFolio p lanes) s = .next s) ∧
    (∀ t, x.deadline = some t → 2 ≤ tstate s p → tstate s p ≤ 4 → t ≤ s.clock → Canonical s → smWf (fun _ => ({} : Isl)) s.isls = true →
      Does (.reopenDeadline p) s fun t => tstate t p = 7 ∧ tabFld t 0x02 p 17 1 = 0 ∧ tabFld t 0x02 p 20 1 = 1 ∧
        (islOf t p).partner = none ∧ (islOf t p).store = [] ∧ t.hbm = s.hbm ∧ t.claims = s.claims) ∧
    (∀ t, x.deadline = some t → s.clock < t → exec (.reopenDeadline p) s = .next s)

/-- An open Trorno session: folios received and sent, NAK and replay, timeouts, qualification, credits, electrical idle, time marks.
(04_trorno_link.md R105; 04_trorno_link.md R106; 04_trorno_link.md R108; 04_trorno_link.md R110; 04_trorno_link.md R111; 04_trorno_link.md
R112; 04_trorno_link.md R113; 04_trorno_link.md R114; 04_trorno_link.md R115; 04_trorno_link.md R120; 04_trorno_link.md R121;
04_trorno_link.md R124) -/
def Obligations.TrornoFoliosTimersIdleAndTime : Prop :=
  (∀ (p : PortId) (s : State) (lanes : List (List Level)) (u : State) (f : List Byte) (fec : Nat) (par : Bool), receiving s p = true →
    takeFolio s p lanes = some (u, f, fec, par) →
    let c := checkFolio u p f fec par
    let t := c.1
    let y := islOf t p
    (c.2 = none → exec (.dataFolio p lanes) s = .next t ∧ exec (.nullFolio p lanes) s = .next t ∧ exec (.nakFolio p lanes) s = .next t ∧
      exec (.rplyFolio p lanes) s = .next t ∧ exec (.idleFolio p lanes) s = .next t) ∧
    (∀ h, c.2 = some h → h.typ = 1 →
      (y.nakCause ≠ 0 → exec (.dataFolio p lanes) s = .next (discardOne t p)) ∧
      (y.nakCause = 0 → h.seq ≠ y.expect % 4096 → exec (.dataFolio p lanes) s = .next (detected t p 4)) ∧
      (y.nakCause = 0 → h.seq = y.expect % 4096 → seqLe y.expect y.accept = true →
        exec (.dataFolio p lanes) s = .next (setIsl t p { y with expect := seqAdd y.expect 1 })) ∧
      (y.nakCause = 0 → h.seq = y.expect % 4096 → seqLe y.expect y.accept = false → exec (.dataFolio p lanes) s = .next (takeData t p f h.smap))) ∧
    (∀ h, c.2 = some h → h.typ = 0 → y.nakCause = 0 → exec (.nullFolio p lanes) s = .next t) ∧
    (∀ h, c.2 = some h → h.typ = 0 → y.nakCause ≠ 0 → exec (.nullFolio p lanes) s = .next (discardOne t p)) ∧
    (∀ h, c.2 = some h → h.typ = 3 → let r := if seqDist y.acked (leAt f 8 4) ≤ y.store.length then startReplay t p (seqAdd (leAt f 8 4) 1) else t
      (y.nakCause = 0 → exec (.nakFolio p lanes) s = .next r) ∧ (y.nakCause ≠ 0 → exec (.nakFolio p lanes) s = .next (discardOne r p))) ∧
    (∀ h, c.2 = some h → h.typ = 4 → seqLe (leAt f 8 4) (seqAdd y.accept 1) = false → exec (.rplyFolio p lanes) s = .next (leaveOpen t p 2)) ∧
    (∀ h, c.2 = some h → h.typ = 4 → seqLe (leAt f 8 4) (seqAdd y.accept 1) = true →
      exec (.rplyFolio p lanes) s = .next (let t1 := closeRx t p; let z := islOf t1 p
        let n := seqAdd (leAt f 8 4) ((h.seq + 4096 - leAt f 8 4 % 4096) % 4096)
        setIsl t1 p { z with nakCause := 0, discarded := 0, expect := leAt f 8 4, replayEnd := n })) ∧
    (∀ h, c.2 = some h → h.typ = 5 → let r := setIsl t p { y with rxIdle := true }
      (y.nakCause = 0 → exec (.idleFolio p lanes) s = .next r) ∧ (y.nakCause ≠ 0 → exec (.idleFolio p lanes) s = .next (discardOne r p)))) ∧
  (∀ (p : PortId) (s : State) (lanes : List (List Level)),
    let all := fun t : State => exec (.dataFolio p lanes) s = .next t ∧ exec (.nullFolio p lanes) s = .next t ∧ exec (.nakFolio p lanes) s = .next t ∧
      exec (.rplyFolio p lanes) s = .next t ∧ exec (.idleFolio p lanes) s = .next t
    (receiving s p = true → takeFolio s p lanes = none → all s) ∧
    (receiving s p = false → roleOf s p ≠ 3 ∨ (tstate s p ≠ 2 ∧ tstate s p ≠ 4) → all s) ∧
    (∀ u f fec par, receiving s p = false → roleOf s p = 3 → tstate s p = 2 ∨ tstate s p = 4 → takeFolio s p lanes = some (u, f, fec, par) → all u)) ∧
  (∀ (p : PortId) (s : State), roleOf s p = 3 → islOpen s p = true →
    let x := islOf s p
    (x.nakCause ≠ 0 → x.nakAt ≤ s.clock → x.txIdle = none → exec (.nakResend p) s = .next (sendNak s p)) ∧
    (x.nakCause = 0 → exec (.nakResend p) s = .next s) ∧
    (x.store ≠ [] → x.ackAt + 8000 ≤ s.clock → sessFld s p 27 1 = 0 → exec (.ackTimeout p) s = .next (startReplay s p (seqAdd x.acked 1))) ∧
    (x.store ≠ [] → x.ackAt + 8000 ≤ s.clock → sessFld s p 27 1 = 1 → exec (.ackTimeout p) s = .next (leaveOpen s p 6)) ∧
    (x.store = [] → exec (.ackTimeout p) s = .next s) ∧
    (∀ a, x.openAt = some a → x.qualified = false → 1000000000 ≤ x.goodNs + (s.clock - a) →
      exec (.leanQualified p true) s = .next (setRxLean (setIsl s p { x with qualified := true }) p)) ∧
    (exec (.leanQualified p false) s = .next s) ∧
    (x.periodAt ≤ s.clock → sessFld s p 23 1 = 1 →
      let low := (List.range 6).filter fun v => decide (smGet 0 x.high v * 2 < smGet 0 x.cap v)
      let pct := ((List.range 6).map fun v => smGet 0 x.high v * 100 / max 1 (smGet 0 x.cap v)).foldl min 100
      let s2 := setSess (feedGauge s 3 p pct) p 22 1 (if low = [] then 0 else 1)
      let y := islOf s2 p
      exec (.creditPeriod p) s = .next (setIsl s2 p { y with
        high := y.credit, low := low.foldl (fun m v => smSet false m v true) [], periodAt := y.periodAt + 1000000 })) ∧
    (s.clock < x.periodAt → exec (.creditPeriod p) s = .next s) ∧
    (∀ q, x.quiet = some q → tabFld s 0x01 p 14 1 = 1 → x.txIdle = none → q + 2000 ≤ s.clock → nothingDue s p = true →
      let s1 := stopStream (launchPlain s p 5 []) p
      exec (.idleEntry p) s = .next (lowBegin (setTstate (setIsl s1 p { islOf s1 p with txIdle := some s.clock, quiet := none }) p 6) p)) ∧
    (x.quiet = none → exec (.idleEntry p) s = .next s) ∧
    (∀ t, x.txIdle = some t → nothingDue s p = false → exec (.idleExitRequest p) s = .next (lowEnd (setTstate (emit (setIsl s p { x with txIdle := none })
      (.link p 2 (if s.clock ≤ t + 100000000 then 4 else 64))) p 5) p)) ∧
    (nothingDue s p = true → exec (.idleExitRequest p) s = .next s) ∧
    (x.rxIdle = true → exec (.burstReceived p) s = .next (leaveIdle (setIsl s p { x with
      rxBuf := [], rxFec := 0, rxPar := false, rxIdle := false, rxExit := some s.clock }) p)) ∧
    (x.rxIdle = false → exec (.burstReceived p) s = .next s) ∧
    (∀ t, x.rxExit = some t → t + 1000 ≤ s.clock → exec (.idleExitFailure p) s = .next (leaveOpen s p 5)) ∧
    (x.rxExit = none → exec (.idleExitFailure p) s = .next s) ∧
    (let m : TimeMsg := { op := 0x60, pid := 0xFFF, tag := x.markTag, arrived := 0, stamp := s.nextTxn }
     tabFld s 0x0C 0 8 7 = p → x.markAt ≤ s.clock → exec (.timeMarkSend p) s = .next (setIsl s p { x with
      timeTx := x.timeTx ++ [m], markTag := (x.markTag + 1) % 65536, markAt := s.clock + 1000000 })) ∧
    (s.clock < x.markAt → exec (.timeMarkSend p) s = .next s) ∧
    (∀ t rest, takeFirst (fun t : TimeMsg => t.op == 0x60) x.timeRx = some (t, rest) →
      let m : TimeMsg := { op := 0x61, pid := t.pid, tag := t.tag, a := t.arrived, arrived := 0, stamp := s.nextTxn }
      exec (.timeMark p) s = .next (setIsl s p { x with timeRx := rest, timeTx := x.timeTx ++ [m] })) ∧
    (∀ t rest, takeFirst (fun t : TimeMsg => t.op == 0x61) x.timeRx = some (t, rest) →
      let off : Int := (((t.a : Int) - x.t1) - ((t.arrived : Int) - t.b)) / 2
      let s1 := setIsl s p { x with timeRx := rest, stepDue := false }
      let s2 := raiseEvent s1 0x580 p [(wordOfInt off).toNat]
      (tabFld s 0x0C 0 8 7 ≠ p → exec (.timeEcho p) s = .next s1) ∧
      (tabFld s 0x0C 0 8 7 = p → x.stepDue = false → exec (.timeEcho p) s = .next { s1 with tsync := { s1.tsync with slew := off } }) ∧
      (tabFld s 0x0C 0 8 7 = p → x.stepDue = true → 0 < off →
        exec (.timeEcho p) s = .next { s2 with ts := s2.ts + off.toNat, tsync := { s2.tsync with slew := 0 } }) ∧
      (tabFld s 0x0C 0 8 7 = p → x.stepDue = true → off ≤ 0 → exec (.timeEcho p) s = .next { s2 with tsync := { s2.tsync with slew := off } })) ∧
    (let settle := fun s1 => setIsl s1 p { islOf s1 p with quiet := if nothingDue s1 p then some ((islOf s1 p).quiet.getD s.clock) else none }
     fabricRuns s = true → x.txIdle = none →
      (∀ a, x.rply = some a → exec (.folioTransmit p) s =
        .next (settle (count (launchPlain (setIsl s p { x with rply := none }) p 4 (natBytes 4 a)) (portCtr p 11) 1))) ∧
      (∀ i f, x.rply = none → x.replay = some i → x.store[i]? = some f → exec (.folioTransmit p) s = .next (settle (launch
        (setIsl s p { x with replay := if i + 1 < x.store.length then some (i + 1) else none }) p 1 (seqAdd x.acked (i + 1)) f.smap (txLean s p)
        (storedBody s p (seqAdd x.acked (i + 1)) f)))) ∧
      (x.rply = none → x.replay = none → storeLimit s ≤ x.store.length → exec (.folioTransmit p) s = .next (settle (launchPlain s p 0 []))) ∧
      (x.rply = none → x.replay = none → x.store.length < storeLimit s → (packFolio s p).2 = none →
        exec (.folioTransmit p) s = .next (settle (launchPlain (packFolio s p).1 p 0 []))) ∧
      (∀ k, x.rply = none → x.replay = none → x.store.length < storeLimit s → (packFolio s p).2 = some k →
        exec (.folioTransmit p) s = .next (settle (launchNew (packFolio s p).1 p k)))))
end

