-- ==== Sys2Proof/Laws/Exec.lean ====
section
/-! SUPPORT. Which meaning exec calls for each command, one lemma a command. -/
namespace Sys2Proof.Machine

@[simp] theorem exec_routerCycle {pl} {r} {hdr} {unit} {corr} {s : State} : exec (.routerCycle pl r hdr unit corr) s = execRouterCycle pl r hdr unit corr s := rfl
@[simp] theorem exec_starve {pl} {r} {s : State} : exec (.starve pl r) s = execStarve pl r s := rfl
@[simp] theorem exec_epochDrainSum {pl} {s : State} : exec (.epochDrainSum pl) s = execEpochDrainSum pl s := rfl
@[simp] theorem exec_proxyErrIssue {ep} {s : State} : exec (.proxyErrIssue ep) s = execProxyErrIssue ep s := rfl
@[simp] theorem exec_headerLookup {p} {m} {s : State} : exec (.headerLookup p m) s = execHeaderLookup p m s := rfl
@[simp] theorem exec_cutThroughUnit {p} {cpl} {tag} {data} {poison} {bad} {s : State} : exec (.cutThroughUnit p cpl tag data poison bad) s = execCutThroughUnit p cpl tag data poison bad s := rfl
@[simp] theorem exec_admission {p} {cls} {s : State} : exec (.admission p cls) s = execAdmission p cls s := rfl
@[simp] theorem exec_egressSelect {dst} {s : State} : exec (.egressSelect dst) s = execEgressSelect dst s := rfl
@[simp] theorem exec_responseLeaves {p} {s : State} : exec (.responseLeaves p) s = execResponseLeaves p s := rfl
@[simp] theorem exec_relReportTimer {dst} {src} {oc} {s : State} : exec (.relReportTimer dst src oc) s = execRelReportTimer dst src oc s := rfl
@[simp] theorem exec_rel {ep} {s : State} : exec (.rel ep) s = execRel ep s := rfl
@[simp] theorem exec_skip {ep} {s : State} : exec (.skip ep) s = execSkip ep s := rfl
@[simp] theorem exec_close {ep} {s : State} : exec (.close ep) s = execClose ep s := rfl
@[simp] theorem exec_loadSevere {p} {q} {cls} {s : State} : exec (.loadSevere p q cls) s = execLoadSevere p q cls s := rfl
@[simp] theorem exec_linkUp {p} {stage} {rate} {width} {offers} {cxl} {cache} {inv} {s : State} : exec (.linkUp p stage rate width offers cxl cache inv) s = execLinkUp p stage rate width offers cxl cache inv s := rfl
@[simp] theorem exec_portLost {p} {dest} {s : State} : exec (.portLost p dest) s = execPortLost p dest s := rfl
@[simp] theorem exec_lossResponseIssue {p} {s : State} : exec (.lossResponseIssue p) s = execLossResponseIssue p s := rfl
@[simp] theorem exec_hotResetReceived {p} {s : State} : exec (.hotResetReceived p) s = execHotResetReceived p s := rfl
@[simp] theorem exec_pmeTurnOff {p} {s : State} : exec (.pmeTurnOff p) s = execPmeTurnOff p s := rfl
@[simp] theorem exec_macEpochCheck {p} {ok} {msgs} {s : State} : exec (.macEpochCheck p ok msgs) s = execMacEpochCheck p ok msgs s := rfl
@[simp] theorem exec_viral {p} {s : State} : exec (.viral p) s = execViral p s := rfl
@[simp] theorem exec_biConflict {p} {addr} {tag} {s : State} : exec (.biConflict p addr tag) s = execBiConflict p addr tag s := rfl
@[simp] theorem exec_memInv {p} {own} {m} {s : State} : exec (.memInv p own m) s = execMemInv p own m s := rfl
@[simp] theorem exec_cleanEvict {p} {tag} {data} {s : State} : exec (.cleanEvict p tag data) s = execCleanEvict p tag data s := rfl
@[simp] theorem exec_d2hUnsupported {p} {tag} {s : State} : exec (.d2hUnsupported p tag) s = execD2hUnsupported p tag s := rfl
@[simp] theorem exec_mrd {g} {d} {s : State} : exec (.mrd g d) s = execMrd g d s := rfl
@[simp] theorem exec_mrdOwn {g} {d} {s : State} : exec (.mrdOwn g d) s = execMrdOwn g d s := rfl
@[simp] theorem exec_mrdNa {g} {d} {s : State} : exec (.mrdNa g d) s = execMrdNa g d s := rfl
@[simp] theorem exec_mwr {g} {d} {s : State} : exec (.mwr g d) s = execMwr g d s := rfl
@[simp] theorem exec_mwrPtl {g} {d} {s : State} : exec (.mwrPtl g d) s = execMwrPtl g d s := rfl
@[simp] theorem exec_wb {g} {d} {b} {s : State} : exec (.wb g d b) s = execWb g d b s := rfl
@[simp] theorem exec_snpRsp {g} {d} {s : State} : exec (.snpRsp g d) s = execSnpRsp g d s := rfl
@[simp] theorem exec_err {g} {d} {s : State} : exec (.err g d) s = execErr g d s := rfl
@[simp] theorem exec_done {g} {d} {s : State} : exec (.done g d) s = execDone g d s := rfl
@[simp] theorem exec_conflictListActivate {g} {d} {s : State} : exec (.conflictListActivate g d) s = execConflictListActivate g d s := rfl
@[simp] theorem exec_snpFwd {p} {s : State} : exec (.snpFwd p) s = execSnpFwd p s := rfl
@[simp] theorem exec_proxySnoopAnswer {p} {addr} {kept} {dirty} {s : State} : exec (.proxySnoopAnswer p addr kept dirty) s = execProxySnoopAnswer p addr kept dirty s := rfl
@[simp] theorem exec_dataFwd {p} {pid} {tag} {data} {s : State} : exec (.dataFwd p pid tag data) s = execDataFwd p pid tag data s := rfl
@[simp] theorem exec_backingReadReturn {g} {b} {s : State} : exec (.backingReadReturn g b) s = execBackingReadReturn g b s := rfl
@[simp] theorem exec_setConflictRelease {g} {s : State} : exec (.setConflictRelease g) s = execSetConflictRelease g s := rfl
@[simp] theorem exec_patrolRead {g} {b} {s : State} : exec (.patrolRead g b) s = execPatrolRead g b s := rfl
@[simp] theorem exec_lossWalk {g} {errs} {s : State} : exec (.lossWalk g errs) s = execLossWalk g errs s := rfl
@[simp] theorem exec_walkDone {s : State} : exec .walkDone s = execWalkDone s := rfl
@[simp] theorem exec_directoryClearDone {s : State} : exec .directoryClearDone s = execDirectoryClearDone s := rfl
@[simp] theorem exec_drainPointReached {ep} {s : State} : exec (.drainPointReached ep) s = execDrainPointReached ep s := rfl
@[simp] theorem exec_scrubStart {m} {s : State} : exec (.scrubStart m) s = execScrubStart m s := rfl
@[simp] theorem exec_zeroComplete {m} {s : State} : exec (.zeroComplete m) s = execZeroComplete m s := rfl
@[simp] theorem exec_offerExpired {x} {s : State} : exec (.offerExpired x) s = execOfferExpired x s := rfl
@[simp] theorem exec_releaseOverdue {x} {s : State} : exec (.releaseOverdue x) s = execReleaseOverdue x s := rfl
@[simp] theorem exec_deferredRegistration {p} {s : State} : exec (.deferredRegistration p) s = execDeferredRegistration p s := rfl
@[simp] theorem exec_decoderCommit {d} {s : State} : exec (.decoderCommit d) s = execDecoderCommit d s := rfl
@[simp] theorem exec_decoderUncommit {d} {s : State} : exec (.decoderUncommit d) s = execDecoderUncommit d s := rfl
@[simp] theorem exec_identifyMemoryDevice {v} {s : State} : exec (.identifyMemoryDevice v) s = execIdentifyMemoryDevice v s := rfl
@[simp] theorem exec_getDynamicCapacityConfiguration {v} {s : State} : exec (.getDynamicCapacityConfiguration v) s = execGetDynamicCapacityConfiguration v s := rfl
@[simp] theorem exec_getDynamicCapacityExtentList {v} {count} {start} {s : State} : exec (.getDynamicCapacityExtentList v count start) s = execGetDynamicCapacityExtentList v count start s := rfl
@[simp] theorem exec_addDynamicCapacityResponse {v} {exts} {s : State} : exec (.addDynamicCapacityResponse v exts) s = execAddDynamicCapacityResponse v exts s := rfl
@[simp] theorem exec_releaseDynamicCapacity {v} {exts} {s : State} : exec (.releaseDynamicCapacity v exts) s = execReleaseDynamicCapacity v exts s := rfl
@[simp] theorem exec_mailboxUnsupported {v} {op} {s : State} : exec (.mailboxUnsupported v op) s = execMailboxUnsupported v op s := rfl
@[simp] theorem exec_identify {src} {tag} {s : State} : exec (.identify src tag) s = execIdentify src tag s := rfl
@[simp] theorem exec_backgroundOperationStatus {src} {tag} {s : State} : exec (.backgroundOperationStatus src tag) s = execBackgroundOperationStatus src tag s := rfl
@[simp] theorem exec_getResponseMessageLimit {src} {tag} {s : State} : exec (.getResponseMessageLimit src tag) s = execGetResponseMessageLimit src tag s := rfl
@[simp] theorem exec_setResponseMessageLimit {src} {tag} {n} {s : State} : exec (.setResponseMessageLimit src tag n) s = execSetResponseMessageLimit src tag n s := rfl
@[simp] theorem exec_getEventRecords {src} {tag} {s : State} : exec (.getEventRecords src tag) s = execGetEventRecords src tag s := rfl
@[simp] theorem exec_clearEventRecords {src} {tag} {handles} {s : State} : exec (.clearEventRecords src tag handles) s = execClearEventRecords src tag handles s := rfl
@[simp] theorem exec_identifySwitchDevice {src} {tag} {s : State} : exec (.identifySwitchDevice src tag) s = execIdentifySwitchDevice src tag s := rfl
@[simp] theorem exec_getPhysicalPortState {src} {tag} {ports} {s : State} : exec (.getPhysicalPortState src tag ports) s = execGetPhysicalPortState src tag ports s := rfl
@[simp] theorem exec_assertPerst {src} {tag} {p} {s : State} : exec (.assertPerst src tag p) s = execAssertPerst src tag p s := rfl
@[simp] theorem exec_deassertPerst {src} {tag} {p} {s : State} : exec (.deassertPerst src tag p) s = execDeassertPerst src tag p s := rfl
@[simp] theorem exec_sendPpbCxlIoConfigurationRequest {src} {tag} {p} {write} {reg} {data} {s : State} : exec (.sendPpbCxlIoConfigurationRequest src tag p write reg data) s = execSendPpbCxlIoConfigurationRequest src tag p write reg data s := rfl
@[simp] theorem exec_getVirtualCxlSwitchInfo {src} {tag} {vcss} {s : State} : exec (.getVirtualCxlSwitchInfo src tag vcss) s = execGetVirtualCxlSwitchInfo src tag vcss s := rfl
@[simp] theorem exec_fmBindVppb {src} {tag} {vcs} {vppb} {btype} {p} {ld} {pld} {s : State} : exec (.fmBindVppb src tag vcs vppb btype p ld pld) s = execFmBindVppb src tag vcs vppb btype p ld pld s := rfl
@[simp] theorem exec_fmUnbindVppb {src} {tag} {vcs} {vppb} {s : State} : exec (.fmUnbindVppb src tag vcs vppb) s = execFmUnbindVppb src tag vcs vppb s := rfl
@[simp] theorem exec_generateAerEvent {src} {tag} {vcs} {vppb} {error} {header} {s : State} : exec (.generateAerEvent src tag vcs vppb error header) s = execGenerateAerEvent src tag vcs vppb error header s := rfl
@[simp] theorem exec_tunnelManagementCommand {src} {tag} {p} {body} {answer} {s : State} : exec (.tunnelManagementCommand src tag p body answer) s = execTunnelManagementCommand src tag p body answer s := rfl
@[simp] theorem exec_sendLdCxlIoConfigurationRequest {src} {tag} {p} {ld} {write} {reg} {data} {answer} {s : State} : exec (.sendLdCxlIoConfigurationRequest src tag p ld write reg data answer) s = execSendLdCxlIoConfigurationRequest src tag p ld write reg data answer s := rfl
@[simp] theorem exec_sendLdCxlIoMemoryRequest {src} {tag} {p} {ld} {write} {addr} {data} {answer} {s : State} : exec (.sendLdCxlIoMemoryRequest src tag p ld write addr data answer) s = execSendLdCxlIoMemoryRequest src tag p ld write addr data answer s := rfl
@[simp] theorem exec_getLdInfo {src} {tag} {p} {body} {answer} {s : State} : exec (.getLdInfo src tag p body answer) s = execGetLdInfo src tag p body answer s := rfl
@[simp] theorem exec_getLdAllocations {src} {tag} {p} {body} {answer} {s : State} : exec (.getLdAllocations src tag p body answer) s = execGetLdAllocations src tag p body answer s := rfl
@[simp] theorem exec_setLdAllocations {src} {tag} {p} {body} {answer} {s : State} : exec (.setLdAllocations src tag p body answer) s = execSetLdAllocations src tag p body answer s := rfl
@[simp] theorem exec_getQosControl {src} {tag} {p} {body} {answer} {s : State} : exec (.getQosControl src tag p body answer) s = execGetQosControl src tag p body answer s := rfl
@[simp] theorem exec_setQosControl {src} {tag} {p} {body} {answer} {s : State} : exec (.setQosControl src tag p body answer) s = execSetQosControl src tag p body answer s := rfl
@[simp] theorem exec_getQosStatus {src} {tag} {p} {body} {answer} {s : State} : exec (.getQosStatus src tag p body answer) s = execGetQosStatus src tag p body answer s := rfl
@[simp] theorem exec_getQosAllocatedBw {src} {tag} {p} {body} {answer} {s : State} : exec (.getQosAllocatedBw src tag p body answer) s = execGetQosAllocatedBw src tag p body answer s := rfl
@[simp] theorem exec_setQosAllocatedBw {src} {tag} {p} {body} {answer} {s : State} : exec (.setQosAllocatedBw src tag p body answer) s = execSetQosAllocatedBw src tag p body answer s := rfl
@[simp] theorem exec_getQosBwLimit {src} {tag} {p} {body} {answer} {s : State} : exec (.getQosBwLimit src tag p body answer) s = execGetQosBwLimit src tag p body answer s := rfl
@[simp] theorem exec_setQosBwLimit {src} {tag} {p} {body} {answer} {s : State} : exec (.setQosBwLimit src tag p body answer) s = execSetQosBwLimit src tag p body answer s := rfl
@[simp] theorem exec_getDcdInfo {src} {tag} {s : State} : exec (.getDcdInfo src tag) s = execGetDcdInfo src tag s := rfl
@[simp] theorem exec_getHostDcRegionConfiguration {src} {tag} {pld} {s : State} : exec (.getHostDcRegionConfiguration src tag pld) s = execGetHostDcRegionConfiguration src tag pld s := rfl
@[simp] theorem exec_setDcRegionConfiguration {src} {tag} {pld} {en} {maxg} {s : State} : exec (.setDcRegionConfiguration src tag pld en maxg) s = execSetDcRegionConfiguration src tag pld en maxg s := rfl
@[simp] theorem exec_getDcRegionExtentLists {src} {tag} {pld} {count} {start} {s : State} : exec (.getDcRegionExtentLists src tag pld count start) s = execGetDcRegionExtentLists src tag pld count start s := rfl
@[simp] theorem exec_initiateDynamicCapacityAdd {src} {tag} {pld} {p} {ld} {shared} {auto} {lgran} {ngran} {mgran} {s : State} : exec (.initiateDynamicCapacityAdd src tag pld p ld shared auto lgran ngran mgran) s = execInitiateDynamicCapacityAdd src tag pld p ld shared auto lgran ngran mgran s := rfl
@[simp] theorem exec_initiateDynamicCapacityRelease {src} {tag} {x} {force} {s : State} : exec (.initiateDynamicCapacityRelease src tag x force) s = execInitiateDynamicCapacityRelease src tag x force s := rfl
@[simp] theorem exec_fmUnsupportedCommand {src} {tag} {code} {s : State} : exec (.fmUnsupportedCommand src tag code) s = execFmUnsupportedCommand src tag code s := rfl
@[simp] theorem exec_refLost {pair} {s : State} : exec (.refLost pair) s = execRefLost pair s := rfl
@[simp] theorem exec_refReturn {pair} {s : State} : exec (.refReturn pair) s = execRefReturn pair s := rfl
@[simp] theorem exec_cdrLockAll {p} {inv} {rev} {s : State} : exec (.cdrLockAll p inv rev) s = execCdrLockAll p inv rev s := rfl
@[simp] theorem exec_cdrLockLost {p} {lanes} {s : State} : exec (.cdrLockLost p lanes) s = execCdrLockLost p lanes s := rfl
@[simp] theorem exec_markerRunSeen {p} {lanes} {s : State} : exec (.markerRunSeen p lanes) s = execMarkerRunSeen p lanes s := rfl
@[simp] theorem exec_markerCheck {p} {words} {s : State} : exec (.markerCheck p words) s = execMarkerCheck p words s := rfl
@[simp] theorem exec_wakeHoldEnd {p} {s : State} : exec (.wakeHoldEnd p) s = execWakeHoldEnd p s := rfl
@[simp] theorem exec_alignRerun {p} {s : State} : exec (.alignRerun p) s = execAlignRerun p s := rfl
@[simp] theorem exec_alignResult {p} {s : State} : exec (.alignResult p) s = execAlignResult p s := rfl
@[simp] theorem exec_paramResend {p} {s : State} : exec (.paramResend p) s = execParamResend p s := rfl
@[simp] theorem exec_paramTimeout {p} {s : State} : exec (.paramTimeout p) s = execParamTimeout p s := rfl
@[simp] theorem exec_paramFolio {p} {lanes} {s : State} : exec (.paramFolio p lanes) s = execParamFolio p lanes s := rfl
@[simp] theorem exec_dataFolio {p} {lanes} {s : State} : exec (.dataFolio p lanes) s = execDataFolio p lanes s := rfl
@[simp] theorem exec_nullFolio {p} {lanes} {s : State} : exec (.nullFolio p lanes) s = execNullFolio p lanes s := rfl
@[simp] theorem exec_nakFolio {p} {lanes} {s : State} : exec (.nakFolio p lanes) s = execNakFolio p lanes s := rfl
@[simp] theorem exec_rplyFolio {p} {lanes} {s : State} : exec (.rplyFolio p lanes) s = execRplyFolio p lanes s := rfl
@[simp] theorem exec_idleFolio {p} {lanes} {s : State} : exec (.idleFolio p lanes) s = execIdleFolio p lanes s := rfl
@[simp] theorem exec_nakResend {p} {s : State} : exec (.nakResend p) s = execNakResend p s := rfl
@[simp] theorem exec_ackTimeout {p} {s : State} : exec (.ackTimeout p) s = execAckTimeout p s := rfl
@[simp] theorem exec_leanQualified {p} {ber} {s : State} : exec (.leanQualified p ber) s = execLeanQualified p ber s := rfl
@[simp] theorem exec_creditPeriod {p} {s : State} : exec (.creditPeriod p) s = execCreditPeriod p s := rfl
@[simp] theorem exec_idleEntry {p} {s : State} : exec (.idleEntry p) s = execIdleEntry p s := rfl
@[simp] theorem exec_idleExitRequest {p} {s : State} : exec (.idleExitRequest p) s = execIdleExitRequest p s := rfl
@[simp] theorem exec_burstReceived {p} {s : State} : exec (.burstReceived p) s = execBurstReceived p s := rfl
@[simp] theorem exec_idleExitFailure {p} {s : State} : exec (.idleExitFailure p) s = execIdleExitFailure p s := rfl
@[simp] theorem exec_reopenDeadline {p} {s : State} : exec (.reopenDeadline p) s = execReopenDeadline p s := rfl
@[simp] theorem exec_timeMarkSend {p} {s : State} : exec (.timeMarkSend p) s = execTimeMarkSend p s := rfl
@[simp] theorem exec_timeMark {p} {s : State} : exec (.timeMark p) s = execTimeMark p s := rfl
@[simp] theorem exec_timeEcho {p} {s : State} : exec (.timeEcho p) s = execTimeEcho p s := rfl
@[simp] theorem exec_tsSyncEdge {s : State} : exec .tsSyncEdge s = execTsSyncEdge s := rfl
@[simp] theorem exec_tsSyncLoss {s : State} : exec .tsSyncLoss s = execTsSyncLoss s := rfl
@[simp] theorem exec_tsPps {s : State} : exec .tsPps s = execTsPps s := rfl
@[simp] theorem exec_chartFetch {e} {mer} {s : State} : exec (.chartFetch e mer) s = execChartFetch e mer s := rfl
@[simp] theorem exec_hostReadResponse {e} {outcome} {data} {s : State} : exec (.hostReadResponse e outcome data) s = execHostReadResponse e outcome data s := rfl
@[simp] theorem exec_chartTimeout {e} {s : State} : exec (.chartTimeout e) s = execChartTimeout e s := rfl
@[simp] theorem exec_endChart {e} {s : State} : exec (.endChart e) s = execEndChart e s := rfl
@[simp] theorem exec_bCc {e} {s : State} : exec (.bCc e) s = execBCc e s := rfl
@[simp] theorem exec_wait {e} {s : State} : exec (.wait e) s = execWait e s := rfl
@[simp] theorem exec_waitExpiry {e} {s : State} : exec (.waitExpiry e) s = execWaitExpiry e s := rfl
@[simp] theorem exec_time {e} {s : State} : exec (.time e) s = execTime e s := rfl
@[simp] theorem exec_rdcs {e} {s : State} : exec (.rdcs e) s = execRdcs e s := rfl
@[simp] theorem exec_fail {e} {s : State} : exec (.fail e) s = execFail e s := rfl
@[simp] theorem exec_add {e} {s : State} : exec (.add e) s = execAdd e s := rfl
@[simp] theorem exec_sub {e} {s : State} : exec (.sub e) s = execSub e s := rfl
@[simp] theorem exec_and {e} {s : State} : exec (.and e) s = execAnd e s := rfl
@[simp] theorem exec_or {e} {s : State} : exec (.or e) s = execOr e s := rfl
@[simp] theorem exec_xor {e} {s : State} : exec (.xor e) s = execXor e s := rfl
@[simp] theorem exec_shl {e} {s : State} : exec (.shl e) s = execShl e s := rfl
@[simp] theorem exec_shr {e} {s : State} : exec (.shr e) s = execShr e s := rfl
@[simp] theorem exec_sar {e} {s : State} : exec (.sar e) s = execSar e s := rfl
@[simp] theorem exec_cmp {e} {s : State} : exec (.cmp e) s = execCmp e s := rfl
@[simp] theorem exec_tst {e} {s : State} : exec (.tst e) s = execTst e s := rfl
@[simp] theorem exec_mul {e} {s : State} : exec (.mul e) s = execMul e s := rfl
@[simp] theorem exec_ext {e} {s : State} : exec (.ext e) s = execExt e s := rfl
@[simp] theorem exec_ins {e} {s : State} : exec (.ins e) s = execIns e s := rfl
@[simp] theorem exec_li {e} {s : State} : exec (.li e) s = execLi e s := rfl
@[simp] theorem exec_lih {e} {s : State} : exec (.lih e) s = execLih e s := rfl
@[simp] theorem exec_ld {e} {ue} {s : State} : exec (.ld e ue) s = execLd e ue s := rfl
@[simp] theorem exec_st {e} {s : State} : exec (.st e) s = execSt e s := rfl
@[simp] theorem exec_hld {e} {s : State} : exec (.hld e) s = execHld e s := rfl
@[simp] theorem exec_hst {e} {s : State} : exec (.hst e) s = execHst e s := rfl
@[simp] theorem exec_hget {e} {s : State} : exec (.hget e) s = execHget e s := rfl
@[simp] theorem exec_hput {e} {ue} {s : State} : exec (.hput e ue) s = execHput e ue s := rfl
@[simp] theorem exec_trd {e} {s : State} : exec (.trd e) s = execTrd e s := rfl
@[simp] theorem exec_twr {e} {s : State} : exec (.twr e) s = execTwr e s := rfl
@[simp] theorem exec_tclr {e} {s : State} : exec (.tclr e) s = execTclr e s := rfl
@[simp] theorem exec_commit {e} {s : State} : exec (.commit e) s = execCommit e s := rfl
@[simp] theorem exec_commitJudgement {s : State} : exec .commitJudgement s = execCommitJudgement s := rfl
@[simp] theorem exec_commitFlip {s : State} : exec .commitFlip s = execCommitFlip s := rfl
@[simp] theorem exec_abort {e} {s : State} : exec (.abort e) s = execAbort e s := rfl
@[simp] theorem exec_epoch {e} {s : State} : exec (.epoch e) s = execEpoch e s := rfl
@[simp] theorem exec_drain {e} {s : State} : exec (.drain e) s = execDrain e s := rfl
@[simp] theorem exec_drainTimeout {e} {s : State} : exec (.drainTimeout e) s = execDrainTimeout e s := rfl
@[simp] theorem exec_claim {e} {s : State} : exec (.claim e) s = execClaim e s := rfl
@[simp] theorem exec_unclaim {e} {s : State} : exec (.unclaim e) s = execUnclaim e s := rfl
@[simp] theorem exec_qclaim {e} {s : State} : exec (.qclaim e) s = execQclaim e s := rfl
@[simp] theorem exec_merStewardHold {e} {s : State} : exec (.merStewardHold e) s = execMerStewardHold e s := rfl
@[simp] theorem exec_merStewardRelease {e} {s : State} : exec (.merStewardRelease e) s = execMerStewardRelease e s := rfl
@[simp] theorem exec_merStewardReset {e} {s : State} : exec (.merStewardReset e) s = execMerStewardReset e s := rfl
@[simp] theorem exec_merLegend {e} {s : State} : exec (.merLegend e) s = execMerLegend e s := rfl
@[simp] theorem exec_merResetChip {e} {s : State} : exec (.merResetChip e) s = execMerResetChip e s := rfl
@[simp] theorem exec_merResetTile {e} {s : State} : exec (.merResetTile e) s = execMerResetTile e s := rfl
@[simp] theorem exec_merResetPort {e} {s : State} : exec (.merResetPort e) s = execMerResetPort e s := rfl
@[simp] theorem exec_portConfig {e} {s : State} : exec (.portConfig e) s = execPortConfig e s := rfl
@[simp] theorem exec_portRetrain {e} {s : State} : exec (.portRetrain e) s = execPortRetrain e s := rfl
@[simp] theorem exec_portStatus {e} {s : State} : exec (.portStatus e) s = execPortStatus e s := rfl
@[simp] theorem exec_laneSet {e} {s : State} : exec (.laneSet e) s = execLaneSet e s := rfl
@[simp] theorem exec_laneSlip {e} {rx} {s : State} : exec (.laneSlip e rx) s = execLaneSlip e rx s := rfl
@[simp] theorem exec_laneAlign {e} {rx} {s : State} : exec (.laneAlign e rx) s = execLaneAlign e rx s := rfl
@[simp] theorem exec_laneEye {e} {errs} {s : State} : exec (.laneEye e errs) s = execLaneEye e errs s := rfl
@[simp] theorem exec_laneStat {e} {s : State} : exec (.laneStat e) s = execLaneStat e s := rfl
@[simp] theorem exec_islRetrain {e} {s : State} : exec (.islRetrain e) s = execIslRetrain e s := rfl
@[simp] theorem exec_islChip {e} {s : State} : exec (.islChip e) s = execIslChip e s := rfl
@[simp] theorem exec_bindVcs {e} {s : State} : exec (.bindVcs e) s = execBindVcs e s := rfl
@[simp] theorem exec_bindVppb {e} {s : State} : exec (.bindVppb e) s = execBindVppb e s := rfl
@[simp] theorem exec_bindUnvppb {e} {s : State} : exec (.bindUnvppb e) s = execBindUnvppb e s := rfl
@[simp] theorem exec_bindPld {e} {s : State} : exec (.bindPld e) s = execBindPld e s := rfl
@[simp] theorem exec_bindAdd {e} {s : State} : exec (.bindAdd e) s = execBindAdd e s := rfl
@[simp] theorem exec_bindRelease {e} {s : State} : exec (.bindRelease e) s = execBindRelease e s := rfl
@[simp] theorem exec_bindGfam {e} {s : State} : exec (.bindGfam e) s = execBindGfam e s := rfl
@[simp] theorem exec_bindPid {e} {s : State} : exec (.bindPid e) s = execBindPid e s := rfl
@[simp] theorem exec_cohDomain {e} {s : State} : exec (.cohDomain e) s = execCohDomain e s := rfl
@[simp] theorem exec_cohAgentAdd {e} {s : State} : exec (.cohAgentAdd e) s = execCohAgentAdd e s := rfl
@[simp] theorem exec_cohAgentRemove {e} {s : State} : exec (.cohAgentRemove e) s = execCohAgentRemove e s := rfl
@[simp] theorem exec_cohRegionShare {e} {s : State} : exec (.cohRegionShare e) s = execCohRegionShare e s := rfl
@[simp] theorem exec_cohRegionRelease {e} {s : State} : exec (.cohRegionRelease e) s = execCohRegionRelease e s := rfl
@[simp] theorem exec_cohLookup {e} {s : State} : exec (.cohLookup e) s = execCohLookup e s := rfl
@[simp] theorem exec_qosPort {e} {s : State} : exec (.qosPort e) s = execQosPort e s := rfl
@[simp] theorem exec_qosFlow {e} {s : State} : exec (.qosFlow e) s = execQosFlow e s := rfl
@[simp] theorem exec_fenceSet {e} {s : State} : exec (.fenceSet e) s = execFenceSet e s := rfl
@[simp] theorem exec_fenceClear {e} {s : State} : exec (.fenceClear e) s = execFenceClear e s := rfl
@[simp] theorem exec_slotConfig {e} {s : State} : exec (.slotConfig e) s = execSlotConfig e s := rfl
@[simp] theorem exec_slotMap {e} {s : State} : exec (.slotMap e) s = execSlotMap e s := rfl
@[simp] theorem exec_slotOn {e} {adc} {s : State} : exec (.slotOn e adc) s = execSlotOn e adc s := rfl
@[simp] theorem exec_slotOnTimeout {e} {s : State} : exec (.slotOnTimeout e) s = execSlotOnTimeout e s := rfl
@[simp] theorem exec_slotOff {e} {s : State} : exec (.slotOff e) s = execSlotOff e s := rfl
@[simp] theorem exec_slotStatus {e} {adc} {s : State} : exec (.slotStatus e adc) s = execSlotStatus e adc s := rfl
@[simp] theorem exec_surveyRun {e} {s : State} : exec (.surveyRun e) s = execSurveyRun e s := rfl
@[simp] theorem exec_surveyDetach {e} {s : State} : exec (.surveyDetach e) s = execSurveyDetach e s := rfl
@[simp] theorem exec_surveyRecord {e} {s : State} : exec (.surveyRecord e) s = execSurveyRecord e s := rfl
@[simp] theorem exec_evtRoute {e} {s : State} : exec (.evtRoute e) s = execEvtRoute e s := rfl
@[simp] theorem exec_evtMetric {e} {s : State} : exec (.evtMetric e) s = execEvtMetric e s := rfl
@[simp] theorem exec_evtPost {e} {s : State} : exec (.evtPost e) s = execEvtPost e s := rfl
@[simp] theorem exec_evtTimer {e} {s : State} : exec (.evtTimer e) s = execEvtTimer e s := rfl
@[simp] theorem exec_perfArm {e} {s : State} : exec (.perfArm e) s = execPerfArm e s := rfl
@[simp] theorem exec_perfDump {e} {s : State} : exec (.perfDump e) s = execPerfDump e s := rfl
@[simp] theorem exec_perfGrant {e} {s : State} : exec (.perfGrant e) s = execPerfGrant e s := rfl
@[simp] theorem exec_perfRead {e} {s : State} : exec (.perfRead e) s = execPerfRead e s := rfl
@[simp] theorem exec_perfTrace {e} {s : State} : exec (.perfTrace e) s = execPerfTrace e s := rfl
@[simp] theorem exec_vfEnable {e} {s : State} : exec (.vfEnable e) s = execVfEnable e s := rfl
@[simp] theorem exec_vfFrost {e} {s : State} : exec (.vfFrost e) s = execVfFrost e s := rfl
@[simp] theorem exec_vfSave {e} {s : State} : exec (.vfSave e) s = execVfSave e s := rfl
@[simp] theorem exec_vfRestore {e} {s : State} : exec (.vfRestore e) s = execVfRestore e s := rfl
@[simp] theorem exec_vfThaw {e} {s : State} : exec (.vfThaw e) s = execVfThaw e s := rfl
@[simp] theorem exec_vfReset {e} {s : State} : exec (.vfReset e) s = execVfReset e s := rfl
@[simp] theorem exec_moverRun {e} {s : State} : exec (.moverRun e) s = execMoverRun e s := rfl
@[simp] theorem exec_moverPost {e} {s : State} : exec (.moverPost e) s = execMoverPost e s := rfl
@[simp] theorem exec_moverWait {e} {s : State} : exec (.moverWait e) s = execMoverWait e s := rfl
@[simp] theorem exec_moverTake {m} {s : State} : exec (.moverTake m) s = execMoverTake m s := rfl
@[simp] theorem exec_moverLineIssue {m} {s : State} : exec (.moverLineIssue m) s = execMoverLineIssue m s := rfl
@[simp] theorem exec_descriptorComplete {slot} {s : State} : exec (.descriptorComplete slot) s = execDescriptorComplete slot s := rfl
@[simp] theorem exec_tileProfile {e} {s : State} : exec (.tileProfile e) s = execTileProfile e s := rfl
@[simp] theorem exec_tileFrost {e} {s : State} : exec (.tileFrost e) s = execTileFrost e s := rfl
@[simp] theorem exec_frostDrainComplete {t} {s : State} : exec (.frostDrainComplete t) s = execFrostDrainComplete t s := rfl
@[simp] theorem exec_frostBoundExpiry {t} {s : State} : exec (.frostBoundExpiry t) s = execFrostBoundExpiry t s := rfl
@[simp] theorem exec_tileThaw {e} {s : State} : exec (.tileThaw e) s = execTileThaw e s := rfl
@[simp] theorem exec_tilePowerDown {e} {s : State} : exec (.tilePowerDown e) s = execTilePowerDown e s := rfl
@[simp] theorem exec_tilePowerUp {e} {s : State} : exec (.tilePowerUp e) s = execTilePowerUp e s := rfl
@[simp] theorem exec_powerUpComplete {t} {s : State} : exec (.powerUpComplete t) s = execPowerUpComplete t s := rfl
@[simp] theorem exec_tileReset {e} {s : State} : exec (.tileReset e) s = execTileReset e s := rfl
@[simp] theorem exec_enginePause {s : State} : exec .enginePause s = execEnginePause s := rfl
@[simp] theorem exec_engineResume {s : State} : exec .engineResume s = execEngineResume s := rfl
@[simp] theorem exec_cmdTail {f} {j} {v} {s : State} : exec (.cmdTail f j v) s = execCmdTail f j v s := rfl
@[simp] theorem exec_cplHead {f} {j} {v} {s : State} : exec (.cplHead f j v) s = execCplHead f j v s := rfl
@[simp] theorem exec_eqHead {q} {v} {s : State} : exec (.eqHead q v) s = execEqHead q v s := rfl
@[simp] theorem exec_ringEnable {f} {j} {s : State} : exec (.ringEnable f j) s = execRingEnable f j s := rfl
@[simp] theorem exec_ringDisable {f} {j} {s : State} : exec (.ringDisable f j) s = execRingDisable f j s := rfl
@[simp] theorem exec_vfEnableSet {p} {s : State} : exec (.vfEnableSet p) s = execVfEnableSet p s := rfl
@[simp] theorem exec_vfEnableClear {p} {s : State} : exec (.vfEnableClear p) s = execVfEnableClear p s := rfl
@[simp] theorem exec_vfFlr {v} {s : State} : exec (.vfFlr v) s = execVfFlr v s := rfl
@[simp] theorem exec_pf0Flr {p} {s : State} : exec (.pf0Flr p) s = execPf0Flr p s := rfl
@[simp] theorem exec_eqEnable {q} {s : State} : exec (.eqEnable q) s = execEqEnable q s := rfl
@[simp] theorem exec_eqDisable {q} {s : State} : exec (.eqDisable q) s = execEqDisable q s := rfl
@[simp] theorem exec_ovfClear {q} {s : State} : exec (.ovfClear q) s = execOvfClear q s := rfl
@[simp] theorem exec_faultClear {q} {s : State} : exec (.faultClear q) s = execFaultClear q s := rfl
@[simp] theorem exec_msixUnmask {f} {vec} {s : State} : exec (.msixUnmask f vec) s = execMsixUnmask f vec s := rfl
@[simp] theorem exec_mmioBad {f} {off} {read} {s : State} : exec (.mmioBad f off read) s = execMmioBad f off read s := rfl
@[simp] theorem exec_registerWrite {t} {v} {s : State} : exec (.registerWrite t v) s = execRegisterWrite t v s := rfl
@[simp] theorem exec_stewardCoreAccess {c} {addr} {store} {len} {answer} {s : State} : exec (.stewardCoreAccess c addr store len answer) s = execStewardCoreAccess c addr store len answer s := rfl
@[simp] theorem exec_eventRecordWrite {q} {s : State} : exec (.eventRecordWrite q) s = execEventRecordWrite q s := rfl
@[simp] theorem exec_rateWindowEnd {esid} {subj} {q} {s : State} : exec (.rateWindowEnd esid subj q) s = execRateWindowEnd esid subj q s := rfl
@[simp] theorem exec_interruptModerationTimeout {q} {s : State} : exec (.interruptModerationTimeout q) s = execInterruptModerationTimeout q s := rfl
@[simp] theorem exec_almanacPeriodicWrite {slot} {s : State} : exec (.almanacPeriodicWrite slot) s = execAlmanacPeriodicWrite slot s := rfl
@[simp] theorem exec_gaugeSample {g} {subj} {reading} {s : State} : exec (.gaugeSample g subj reading) s = execGaugeSample g subj reading s := rfl
@[simp] theorem exec_timerExpired {t} {s : State} : exec (.timerExpired t) s = execTimerExpired t s := rfl
@[simp] theorem exec_timerPulseEnd {t} {s : State} : exec (.timerPulseEnd t) s = execTimerPulseEnd t s := rfl
@[simp] theorem exec_counterTick {s : State} : exec .counterTick s = execCounterTick s := rfl
@[simp] theorem exec_bwWindowEnd {p} {n} {s : State} : exec (.bwWindowEnd p n) s = execBwWindowEnd p n s := rfl
@[simp] theorem exec_dumpBlockComplete {s : State} : exec .dumpBlockComplete s = execDumpBlockComplete s := rfl
@[simp] theorem exec_traceRecordWrite {t} {s : State} : exec (.traceRecordWrite t) s = execTraceRecordWrite t s := rfl
@[simp] theorem exec_ledFrame {s : State} : exec .ledFrame s = execLedFrame s := rfl
@[simp] theorem exec_presence {p} {s : State} : exec (.presence p) s = execPresence p s := rfl
@[simp] theorem exec_presenceAbsent {p} {s : State} : exec (.presenceAbsent p) s = execPresenceAbsent p s := rfl
@[simp] theorem exec_surveyStart {p} {s : State} : exec (.surveyStart p) s = execSurveyStart p s := rfl
@[simp] theorem exec_surveyStepComplete {p} {r} {s : State} : exec (.surveyStepComplete p r) s = execSurveyStepComplete p r s := rfl
@[simp] theorem exec_surveyPerstRelease {p} {s : State} : exec (.surveyPerstRelease p) s = execSurveyPerstRelease p s := rfl
@[simp] theorem exec_surveyStepTimeout {p} {s : State} : exec (.surveyStepTimeout p) s = execSurveyStepTimeout p s := rfl
@[simp] theorem exec_attention {p} {s : State} : exec (.attention p) s = execAttention p s := rfl
@[simp] theorem exec_attentionDetachStart {p} {s : State} : exec (.attentionDetachStart p) s = execAttentionDetachStart p s := rfl
@[simp] theorem exec_detachTimeout {p} {s : State} : exec (.detachTimeout p) s = execDetachTimeout p s := rfl
@[simp] theorem exec_partnerLost {p} {s : State} : exec (.partnerLost p) s = execPartnerLost p s := rfl
@[simp] theorem exec_feedValid {c} {feed} {dv} {above} {s : State} : exec (.feedValid c feed dv above) s = execFeedValid c feed dv above s := rfl
@[simp] theorem exec_feedInvalid {c} {feed} {dv} {s : State} : exec (.feedInvalid c feed dv) s = execFeedInvalid c feed dv s := rfl
@[simp] theorem exec_reverse {c} {feed} {s : State} : exec (.reverse c feed) s = execReverse c feed s := rfl
@[simp] theorem exec_rampDone {c} {vds} {s : State} : exec (.rampDone c vds) s = execRampDone c vds s := rfl
@[simp] theorem exec_slotPg {c} {adc} {vds} {s : State} : exec (.slotPg c adc vds) s = execSlotPg c adc vds s := rfl
@[simp] theorem exec_voutLow {c} {dv} {s : State} : exec (.voutLow c dv) s = execVoutLow c dv s := rfl
@[simp] theorem exec_limitTimerExpiry {c} {s : State} : exec (.limitTimerExpiry c) s = execLimitTimerExpiry c s := rfl
@[simp] theorem exec_limitCountReset {c} {s : State} : exec (.limitCountReset c) s = execLimitCountReset c s := rfl
@[simp] theorem exec_severeOvercurrent {c} {isense} {s : State} : exec (.severeOvercurrent c isense) s = execSevereOvercurrent c isense s := rfl
@[simp] theorem exec_enLowOff {c} {s : State} : exec (.enLowOff c) s = execEnLowOff c s := rfl
@[simp] theorem exec_enLowLatchClear {c} {s : State} : exec (.enLowLatchClear c) s = execEnLowLatchClear c s := rfl
@[simp] theorem exec_enHigh {c} {s : State} : exec (.enHigh c) s = execEnHigh c s := rfl
@[simp] theorem exec_handoverConfirmed {c} {s : State} : exec (.handoverConfirmed c) s = execHandoverConfirmed c s := rfl
@[simp] theorem exec_handback {c} {s : State} : exec (.handback c) s = execHandback c s := rfl
@[simp] theorem exec_slotSettingsApply {c} {s : State} : exec (.slotSettingsApply c) s = execSlotSettingsApply c s := rfl
@[simp] theorem exec_vddPcdUndervoltage {s : State} : exec .vddPcdUndervoltage s = execVddPcdUndervoltage s := rfl
@[simp] theorem exec_thermtrip {s : State} : exec .thermtrip s = execThermtrip s := rfl
@[simp] theorem exec_vddAoPowerOn {s : State} : exec .vddAoPowerOn s = execVddAoPowerOn s := rfl
@[simp] theorem exec_maskRomCheck {s : State} : exec .maskRomCheck s = execMaskRomCheck s := rfl
@[simp] theorem exec_coldReset {s : State} : exec .coldReset s = execColdReset s := rfl
@[simp] theorem exec_pwrOkRise {s : State} : exec .pwrOkRise s = execPwrOkRise s := rfl
@[simp] theorem exec_strapLatch {levels} {s : State} : exec (.strapLatch levels) s = execStrapLatch levels s := rfl
@[simp] theorem exec_hbmTrained {s : State} : exec .hbmTrained s = execHbmTrained s := rfl
@[simp] theorem exec_stewardImageVerified {s : State} : exec .stewardImageVerified s = execStewardImageVerified s := rfl
@[simp] theorem exec_settingsApplied {s : State} : exec .settingsApplied s = execSettingsApplied s := rfl
@[simp] theorem exec_fabricReady {s : State} : exec .fabricReady s = execFabricReady s := rfl
@[simp] theorem exec_holdBootTimeout {s : State} : exec .holdBootTimeout s = execHoldBootTimeout s := rfl
@[simp] theorem exec_warmReset {s : State} : exec .warmReset s = execWarmReset s := rfl
@[simp] theorem exec_warmResetEnd {s : State} : exec .warmResetEnd s = execWarmResetEnd s := rfl
@[simp] theorem exec_meridianWatchdog {s : State} : exec .meridianWatchdog s = execMeridianWatchdog s := rfl
@[simp] theorem exec_portResetEnd {p} {s : State} : exec (.portResetEnd p) s = execPortResetEnd p s := rfl
@[simp] theorem exec_measurementReport {s : State} : exec .measurementReport s = execMeasurementReport s := rfl
@[simp] theorem exec_ready {s : State} : exec .ready s = execReady s := rfl
@[simp] theorem exec_handoverTimeout {s : State} : exec .handoverTimeout s = execHandoverTimeout s := rfl
@[simp] theorem exec_fwStagingTimeout {s : State} : exec .fwStagingTimeout s = execFwStagingTimeout s := rfl
@[simp] theorem exec_spdmHeartbeatTimeout {sess} {s : State} : exec (.spdmHeartbeatTimeout sess) s = execSpdmHeartbeatTimeout sess s := rfl
@[simp] theorem exec_setEndpointId {src} {eid} {s : State} : exec (.setEndpointId src eid) s = execSetEndpointId src eid s := rfl
@[simp] theorem exec_getEndpointId {src} {s : State} : exec (.getEndpointId src) s = execGetEndpointId src s := rfl
@[simp] theorem exec_getEndpointUuid {src} {s : State} : exec (.getEndpointUuid src) s = execGetEndpointUuid src s := rfl
@[simp] theorem exec_getMctpVersionSupport {src} {s : State} : exec (.getMctpVersionSupport src) s = execGetMctpVersionSupport src s := rfl
@[simp] theorem exec_getMessageTypeSupport {src} {s : State} : exec (.getMessageTypeSupport src) s = execGetMessageTypeSupport src s := rfl
@[simp] theorem exec_getVendorDefinedMessageSupport {src} {s : State} : exec (.getVendorDefinedMessageSupport src) s = execGetVendorDefinedMessageSupport src s := rfl
@[simp] theorem exec_mctpDiscard {src} {typ} {len} {s : State} : exec (.mctpDiscard src typ len) s = execMctpDiscard src typ len s := rfl
@[simp] theorem exec_chart {src} {tag} {entry} {words} {s : State} : exec (.chart src tag entry words) s = execChart src tag entry words s := rfl
@[simp] theorem exec_partner {src} {tag} {p} {s : State} : exec (.partner src tag p) s = execPartner src tag p s := rfl
@[simp] theorem exec_almanac {src} {tag} {slot} {s : State} : exec (.almanac src tag slot) s = execAlmanac src tag slot s := rfl
@[simp] theorem exec_legend {src} {tag} {s : State} : exec (.legend src tag) s = execLegend src tag s := rfl
@[simp] theorem exec_admitRead {src} {tag} {s : State} : exec (.admitRead src tag) s = execAdmitRead src tag s := rfl
@[simp] theorem exec_admitWrite {src} {tag} {mask} {s : State} : exec (.admitWrite src tag mask) s = execAdmitWrite src tag mask s := rfl
@[simp] theorem exec_fwBegin {src} {tag} {cart} {s : State} : exec (.fwBegin src tag cart) s = execFwBegin src tag cart s := rfl
@[simp] theorem exec_fwData {src} {tag} {off} {data} {s : State} : exec (.fwData src tag off data) s = execFwData src tag off data s := rfl
@[simp] theorem exec_fwEnd {src} {tag} {s : State} : exec (.fwEnd src tag) s = execFwEnd src tag s := rfl
@[simp] theorem exec_fwActivateLive {src} {tag} {ms} {s : State} : exec (.fwActivateLive src tag ms) s = execFwActivateLive src tag ms s := rfl
@[simp] theorem exec_fwActivatePreferred {src} {tag} {s : State} : exec (.fwActivatePreferred src tag) s = execFwActivatePreferred src tag s := rfl
@[simp] theorem exec_challenge {src} {tag} {s : State} : exec (.challenge src tag) s = execChallenge src tag s := rfl
@[simp] theorem exec_transfer {src} {tag} {tok} {s : State} : exec (.transfer src tag tok) s = execTransfer src tag tok s := rfl
@[simp] theorem exec_release {src} {tag} {tok} {s : State} : exec (.release src tag tok) s = execRelease src tag tok s := rfl
@[simp] theorem exec_keySet {src} {tag} {tok} {s : State} : exec (.keySet src tag tok) s = execKeySet src tag tok s := rfl
@[simp] theorem exec_anchorSet {src} {tag} {tok} {s : State} : exec (.anchorSet src tag tok) s = execAnchorSet src tag tok s := rfl
@[simp] theorem exec_policy {src} {tag} {tok} {s : State} : exec (.policy src tag tok) s = execPolicy src tag tok s := rfl
@[simp] theorem exec_lockSet {src} {tag} {tok} {s : State} : exec (.lockSet src tag tok) s = execLockSet src tag tok s := rfl
@[simp] theorem exec_svnRaise {src} {tag} {tok} {s : State} : exec (.svnRaise src tag tok) s = execSvnRaise src tag tok s := rfl
@[simp] theorem exec_fieldLock {src} {tag} {tok} {s : State} : exec (.fieldLock src tag tok) s = execFieldLock src tag tok s := rfl
@[simp] theorem exec_steward {src} {tag} {body} {s : State} : exec (.steward src tag body) s = execSteward src tag body s := rfl
@[simp] theorem exec_getVersion {via} {s : State} : exec (.getVersion via) s = execGetVersion via s := rfl
@[simp] theorem exec_getCapabilities {via} {s : State} : exec (.getCapabilities via) s = execGetCapabilities via s := rfl
@[simp] theorem exec_negotiateAlgorithms {via} {s : State} : exec (.negotiateAlgorithms via) s = execNegotiateAlgorithms via s := rfl
@[simp] theorem exec_getDigests {via} {s : State} : exec (.getDigests via) s = execGetDigests via s := rfl
@[simp] theorem exec_getCertificate {via} {slot} {s : State} : exec (.getCertificate via slot) s = execGetCertificate via slot s := rfl
@[simp] theorem exec_spdmChallenge {via} {nonce} {s : State} : exec (.spdmChallenge via nonce) s = execSpdmChallenge via nonce s := rfl
@[simp] theorem exec_getMeasurements {via} {idx} {s : State} : exec (.getMeasurements via idx) s = execGetMeasurements via idx s := rfl
@[simp] theorem exec_keyExchange {via} {peer} {root} {s : State} : exec (.keyExchange via peer root) s = execKeyExchange via peer root s := rfl
@[simp] theorem exec_heartbeat {sess} {s : State} : exec (.heartbeat sess) s = execHeartbeat sess s := rfl
@[simp] theorem exec_keyUpdate {sess} {s : State} : exec (.keyUpdate sess) s = execKeyUpdate sess s := rfl
@[simp] theorem exec_endSession {sess} {s : State} : exec (.endSession sess) s = execEndSession sess s := rfl
@[simp] theorem exec_bypass {s : State} : exec .bypass s = execBypass s := rfl
@[simp] theorem exec_idcode {s : State} : exec .idcode s = execIdcode s := rfl
@[simp] theorem exec_samplePreload {pins} {preload} {s : State} : exec (.samplePreload pins preload) s = execSamplePreload pins preload s := rfl
@[simp] theorem exec_extest {v} {s : State} : exec (.extest v) s = execExtest v s := rfl
@[simp] theorem exec_tapChallenge {s : State} : exec .tapChallenge s = execTapChallenge s := rfl
@[simp] theorem exec_tapToken {tok} {s : State} : exec (.tapToken tok) s = execTapToken tok s := rfl
@[simp] theorem exec_unlockTokenVerdict {s : State} : exec .unlockTokenVerdict s = execUnlockTokenVerdict s := rfl
@[simp] theorem exec_accessRead {space} {nwords} {q} {answer} {data} {s : State} : exec (.accessRead space nwords q answer data) s = execAccessRead space nwords q answer data s := rfl
@[simp] theorem exec_accessWrite {space} {nwords} {q} {data} {s : State} : exec (.accessWrite space nwords q data) s = execAccessWrite space nwords q data s := rfl
@[simp] theorem exec_core {addr} {wr} {v} {s : State} : exec (.core addr wr v) s = execCore addr wr v s := rfl
@[simp] theorem exec_tapClose {s : State} : exec .tapClose s = execTapClose s := rfl
@[simp] theorem exec_scopeLifetimeEnd {s : State} : exec .scopeLifetimeEnd s = execScopeLifetimeEnd s := rfl
@[simp] theorem exec_recoveryEntry {p} {sub} {s : State} : exec (.recoveryEntry p sub) s = execRecoveryEntry p sub s := rfl
@[simp] theorem exec_returnToL0 {p} {rate} {width} {s : State} : exec (.returnToL0 p rate width) s = execReturnToL0 p rate width s := rfl
@[simp] theorem exec_lowPowerEntry {p} {kind} {lanes} {s : State} : exec (.lowPowerEntry p kind lanes) s = execLowPowerEntry p kind lanes s := rfl
@[simp] theorem exec_lowPowerExit {p} {s : State} : exec (.lowPowerExit p) s = execLowPowerExit p s := rfl
@[simp] theorem exec_chkLock {l} {rx} {s : State} : exec (.chkLock l rx) s = execChkLock l rx s := rfl
@[simp] theorem exec_lockLoss {l} {rx} {s : State} : exec (.lockLoss l rx) s = execLockLoss l rx s := rfl
@[simp] theorem exec_slotLimit {c} {isense} {vds} {s : State} : exec (.slotLimit c isense vds) s = execSlotLimit c isense vds s := rfl
@[simp] theorem exec_vfFrostTimeout {v} {s : State} : exec (.vfFrostTimeout v) s = execVfFrostTimeout v s := rfl
@[simp] theorem exec_meridianRestart {s : State} : exec .meridianRestart s = execMeridianRestart s := rfl
@[simp] theorem exec_entdaa {addr} {s : State} : exec (.entdaa addr) s = execEntdaa addr s := rfl
@[simp] theorem exec_folioTransmit {p} {s : State} : exec (.folioTransmit p) s = execFolioTransmit p s := rfl
@[simp] theorem exec_ideKeyManagement {p} {stream} {ok} {s : State} : exec (.ideKeyManagement p stream ok) s = execIdeKeyManagement p stream ok s := rfl

end Sys2Proof.Machine
end

