-- ==== Sys2Proof/Laws/Store.lean ====
section
/-! SUPPORT. The sparse stores: reading what was written, and the canonical form that every store operation keeps. -/
namespace Sys2Proof.Machine

variable {α : Type} [DecidableEq α]

/-- Every key of a store lies above k. -/
def keysAbove (k : Nat) (m : SMap α) : Prop := ∀ e ∈ m, k < e.1

/-- The canonical form of a store with a first entry: that entry is no default, the later keys are higher, the rest is canonical. -/
theorem smWf_cons (D : Nat → α) (i : Nat) (u : α) (m : SMap α) :
    smWf D ((i, u) :: m) = true ↔ u ≠ D i ∧ keysAbove i m ∧ smWf D m = true := by
  induction m generalizing i u with
  | nil => simp [smWf, keysAbove]
  | cons e m ih =>
    obtain ⟨j, v⟩ := e
    simp only [smWf, Bool.and_eq_true, decide_eq_true_eq]
    rw [ih j v]
    constructor
    · rintro ⟨⟨hij, hu⟩, hv, hj, hm⟩
      refine ⟨hu, ?_, hv, hj, hm⟩
      intro e he
      rcases List.mem_cons.mp he with rfl | he
      · exact hij
      · exact Nat.lt_trans hij (hj e he)
    · rintro ⟨hu, hij, hv, hj, hm⟩
      exact ⟨⟨hij (j, v) (List.mem_cons_self ..), hu⟩, hv, hj, hm⟩

omit [DecidableEq α] in
/-- A key below every listed key reads as the default. -/
theorem smGet_below (d : α) (k : Nat) (m : SMap α) (h : keysAbove k m) : smGet d m k = d := by
  cases m with
  | nil => rfl
  | cons e m =>
    have := h e (List.mem_cons_self ..)
    obtain ⟨j, v⟩ := e
    simp only at this
    simp [smGet, Nat.ne_of_lt this, this]

/-- Writing keeps the keys above a bound that the written key also exceeds. -/
theorem keysAbove_smSet (d : α) (i k : Nat) (v : α) (m : SMap α) (h : keysAbove i m) (hk : i < k) : keysAbove i (smSet d m k v) := by
  induction m with
  | nil => unfold smSet; split <;> simp [keysAbove, hk]
  | cons e m ih =>
    obtain ⟨j, u⟩ := e
    have hm : keysAbove i m := fun e he => h e (List.mem_cons_of_mem _ he)
    have hj : i < j := h (j, u) (List.mem_cons_self ..)
    unfold smSet
    split
    · split
      · exact hm
      · intro e he
        rcases List.mem_cons.mp he with rfl | he
        · exact hk
        · exact hm e he
    · split
      · split
        · exact h
        · intro e he
          rcases List.mem_cons.mp he with rfl | he
          · exact hk
          · exact h e he
      · intro e he
        rcases List.mem_cons.mp he with rfl | he
        · exact hj
        · exact ih hm e he

/-- Writing a key keeps the canonical form. -/
theorem smWf_smSet (D : Nat → α) (m : SMap α) (k : Nat) (v : α) (h : smWf D m = true) : smWf D (smSet (D k) m k v) = true := by
  induction m with
  | nil => unfold smSet; split <;> simp_all [smWf]
  | cons e m ih =>
    obtain ⟨j, u⟩ := e
    obtain ⟨hu, hj, hm⟩ := (smWf_cons D j u m).mp h
    unfold smSet
    split
    · rename_i hk; subst hk
      split
      · exact hm
      · rename_i hv; exact (smWf_cons D k v m).mpr ⟨hv, hj, hm⟩
    · split
      · rename_i hne hlt
        split
        · exact h
        · rename_i hv
          refine (smWf_cons D k v _).mpr ⟨hv, ?_, h⟩
          intro e he
          rcases List.mem_cons.mp he with rfl | he
          · exact hlt
          · exact Nat.lt_trans hlt (hj e he)
      · rename_i hne hnl
        exact (smWf_cons D j u _).mpr ⟨hu, keysAbove_smSet (D k) j k v m hj (by omega), ih hm⟩

/-- A key reads as what was written to it. -/
theorem smGet_smSet_self (D : Nat → α) (m : SMap α) (k : Nat) (v : α) (h : smWf D m = true) : smGet (D k) (smSet (D k) m k v) k = v := by
  induction m with
  | nil => unfold smSet; split <;> simp_all [smGet]
  | cons e m ih =>
    obtain ⟨j, u⟩ := e
    obtain ⟨hu, hj, hm⟩ := (smWf_cons D j u m).mp h
    unfold smSet
    split
    · rename_i hk; subst hk
      split
      · rename_i hv; rw [smGet_below _ _ _ hj, hv]
      · simp [smGet]
    · split
      · split
        · simp_all [smGet]
        · simp [smGet]
      · rename_i hne hnl
        simp [smGet, hne, hnl, ih hm]

/-- Writing a key leaves every other key's value. -/
theorem smGet_smSet_ne (D : Nat → α) (d : α) (m : SMap α) (k k' : Nat) (v : α) (h : smWf D m = true) (hk : k' ≠ k) :
    smGet d (smSet (D k) m k v) k' = smGet d m k' := by
  induction m with
  | nil =>
    unfold smSet
    split
    · rfl
    · simp [smGet, hk]
  | cons e m ih =>
    obtain ⟨j, u⟩ := e
    obtain ⟨hu, hj, hm⟩ := (smWf_cons D j u m).mp h
    unfold smSet
    split
    · rename_i hkj; subst hkj
      split
      · simp only [smGet, hk, if_false]
        split
        · rename_i hlt; exact smGet_below d k' m fun e he => Nat.lt_trans hlt (hj e he)
        · rfl
      · simp [smGet, hk]
    · split
      · rename_i hne hlt
        split
        · rfl
        · by_cases h1 : k' < k
          · have h2 : k' < j := Nat.lt_trans h1 hlt
            have h3 : k' ≠ j := Nat.ne_of_lt h2
            simp [smGet, hk, h1, h2, h3]
          · simp [smGet, hk, h1]
      · simp only [smGet, ih hm]

/-- Writing a run of keys keeps the canonical form of a store with one default. -/
theorem smWf_smSetRun (d : α) (m : SMap α) (k : Nat) (vs : List α) (h : smWf (fun _ => d) m = true) :
    smWf (fun _ => d) (smSetRun d m k vs) = true := by
  induction vs generalizing m k with
  | nil => exact h
  | cons v vs ih => exact ih _ _ (smWf_smSet (fun _ => d) m k v h)

/-- Dropping entries keeps the canonical form. -/
theorem smWf_filter (D : Nat → α) (m : SMap α) (p : Nat × α → Bool) (h : smWf D m = true) : smWf D (m.filter p) = true := by
  induction m with
  | nil => exact h
  | cons e m ih =>
    obtain ⟨j, u⟩ := e
    obtain ⟨hu, hj, hm⟩ := (smWf_cons D j u m).mp h
    rw [List.filter_cons]
    split
    · exact (smWf_cons D j u _).mpr ⟨hu, fun e he => hj e (List.mem_filter.mp he).1, ih hm⟩
    · exact ih hm

/-- Erasing keys keeps the canonical form. -/
theorem smWf_smErase (D : Nat → α) (m : SMap α) (p : Nat → Bool) (h : smWf D m = true) : smWf D (smErase m p) = true :=
  smWf_filter D m _ h

end Sys2Proof.Machine
end

