-- ==== Sys2Proof/Laws/Kept.lean ====
section
/-! SUPPORT. What every command keeps: the queue, the clock, the canonical form of the stores, the version floors. One lemma per shared operation and meaning. -/
namespace Sys2Proof.Machine

/-- t keeps of s what no command but the queue's own may touch or spoil. -/
structure Kept (s t : State) : Prop where
  pending : t.pending = s.pending
  clock : t.clock = s.clock
  hbm : Memory.wf s.hbm = true → Memory.wf t.hbm = true
  tab : Tables.wf s.tab = true → Tables.wf t.tab = true
  claims : Claims.wf s.claims = true → Claims.wf t.claims = true
  engines : Engines.wf s.engines = true → Engines.wf t.engines = true
  svn1 : s.sec.svn1 ≤ t.sec.svn1
  svn2 : s.sec.svn2 ≤ t.sec.svn2

theorem Kept.refl (s : State) : Kept s s := ⟨rfl, rfl, id, id, id, id, Nat.le_refl _, Nat.le_refl _⟩

theorem Kept.trans {a b c : State} (h : Kept a b) (k : Kept b c) : Kept a c :=
  ⟨k.pending.trans h.pending, k.clock.trans h.clock, k.hbm ∘ h.hbm, k.tab ∘ h.tab, k.claims ∘ h.claims, k.engines ∘ h.engines,
    Nat.le_trans h.svn1 k.svn1, Nat.le_trans h.svn2 k.svn2⟩

/-- An update of fields that Kept does not speak of. -/
theorem kept_mk {s0 s : State} {v_lanes v_isls v_detaching v_lowSince v_refPair v_l0pWidth v_woken v_txns v_nextTxn v_routers v_streams v_early v_endps v_scheds v_paces v_thrs v_routeOld v_arrived v_islRet v_macUnits v_bridges v_decRegs v_granules v_poolLost v_member0 v_scrubs v_offers v_overdue v_presence v_vcsReset v_viral v_internals v_slices v_ways v_plru v_backing v_walks v_fwds v_lostWalked v_ideUp v_cxlCache v_noCxl v_biIds v_freeCtr v_out v_commitNum v_arb v_rings v_ringTurn v_residents v_paused v_updated v_partners v_present v_arriving v_surveys v_deferred v_attn v_detachAt v_lostAt v_stated v_slots v_locks v_dbg v_ev v_alm v_cnt v_traces v_timers v_svc v_mer v_stw v_mctp v_legend v_fieldLock v_ts v_boot v_tsync v_frost v_settings v_portResets v_fabricRdy v_pinLow v_ledLast v_ledWhen v_ledPhase v_ledNext v_oppNow} :
    Kept s0 ⟨v_lanes, v_isls, v_detaching, v_lowSince, v_refPair, v_l0pWidth, v_woken, v_txns, v_nextTxn, v_routers, v_streams, v_early, v_endps, v_scheds, v_paces, v_thrs, v_routeOld, v_arrived, v_islRet, v_macUnits, v_bridges, v_decRegs, v_granules, v_poolLost, v_member0, v_scrubs, v_offers, v_overdue, v_presence, v_vcsReset, v_viral, v_internals, v_slices, v_ways, v_plru, v_backing, v_walks, v_fwds, v_lostWalked, v_ideUp, v_cxlCache, v_noCxl, v_biIds, s.pending, s.clock, v_freeCtr, v_out, s.tab, v_commitNum, s.hbm, s.engines, v_arb, v_rings, v_ringTurn, v_residents, v_paused, s.claims, v_updated, v_partners, v_present, v_arriving, v_surveys, v_deferred, v_attn, v_detachAt, v_lostAt, v_stated, v_slots, v_locks, v_dbg, v_ev, v_alm, v_cnt, v_traces, v_timers, v_svc, s.sec, v_mer, v_stw, v_mctp, v_legend, v_fieldLock, v_ts, v_boot, v_tsync, v_frost, v_settings, v_portResets, v_fabricRdy, v_pinLow, v_ledLast, v_ledWhen, v_ledPhase, v_ledNext, v_oppNow⟩ ↔ Kept s0 s :=
  ⟨fun h => ⟨h.pending, h.clock, h.hbm, h.tab, h.claims, h.engines, h.svn1, h.svn2⟩, fun h => ⟨h.pending, h.clock, h.hbm, h.tab, h.claims, h.engines, h.svn1, h.svn2⟩⟩

/-- An update of SECURITY that lowers no floor, with fields that Kept does not speak of. -/
theorem kept_mkSec {s0 s : State} {v_lanes v_isls v_detaching v_lowSince v_refPair v_l0pWidth v_woken v_txns v_nextTxn v_routers v_streams v_early v_endps v_scheds v_paces v_thrs v_routeOld v_arrived v_islRet v_macUnits v_bridges v_decRegs v_granules v_poolLost v_member0 v_scrubs v_offers v_overdue v_presence v_vcsReset v_viral v_internals v_slices v_ways v_plru v_backing v_walks v_fwds v_lostWalked v_ideUp v_cxlCache v_noCxl v_biIds v_freeCtr v_out v_commitNum v_arb v_rings v_ringTurn v_residents v_paused v_updated v_partners v_present v_arriving v_surveys v_deferred v_attn v_detachAt v_lostAt v_stated v_slots v_locks v_dbg v_ev v_alm v_cnt v_traces v_timers v_svc v_mer v_stw v_mctp v_legend v_fieldLock v_ts v_boot v_tsync v_frost v_settings v_portResets v_fabricRdy v_pinLow v_ledLast v_ledWhen v_ledPhase v_ledNext v_oppNow} {v_sec : Security} (h : Kept s0 s) (h1 : s.sec.svn1 ≤ v_sec.svn1) (h2 : s.sec.svn2 ≤ v_sec.svn2) :
    Kept s0 ⟨v_lanes, v_isls, v_detaching, v_lowSince, v_refPair, v_l0pWidth, v_woken, v_txns, v_nextTxn, v_routers, v_streams, v_early, v_endps, v_scheds, v_paces, v_thrs, v_routeOld, v_arrived, v_islRet, v_macUnits, v_bridges, v_decRegs, v_granules, v_poolLost, v_member0, v_scrubs, v_offers, v_overdue, v_presence, v_vcsReset, v_viral, v_internals, v_slices, v_ways, v_plru, v_backing, v_walks, v_fwds, v_lostWalked, v_ideUp, v_cxlCache, v_noCxl, v_biIds, s.pending, s.clock, v_freeCtr, v_out, s.tab, v_commitNum, s.hbm, s.engines, v_arb, v_rings, v_ringTurn, v_residents, v_paused, s.claims, v_updated, v_partners, v_present, v_arriving, v_surveys, v_deferred, v_attn, v_detachAt, v_lostAt, v_stated, v_slots, v_locks, v_dbg, v_ev, v_alm, v_cnt, v_traces, v_timers, v_svc, v_sec, v_mer, v_stw, v_mctp, v_legend, v_fieldLock, v_ts, v_boot, v_tsync, v_frost, v_settings, v_portResets, v_fabricRdy, v_pinLow, v_ledLast, v_ledWhen, v_ledPhase, v_ledNext, v_oppNow⟩ :=
  ⟨h.pending, h.clock, h.hbm, h.tab, h.claims, h.engines, Nat.le_trans h.svn1 h1, Nat.le_trans h.svn2 h2⟩

theorem kept_ite {s0 : State} {c : Prop} {d : Decidable c} {r a b : Nat × State × Engine} (h : r = @ite _ c d a b)
    (ha : Kept s0 a.2.1) (hb : Kept s0 b.2.1) : Kept s0 r.2.1 := by
  rw [h]
  split
  · exact ha
  · exact hb

theorem some_of_ite {α : Type} {c : Prop} [Decidable c] {o : Option α} {x : α} (e : (if c then none else o) = some x) : o = some x := by
  split at e
  · contradiction
  · exact e

/-- An outcome keeps what its next state keeps. -/
structure KeptRes (s : State) (r : Res) : Prop where
  out : ∀ t, r = .next t → Kept s t

theorem kept_have {P : Prop} {s0 s : State} (h : Kept s0 s) (k : Kept s0 s → P) : P := k h

theorem kept_next {s t : State} (h : Kept s t) : KeptRes s (.next t) := by
  refine ⟨fun u hu => ?_⟩; cases hu; exact h

/-- A fold whose every round keeps. -/
theorem kept_foldl {α : Type} {s0 s : State} {f : State → α → State} {l : List α} (h : Kept s0 s)
    (hf : ∀ s a, Kept s0 s → Kept s0 (f s a)) : Kept s0 (l.foldl f s) := by
  induction l generalizing s with
  | nil => exact h
  | cons a l ih => exact ih (hf s a h)

theorem Kept.with_tab {s0 s t : State} (h : Kept s0 s) (hp : t.pending = s.pending) (hc : t.clock = s.clock) (hh : t.hbm = s.hbm)
    (hcl : t.claims = s.claims) (he : t.engines = s.engines) (hs : t.sec = s.sec) (ht : Tables.wf s.tab = true → Tables.wf t.tab = true) : Kept s0 t :=
  ⟨hp.trans h.pending, hc.trans h.clock, fun w => by rw [hh]; exact h.hbm w, fun w => ht (h.tab w), fun w => by rw [hcl]; exact h.claims w,
    fun w => by rw [he]; exact h.engines w,
    by rw [hs]; exact h.svn1, by rw [hs]; exact h.svn2⟩

theorem setTab_kept {s0 : State} (s : State) (t i : Nat) (v : Entry) (num : Nat) (h : Kept s0 s) : Kept s0 (setTab s t i v num) :=
  h.with_tab rfl rfl rfl rfl rfl rfl fun w => smWf_smSet entryReset s.tab _ _ w

theorem setLive_kept {s0 : State} (s : State) (t i lo w v : Nat) (h : Kept s0 s) : Kept s0 (setLive s t i lo w v) :=
  h.with_tab rfl rfl rfl rfl rfl rfl fun w => smWf_smSet entryReset s.tab _ _ w

theorem hbmWrite_kept {s0 : State} (s : State) (a : Nat) (bs : List Byte) (h : Kept s0 s) : Kept s0 (hbmWrite s a bs) :=
  ⟨h.pending, h.clock, fun w => smWf_smSetRun 0 s.hbm a bs (h.hbm w), h.tab, h.claims, h.engines, h.svn1, h.svn2⟩

theorem setClaim_kept {s0 : State} (s : State) (i v : Nat) (h : Kept s0 s) : Kept s0 (setClaim s i v) :=
  ⟨h.pending, h.clock, h.hbm, h.tab, fun w => smWf_smSet (fun _ => 0xFFFF) s.claims i v (h.claims w), h.engines, h.svn1, h.svn2⟩

theorem setEngine_kept {s0 : State} (s : State) (e : Nat) (x : Engine) (h : Kept s0 s) : Kept s0 (setEngine s e x) :=
  ⟨h.pending, h.clock, h.hbm, h.tab, h.claims, fun w => smWf_smSet (fun _ => {}) s.engines e x (h.engines w), h.svn1, h.svn2⟩

end Sys2Proof.Machine
end

