-- ==== Sys2Proof/Laws/KeptCharts.lean ====
section
/-! SUPPORT. What the engines, the events and the counters keep of the state (Kept): one lemma per operation and meaning. -/
namespace Sys2Proof.Machine

theorem count_kept {s0 : State} (s : State) (i : Nat) (n : Nat) (hk : Kept s0 s) : Kept s0 (count s i n) := by
  delta count
  repeat' first
    | with_reducible assumption
    | simp -zeta only [kept_mk]
    | dsimp only

theorem feedGauge_kept {s0 : State} (s : State) (g : Nat) (subj : Nat) (v : Nat) (hk : Kept s0 s) : Kept s0 (feedGauge s g subj v) := by
  delta feedGauge
  repeat' first
    | with_reducible assumption
    | simp -zeta only [kept_mk]
    | dsimp only

theorem raise_kept {s0 : State} (s : State) (esid : Nat) (subj : Nat) (p : List Nat) (hk : Kept s0 s) : Kept s0 (raise s esid subj p) := by
  delta raise
  repeat' first
    | with_reducible assumption
    | simp -zeta only [kept_mk]
    | dsimp only

theorem raiseEvent_kept {s0 : State} (s : State) (esid : Nat) (subj : Nat) (p : List Nat) (hk : Kept s0 s) : Kept s0 (raiseEvent s esid subj p) := by
  delta raiseEvent
  repeat' first
    | with_reducible assumption
    | with_reducible apply raise_kept
    | split
    | dsimp only

theorem emit_kept {s0 : State} (s : State) (o : Out) (hk : Kept s0 s) : Kept s0 (emit s o) := by
  delta emit
  repeat' first
    | with_reducible assumption
    | simp -zeta only [kept_mk]
    | dsimp only

theorem setTxn_kept {s0 : State} (s : State) (i : Nat) (t : Txn) (hk : Kept s0 s) : Kept s0 (setTxn s i t) := by
  delta setTxn
  repeat' first
    | with_reducible assumption
    | simp -zeta only [kept_mk]
    | dsimp only

theorem lineUp_kept {s0 : State} (s : State) (i : Nat) (t : Txn) (hk : Kept s0 s) : Kept s0 (lineUp s i t) := by
  delta lineUp
  repeat' first
    | with_reducible assumption
    | simp -zeta only [kept_mk]
    | dsimp only

theorem newTxn_kept {s0 : State} (s : State) (t : Txn) (hk : Kept s0 s) : Kept s0 (newTxn s t) := by
  delta newTxn
  repeat' first
    | with_reducible assumption
    | simp -zeta only [kept_mk]
    | dsimp only

theorem fmAnswer_kept {s0 : State} (s : State) (binding : Nat) (tag : Nat) (code : Nat) (rc : Nat) (ext : Nat) (body : List Byte) (hk : Kept s0 s) : Kept s0 (fmAnswer s binding tag code rc ext body) := by
  delta fmAnswer
  repeat' first
    | with_reducible assumption
    | with_reducible apply emit_kept
    | dsimp only

theorem unwritten_kept {s0 : State} (s : State) (r : Nat) (x : Engine) (st : Nat) (hk : Kept s0 s) : Kept s0 (unwritten s r x st) := by
  delta unwritten
  repeat' first
    | with_reducible assumption
    | with_reducible apply raiseEvent_kept
    | with_reducible apply count_kept
    | dsimp only

theorem passRecord_kept {s0 : State} (s : State) (r : Nat) (x : Engine) (hk : Kept s0 s) : Kept s0 (passRecord s r x) := by
  delta passRecord
  repeat' first
    | with_reducible assumption
    | (try lift_lets); intro x; clear_value x
    | split
    | simp -zeta only [kept_mk]
    | dsimp only

theorem sendOut_kept {s0 : State} (s : State) (src : Nat) (p : Nat) (oc : Nat) (flow : Nat) (n : Nat) (posted : Bool) (key : Nat) (o : Out) (hk : Kept s0 s) : Kept s0 (sendOut s src p oc flow n posted key o) := by
  delta sendOut
  repeat' first
    | with_reducible assumption
    | with_reducible apply newTxn_kept
    | with_reducible apply emit_kept
    | split
    | dsimp only

theorem msixOut_kept {s0 : State} (s : State) (src : Nat) (oc : Nat) (flow : Nat) (f : Nat) (vec : Nat) (addr : Word) (data : Word) (hk : Kept s0 s) : Kept s0 (msixOut s src oc flow f vec addr data) := by
  delta msixOut
  repeat' first
    | with_reducible assumption
    | with_reducible apply sendOut_kept
    | dsimp only

theorem sendMsix_kept {s0 : State} (s : State) (src : Nat) (oc : Nat) (flow : Nat) (f : Nat) (vec : Nat) (hk : Kept s0 s) : Kept s0 (sendMsix s src oc flow f vec) := by
  delta sendMsix
  repeat' first
    | with_reducible assumption
    | with_reducible apply msixOut_kept
    | (try lift_lets); intro x; clear_value x
    | split
    | simp -zeta only [kept_mk]
    | dsimp only

theorem notifyRing_kept {s0 : State} (s : State) (e : Nat) (r : Nat) (x : Engine) (hk : Kept s0 s) : Kept s0 (notifyRing s e r x) := by
  delta notifyRing
  repeat' first
    | with_reducible assumption
    | with_reducible apply emit_kept
    | with_reducible apply sendMsix_kept
    | (try lift_lets); intro x; clear_value x
    | split
    | dsimp only

theorem recordDenial_kept {s0 : State} (s : State) (m : Nat) (a : Access) (v : Nat × Nat) (hk : Kept s0 s) : Kept s0 (recordDenial s m a v) := by
  delta recordDenial
  repeat' first
    | with_reducible assumption
    | with_reducible apply raiseEvent_kept
    | with_reducible apply count_kept
    | (try lift_lets); intro x; clear_value x
    | split
    | dsimp only

theorem fenceCheck_kept {s0 : State} (s : State) (m : Nat) (a : Access) (hk : Kept s0 s) : Kept s0 (fenceCheck s m a).2 := by
  delta fenceCheck
  repeat' first
    | with_reducible assumption
    | with_reducible apply recordDenial_kept
    | dsimp only

theorem writeCompletion_kept {s0 : State} (s : State) (r : Nat) (e : Nat) (x : Engine) (st : Nat) (pc : Nat) (hk : Kept s0 s) : Kept s0 (writeCompletion s r e x st pc) := by
  delta writeCompletion
  repeat' first
    | with_reducible assumption
    | with_reducible apply unwritten_kept
    | with_reducible apply emit_kept
    | with_reducible apply passRecord_kept
    | with_reducible apply hbmWrite_kept
    | with_reducible apply notifyRing_kept
    | with_reducible apply fenceCheck_kept
    | with_reducible apply sendOut_kept
    | (try lift_lets); intro x; refine kept_have (s0 := s0) (s := ‹State›) ?_ ?_; unfold x; rotate_left; intro hx; clear_value x
    | (try lift_lets); intro x; refine kept_have (s0 := s0) (s := (‹Nat × State›).2) ?_ ?_; unfold x; rotate_left; intro hx; clear_value x
    | (try lift_lets); intro x; clear_value x
    | split
    | dsimp only

theorem jobReport_kept {s0 : State} (s : State) (j : Job) (st : Nat) (hk : Kept s0 s) : Kept s0 (jobReport s j st) := by
  delta jobReport
  repeat' first
    | with_reducible assumption
    | with_reducible apply emit_kept
    | with_reducible apply fmAnswer_kept
    | (try lift_lets); intro x; clear_value x
    | split
    | simp -zeta only [kept_mk]
    | dsimp only

theorem reportEnd_kept {s0 : State} (s : State) (e : Nat) (x : Engine) (st : Nat) (pc : Nat) (hk : Kept s0 s) : Kept s0 (reportEnd s e x st pc) := by
  delta reportEnd
  repeat' first
    | with_reducible assumption
    | with_reducible apply writeCompletion_kept
    | with_reducible apply jobReport_kept
    | (try lift_lets); intro x; clear_value x
    | split
    | simp -zeta only [kept_mk]
    | dsimp only

theorem endCore_kept {s0 : State} (s : State) (e : Nat) (st : Nat) (pc : Nat) (hk : Kept s0 s) : Kept s0 (endCore s e st pc) := by
  delta endCore
  repeat' first
    | with_reducible assumption
    | with_reducible apply reportEnd_kept
    | with_reducible apply count_kept
    | with_reducible apply setEngine_kept
    | (try lift_lets); intro x; refine kept_have (s0 := s0) (s := ‹State›) ?_ ?_; unfold x; rotate_left; intro hx; clear_value x
    | (try lift_lets); intro x; clear_value x
    | split
    | simp -zeta only [kept_mk]
    | dsimp only

theorem advanceCore_kept {s0 : State} (s : State) (e : Nat) (x : Engine) (hk : Kept s0 s) : Kept s0 (advanceCore s e x) := by
  delta advanceCore
  repeat' first
    | with_reducible assumption
    | with_reducible apply endCore_kept
    | with_reducible apply setEngine_kept
    | split
    | dsimp only

theorem frostStep_kept {s0 : State} (s : State) (v : Nat) (hk : Kept s0 s) : Kept s0 (frostStep s v) := by
  delta frostStep
  repeat' first
    | with_reducible assumption
    | with_reducible apply advanceCore_kept
    | with_reducible apply setLive_kept
    | with_reducible apply kept_foldl
    | refine fun _ => ?_
    | (try lift_lets); intro x; refine kept_have (s0 := s0) (s := ‹State›) ?_ ?_; unfold x; rotate_left; intro hx; clear_value x
    | (try lift_lets); intro x; clear_value x
    | split
    | simp -zeta only [kept_mk]
    | dsimp only

theorem endChart_kept {s0 : State} (s : State) (e : Nat) (st : Nat) (pc : Nat) (hk : Kept s0 s) : Kept s0 (endChart s e st pc) := by
  delta endChart
  repeat' first
    | with_reducible assumption
    | with_reducible apply endCore_kept
    | with_reducible apply frostStep_kept
    | with_reducible apply kept_foldl
    | refine fun _ => ?_
    | (try lift_lets); intro x; refine kept_have (s0 := s0) (s := ‹State›) ?_ ?_; unfold x; rotate_left; intro hx; clear_value x
    | dsimp only

theorem advance_kept {s0 : State} (s : State) (e : Nat) (x : Engine) (hk : Kept s0 s) : Kept s0 (advance s e x) := by
  delta advance
  repeat' first
    | with_reducible assumption
    | with_reducible apply endChart_kept
    | with_reducible apply setEngine_kept
    | split
    | dsimp only

theorem finish_kept {s0 : State} (s : State) (e : Nat) (x : Engine) (st : Nat) (hk : Kept s0 s) : Kept s0 (finish s e x st) := by
  delta finish
  repeat' first
    | with_reducible assumption
    | with_reducible apply advance_kept
    | with_reducible apply endChart_kept
    | with_reducible apply setEngine_kept
    | split
    | dsimp only

theorem setEq_kept {s0 : State} (s : State) (q : Nat) (e : EvQueue) (hk : Kept s0 s) : Kept s0 (setEq s q e) := by
  delta setEq
  repeat' first
    | with_reducible assumption
    | (try lift_lets); intro x; clear_value x
    | simp -zeta only [kept_mk]
    | dsimp only

theorem dropTxn_kept {s0 : State} (s : State) (i : Nat) (hk : Kept s0 s) : Kept s0 (dropTxn s i) := by
  delta dropTxn
  repeat' first
    | with_reducible assumption
    | simp -zeta only [kept_mk]
    | dsimp only

theorem setEndp_kept {s0 : State} (s : State) (e : Nat) (x : Endp) (hk : Kept s0 s) : Kept s0 (setEndp s e x) := by
  delta setEndp
  repeat' first
    | with_reducible assumption
    | simp -zeta only [kept_mk]
    | dsimp only

theorem countPort_kept {s0 : State} (s : State) (p : Nat) (tx : Bool) (oc : Nat) (bytes : Nat) (hk : Kept s0 s) : Kept s0 (countPort s p tx oc bytes) := by
  delta countPort
  dsimp only
  repeat' first
    | with_reducible assumption
    | with_reducible apply count_kept
    | split
    | simp -zeta only [kept_mk]
    | dsimp only

theorem latchDoorbell_kept {s0 : State} (s : State) (f : Nat) (kind : Nat) (obj : Nat) (v : Nat) (hk : Kept s0 s) : Kept s0 (latchDoorbell s f kind obj v) := by
  delta latchDoorbell
  repeat' first
    | with_reducible assumption
    | (try lift_lets); intro x; clear_value x
    | simp -zeta only [kept_mk]
    | dsimp only

theorem eqHeadWrite_kept {s0 : State} (s : State) (q : Nat) (v : Nat) (hk : Kept s0 s) : Kept s0 (eqHeadWrite s q v) := by
  delta eqHeadWrite
  repeat' first
    | with_reducible assumption
    | with_reducible apply raiseEvent_kept
    | with_reducible apply setEq_kept
    | (try lift_lets); intro x; clear_value x
    | split
    | dsimp only

theorem peak_kept {s0 : State} (s : State) (i : Nat) (v : Nat) (hk : Kept s0 s) : Kept s0 (peak s i v) := by
  delta peak
  repeat' first
    | with_reducible assumption
    | (try lift_lets); intro x; clear_value x
    | split
    | simp -zeta only [kept_mk]
    | dsimp only

theorem setLane_kept {s0 : State} (s : State) (l : Nat) (x : LaneLive) (hk : Kept s0 s) : Kept s0 (setLane s l x) := by
  delta setLane
  repeat' first
    | with_reducible assumption
    | simp -zeta only [kept_mk]
    | dsimp only

theorem tick_kept {s0 : State} (s : State) (hk : Kept s0 s) : Kept s0 (tick s) := by
  delta tick
  repeat' first
    | with_reducible assumption
    | simp -zeta only [kept_mk]
    | dsimp only

theorem lkWrite_kept {s0 : State} (s : State) (i : Nat) (hk : Kept s0 s) : Kept s0 (lkWrite s i) := by
  delta lkWrite
  repeat' first
    | with_reducible assumption
    | with_reducible apply raiseEvent_kept
    | dsimp only

theorem draftAny_kept {s0 : State} (s : State) (e : Nat) (x : Engine) (t : Nat) (i : Nat) (v : Entry) (mask : Entry) (bad : Bool) (hk : Kept s0 s) : Kept s0 (draftAny s e x t i v mask bad).2.1 := by
  delta draftAny
  repeat' first
    | with_reducible assumption
    | with_reducible apply lkWrite_kept
    | (try lift_lets); intro x; clear_value x
    | split
    | dsimp only

theorem draft_kept {s0 : State} (s : State) (e : Nat) (x : Engine) (t : Nat) (i : Nat) (v : Entry) (mask : Entry) (hk : Kept s0 s) : Kept s0 (draft s e x t i v mask).2.1 := by
  delta draft
  repeat' first
    | with_reducible assumption
    | with_reducible apply draftAny_kept
    | split
    | dsimp only

theorem drafts_kept {s0 : State} (s : State) (e : Nat) (x : Engine) (l : List (Nat × Nat × Entry × Entry)) (hk : Kept s0 s) : Kept s0 (drafts s e x l).2.1 := by
  induction l generalizing s e x with
  | nil => exact hk
  | cons a l ih =>
    unfold drafts
    repeat' first
      | with_reducible assumption
      | with_reducible apply ih
      | with_reducible apply draft_kept
      | (try lift_lets); intro x; refine kept_have (s0 := s0) (s := (‹Nat × State × Engine›).2.1) ?_ ?_; unfold x; rotate_left; intro hx; clear_value x
      | split
      | dsimp only

theorem onOp_kept {s0 : State} (s : State) (e : Nat) (op : Nat) (f : State → Engine → Word → State) (hk : Kept s0 s) (hf : ∀ t a1 a2, Kept s0 t → Kept s0 (f t a1 a2)) : Kept s0 (onOp s e op f) := by
  delta onOp
  repeat' first
    | with_reducible assumption
    | with_reducible apply endChart_kept
    | with_reducible apply hf
    | (try lift_lets); intro x; clear_value x
    | split
    | dsimp only

theorem macroThen_kept {s0 : State} (s : State) (e : Nat) (op : Nat) (masks : List Nat) (flags : Nat) (eng : MacroEng) (seqd : Bool) (f : State → Engine → (Nat → Word) → State) (hk : Kept s0 s) (hf : ∀ t a1 a2, Kept s0 t → Kept s0 (f t a1 a2)) : Kept s0 (macroThen s e op masks flags eng seqd f) := by
  delta macroThen
  repeat' first
    | with_reducible assumption
    | with_reducible apply onOp_kept
    | with_reducible apply finish_kept
    | with_reducible apply hf
    | refine fun _ => ?_
    | (try lift_lets); intro x; clear_value x
    | split
    | dsimp only

theorem macroOp_kept {s0 : State} (s : State) (e : Nat) (op : Nat) (masks : List Nat) (flags : Nat) (eng : MacroEng) (f : State → Engine → (Nat → Word) → Nat × State × Engine) (hk : Kept s0 s) (hf : ∀ t a1 a2, Kept s0 t → Kept s0 (f t a1 a2).2.1) : Kept s0 (macroOp s e op masks flags eng f) := by
  delta macroOp
  repeat' first
    | with_reducible assumption
    | with_reducible apply macroThen_kept
    | with_reducible apply finish_kept
    | with_reducible apply hf
    | refine fun _ => ?_
    | (try lift_lets); intro x; refine kept_have (s0 := s0) (s := (‹Nat × State × Engine›).2.1) ?_ ?_; unfold x; rotate_left; intro hx; clear_value x
    | dsimp only

theorem draftWhole_kept {s0 : State} (s : State) (e : Nat) (x : Engine) (t : Nat) (i : Nat) (v : Entry) (hk : Kept s0 s) : Kept s0 (draftWhole s e x t i v).2.1 := by
  delta draftWhole
  repeat' first
    | with_reducible assumption
    | with_reducible apply draft_kept
    | dsimp only

theorem draftRuled_kept {s0 : State} (s : State) (e : Nat) (x : Engine) (t : Nat) (i : Nat) (v : Entry) (mask : Entry) (bad : Bool) (hk : Kept s0 s) : Kept s0 (draftRuled s e x t i v mask bad).2.1 := by
  delta draftRuled
  repeat' first
    | with_reducible assumption
    | with_reducible apply draftAny_kept
    | (try lift_lets); intro x; clear_value x
    | split
    | dsimp only

theorem ruledWhole_kept {s0 : State} (s : State) (e : Nat) (x : Engine) (t : Nat) (i : Nat) (v : Entry) (hk : Kept s0 s) : Kept s0 (ruledWhole s e x t i v).2.1 := by
  delta ruledWhole
  repeat' first
    | with_reducible assumption
    | with_reducible apply draftRuled_kept
    | dsimp only

theorem execAlmanacPeriodicWrite_kept {s0 : State} (slot : Fin 20480) (s : State) (hk : Kept s0 s) : KeptRes s0 (execAlmanacPeriodicWrite slot s) := by
  delta execAlmanacPeriodicWrite
  repeat' first
    | with_reducible assumption
    | with_reducible apply kept_next
    | (try lift_lets); intro x; clear_value x
    | split
    | simp -zeta only [kept_mk]
    | dsimp only

theorem execEqDisable_kept {s0 : State} (q : QueueId) (s : State) (hk : Kept s0 s) : KeptRes s0 (execEqDisable q s) := by
  delta execEqDisable
  repeat' first
    | with_reducible assumption
    | with_reducible apply kept_next
    | with_reducible apply setEq_kept
    | (try lift_lets); intro x; clear_value x
    | dsimp only

theorem execExt_kept {s0 : State} (e : EngineId) (s : State) (hk : Kept s0 s) : KeptRes s0 (execExt e s) := by
  delta execExt
  repeat' first
    | with_reducible assumption
    | with_reducible apply kept_next
    | with_reducible apply onOp_kept
    | with_reducible apply endChart_kept
    | with_reducible apply advance_kept
    | refine fun _ => ?_
    | split
    | dsimp only

theorem writeGd_kept {s0 : State} (s : State) (e : Nat) (op : Nat) (f : State → Engine → Word → Word) (hk : Kept s0 s) : Kept s0 (writeGd s e op f) := by
  delta writeGd
  repeat' first
    | with_reducible assumption
    | with_reducible apply onOp_kept
    | with_reducible apply advance_kept
    | refine fun _ => ?_
    | dsimp only

theorem execLi_kept {s0 : State} (e : EngineId) (s : State) (hk : Kept s0 s) : KeptRes s0 (execLi e s) := by
  delta execLi
  repeat' first
    | with_reducible assumption
    | with_reducible apply kept_next
    | with_reducible apply writeGd_kept
    | dsimp only

theorem execAbort_kept {s0 : State} (e : EngineId) (s : State) (hk : Kept s0 s) : KeptRes s0 (execAbort e s) := by
  delta execAbort
  repeat' first
    | with_reducible assumption
    | with_reducible apply kept_next
    | with_reducible apply onOp_kept
    | with_reducible apply advance_kept
    | refine fun _ => ?_
    | dsimp only

theorem aluOp_kept {s0 : State} (s : State) (e : Nat) (op : Nat) (res : Engine → Word → Word) (flags : Engine → Word → Engine) (hk : Kept s0 s) : Kept s0 (aluOp s e op res flags) := by
  delta aluOp
  repeat' first
    | with_reducible assumption
    | with_reducible apply onOp_kept
    | with_reducible apply advance_kept
    | refine fun _ => ?_
    | dsimp only

theorem execSub_kept {s0 : State} (e : EngineId) (s : State) (hk : Kept s0 s) : KeptRes s0 (execSub e s) := by
  delta execSub
  repeat' first
    | with_reducible assumption
    | with_reducible apply kept_next
    | with_reducible apply aluOp_kept
    | dsimp only

theorem execLih_kept {s0 : State} (e : EngineId) (s : State) (hk : Kept s0 s) : KeptRes s0 (execLih e s) := by
  delta execLih
  repeat' first
    | with_reducible assumption
    | with_reducible apply kept_next
    | with_reducible apply writeGd_kept
    | dsimp only

theorem draftMasked_kept {s0 : State} (s : State) (e : Nat) (x : Engine) (t : Nat) (i : Nat) (v : Entry) (m : Entry) (hk : Kept s0 s) : Kept s0 (draftMasked s e x t i v m).2.1 := by
  delta draftMasked
  repeat' first
    | with_reducible assumption
    | with_reducible apply draft_kept
    | split
    | dsimp only

theorem hbmSend_kept {s0 : State} (s : State) (src : Nat) (a : Nat) (bs : List Byte) (l : Nat) (hk : Kept s0 s) : Kept s0 (hbmSend s src a bs l) := by
  induction l generalizing s src a bs with
  | zero => exact hk
  | succ l ih =>
    unfold hbmSend
    repeat' first
      | with_reducible assumption
      | with_reducible apply ih
      | with_reducible apply newTxn_kept
      | split
      | dsimp only

theorem holdRecord_kept {s0 : State} (s : State) (q : Nat) (r : EvRec) (hk : Kept s0 s) : Kept s0 (holdRecord s q r) := by
  delta holdRecord
  repeat' first
    | with_reducible assumption
    | (try lift_lets); intro x; clear_value x
    | split
    | simp -zeta only [kept_mk]
    | dsimp only

theorem execTraceRecordWrite_kept {s0 : State} (t : TraceId) (s : State) (hk : Kept s0 s) : KeptRes s0 (execTraceRecordWrite t s) := by
  delta execTraceRecordWrite
  repeat' first
    | with_reducible assumption
    | with_reducible apply kept_next
    | with_reducible apply hbmWrite_kept
    | with_reducible apply setLive_kept
    | (try lift_lets); intro x; refine kept_have (s0 := s0) (s := ‹State›) ?_ ?_; unfold x; rotate_left; intro hx; clear_value x
    | (try lift_lets); intro x; clear_value x
    | intro _
    | split
    | simp -zeta only [kept_mk]
    | dsimp only

theorem logicOp_kept {s0 : State} (s : State) (e : Nat) (op : Nat) (res : Engine → Word → Word) (hk : Kept s0 s) : Kept s0 (logicOp s e op res) := by
  delta logicOp
  repeat' first
    | with_reducible assumption
    | with_reducible apply aluOp_kept
    | dsimp only

theorem execMul_kept {s0 : State} (e : EngineId) (s : State) (hk : Kept s0 s) : KeptRes s0 (execMul e s) := by
  delta execMul
  repeat' first
    | with_reducible assumption
    | with_reducible apply kept_next
    | with_reducible apply logicOp_kept
    | dsimp only

theorem execClaim_kept {s0 : State} (e : EngineId) (s : State) (hk : Kept s0 s) : KeptRes s0 (execClaim e s) := by
  delta execClaim
  repeat' first
    | with_reducible assumption
    | with_reducible apply kept_next
    | with_reducible apply onOp_kept
    | with_reducible apply finish_kept
    | with_reducible apply setClaim_kept
    | refine fun _ => ?_
    | (try lift_lets); intro x; clear_value x
    | split
    | dsimp only

theorem execAnd_kept {s0 : State} (e : EngineId) (s : State) (hk : Kept s0 s) : KeptRes s0 (execAnd e s) := by
  delta execAnd
  repeat' first
    | with_reducible assumption
    | with_reducible apply kept_next
    | with_reducible apply logicOp_kept
    | dsimp only

theorem macroRead_kept {s0 : State} (s : State) (e : Nat) (op : Nat) (masks : List Nat) (eng : MacroEng) (f : State → Engine → (Nat → Word) → Nat × Engine) (hk : Kept s0 s) : Kept s0 (macroRead s e op masks eng f) := by
  delta macroRead
  repeat' first
    | with_reducible assumption
    | with_reducible apply macroOp_kept
    | refine fun _ => ?_
    | dsimp only

theorem lowest_kept {s0 : State} (s : State) (i : Nat) (v : Nat) (hk : Kept s0 s) : Kept s0 (lowest s i v) := by
  delta lowest
  repeat' first
    | with_reducible assumption
    | (try lift_lets); intro x; clear_value x
    | split
    | simp -zeta only [kept_mk]
    | dsimp only

theorem eqStore_out1 {s0 s a b : State} {q : Nat} {bs : List Byte} (e : eqStore s q bs = (some a, b)) (hk : Kept s0 s) : Kept s0 a := by
  unfold eqStore at e
  dsimp only at e
  repeat' split at e
  all_goals simp only [Prod.mk.injEq, Option.some.injEq, reduceCtorEq, false_and] at e
  · obtain ⟨rfl, -⟩ := e; exact hbmWrite_kept _ _ _ hk
  · obtain ⟨rfl, -⟩ := e; exact sendOut_kept _ _ _ _ _ _ _ _ _ (fenceCheck_kept _ _ _ hk)

theorem eqStore_out2 {s0 s b : State} {o : Option State} {q : Nat} {bs : List Byte} (e : eqStore s q bs = (o, b)) (hk : Kept s0 s) : Kept s0 b := by
  unfold eqStore at e
  dsimp only at e
  repeat' split at e
  all_goals simp only [Prod.mk.injEq] at e
  all_goals obtain ⟨-, rfl⟩ := e
  all_goals first | exact hk | exact fenceCheck_kept _ _ _ hk

theorem eqInterrupt_kept {s0 : State} (s : State) (q : Nat) (hk : Kept s0 s) : Kept s0 (eqInterrupt s q) := by
  delta eqInterrupt
  repeat' first
    | with_reducible assumption
    | with_reducible apply setEq_kept
    | with_reducible apply sendMsix_kept
    | with_reducible apply emit_kept
    | (try lift_lets); intro x; refine kept_have (s0 := s0) (s := ‹State›) ?_ ?_; unfold x; rotate_left; intro hx; clear_value x
    | (try lift_lets); intro x; clear_value x
    | split
    | dsimp only

theorem eqWritten_kept {s0 : State} (s : State) (q : Nat) (hk : Kept s0 s) : Kept s0 (eqWritten s q) := by
  delta eqWritten
  repeat' first
    | with_reducible assumption
    | with_reducible apply setEq_kept
    | with_reducible apply eqInterrupt_kept
    | (try lift_lets); intro x; refine kept_have (s0 := s0) (s := ‹State›) ?_ ?_; unfold x; rotate_left; intro hx; clear_value x
    | (try lift_lets); intro x; clear_value x
    | split
    | dsimp only

theorem writeRecord_kept {s0 : State} (s : State) (q : Nat) (r : EvRec) (hk : Kept s0 s) : Kept s0 (writeRecord s q r) := by
  delta writeRecord
  repeat' first
    | with_reducible assumption
    | with_reducible apply setEq_kept
    | with_reducible apply eqWritten_kept
    | with_reducible apply raiseEvent_kept
    | refine eqStore_out1 ‹_› ?_
    | refine eqStore_out2 ‹_› ?_
    | (try lift_lets); intro x; clear_value x
    | split
    | dsimp only

theorem execShr_kept {s0 : State} (e : EngineId) (s : State) (hk : Kept s0 s) : KeptRes s0 (execShr e s) := by
  delta execShr
  repeat' first
    | with_reducible assumption
    | with_reducible apply kept_next
    | with_reducible apply logicOp_kept
    | dsimp only

theorem execTimerPulseEnd_kept {s0 : State} (t : TimerId) (s : State) (hk : Kept s0 s) : KeptRes s0 (execTimerPulseEnd t s) := by
  delta execTimerPulseEnd
  repeat' first
    | with_reducible assumption
    | with_reducible apply kept_next
    | (try lift_lets); intro x; clear_value x
    | split
    | simp -zeta only [kept_mk]
    | dsimp only

theorem execSar_kept {s0 : State} (e : EngineId) (s : State) (hk : Kept s0 s) : KeptRes s0 (execSar e s) := by
  delta execSar
  repeat' first
    | with_reducible assumption
    | with_reducible apply kept_next
    | with_reducible apply logicOp_kept
    | dsimp only

theorem execCmp_kept {s0 : State} (e : EngineId) (s : State) (hk : Kept s0 s) : KeptRes s0 (execCmp e s) := by
  delta execCmp
  repeat' first
    | with_reducible assumption
    | with_reducible apply kept_next
    | with_reducible apply onOp_kept
    | with_reducible apply advance_kept
    | refine fun _ => ?_
    | dsimp only

theorem dumpLines_kept {s0 : State} (s : State) (p : Nat) (a : Nat) (bs : List Byte) (l : Nat) (hk : Kept s0 s) : Kept s0 (dumpLines s p a bs l).2 := by
  induction l generalizing s p a bs with
  | zero => exact hk
  | succ l ih =>
    unfold dumpLines
    repeat' first
      | with_reducible assumption
      | with_reducible apply ih
      | with_reducible apply fenceCheck_kept
      | with_reducible apply sendOut_kept
      | (try lift_lets); intro x; refine kept_have (s0 := s0) (s := (‹Nat × State›).2) ?_ ?_; unfold x; rotate_left; intro hx; clear_value x
      | (try lift_lets); intro x; clear_value x
      | split
      | dsimp only

theorem execRateWindowEnd_kept {s0 : State} (esid : Fin 1536) (subj : BitVec 16) (q : QueueId) (s : State) (hk : Kept s0 s) : KeptRes s0 (execRateWindowEnd esid subj q s) := by
  delta execRateWindowEnd
  repeat' first
    | with_reducible assumption
    | with_reducible apply kept_next
    | (try lift_lets); intro x; clear_value x
    | split
    | simp -zeta only [kept_mk]
    | dsimp only

theorem execTimerExpired_kept {s0 : State} (t : TimerId) (s : State) (hk : Kept s0 s) : KeptRes s0 (execTimerExpired t s) := by
  delta execTimerExpired
  repeat' first
    | with_reducible assumption
    | with_reducible apply kept_next
    | with_reducible apply raiseEvent_kept
    | (try lift_lets); intro x; refine kept_have (s0 := s0) (s := ‹State›) ?_ ?_; unfold x; rotate_left; intro hx; clear_value x
    | (try lift_lets); intro x; clear_value x
    | split
    | simp -zeta only [kept_mk]
    | dsimp only

theorem execOvfClear_kept {s0 : State} (q : QueueId) (s : State) (hk : Kept s0 s) : KeptRes s0 (execOvfClear q s) := by
  delta execOvfClear
  repeat' first
    | with_reducible assumption
    | with_reducible apply kept_next
    | with_reducible apply setEq_kept
    | (try lift_lets); intro x; clear_value x
    | dsimp only

theorem execFail_kept {s0 : State} (e : EngineId) (s : State) (hk : Kept s0 s) : KeptRes s0 (execFail e s) := by
  delta execFail
  repeat' first
    | with_reducible assumption
    | with_reducible apply kept_next
    | with_reducible apply onOp_kept
    | with_reducible apply endChart_kept
    | refine fun _ => ?_
    | split
    | dsimp only

theorem execTime_kept {s0 : State} (e : EngineId) (s : State) (hk : Kept s0 s) : KeptRes s0 (execTime e s) := by
  delta execTime
  repeat' first
    | with_reducible assumption
    | with_reducible apply kept_next
    | with_reducible apply writeGd_kept
    | dsimp only

theorem execFaultClear_kept {s0 : State} (q : QueueId) (s : State) (hk : Kept s0 s) : KeptRes s0 (execFaultClear q s) := by
  delta execFaultClear
  repeat' first
    | with_reducible assumption
    | with_reducible apply kept_next
    | with_reducible apply setEq_kept
    | (try lift_lets); intro x; clear_value x
    | dsimp only

theorem execChartTimeout_kept {s0 : State} (e : EngineId) (s : State) (hk : Kept s0 s) : KeptRes s0 (execChartTimeout e s) := by
  delta execChartTimeout
  repeat' first
    | with_reducible assumption
    | with_reducible apply kept_next
    | with_reducible apply endChart_kept
    | (try lift_lets); intro x; clear_value x
    | split
    | dsimp only

theorem execInterruptModerationTimeout_kept {s0 : State} (q : QueueId) (s : State) (hk : Kept s0 s) : KeptRes s0 (execInterruptModerationTimeout q s) := by
  delta execInterruptModerationTimeout
  repeat' first
    | with_reducible assumption
    | with_reducible apply kept_next
    | with_reducible apply eqInterrupt_kept
    | (try lift_lets); intro x; clear_value x
    | split
    | dsimp only

theorem execTst_kept {s0 : State} (e : EngineId) (s : State) (hk : Kept s0 s) : KeptRes s0 (execTst e s) := by
  delta execTst
  repeat' first
    | with_reducible assumption
    | with_reducible apply kept_next
    | with_reducible apply onOp_kept
    | with_reducible apply advance_kept
    | refine fun _ => ?_
    | dsimp only

theorem execEqHead_kept {s0 : State} (q : QueueId) (v : BitVec 16) (s : State) (hk : Kept s0 s) : KeptRes s0 (execEqHead q v s) := by
  delta execEqHead
  repeat' first
    | with_reducible assumption
    | with_reducible apply kept_next
    | with_reducible apply latchDoorbell_kept
    | with_reducible apply eqHeadWrite_kept
    | split
    | dsimp only

theorem execEpoch_kept {s0 : State} (e : EngineId) (s : State) (hk : Kept s0 s) : KeptRes s0 (execEpoch e s) := by
  delta execEpoch
  repeat' first
    | with_reducible assumption
    | with_reducible apply kept_next
    | with_reducible apply writeGd_kept
    | dsimp only

theorem execEndChart_kept {s0 : State} (e : EngineId) (s : State) (hk : Kept s0 s) : KeptRes s0 (execEndChart e s) := by
  delta execEndChart
  repeat' first
    | with_reducible assumption
    | with_reducible apply kept_next
    | with_reducible apply onOp_kept
    | with_reducible apply endChart_kept
    | refine fun _ => ?_
    | split
    | dsimp only

theorem execLd_kept {s0 : State} (e : EngineId) (ue : Bool) (s : State) (hk : Kept s0 s) : KeptRes s0 (execLd e ue s) := by
  delta execLd
  repeat' first
    | with_reducible assumption
    | with_reducible apply kept_next
    | with_reducible apply onOp_kept
    | with_reducible apply finish_kept
    | refine fun _ => ?_
    | split
    | dsimp only

theorem execBCc_kept {s0 : State} (e : EngineId) (s : State) (hk : Kept s0 s) : KeptRes s0 (execBCc e s) := by
  delta execBCc
  repeat' first
    | with_reducible assumption
    | with_reducible apply kept_next
    | with_reducible apply onOp_kept
    | with_reducible apply endChart_kept
    | with_reducible apply setEngine_kept
    | with_reducible apply advance_kept
    | refine fun _ => ?_
    | split
    | dsimp only

theorem execWait_kept {s0 : State} (e : EngineId) (s : State) (hk : Kept s0 s) : KeptRes s0 (execWait e s) := by
  delta execWait
  repeat' first
    | with_reducible assumption
    | with_reducible apply kept_next
    | with_reducible apply onOp_kept
    | with_reducible apply endChart_kept
    | with_reducible apply setEngine_kept
    | refine fun _ => ?_
    | (try lift_lets); intro x; clear_value x
    | split
    | dsimp only

theorem execWaitExpiry_kept {s0 : State} (e : EngineId) (s : State) (hk : Kept s0 s) : KeptRes s0 (execWaitExpiry e s) := by
  delta execWaitExpiry
  repeat' first
    | with_reducible assumption
    | with_reducible apply kept_next
    | with_reducible apply advance_kept
    | (try lift_lets); intro x; clear_value x
    | split
    | dsimp only

theorem execRdcs_kept {s0 : State} (e : EngineId) (s : State) (hk : Kept s0 s) : KeptRes s0 (execRdcs e s) := by
  delta execRdcs
  repeat' first
    | with_reducible assumption
    | with_reducible apply kept_next
    | with_reducible apply writeGd_kept
    | dsimp only

theorem execAdd_kept {s0 : State} (e : EngineId) (s : State) (hk : Kept s0 s) : KeptRes s0 (execAdd e s) := by
  delta execAdd
  repeat' first
    | with_reducible assumption
    | with_reducible apply kept_next
    | with_reducible apply aluOp_kept
    | dsimp only

theorem execOr_kept {s0 : State} (e : EngineId) (s : State) (hk : Kept s0 s) : KeptRes s0 (execOr e s) := by
  delta execOr
  repeat' first
    | with_reducible assumption
    | with_reducible apply kept_next
    | with_reducible apply logicOp_kept
    | dsimp only

theorem execXor_kept {s0 : State} (e : EngineId) (s : State) (hk : Kept s0 s) : KeptRes s0 (execXor e s) := by
  delta execXor
  repeat' first
    | with_reducible assumption
    | with_reducible apply kept_next
    | with_reducible apply logicOp_kept
    | dsimp only

theorem execShl_kept {s0 : State} (e : EngineId) (s : State) (hk : Kept s0 s) : KeptRes s0 (execShl e s) := by
  delta execShl
  repeat' first
    | with_reducible assumption
    | with_reducible apply kept_next
    | with_reducible apply logicOp_kept
    | dsimp only

theorem execIns_kept {s0 : State} (e : EngineId) (s : State) (hk : Kept s0 s) : KeptRes s0 (execIns e s) := by
  delta execIns
  repeat' first
    | with_reducible assumption
    | with_reducible apply kept_next
    | with_reducible apply onOp_kept
    | with_reducible apply endChart_kept
    | with_reducible apply advance_kept
    | refine fun _ => ?_
    | split
    | dsimp only

theorem execSt_kept {s0 : State} (e : EngineId) (s : State) (hk : Kept s0 s) : KeptRes s0 (execSt e s) := by
  delta execSt
  repeat' first
    | with_reducible assumption
    | with_reducible apply kept_next
    | with_reducible apply onOp_kept
    | with_reducible apply finish_kept
    | refine fun _ => ?_
    | split
    | dsimp only

theorem execQclaim_kept {s0 : State} (e : EngineId) (s : State) (hk : Kept s0 s) : KeptRes s0 (execQclaim e s) := by
  delta execQclaim
  repeat' first
    | with_reducible assumption
    | with_reducible apply kept_next
    | with_reducible apply onOp_kept
    | with_reducible apply finish_kept
    | refine fun _ => ?_
    | split
    | dsimp only

theorem execEqEnable_kept {s0 : State} (q : QueueId) (s : State) (hk : Kept s0 s) : KeptRes s0 (execEqEnable q s) := by
  delta execEqEnable
  repeat' first
    | with_reducible assumption
    | with_reducible apply kept_next
    | with_reducible apply setEq_kept
    | (try lift_lets); intro x; clear_value x
    | split
    | dsimp only

theorem execEventRecordWrite_kept {s0 : State} (q : QueueId) (s : State) (hk : Kept s0 s) : KeptRes s0 (execEventRecordWrite q s) := by
  delta execEventRecordWrite
  repeat' first
    | with_reducible assumption
    | with_reducible apply kept_next
    | with_reducible apply holdRecord_kept
    | with_reducible apply writeRecord_kept
    | (try lift_lets); intro x; refine kept_have (s0 := s0) (s := ‹State›) ?_ ?_; unfold x; rotate_left; intro hx; clear_value x
    | (try lift_lets); intro x; clear_value x
    | split
    | simp -zeta only [kept_mk]
    | dsimp only

theorem execCounterTick_kept {s0 : State} (s : State) (hk : Kept s0 s) : KeptRes s0 (execCounterTick s) := by
  delta execCounterTick
  repeat' first
    | with_reducible assumption
    | with_reducible apply kept_next
    | (try lift_lets); intro x; refine kept_have (s0 := s0) (s := ‹State›) ?_ ?_; unfold x; rotate_left; intro hx; clear_value x
    | (try lift_lets); intro x; clear_value x
    | split
    | simp -zeta only [kept_mk]
    | dsimp only

theorem execBwWindowEnd_kept {s0 : State} (p : PortId) (n : Fin 2) (s : State) (hk : Kept s0 s) : KeptRes s0 (execBwWindowEnd p n s) := by
  delta execBwWindowEnd
  repeat' first
    | with_reducible assumption
    | with_reducible apply kept_next
    | with_reducible apply peak_kept
    | (try lift_lets); intro x; clear_value x
    | split
    | simp -zeta only [kept_mk]
    | dsimp only

theorem execDumpBlockComplete_kept {s0 : State} (s : State) (hk : Kept s0 s) : KeptRes s0 (execDumpBlockComplete s) := by
  delta execDumpBlockComplete
  repeat' first
    | with_reducible assumption
    | with_reducible apply kept_next
    | with_reducible apply hbmSend_kept
    | with_reducible apply dumpLines_kept
    | with_reducible apply count_kept
    | (try lift_lets); intro x; refine kept_have (s0 := s0) (s := (‹Bool × State›).2) ?_ ?_; unfold x; rotate_left; intro hx; clear_value x
    | (try lift_lets); intro x; refine kept_have (s0 := s0) (s := ‹State›) ?_ ?_; unfold x; rotate_left; intro hx; clear_value x
    | (try lift_lets); intro x; clear_value x
    | split
    | simp -zeta only [kept_mk]
    | dsimp only

theorem emits_kept {s0 : State} (s : State) (os : List Out) (hk : Kept s0 s) : Kept s0 (emits s os) := by
  delta emits
  repeat' first
    | with_reducible assumption
    | simp -zeta only [kept_mk]
    | dsimp only

end Sys2Proof.Machine
end

