-- ==== Sys2Proof/Laws/KeptMeridian.lean ====
section
/-! SUPPORT. What Meridian, the TAP, slot power, the registers keep of the state (Kept): one lemma per operation and meaning. -/
namespace Sys2Proof.Machine

theorem setSlot_kept {s0 : State} (s : State) (c : Nat) (h : SlotCh) (hk : Kept s0 s) : Kept s0 (setSlot s c h) := by
  delta setSlot
  repeat' first
    | with_reducible assumption
    | simp -zeta only [kept_mk]
    | dsimp only

theorem execEnLowLatchClear_kept {s0 : State} (c : ChannelId) (s : State) (hk : Kept s0 s) : KeptRes s0 (execEnLowLatchClear c s) := by
  delta execEnLowLatchClear
  repeat' first
    | with_reducible assumption
    | with_reducible apply kept_next
    | with_reducible apply raiseEvent_kept
    | with_reducible apply setSlot_kept
    | (try lift_lets); intro x; clear_value x
    | split
    | dsimp only

theorem perstAssert_kept {s0 : State} (s : State) (v : Entry) (hk : Kept s0 s) : Kept s0 (perstAssert s v) := by
  delta perstAssert
  repeat' first
    | with_reducible assumption
    | split
    | simp -zeta only [kept_mk]
    | dsimp only

theorem slotOffTo_kept {s0 : State} (s : State) (c : Nat) (h : SlotCh) (st : Nat) (hk : Kept s0 s) : Kept s0 (slotOffTo s c h st) := by
  delta slotOffTo
  repeat' first
    | with_reducible assumption
    | with_reducible apply perstAssert_kept
    | with_reducible apply setSlot_kept
    | dsimp only

theorem slotTrip_kept {s0 : State} (s : State) (c : Nat) (h : SlotCh) (cause : Nat) (hk : Kept s0 s) : Kept s0 (slotTrip s c h cause) := by
  delta slotTrip
  repeat' first
    | with_reducible assumption
    | with_reducible apply raiseEvent_kept
    | with_reducible apply slotOffTo_kept
    | dsimp only

theorem execLimitTimerExpiry_kept {s0 : State} (c : ChannelId) (s : State) (hk : Kept s0 s) : KeptRes s0 (execLimitTimerExpiry c s) := by
  delta execLimitTimerExpiry
  repeat' first
    | with_reducible assumption
    | with_reducible apply kept_next
    | with_reducible apply slotTrip_kept
    | (try lift_lets); intro x; clear_value x
    | split
    | dsimp only

theorem barLoad_out {s0 s t : State} {f off n : Nat} {o : Option (List Byte)} (e : barLoad s f off n = (o, t)) (hk : Kept s0 s) : Kept s0 t := by
  unfold barLoad at e
  split at e
  all_goals simp only [Prod.mk.injEq] at e
  all_goals obtain ⟨-, rfl⟩ := e
  · exact hk
  · exact raiseEvent_kept _ _ _ _ hk

theorem barLoad_kept {s0 : State} (s : State) (f off n : Nat) (hk : Kept s0 s) : Kept s0 (barLoad s f off n).2 :=
  barLoad_out (o := (barLoad s f off n).1) rfl hk

theorem latchTile_kept {s0 : State} (s : State) (tile : Nat) (l : Latched) (hk : Kept s0 s) : Kept s0 (latchTile s tile l) := by
  delta latchTile
  repeat' first
    | with_reducible assumption
    | simp -zeta only [kept_mk]
    | dsimp only

theorem ringDoorbell_kept {s0 : State} (s : State) (f : Nat) (r : Nat) (kind : Nat) (v : Nat) (hk : Kept s0 s) : Kept s0 (ringDoorbell s f r kind v) := by
  delta ringDoorbell
  repeat' first
    | with_reducible assumption
    | with_reducible apply raiseEvent_kept
    | (try lift_lets); intro x; clear_value x
    | split
    | simp -zeta only [kept_mk]
    | dsimp only

theorem fnDoorbell_kept {s0 : State} (s : State) (f : Nat) (j : Nat) (kind : Nat) (v : Nat) (hk : Kept s0 s) : Kept s0 (fnDoorbell s f j kind v) := by
  delta fnDoorbell
  repeat' first
    | with_reducible assumption
    | with_reducible apply raiseEvent_kept
    | with_reducible apply latchDoorbell_kept
    | with_reducible apply latchTile_kept
    | with_reducible apply ringDoorbell_kept
    | split
    | dsimp only

theorem fnEqHead_kept {s0 : State} (s : State) (f : Nat) (v : Nat) (hk : Kept s0 s) : Kept s0 (fnEqHead s f v) := by
  delta fnEqHead
  repeat' first
    | with_reducible assumption
    | with_reducible apply latchDoorbell_kept
    | with_reducible apply latchTile_kept
    | with_reducible apply eqHeadWrite_kept
    | split
    | dsimp only

theorem setRingSlot_kept {s0 : State} (s : State) (r : Nat) (x : RingSlot) (hk : Kept s0 s) : Kept s0 (setRingSlot s r x) := by
  delta setRingSlot
  repeat' first
    | with_reducible assumption
    | (try lift_lets); intro x; clear_value x
    | simp -zeta only [kept_mk]
    | dsimp only

theorem submitFor_kept {s0 : State} (s : State) (f : Nat) (r : Nat) (on : Bool) (hk : Kept s0 s) : Kept s0 (submitFor s f r on) := by
  delta submitFor
  repeat' first
    | with_reducible assumption
    | split
    | simp -zeta only [kept_mk]
    | dsimp only

theorem slotWrite_kept {s0 : State} (s : State) (f : Nat) (r : Nat) (off : Nat) (w : Nat) (hk : Kept s0 s) : Kept s0 (slotWrite s f r off w) := by
  delta slotWrite
  repeat' first
    | with_reducible assumption
    | with_reducible apply setRingSlot_kept
    | with_reducible apply submitFor_kept
    | (try lift_lets); intro x; clear_value x
    | split
    | dsimp only

theorem eqPageWrite_kept {s0 : State} (s : State) (q : Nat) (off : Nat) (w : Nat) (hk : Kept s0 s) : Kept s0 (eqPageWrite s q off w) := by
  delta eqPageWrite
  repeat' first
    | with_reducible assumption
    | with_reducible apply setEq_kept
    | (try lift_lets); intro x; clear_value x
    | intro _
    | split
    | dsimp only

theorem setMsix_kept {s0 : State} (s : State) (f : Nat) (m : Msix) (hk : Kept s0 s) : Kept s0 (setMsix s f m) := by
  delta setMsix
  repeat' first
    | with_reducible assumption
    | (try lift_lets); intro x; clear_value x
    | simp -zeta only [kept_mk]
    | dsimp only

theorem msixVector_kept {s0 : State} (s : State) (f : Nat) (vec : Nat) (hk : Kept s0 s) : Kept s0 (msixVector s f vec) := by
  delta msixVector
  repeat' first
    | with_reducible assumption
    | with_reducible apply sendMsix_kept
    | with_reducible apply setMsix_kept
    | (try lift_lets); intro x; clear_value x
    | split
    | dsimp only

theorem msixWrite_kept {s0 : State} (s : State) (f : Nat) (off : Nat) (w : Nat) (hk : Kept s0 s) : Kept s0 (msixWrite s f off w) := by
  delta msixWrite
  repeat' first
    | with_reducible assumption
    | with_reducible apply setMsix_kept
    | with_reducible apply msixVector_kept
    | (try lift_lets); intro x; clear_value x
    | split
    | dsimp only

theorem windowWrite_kept {s0 : State} (s : State) (w : Nat) (off : Nat) (v : Nat) (hk : Kept s0 s) : Kept s0 (windowWrite s w off v) := by
  delta windowWrite
  repeat' first
    | with_reducible assumption
    | (try lift_lets); intro x; clear_value x
    | split
    | simp -zeta only [kept_mk]
    | dsimp only

theorem barWrite_kept {s0 : State} (s : State) (f : Nat) (off : Nat) (w : Nat) (hk : Kept s0 s) : Kept s0 (barWrite s f off w) := by
  delta barWrite
  repeat' first
    | with_reducible assumption
    | with_reducible apply fnDoorbell_kept
    | with_reducible apply fnEqHead_kept
    | with_reducible apply slotWrite_kept
    | with_reducible apply eqPageWrite_kept
    | with_reducible apply msixWrite_kept
    | with_reducible apply windowWrite_kept
    | (try lift_lets); intro x; clear_value x
    | split
    | simp -zeta only [kept_mk]
    | dsimp only

theorem barStore_kept {s0 : State} (s : State) (f : Nat) (off : Nat) (n : Nat) (v : Nat) (hk : Kept s0 s) : Kept s0 (barStore s f off n v) := by
  delta barStore
  repeat' first
    | with_reducible assumption
    | with_reducible apply barWrite_kept
    | with_reducible apply raiseEvent_kept
    | with_reducible apply kept_foldl
    | refine fun _ => ?_
    | split
    | dsimp only

theorem slotCmdOff_kept {s0 : State} (s : State) (c : Nat) (hk : Kept s0 s) : Kept s0 (slotCmdOff s c) := by
  delta slotCmdOff
  repeat' first
    | with_reducible assumption
    | with_reducible apply slotOffTo_kept
    | (try lift_lets); intro x; clear_value x
    | dsimp only

theorem onSession_kept {s0 : State} (s : State) (i : Nat) (f : Session → Session) (hk : Kept s0 s) : Kept s0 (onSession s i f) := by
  delta onSession
  repeat' first
    | with_reducible assumption
    | (try lift_lets); intro x; clear_value x
    | split
    | simp -zeta only [kept_mk]
    | dsimp only

theorem mgmtAnswer_kept {s0 : State} (s : State) (src : MctpSrc) (cmd : Nat) (tag : BitVec 16) (st : Nat) (body : List Byte) (hk : Kept s0 s) : Kept s0 (mgmtAnswer s src cmd tag st body) := by
  delta mgmtAnswer
  repeat' first
    | with_reducible assumption
    | with_reducible apply emit_kept
    | dsimp only

theorem vendor_kept {s0 : State} (s : State) (src : MctpSrc) (letters : List Nat) (cmd : Nat) (tag : BitVec 16) (f : State → State) (hk : Kept s0 s) (hf : ∀ t, Kept s0 t → Kept s0 (f t)) : Kept s0 (vendor s src letters cmd tag f) := by
  delta vendor
  repeat' first
    | with_reducible assumption
    | with_reducible apply mgmtAnswer_kept
    | with_reducible apply hf
    | split
    | dsimp only

theorem execChart_kept {s0 : State} (src : MctpSrc) (tag : BitVec 16) (entry : List Word) (words : List Word) (s : State) (hk : Kept s0 s) : KeptRes s0 (execChart src tag entry words s) := by
  delta execChart
  repeat' first
    | with_reducible assumption
    | with_reducible apply kept_next
    | with_reducible apply vendor_kept
    | refine fun _ => ?_
    | (try lift_lets); intro x; clear_value x
    | split
    | simp -zeta only [kept_mk]
    | dsimp only

theorem merSubmit_kept {s0 : State} (s : State) (instrs : List Word) (datas : List Word) (hk : Kept s0 s) : Kept s0 (merSubmit s instrs datas) := by
  delta merSubmit
  repeat' first
    | with_reducible assumption
    | (try lift_lets); intro x; clear_value x
    | simp -zeta only [kept_mk]
    | dsimp only

theorem handoverHold_kept {s0 : State} (s : State) (u : LiveUpd) (ready : Bool) (hk : Kept s0 s) : Kept s0 (handoverHold s u ready) := by
  delta handoverHold
  repeat' first
    | with_reducible assumption
    | with_reducible apply merSubmit_kept
    | (try lift_lets); intro x; clear_value x
    | simp -zeta only [kept_mk]
    | dsimp only

theorem execHandoverTimeout_kept {s0 : State} (s : State) (hk : Kept s0 s) : KeptRes s0 (execHandoverTimeout s) := by
  delta execHandoverTimeout
  repeat' first
    | with_reducible assumption
    | with_reducible apply kept_next
    | with_reducible apply handoverHold_kept
    | split
    | dsimp only

theorem legendChanged_kept {s0 : State} (s : State) (hk : Kept s0 s) : Kept s0 (legendChanged s) := by
  delta legendChanged
  repeat' first
    | with_reducible assumption
    | (try lift_lets); intro x; clear_value x
    | simp -zeta only [kept_mk]
    | dsimp only

theorem legendSync_kept {s0 : State} (s : State) (t : State) (hk : Kept s0 s) (hk1 : Kept s0 t) : Kept s0 (legendSync s t) := by
  delta legendSync
  repeat' first
    | with_reducible assumption
    | with_reducible apply legendChanged_kept
    | split
    | dsimp only

theorem tapReturn_kept {s0 : State} (s : State) (ir : Nat) (data : List Byte) (hk : Kept s0 s) : Kept s0 (tapReturn s ir data) := by
  delta tapReturn
  repeat' first
    | with_reducible assumption
    | with_reducible apply emit_kept
    | (try lift_lets); intro x; clear_value x
    | simp -zeta only [kept_mk]
    | dsimp only

theorem tapBypass_kept {s0 : State} (s : State) (hk : Kept s0 s) : Kept s0 (tapBypass s) := by
  delta tapBypass
  repeat' first
    | with_reducible assumption
    | with_reducible apply tapReturn_kept
    | dsimp only

theorem access_kept {s0 : State} (s : State) (op : Nat) (space : BitVec 8) (nwords : BitVec 8) (q : Word) (ans : Nat) (data : List Byte) (hk : Kept s0 s) : Kept s0 (access s op space nwords q ans data) := by
  delta access
  dsimp only
  repeat' first
    | with_reducible assumption
    | with_reducible apply tapReturn_kept
    | with_reducible apply tapBypass_kept
    | with_reducible apply fenceCheck_kept
    | with_reducible apply emit_kept
    | split
    | simp -zeta only [kept_mk]
    | dsimp only

theorem execAccessWrite_kept {s0 : State} (space : BitVec 8) (nwords : BitVec 8) (q : Word) (data : List Byte) (s : State) (hk : Kept s0 s) : KeptRes s0 (execAccessWrite space nwords q data s) := by
  delta execAccessWrite
  repeat' first
    | with_reducible assumption
    | with_reducible apply kept_next
    | with_reducible apply access_kept
    | dsimp only

theorem merVendor_kept {s0 : State} (s : State) (src : MctpSrc) (letters : List Nat) (cmd : Nat) (tag : BitVec 16) (f : State → State) (hk : Kept s0 s) (hf : ∀ t, Kept s0 t → Kept s0 (f t)) : Kept s0 (merVendor s src letters cmd tag f) := by
  delta merVendor
  repeat' first
    | with_reducible assumption
    | with_reducible apply vendor_kept
    | with_reducible apply hf
    | refine fun _ => ?_
    | split
    | dsimp only

theorem setTarget_kept {s0 : State} (s : State) (kind : Nat) (t : Nat) (m : Image) (hk : Kept s0 s) : Kept s0 (setTarget s kind t m) := by
  delta setTarget
  repeat' first
    | with_reducible assumption
    | (try lift_lets); intro x; clear_value x
    | split
    | simp -zeta only [kept_mk]
    | dsimp only

theorem execFwData_kept {s0 : State} (src : MctpSrc) (tag : BitVec 16) (off : BitVec 32) (data : List Byte) (s : State) (hk : Kept s0 s) : KeptRes s0 (execFwData src tag off data s) := by
  delta execFwData
  repeat' first
    | with_reducible assumption
    | with_reducible apply kept_next
    | with_reducible apply merVendor_kept
    | with_reducible apply mgmtAnswer_kept
    | with_reducible apply setTarget_kept
    | refine fun _ => ?_
    | (try lift_lets); intro x; refine kept_have (s0 := s0) (s := ‹State›) ?_ ?_; unfold x; rotate_left; intro hx; clear_value x
    | (try lift_lets); intro x; clear_value x
    | split
    | simp -zeta only [kept_mk]
    | dsimp only

theorem execSamplePreload_kept {s0 : State} (pins : Word) (preload : Word) (s : State) (hk : Kept s0 s) : KeptRes s0 (execSamplePreload pins preload s) := by
  delta execSamplePreload
  repeat' first
    | with_reducible assumption
    | with_reducible apply kept_next
    | with_reducible apply tapReturn_kept
    | with_reducible apply tapBypass_kept
    | (try lift_lets); intro x; clear_value x
    | split
    | simp -zeta only [kept_mk]
    | dsimp only

theorem submitResume_kept {s0 : State} (s : State) (u : LiveUpd) (hk : Kept s0 s) : Kept s0 (submitResume s u) := by
  delta submitResume
  repeat' first
    | with_reducible assumption
    | with_reducible apply merSubmit_kept
    | (try lift_lets); intro x; clear_value x
    | split
    | dsimp only

/-- The pause's end leaves every listed engine different from an idle one. -/
theorem addPause_wf (s : State) (t : Nat) (m : SMap Engine) (h : Engines.wf m = true) : Engines.wf (m.map fun e => (e.1, addPause s t e.2)) = true := by
  induction m with
  | nil => rfl
  | cons e m ih =>
    obtain ⟨j, u⟩ := e
    obtain ⟨hu, hj, hm⟩ := (smWf_cons (fun _ => ({} : Engine)) j u m).mp h
    rw [List.map_cons]
    refine (smWf_cons (fun _ => ({} : Engine)) j _ _).mpr ⟨?_, fun e he => ?_, ih hm⟩
    · unfold addPause
      split
      · exact hu
      · rename_i hi
        intro he
        exact hi (.inl (by simpa [engineIdle] using congrArg Engine.origin he))
    · obtain ⟨a, ha, rfl⟩ := List.mem_map.mp he
      exact hj a ha

theorem execEngineResume_kept {s0 : State} (s : State) (hk : Kept s0 s) : KeptRes s0 (execEngineResume s) := by
  delta execEngineResume
  split
  · dsimp only
    exact kept_next (merSubmit_kept _ _ _
      ⟨hk.pending, hk.clock, hk.hbm, hk.tab, hk.claims, fun w => addPause_wf _ _ s.engines (hk.engines w), hk.svn1, hk.svn2⟩)
  · exact kept_next hk

theorem execHandoverConfirmed_kept {s0 : State} (c : ChannelId) (s : State) (hk : Kept s0 s) : KeptRes s0 (execHandoverConfirmed c s) := by
  delta execHandoverConfirmed
  repeat' first
    | with_reducible assumption
    | with_reducible apply kept_next
    | with_reducible apply setSlot_kept
    | (try lift_lets); intro x; clear_value x
    | split
    | dsimp only

theorem memCheck_kept {s0 : State} (s : State) (x : Engine) (a : Nat) (n : Nat) (wr : Bool) (hk : Kept s0 s) : Kept s0 (memCheck s x a n wr).2 := by
  delta memCheck
  repeat' first
    | with_reducible assumption
    | with_reducible apply fenceCheck_kept
    | split
    | dsimp only

theorem stewWrite_kept {s0 : State} (s : State) (off : Nat) (w : Nat) (hk : Kept s0 s) : Kept s0 (stewWrite s off w) := by
  delta stewWrite
  repeat' first
    | with_reducible assumption
    | with_reducible apply eqPageWrite_kept
    | with_reducible apply eqHeadWrite_kept
    | with_reducible apply windowWrite_kept
    | with_reducible apply ringDoorbell_kept
    | with_reducible apply slotWrite_kept
    | (try lift_lets); intro x; clear_value x
    | split
    | simp -zeta only [kept_mk]
    | dsimp only

theorem stewStore_kept {s0 : State} (s : State) (off : Nat) (bs : List Byte) (hk : Kept s0 s) : Kept s0 (stewStore s off bs) := by
  delta stewStore
  repeat' first
    | with_reducible assumption
    | with_reducible apply stewWrite_kept
    | with_reducible apply kept_foldl
    | refine fun _ => ?_
    | dsimp only

theorem memStore_kept {s0 : State} (s : State) (e : Nat) (x : Engine) (a : Nat) (bs : List Byte) (hk : Kept s0 s) : Kept s0 (memStore s e x a bs) := by
  delta memStore
  repeat' first
    | with_reducible assumption
    | with_reducible apply sendOut_kept
    | with_reducible apply hbmWrite_kept
    | with_reducible apply stewStore_kept
    | with_reducible apply kept_foldl
    | refine fun _ => ?_
    | split
    | dsimp only

theorem execAlmanac_kept {s0 : State} (src : MctpSrc) (tag : BitVec 16) (slot : BitVec 32) (s : State) (hk : Kept s0 s) : KeptRes s0 (execAlmanac src tag slot s) := by
  delta execAlmanac
  repeat' first
    | with_reducible assumption
    | with_reducible apply kept_next
    | with_reducible apply vendor_kept
    | with_reducible apply mgmtAnswer_kept
    | refine fun _ => ?_
    | split
    | dsimp only

theorem slotFresh_kept {s0 : State} (s : State) (c : Nat) (old : Entry) (hk : Kept s0 s) : Kept s0 (slotFresh s c old) := by
  delta slotFresh
  repeat' first
    | with_reducible assumption
    | with_reducible apply setSlot_kept
    | (try lift_lets); intro x; clear_value x
    | split
    | dsimp only

theorem resubmitUpdate_kept {s0 : State} (s : State) (hk : Kept s0 s) : Kept s0 (resubmitUpdate s) := by
  delta resubmitUpdate
  repeat' first
    | with_reducible assumption
    | with_reducible apply handoverHold_kept
    | with_reducible apply submitResume_kept
    | split
    | dsimp only

theorem memAsk_kept {s0 : State} (s : State) (e : Nat) (x : Engine) (a : Nat) (n : Nat) (hk : Kept s0 s) : Kept s0 (memAsk s e x a n) := by
  delta memAsk
  repeat' first
    | with_reducible assumption
    | with_reducible apply sendOut_kept
    | with_reducible apply kept_foldl
    | refine fun _ => ?_
    | split
    | dsimp only

theorem stewLoad_kept {s0 : State} (s : State) (off : Nat) (n : Nat) (hk : Kept s0 s) : Kept s0 (stewLoad s off n).2 := by
  delta stewLoad
  repeat' first
    | with_reducible assumption
    | with_reducible apply tick_kept
    | split
    | dsimp only

theorem memLocal_out {s0 s t : State} {x : Engine} {a n : Nat} {ws : List Word} (e : memLocal s x a n = some (ws, t)) (hk : Kept s0 s) : Kept s0 t := by
  unfold memLocal at e
  try dsimp only at e
  repeat' split at e
  all_goals first | contradiction | skip
  all_goals simp only [Option.some.injEq, Prod.mk.injEq] at e
  all_goals obtain ⟨rfl, rfl⟩ := e
  all_goals
    repeat' first
      | with_reducible assumption
      | with_reducible apply stewLoad_kept
      | simp -zeta only [kept_mk]

theorem execHld_kept {s0 : State} (e : EngineId) (s : State) (hk : Kept s0 s) : KeptRes s0 (execHld e s) := by
  delta execHld
  repeat' first
    | with_reducible assumption
    | with_reducible apply kept_next
    | with_reducible apply onOp_kept
    | with_reducible apply finish_kept
    | with_reducible apply memCheck_kept
    | with_reducible apply setEngine_kept
    | with_reducible apply memAsk_kept
    | refine memLocal_out ‹_› ?_
    | refine fun _ => ?_
    | (try lift_lets); intro x; refine kept_have (s0 := s0) (s := (‹Nat × State›).2) ?_ ?_; unfold x; rotate_left; intro hx; clear_value x
    | (try lift_lets); intro x; clear_value x
    | split
    | dsimp only

theorem control_kept {s0 : State} (s : State) (src : MctpSrc) (code : Nat) (body : List Byte) (hk : Kept s0 s) : Kept s0 (control s src code body) := by
  delta control
  repeat' first
    | with_reducible assumption
    | with_reducible apply emit_kept
    | dsimp only

theorem execSetEndpointId_kept {s0 : State} (src : MctpSrc) (eid : BitVec 8) (s : State) (hk : Kept s0 s) : KeptRes s0 (execSetEndpointId src eid s) := by
  delta execSetEndpointId
  repeat' first
    | with_reducible assumption
    | with_reducible apply kept_next
    | with_reducible apply control_kept
    | (try lift_lets); intro x; clear_value x
    | simp -zeta only [kept_mk]
    | dsimp only

theorem execMeasurementReport_kept {s0 : State} (s : State) (hk : Kept s0 s) : KeptRes s0 (execMeasurementReport s) := by
  delta execMeasurementReport
  repeat' first
    | with_reducible assumption
    | with_reducible apply kept_next
    | (try lift_lets); intro x; clear_value x
    | split
    | simp -zeta only [kept_mk]
    | dsimp only

theorem execExtest_kept {s0 : State} (v : Word) (s : State) (hk : Kept s0 s) : KeptRes s0 (execExtest v s) := by
  delta execExtest
  repeat' first
    | with_reducible assumption
    | with_reducible apply kept_next
    | with_reducible apply tapReturn_kept
    | with_reducible apply tapBypass_kept
    | (try lift_lets); intro x; clear_value x
    | split
    | simp -zeta only [kept_mk]
    | dsimp only

theorem actLatched_kept {s0 : State} (s : State) (f : Nat) (l : Latched) (hk : Kept s0 s) : Kept s0 (actLatched s f l) := by
  delta actLatched
  repeat' first
    | with_reducible assumption
    | with_reducible apply eqHeadWrite_kept
    | with_reducible apply ringDoorbell_kept
    | split
    | dsimp only

theorem spdm_kept {s0 : State} (s : State) (via : SpdmVia) (f : State → State) (hk : Kept s0 s) (hf : ∀ t, Kept s0 t → Kept s0 (f t)) : Kept s0 (spdm s via f) := by
  delta spdm
  repeat' first
    | with_reducible assumption
    | with_reducible apply hf
    | split
    | dsimp only

theorem handoverBegin_kept {s0 : State} (s : State) (c : Nat) (h : SlotCh) (hk : Kept s0 s) : Kept s0 (handoverBegin s c h) := by
  delta handoverBegin
  repeat' first
    | with_reducible assumption
    | with_reducible apply setSlot_kept
    | dsimp only

theorem execHandback_kept {s0 : State} (c : ChannelId) (s : State) (hk : Kept s0 s) : KeptRes s0 (execHandback c s) := by
  delta execHandback
  repeat' first
    | with_reducible assumption
    | with_reducible apply kept_next
    | with_reducible apply handoverBegin_kept
    | (try lift_lets); intro x; clear_value x
    | split
    | dsimp only

theorem execEntdaa_kept {s0 : State} (addr : BitVec 7) (s : State) (hk : Kept s0 s) : KeptRes s0 (execEntdaa addr s) := by
  delta execEntdaa
  repeat' first
    | with_reducible assumption
    | with_reducible apply kept_next
    | (try lift_lets); intro x; clear_value x
    | simp -zeta only [kept_mk]
    | dsimp only

theorem execMerLegend_kept {s0 : State} (e : EngineId) (s : State) (hk : Kept s0 s) : KeptRes s0 (execMerLegend e s) := by
  delta execMerLegend
  repeat' first
    | with_reducible assumption
    | with_reducible apply kept_next
    | with_reducible apply onOp_kept
    | with_reducible apply finish_kept
    | with_reducible apply legendChanged_kept
    | refine fun _ => ?_
    | (try lift_lets); intro x; clear_value x
    | split
    | simp -zeta only [kept_mk]
    | dsimp only

theorem merStewardAct_kept {s0 : State} (e : Nat) (s : State) (action : Nat) (f : State → Word → Word → Nat × State) (hk : Kept s0 s) (hf : ∀ t a1 a2, Kept s0 t → Kept s0 (f t a1 a2).2) : Kept s0 (merStewardAct e s action f) := by
  delta merStewardAct
  repeat' first
    | with_reducible assumption
    | with_reducible apply onOp_kept
    | with_reducible apply finish_kept
    | with_reducible apply hf
    | refine fun _ => ?_
    | (try lift_lets); intro x; refine kept_have (s0 := s0) (s := (‹Nat × State›).2) ?_ ?_; unfold x; rotate_left; intro hx; clear_value x
    | (try lift_lets); intro x; clear_value x
    | split
    | dsimp only

theorem execMerStewardRelease_kept {s0 : State} (e : EngineId) (s : State) (hk : Kept s0 s) : KeptRes s0 (execMerStewardRelease e s) := by
  delta execMerStewardRelease
  repeat' first
    | with_reducible assumption
    | with_reducible apply kept_next
    | with_reducible apply merStewardAct_kept
    | refine fun _ => ?_
    | (try lift_lets); intro x; clear_value x
    | split
    | simp -zeta only [kept_mk]
    | dsimp only

theorem closeScope_kept {s0 : State} (s : State) (cause : Nat) (hk : Kept s0 s) : Kept s0 (closeScope s cause) := by
  delta closeScope
  repeat' first
    | with_reducible assumption
    | with_reducible apply raiseEvent_kept
    | (try lift_lets); intro x; clear_value x
    | split
    | simp -zeta only [kept_mk]
    | dsimp only

theorem spdmSend_kept {s0 : State} (s : State) (via : SpdmVia) (code : Nat) (body : List Byte) (hk : Kept s0 s) : Kept s0 (spdmSend s via code body) := by
  delta spdmSend
  repeat' first
    | with_reducible assumption
    | with_reducible apply emit_kept
    | dsimp only

theorem execSpdmChallenge_kept {s0 : State} (via : SpdmVia) (nonce : List Byte) (s : State) (hk : Kept s0 s) : KeptRes s0 (execSpdmChallenge via nonce s) := by
  delta execSpdmChallenge
  repeat' first
    | with_reducible assumption
    | with_reducible apply kept_next
    | with_reducible apply spdm_kept
    | with_reducible apply spdmSend_kept
    | with_reducible apply tick_kept
    | refine fun _ => ?_
    | (try lift_lets); intro x; clear_value x
    | dsimp only

theorem tokenCmd_kept {s0 : State} (s : State) (src : MctpSrc) (tag : BitVec 16) (t : List Byte) (op : Nat) (len : Nat) (ok : State → List Byte → Bool) (f : State → List Byte → State) (hk : Kept s0 s) (hf : ∀ t a1, Kept s0 t → Kept s0 (f t a1)) : Kept s0 (tokenCmd s src tag t op len ok f) := by
  delta tokenCmd
  repeat' first
    | with_reducible assumption
    | with_reducible apply merVendor_kept
    | with_reducible apply mgmtAnswer_kept
    | with_reducible apply raiseEvent_kept
    | with_reducible apply hf
    | refine fun _ => ?_
    | (try lift_lets); intro x; refine kept_have (s0 := s0) (s := ‹State›) ?_ ?_; unfold x; rotate_left; intro hx; clear_value x
    | (try lift_lets); intro x; clear_value x
    | split
    | simp -zeta only [kept_mk]
    | dsimp only

theorem execAnchorSet_kept {s0 : State} (src : MctpSrc) (tag : BitVec 16) (tok : List Byte) (s : State) (hk : Kept s0 s) : KeptRes s0 (execAnchorSet src tag tok s) := by
  delta execAnchorSet
  dsimp only
  repeat' first
    | with_reducible assumption
    | with_reducible apply kept_next
    | with_reducible apply tokenCmd_kept
    | refine fun _ => ?_
    | split
    | simp -zeta only [kept_mk]
    | with_reducible apply kept_mkSec
    | exact Nat.le_refl _
    | exact Nat.le_max_left ..
    | dsimp only

theorem execMctpDiscard_kept {s0 : State} (src : MctpSrc) (typ : BitVec 8) (len : Nat) (s : State) (hk : Kept s0 s) : KeptRes s0 (execMctpDiscard src typ len s) := by
  delta execMctpDiscard
  repeat' first
    | with_reducible assumption
    | with_reducible apply kept_next
    | with_reducible apply emit_kept
    | (try lift_lets); intro x; clear_value x
    | intro _
    | split
    | simp -zeta only [kept_mk]
    | dsimp only

theorem slotsReset_kept {s0 : State} (s : State) (hk : Kept s0 s) : Kept s0 (slotsReset s) := by
  delta slotsReset
  repeat' first
    | with_reducible assumption
    | with_reducible apply perstAssert_kept
    | with_reducible apply kept_foldl
    | refine fun _ => ?_
    | (try lift_lets); intro x; refine kept_have (s0 := s0) (s := ‹State›) ?_ ?_; unfold x; rotate_left; intro hx; clear_value x
    | simp -zeta only [kept_mk]
    | dsimp only

theorem execKeyExchange_kept {s0 : State} (via : SpdmVia) (peer : Word) (root : List Byte) (s : State) (hk : Kept s0 s) : KeptRes s0 (execKeyExchange via peer root s) := by
  delta execKeyExchange
  repeat' first
    | with_reducible assumption
    | with_reducible apply kept_next
    | with_reducible apply spdm_kept
    | with_reducible apply spdmSend_kept
    | refine fun _ => ?_
    | (try lift_lets); intro x; clear_value x
    | intro _
    | split
    | simp -zeta only [kept_mk]
    | dsimp only

theorem slotStart_kept {s0 : State} (s : State) (c : Nat) (h : SlotCh) (hk : Kept s0 s) : Kept s0 (slotStart s c h) := by
  delta slotStart
  repeat' first
    | with_reducible assumption
    | with_reducible apply setSlot_kept
    | with_reducible apply raiseEvent_kept
    | (try lift_lets); intro x; clear_value x
    | intro _
    | split
    | dsimp only

theorem execEnHigh_kept {s0 : State} (c : ChannelId) (s : State) (hk : Kept s0 s) : KeptRes s0 (execEnHigh c s) := by
  delta execEnHigh
  repeat' first
    | with_reducible assumption
    | with_reducible apply kept_next
    | with_reducible apply slotStart_kept
    | with_reducible apply setSlot_kept
    | (try lift_lets); intro x; clear_value x
    | split
    | dsimp only

theorem execSlotOnTimeout_kept {s0 : State} (e : EngineId) (s : State) (hk : Kept s0 s) : KeptRes s0 (execSlotOnTimeout e s) := by
  delta execSlotOnTimeout
  repeat' first
    | with_reducible assumption
    | with_reducible apply kept_next
    | with_reducible apply finish_kept
    | (try lift_lets); intro x; clear_value x
    | split
    | dsimp only

theorem execHst_kept {s0 : State} (e : EngineId) (s : State) (hk : Kept s0 s) : KeptRes s0 (execHst e s) := by
  delta execHst
  repeat' first
    | with_reducible assumption
    | with_reducible apply kept_next
    | with_reducible apply onOp_kept
    | with_reducible apply finish_kept
    | with_reducible apply memCheck_kept
    | with_reducible apply memStore_kept
    | refine fun _ => ?_
    | (try lift_lets); intro x; refine kept_have (s0 := s0) (s := (‹Nat × State›).2) ?_ ?_; unfold x; rotate_left; intro hx; clear_value x
    | (try lift_lets); intro x; clear_value x
    | split
    | dsimp only

theorem msixFlush_kept {s0 : State} (s : State) (f : Nat) (hk : Kept s0 s) : Kept s0 (msixFlush s f) := by
  delta msixFlush
  repeat' first
    | with_reducible assumption
    | with_reducible apply msixVector_kept
    | with_reducible apply kept_foldl
    | refine fun _ => ?_
    | dsimp only

theorem ownership_kept {s0 : State} (s : State) (owned : Bool) (dig : List Byte) (stw dbg : Bool) (key : Option (List Byte)) (hk : Kept s0 s) :
    Kept s0 (ownership s owned dig stw dbg key) := by
  delta ownership
  exact kept_mkSec hk (Nat.le_refl _) (Nat.le_refl _)

theorem execReady_kept {s0 : State} (s : State) (hk : Kept s0 s) : KeptRes s0 (execReady s) := by
  delta execReady
  repeat' first
    | with_reducible assumption
    | with_reducible apply kept_next
    | with_reducible apply handoverHold_kept
    | split
    | dsimp only

theorem slotStarve_kept {s0 : State} (s : State) (c : Nat) (h : SlotCh) (hk : Kept s0 s) : Kept s0 (slotStarve s c h) := by
  delta slotStarve
  repeat' first
    | with_reducible assumption
    | with_reducible apply slotOffTo_kept
    | with_reducible apply raiseEvent_kept
    | (try lift_lets); intro x; refine kept_have (s0 := s0) (s := ‹State›) ?_ ?_; unfold x; rotate_left; intro hx; clear_value x
    | split
    | dsimp only

theorem execSteward_kept {s0 : State} (src : MctpSrc) (tag : BitVec 16) (body : List Byte) (s : State) (hk : Kept s0 s) : KeptRes s0 (execSteward src tag body s) := by
  delta execSteward
  repeat' first
    | with_reducible assumption
    | with_reducible apply kept_next
    | with_reducible apply vendor_kept
    | with_reducible apply mgmtAnswer_kept
    | with_reducible apply emit_kept
    | refine fun _ => ?_
    | (try lift_lets); intro x; clear_value x
    | split
    | simp -zeta only [kept_mk]
    | dsimp only

theorem execChallenge_kept {s0 : State} (src : MctpSrc) (tag : BitVec 16) (s : State) (hk : Kept s0 s) : KeptRes s0 (execChallenge src tag s) := by
  delta execChallenge
  repeat' first
    | with_reducible assumption
    | with_reducible apply kept_next
    | with_reducible apply merVendor_kept
    | with_reducible apply mgmtAnswer_kept
    | with_reducible apply tick_kept
    | refine fun _ => ?_
    | (try lift_lets); intro x; clear_value x
    | simp -zeta only [kept_mk]
    | dsimp only

theorem switchMeasure_kept {s0 : State} (s : State) (u : LiveUpd) (hk : Kept s0 s) : Kept s0 (switchMeasure s u) := by
  delta switchMeasure
  repeat' first
    | with_reducible assumption
    | (try lift_lets); intro x; clear_value x
    | simp -zeta only [kept_mk]
    | dsimp only

theorem execLockSet_kept {s0 : State} (src : MctpSrc) (tag : BitVec 16) (tok : List Byte) (s : State) (hk : Kept s0 s) : KeptRes s0 (execLockSet src tag tok s) := by
  delta execLockSet
  dsimp only
  repeat' first
    | with_reducible assumption
    | with_reducible apply kept_next
    | with_reducible apply tokenCmd_kept
    | refine fun _ => ?_
    | simp -zeta only [kept_mk]
    | with_reducible apply kept_mkSec
    | exact Nat.le_refl _
    | exact Nat.le_max_left ..
    | dsimp only

theorem slotCmdOn_kept {s0 : State} (s : State) (c : Nat) (hk : Kept s0 s) : Kept s0 (slotCmdOn s c) := by
  delta slotCmdOn
  repeat' first
    | with_reducible assumption
    | with_reducible apply slotStart_kept
    | with_reducible apply setSlot_kept
    | (try lift_lets); intro x; clear_value x
    | split
    | dsimp only

theorem execTapToken_kept {s0 : State} (tok : List Byte) (s : State) (hk : Kept s0 s) : KeptRes s0 (execTapToken tok s) := by
  delta execTapToken
  repeat' first
    | with_reducible assumption
    | with_reducible apply kept_next
    | with_reducible apply tapBypass_kept
    | (try lift_lets); intro x; clear_value x
    | split
    | simp -zeta only [kept_mk]
    | dsimp only

theorem execSlotOff_kept {s0 : State} (e : EngineId) (s : State) (hk : Kept s0 s) : KeptRes s0 (execSlotOff e s) := by
  delta execSlotOff
  repeat' first
    | with_reducible assumption
    | with_reducible apply kept_next
    | with_reducible apply macroOp_kept
    | with_reducible apply slotCmdOff_kept
    | refine fun _ => ?_
    | (try lift_lets); intro x; clear_value x
    | split
    | dsimp only

theorem execFeedValid_kept {s0 : State} (c : ChannelId) (feed : Fin 2) (dv : BitVec 10) (above : Bool) (s : State) (hk : Kept s0 s) : KeptRes s0 (execFeedValid c feed dv above s) := by
  delta execFeedValid
  repeat' first
    | with_reducible assumption
    | with_reducible apply kept_next
    | with_reducible apply setSlot_kept
    | with_reducible apply raiseEvent_kept
    | with_reducible apply slotStart_kept
    | with_reducible apply handoverBegin_kept
    | (try lift_lets); intro x; refine kept_have (s0 := s0) (s := ‹State›) ?_ ?_; unfold x; rotate_left; intro hx; clear_value x
    | (try lift_lets); intro x; clear_value x
    | intro _
    | split
    | dsimp only

theorem execIdcode_kept {s0 : State} (s : State) (hk : Kept s0 s) : KeptRes s0 (execIdcode s) := by
  delta execIdcode
  repeat' first
    | with_reducible assumption
    | with_reducible apply kept_next
    | with_reducible apply tapReturn_kept
    | with_reducible apply tick_kept
    | (try lift_lets); intro x; clear_value x
    | dsimp only

theorem execSlotSettingsApply_kept {s0 : State} (c : ChannelId) (s : State) (hk : Kept s0 s) : KeptRes s0 (execSlotSettingsApply c s) := by
  delta execSlotSettingsApply
  repeat' first
    | with_reducible assumption
    | with_reducible apply kept_next
    | with_reducible apply setSlot_kept
    | with_reducible apply perstAssert_kept
    | (try lift_lets); intro x; refine kept_have (s0 := s0) (s := ‹State›) ?_ ?_; unfold x; rotate_left; intro hx; clear_value x
    | (try lift_lets); intro x; clear_value x
    | split
    | dsimp only

theorem execScopeLifetimeEnd_kept {s0 : State} (s : State) (hk : Kept s0 s) : KeptRes s0 (execScopeLifetimeEnd s) := by
  delta execScopeLifetimeEnd
  repeat' first
    | with_reducible assumption
    | with_reducible apply kept_next
    | with_reducible apply closeScope_kept
    | split
    | dsimp only

theorem execKeySet_kept {s0 : State} (src : MctpSrc) (tag : BitVec 16) (tok : List Byte) (s : State) (hk : Kept s0 s) : KeptRes s0 (execKeySet src tag tok s) := by
  delta execKeySet
  dsimp only
  repeat' first
    | with_reducible assumption
    | with_reducible apply kept_next
    | with_reducible apply tokenCmd_kept
    | refine fun _ => ?_
    | split
    | simp -zeta only [kept_mk]
    | with_reducible apply kept_mkSec
    | exact Nat.le_refl _
    | exact Nat.le_max_left ..
    | dsimp only

theorem execBypass_kept {s0 : State} (s : State) (hk : Kept s0 s) : KeptRes s0 (execBypass s) := by
  delta execBypass
  repeat' first
    | with_reducible assumption
    | with_reducible apply kept_next
    | with_reducible apply tapBypass_kept
    | dsimp only

theorem execGetEndpointId_kept {s0 : State} (src : MctpSrc) (s : State) (hk : Kept s0 s) : KeptRes s0 (execGetEndpointId src s) := by
  delta execGetEndpointId
  repeat' first
    | with_reducible assumption
    | with_reducible apply kept_next
    | with_reducible apply control_kept
    | dsimp only

theorem execTransfer_kept {s0 : State} (src : MctpSrc) (tag : BitVec 16) (tok : List Byte) (s : State) (hk : Kept s0 s) : KeptRes s0 (execTransfer src tag tok s) := by
  delta execTransfer
  repeat' first
    | with_reducible assumption
    | with_reducible apply kept_next
    | with_reducible apply tokenCmd_kept
    | with_reducible apply ownership_kept
    | refine fun _ => ?_
    | dsimp only

theorem execHput_kept {s0 : State} (e : EngineId) (ue : Bool) (s : State) (hk : Kept s0 s) : KeptRes s0 (execHput e ue s) := by
  delta execHput
  repeat' first
    | with_reducible assumption
    | with_reducible apply kept_next
    | with_reducible apply onOp_kept
    | with_reducible apply finish_kept
    | with_reducible apply memCheck_kept
    | with_reducible apply memStore_kept
    | refine fun _ => ?_
    | (try lift_lets); intro x; refine kept_have (s0 := s0) (s := (‹Nat × State›).2) ?_ ?_; unfold x; rotate_left; intro hx; clear_value x
    | (try lift_lets); intro x; clear_value x
    | split
    | dsimp only

theorem execTapChallenge_kept {s0 : State} (s : State) (hk : Kept s0 s) : KeptRes s0 (execTapChallenge s) := by
  delta execTapChallenge
  repeat' first
    | with_reducible assumption
    | with_reducible apply kept_next
    | with_reducible apply tapReturn_kept
    | with_reducible apply tick_kept
    | with_reducible apply tapBypass_kept
    | (try lift_lets); intro x; clear_value x
    | split
    | simp -zeta only [kept_mk]
    | dsimp only

theorem execEndSession_kept {s0 : State} (sess : BitVec 16) (s : State) (hk : Kept s0 s) : KeptRes s0 (execEndSession sess s) := by
  delta execEndSession
  repeat' first
    | with_reducible assumption
    | with_reducible apply kept_next
    | (try lift_lets); intro x; clear_value x
    | simp -zeta only [kept_mk]
    | dsimp only

theorem execSevereOvercurrent_kept {s0 : State} (c : ChannelId) (isense : BitVec 10) (s : State) (hk : Kept s0 s) : KeptRes s0 (execSevereOvercurrent c isense s) := by
  delta execSevereOvercurrent
  repeat' first
    | with_reducible assumption
    | with_reducible apply kept_next
    | with_reducible apply slotTrip_kept
    | with_reducible apply setSlot_kept
    | (try lift_lets); intro x; clear_value x
    | split
    | dsimp only

theorem execRelease_kept {s0 : State} (src : MctpSrc) (tag : BitVec 16) (tok : List Byte) (s : State) (hk : Kept s0 s) : KeptRes s0 (execRelease src tag tok s) := by
  delta execRelease
  repeat' first
    | with_reducible assumption
    | with_reducible apply kept_next
    | with_reducible apply tokenCmd_kept
    | with_reducible apply ownership_kept
    | refine fun _ => ?_
    | dsimp only

theorem execFwStagingTimeout_kept {s0 : State} (s : State) (hk : Kept s0 s) : KeptRes s0 (execFwStagingTimeout s) := by
  delta execFwStagingTimeout
  repeat' first
    | with_reducible assumption
    | with_reducible apply kept_next
    | with_reducible apply setTarget_kept
    | (try lift_lets); intro x; refine kept_have (s0 := s0) (s := ‹State›) ?_ ?_; unfold x; rotate_left; intro hx; clear_value x
    | (try lift_lets); intro x; clear_value x
    | split
    | simp -zeta only [kept_mk]
    | dsimp only

theorem execGetDigests_kept {s0 : State} (via : SpdmVia) (s : State) (hk : Kept s0 s) : KeptRes s0 (execGetDigests via s) := by
  delta execGetDigests
  repeat' first
    | with_reducible assumption
    | with_reducible apply kept_next
    | with_reducible apply spdm_kept
    | with_reducible apply spdmSend_kept
    | refine fun _ => ?_
    | dsimp only

theorem execSvnRaise_kept {s0 : State} (src : MctpSrc) (tag : BitVec 16) (tok : List Byte) (s : State) (hk : Kept s0 s) : KeptRes s0 (execSvnRaise src tag tok s) := by
  delta execSvnRaise
  dsimp only
  repeat' first
    | with_reducible assumption
    | with_reducible apply kept_next
    | with_reducible apply tokenCmd_kept
    | refine fun _ => ?_
    | split
    | simp -zeta only [kept_mk]
    | with_reducible apply kept_mkSec
    | exact Nat.le_refl _
    | exact Nat.le_max_left ..
    | dsimp only

theorem execGetCertificate_kept {s0 : State} (via : SpdmVia) (slot : Fin 8) (s : State) (hk : Kept s0 s) : KeptRes s0 (execGetCertificate via slot s) := by
  delta execGetCertificate
  repeat' first
    | with_reducible assumption
    | with_reducible apply kept_next
    | with_reducible apply spdm_kept
    | with_reducible apply spdmSend_kept
    | refine fun _ => ?_
    | split
    | dsimp only

theorem execEnginePause_kept {s0 : State} (s : State) (hk : Kept s0 s) : KeptRes s0 (execEnginePause s) := by
  delta execEnginePause
  repeat' first
    | with_reducible assumption
    | with_reducible apply kept_next
    | with_reducible apply switchMeasure_kept
    | split
    | simp -zeta only [kept_mk]
    | dsimp only

theorem execSlotLimit_kept {s0 : State} (c : ChannelId) (isense : BitVec 10) (vds : Nat) (s : State) (hk : Kept s0 s) : KeptRes s0 (execSlotLimit c isense vds s) := by
  delta execSlotLimit
  repeat' first
    | with_reducible assumption
    | with_reducible apply kept_next
    | with_reducible apply setSlot_kept
    | with_reducible apply raiseEvent_kept
    | (try lift_lets); intro x; clear_value x
    | split
    | dsimp only

theorem execEnLowOff_kept {s0 : State} (c : ChannelId) (s : State) (hk : Kept s0 s) : KeptRes s0 (execEnLowOff c s) := by
  delta execEnLowOff
  repeat' first
    | with_reducible assumption
    | with_reducible apply kept_next
    | with_reducible apply slotOffTo_kept
    | with_reducible apply raiseEvent_kept
    | with_reducible apply setSlot_kept
    | (try lift_lets); intro x; refine kept_have (s0 := s0) (s := ‹State›) ?_ ?_; unfold x; rotate_left; intro hx; clear_value x
    | (try lift_lets); intro x; clear_value x
    | split
    | dsimp only

theorem slotOnReturn_kept {s0 : State} (s : State) (c : Nat) (hk : Kept s0 s) : Kept s0 (slotOnReturn s c) := by
  delta slotOnReturn
  repeat' first
    | with_reducible assumption
    | with_reducible apply finish_kept
    | with_reducible apply kept_foldl
    | refine fun _ => ?_
    | (try lift_lets); intro x; clear_value x
    | split
    | dsimp only

theorem execSlotPg_kept {s0 : State} (c : ChannelId) (adc : SlotAdc) (vds : Nat) (s : State) (hk : Kept s0 s) : KeptRes s0 (execSlotPg c adc vds s) := by
  delta execSlotPg
  repeat' first
    | with_reducible assumption
    | with_reducible apply kept_next
    | with_reducible apply setSlot_kept
    | with_reducible apply slotOnReturn_kept
    | with_reducible apply raiseEvent_kept
    | (try lift_lets); intro x; refine kept_have (s0 := s0) (s := ‹State›) ?_ ?_; unfold x; rotate_left; intro hx; clear_value x
    | (try lift_lets); intro x; clear_value x
    | split
    | dsimp only

theorem execAdmitRead_kept {s0 : State} (src : MctpSrc) (tag : BitVec 16) (s : State) (hk : Kept s0 s) : KeptRes s0 (execAdmitRead src tag s) := by
  delta execAdmitRead
  repeat' first
    | with_reducible assumption
    | with_reducible apply kept_next
    | with_reducible apply merVendor_kept
    | with_reducible apply mgmtAnswer_kept
    | refine fun _ => ?_
    | dsimp only

theorem execFwBegin_kept {s0 : State} (src : MctpSrc) (tag : BitVec 16) (cart : List Byte) (s : State) (hk : Kept s0 s) : KeptRes s0 (execFwBegin src tag cart s) := by
  delta execFwBegin
  repeat' first
    | with_reducible assumption
    | with_reducible apply kept_next
    | with_reducible apply merVendor_kept
    | with_reducible apply mgmtAnswer_kept
    | with_reducible apply setTarget_kept
    | refine fun _ => ?_
    | (try lift_lets); intro x; refine kept_have (s0 := s0) (s := ‹State›) ?_ ?_; unfold x; rotate_left; intro hx; clear_value x
    | (try lift_lets); intro x; clear_value x
    | split
    | simp -zeta only [kept_mk]
    | dsimp only

theorem execHget_kept {s0 : State} (e : EngineId) (s : State) (hk : Kept s0 s) : KeptRes s0 (execHget e s) := by
  delta execHget
  repeat' first
    | with_reducible assumption
    | with_reducible apply kept_next
    | with_reducible apply onOp_kept
    | with_reducible apply finish_kept
    | with_reducible apply memCheck_kept
    | with_reducible apply setEngine_kept
    | with_reducible apply memAsk_kept
    | refine memLocal_out ‹_› ?_
    | refine fun _ => ?_
    | (try lift_lets); intro x; refine kept_have (s0 := s0) (s := (‹Nat × State›).2) ?_ ?_; unfold x; rotate_left; intro hx; clear_value x
    | (try lift_lets); intro x; clear_value x
    | split
    | dsimp only

theorem execMerStewardHold_kept {s0 : State} (e : EngineId) (s : State) (hk : Kept s0 s) : KeptRes s0 (execMerStewardHold e s) := by
  delta execMerStewardHold
  repeat' first
    | with_reducible assumption
    | with_reducible apply kept_next
    | with_reducible apply merStewardAct_kept
    | refine fun _ => ?_
    | (try lift_lets); intro x; clear_value x
    | simp -zeta only [kept_mk]
    | dsimp only

theorem execMerStewardReset_kept {s0 : State} (e : EngineId) (s : State) (hk : Kept s0 s) : KeptRes s0 (execMerStewardReset e s) := by
  delta execMerStewardReset
  repeat' first
    | with_reducible assumption
    | with_reducible apply kept_next
    | with_reducible apply merStewardAct_kept
    | refine fun _ => ?_
    | (try lift_lets); intro x; clear_value x
    | split
    | simp -zeta only [kept_mk]
    | dsimp only

theorem execSlotOn_kept {s0 : State} (e : EngineId) (adc : SlotAdc) (s : State) (hk : Kept s0 s) : KeptRes s0 (execSlotOn e adc s) := by
  delta execSlotOn
  repeat' first
    | with_reducible assumption
    | with_reducible apply kept_next
    | with_reducible apply macroThen_kept
    | with_reducible apply finish_kept
    | with_reducible apply setSlot_kept
    | with_reducible apply setEngine_kept
    | with_reducible apply slotCmdOn_kept
    | refine fun _ => ?_
    | (try lift_lets); intro x; clear_value x
    | split
    | dsimp only

theorem execSlotStatus_kept {s0 : State} (e : EngineId) (adc : SlotAdc) (s : State) (hk : Kept s0 s) : KeptRes s0 (execSlotStatus e adc s) := by
  delta execSlotStatus
  repeat' first
    | with_reducible assumption
    | with_reducible apply kept_next
    | with_reducible apply macroOp_kept
    | with_reducible apply setSlot_kept
    | refine fun _ => ?_
    | (try lift_lets); intro x; refine kept_have (s0 := s0) (s := ‹State›) ?_ ?_; unfold x; rotate_left; intro hx; clear_value x
    | (try lift_lets); intro x; clear_value x
    | split
    | dsimp only

theorem prioLost_kept {s0 : State} (s : State) (c : Nat) (v : Entry) (h : SlotCh) (hk : Kept s0 s) : Kept s0 (prioLost s c v h) := by
  delta prioLost
  repeat' first
    | with_reducible assumption
    | with_reducible apply handoverBegin_kept
    | with_reducible apply setSlot_kept
    | split
    | dsimp only

theorem execFeedInvalid_kept {s0 : State} (c : ChannelId) (feed : Fin 2) (dv : BitVec 10) (s : State) (hk : Kept s0 s) : KeptRes s0 (execFeedInvalid c feed dv s) := by
  delta execFeedInvalid
  repeat' first
    | with_reducible assumption
    | with_reducible apply kept_next
    | with_reducible apply setSlot_kept
    | with_reducible apply raiseEvent_kept
    | with_reducible apply slotStarve_kept
    | with_reducible apply prioLost_kept
    | (try lift_lets); intro x; refine kept_have (s0 := s0) (s := ‹State›) ?_ ?_; unfold x; rotate_left; intro hx; clear_value x
    | (try lift_lets); intro x; clear_value x
    | intro _
    | split
    | dsimp only

theorem execReverse_kept {s0 : State} (c : ChannelId) (feed : Fin 2) (s : State) (hk : Kept s0 s) : KeptRes s0 (execReverse c feed s) := by
  delta execReverse
  repeat' first
    | with_reducible assumption
    | with_reducible apply kept_next
    | with_reducible apply prioLost_kept
    | with_reducible apply raiseEvent_kept
    | with_reducible apply setSlot_kept
    | (try lift_lets); intro x; clear_value x
    | intro _
    | split
    | dsimp only

theorem execRampDone_kept {s0 : State} (c : ChannelId) (vds : Nat) (s : State) (hk : Kept s0 s) : KeptRes s0 (execRampDone c vds s) := by
  delta execRampDone
  repeat' first
    | with_reducible assumption
    | with_reducible apply kept_next
    | with_reducible apply raiseEvent_kept
    | with_reducible apply setSlot_kept
    | (try lift_lets); intro x; refine kept_have (s0 := s0) (s := ‹State›) ?_ ?_; unfold x; rotate_left; intro hx; clear_value x
    | (try lift_lets); intro x; clear_value x
    | split
    | dsimp only

theorem execVoutLow_kept {s0 : State} (c : ChannelId) (dv : BitVec 10) (s : State) (hk : Kept s0 s) : KeptRes s0 (execVoutLow c dv s) := by
  delta execVoutLow
  repeat' first
    | with_reducible assumption
    | with_reducible apply kept_next
    | with_reducible apply perstAssert_kept
    | with_reducible apply setSlot_kept
    | with_reducible apply raiseEvent_kept
    | (try lift_lets); intro x; refine kept_have (s0 := s0) (s := ‹State›) ?_ ?_; unfold x; rotate_left; intro hx; clear_value x
    | (try lift_lets); intro x; clear_value x
    | split
    | dsimp only

theorem execLimitCountReset_kept {s0 : State} (c : ChannelId) (s : State) (hk : Kept s0 s) : KeptRes s0 (execLimitCountReset c s) := by
  delta execLimitCountReset
  repeat' first
    | with_reducible assumption
    | with_reducible apply kept_next
    | with_reducible apply setSlot_kept
    | (try lift_lets); intro x; clear_value x
    | split
    | dsimp only

theorem execVddPcdUndervoltage_kept {s0 : State} (s : State) (hk : Kept s0 s) : KeptRes s0 (execVddPcdUndervoltage s) := by
  delta execVddPcdUndervoltage
  repeat' first
    | with_reducible assumption
    | with_reducible apply kept_next
    | with_reducible apply slotsReset_kept
    | dsimp only

theorem execSpdmHeartbeatTimeout_kept {s0 : State} (sess : BitVec 16) (s : State) (hk : Kept s0 s) : KeptRes s0 (execSpdmHeartbeatTimeout sess s) := by
  delta execSpdmHeartbeatTimeout
  repeat' first
    | with_reducible assumption
    | with_reducible apply kept_next
    | (try lift_lets); intro x; clear_value x
    | split
    | simp -zeta only [kept_mk]
    | dsimp only

theorem execGetEndpointUuid_kept {s0 : State} (src : MctpSrc) (s : State) (hk : Kept s0 s) : KeptRes s0 (execGetEndpointUuid src s) := by
  delta execGetEndpointUuid
  repeat' first
    | with_reducible assumption
    | with_reducible apply kept_next
    | with_reducible apply control_kept
    | dsimp only

theorem execGetMctpVersionSupport_kept {s0 : State} (src : MctpSrc) (s : State) (hk : Kept s0 s) : KeptRes s0 (execGetMctpVersionSupport src s) := by
  delta execGetMctpVersionSupport
  repeat' first
    | with_reducible assumption
    | with_reducible apply kept_next
    | with_reducible apply control_kept
    | dsimp only

theorem execGetMessageTypeSupport_kept {s0 : State} (src : MctpSrc) (s : State) (hk : Kept s0 s) : KeptRes s0 (execGetMessageTypeSupport src s) := by
  delta execGetMessageTypeSupport
  repeat' first
    | with_reducible assumption
    | with_reducible apply kept_next
    | with_reducible apply control_kept
    | dsimp only

theorem execGetVendorDefinedMessageSupport_kept {s0 : State} (src : MctpSrc) (s : State) (hk : Kept s0 s) : KeptRes s0 (execGetVendorDefinedMessageSupport src s) := by
  delta execGetVendorDefinedMessageSupport
  repeat' first
    | with_reducible assumption
    | with_reducible apply kept_next
    | with_reducible apply control_kept
    | dsimp only

theorem execLegend_kept {s0 : State} (src : MctpSrc) (tag : BitVec 16) (s : State) (hk : Kept s0 s) : KeptRes s0 (execLegend src tag s) := by
  delta execLegend
  repeat' first
    | with_reducible assumption
    | with_reducible apply kept_next
    | with_reducible apply vendor_kept
    | with_reducible apply mgmtAnswer_kept
    | refine fun _ => ?_
    | dsimp only

theorem execAdmitWrite_kept {s0 : State} (src : MctpSrc) (tag : BitVec 16) (mask : BitVec 96) (s : State) (hk : Kept s0 s) : KeptRes s0 (execAdmitWrite src tag mask s) := by
  delta execAdmitWrite
  dsimp only
  repeat' first
    | with_reducible assumption
    | with_reducible apply kept_next
    | with_reducible apply merVendor_kept
    | with_reducible apply mgmtAnswer_kept
    | refine fun _ => ?_
    | simp -zeta only [kept_mk]
    | with_reducible apply kept_mkSec
    | exact Nat.le_refl _
    | exact Nat.le_max_left ..
    | dsimp only

theorem execFwEnd_kept {s0 : State} (src : MctpSrc) (tag : BitVec 16) (s : State) (hk : Kept s0 s) : KeptRes s0 (execFwEnd src tag s) := by
  delta execFwEnd
  repeat' first
    | with_reducible assumption
    | with_reducible apply kept_next
    | with_reducible apply merVendor_kept
    | with_reducible apply mgmtAnswer_kept
    | with_reducible apply setTarget_kept
    | refine fun _ => ?_
    | (try lift_lets); intro x; refine kept_have (s0 := s0) (s := ‹State›) ?_ ?_; unfold x; rotate_left; intro hx; clear_value x
    | (try lift_lets); intro x; clear_value x
    | intro _
    | split
    | simp -zeta only [kept_mk]
    | dsimp only

theorem execFwActivateLive_kept {s0 : State} (src : MctpSrc) (tag : BitVec 16) (ms : BitVec 16) (s : State) (hk : Kept s0 s) : KeptRes s0 (execFwActivateLive src tag ms s) := by
  delta execFwActivateLive
  repeat' first
    | with_reducible assumption
    | with_reducible apply kept_next
    | with_reducible apply merVendor_kept
    | with_reducible apply mgmtAnswer_kept
    | with_reducible apply hbmWrite_kept
    | with_reducible apply emit_kept
    | refine fun _ => ?_
    | (try lift_lets); intro x; refine kept_have (s0 := s0) (s := ‹State›) ?_ ?_; unfold x; rotate_left; intro hx; clear_value x
    | (try lift_lets); intro x; clear_value x
    | split
    | simp -zeta only [kept_mk]
    | dsimp only

theorem execFwActivatePreferred_kept {s0 : State} (src : MctpSrc) (tag : BitVec 16) (s : State) (hk : Kept s0 s) : KeptRes s0 (execFwActivatePreferred src tag s) := by
  delta execFwActivatePreferred
  dsimp only
  repeat' first
    | with_reducible assumption
    | with_reducible apply kept_next
    | with_reducible apply merVendor_kept
    | with_reducible apply mgmtAnswer_kept
    | refine fun _ => ?_
    | split
    | simp -zeta only [kept_mk]
    | with_reducible apply kept_mkSec
    | exact Nat.le_refl _
    | exact Nat.le_max_left ..
    | dsimp only

theorem execPolicy_kept {s0 : State} (src : MctpSrc) (tag : BitVec 16) (tok : List Byte) (s : State) (hk : Kept s0 s) : KeptRes s0 (execPolicy src tag tok s) := by
  delta execPolicy
  dsimp only
  repeat' first
    | with_reducible assumption
    | with_reducible apply kept_next
    | with_reducible apply tokenCmd_kept
    | with_reducible apply closeScope_kept
    | refine fun _ => ?_
    | split
    | simp -zeta only [kept_mk]
    | with_reducible apply kept_mkSec
    | exact Nat.le_refl _
    | exact Nat.le_max_left ..
    | dsimp only

theorem execFieldLock_kept {s0 : State} (src : MctpSrc) (tag : BitVec 16) (tok : List Byte) (s : State) (hk : Kept s0 s) : KeptRes s0 (execFieldLock src tag tok s) := by
  delta execFieldLock
  dsimp only
  repeat' first
    | with_reducible assumption
    | with_reducible apply kept_next
    | with_reducible apply tokenCmd_kept
    | refine fun _ => ?_
    | simp -zeta only [kept_mk]
    | with_reducible apply kept_mkSec
    | exact Nat.le_refl _
    | exact Nat.le_max_left ..
    | dsimp only

theorem execGetVersion_kept {s0 : State} (via : SpdmVia) (s : State) (hk : Kept s0 s) : KeptRes s0 (execGetVersion via s) := by
  delta execGetVersion
  repeat' first
    | with_reducible assumption
    | with_reducible apply kept_next
    | with_reducible apply spdm_kept
    | with_reducible apply spdmSend_kept
    | refine fun _ => ?_
    | (try lift_lets); intro x; clear_value x
    | simp -zeta only [kept_mk]
    | dsimp only

theorem execGetCapabilities_kept {s0 : State} (via : SpdmVia) (s : State) (hk : Kept s0 s) : KeptRes s0 (execGetCapabilities via s) := by
  delta execGetCapabilities
  repeat' first
    | with_reducible assumption
    | with_reducible apply kept_next
    | with_reducible apply spdm_kept
    | with_reducible apply spdmSend_kept
    | refine fun _ => ?_
    | (try lift_lets); intro x; clear_value x
    | simp -zeta only [kept_mk]
    | dsimp only

theorem execNegotiateAlgorithms_kept {s0 : State} (via : SpdmVia) (s : State) (hk : Kept s0 s) : KeptRes s0 (execNegotiateAlgorithms via s) := by
  delta execNegotiateAlgorithms
  repeat' first
    | with_reducible assumption
    | with_reducible apply kept_next
    | with_reducible apply spdm_kept
    | with_reducible apply spdmSend_kept
    | refine fun _ => ?_
    | (try lift_lets); intro x; clear_value x
    | simp -zeta only [kept_mk]
    | dsimp only

theorem execGetMeasurements_kept {s0 : State} (via : SpdmVia) (idx : BitVec 8) (s : State) (hk : Kept s0 s) : KeptRes s0 (execGetMeasurements via idx s) := by
  delta execGetMeasurements
  repeat' first
    | with_reducible assumption
    | with_reducible apply kept_next
    | with_reducible apply spdm_kept
    | with_reducible apply spdmSend_kept
    | refine fun _ => ?_
    | (try lift_lets); intro x; clear_value x
    | split
    | dsimp only

theorem execHeartbeat_kept {s0 : State} (sess : BitVec 16) (s : State) (hk : Kept s0 s) : KeptRes s0 (execHeartbeat sess s) := by
  delta execHeartbeat
  repeat' first
    | with_reducible assumption
    | with_reducible apply kept_next
    | with_reducible apply onSession_kept
    | dsimp only

theorem execKeyUpdate_kept {s0 : State} (sess : BitVec 16) (s : State) (hk : Kept s0 s) : KeptRes s0 (execKeyUpdate sess s) := by
  delta execKeyUpdate
  repeat' first
    | with_reducible assumption
    | with_reducible apply kept_next
    | with_reducible apply onSession_kept
    | dsimp only

theorem execUnlockTokenVerdict_kept {s0 : State} (s : State) (hk : Kept s0 s) : KeptRes s0 (execUnlockTokenVerdict s) := by
  delta execUnlockTokenVerdict
  repeat' first
    | with_reducible assumption
    | with_reducible apply kept_next
    | with_reducible apply raiseEvent_kept
    | (try lift_lets); intro x; refine kept_have (s0 := s0) (s := ‹State›) ?_ ?_; unfold x; rotate_left; intro hx; clear_value x
    | (try lift_lets); intro x; clear_value x
    | split
    | simp -zeta only [kept_mk]
    | dsimp only

theorem execAccessRead_kept {s0 : State} (space : BitVec 8) (nwords : BitVec 8) (q : Word) (answer : Fin 3) (data : List Byte) (s : State) (hk : Kept s0 s) : KeptRes s0 (execAccessRead space nwords q answer data s) := by
  delta execAccessRead
  repeat' first
    | with_reducible assumption
    | with_reducible apply kept_next
    | with_reducible apply access_kept
    | dsimp only

theorem execCore_kept {s0 : State} (addr : BitVec 7) (wr : Bool) (v : BitVec 32) (s : State) (hk : Kept s0 s) : KeptRes s0 (execCore addr wr v s) := by
  delta execCore
  repeat' first
    | with_reducible assumption
    | with_reducible apply kept_next
    | with_reducible apply tapReturn_kept
    | with_reducible apply tick_kept
    | with_reducible apply tapBypass_kept
    | (try lift_lets); intro x; clear_value x
    | split
    | dsimp only

theorem execTapClose_kept {s0 : State} (s : State) (hk : Kept s0 s) : KeptRes s0 (execTapClose s) := by
  delta execTapClose
  repeat' first
    | with_reducible assumption
    | with_reducible apply kept_next
    | with_reducible apply closeScope_kept
    | (try lift_lets); intro x; clear_value x
    | simp -zeta only [kept_mk]
    | dsimp only

end Sys2Proof.Machine
end

