-- ==== Sys2Proof/Laws/KeptFabric.lean ====
section
/-! SUPPORT. What the Graticule and the switch core keep of the state (Kept): one lemma per operation and meaning. -/
namespace Sys2Proof.Machine

theorem feedChange_kept {s0 : State} (s : State) (n : Nat) (subj : Nat) (old : Nat) (new : Nat) (hk : Kept s0 s) : Kept s0 (feedChange s n subj old new) := by
  delta feedChange
  repeat' first
    | with_reducible assumption
    | with_reducible apply feedGauge_kept
    | split
    | dsimp only

theorem setSlice_kept {s0 : State} (s : State) (g : Nat) (x : Slice) (hk : Kept s0 s) : Kept s0 (setSlice s g x) := by
  delta setSlice
  repeat' first
    | with_reducible assumption
    | with_reducible apply feedChange_kept
    | (try lift_lets); intro x; clear_value x
    | simp -zeta only [kept_mk]
    | dsimp only

theorem modBridge_kept {s0 : State} (s : State) (k : Nat) (f : Bridge → Bridge) (hk : Kept s0 s) : Kept s0 (modBridge s k f) := by
  delta modBridge
  repeat' first
    | with_reducible assumption
    | simp -zeta only [kept_mk]
    | dsimp only

theorem aerReport_kept {s0 : State} (s : State) (k : Nat) (bit : Nat) (hdr : List Byte) (hk : Kept s0 s) : Kept s0 (aerReport s k bit hdr) := by
  delta aerReport
  repeat' first
    | with_reducible assumption
    | with_reducible apply modBridge_kept
    | with_reducible apply emit_kept
    | (try lift_lets); intro x; refine kept_have (s0 := s0) (s := ‹State›) ?_ ?_; unfold x; rotate_left; intro hx; clear_value x
    | split
    | dsimp only

theorem internalUe_kept {s0 : State} (s : State) (vs : List Nat) (hk : Kept s0 s) : Kept s0 (internalUe s vs) := by
  delta internalUe
  repeat' first
    | with_reducible assumption
    | with_reducible apply raiseEvent_kept
    | with_reducible apply aerReport_kept
    | with_reducible apply kept_foldl
    | refine fun _ => ?_
    | dsimp only

theorem setRouter_kept {s0 : State} (s : State) (pl : Nat) (r : Nat) (x : Router) (hk : Kept s0 s) : Kept s0 (setRouter s pl r x) := by
  delta setRouter
  repeat' first
    | with_reducible assumption
    | simp -zeta only [kept_mk]
    | dsimp only

theorem traceAt_kept {s0 : State} (s : State) (pl : Nat) (r : Nat) (point : Nat) (input : Nat) (p : Packet) (hk : Kept s0 s) : Kept s0 (traceAt s pl r point input p) := by
  delta traceAt
  repeat' first
    | with_reducible assumption
    | with_reducible apply kept_foldl
    | refine fun _ => ?_
    | (try lift_lets); intro x; clear_value x
    | split
    | simp -zeta only [kept_mk]
    | dsimp only

theorem inject_kept {s0 : State} (s : State) (p : Packet) (hk : Kept s0 s) : Kept s0 (inject s p) := by
  delta inject
  repeat' first
    | with_reducible assumption
    | with_reducible apply setRouter_kept
    | (try lift_lets); intro x; clear_value x
    | split
    | dsimp only

theorem errTxn_kept {s0 : State} (s : State) (i : Nat) (src : Nat) (dst : Nat) (rstat : Nat) (hk : Kept s0 s) : Kept s0 (errTxn s i src dst rstat) := by
  delta errTxn
  repeat' first
    | with_reducible assumption
    | with_reducible apply setTxn_kept
    | (try lift_lets); intro x; clear_value x
    | dsimp only

theorem proxyTake_kept {s0 : State} (s : State) (pl : Nat) (r : Nat) (p : Packet) (hk : Kept s0 s) : Kept s0 (proxyTake s pl r p) := by
  delta proxyTake
  repeat' first
    | with_reducible assumption
    | with_reducible apply errTxn_kept
    | with_reducible apply setEndp_kept
    | with_reducible apply count_kept
    | with_reducible apply dropTxn_kept
    | (try lift_lets); intro x; refine kept_have (s0 := s0) (s := ‹State›) ?_ ?_; unfold x; rotate_left; intro hx; clear_value x
    | (try lift_lets); intro x; clear_value x
    | split
    | dsimp only

theorem setStream_kept {s0 : State} (s : State) (k : Nat) (x : Stream) (hk : Kept s0 s) : Kept s0 (setStream s k x) := by
  delta setStream
  repeat' first
    | with_reducible assumption
    | simp -zeta only [kept_mk]
    | dsimp only

theorem sendRel_kept {s0 : State} (s : State) (src : Nat) (dst : Nat) (oc : Nat) (hk : Kept s0 s) : Kept s0 (sendRel s src dst oc) := by
  delta sendRel
  repeat' first
    | with_reducible assumption
    | with_reducible apply setStream_kept
    | with_reducible apply count_kept
    | with_reducible apply inject_kept
    | (try lift_lets); intro x; refine kept_have (s0 := s0) (s := ‹State›) ?_ ?_; unfold x; rotate_left; intro hx; clear_value x
    | (try lift_lets); intro x; clear_value x
    | split
    | dsimp only

theorem gone_kept {s0 : State} (s : State) (p : Nat) (i : Nat) (hk : Kept s0 s) : Kept s0 (gone s p i) := by
  delta gone
  repeat' first
    | with_reducible assumption
    | with_reducible apply countPort_kept
    | with_reducible apply dropTxn_kept
    | with_reducible apply setTxn_kept
    | (try lift_lets); intro x; refine kept_have (s0 := s0) (s := ‹State›) ?_ ?_; unfold x; rotate_left; intro hx; clear_value x
    | (try lift_lets); intro x; clear_value x
    | split
    | dsimp only

theorem sendPart_kept {s0 : State} (s : State) (p : Nat) (i : Nat) (hk : Kept s0 s) : Kept s0 (sendPart s p i) := by
  delta sendPart
  repeat' first
    | with_reducible assumption
    | with_reducible apply setTxn_kept
    | with_reducible apply emit_kept
    | (try lift_lets); intro x; refine kept_have (s0 := s0) (s := ‹State›) ?_ ?_; unfold x; rotate_left; intro hx; clear_value x
    | (try lift_lets); intro x; clear_value x
    | split
    | dsimp only

theorem leavePort_kept {s0 : State} (s : State) (p : Nat) (i : Nat) (hk : Kept s0 s) : Kept s0 (leavePort s p i) := by
  delta leavePort
  repeat' first
    | with_reducible assumption
    | with_reducible apply gone_kept
    | with_reducible apply emit_kept
    | (try lift_lets); intro x; clear_value x
    | split
    | dsimp only

theorem tryLeave_kept {s0 : State} (s : State) (p : Nat) (i : Nat) (hk : Kept s0 s) : Kept s0 (tryLeave s p i) := by
  delta tryLeave
  repeat' first
    | with_reducible assumption
    | with_reducible apply count_kept
    | with_reducible apply dropTxn_kept
    | with_reducible apply gone_kept
    | with_reducible apply sendPart_kept
    | with_reducible apply leavePort_kept
    | (try lift_lets); intro x; clear_value x
    | split
    | dsimp only

theorem egressFlush_kept {s0 : State} (s : State) (p : Nat) (hk : Kept s0 s) : Kept s0 (egressFlush s p) := by
  delta egressFlush
  repeat' first
    | with_reducible assumption
    | with_reducible apply tryLeave_kept
    | with_reducible apply kept_foldl
    | refine fun _ => ?_
    | (try lift_lets); intro x; refine kept_have (s0 := s0) (s := ‹State›) ?_ ?_; unfold x; rotate_left; intro hx; clear_value x
    | (try lift_lets); intro x; clear_value x
    | dsimp only

theorem closeTxn_kept {s0 : State} (s : State) (p : Packet) (hk : Kept s0 s) : Kept s0 (closeTxn s p) := by
  delta closeTxn
  repeat' first
    | with_reducible assumption
    | with_reducible apply count_kept
    | with_reducible apply dropTxn_kept
    | with_reducible apply egressFlush_kept
    | with_reducible apply emit_kept
    | (try lift_lets); intro x; refine kept_have (s0 := s0) (s := ‹State›) ?_ ?_; unfold x; rotate_left; intro hx; clear_value x
    | (try lift_lets); intro x; clear_value x
    | split
    | dsimp only

theorem closeHome_kept {s0 : State} (s : State) (t : Txn) (src : Nat) (rstat : Nat) (hk : Kept s0 s) : Kept s0 (closeHome s t src rstat) := by
  delta closeHome
  repeat' first
    | with_reducible assumption
    | with_reducible apply newTxn_kept
    | (try lift_lets); intro x; clear_value x
    | split
    | dsimp only

theorem sinkReply_kept {s0 : State} (s : State) (p : Nat) (i : Nat) (hk : Kept s0 s) : Kept s0 (sinkReply s p i) := by
  delta sinkReply
  repeat' first
    | with_reducible assumption
    | with_reducible apply closeHome_kept
    | with_reducible apply count_kept
    | with_reducible apply dropTxn_kept
    | dsimp only

theorem gather_kept {s0 : State} (s : State) (i : Nat) (hk : Kept s0 s) : Kept s0 (gather s i) := by
  delta gather
  repeat' first
    | with_reducible assumption
    | with_reducible apply closeHome_kept
    | with_reducible apply dropTxn_kept
    | with_reducible apply setTxn_kept
    | with_reducible apply lineUp_kept
    | (try lift_lets); intro x; refine kept_have (s0 := s0) (s := ‹State›) ?_ ?_; unfold x; rotate_left; intro hx; clear_value x
    | (try lift_lets); intro x; clear_value x
    | split
    | dsimp only

theorem portEgress_kept {s0 : State} (s : State) (p : Nat) (i : Nat) (hk : Kept s0 s) : Kept s0 (portEgress s p i) := by
  delta portEgress
  repeat' first
    | with_reducible assumption
    | with_reducible apply sinkReply_kept
    | with_reducible apply gather_kept
    | with_reducible apply tryLeave_kept
    | with_reducible apply lineUp_kept
    | with_reducible apply egressFlush_kept
    | (try lift_lets); intro x; refine kept_have (s0 := s0) (s := ‹State›) ?_ ?_; unfold x; rotate_left; intro hx; clear_value x
    | (try lift_lets); intro x; clear_value x
    | split
    | dsimp only

theorem arriveReply_kept {s0 : State} (s : State) (g : Nat) (i : Nat) (hk : Kept s0 s) : Kept s0 (arriveReply s g i) := by
  delta arriveReply
  repeat' first
    | with_reducible assumption
    | with_reducible apply lineUp_kept
    | with_reducible apply setSlice_kept
    | with_reducible apply setTxn_kept
    | with_reducible apply dropTxn_kept
    | (try lift_lets); intro x; clear_value x
    | split
    | dsimp only

theorem arriveReq_kept {s0 : State} (s : State) (g : Nat) (i : Nat) (hk : Kept s0 s) : Kept s0 (arriveReq s g i) := by
  delta arriveReq
  repeat' first
    | with_reducible assumption
    | with_reducible apply setSlice_kept
    | (try lift_lets); intro x; clear_value x
    | split
    | dsimp only

theorem answer_kept {s0 : State} (s : State) (i : Nat) (cmd : Nat) (rstat : Nat) (poison : Bool) (data : List Byte) (hk : Kept s0 s) : Kept s0 (answer s i cmd rstat poison data) := by
  delta answer
  repeat' first
    | with_reducible assumption
    | with_reducible apply lineUp_kept
    | (try lift_lets); intro x; clear_value x
    | split
    | dsimp only

theorem complete_kept {s0 : State} (s : State) (i : Nat) (p : Nat) (rstat : Nat) (bs : List Byte) (hk : Kept s0 s) : Kept s0 (complete s i p rstat bs) := by
  delta complete
  repeat' first
    | with_reducible assumption
    | with_reducible apply answer_kept
    | dsimp only

theorem bridgeWrite_kept {s0 : State} (s : State) (k : Nat) (a : Nat) (w : Nat) (hk : Kept s0 s) : Kept s0 (bridgeWrite s k a w) := by
  delta bridgeWrite
  repeat' first
    | with_reducible assumption
    | with_reducible apply modBridge_kept
    | with_reducible apply emit_kept
    | (try lift_lets); intro x; refine kept_have (s0 := s0) (s := ‹State›) ?_ ?_; unfold x; rotate_left; intro hx; clear_value x
    | (try lift_lets); intro x; clear_value x
    | intro _
    | split
    | dsimp only

theorem bridgeStore_kept {s0 : State} (s : State) (k : Nat) (a : Nat) (bs : List Byte) (hk : Kept s0 s) : Kept s0 (bridgeStore s k a bs) := by
  delta bridgeStore
  repeat' first
    | with_reducible assumption
    | with_reducible apply bridgeWrite_kept
    | with_reducible apply kept_foldl
    | refine fun _ => ?_
    | dsimp only

theorem bridgeAccess_kept {s0 : State} (s : State) (i : Nat) (p : Nat) (hk : Kept s0 s) : Kept s0 (bridgeAccess s i p) := by
  delta bridgeAccess
  repeat' first
    | with_reducible assumption
    | with_reducible apply dropTxn_kept
    | with_reducible apply complete_kept
    | with_reducible apply bridgeStore_kept
    | (try lift_lets); intro x; clear_value x
    | split
    | dsimp only

theorem svcAccess_kept {s0 : State} (s : State) (i : Nat) (p : Nat) (hk : Kept s0 s) : Kept s0 (svcAccess s i p) := by
  delta svcAccess
  repeat' first
    | with_reducible assumption
    | with_reducible apply bridgeAccess_kept
    | with_reducible apply dropTxn_kept
    | with_reducible apply complete_kept
    | with_reducible apply barStore_kept
    | refine barLoad_out ‹_› ?_
    | (try lift_lets); intro x; clear_value x
    | split
    | simp -zeta only [kept_mk]
    | dsimp only

theorem arriveOther_kept {s0 : State} (s : State) (i : Nat) (hk : Kept s0 s) : Kept s0 (arriveOther s i) := by
  delta arriveOther
  repeat' first
    | with_reducible assumption
    | with_reducible apply emit_kept
    | with_reducible apply closeHome_kept
    | with_reducible apply dropTxn_kept
    | with_reducible apply setTxn_kept
    | (try lift_lets); intro x; refine kept_have (s0 := s0) (s := ‹State›) ?_ ?_; unfold x; rotate_left; intro hx; clear_value x
    | (try lift_lets); intro x; clear_value x
    | split
    | dsimp only

theorem moverLand_kept {s0 : State} (s : State) (i : Nat) (hk : Kept s0 s) : Kept s0 (moverLand s i) := by
  delta moverLand
  repeat' first
    | with_reducible assumption
    | with_reducible apply closeHome_kept
    | with_reducible apply dropTxn_kept
    | with_reducible apply count_kept
    | (try lift_lets); intro x; refine kept_have (s0 := s0) (s := ‹State›) ?_ ?_; unfold x; rotate_left; intro hx; clear_value x
    | (try lift_lets); intro x; clear_value x
    | split
    | simp -zeta only [kept_mk]
    | dsimp only

theorem hbmServe_kept {s0 : State} (s : State) (i : Nat) (hk : Kept s0 s) : Kept s0 (hbmServe s i) := by
  delta hbmServe
  repeat' first
    | with_reducible assumption
    | with_reducible apply dropTxn_kept
    | with_reducible apply answer_kept
    | with_reducible apply hbmWrite_kept
    | (try lift_lets); intro x; refine kept_have (s0 := s0) (s := ‹State›) ?_ ?_; unfold x; rotate_left; intro hx; clear_value x
    | (try lift_lets); intro x; clear_value x
    | split
    | dsimp only

theorem arriveAt_kept {s0 : State} (s : State) (i : Nat) (hk : Kept s0 s) : Kept s0 (arriveAt s i) := by
  delta arriveAt
  repeat' first
    | with_reducible assumption
    | with_reducible apply portEgress_kept
    | with_reducible apply arriveReply_kept
    | with_reducible apply arriveReq_kept
    | with_reducible apply setTxn_kept
    | with_reducible apply svcAccess_kept
    | with_reducible apply arriveOther_kept
    | with_reducible apply moverLand_kept
    | with_reducible apply hbmServe_kept
    | with_reducible apply dropTxn_kept
    | (try lift_lets); intro x; clear_value x
    | split
    | dsimp only

theorem partArrived_kept {s0 : State} (s : State) (p : Nat) (i : Nat) (hk : Kept s0 s) : Kept s0 (partArrived s p i) := by
  delta partArrived
  repeat' first
    | with_reducible assumption
    | with_reducible apply sendPart_kept
    | (try lift_lets); intro x; clear_value x
    | split
    | dsimp only

theorem release_kept {s0 : State} (s : State) (p : Packet) (hk : Kept s0 s) : Kept s0 (release s p) := by
  delta release
  repeat' first
    | with_reducible assumption
    | with_reducible apply setStream_kept
    | with_reducible apply sendRel_kept
    | with_reducible apply closeTxn_kept
    | with_reducible apply setTxn_kept
    | with_reducible apply arriveAt_kept
    | with_reducible apply partArrived_kept
    | (try lift_lets); intro x; refine kept_have (s0 := s0) (s := ‹State›) ?_ ?_; unfold x; rotate_left; intro hx; clear_value x
    | (try lift_lets); intro x; clear_value x
    | split
    | dsimp only

theorem feedEarly_kept {s0 : State} (s : State) (dst : Nat) (hk : Kept s0 s) : Kept s0 (feedEarly s dst) := by
  delta feedEarly
  repeat' first
    | with_reducible assumption
    | with_reducible apply feedGauge_kept
    | split
    | dsimp only

theorem drainEarly_kept {s0 : State} (s : State) (k : Nat) (l : Nat) (hk : Kept s0 s) : Kept s0 (drainEarly s k l) := by
  induction l generalizing s k with
  | zero => exact hk
  | succ l ih =>
    unfold drainEarly
    repeat' first
      | with_reducible assumption
      | with_reducible apply ih
      | with_reducible apply release_kept
      | with_reducible apply feedEarly_kept
      | split
      | simp -zeta only [kept_mk]
      | dsimp only

theorem resequence_kept {s0 : State} (s : State) (p : Packet) (hk : Kept s0 s) : Kept s0 (resequence s p) := by
  delta resequence
  repeat' first
    | with_reducible assumption
    | with_reducible apply release_kept
    | with_reducible apply drainEarly_kept
    | with_reducible apply feedEarly_kept
    | with_reducible apply peak_kept
    | (try lift_lets); intro x; refine kept_have (s0 := s0) (s := ‹State›) ?_ ?_; unfold x; rotate_left; intro hx; clear_value x
    | split
    | simp -zeta only [kept_mk]
    | dsimp only

theorem eject_kept {s0 : State} (s : State) (pl : Nat) (r : Nat) (input : Nat) (p : Packet) (hk : Kept s0 s) : Kept s0 (eject s pl r input p) := by
  delta eject
  repeat' first
    | with_reducible assumption
    | with_reducible apply setRouter_kept
    | with_reducible apply traceAt_kept
    | with_reducible apply count_kept
    | with_reducible apply raiseEvent_kept
    | with_reducible apply inject_kept
    | with_reducible apply errTxn_kept
    | with_reducible apply dropTxn_kept
    | with_reducible apply proxyTake_kept
    | with_reducible apply resequence_kept
    | (try lift_lets); intro x; refine kept_have (s0 := s0) (s := ‹State›) ?_ ?_; unfold x; rotate_left; intro hx; clear_value x
    | split
    | simp -zeta only [kept_mk]
    | dsimp only

theorem ejectPass_kept {s0 : State} (s : State) (pl : Nat) (r : Nat) (n : Nat) (l : List (Nat × Packet)) (hk : Kept s0 s) : Kept s0 (ejectPass s pl r n l).1 := by
  induction l generalizing s pl r n with
  | nil => exact hk
  | cons a l ih =>
    unfold ejectPass
    repeat' first
      | with_reducible assumption
      | with_reducible apply ih
      | with_reducible apply eject_kept
      | with_reducible apply count_kept
      | (try lift_lets); intro x; refine kept_have (s0 := s0) (s := ‹State›) ?_ ?_; unfold x; rotate_left; intro hx; clear_value x
      | (try lift_lets); intro x; refine kept_have (s0 := s0) (s := (‹State × List (Nat × Packet)›).1) ?_ ?_; unfold x; rotate_left; intro hx; clear_value x
      | split
      | dsimp only

theorem epochDrain_kept {s0 : State} (s : State) (n : Nat) (hk : Kept s0 s) : Kept s0 (epochDrain s n) := by
  delta epochDrain
  repeat' first
    | with_reducible assumption
    | with_reducible apply setLive_kept
    | (try lift_lets); intro x; refine kept_have (s0 := s0) (s := ‹State›) ?_ ?_; unfold x; rotate_left; intro hx; clear_value x
    | (try lift_lets); intro x; clear_value x
    | split
    | simp -zeta only [kept_mk]
    | dsimp only

theorem giveBack_kept {s0 : State} (s : State) (p : Nat) (vc : Nat) (n : Nat) (hk : Kept s0 s) : Kept s0 (giveBack s p vc n) := by
  delta giveBack
  repeat' first
    | with_reducible assumption
    | with_reducible apply emit_kept
    | split
    | simp -zeta only [kept_mk]
    | dsimp only

theorem injectOn_kept {s0 : State} (s : State) (pl : Nat) (p : Packet) (hk : Kept s0 s) : Kept s0 (injectOn s pl p) := by
  delta injectOn
  repeat' first
    | with_reducible assumption
    | with_reducible apply setRouter_kept
    | (try lift_lets); intro x; clear_value x
    | dsimp only

theorem skipTxn_kept {s0 : State} (s : State) (i : Nat) (hk : Kept s0 s) : Kept s0 (skipTxn s i) := by
  delta skipTxn
  repeat' first
    | with_reducible assumption
    | with_reducible apply setRouter_kept
    | with_reducible apply injectOn_kept
    | (try lift_lets); intro x; refine kept_have (s0 := s0) (s := ‹State›) ?_ ?_; unfold x; rotate_left; intro hx; clear_value x
    | (try lift_lets); intro x; clear_value x
    | split
    | dsimp only

theorem cancelTxn_kept {s0 : State} (s : State) (i : Nat) (hk : Kept s0 s) : Kept s0 (cancelTxn s i) := by
  delta cancelTxn
  repeat' first
    | with_reducible assumption
    | with_reducible apply dropTxn_kept
    | with_reducible apply skipTxn_kept
    | with_reducible apply setTxn_kept
    | with_reducible apply release_kept
    | with_reducible apply injectOn_kept
    | with_reducible apply setStream_kept
    | (try lift_lets); intro x; refine kept_have (s0 := s0) (s := ‹State›) ?_ ?_; unfold x; rotate_left; intro hx; clear_value x
    | (try lift_lets); intro x; clear_value x
    | intro _
    | split
    | dsimp only

theorem localMsg_kept {s0 : State} (s : State) (p : Nat) (cmd : Nat) (status : Nat) (tag : Nat) (addr : Nat) (hk : Kept s0 s) : Kept s0 (localMsg s p cmd status tag addr) := by
  delta localMsg
  repeat' first
    | with_reducible assumption
    | with_reducible apply countPort_kept
    | with_reducible apply count_kept
    | with_reducible apply emit_kept
    | dsimp only

theorem rasReport_kept {s0 : State} (s : State) (k : Nat) (bit : Nat) (hdr : List Byte) (hk : Kept s0 s) : Kept s0 (rasReport s k bit hdr) := by
  delta rasReport
  repeat' first
    | with_reducible assumption
    | with_reducible apply modBridge_kept
    | split
    | dsimp only

theorem snoopAnswered_kept {s0 : State} (s : State) (p : Nat) (m : Msg) (hk : Kept s0 s) : Kept s0 (snoopAnswered s p m) := by
  delta snoopAnswered
  repeat' first
    | with_reducible assumption
    | with_reducible apply dropTxn_kept
    | split
    | dsimp only

theorem turnTokens_kept {s0 : State} (s : State) (pl : Nat) (r : Nat) (hk : Kept s0 s) : Kept s0 (turnTokens s pl r) := by
  delta turnTokens
  repeat' first
    | with_reducible assumption
    | with_reducible apply setSlice_kept
    | with_reducible apply kept_foldl
    | refine fun _ => ?_
    | (try lift_lets); intro x; clear_value x
    | split
    | dsimp only

theorem inputErrors_kept {s0 : State} (s : State) (pl : Nat) (r : Nat) (hdr : BitVec 4) (unit : BitVec 4) (corr : BitVec 4) (l : List (Nat × Packet)) (hk : Kept s0 s) : Kept s0 (inputErrors s pl r hdr unit corr l).1 := by
  induction l generalizing s pl r hdr unit corr with
  | nil => exact hk
  | cons a l ih =>
    unfold inputErrors
    repeat' first
      | with_reducible assumption
      | with_reducible apply ih
      | with_reducible apply count_kept
      | with_reducible apply setRouter_kept
      | with_reducible apply internalUe_kept
      | with_reducible apply raiseEvent_kept
      | with_reducible apply setTxn_kept
      | (try lift_lets); intro x; refine kept_have (s0 := s0) (s := ‹State›) ?_ ?_; unfold x; rotate_left; intro hx; clear_value x
      | (try lift_lets); intro x; refine kept_have (s0 := s0) (s := (‹State × List (Nat × Packet)›).1) ?_ ?_; unfold x; rotate_left; intro hx; clear_value x
      | (try lift_lets); intro x; clear_value x
      | split
      | dsimp only

theorem starveAny_kept {s0 : State} (s : State) (pl : Nat) (hk : Kept s0 s) : Kept s0 (starveAny s pl) := by
  delta starveAny
  repeat' first
    | with_reducible assumption
    | with_reducible apply setLive_kept
    | split
    | dsimp only

theorem injectNow_kept {s0 : State} (s : State) (pl : Nat) (r : Nat) (rest : List Packet) (p : Packet) (through : List (Nat × Packet)) (hk : Kept s0 s) : Kept s0 (injectNow s pl r rest p through).1 := by
  delta injectNow
  repeat' first
    | with_reducible assumption
    | with_reducible apply setRouter_kept
    | with_reducible apply starveAny_kept
    | with_reducible apply count_kept
    | with_reducible apply traceAt_kept
    | (try lift_lets); intro x; refine kept_have (s0 := s0) (s := ‹State›) ?_ ?_; unfold x; rotate_left; intro hx; clear_value x
    | (try lift_lets); intro x; clear_value x
    | split
    | dsimp only

theorem injectPass_kept {s0 : State} (s : State) (pl : Nat) (r : Nat) (through : List (Nat × Packet)) (hk : Kept s0 s) : Kept s0 (injectPass s pl r through).1 := by
  delta injectPass
  repeat' first
    | with_reducible assumption
    | with_reducible apply injectNow_kept
    | with_reducible apply count_kept
    | with_reducible apply setRouter_kept
    | (try lift_lets); intro x; refine kept_have (s0 := s0) (s := ‹State›) ?_ ?_; unfold x; rotate_left; intro hx; clear_value x
    | (try lift_lets); intro x; clear_value x
    | split
    | dsimp only

theorem forwardPass_kept {s0 : State} (s : State) (pl : Nat) (r : Nat) (firstOut : Nat) (free : Nat) (l : List (Nat × Packet)) (hk : Kept s0 s) : Kept s0 (forwardPass s pl r firstOut free l) := by
  induction l generalizing s pl r firstOut free with
  | nil => exact hk
  | cons a l ih =>
    unfold forwardPass
    repeat' first
      | with_reducible assumption
      | with_reducible apply ih
      | with_reducible apply setRouter_kept
      | with_reducible apply count_kept
      | with_reducible apply traceAt_kept
      | (try lift_lets); intro x; refine kept_have (s0 := s0) (s := ‹State›) ?_ ?_; unfold x; rotate_left; intro hx; clear_value x
      | (try lift_lets); intro x; clear_value x
      | split
      | dsimp only

theorem routerCycle_kept {s0 : State} (s : State) (pl : Plane) (r : RouterId) (hdr : BitVec 4) (unit : BitVec 4) (corr : BitVec 4) (hk : Kept s0 s) : Kept s0 (routerCycle s pl r hdr unit corr) := by
  delta routerCycle
  repeat' first
    | with_reducible assumption
    | with_reducible apply setRouter_kept
    | with_reducible apply turnTokens_kept
    | with_reducible apply inputErrors_kept
    | with_reducible apply ejectPass_kept
    | with_reducible apply injectPass_kept
    | with_reducible apply forwardPass_kept
    | (try lift_lets); intro x; refine kept_have (s0 := s0) (s := ‹State›) ?_ ?_; unfold x; rotate_left; intro hx; clear_value x
    | (try lift_lets); intro x; refine kept_have (s0 := s0) (s := (‹State × List (Nat × Packet)›).1) ?_ ?_; unfold x; rotate_left; intro hx; clear_value x
    | (try lift_lets); intro x; clear_value x
    | dsimp only

theorem execRouterCycle_kept {s0 : State} (pl : Plane) (r : RouterId) (hdr : BitVec 4) (unit : BitVec 4) (corr : BitVec 4) (s : State) (hk : Kept s0 s) : KeptRes s0 (execRouterCycle pl r hdr unit corr s) := by
  delta execRouterCycle
  repeat' first
    | with_reducible assumption
    | with_reducible apply kept_next
    | with_reducible apply routerCycle_kept
    | split
    | dsimp only

theorem holdSlots_kept {s0 : State} (s : State) (p : Nat) (ids : List Nat) (vc : Nat) (cost : Nat) (hk : Kept s0 s) : Kept s0 (holdSlots s p ids vc cost) := by
  delta holdSlots
  repeat' first
    | with_reducible assumption
    | with_reducible apply setTxn_kept
    | with_reducible apply giveBack_kept
    | (try lift_lets); intro x; clear_value x
    | split
    | dsimp only

theorem chargeSlots_kept {s0 : State} (before : State) (s : State) (p : Nat) (vc : Nat) (cost : Nat) (hk : Kept s0 before) (hk1 : Kept s0 s) : Kept s0 (chargeSlots before s p vc cost) := by
  delta chargeSlots
  repeat' first
    | with_reducible assumption
    | with_reducible apply holdSlots_kept
    | dsimp only

theorem credited_kept {s0 : State} (s : State) (p : Nat) (m : Msg) (t : State) (hk : Kept s0 s) (hk1 : Kept s0 t) : Kept s0 (credited s p m t) := by
  delta credited
  repeat' first
    | with_reducible assumption
    | with_reducible apply chargeSlots_kept
    | split
    | dsimp only

theorem stage_kept {s0 : State} (s : State) (t : Txn) (hk : Kept s0 s) : Kept s0 (stage s t) := by
  delta stage
  repeat' first
    | with_reducible assumption
    | with_reducible apply newTxn_kept
    | (try lift_lets); intro x; clear_value x
    | split
    | dsimp only

theorem closeArrived_kept {s0 : State} (s : State) (p : Nat) (m : Msg) (hk : Kept s0 s) : Kept s0 (closeArrived s p m) := by
  delta closeArrived
  repeat' first
    | with_reducible assumption
    | with_reducible apply newTxn_kept
    | with_reducible apply stage_kept
    | (try lift_lets); intro x; clear_value x
    | split
    | dsimp only

theorem answered_kept {s0 : State} (s : State) (i : Nat) (m : Msg) (hk : Kept s0 s) : Kept s0 (answered s i m) := by
  delta answered
  repeat' first
    | with_reducible assumption
    | with_reducible apply answer_kept
    | with_reducible apply setTxn_kept
    | (try lift_lets); intro x; refine kept_have (s0 := s0) (s := ‹State›) ?_ ?_; unfold x; rotate_left; intro hx; clear_value x
    | (try lift_lets); intro x; clear_value x
    | intro _
    | split
    | dsimp only

theorem takeResponse_kept {s0 : State} (s : State) (p : Nat) (m : Msg) (hk : Kept s0 s) : Kept s0 (takeResponse s p m) := by
  delta takeResponse
  repeat' first
    | with_reducible assumption
    | with_reducible apply count_kept
    | with_reducible apply newTxn_kept
    | with_reducible apply answered_kept
    | split
    | dsimp only

theorem ioError_kept {s0 : State} (s : State) (p : Nat) (ld : Nat) (bit : Nat) (hdr : List Byte) (hk : Kept s0 s) : Kept s0 (ioError s p ld bit hdr) := by
  delta ioError
  repeat' first
    | with_reducible assumption
    | with_reducible apply aerReport_kept
    | with_reducible apply kept_foldl
    | refine fun _ => ?_
    | dsimp only

theorem localAnswer_kept {s0 : State} (s : State) (p : Nat) (t : Txn) (why : Nat) (hk : Kept s0 s) : Kept s0 (localAnswer s p t why) := by
  delta localAnswer
  repeat' first
    | with_reducible assumption
    | with_reducible apply newTxn_kept
    | with_reducible apply count_kept
    | with_reducible apply ioError_kept
    | with_reducible apply localMsg_kept
    | (try lift_lets); intro x; refine kept_have (s0 := s0) (s := ‹State›) ?_ ?_; unfold x; rotate_left; intro hx; clear_value x
    | (try lift_lets); intro x; clear_value x
    | intro _
    | split
    | dsimp only

theorem decideLocal_kept {s0 : State} (s : State) (p : Nat) (t : Txn) (why : Nat) (hk : Kept s0 s) : Kept s0 (decideLocal s p t why) := by
  delta decideLocal
  repeat' first
    | with_reducible assumption
    | with_reducible apply newTxn_kept
    | with_reducible apply localAnswer_kept
    | split
    | dsimp only

theorem splitLines_kept {s0 : State} (s : State) (t : Txn) (p : Nat) (ld : Nat) (b : Nat) (hk : Kept s0 s) : Kept s0 (splitLines s t p ld b) := by
  delta splitLines
  repeat' first
    | with_reducible assumption
    | with_reducible apply newTxn_kept
    | with_reducible apply stage_kept
    | with_reducible apply kept_foldl
    | refine fun _ => ?_
    | (try lift_lets); intro x; refine kept_have (s0 := s0) (s := ‹State›) ?_ ?_; unfold x; rotate_left; intro hx; clear_value x
    | (try lift_lets); intro x; clear_value x
    | intro _
    | split
    | dsimp only

theorem lookupOutcome_kept {s0 : State} (s : State) (p : Nat) (m : Msg) (tg : Target) (hk : Kept s0 s) : Kept s0 (lookupOutcome s p m tg) := by
  delta lookupOutcome
  dsimp only
  repeat' first
    | with_reducible assumption
    | with_reducible apply decideLocal_kept
    | with_reducible apply fenceCheck_kept
    | with_reducible apply raiseEvent_kept
    | with_reducible apply stage_kept
    | with_reducible apply snoopAnswered_kept
    | with_reducible apply splitLines_kept
    | split
    | dsimp only

theorem dirtyAnswer_kept {s0 : State} (s : State) (p : Nat) (m : Msg) (st : Fin 3) (hk : Kept s0 s) : Kept s0 (dirtyAnswer s p m st) := by
  delta dirtyAnswer
  repeat' first
    | with_reducible assumption
    | with_reducible apply lookupOutcome_kept
    | (try lift_lets); intro x; refine kept_have (s0 := s0) (s := ‹State›) ?_ ?_; unfold x; rotate_left; intro hx; clear_value x
    | (try lift_lets); intro x; clear_value x
    | dsimp only

theorem lookUp_kept {s0 : State} (s : State) (p : PortId) (m : Msg) (hk : Kept s0 s) : Kept s0 (lookUp s p m) := by
  delta lookUp
  repeat' first
    | with_reducible assumption
    | with_reducible apply countPort_kept
    | with_reducible apply count_kept
    | with_reducible apply closeArrived_kept
    | with_reducible apply takeResponse_kept
    | with_reducible apply decideLocal_kept
    | with_reducible apply dirtyAnswer_kept
    | with_reducible apply lookupOutcome_kept
    | with_reducible apply emit_kept
    | (try lift_lets); intro x; refine kept_have (s0 := s0) (s := ‹State›) ?_ ?_; unfold x; rotate_left; intro hx; clear_value x
    | split
    | dsimp only

theorem ioHeader_kept {s0 : State} (s : State) (p : Nat) (m : Msg) (hk : Kept s0 s) : Kept s0 (ioHeader s p m).1 := by
  delta ioHeader
  repeat' first
    | with_reducible assumption
    | with_reducible apply ioError_kept
    | split
    | dsimp only

theorem headerLookup_kept {s0 : State} (s : State) (p : PortId) (m : Msg) (hk : Kept s0 s) : Kept s0 (headerLookup s p m) := by
  delta headerLookup
  repeat' first
    | with_reducible assumption
    | with_reducible apply credited_kept
    | with_reducible apply lookUp_kept
    | with_reducible apply ioHeader_kept
    | split
    | dsimp only

theorem closeRemote_kept {s0 : State} (s : State) (t : Txn) (rstat : Nat) (hk : Kept s0 s) : Kept s0 (closeRemote s t rstat) := by
  delta closeRemote
  repeat' first
    | with_reducible assumption
    | with_reducible apply newTxn_kept
    | split
    | dsimp only

theorem sendResponse_kept {s0 : State} (s : State) (p : Nat) (i : Nat) (hk : Kept s0 s) : Kept s0 (sendResponse s p i) := by
  delta sendResponse
  repeat' first
    | with_reducible assumption
    | with_reducible apply setTxn_kept
    | with_reducible apply emit_kept
    | with_reducible apply count_kept
    | with_reducible apply sendPart_kept
    | with_reducible apply countPort_kept
    | with_reducible apply dropTxn_kept
    | with_reducible apply closeRemote_kept
    | with_reducible apply closeHome_kept
    | with_reducible apply egressFlush_kept
    | (try lift_lets); intro x; refine kept_have (s0 := s0) (s := ‹State›) ?_ ?_; unfold x; rotate_left; intro hx; clear_value x
    | (try lift_lets); intro x; clear_value x
    | intro _
    | split
    | dsimp only

theorem execStarve_kept {s0 : State} (pl : Plane) (r : RouterId) (s : State) (hk : Kept s0 s) : KeptRes s0 (execStarve pl r s) := by
  delta execStarve
  repeat' first
    | with_reducible assumption
    | with_reducible apply kept_next
    | with_reducible apply starveAny_kept
    | with_reducible apply setRouter_kept
    | (try lift_lets); intro x; clear_value x
    | split
    | dsimp only

theorem sendPackets_kept {s0 : State} (s : State) (i : Nat) (l : Nat) (hk : Kept s0 s) : Kept s0 (sendPackets s i l) := by
  induction l generalizing s i with
  | zero => exact hk
  | succ l ih =>
    unfold sendPackets
    repeat' first
      | with_reducible assumption
      | with_reducible apply ih
      | with_reducible apply setTxn_kept
      | with_reducible apply release_kept
      | with_reducible apply inject_kept
      | with_reducible apply setStream_kept
      | (try lift_lets); intro x; refine kept_have (s0 := s0) (s := ‹State›) ?_ ?_; unfold x; rotate_left; intro hx; clear_value x
      | (try lift_lets); intro x; clear_value x
      | intro _
      | split
      | dsimp only

theorem cutAnswered_kept {s0 : State} (s : State) (i : Nat) (hk : Kept s0 s) : Kept s0 (cutAnswered s i) := by
  delta cutAnswered
  repeat' first
    | with_reducible assumption
    | with_reducible apply setTxn_kept
    | with_reducible apply dropTxn_kept
    | (try lift_lets); intro x; clear_value x
    | split
    | dsimp only

theorem leaveStaging_kept {s0 : State} (s : State) (t : Txn) (hk : Kept s0 s) : Kept s0 (leaveStaging s t) := by
  delta leaveStaging
  repeat' first
    | with_reducible assumption
    | with_reducible apply giveBack_kept
    | split
    | dsimp only

theorem cutUnit_kept {s0 : State} (s : State) (u : MacUnit) (hk : Kept s0 s) : Kept s0 (cutUnit s u) := by
  delta cutUnit
  repeat' first
    | with_reducible assumption
    | with_reducible apply cancelTxn_kept
    | with_reducible apply setTxn_kept
    | with_reducible apply cutAnswered_kept
    | with_reducible apply sendPackets_kept
    | (try lift_lets); intro x; refine kept_have (s0 := s0) (s := ‹State›) ?_ ?_; unfold x; rotate_left; intro hx; clear_value x
    | (try lift_lets); intro x; clear_value x
    | split
    | dsimp only

theorem releaseUnits_kept {s0 : State} (s : State) (p : Nat) (ok : Bool) (hk : Kept s0 s) : Kept s0 (releaseUnits s p ok) := by
  delta releaseUnits
  repeat' first
    | with_reducible assumption
    | with_reducible apply cutUnit_kept
    | with_reducible apply kept_foldl
    | refine fun _ => ?_
    | split
    | simp -zeta only [kept_mk]
    | dsimp only

theorem execCutThroughUnit_kept {s0 : State} (p : PortId) (cpl : Bool) (tag : BitVec 16) (data : List Byte) (poison : Bool) (bad : Bool) (s : State) (hk : Kept s0 s) : KeptRes s0 (execCutThroughUnit p cpl tag data poison bad s) := by
  delta execCutThroughUnit
  repeat' first
    | with_reducible assumption
    | with_reducible apply kept_next
    | with_reducible apply cutUnit_kept
    | (try lift_lets); intro x; clear_value x
    | split
    | simp -zeta only [kept_mk]
    | dsimp only

theorem withhold_kept {s0 : State} (s : State) (p : Nat) (k : Nat) (hk : Kept s0 s) : Kept s0 (withhold s p k) := by
  delta withhold
  repeat' first
    | with_reducible assumption
    | with_reducible apply count_kept
    | (try lift_lets); intro x; clear_value x
    | split
    | simp -zeta only [kept_mk]
    | dsimp only

theorem reserve_kept {s0 : State} (s : State) (i : Nat) (hk : Kept s0 s) : Kept s0 (reserve s i) := by
  delta reserve
  repeat' first
    | with_reducible assumption
    | with_reducible apply setTxn_kept
    | with_reducible apply peak_kept
    | (try lift_lets); intro x; refine kept_have (s0 := s0) (s := ‹State›) ?_ ?_; unfold x; rotate_left; intro hx; clear_value x
    | (try lift_lets); intro x; clear_value x
    | split
    | dsimp only

theorem execRelReportTimer_kept {s0 : State} (dst : Fin 3072) (src : Fin 3072) (oc : Fin 6) (s : State) (hk : Kept s0 s) : KeptRes s0 (execRelReportTimer dst src oc s) := by
  delta execRelReportTimer
  repeat' first
    | with_reducible assumption
    | with_reducible apply kept_next
    | with_reducible apply sendRel_kept
    | split
    | dsimp only

theorem execAdmission_kept {s0 : State} (p : PortId) (cls : Fin 6) (s : State) (hk : Kept s0 s) : KeptRes s0 (execAdmission p cls s) := by
  delta execAdmission
  repeat' first
    | with_reducible assumption
    | with_reducible apply kept_next
    | with_reducible apply localAnswer_kept
    | with_reducible apply leaveStaging_kept
    | with_reducible apply dropTxn_kept
    | with_reducible apply setTxn_kept
    | with_reducible apply count_kept
    | with_reducible apply lowest_kept
    | with_reducible apply peak_kept
    | with_reducible apply reserve_kept
    | with_reducible apply withhold_kept
    | (try lift_lets); intro x; refine kept_have (s0 := s0) (s := ‹State›) ?_ ?_; unfold x; rotate_left; intro hx; clear_value x
    | (try lift_lets); intro x; clear_value x
    | split
    | dsimp only

theorem sinkResponse_kept {s0 : State} (s : State) (p : Nat) (i : Nat) (hk : Kept s0 s) : Kept s0 (sinkResponse s p i) := by
  delta sinkResponse
  repeat' first
    | with_reducible assumption
    | with_reducible apply closeRemote_kept
    | with_reducible apply closeHome_kept
    | with_reducible apply count_kept
    | with_reducible apply dropTxn_kept
    | (try lift_lets); intro x; clear_value x
    | dsimp only

theorem execProxyErrIssue_kept {s0 : State} (ep : Fin 3072) (s : State) (hk : Kept s0 s) : KeptRes s0 (execProxyErrIssue ep s) := by
  delta execProxyErrIssue
  repeat' first
    | with_reducible assumption
    | with_reducible apply kept_next
    | with_reducible apply inject_kept
    | with_reducible apply count_kept
    | with_reducible apply setEndp_kept
    | with_reducible apply errTxn_kept
    | (try lift_lets); intro x; refine kept_have (s0 := s0) (s := ‹State›) ?_ ?_; unfold x; rotate_left; intro hx; clear_value x
    | (try lift_lets); intro x; clear_value x
    | split
    | dsimp only

theorem execHeaderLookup_kept {s0 : State} (p : PortId) (m : Msg) (s : State) (hk : Kept s0 s) : KeptRes s0 (execHeaderLookup p m s) := by
  delta execHeaderLookup
  repeat' first
    | with_reducible assumption
    | with_reducible apply kept_next
    | with_reducible apply headerLookup_kept
    | split
    | dsimp only

theorem execEgressSelect_kept {s0 : State} (dst : Fin 3072) (s : State) (hk : Kept s0 s) : KeptRes s0 (execEgressSelect dst s) := by
  delta execEgressSelect
  repeat' first
    | with_reducible assumption
    | with_reducible apply kept_next
    | with_reducible apply count_kept
    | with_reducible apply reserve_kept
    | with_reducible apply peak_kept
    | with_reducible apply sendPackets_kept
    | with_reducible apply setTxn_kept
    | (try lift_lets); intro x; refine kept_have (s0 := s0) (s := ‹State›) ?_ ?_; unfold x; rotate_left; intro hx; clear_value x
    | (try lift_lets); intro x; clear_value x
    | split
    | simp -zeta only [kept_mk]
    | dsimp only

theorem execResponseLeaves_kept {s0 : State} (p : PortId) (s : State) (hk : Kept s0 s) : KeptRes s0 (execResponseLeaves p s) := by
  delta execResponseLeaves
  repeat' first
    | with_reducible assumption
    | with_reducible apply kept_next
    | with_reducible apply sinkResponse_kept
    | with_reducible apply sendResponse_kept
    | (try lift_lets); intro x; clear_value x
    | intro _
    | split
    | dsimp only

theorem takeArrived_out {s0 s t : State} {c p : Nat} {k : Packet} (e : takeArrived s c p = some (k, t)) (hk : Kept s0 s) : Kept s0 t := by
  unfold takeArrived at e
  try dsimp only at e
  repeat' split at e
  all_goals first | contradiction | skip
  all_goals simp only [Option.some.injEq, Prod.mk.injEq] at e
  all_goals obtain ⟨rfl, rfl⟩ := e
  all_goals
    repeat' first
      | with_reducible assumption
      | simp -zeta only [kept_mk]

theorem execRel_kept {s0 : State} (ep : Fin 3072) (s : State) (hk : Kept s0 s) : KeptRes s0 (execRel ep s) := by
  delta execRel
  repeat' first
    | with_reducible assumption
    | with_reducible apply kept_next
    | with_reducible apply setStream_kept
    | refine takeArrived_out ‹_› ?_
    | (try lift_lets); intro x; clear_value x
    | split
    | dsimp only

theorem execSkip_kept {s0 : State} (ep : Fin 3072) (s : State) (hk : Kept s0 s) : KeptRes s0 (execSkip ep s) := by
  delta execSkip
  repeat' first
    | with_reducible assumption
    | with_reducible apply kept_next
    | with_reducible apply resequence_kept
    | with_reducible apply count_kept
    | refine takeArrived_out ‹_› ?_
    | split
    | dsimp only

theorem execClose_kept {s0 : State} (ep : Fin 3072) (s : State) (hk : Kept s0 s) : KeptRes s0 (execClose ep s) := by
  delta execClose
  repeat' first
    | with_reducible assumption
    | with_reducible apply kept_next
    | with_reducible apply resequence_kept
    | with_reducible apply count_kept
    | refine takeArrived_out ‹_› ?_
    | split
    | dsimp only

theorem execLoadSevere_kept {s0 : State} (p : PortId) (q : PortId) (cls : Fin 4) (s : State) (hk : Kept s0 s) : KeptRes s0 (execLoadSevere p q cls s) := by
  delta execLoadSevere
  repeat' first
    | with_reducible assumption
    | with_reducible apply kept_next
    | with_reducible apply raiseEvent_kept
    | (try lift_lets); intro x; clear_value x
    | split
    | simp -zeta only [kept_mk]
    | dsimp only

end Sys2Proof.Machine
end

