-- ==== Sys2Proof/Laws/KeptCoherence.lean ====
section
/-! SUPPORT. What the Gazetteer, coherence and loss keep of the state (Kept): one lemma per operation and meaning. -/
namespace Sys2Proof.Machine

theorem makeUncertain_kept {s0 : State} (s : State) (x : Nat) (hk : Kept s0 s) : Kept s0 (makeUncertain s x) := by
  delta makeUncertain
  repeat' first
    | with_reducible assumption
    | with_reducible apply setSlice_kept
    | (try lift_lets); intro x; clear_value x
    | split
    | dsimp only

theorem setBack_kept {s0 : State} (s : State) (x : Nat) (h : Nat) (e : DirEnt) (hk : Kept s0 s) : Kept s0 (setBack s x h e) := by
  delta setBack
  repeat' first
    | with_reducible assumption
    | simp -zeta only [kept_mk]
    | dsimp only

theorem entryUe_kept {s0 : State} (s : State) (x : Nat) (h : Nat) (hk : Kept s0 s) : Kept s0 (entryUe s x h) := by
  delta entryUe
  repeat' first
    | with_reducible assumption
    | with_reducible apply makeUncertain_kept
    | with_reducible apply setBack_kept
    | with_reducible apply internalUe_kept
    | with_reducible apply raiseEvent_kept
    | with_reducible apply count_kept
    | (try lift_lets); intro x; refine kept_have (s0 := s0) (s := ‹State›) ?_ ?_; unfold x; rotate_left; intro hx; clear_value x
    | (try lift_lets); intro x; clear_value x
    | dsimp only

theorem sharersUe_kept {s0 : State} (s : State) (x : Nat) (h : Nat) (hk : Kept s0 s) : Kept s0 (sharersUe s x h) := by
  delta sharersUe
  repeat' first
    | with_reducible assumption
    | with_reducible apply raiseEvent_kept
    | with_reducible apply count_kept
    | with_reducible apply setBack_kept
    | (try lift_lets); intro x; clear_value x
    | split
    | dsimp only

theorem setErrors_kept {s0 : State} (s : State) (x : Nat) (b : BackRead) (hk : Kept s0 s) : Kept s0 (setErrors s x b) := by
  delta setErrors
  repeat' first
    | with_reducible assumption
    | with_reducible apply count_kept
    | with_reducible apply entryUe_kept
    | with_reducible apply sharersUe_kept
    | with_reducible apply kept_foldl
    | refine fun _ => ?_
    | (try lift_lets); intro x; refine kept_have (s0 := s0) (s := ‹State›) ?_ ?_; unfold x; rotate_left; intro hx; clear_value x
    | split
    | dsimp only

theorem setWay_kept {s0 : State} (s : State) (n : Nat) (w : Way) (hk : Kept s0 s) : Kept s0 (setWay s n w) := by
  delta setWay
  repeat' first
    | with_reducible assumption
    | simp -zeta only [kept_mk]
    | dsimp only

theorem endAct_kept {s0 : State} (s : State) (g : Nat) (k : Nat) (hk : Kept s0 s) : Kept s0 (endAct s g k) := by
  delta endAct
  repeat' first
    | with_reducible assumption
    | with_reducible apply setSlice_kept
    | (try lift_lets); intro x; clear_value x
    | dsimp only

theorem fromSlice_kept {s0 : State} (s : State) (g : Nat) (i : Nat) (cmd : Nat) (rstat : Nat) (hk : Kept s0 s) : Kept s0 (fromSlice s g i cmd rstat) := by
  delta fromSlice
  repeat' first
    | with_reducible assumption
    | with_reducible apply setTxn_kept
    | (try lift_lets); intro x; clear_value x
    | dsimp only

theorem toMemory_kept {s0 : State} (s : State) (g : Nat) (k : Nat) (i : Nat) (cmd : Nat) (grant : Nat) (hk : Kept s0 s) : Kept s0 (toMemory s g k i cmd grant) := by
  delta toMemory
  repeat' first
    | with_reducible assumption
    | with_reducible apply lineUp_kept
    | (try lift_lets); intro x; clear_value x
    | intro _
    | split
    | dsimp only

theorem answerUncertain_kept {s0 : State} (s : State) (g : Nat) (k : Nat) (i : Nat) (hk : Kept s0 s) : Kept s0 (answerUncertain s g k i) := by
  delta answerUncertain
  repeat' first
    | with_reducible assumption
    | with_reducible apply raiseEvent_kept
    | with_reducible apply count_kept
    | with_reducible apply setTxn_kept
    | with_reducible apply endAct_kept
    | with_reducible apply fromSlice_kept
    | with_reducible apply toMemory_kept
    | (try lift_lets); intro x; refine kept_have (s0 := s0) (s := ‹State›) ?_ ?_; unfold x; rotate_left; intro hx; clear_value x
    | (try lift_lets); intro x; clear_value x
    | split
    | dsimp only

theorem lostEntry_kept {s0 : State} (s : State) (g : Nat) (k : Nat) (hk : Kept s0 s) : Kept s0 (lostEntry s g k) := by
  delta lostEntry
  repeat' first
    | with_reducible assumption
    | with_reducible apply setSlice_kept
    | with_reducible apply answerUncertain_kept
    | with_reducible apply endAct_kept
    | (try lift_lets); intro x; refine kept_have (s0 := s0) (s := ‹State›) ?_ ?_; unfold x; rotate_left; intro hx; clear_value x
    | (try lift_lets); intro x; clear_value x
    | split
    | dsimp only

theorem dieLost_kept {s0 : State} (s : State) (g : Nat) (n : Nat) (hk : Kept s0 s) : Kept s0 (dieLost s g n) := by
  delta dieLost
  repeat' first
    | with_reducible assumption
    | with_reducible apply makeUncertain_kept
    | with_reducible apply setWay_kept
    | with_reducible apply internalUe_kept
    | with_reducible apply raiseEvent_kept
    | with_reducible apply count_kept
    | with_reducible apply lostEntry_kept
    | (try lift_lets); intro x; refine kept_have (s0 := s0) (s := ‹State›) ?_ ?_; unfold x; rotate_left; intro hx; clear_value x
    | (try lift_lets); intro x; clear_value x
    | dsimp only

theorem putEnt_kept {s0 : State} (s : State) (n : Nat) (e : DirEnt) (hk : Kept s0 s) : Kept s0 (putEnt s n e) := by
  delta putEnt
  repeat' first
    | with_reducible assumption
    | with_reducible apply setWay_kept
    | (try lift_lets); intro x; clear_value x
    | dsimp only

theorem dieSharers_kept {s0 : State} (s : State) (g : Nat) (n : Nat) (hk : Kept s0 s) : Kept s0 (dieSharers s g n) := by
  delta dieSharers
  repeat' first
    | with_reducible assumption
    | with_reducible apply raiseEvent_kept
    | with_reducible apply count_kept
    | with_reducible apply putEnt_kept
    | (try lift_lets); intro x; clear_value x
    | split
    | dsimp only

theorem dieWay_kept {s0 : State} (s : State) (g : Nat) (n : Nat) (lo : Bool) (hi : Bool) (corr : Bool) (hk : Kept s0 s) : Kept s0 (dieWay s g n lo hi corr) := by
  delta dieWay
  repeat' first
    | with_reducible assumption
    | with_reducible apply count_kept
    | with_reducible apply dieLost_kept
    | with_reducible apply dieSharers_kept
    | (try lift_lets); intro x; refine kept_have (s0 := s0) (s := ‹State›) ?_ ?_; unfold x; rotate_left; intro hx; clear_value x
    | split
    | dsimp only

theorem dieSet_kept {s0 : State} (s : State) (g : Nat) (x : Nat) (d : DieRead) (hk : Kept s0 s) : Kept s0 (dieSet s g x d) := by
  delta dieSet
  repeat' first
    | with_reducible assumption
    | with_reducible apply dieWay_kept
    | with_reducible apply kept_foldl
    | refine fun _ => ?_
    | dsimp only

theorem walkErrors_kept {s0 : State} (s : State) (g : Nat) (errs : List SetRead) (hk : Kept s0 s) : Kept s0 (walkErrors s g errs) := by
  delta walkErrors
  repeat' first
    | with_reducible assumption
    | with_reducible apply setErrors_kept
    | with_reducible apply dieSet_kept
    | with_reducible apply kept_foldl
    | refine fun _ => ?_
    | split
    | dsimp only

theorem removeEnt_kept {s0 : State} (s : State) (n : Nat) (hk : Kept s0 s) : Kept s0 (removeEnt s n) := by
  delta removeEnt
  repeat' first
    | with_reducible assumption
    | with_reducible apply setBack_kept
    | with_reducible apply count_kept
    | with_reducible apply setWay_kept
    | (try lift_lets); intro x; refine kept_have (s0 := s0) (s := ‹State›) ?_ ?_; unfold x; rotate_left; intro hx; clear_value x
    | (try lift_lets); intro x; clear_value x
    | dsimp only

theorem settleEnt_kept {s0 : State} (s : State) (g : Nat) (k : Nat) (n : Nat) (hk : Kept s0 s) : Kept s0 (settleEnt s g k n) := by
  delta settleEnt
  repeat' first
    | with_reducible assumption
    | with_reducible apply removeEnt_kept
    | (try lift_lets); intro x; clear_value x
    | split
    | dsimp only

theorem changeEnt_kept {s0 : State} (s : State) (n : Nat) (e : DirEnt) (hk : Kept s0 s) : Kept s0 (changeEnt s n e) := by
  delta changeEnt
  repeat' first
    | with_reducible assumption
    | with_reducible apply putEnt_kept
    | split
    | dsimp only

theorem readEnt_kept {s0 : State} (s : State) (g : Nat) (k : Nat) (n : Nat) (hk : Kept s0 s) : Kept s0 (readEnt s g k n) := by
  delta readEnt
  repeat' first
    | with_reducible assumption
    | with_reducible apply changeEnt_kept
    | dsimp only

theorem writeBack_kept {s0 : State} (s : State) (n : Nat) (hk : Kept s0 s) : Kept s0 (writeBack s n) := by
  delta writeBack
  repeat' first
    | with_reducible assumption
    | with_reducible apply count_kept
    | with_reducible apply setBack_kept
    | with_reducible apply setWay_kept
    | (try lift_lets); intro x; refine kept_have (s0 := s0) (s := ‹State›) ?_ ?_; unfold x; rotate_left; intro hx; clear_value x
    | (try lift_lets); intro x; clear_value x
    | split
    | dsimp only

theorem takeDie_out {s0 s t : State} {x n : Nat} (e : takeDie s x = some (n, t)) (hk : Kept s0 s) : Kept s0 t := by
  unfold takeDie at e
  try dsimp only at e
  repeat' split at e
  all_goals first | contradiction | skip
  all_goals simp only [Option.some.injEq, Prod.mk.injEq] at e
  all_goals obtain ⟨rfl, rfl⟩ := e
  all_goals
    repeat' first
      | with_reducible assumption
      | with_reducible apply writeBack_kept
      | simp -zeta only [kept_mk]

theorem touchWay_kept {s0 : State} (s : State) (n : Nat) (hk : Kept s0 s) : Kept s0 (touchWay s n) := by
  delta touchWay
  repeat' first
    | with_reducible assumption
    | simp -zeta only [kept_mk]
    | dsimp only

theorem bindDie_out {s0 s t : State} {k h n : Nat} (e : bindDie s k h = some (n, t)) (hk : Kept s0 s) : Kept s0 t := by
  unfold bindDie at e
  split at e
  · rename_i m u hm
    simp only [Option.some.injEq, Prod.mk.injEq] at e
    obtain ⟨rfl, rfl⟩ := e
    exact touchWay_kept _ _ (setWay_kept _ _ _ (takeDie_out hm hk))
  · contradiction

theorem modAct_kept {s0 : State} (s : State) (g : Nat) (k : Nat) (f : Active → Active) (hk : Kept s0 s) : Kept s0 (modAct s g k f) := by
  delta modAct
  repeat' first
    | with_reducible assumption
    | with_reducible apply setSlice_kept
    | (try lift_lets); intro x; clear_value x
    | dsimp only

theorem sendSnoop_kept {s0 : State} (s : State) (g : Nat) (k : Nat) (c : Nat) (cmd : Nat) (unit : List Byte) (hk : Kept s0 s) : Kept s0 (sendSnoop s g k c cmd unit) := by
  delta sendSnoop
  repeat' first
    | with_reducible assumption
    | with_reducible apply newTxn_kept
    | (try lift_lets); intro x; clear_value x
    | intro _
    | split
    | dsimp only

theorem sendReady_kept {s0 : State} (s : State) (g : Nat) (k : Nat) (unit : List Byte) (hk : Kept s0 s) : Kept s0 (sendReady s g k unit) := by
  delta sendReady
  repeat' first
    | with_reducible assumption
    | with_reducible apply sendSnoop_kept
    | with_reducible apply modAct_kept
    | with_reducible apply kept_foldl
    | refine fun _ => ?_
    | (try lift_lets); intro x; refine kept_have (s0 := s0) (s := ‹State›) ?_ ?_; unfold x; rotate_left; intro hx; clear_value x
    | (try lift_lets); intro x; clear_value x
    | split
    | dsimp only

theorem startSnoops_kept {s0 : State} (s : State) (g : Nat) (k : Nat) (n : Nat) (cmd : Nat) (st : Nat) (cs : List Nat) (unit : List Byte) (hk : Kept s0 s) : Kept s0 (startSnoops s g k n cmd st cs unit) := by
  delta startSnoops
  repeat' first
    | with_reducible assumption
    | with_reducible apply putEnt_kept
    | with_reducible apply modAct_kept
    | with_reducible apply sendReady_kept
    | (try lift_lets); intro x; refine kept_have (s0 := s0) (s := ‹State›) ?_ ?_; unfold x; rotate_left; intro hx; clear_value x
    | (try lift_lets); intro x; clear_value x
    | split
    | dsimp only

theorem walkLine_kept {s0 : State} (s : State) (w : Walk) (g : Nat) (k : Nat) (hk : Kept s0 s) : Kept s0 (walkLine s w g k) := by
  have key : ∀ n t, (match findDie s k with
      | some n => some (n, s)
      | none => match findBack s k with | some h => bindDie s k h | none => none) = some (n, t) → Kept s0 t := by
    intro n t e
    split at e
    · simp only [Option.some.injEq, Prod.mk.injEq] at e; obtain ⟨-, rfl⟩ := e; exact hk
    · split at e
      · exact bindDie_out e hk
      · contradiction
  delta walkLine
  dsimp only
  repeat' first
    | with_reducible assumption
    | with_reducible apply settleEnt_kept
    | with_reducible apply readEnt_kept
    | with_reducible apply setBack_kept
    | with_reducible apply removeEnt_kept
    | with_reducible apply setSlice_kept
    | with_reducible apply setWay_kept
    | with_reducible apply startSnoops_kept
    | refine bindDie_out ‹_› ?_
    | exact key _ _ ‹_›
    | split
    | dsimp only

theorem execLossWalk_kept {s0 : State} (g : SliceId) (errs : List SetRead) (s : State) (hk : Kept s0 s) : KeptRes s0 (execLossWalk g errs s) := by
  delta execLossWalk
  repeat' first
    | with_reducible assumption
    | with_reducible apply kept_next
    | with_reducible apply walkErrors_kept
    | with_reducible apply walkLine_kept
    | with_reducible apply kept_foldl
    | refine fun _ => ?_
    | (try lift_lets); intro x; refine kept_have (s0 := s0) (s := ‹State›) ?_ ?_; unfold x; rotate_left; intro hx; clear_value x
    | split
    | simp -zeta only [kept_mk]
    | dsimp only

theorem deviceUpdate_kept {s0 : State} (s : State) (ws : List (Nat × Nat × Entry)) (hk : Kept s0 s) : Kept s0 (deviceUpdate s ws) := by
  delta deviceUpdate
  repeat' first
    | with_reducible assumption
    | with_reducible apply setTab_kept
    | with_reducible apply count_kept
    | with_reducible apply kept_foldl
    | refine fun _ => ?_
    | (try lift_lets); intro x; refine kept_have (s0 := s0) (s := ‹State›) ?_ ?_; unfold x; rotate_left; intro hx; clear_value x
    | (try lift_lets); intro x; clear_value x
    | split
    | simp -zeta only [kept_mk]
    | dsimp only

theorem restS_kept {s0 : State} (s : State) (n : Nat) (v : BitVec 64) (hk : Kept s0 s) : Kept s0 (restS s n v) := by
  delta restS
  repeat' first
    | with_reducible assumption
    | with_reducible apply putEnt_kept
    | (try lift_lets); intro x; clear_value x
    | split
    | dsimp only

theorem lowEnd_kept {s0 : State} (s : State) (p : Nat) (hk : Kept s0 s) : Kept s0 (lowEnd s p) := by
  delta lowEnd
  repeat' first
    | with_reducible assumption
    | with_reducible apply count_kept
    | (try lift_lets); intro x; clear_value x
    | split
    | simp -zeta only [kept_mk]
    | dsimp only

theorem setL0p_kept {s0 : State} (s : State) (p : Nat) (n : Nat) (hk : Kept s0 s) : Kept s0 (setL0p s p n) := by
  delta setL0p
  repeat' first
    | with_reducible assumption
    | with_reducible apply setLive_kept
    | split
    | simp -zeta only [kept_mk]
    | dsimp only

theorem setLaneBit_kept {s0 : State} (s : State) (b : Nat) (v : Bool) (l : Nat) (hk : Kept s0 s) : Kept s0 (setLaneBit s b v l) := by
  delta setLaneBit
  repeat' first
    | with_reducible assumption
    | with_reducible apply setLive_kept
    | split
    | dsimp only

theorem setLanesBit_kept {s0 : State} (s : State) (ls : List Nat) (b : Nat) (v : Bool) (hk : Kept s0 s) : Kept s0 (setLanesBit s ls b v) := by
  delta setLanesBit
  repeat' first
    | with_reducible assumption
    | with_reducible apply setLaneBit_kept
    | with_reducible apply kept_foldl
    | refine fun _ => ?_
    | dsimp only

theorem linkDown_kept {s0 : State} (s : State) (p : Nat) (code : Nat) (hk : Kept s0 s) : Kept s0 (linkDown s p code) := by
  delta linkDown
  repeat' first
    | with_reducible assumption
    | with_reducible apply setL0p_kept
    | with_reducible apply setLive_kept
    | with_reducible apply setLanesBit_kept
    | with_reducible apply lowEnd_kept
    | (try lift_lets); intro x; refine kept_have (s0 := s0) (s := ‹State›) ?_ ?_; unfold x; rotate_left; intro hx; clear_value x
    | simp -zeta only [kept_mk]
    | dsimp only

theorem markLoss_kept {s0 : State} (s : State) (p : Nat) (hk : Kept s0 s) : Kept s0 (markLoss s p) := by
  delta markLoss
  repeat' first
    | with_reducible assumption
    | with_reducible apply setTxn_kept
    | with_reducible apply skipTxn_kept
    | with_reducible apply kept_foldl
    | refine fun _ => ?_
    | (try lift_lets); intro x; refine kept_have (s0 := s0) (s := ‹State›) ?_ ?_; unfold x; rotate_left; intro hx; clear_value x
    | (try lift_lets); intro x; clear_value x
    | split
    | dsimp only

theorem closeIngress_kept {s0 : State} (s : State) (p : Nat) (hk : Kept s0 s) : Kept s0 (closeIngress s p) := by
  delta closeIngress
  repeat' first
    | with_reducible assumption
    | with_reducible apply cancelTxn_kept
    | with_reducible apply kept_foldl
    | refine fun _ => ?_
    | (try lift_lets); intro x; refine kept_have (s0 := s0) (s := ‹State›) ?_ ?_; unfold x; rotate_left; intro hx; clear_value x
    | split
    | dsimp only

theorem dropConflicts_kept {s0 : State} (s : State) (c : Nat) (hk : Kept s0 s) : Kept s0 (dropConflicts s c) := by
  delta dropConflicts
  repeat' first
    | with_reducible assumption
    | with_reducible apply dropTxn_kept
    | with_reducible apply setSlice_kept
    | with_reducible apply kept_foldl
    | refine fun _ => ?_
    | (try lift_lets); intro x; clear_value x
    | split
    | dsimp only

theorem errSnoop_kept {s0 : State} (s : State) (p : Nat) (g : Nat) (k : Nat) (c : Nat) (hk : Kept s0 s) : Kept s0 (errSnoop s p g k c) := by
  delta errSnoop
  repeat' first
    | with_reducible assumption
    | with_reducible apply newTxn_kept
    | dsimp only

theorem errAwaited_kept {s0 : State} (s : State) (p : Nat) (c : Nat) (hk : Kept s0 s) : Kept s0 (errAwaited s p c) := by
  delta errAwaited
  repeat' first
    | with_reducible assumption
    | with_reducible apply errSnoop_kept
    | with_reducible apply kept_foldl
    | refine fun _ => ?_
    | split
    | dsimp only

theorem loseAgents_kept {s0 : State} (s : State) (p : Nat) (cs : List Nat) (hk : Kept s0 s) : Kept s0 (loseAgents s p cs) := by
  delta loseAgents
  repeat' first
    | with_reducible assumption
    | with_reducible apply raiseEvent_kept
    | with_reducible apply dropConflicts_kept
    | with_reducible apply errAwaited_kept
    | with_reducible apply kept_foldl
    | refine fun _ => ?_
    | (try lift_lets); intro x; refine kept_have (s0 := s0) (s := ‹State›) ?_ ?_; unfold x; rotate_left; intro hx; clear_value x
    | simp -zeta only [kept_mk]
    | dsimp only

theorem lowBegin_kept {s0 : State} (s : State) (p : Nat) (hk : Kept s0 s) : Kept s0 (lowBegin s p) := by
  delta lowBegin
  repeat' first
    | with_reducible assumption
    | split
    | simp -zeta only [kept_mk]
    | dsimp only

theorem restI_kept {s0 : State} (s : State) (n : Nat) (hk : Kept s0 s) : Kept s0 (restI s n) := by
  delta restI
  repeat' first
    | with_reducible assumption
    | with_reducible apply putEnt_kept
    | (try lift_lets); intro x; clear_value x
    | dsimp only

theorem readWay_kept {s0 : State} (s : State) (x : Nat) (h : Nat) (hk : Kept s0 s) : Kept s0 (readWay s x h) := by
  delta readWay
  repeat' first
    | with_reducible assumption
    | with_reducible apply settleEnt_kept
    | with_reducible apply readEnt_kept
    | with_reducible apply setBack_kept
    | (try lift_lets); intro x; clear_value x
    | split
    | dsimp only

theorem readSet_kept {s0 : State} (s : State) (x : Nat) (hk : Kept s0 s) : Kept s0 (readSet s x) := by
  delta readSet
  repeat' first
    | with_reducible assumption
    | with_reducible apply readWay_kept
    | with_reducible apply kept_foldl
    | refine fun _ => ?_
    | split
    | dsimp only

theorem park_kept {s0 : State} (s : State) (g : Nat) (k : Nat) (i : Nat) (hk : Kept s0 s) : Kept s0 (park s g k i) := by
  delta park
  repeat' first
    | with_reducible assumption
    | with_reducible apply setSlice_kept
    | (try lift_lets); intro x; clear_value x
    | dsimp only

theorem markGrant_kept {s0 : State} (s : State) (g : Nat) (k : Nat) (i : Nat) (hk : Kept s0 s) : Kept s0 (markGrant s g k i) := by
  delta markGrant
  repeat' first
    | with_reducible assumption
    | with_reducible apply setSlice_kept
    | (try lift_lets); intro x; clear_value x
    | split
    | dsimp only

theorem restO_kept {s0 : State} (s : State) (n : Nat) (c : Nat) (hk : Kept s0 s) : Kept s0 (restO s n c) := by
  delta restO
  repeat' first
    | with_reducible assumption
    | with_reducible apply putEnt_kept
    | (try lift_lets); intro x; clear_value x
    | dsimp only

theorem regrant_kept {s0 : State} (s : State) (g : Nat) (k : Nat) (i : Nat) (hk : Kept s0 s) : Kept s0 (regrant s g k i) := by
  delta regrant
  repeat' first
    | with_reducible assumption
    | with_reducible apply markGrant_kept
    | split
    | dsimp only

theorem homeAct_kept {s0 : State} (s : State) (g : Nat) (k : Nat) (n : Nat) (i : Nat) (hk : Kept s0 s) : Kept s0 (homeAct s g k n i) := by
  delta homeAct
  dsimp only
  repeat' first
    | with_reducible assumption
    | with_reducible apply readEnt_kept
    | with_reducible apply endAct_kept
    | with_reducible apply fromSlice_kept
    | with_reducible apply toMemory_kept
    | with_reducible apply restI_kept
    | with_reducible apply restS_kept
    | with_reducible apply markGrant_kept
    | with_reducible apply restO_kept
    | with_reducible apply startSnoops_kept
    | with_reducible apply regrant_kept
    | split
    | dsimp only

theorem openReq_kept {s0 : State} (s : State) (g : Nat) (k : Nat) (n : Nat) (i : Nat) (hk : Kept s0 s) : Kept s0 (openReq s g k n i) := by
  delta openReq
  repeat' first
    | with_reducible assumption
    | with_reducible apply setWay_kept
    | with_reducible apply setSlice_kept
    | (try lift_lets); intro x; refine kept_have (s0 := s0) (s := ‹State›) ?_ ?_; unfold x; rotate_left; intro hx; clear_value x
    | (try lift_lets); intro x; clear_value x
    | dsimp only

theorem proceed_kept {s0 : State} (s : State) (g : Nat) (k : Nat) (n : Nat) (i : Nat) (hk : Kept s0 s) : Kept s0 (proceed s g k n i) := by
  delta proceed
  repeat' first
    | with_reducible assumption
    | with_reducible apply park_kept
    | with_reducible apply homeAct_kept
    | with_reducible apply openReq_kept
    | split
    | dsimp only

theorem joinScq_kept {s0 : State} (s : State) (g : Nat) (k : Nat) (hk : Kept s0 s) : Kept s0 (joinScq s g k) := by
  delta joinScq
  repeat' first
    | with_reducible assumption
    | with_reducible apply modAct_kept
    | with_reducible apply setSlice_kept
    | with_reducible apply raiseEvent_kept
    | (try lift_lets); intro x; refine kept_have (s0 := s0) (s := ‹State›) ?_ ?_; unfold x; rotate_left; intro hx; clear_value x
    | (try lift_lets); intro x; clear_value x
    | split
    | dsimp only

theorem newEnt_out {s0 s t : State} {k n : Nat} (e : newEnt s k = some (n, t)) (hk : Kept s0 s) : Kept s0 t := by
  unfold newEnt at e
  split at e
  · rename_i h m u _ hm
    simp only [Option.some.injEq, Prod.mk.injEq] at e
    obtain ⟨rfl, rfl⟩ := e
    exact count_kept _ _ _ (touchWay_kept _ _ (setWay_kept _ _ _ (takeDie_out hm hk)))
  · contradiction

theorem startEviction_kept {s0 : State} (s : State) (x : Nat) (hk : Kept s0 s) : Kept s0 (startEviction s x) := by
  have key : ∀ x h k n t, (match boundDie s x h with | some n => some (n, s) | none => bindDie s k h) = some (n, t) → Kept s0 t := by
    intro x h k n t e
    split at e
    · simp only [Option.some.injEq, Prod.mk.injEq] at e; obtain ⟨-, rfl⟩ := e; exact hk
    · exact bindDie_out e hk
  delta startEviction
  dsimp only
  repeat' first
    | with_reducible assumption
    | with_reducible apply setSlice_kept
    | with_reducible apply setWay_kept
    | with_reducible apply count_kept
    | with_reducible apply startSnoops_kept
    | refine bindDie_out ‹_› ?_
    | exact key _ _ _ _ _ ‹_›
    | split
    | dsimp only

theorem waitForWay_kept {s0 : State} (s : State) (g : Nat) (k : Nat) (hk : Kept s0 s) : Kept s0 (waitForWay s g k) := by
  delta waitForWay
  repeat' first
    | with_reducible assumption
    | with_reducible apply joinScq_kept
    | with_reducible apply startEviction_kept
    | (try lift_lets); intro x; refine kept_have (s0 := s0) (s := ‹State›) ?_ ?_; unfold x; rotate_left; intro hx; clear_value x
    | split
    | dsimp only

theorem lookupSet_kept {s0 : State} (s : State) (g : Nat) (k : Nat) (i : Nat) (first : Bool) (hk : Kept s0 s) : Kept s0 (lookupSet s g k i first) := by
  delta lookupSet
  repeat' first
    | with_reducible assumption
    | with_reducible apply readSet_kept
    | with_reducible apply proceed_kept
    | with_reducible apply touchWay_kept
    | with_reducible apply joinScq_kept
    | with_reducible apply answerUncertain_kept
    | with_reducible apply waitForWay_kept
    | refine bindDie_out ‹_› ?_
    | refine newEnt_out ‹_› ?_
    | refine bindDie_out (some_of_ite ‹_›) ?_
    | refine newEnt_out (some_of_ite ‹_›) ?_
    | (try lift_lets); intro x; refine kept_have (s0 := s0) (s := ‹State›) ?_ ?_; unfold x; rotate_left; intro hx; clear_value x
    | split
    | dsimp only

theorem loseMembers_kept {s0 : State} (s : State) (p : Nat) (hk : Kept s0 s) : Kept s0 (loseMembers s p) := by
  delta loseMembers
  repeat' first
    | with_reducible assumption
    | with_reducible apply kept_foldl
    | refine fun _ => ?_
    | (try lift_lets); intro x; clear_value x
    | simp -zeta only [kept_mk]
    | dsimp only

theorem errFwds_kept {s0 : State} (s : State) (p : Nat) (hk : Kept s0 s) : Kept s0 (errFwds s p) := by
  delta errFwds
  repeat' first
    | with_reducible assumption
    | with_reducible apply newTxn_kept
    | with_reducible apply count_kept
    | with_reducible apply kept_foldl
    | refine fun _ => ?_
    | split
    | simp -zeta only [kept_mk]
    | dsimp only

theorem vcsPropagate_kept {s0 : State} (s : State) (u : Nat) (hk : Kept s0 s) : Kept s0 (vcsPropagate s u) := by
  delta vcsPropagate
  repeat' first
    | with_reducible assumption
    | with_reducible apply emit_kept
    | with_reducible apply kept_foldl
    | refine fun _ => ?_
    | (try lift_lets); intro x; refine kept_have (s0 := s0) (s := ‹State›) ?_ ?_; unfold x; rotate_left; intro hx; clear_value x
    | (try lift_lets); intro x; clear_value x
    | split
    | simp -zeta only [kept_mk]
    | dsimp only

theorem losePort_kept {s0 : State} (s : State) (p : Nat) (code : Nat) (hk : Kept s0 s) : Kept s0 (losePort s p code) := by
  delta losePort
  repeat' first
    | with_reducible assumption
    | with_reducible apply loseMembers_kept
    | with_reducible apply deviceUpdate_kept
    | with_reducible apply setLive_kept
    | with_reducible apply linkDown_kept
    | with_reducible apply raiseEvent_kept
    | with_reducible apply errFwds_kept
    | with_reducible apply loseAgents_kept
    | with_reducible apply markLoss_kept
    | with_reducible apply closeIngress_kept
    | with_reducible apply vcsPropagate_kept
    | (try lift_lets); intro x; refine kept_have (s0 := s0) (s := ‹State›) ?_ ?_; unfold x; rotate_left; intro hx; clear_value x
    | (try lift_lets); intro x; clear_value x
    | split
    | simp -zeta only [kept_mk]
    | dsimp only

theorem deliverFwd_kept {s0 : State} (s : State) (pid : Nat) (tag : Nat) (data : List Byte) (hk : Kept s0 s) : Kept s0 (deliverFwd s pid tag data) := by
  delta deliverFwd
  repeat' first
    | with_reducible assumption
    | with_reducible apply answer_kept
    | with_reducible apply setTxn_kept
    | (try lift_lets); intro x; refine kept_have (s0 := s0) (s := ‹State›) ?_ ?_; unfold x; rotate_left; intro hx; clear_value x
    | (try lift_lets); intro x; clear_value x
    | split
    | dsimp only

theorem dieErrors_kept {s0 : State} (s : State) (g : Nat) (k : Nat) (d : DieRead) (hk : Kept s0 s) : Kept s0 (dieErrors s g k d) := by
  delta dieErrors
  repeat' first
    | with_reducible assumption
    | with_reducible apply dieSet_kept
    | dsimp only

theorem activate_kept {s0 : State} (s : State) (g : Nat) (k : Nat) (i : Nat) (d : DieRead) (hk : Kept s0 s) : Kept s0 (activate s g k i d) := by
  delta activate
  repeat' first
    | with_reducible assumption
    | with_reducible apply dieErrors_kept
    | with_reducible apply count_kept
    | with_reducible apply setSlice_kept
    | with_reducible apply proceed_kept
    | with_reducible apply touchWay_kept
    | (try lift_lets); intro x; refine kept_have (s0 := s0) (s := ‹State›) ?_ ?_; unfold x; rotate_left; intro hx; clear_value x
    | (try lift_lets); intro x; clear_value x
    | split
    | dsimp only

theorem execConflictListActivate_kept {s0 : State} (g : SliceId) (d : DieRead) (s : State) (hk : Kept s0 s) : KeptRes s0 (execConflictListActivate g d s) := by
  delta execConflictListActivate
  repeat' first
    | with_reducible assumption
    | with_reducible apply kept_next
    | with_reducible apply activate_kept
    | with_reducible apply setSlice_kept
    | (try lift_lets); intro x; clear_value x
    | split
    | dsimp only

theorem execDirectoryClearDone_kept {s0 : State} (s : State) (hk : Kept s0 s) : KeptRes s0 (execDirectoryClearDone s) := by
  delta execDirectoryClearDone
  repeat' first
    | with_reducible assumption
    | with_reducible apply kept_next
    | with_reducible apply setSlice_kept
    | with_reducible apply kept_foldl
    | refine fun _ => ?_
    | (try lift_lets); intro x; refine kept_have (s0 := s0) (s := ‹State›) ?_ ?_; unfold x; rotate_left; intro hx; clear_value x
    | (try lift_lets); intro x; clear_value x
    | split
    | simp -zeta only [kept_mk]
    | dsimp only

theorem closeHolding_kept {s0 : State} (s : State) (g : Nat) (k : Nat) (n : Nat) (a : Active) (hk : Kept s0 s) : Kept s0 (closeHolding s g k n a) := by
  delta closeHolding
  repeat' first
    | with_reducible assumption
    | with_reducible apply putEnt_kept
    | with_reducible apply endAct_kept
    | with_reducible apply removeEnt_kept
    | (try lift_lets); intro x; refine kept_have (s0 := s0) (s := ‹State›) ?_ ?_; unfold x; rotate_left; intro hx; clear_value x
    | (try lift_lets); intro x; clear_value x
    | split
    | dsimp only

theorem endTransient_kept {s0 : State} (s : State) (g : Nat) (k : Nat) (n : Nat) (a : Active) (hk : Kept s0 s) : Kept s0 (endTransient s g k n a) := by
  delta endTransient
  dsimp only
  repeat' first
    | with_reducible assumption
    | with_reducible apply closeHolding_kept
    | with_reducible apply endAct_kept
    | with_reducible apply toMemory_kept
    | with_reducible apply markGrant_kept
    | with_reducible apply restO_kept
    | with_reducible apply restI_kept
    | with_reducible apply dropTxn_kept
    | with_reducible apply restS_kept
    | split
    | dsimp only

theorem judgeTransient_kept {s0 : State} (s : State) (g : Nat) (k : Nat) (hk : Kept s0 s) : Kept s0 (judgeTransient s g k) := by
  delta judgeTransient
  repeat' first
    | with_reducible assumption
    | with_reducible apply endTransient_kept
    | split
    | dsimp only

theorem takeRequest_kept {s0 : State} (s : State) (g : Nat) (i : Nat) (d : DieRead) (hk : Kept s0 s) : Kept s0 (takeRequest s g i d) := by
  delta takeRequest
  repeat' first
    | with_reducible assumption
    | with_reducible apply setSlice_kept
    | with_reducible apply activate_kept
    | (try lift_lets); intro x; clear_value x
    | split
    | dsimp only

theorem wbOnDie_kept {s0 : State} (s : State) (g : Nat) (k : Nat) (n : Nat) (i : Nat) (hk : Kept s0 s) : Kept s0 (wbOnDie s g k n i) := by
  delta wbOnDie
  repeat' first
    | with_reducible assumption
    | with_reducible apply toMemory_kept
    | with_reducible apply changeEnt_kept
    | with_reducible apply removeEnt_kept
    | with_reducible apply modAct_kept
    | with_reducible apply judgeTransient_kept
    | with_reducible apply takeRequest_kept
    | with_reducible apply setTxn_kept
    | (try lift_lets); intro x; refine kept_have (s0 := s0) (s := ‹State›) ?_ ?_; unfold x; rotate_left; intro hx; clear_value x
    | (try lift_lets); intro x; clear_value x
    | intro _
    | split
    | dsimp only

theorem adaptNow_kept {s0 : State} (s : State) (p : Nat) (hk : Kept s0 s) : Kept s0 (adaptNow s p) := by
  delta adaptNow
  repeat' first
    | with_reducible assumption
    | with_reducible apply setLane_kept
    | with_reducible apply kept_foldl
    | refine fun _ => ?_
    | (try lift_lets); intro x; clear_value x
    | dsimp only

theorem execBackingReadReturn_kept {s0 : State} (g : SliceId) (b : BackRead) (s : State) (hk : Kept s0 s) : KeptRes s0 (execBackingReadReturn g b s) := by
  delta execBackingReadReturn
  repeat' first
    | with_reducible assumption
    | with_reducible apply kept_next
    | with_reducible apply lookupSet_kept
    | with_reducible apply setErrors_kept
    | split
    | dsimp only

theorem takeSink_out {s0 s t : State} {g c i : Nat} (e : takeSink s g c = some (i, t)) (hk : Kept s0 s) : Kept s0 t := by
  unfold takeSink at e
  try dsimp only at e
  repeat' split at e
  all_goals first | contradiction | skip
  all_goals simp only [Option.some.injEq, Prod.mk.injEq] at e
  all_goals obtain ⟨rfl, rfl⟩ := e
  all_goals
    repeat' first
      | with_reducible assumption
      | with_reducible apply setSlice_kept
      | simp -zeta only [kept_mk]

theorem execWb_kept {s0 : State} (g : SliceId) (d : DieRead) (b : BackRead) (s : State) (hk : Kept s0 s) : KeptRes s0 (execWb g d b s) := by
  delta execWb
  repeat' first
    | with_reducible assumption
    | with_reducible apply kept_next
    | with_reducible apply dieErrors_kept
    | with_reducible apply wbOnDie_kept
    | with_reducible apply readEnt_kept
    | with_reducible apply setErrors_kept
    | with_reducible apply toMemory_kept
    | with_reducible apply setBack_kept
    | with_reducible apply takeRequest_kept
    | with_reducible apply setTxn_kept
    | refine takeSink_out ‹_› ?_
    | (try lift_lets); intro x; refine kept_have (s0 := s0) (s := ‹State›) ?_ ?_; unfold x; rotate_left; intro hx; clear_value x
    | (try lift_lets); intro x; clear_value x
    | split
    | dsimp only

theorem execPatrolRead_kept {s0 : State} (g : SliceId) (b : BackRead) (s : State) (hk : Kept s0 s) : KeptRes s0 (execPatrolRead g b s) := by
  delta execPatrolRead
  repeat' first
    | with_reducible assumption
    | with_reducible apply kept_next
    | with_reducible apply setErrors_kept
    | with_reducible apply setSlice_kept
    | (try lift_lets); intro x; clear_value x
    | split
    | dsimp only

theorem snoopAnswer_kept {s0 : State} (s : State) (g : Nat) (k : Nat) (c : Nat) (st : Nat) (wbf : Bool) (hk : Kept s0 s) : Kept s0 (snoopAnswer s g k c st wbf) := by
  delta snoopAnswer
  repeat' first
    | with_reducible assumption
    | with_reducible apply modAct_kept
    | with_reducible apply judgeTransient_kept
    | (try lift_lets); intro x; refine kept_have (s0 := s0) (s := ‹State›) ?_ ?_; unfold x; rotate_left; intro hx; clear_value x
    | split
    | dsimp only

theorem execD2hUnsupported_kept {s0 : State} (p : PortId) (tag : BitVec 16) (s : State) (hk : Kept s0 s) : KeptRes s0 (execD2hUnsupported p tag s) := by
  delta execD2hUnsupported
  repeat' first
    | with_reducible assumption
    | with_reducible apply kept_next
    | with_reducible apply raiseEvent_kept
    | with_reducible apply emit_kept
    | dsimp only

theorem acceptReq_kept {s0 : State} (s : State) (g : Nat) (cmd : Nat) (d : DieRead) (hk : Kept s0 s) : Kept s0 (acceptReq s g cmd d) := by
  delta acceptReq
  repeat' first
    | with_reducible assumption
    | with_reducible apply takeRequest_kept
    | with_reducible apply setSlice_kept
    | (try lift_lets); intro x; clear_value x
    | split
    | dsimp only

theorem execMrdOwn_kept {s0 : State} (g : SliceId) (d : DieRead) (s : State) (hk : Kept s0 s) : KeptRes s0 (execMrdOwn g d s) := by
  delta execMrdOwn
  repeat' first
    | with_reducible assumption
    | with_reducible apply kept_next
    | with_reducible apply acceptReq_kept
    | dsimp only

theorem execSnpFwd_kept {s0 : State} (p : PortId) (s : State) (hk : Kept s0 s) : KeptRes s0 (execSnpFwd p s) := by
  delta execSnpFwd
  repeat' first
    | with_reducible assumption
    | with_reducible apply kept_next
    | with_reducible apply emit_kept
    | with_reducible apply dropTxn_kept
    | (try lift_lets); intro x; refine kept_have (s0 := s0) (s := ‹State›) ?_ ?_; unfold x; rotate_left; intro hx; clear_value x
    | (try lift_lets); intro x; clear_value x
    | split
    | simp -zeta only [kept_mk]
    | dsimp only

theorem lossAnswer_kept {s0 : State} (s : State) (p : Nat) (i : Nat) (hk : Kept s0 s) : Kept s0 (lossAnswer s p i) := by
  delta lossAnswer
  repeat' first
    | with_reducible assumption
    | with_reducible apply count_kept
    | with_reducible apply dropTxn_kept
    | with_reducible apply setTxn_kept
    | with_reducible apply newTxn_kept
    | with_reducible apply complete_kept
    | with_reducible apply answer_kept
    | with_reducible apply raiseEvent_kept
    | (try lift_lets); intro x; refine kept_have (s0 := s0) (s := ‹State›) ?_ ?_; unfold x; rotate_left; intro hx; clear_value x
    | (try lift_lets); intro x; clear_value x
    | intro _
    | split
    | dsimp only

theorem execLossResponseIssue_kept {s0 : State} (p : PortId) (s : State) (hk : Kept s0 s) : KeptRes s0 (execLossResponseIssue p s) := by
  delta execLossResponseIssue
  repeat' first
    | with_reducible assumption
    | with_reducible apply kept_next
    | with_reducible apply lossAnswer_kept
    | split
    | dsimp only

theorem toPid_kept {s0 : State} (s : State) (p : Nat) (pid : Nat) (cmd : Nat) (mval : Nat) (addr : Nat) (tag : Nat) (data : List Byte) (hk : Kept s0 s) : Kept s0 (toPid s p pid cmd mval addr tag data) := by
  delta toPid
  repeat' first
    | with_reducible assumption
    | with_reducible apply newTxn_kept
    | with_reducible apply count_kept
    | split
    | dsimp only

theorem execSnpRsp_kept {s0 : State} (g : SliceId) (d : DieRead) (s : State) (hk : Kept s0 s) : KeptRes s0 (execSnpRsp g d s) := by
  delta execSnpRsp
  repeat' first
    | with_reducible assumption
    | with_reducible apply kept_next
    | with_reducible apply dieErrors_kept
    | with_reducible apply snoopAnswer_kept
    | with_reducible apply dropTxn_kept
    | refine takeSink_out ‹_› ?_
    | (try lift_lets); intro x; refine kept_have (s0 := s0) (s := ‹State›) ?_ ?_; unfold x; rotate_left; intro hx; clear_value x
    | (try lift_lets); intro x; clear_value x
    | split
    | dsimp only

theorem fillScq_kept {s0 : State} (s : State) (g : Nat) (hk : Kept s0 s) : Kept s0 (fillScq s g) := by
  delta fillScq
  repeat' first
    | with_reducible assumption
    | with_reducible apply joinScq_kept
    | split
    | dsimp only

theorem execDone_kept {s0 : State} (g : SliceId) (d : DieRead) (s : State) (hk : Kept s0 s) : KeptRes s0 (execDone g d s) := by
  delta execDone
  repeat' first
    | with_reducible assumption
    | with_reducible apply kept_next
    | with_reducible apply dieErrors_kept
    | with_reducible apply dropTxn_kept
    | with_reducible apply setSlice_kept
    | with_reducible apply setWay_kept
    | with_reducible apply settleEnt_kept
    | with_reducible apply sendReady_kept
    | with_reducible apply count_kept
    | refine takeSink_out ‹_› ?_
    | (try lift_lets); intro x; refine kept_have (s0 := s0) (s := ‹State›) ?_ ?_; unfold x; rotate_left; intro hx; clear_value x
    | (try lift_lets); intro x; clear_value x
    | split
    | dsimp only

theorem execBiConflict_kept {s0 : State} (p : PortId) (addr : BitVec 64) (tag : BitVec 16) (s : State) (hk : Kept s0 s) : KeptRes s0 (execBiConflict p addr tag s) := by
  delta execBiConflict
  repeat' first
    | with_reducible assumption
    | with_reducible apply kept_next
    | with_reducible apply emit_kept
    | dsimp only

theorem execMemInv_kept {s0 : State} (p : PortId) (own : Bool) (m : Msg) (s : State) (hk : Kept s0 s) : KeptRes s0 (execMemInv p own m s) := by
  delta execMemInv
  repeat' first
    | with_reducible assumption
    | with_reducible apply kept_next
    | with_reducible apply lookupOutcome_kept
    | with_reducible apply countPort_kept
    | with_reducible apply count_kept
    | (try lift_lets); intro x; clear_value x
    | split
    | dsimp only

theorem execErr_kept {s0 : State} (g : SliceId) (d : DieRead) (s : State) (hk : Kept s0 s) : KeptRes s0 (execErr g d s) := by
  delta execErr
  repeat' first
    | with_reducible assumption
    | with_reducible apply kept_next
    | with_reducible apply dieErrors_kept
    | with_reducible apply dropTxn_kept
    | with_reducible apply putEnt_kept
    | with_reducible apply homeAct_kept
    | with_reducible apply closeHolding_kept
    | with_reducible apply snoopAnswer_kept
    | refine takeSink_out ‹_› ?_
    | (try lift_lets); intro x; refine kept_have (s0 := s0) (s := ‹State›) ?_ ?_; unfold x; rotate_left; intro hx; clear_value x
    | (try lift_lets); intro x; clear_value x
    | split
    | dsimp only

theorem execCleanEvict_kept {s0 : State} (p : PortId) (tag : BitVec 16) (data : Bool) (s : State) (hk : Kept s0 s) : KeptRes s0 (execCleanEvict p tag data s) := by
  delta execCleanEvict
  repeat' first
    | with_reducible assumption
    | with_reducible apply kept_next
    | with_reducible apply emit_kept
    | split
    | dsimp only

theorem execMrd_kept {s0 : State} (g : SliceId) (d : DieRead) (s : State) (hk : Kept s0 s) : KeptRes s0 (execMrd g d s) := by
  delta execMrd
  repeat' first
    | with_reducible assumption
    | with_reducible apply kept_next
    | with_reducible apply acceptReq_kept
    | dsimp only

theorem execMrdNa_kept {s0 : State} (g : SliceId) (d : DieRead) (s : State) (hk : Kept s0 s) : KeptRes s0 (execMrdNa g d s) := by
  delta execMrdNa
  repeat' first
    | with_reducible assumption
    | with_reducible apply kept_next
    | with_reducible apply acceptReq_kept
    | dsimp only

theorem execMwr_kept {s0 : State} (g : SliceId) (d : DieRead) (s : State) (hk : Kept s0 s) : KeptRes s0 (execMwr g d s) := by
  delta execMwr
  repeat' first
    | with_reducible assumption
    | with_reducible apply kept_next
    | with_reducible apply acceptReq_kept
    | dsimp only

theorem execMwrPtl_kept {s0 : State} (g : SliceId) (d : DieRead) (s : State) (hk : Kept s0 s) : KeptRes s0 (execMwrPtl g d s) := by
  delta execMwrPtl
  repeat' first
    | with_reducible assumption
    | with_reducible apply kept_next
    | with_reducible apply acceptReq_kept
    | dsimp only

theorem execProxySnoopAnswer_kept {s0 : State} (p : PortId) (addr : BitVec 64) (kept : Fin 3) (dirty : Option (List Byte)) (s : State) (hk : Kept s0 s) : KeptRes s0 (execProxySnoopAnswer p addr kept dirty s) := by
  delta execProxySnoopAnswer
  repeat' first
    | with_reducible assumption
    | with_reducible apply kept_next
    | with_reducible apply deliverFwd_kept
    | with_reducible apply toPid_kept
    | (try lift_lets); intro x; refine kept_have (s0 := s0) (s := ‹State›) ?_ ?_; unfold x; rotate_left; intro hx; clear_value x
    | (try lift_lets); intro x; clear_value x
    | intro _
    | split
    | simp -zeta only [kept_mk]
    | dsimp only

theorem execDataFwd_kept {s0 : State} (p : PortId) (pid : BitVec 12) (tag : BitVec 16) (data : List Byte) (s : State) (hk : Kept s0 s) : KeptRes s0 (execDataFwd p pid tag data s) := by
  delta execDataFwd
  repeat' first
    | with_reducible assumption
    | with_reducible apply kept_next
    | with_reducible apply deliverFwd_kept
    | with_reducible apply countPort_kept
    | dsimp only

theorem execSetConflictRelease_kept {s0 : State} (g : SliceId) (s : State) (hk : Kept s0 s) : KeptRes s0 (execSetConflictRelease g s) := by
  delta execSetConflictRelease
  repeat' first
    | with_reducible assumption
    | with_reducible apply kept_next
    | with_reducible apply setSlice_kept
    | with_reducible apply fillScq_kept
    | with_reducible apply lookupSet_kept
    | with_reducible apply startEviction_kept
    | with_reducible apply readSet_kept
    | (try lift_lets); intro x; refine kept_have (s0 := s0) (s := ‹State›) ?_ ?_; unfold x; rotate_left; intro hx; clear_value x
    | (try lift_lets); intro x; clear_value x
    | split
    | dsimp only

end Sys2Proof.Machine
end

