-- ==== Sys2Proof/Laws/KeptLinks.lean ====
section
/-! SUPPORT. What Trorno, the lanes, the service endpoints and the ports keep of the state (Kept): one lemma per operation and meaning. -/
namespace Sys2Proof.Machine

theorem subWasReset_kept {s0 : State} (s : State) (sub : Nat) (hk : Kept s0 s) : Kept s0 (subWasReset s sub) := by
  delta subWasReset
  repeat' first
    | with_reducible assumption
    | with_reducible apply setEngine_kept
    | with_reducible apply kept_foldl
    | refine fun _ => ?_
    | (try lift_lets); intro x; clear_value x
    | split
    | dsimp only

theorem stopDescs_kept {s0 : State} (s : State) (sub : Nat) (hk : Kept s0 s) : Kept s0 (stopDescs s sub) := by
  delta stopDescs
  repeat' first
    | with_reducible assumption
    | (try lift_lets); intro x; clear_value x
    | split
    | simp -zeta only [kept_mk]
    | dsimp only

theorem queueOff_kept {s0 : State} (s : State) (q : Nat) (hk : Kept s0 s) : Kept s0 (queueOff s q) := by
  delta queueOff
  repeat' first
    | with_reducible assumption
    | with_reducible apply setEq_kept
    | (try lift_lets); intro x; clear_value x
    | dsimp only

theorem genUp_kept {s0 : State} (s : State) (f : Nat) (hk : Kept s0 s) : Kept s0 (genUp s f) := by
  delta genUp
  repeat' first
    | with_reducible assumption
    | with_reducible apply setLive_kept
    | dsimp only

/-- Freeing claims keeps the claims table's form. -/
theorem freed_wf (is : List Nat) (m : SMap Nat) (h : Claims.wf m = true) : Claims.wf (is.foldl (fun m i => smSet 0xFFFF m i 0xFFFF) m) = true := by
  induction is generalizing m with
  | nil => exact h
  | cons i is ih => exact ih _ (smWf_smSet (fun _ => 0xFFFF) m i 0xFFFF h)

theorem releaseClaims_kept {s0 : State} (s : State) (is : List Nat) (hk : Kept s0 s) : Kept s0 (releaseClaims s is) := by
  delta releaseClaims
  refine deviceUpdate_kept _ _ ⟨hk.pending, hk.clock, hk.hbm, hk.tab, fun w => ?_, hk.engines, hk.svn1, hk.svn2⟩
  exact freed_wf is s.claims (hk.claims w)

theorem vfReset_kept {s0 : State} (s : State) (v : Nat) (hk : Kept s0 s) : Kept s0 (vfReset s v) := by
  delta vfReset
  repeat' first
    | with_reducible assumption
    | with_reducible apply finish_kept
    | with_reducible apply subWasReset_kept
    | with_reducible apply stopDescs_kept
    | with_reducible apply queueOff_kept
    | with_reducible apply deviceUpdate_kept
    | with_reducible apply setLive_kept
    | with_reducible apply genUp_kept
    | with_reducible apply releaseClaims_kept
    | with_reducible apply kept_foldl
    | refine fun _ => ?_
    | (try lift_lets); intro x; refine kept_have (s0 := s0) (s := ‹State›) ?_ ?_; unfold x; rotate_left; intro hx; clear_value x
    | (try lift_lets); intro x; clear_value x
    | split
    | simp -zeta only [kept_mk]
    | dsimp only

theorem setIsl_kept {s0 : State} (s : State) (p : Nat) (x : Isl) (hk : Kept s0 s) : Kept s0 (setIsl s p x) := by
  delta setIsl
  repeat' first
    | with_reducible assumption
    | simp -zeta only [kept_mk]
    | dsimp only

theorem modIsl_kept {s0 : State} (s : State) (p : Nat) (f : Isl → Isl) (hk : Kept s0 s) : Kept s0 (modIsl s p f) := by
  delta modIsl
  repeat' first
    | with_reducible assumption
    | with_reducible apply setIsl_kept
    | dsimp only

theorem injectMask_kept {s0 : State} (s : State) (l : Nat) (word : Nat) (n : Nat) (hk : Kept s0 s) : Kept s0 (injectMask s l word n).1 := by
  delta injectMask
  repeat' first
    | with_reducible assumption
    | with_reducible apply setLane_kept
    | with_reducible apply tick_kept
    | (try lift_lets); intro x; clear_value x
    | split
    | simp -zeta only [kept_mk]
    | dsimp only

theorem codewordsOut_kept {s0 : State} (s : State) (l : List (Nat × List Byte)) (hk : Kept s0 s) : Kept s0 (codewordsOut s l).1 := by
  induction l generalizing s with
  | nil => exact hk
  | cons a l ih =>
    obtain ⟨n, d⟩ := a
    unfold codewordsOut
    exact ih _ (injectMask_kept _ _ _ _ hk)

theorem codewordOut_kept {s0 : State} (s : State) (p : Nat) (bs : List Byte) (hk : Kept s0 s) : Kept s0 (codewordOut s p bs) := by
  delta codewordOut
  repeat' first
    | with_reducible assumption
    | with_reducible apply codewordsOut_kept
    | with_reducible apply emit_kept
    | (try lift_lets); intro x; refine kept_have (s0 := s0) (s := (‹State × List (List Level)›).1) ?_ ?_; unfold x; rotate_left; intro hx; clear_value x
    | (try lift_lets); intro x; clear_value x
    | dsimp only

theorem stopStream_kept {s0 : State} (s : State) (p : Nat) (hk : Kept s0 s) : Kept s0 (stopStream s p) := by
  delta stopStream
  repeat' first
    | with_reducible assumption
    | with_reducible apply modIsl_kept
    | with_reducible apply codewordOut_kept
    | (try lift_lets); intro x; clear_value x
    | split
    | dsimp only

theorem markerRun_kept {s0 : State} (s : State) (p : Nat) (hk : Kept s0 s) : Kept s0 (markerRun s p) := by
  delta markerRun
  repeat' first
    | with_reducible assumption
    | with_reducible apply stopStream_kept
    | with_reducible apply emit_kept
    | (try lift_lets); intro x; refine kept_have (s0 := s0) (s := ‹State›) ?_ ?_; unfold x; rotate_left; intro hx; clear_value x
    | split
    | dsimp only

theorem syncOpen_kept {s0 : State} (s : State) (p : Nat) (hk : Kept s0 s) : Kept s0 (syncOpen s p) := by
  delta syncOpen
  repeat' first
    | with_reducible assumption
    | with_reducible apply modIsl_kept
    | split
    | dsimp only

theorem setSess_kept {s0 : State} (s : State) (p : Nat) (lo : Nat) (w : Nat) (v : Nat) (hk : Kept s0 s) : Kept s0 (setSess s p lo w v) := by
  delta setSess
  repeat' first
    | with_reducible assumption
    | with_reducible apply setLive_kept
    | dsimp only

theorem setTstate_kept {s0 : State} (s : State) (p : Nat) (v : Nat) (hk : Kept s0 s) : Kept s0 (setTstate s p v) := by
  delta setTstate
  repeat' first
    | with_reducible assumption
    | with_reducible apply syncOpen_kept
    | with_reducible apply setLive_kept
    | with_reducible apply setSess_kept
    | split
    | dsimp only

theorem enterDetect_kept {s0 : State} (s : State) (p : Nat) (hk : Kept s0 s) : Kept s0 (enterDetect s p) := by
  delta enterDetect
  repeat' first
    | with_reducible assumption
    | with_reducible apply setLane_kept
    | with_reducible apply setLive_kept
    | with_reducible apply markerRun_kept
    | with_reducible apply setTstate_kept
    | with_reducible apply modIsl_kept
    | with_reducible apply kept_foldl
    | refine fun _ => ?_
    | (try lift_lets); intro x; refine kept_have (s0 := s0) (s := ‹State›) ?_ ?_; unfold x; rotate_left; intro hx; clear_value x
    | (try lift_lets); intro x; clear_value x
    | dsimp only

theorem endSession_kept {s0 : State} (s : State) (p : Nat) (hk : Kept s0 s) : Kept s0 (endSession s p) := by
  delta endSession
  repeat' first
    | with_reducible assumption
    | with_reducible apply setTstate_kept
    | with_reducible apply setSess_kept
    | (try lift_lets); intro x; refine kept_have (s0 := s0) (s := ‹State›) ?_ ?_; unfold x; rotate_left; intro hx; clear_value x
    | simp -zeta only [kept_mk]
    | dsimp only

theorem upClearsLost_kept {s0 : State} (s : State) (p : Nat) (hk : Kept s0 s) : Kept s0 (upClearsLost s p) := by
  delta upClearsLost
  repeat' first
    | with_reducible assumption
    | with_reducible apply setLive_kept
    | split
    | dsimp only

theorem laneCount_kept {s0 : State} (s : State) (l : Nat) (lo : Nat) (n : Nat) (hk : Kept s0 s) : Kept s0 (laneCount s l lo n) := by
  delta laneCount
  repeat' first
    | with_reducible assumption
    | with_reducible apply setLive_kept
    | dsimp only

theorem checkerCount_kept {s0 : State} (s : State) (l : Nat) (errs : Nat) (hk : Kept s0 s) : Kept s0 (checkerCount s l errs) := by
  delta checkerCount
  repeat' first
    | with_reducible assumption
    | with_reducible apply setLane_kept
    | with_reducible apply laneCount_kept
    | (try lift_lets); intro x; clear_value x
    | split
    | dsimp only

theorem loopBack_kept {s0 : State} (s : State) (l : Nat) (rx : List Level) (hk : Kept s0 s) : Kept s0 (loopBack s l rx) := by
  delta loopBack
  repeat' first
    | with_reducible assumption
    | with_reducible apply emit_kept
    | split
    | dsimp only

theorem execLockLoss_kept {s0 : State} (l : LaneId) (rx : List Level) (s : State) (hk : Kept s0 s) : KeptRes s0 (execLockLoss l rx s) := by
  delta execLockLoss
  repeat' first
    | with_reducible assumption
    | with_reducible apply kept_next
    | with_reducible apply setLaneBit_kept
    | with_reducible apply checkerCount_kept
    | with_reducible apply loopBack_kept
    | with_reducible apply setLane_kept
    | with_reducible apply setLive_kept
    | (try lift_lets); intro x; refine kept_have (s0 := s0) (s := ‹State›) ?_ ?_; unfold x; rotate_left; intro hx; clear_value x
    | (try lift_lets); intro x; clear_value x
    | split
    | dsimp only

theorem partnerTrusted_kept {s0 : State} (s : State) (p : Nat) (hk : Kept s0 s) : Kept s0 (partnerTrusted s p) := by
  delta partnerTrusted
  repeat' first
    | with_reducible assumption
    | with_reducible apply setSess_kept
    | with_reducible apply giveBack_kept
    | with_reducible apply kept_foldl
    | refine fun _ => ?_
    | split
    | dsimp only

theorem execIdeKeyManagement_kept {s0 : State} (p : PortId) (stream : Fin 2) (ok : Bool) (s : State) (hk : Kept s0 s) : KeptRes s0 (execIdeKeyManagement p stream ok s) := by
  delta execIdeKeyManagement
  repeat' first
    | with_reducible assumption
    | with_reducible apply kept_next
    | with_reducible apply raiseEvent_kept
    | with_reducible apply egressFlush_kept
    | with_reducible apply setLive_kept
    | (try lift_lets); intro x; refine kept_have (s0 := s0) (s := ‹State›) ?_ ?_; unfold x; rotate_left; intro hx; clear_value x
    | (try lift_lets); intro x; clear_value x
    | split
    | simp -zeta only [kept_mk]
    | dsimp only

theorem execCreditPeriod_kept {s0 : State} (p : PortId) (s : State) (hk : Kept s0 s) : KeptRes s0 (execCreditPeriod p s) := by
  delta execCreditPeriod
  repeat' first
    | with_reducible assumption
    | with_reducible apply kept_next
    | with_reducible apply raiseEvent_kept
    | with_reducible apply setSess_kept
    | with_reducible apply feedGauge_kept
    | with_reducible apply modIsl_kept
    | with_reducible apply kept_foldl
    | refine fun _ => ?_
    | (try lift_lets); intro x; refine kept_have (s0 := s0) (s := ‹State›) ?_ ?_; unfold x; rotate_left; intro hx; clear_value x
    | (try lift_lets); intro x; clear_value x
    | split
    | dsimp only

theorem sinkReplies_kept {s0 : State} (s : State) (p : Nat) (hk : Kept s0 s) : Kept s0 (sinkReplies s p) := by
  delta sinkReplies
  repeat' first
    | with_reducible assumption
    | with_reducible apply sinkReply_kept
    | with_reducible apply setTxn_kept
    | with_reducible apply kept_foldl
    | refine fun _ => ?_
    | (try lift_lets); intro x; refine kept_have (s0 := s0) (s := ‹State›) ?_ ?_; unfold x; rotate_left; intro hx; clear_value x
    | (try lift_lets); intro x; clear_value x
    | dsimp only

theorem closeRx_kept {s0 : State} (s : State) (p : Nat) (hk : Kept s0 s) : Kept s0 (closeRx s p) := by
  delta closeRx
  repeat' first
    | with_reducible assumption
    | with_reducible apply modIsl_kept
    | with_reducible apply cancelTxn_kept
    | with_reducible apply count_kept
    | (try lift_lets); intro x; refine kept_have (s0 := s0) (s := ‹State›) ?_ ?_; unfold x; rotate_left; intro hx; clear_value x
    | split
    | dsimp only

theorem voidOpens_kept {s0 : State} (s : State) (p : Nat) (hk : Kept s0 s) : Kept s0 (voidOpens s p) := by
  delta voidOpens
  repeat' first
    | with_reducible assumption
    | with_reducible apply newTxn_kept
    | with_reducible apply kept_foldl
    | refine fun _ => ?_
    | dsimp only

theorem contain_kept {s0 : State} (s : State) (p : Nat) (hk : Kept s0 s) : Kept s0 (contain s p) := by
  delta contain
  repeat' first
    | with_reducible assumption
    | with_reducible apply sinkReplies_kept
    | with_reducible apply markLoss_kept
    | with_reducible apply closeIngress_kept
    | with_reducible apply closeRx_kept
    | with_reducible apply lowEnd_kept
    | with_reducible apply deviceUpdate_kept
    | with_reducible apply setLive_kept
    | with_reducible apply voidOpens_kept
    | with_reducible apply loseAgents_kept
    | with_reducible apply setSess_kept
    | with_reducible apply modIsl_kept
    | (try lift_lets); intro x; refine kept_have (s0 := s0) (s := ‹State›) ?_ ?_; unfold x; rotate_left; intro hx; clear_value x
    | (try lift_lets); intro x; clear_value x
    | simp -zeta only [kept_mk]
    | dsimp only

theorem execReopenDeadline_kept {s0 : State} (p : PortId) (s : State) (hk : Kept s0 s) : KeptRes s0 (execReopenDeadline p s) := by
  delta execReopenDeadline
  repeat' first
    | with_reducible assumption
    | with_reducible apply kept_next
    | with_reducible apply setTstate_kept
    | with_reducible apply contain_kept
    | split
    | dsimp only

theorem execVfFrostTimeout_kept {s0 : State} (v : VfId) (s : State) (hk : Kept s0 s) : KeptRes s0 (execVfFrostTimeout v s) := by
  delta execVfFrostTimeout
  repeat' first
    | with_reducible assumption
    | with_reducible apply kept_next
    | with_reducible apply finish_kept
    | with_reducible apply kept_foldl
    | refine fun _ => ?_
    | split
    | dsimp only

theorem setRxLean_kept {s0 : State} (s : State) (p : Nat) (hk : Kept s0 s) : Kept s0 (setRxLean s p) := by
  delta setRxLean
  repeat' first
    | with_reducible assumption
    | with_reducible apply setSess_kept
    | with_reducible apply syncOpen_kept
    | (try lift_lets); intro x; refine kept_have (s0 := s0) (s := ‹State›) ?_ ?_; unfold x; rotate_left; intro hx; clear_value x
    | split
    | dsimp only

theorem enterWake_kept {s0 : State} (s : State) (p : Nat) (long : Bool) (hk : Kept s0 s) : Kept s0 (enterWake s p long) := by
  delta enterWake
  repeat' first
    | with_reducible assumption
    | with_reducible apply markerRun_kept
    | with_reducible apply setTstate_kept
    | with_reducible apply modIsl_kept
    | dsimp only

theorem leaveOpen_kept {s0 : State} (s : State) (p : Nat) (reason : Nat) (hk : Kept s0 s) : Kept s0 (leaveOpen s p reason) := by
  delta leaveOpen
  repeat' first
    | with_reducible assumption
    | with_reducible apply lowEnd_kept
    | with_reducible apply closeRx_kept
    | with_reducible apply modIsl_kept
    | with_reducible apply count_kept
    | with_reducible apply setSess_kept
    | with_reducible apply setLive_kept
    | with_reducible apply raiseEvent_kept
    | with_reducible apply enterWake_kept
    | (try lift_lets); intro x; refine kept_have (s0 := s0) (s := ‹State›) ?_ ?_; unfold x; rotate_left; intro hx; clear_value x
    | split
    | dsimp only

theorem countFatal_kept {s0 : State} (s : State) (p : Nat) (reason : Nat) (hk : Kept s0 s) : Kept s0 (countFatal s p reason) := by
  delta countFatal
  repeat' first
    | with_reducible assumption
    | with_reducible apply modIsl_kept
    | with_reducible apply raiseEvent_kept
    | with_reducible apply setSess_kept
    | with_reducible apply setRxLean_kept
    | (try lift_lets); intro x; refine kept_have (s0 := s0) (s := ‹State›) ?_ ?_; unfold x; rotate_left; intro hx; clear_value x
    | (try lift_lets); intro x; clear_value x
    | split
    | dsimp only

theorem leanFatal_kept {s0 : State} (s : State) (p : Nat) (hk : Kept s0 s) : Kept s0 (leanFatal s p) := by
  delta leanFatal
  repeat' first
    | with_reducible assumption
    | with_reducible apply setRxLean_kept
    | with_reducible apply modIsl_kept
    | with_reducible apply leaveOpen_kept
    | with_reducible apply countFatal_kept
    | (try lift_lets); intro x; refine kept_have (s0 := s0) (s := ‹State›) ?_ ?_; unfold x; rotate_left; intro hx; clear_value x
    | dsimp only

theorem discardOne_kept {s0 : State} (s : State) (p : Nat) (hk : Kept s0 s) : Kept s0 (discardOne s p) := by
  delta discardOne
  repeat' first
    | with_reducible assumption
    | with_reducible apply modIsl_kept
    | with_reducible apply leaveOpen_kept
    | (try lift_lets); intro x; refine kept_have (s0 := s0) (s := ‹State›) ?_ ?_; unfold x; rotate_left; intro hx; clear_value x
    | split
    | dsimp only

theorem sendStream_kept {s0 : State} (s : State) (p : Nat) (bs : List Byte) (hk : Kept s0 s) : Kept s0 (sendStream s p bs) := by
  delta sendStream
  repeat' first
    | with_reducible assumption
    | with_reducible apply codewordOut_kept
    | with_reducible apply modIsl_kept
    | (try lift_lets); intro x; clear_value x
    | split
    | dsimp only

theorem launch_kept {s0 : State} (s : State) (p : Nat) (typ : Nat) (seq : Nat) (smap : Nat) (lean : Bool) (body : List Byte) (hk : Kept s0 s) : Kept s0 (launch s p typ seq smap lean body) := by
  delta launch
  repeat' first
    | with_reducible assumption
    | with_reducible apply sendStream_kept
    | with_reducible apply emit_kept
    | with_reducible apply setIsl_kept
    | with_reducible apply kept_foldl
    | refine fun _ => ?_
    | (try lift_lets); intro x; refine kept_have (s0 := s0) (s := ‹State›) ?_ ?_; unfold x; rotate_left; intro hx; clear_value x
    | (try lift_lets); intro x; clear_value x
    | simp -zeta only [kept_mk]
    | dsimp only

theorem launchPlain_kept {s0 : State} (s : State) (p : Nat) (typ : Nat) (body : List Byte) (hk : Kept s0 s) : Kept s0 (launchPlain s p typ body) := by
  delta launchPlain
  repeat' first
    | with_reducible assumption
    | with_reducible apply launch_kept
    | dsimp only

theorem sendNak_kept {s0 : State} (s : State) (p : Nat) (hk : Kept s0 s) : Kept s0 (sendNak s p) := by
  delta sendNak
  repeat' first
    | with_reducible assumption
    | with_reducible apply modIsl_kept
    | with_reducible apply launchPlain_kept
    | (try lift_lets); intro x; clear_value x
    | dsimp only

theorem detected_kept {s0 : State} (s : State) (p : Nat) (cause : Nat) (hk : Kept s0 s) : Kept s0 (detected s p cause) := by
  delta detected
  repeat' first
    | with_reducible assumption
    | with_reducible apply modIsl_kept
    | with_reducible apply discardOne_kept
    | with_reducible apply closeRx_kept
    | with_reducible apply sendNak_kept
    | (try lift_lets); intro x; refine kept_have (s0 := s0) (s := ‹State›) ?_ ?_; unfold x; rotate_left; intro hx; clear_value x
    | split
    | dsimp only

theorem takeCredits_kept {s0 : State} (s : State) (p : Nat) (cr : List Nat) (hk : Kept s0 s) : Kept s0 (takeCredits s p cr) := by
  delta takeCredits
  repeat' first
    | with_reducible assumption
    | with_reducible apply modIsl_kept
    | with_reducible apply kept_foldl
    | refine fun _ => ?_
    | (try lift_lets); intro x; clear_value x
    | dsimp only

theorem takeAck_kept {s0 : State} (s : State) (p : Nat) (ack : Nat) (hk : Kept s0 s) : Kept s0 (takeAck s p ack) := by
  delta takeAck
  repeat' first
    | with_reducible assumption
    | with_reducible apply modIsl_kept
    | (try lift_lets); intro x; clear_value x
    | split
    | dsimp only

theorem takeRxl_kept {s0 : State} (s : State) (p : Nat) (rxl : Bool) (hk : Kept s0 s) : Kept s0 (takeRxl s p rxl) := by
  delta takeRxl
  repeat' first
    | with_reducible assumption
    | with_reducible apply setRxLean_kept
    | with_reducible apply setSess_kept
    | split
    | dsimp only

theorem checkFolio_kept {s0 : State} (s : State) (p : Nat) (f : List Byte) (fec : Nat) (par : Bool) (hk : Kept s0 s) : Kept s0 (checkFolio s p f fec par).1 := by
  delta checkFolio
  repeat' first
    | with_reducible assumption
    | with_reducible apply leanFatal_kept
    | with_reducible apply detected_kept
    | with_reducible apply count_kept
    | with_reducible apply takeCredits_kept
    | with_reducible apply takeAck_kept
    | with_reducible apply takeRxl_kept
    | with_reducible apply modIsl_kept
    | (try lift_lets); intro x; clear_value x
    | split
    | dsimp only

theorem draftsAny_kept {s0 : State} (s : State) (e : Nat) (x : Engine) (l : List (Nat × Nat × Entry × Entry)) (hk : Kept s0 s) : Kept s0 (draftsAny s e x l).2.1 := by
  induction l generalizing s e x with
  | nil => exact hk
  | cons a l ih =>
    unfold draftsAny
    repeat' first
      | with_reducible assumption
      | with_reducible apply ih
      | with_reducible apply draftAny_kept
      | (try lift_lets); intro x; refine kept_have (s0 := s0) (s := (‹Nat × State × Engine›).2.1) ?_ ?_; unfold x; rotate_left; intro hx; clear_value x
      | split
      | dsimp only

theorem execVfEnable_kept {s0 : State} (e : EngineId) (s : State) (hk : Kept s0 s) : KeptRes s0 (execVfEnable e s) := by
  delta execVfEnable
  repeat' first
    | with_reducible assumption
    | with_reducible apply kept_next
    | with_reducible apply macroOp_kept
    | with_reducible apply draftsAny_kept
    | refine fun _ => ?_
    | (try lift_lets); intro x; clear_value x
    | split
    | dsimp only

theorem execVfSave_kept {s0 : State} (e : EngineId) (s : State) (hk : Kept s0 s) : KeptRes s0 (execVfSave e s) := by
  delta execVfSave
  repeat' first
    | with_reducible assumption
    | with_reducible apply kept_next
    | with_reducible apply macroThen_kept
    | with_reducible apply finish_kept
    | with_reducible apply memCheck_kept
    | with_reducible apply memStore_kept
    | with_reducible apply setLive_kept
    | refine fun _ => ?_
    | (try lift_lets); intro x; refine kept_have (s0 := s0) (s := (‹Nat × State›).2) ?_ ?_; unfold x; rotate_left; intro hx; clear_value x
    | (try lift_lets); intro x; refine kept_have (s0 := s0) (s := ‹State›) ?_ ?_; unfold x; rotate_left; intro hx; clear_value x
    | (try lift_lets); intro x; clear_value x
    | split
    | simp -zeta only [kept_mk]
    | dsimp only

theorem laneDrives_kept {s0 : State} (s : State) (l : Nat) (hk : Kept s0 s) : Kept s0 (laneDrives s l) := by
  delta laneDrives
  repeat' first
    | with_reducible assumption
    | with_reducible apply emit_kept
    | with_reducible apply injectMask_kept
    | with_reducible apply tick_kept
    | with_reducible apply setLane_kept
    | (try lift_lets); intro x; refine kept_have (s0 := s0) (s := (‹State × List Bool›).1) ?_ ?_; unfold x; rotate_left; intro hx; clear_value x
    | (try lift_lets); intro x; clear_value x
    | split
    | dsimp only

theorem laneInjects_kept {s0 : State} (s : State) (l : Nat) (hk : Kept s0 s) : Kept s0 (laneInjects s l) := by
  delta laneInjects
  repeat' first
    | with_reducible assumption
    | with_reducible apply injectMask_kept
    | with_reducible apply emit_kept
    | (try lift_lets); intro x; refine kept_have (s0 := s0) (s := (‹State × List Bool›).1) ?_ ?_; unfold x; rotate_left; intro hx; clear_value x
    | split
    | dsimp only

theorem laneFlip_kept {s0 : State} (s : State) (l : Nat) (old : Entry) (mask : Entry) (hk : Kept s0 s) : Kept s0 (laneFlip s l old mask) := by
  delta laneFlip
  repeat' first
    | with_reducible assumption
    | with_reducible apply setLane_kept
    | with_reducible apply laneCount_kept
    | with_reducible apply setLive_kept
    | with_reducible apply setLaneBit_kept
    | with_reducible apply laneDrives_kept
    | with_reducible apply laneInjects_kept
    | (try lift_lets); intro x; refine kept_have (s0 := s0) (s := ‹State›) ?_ ?_; unfold x; rotate_left; intro hx; clear_value x
    | (try lift_lets); intro x; clear_value x
    | split
    | dsimp only

theorem execParamTimeout_kept {s0 : State} (p : PortId) (s : State) (hk : Kept s0 s) : KeptRes s0 (execParamTimeout p s) := by
  delta execParamTimeout
  repeat' first
    | with_reducible assumption
    | with_reducible apply kept_next
    | with_reducible apply enterWake_kept
    | with_reducible apply modIsl_kept
    | split
    | dsimp only

theorem pfReset_kept {s0 : State} (s : State) (u : Nat) (hk : Kept s0 s) : Kept s0 (pfReset s u) := by
  delta pfReset
  repeat' first
    | with_reducible assumption
    | with_reducible apply vfReset_kept
    | with_reducible apply subWasReset_kept
    | with_reducible apply stopDescs_kept
    | with_reducible apply deviceUpdate_kept
    | with_reducible apply genUp_kept
    | with_reducible apply releaseClaims_kept
    | with_reducible apply queueOff_kept
    | with_reducible apply kept_foldl
    | refine fun _ => ?_
    | (try lift_lets); intro x; refine kept_have (s0 := s0) (s := ‹State›) ?_ ?_; unfold x; rotate_left; intro hx; clear_value x
    | (try lift_lets); intro x; clear_value x
    | simp -zeta only [kept_mk]
    | dsimp only

theorem loseCxl_kept {s0 : State} (s : State) (p : Nat) (code : Nat) (hk : Kept s0 s) : Kept s0 (loseCxl s p code) := by
  delta loseCxl
  repeat' first
    | with_reducible assumption
    | with_reducible apply losePort_kept
    | with_reducible apply pfReset_kept
    | (try lift_lets); intro x; refine kept_have (s0 := s0) (s := ‹State›) ?_ ?_; unfold x; rotate_left; intro hx; clear_value x
    | split
    | dsimp only

theorem slotEnable_kept {s0 : State} (s : State) (r : Nat) (on : Bool) (hk : Kept s0 s) : Kept s0 (slotEnable s r on) := by
  delta slotEnable
  repeat' first
    | with_reducible assumption
    | with_reducible apply setRingSlot_kept
    | (try lift_lets); intro x; clear_value x
    | split
    | dsimp only

theorem remoteErr_kept {s0 : State} (s : State) (p : Nat) (m : Msg) (hk : Kept s0 s) : Kept s0 (remoteErr s p m) := by
  delta remoteErr
  repeat' first
    | with_reducible assumption
    | with_reducible apply newTxn_kept
    | with_reducible apply lookupOutcome_kept
    | split
    | dsimp only

theorem deliver_kept {s0 : State} (s : State) (p : Nat) (u : Unit) (data : List Byte) (replayed : Bool) (hk : Kept s0 s) : Kept s0 (deliver s p u data replayed) := by
  delta deliver
  repeat' first
    | with_reducible assumption
    | with_reducible apply countPort_kept
    | with_reducible apply giveBack_kept
    | with_reducible apply modIsl_kept
    | with_reducible apply closeArrived_kept
    | with_reducible apply deliverFwd_kept
    | with_reducible apply remoteErr_kept
    | with_reducible apply takeResponse_kept
    | with_reducible apply chargeSlots_kept
    | with_reducible apply lookupOutcome_kept
    | with_reducible apply count_kept
    | (try lift_lets); intro x; refine kept_have (s0 := s0) (s := ‹State›) ?_ ?_; unfold x; rotate_left; intro hx; clear_value x
    | (try lift_lets); intro x; clear_value x
    | split
    | dsimp only

theorem forwardMore_kept {s0 : State} (s : State) (i : Nat) (data : List Byte) (last : Bool) (hk : Kept s0 s) : Kept s0 (forwardMore s i data last) := by
  delta forwardMore
  repeat' first
    | with_reducible assumption
    | with_reducible apply setTxn_kept
    | with_reducible apply sendPackets_kept
    | (try lift_lets); intro x; refine kept_have (s0 := s0) (s := ‹State›) ?_ ?_; unfold x; rotate_left; intro hx; clear_value x
    | (try lift_lets); intro x; clear_value x
    | split
    | dsimp only

theorem takeUnits_out {s0 : State} {p : Nat} {f : List Byte} {smap : Nat} {replayed : Bool} {k n : Nat} {s t : State}
    (e : takeUnits s p f smap replayed k n = some t) (hk : Kept s0 s) : Kept s0 t := by
  induction n generalizing s k with
  | zero => unfold takeUnits at e; simp only [Option.some.injEq] at e; exact e ▸ hk
  | succ n ih =>
    unfold takeUnits at e
    dsimp only at e
    repeat' split at e
    all_goals first | contradiction | skip
    all_goals refine ih e ?_
    all_goals
      repeat' first
        | with_reducible assumption
        | with_reducible apply giveBack_kept
        | with_reducible apply closeRx_kept
        | with_reducible apply deliver_kept
        | with_reducible apply forwardMore_kept
        | with_reducible apply cutAnswered_kept
        | with_reducible apply holdSlots_kept
        | with_reducible apply setIsl_kept
        | with_reducible apply modIsl_kept
        | split
        | simp -zeta only [kept_mk]

theorem detectAbsence_kept {s0 : State} (s : State) (p : Nat) (hk : Kept s0 s) : Kept s0 (detectAbsence s p) := by
  delta detectAbsence
  repeat' first
    | with_reducible assumption
    | with_reducible apply raiseEvent_kept
    | (try lift_lets); intro x; clear_value x
    | split
    | simp -zeta only [kept_mk]
    | dsimp only

theorem execPortLost_kept {s0 : State} (p : PortId) (dest : Fin 3) (s : State) (hk : Kept s0 s) : KeptRes s0 (execPortLost p dest s) := by
  delta execPortLost
  dsimp only
  repeat' first
    | with_reducible assumption
    | with_reducible apply kept_next
    | with_reducible apply detectAbsence_kept
    | with_reducible apply setLive_kept
    | with_reducible apply linkDown_kept
    | with_reducible apply loseCxl_kept
    | split
    | dsimp only

theorem execMsixUnmask_kept {s0 : State} (f : FuncId) (vec : Fin 8) (s : State) (hk : Kept s0 s) : KeptRes s0 (execMsixUnmask f vec s) := by
  delta execMsixUnmask
  repeat' first
    | with_reducible assumption
    | with_reducible apply kept_next
    | with_reducible apply msixVector_kept
    | with_reducible apply setMsix_kept
    | (try lift_lets); intro x; clear_value x
    | dsimp only

theorem takeFolio_out {s0 s u : State} {p : Nat} {lanes : List (List Level)} {f : List Byte} {fec : Nat} {par : Bool}
    (e : takeFolio s p lanes = some (u, f, fec, par)) (hk : Kept s0 s) : Kept s0 u := by
  unfold takeFolio at e
  dsimp only at e
  repeat' split at e
  all_goals first | contradiction | skip
  all_goals simp only [Option.some.injEq, Prod.mk.injEq] at e
  all_goals obtain ⟨rfl, -⟩ := e
  · exact setIsl_kept _ _ _ hk
  all_goals exact count_kept _ _ _ (count_kept _ _ _ (setIsl_kept _ _ _ hk))

theorem takeFolio_fst {s0 s : State} {p : Nat} {lanes : List (List Level)} {r : State × List Byte × Nat × Bool}
    (e : takeFolio s p lanes = some r) (hk : Kept s0 s) : Kept s0 r.1 := takeFolio_out (u := r.1) e hk

theorem passFolio_kept {s0 : State} (s : State) (p : Nat) (lanes : List (List Level)) (hk : Kept s0 s) : Kept s0 (passFolio s p lanes) := by
  delta passFolio
  repeat' first
    | with_reducible assumption
    | exact takeFolio_fst ‹_› ‹_›
    | refine takeFolio_out ‹_› ?_
    | split
    | dsimp only

theorem nextFolio_out {s0 s t : State} {p : Nat} {lanes : List (List Level)} {o : Option (List Byte × Hdr)}
    (e : nextFolio s p lanes = some (t, o)) (hk : Kept s0 s) : Kept s0 t := by
  unfold nextFolio at e
  split at e
  · contradiction
  · rename_i h
    simp only [Option.some.injEq, Prod.mk.injEq] at e
    obtain ⟨rfl, -⟩ := e
    exact checkFolio_kept _ _ _ _ _ (takeFolio_out h hk)

theorem plainFolio_kept {s0 : State} (s : State) (p : Nat) (typ : Nat) (lanes : List (List Level)) (act : State → List Byte → Hdr → State) (hk : Kept s0 s) (hf : ∀ t a1 a2, Kept s0 t → Kept s0 (act t a1 a2)) : Kept s0 (plainFolio s p typ lanes act) := by
  delta plainFolio
  repeat' first
    | with_reducible assumption
    | with_reducible apply passFolio_kept
    | with_reducible apply discardOne_kept
    | with_reducible apply hf
    | refine nextFolio_out ‹_› ?_
    | split
    | dsimp only

theorem execRplyFolio_kept {s0 : State} (p : PortId) (lanes : List (List Level)) (s : State) (hk : Kept s0 s) : KeptRes s0 (execRplyFolio p lanes s) := by
  delta execRplyFolio
  repeat' first
    | with_reducible assumption
    | with_reducible apply kept_next
    | with_reducible apply plainFolio_kept
    | with_reducible apply leaveOpen_kept
    | with_reducible apply closeRx_kept
    | with_reducible apply modIsl_kept
    | refine fun _ => ?_
    | (try lift_lets); intro x; refine kept_have (s0 := s0) (s := ‹State›) ?_ ?_; unfold x; rotate_left; intro hx; clear_value x
    | (try lift_lets); intro x; clear_value x
    | split
    | dsimp only

theorem laneDrafts_kept {s0 : State} (s : State) (e : Nat) (x : Engine) (v : Entry) (m : Entry) (l : List Nat) (hk : Kept s0 s) : Kept s0 (laneDrafts s e x v m l).2.1 := by
  induction l generalizing s e x v m with
  | nil => exact hk
  | cons a l ih =>
    unfold laneDrafts
    repeat' first
      | with_reducible assumption
      | with_reducible apply ih
      | with_reducible apply draftMasked_kept
      | (try lift_lets); intro x; refine kept_have (s0 := s0) (s := (‹Nat × State × Engine›).2.1) ?_ ?_; unfold x; rotate_left; intro hx; clear_value x
      | split
      | dsimp only

theorem execLaneSet_kept {s0 : State} (e : EngineId) (s : State) (hk : Kept s0 s) : KeptRes s0 (execLaneSet e s) := by
  delta execLaneSet
  repeat' first
    | with_reducible assumption
    | with_reducible apply kept_next
    | with_reducible apply macroOp_kept
    | with_reducible apply laneDrafts_kept
    | refine fun _ => ?_
    | (try lift_lets); intro x; clear_value x
    | split
    | dsimp only

theorem enterAlign_kept {s0 : State} (s : State) (p : Nat) (hk : Kept s0 s) : Kept s0 (enterAlign s p) := by
  delta enterAlign
  repeat' first
    | with_reducible assumption
    | with_reducible apply setTstate_kept
    | with_reducible apply modIsl_kept
    | (try lift_lets); intro x; refine kept_have (s0 := s0) (s := ‹State›) ?_ ?_; unfold x; rotate_left; intro hx; clear_value x
    | split
    | simp -zeta only [kept_mk]
    | dsimp only

theorem execNakResend_kept {s0 : State} (p : PortId) (s : State) (hk : Kept s0 s) : KeptRes s0 (execNakResend p s) := by
  delta execNakResend
  repeat' first
    | with_reducible assumption
    | with_reducible apply kept_next
    | with_reducible apply sendNak_kept
    | (try lift_lets); intro x; clear_value x
    | split
    | dsimp only

theorem slipped_kept {s0 : State} (s : State) (l : Nat) (n : Nat) (hk : Kept s0 s) : Kept s0 (slipped s l n) := by
  delta slipped
  repeat' first
    | with_reducible assumption
    | with_reducible apply setLane_kept
    | (try lift_lets); intro x; clear_value x
    | dsimp only

theorem execLaneSlip_kept {s0 : State} (e : EngineId) (rx : List Level) (s : State) (hk : Kept s0 s) : KeptRes s0 (execLaneSlip e rx s) := by
  delta execLaneSlip
  repeat' first
    | with_reducible assumption
    | with_reducible apply kept_next
    | with_reducible apply macroOp_kept
    | with_reducible apply slipped_kept
    | refine fun _ => ?_
    | (try lift_lets); intro x; refine kept_have (s0 := s0) (s := ‹State›) ?_ ?_; unfold x; rotate_left; intro hx; clear_value x
    | (try lift_lets); intro x; clear_value x
    | split
    | dsimp only

theorem placeDesc_kept {s0 : State} (s : State) (i : Nat) (d : Desc) (hk : Kept s0 s) : Kept s0 (placeDesc s i d) := by
  delta placeDesc
  repeat' first
    | with_reducible assumption
    | (try lift_lets); intro x; clear_value x
    | simp -zeta only [kept_mk]
    | dsimp only

theorem execLowPowerEntry_kept {s0 : State} (p : PortId) (kind : Fin 3) (lanes : Fin 4) (s : State) (hk : Kept s0 s) : KeptRes s0 (execLowPowerEntry p kind lanes s) := by
  delta execLowPowerEntry
  repeat' first
    | with_reducible assumption
    | with_reducible apply kept_next
    | with_reducible apply lowBegin_kept
    | with_reducible apply setLive_kept
    | with_reducible apply setL0p_kept
    | split
    | dsimp only

theorem execCmdTail_kept {s0 : State} (f : Option FuncId) (j : Fin 8) (v : BitVec 16) (s : State) (hk : Kept s0 s) : KeptRes s0 (execCmdTail f j v s) := by
  delta execCmdTail
  repeat' first
    | with_reducible assumption
    | with_reducible apply kept_next
    | with_reducible apply fnDoorbell_kept
    | with_reducible apply ringDoorbell_kept
    | split
    | dsimp only

theorem sendParam_kept {s0 : State} (s : State) (p : Nat) (hk : Kept s0 s) : Kept s0 (sendParam s p) := by
  delta sendParam
  repeat' first
    | with_reducible assumption
    | with_reducible apply modIsl_kept
    | with_reducible apply launchPlain_kept
    | (try lift_lets); intro x; refine kept_have (s0 := s0) (s := ‹State›) ?_ ?_; unfold x; rotate_left; intro hx; clear_value x
    | simp -zeta only [kept_mk]
    | dsimp only

theorem takeParam_kept {s0 : State} (s : State) (p : Nat) (f : List Byte) (hk : Kept s0 s) : Kept s0 (takeParam s p f) := by
  delta takeParam
  repeat' first
    | with_reducible assumption
    | with_reducible apply contain_kept
    | with_reducible apply takeRxl_kept
    | with_reducible apply modIsl_kept
    | with_reducible apply sendParam_kept
    | with_reducible apply countFatal_kept
    | (try lift_lets); intro x; refine kept_have (s0 := s0) (s := ‹State›) ?_ ?_; unfold x; rotate_left; intro hx; clear_value x
    | (try lift_lets); intro x; clear_value x
    | intro _
    | split
    | dsimp only

theorem openSession_kept {s0 : State} (s : State) (p : Nat) (hk : Kept s0 s) : Kept s0 (openSession s p) := by
  delta openSession
  repeat' first
    | with_reducible assumption
    | with_reducible apply modIsl_kept
    | with_reducible apply setSess_kept
    | with_reducible apply upClearsLost_kept
    | with_reducible apply setLive_kept
    | with_reducible apply setRxLean_kept
    | with_reducible apply adaptNow_kept
    | with_reducible apply setTstate_kept
    | (try lift_lets); intro x; refine kept_have (s0 := s0) (s := ‹State›) ?_ ?_; unfold x; rotate_left; intro hx; clear_value x
    | (try lift_lets); intro x; clear_value x
    | intro _
    | split
    | dsimp only

theorem execParamFolio_kept {s0 : State} (p : PortId) (lanes : List (List Level)) (s : State) (hk : Kept s0 s) : KeptRes s0 (execParamFolio p lanes s) := by
  delta execParamFolio
  repeat' first
    | with_reducible assumption
    | with_reducible apply kept_next
    | with_reducible apply count_kept
    | with_reducible apply raiseEvent_kept
    | with_reducible apply takeParam_kept
    | with_reducible apply openSession_kept
    | exact takeFolio_fst ‹_› ‹_›
    | refine takeFolio_out ‹_› ?_
    | (try lift_lets); intro x; refine kept_have (s0 := s0) (s := ‹State›) ?_ ?_; unfold x; rotate_left; intro hx; clear_value x
    | split
    | dsimp only

theorem restartRx_kept {s0 : State} (s : State) (p : Nat) (hk : Kept s0 s) : Kept s0 (restartRx s p) := by
  delta restartRx
  repeat' first
    | with_reducible assumption
    | with_reducible apply modIsl_kept
    | dsimp only

theorem execMarkerRunSeen_kept {s0 : State} (p : PortId) (lanes : List (List Level)) (s : State) (hk : Kept s0 s) : KeptRes s0 (execMarkerRunSeen p lanes s) := by
  delta execMarkerRunSeen
  repeat' first
    | with_reducible assumption
    | with_reducible apply kept_next
    | with_reducible apply restartRx_kept
    | with_reducible apply leaveOpen_kept
    | with_reducible apply enterDetect_kept
    | (try lift_lets); intro x; refine kept_have (s0 := s0) (s := ‹State›) ?_ ?_; unfold x; rotate_left; intro hx; clear_value x
    | split
    | dsimp only

theorem apertureOut_kept {s0 : State} (s : State) (c : Nat) (sp : Nat) (q : Nat) (n : Nat) (bs : List Byte) (hk : Kept s0 s) : Kept s0 (apertureOut s c sp q n bs) := by
  delta apertureOut
  repeat' first
    | with_reducible assumption
    | with_reducible apply emit_kept
    | split
    | dsimp only

theorem execCdrLockAll_kept {s0 : State} (p : PortId) (inv : BitVec 16) (rev : Bool) (s : State) (hk : Kept s0 s) : KeptRes s0 (execCdrLockAll p inv rev s) := by
  delta execCdrLockAll
  repeat' first
    | with_reducible assumption
    | with_reducible apply kept_next
    | with_reducible apply setLanesBit_kept
    | with_reducible apply modIsl_kept
    | with_reducible apply setLaneBit_kept
    | with_reducible apply enterWake_kept
    | with_reducible apply enterAlign_kept
    | with_reducible apply kept_foldl
    | refine fun _ => ?_
    | (try lift_lets); intro x; refine kept_have (s0 := s0) (s := ‹State›) ?_ ?_; unfold x; rotate_left; intro hx; clear_value x
    | split
    | dsimp only

theorem toRecovery_kept {s0 : State} (s : State) (p : Nat) (hk : Kept s0 s) : Kept s0 (toRecovery s p) := by
  delta toRecovery
  repeat' first
    | with_reducible assumption
    | with_reducible apply count_kept
    | with_reducible apply lowEnd_kept
    | with_reducible apply setL0p_kept
    | with_reducible apply setLive_kept
    | dsimp only

theorem execPortRetrain_kept {s0 : State} (e : EngineId) (s : State) (hk : Kept s0 s) : KeptRes s0 (execPortRetrain e s) := by
  delta execPortRetrain
  repeat' first
    | with_reducible assumption
    | with_reducible apply kept_next
    | with_reducible apply macroOp_kept
    | with_reducible apply emit_kept
    | with_reducible apply toRecovery_kept
    | refine fun _ => ?_
    | (try lift_lets); intro x; clear_value x
    | split
    | dsimp only

theorem execVfEnableSet_kept {s0 : State} (p : PortId) (s : State) (hk : Kept s0 s) : KeptRes s0 (execVfEnableSet p s) := by
  delta execVfEnableSet
  repeat' first
    | with_reducible assumption
    | with_reducible apply kept_next
    | split
    | simp -zeta only [kept_mk]
    | dsimp only

theorem execLowPowerExit_kept {s0 : State} (p : PortId) (s : State) (hk : Kept s0 s) : KeptRes s0 (execLowPowerExit p s) := by
  delta execLowPowerExit
  repeat' first
    | with_reducible assumption
    | with_reducible apply kept_next
    | with_reducible apply egressFlush_kept
    | with_reducible apply adaptNow_kept
    | with_reducible apply lowEnd_kept
    | with_reducible apply setLive_kept
    | with_reducible apply setL0p_kept
    | (try lift_lets); intro x; refine kept_have (s0 := s0) (s := ‹State›) ?_ ?_; unfold x; rotate_left; intro hx; clear_value x
    | split
    | simp -zeta only [kept_mk]
    | dsimp only

theorem forwardAnswer_kept {s0 : State} (s : State) (p : Nat) (o : OpenIn) (m : Msg) (hk : Kept s0 s) : Kept s0 (forwardAnswer s p o m) := by
  delta forwardAnswer
  repeat' first
    | with_reducible assumption
    | with_reducible apply modIsl_kept
    | with_reducible apply newTxn_kept
    | with_reducible apply countPort_kept
    | split
    | dsimp only

theorem forwardEarly_kept {s0 : State} (s : State) (p : Nat) (o : OpenIn) (hk : Kept s0 s) : Kept s0 (forwardEarly s p o) := by
  delta forwardEarly
  repeat' first
    | with_reducible assumption
    | with_reducible apply forwardAnswer_kept
    | with_reducible apply lookupOutcome_kept
    | with_reducible apply countPort_kept
    | with_reducible apply count_kept
    | with_reducible apply modIsl_kept
    | (try lift_lets); intro x; refine kept_have (s0 := s0) (s := ‹State›) ?_ ?_; unfold x; rotate_left; intro hx; clear_value x
    | (try lift_lets); intro x; clear_value x
    | split
    | dsimp only

theorem takeData_kept {s0 : State} (s : State) (p : Nat) (f : List Byte) (smap : Nat) (hk : Kept s0 s) : Kept s0 (takeData s p f smap) := by
  delta takeData
  repeat' first
    | with_reducible assumption
    | with_reducible apply leaveOpen_kept
    | with_reducible apply modIsl_kept
    | with_reducible apply forwardMore_kept
    | with_reducible apply forwardEarly_kept
    | refine takeUnits_out ‹_› ?_
    | (try lift_lets); intro x; refine kept_have (s0 := s0) (s := ‹State›) ?_ ?_; unfold x; rotate_left; intro hx; clear_value x
    | (try lift_lets); intro x; clear_value x
    | intro _
    | split
    | dsimp only

theorem execLaneEye_kept {s0 : State} (e : EngineId) (errs : List Nat) (s : State) (hk : Kept s0 s) : KeptRes s0 (execLaneEye e errs s) := by
  delta execLaneEye
  repeat' first
    | with_reducible assumption
    | with_reducible apply kept_next
    | with_reducible apply macroOp_kept
    | refine fun _ => ?_
    | (try lift_lets); intro x; clear_value x
    | split
    | dsimp only

theorem execVfFlr_kept {s0 : State} (v : VfId) (s : State) (hk : Kept s0 s) : KeptRes s0 (execVfFlr v s) := by
  delta execVfFlr
  repeat' first
    | with_reducible assumption
    | with_reducible apply kept_next
    | with_reducible apply vfReset_kept
    | dsimp only

theorem thaw_kept {s0 : State} (s : State) (v : Nat) (hk : Kept s0 s) : Kept s0 (thaw s v) := by
  delta thaw
  repeat' first
    | with_reducible assumption
    | with_reducible apply setLive_kept
    | with_reducible apply writeRecord_kept
    | with_reducible apply setEq_kept
    | with_reducible apply msixFlush_kept
    | with_reducible apply actLatched_kept
    | with_reducible apply kept_foldl
    | refine fun _ => ?_
    | (try lift_lets); intro x; refine kept_have (s0 := s0) (s := ‹State›) ?_ ?_; unfold x; rotate_left; intro hx; clear_value x
    | (try lift_lets); intro x; clear_value x
    | split
    | simp -zeta only [kept_mk]
    | dsimp only

theorem execVfThaw_kept {s0 : State} (e : EngineId) (s : State) (hk : Kept s0 s) : KeptRes s0 (execVfThaw e s) := by
  delta execVfThaw
  repeat' first
    | with_reducible assumption
    | with_reducible apply kept_next
    | with_reducible apply macroThen_kept
    | with_reducible apply finish_kept
    | with_reducible apply thaw_kept
    | refine fun _ => ?_
    | (try lift_lets); intro x; clear_value x
    | split
    | dsimp only

theorem restoreRing_kept {s0 : State} (s : State) (v : Nat) (r : Nat) (bs : List Byte) (hk : Kept s0 s) : Kept s0 (restoreRing s v r bs) := by
  delta restoreRing
  repeat' first
    | with_reducible assumption
    | with_reducible apply setRingSlot_kept
    | with_reducible apply latchDoorbell_kept
    | (try lift_lets); intro x; refine kept_have (s0 := s0) (s := ‹State›) ?_ ?_; unfold x; rotate_left; intro hx; clear_value x
    | (try lift_lets); intro x; clear_value x
    | split
    | simp -zeta only [kept_mk]
    | dsimp only

theorem restoreQueue_kept {s0 : State} (s : State) (v : Nat) (bs : List Byte) (hk : Kept s0 s) : Kept s0 (restoreQueue s v bs) := by
  delta restoreQueue
  repeat' first
    | with_reducible assumption
    | with_reducible apply setEq_kept
    | with_reducible apply latchDoorbell_kept
    | (try lift_lets); intro x; refine kept_have (s0 := s0) (s := ‹State›) ?_ ?_; unfold x; rotate_left; intro hx; clear_value x
    | (try lift_lets); intro x; clear_value x
    | split
    | dsimp only

theorem restoreDesc_kept {s0 : State} (s : State) (v : Nat) (bs : List Byte) (hk : Kept s0 s) : Kept s0 (restoreDesc s v bs) := by
  delta restoreDesc
  repeat' first
    | with_reducible assumption
    | with_reducible apply placeDesc_kept
    | split
    | dsimp only

theorem restoreState_kept {s0 : State} (s : State) (v : Nat) (bs : List Byte) (hk : Kept s0 s) : Kept s0 (restoreState s v bs) := by
  delta restoreState
  repeat' first
    | with_reducible assumption
    | with_reducible apply restoreRing_kept
    | with_reducible apply genUp_kept
    | with_reducible apply restoreQueue_kept
    | with_reducible apply msixWrite_kept
    | with_reducible apply setMsix_kept
    | with_reducible apply restoreDesc_kept
    | with_reducible apply deviceUpdate_kept
    | with_reducible apply kept_foldl
    | refine fun _ => ?_
    | (try lift_lets); intro x; refine kept_have (s0 := s0) (s := ‹State›) ?_ ?_; unfold x; rotate_left; intro hx; clear_value x
    | (try lift_lets); intro x; clear_value x
    | split
    | simp -zeta only [kept_mk]
    | dsimp only

theorem cdrLost_kept {s0 : State} (s : State) (p : Nat) (lanes : List Nat) (hk : Kept s0 s) : Kept s0 (cdrLost s p lanes) := by
  delta cdrLost
  repeat' first
    | with_reducible assumption
    | with_reducible apply setLanesBit_kept
    | with_reducible apply leaveOpen_kept
    | (try lift_lets); intro x; refine kept_have (s0 := s0) (s := ‹State›) ?_ ?_; unfold x; rotate_left; intro hx; clear_value x
    | split
    | dsimp only

theorem execCdrLockLost_kept {s0 : State} (p : PortId) (lanes : BitVec 16) (s : State) (hk : Kept s0 s) : KeptRes s0 (execCdrLockLost p lanes s) := by
  delta execCdrLockLost
  repeat' first
    | with_reducible assumption
    | with_reducible apply kept_next
    | with_reducible apply cdrLost_kept
    | split
    | dsimp only

theorem coreLoad_kept {s0 : State} (s : State) (c : Nat) (bs : List Byte) (hk : Kept s0 s) : Kept s0 (coreLoad s c bs) := by
  delta coreLoad
  repeat' first
    | with_reducible assumption
    | with_reducible apply emit_kept
    | dsimp only

theorem execVfFrost_kept {s0 : State} (e : EngineId) (s : State) (hk : Kept s0 s) : KeptRes s0 (execVfFrost e s) := by
  delta execVfFrost
  repeat' first
    | with_reducible assumption
    | with_reducible apply kept_next
    | with_reducible apply macroThen_kept
    | with_reducible apply finish_kept
    | with_reducible apply setLive_kept
    | with_reducible apply frostStep_kept
    | with_reducible apply setEngine_kept
    | refine fun _ => ?_
    | (try lift_lets); intro x; refine kept_have (s0 := s0) (s := ‹State›) ?_ ?_; unfold x; rotate_left; intro hx; clear_value x
    | (try lift_lets); intro x; clear_value x
    | split
    | simp -zeta only [kept_mk]
    | dsimp only

theorem execIslRetrain_kept {s0 : State} (e : EngineId) (s : State) (hk : Kept s0 s) : KeptRes s0 (execIslRetrain e s) := by
  delta execIslRetrain
  repeat' first
    | with_reducible assumption
    | with_reducible apply kept_next
    | with_reducible apply macroOp_kept
    | with_reducible apply leaveOpen_kept
    | refine fun _ => ?_
    | (try lift_lets); intro x; clear_value x
    | split
    | dsimp only

theorem launched_kept {s0 : State} (s : State) (p : Nat) (i : Nat) (hk : Kept s0 s) : Kept s0 (launched s p i) := by
  delta launched
  repeat' first
    | with_reducible assumption
    | with_reducible apply countPort_kept
    | with_reducible apply dropTxn_kept
    | with_reducible apply setTxn_kept
    | (try lift_lets); intro x; refine kept_have (s0 := s0) (s := ‹State›) ?_ ?_; unfold x; rotate_left; intro hx; clear_value x
    | (try lift_lets); intro x; clear_value x
    | split
    | dsimp only

theorem execIslChip_kept {s0 : State} (e : EngineId) (s : State) (hk : Kept s0 s) : KeptRes s0 (execIslChip e s) := by
  delta execIslChip
  repeat' first
    | with_reducible assumption
    | with_reducible apply kept_next
    | with_reducible apply macroOp_kept
    | with_reducible apply ruledWhole_kept
    | refine fun _ => ?_
    | dsimp only

theorem restoreBlob_kept {s0 : State} (s : State) (e : Nat) (x : Engine) (bs : List Byte) (hk : Kept s0 s) : Kept s0 (restoreBlob s e x bs) := by
  delta restoreBlob
  repeat' first
    | with_reducible assumption
    | with_reducible apply finish_kept
    | with_reducible apply restoreState_kept
    | (try lift_lets); intro x; refine kept_have (s0 := s0) (s := ‹State›) ?_ ?_; unfold x; rotate_left; intro hx; clear_value x
    | (try lift_lets); intro x; clear_value x
    | split
    | simp -zeta only [kept_mk]
    | dsimp only

theorem trainAgain_kept {s0 : State} (s : State) (p : Nat) (hk : Kept s0 s) : Kept s0 (trainAgain s p) := by
  delta trainAgain
  repeat' first
    | with_reducible assumption
    | with_reducible apply markerRun_kept
    | with_reducible apply emit_kept
    | split
    | dsimp only

theorem debit_kept {s0 : State} (s : State) (p : Nat) (vc : Nat) (cost : Nat) (hk : Kept s0 s) : Kept s0 (debit s p vc cost) := by
  delta debit
  repeat' first
    | with_reducible assumption
    | with_reducible apply modIsl_kept
    | dsimp only

theorem execPf0Flr_kept {s0 : State} (p : PortId) (s : State) (hk : Kept s0 s) : KeptRes s0 (execPf0Flr p s) := by
  delta execPf0Flr
  repeat' first
    | with_reducible assumption
    | with_reducible apply kept_next
    | with_reducible apply pfReset_kept
    | split
    | dsimp only

theorem coreFaults_kept {s0 : State} (s : State) (c : Nat) (n : Nat) (store : Bool) (hk : Kept s0 s) : Kept s0 (coreFaults s c n store) := by
  delta coreFaults
  repeat' first
    | with_reducible assumption
    | with_reducible apply emit_kept
    | with_reducible apply coreLoad_kept
    | split
    | dsimp only

theorem execStewardCoreAccess_kept {s0 : State} (c : CoreId) (addr : BitVec 64) (store : Option (List Byte)) (len : Fin 65) (ans : List Byte) (s : State) (hk : Kept s0 s) : KeptRes s0 (execStewardCoreAccess c addr store len ans s) := by
  delta execStewardCoreAccess
  repeat' first
    | with_reducible assumption
    | with_reducible apply kept_next
    | with_reducible apply hbmWrite_kept
    | with_reducible apply coreLoad_kept
    | with_reducible apply coreFaults_kept
    | with_reducible apply stewStore_kept
    | with_reducible apply stewLoad_kept
    | with_reducible apply fenceCheck_kept
    | with_reducible apply apertureOut_kept
    | (try lift_lets); intro x; refine kept_have (s0 := s0) (s := (‹List Byte × State›).2) ?_ ?_; unfold x; rotate_left; intro hx; clear_value x
    | (try lift_lets); intro x; refine kept_have (s0 := s0) (s := (‹Nat × State›).2) ?_ ?_; unfold x; rotate_left; intro hx; clear_value x
    | (try lift_lets); intro x; clear_value x
    | split
    | dsimp only

theorem leaveIdle_kept {s0 : State} (s : State) (p : Nat) (hk : Kept s0 s) : Kept s0 (leaveIdle s p) := by
  delta leaveIdle
  repeat' first
    | with_reducible assumption
    | with_reducible apply lowEnd_kept
    | with_reducible apply setTstate_kept
    | with_reducible apply emit_kept
    | with_reducible apply modIsl_kept
    | split
    | dsimp only

theorem execPortStatus_kept {s0 : State} (e : EngineId) (s : State) (hk : Kept s0 s) : KeptRes s0 (execPortStatus e s) := by
  delta execPortStatus
  repeat' first
    | with_reducible assumption
    | with_reducible apply kept_next
    | with_reducible apply macroRead_kept
    | (try lift_lets); intro x; clear_value x
    | split
    | dsimp only

theorem fill_kept {s0 : State} (s : State) (p : Nat) (k : Pack) (l : Nat) (hk : Kept s0 s) : Kept s0 (fill s p k l).1 := by
  induction l generalizing s p k with
  | zero => exact hk
  | succ l ih =>
    unfold fill
    repeat' first
      | with_reducible assumption
      | with_reducible apply ih
      | with_reducible apply debit_kept
      | with_reducible apply setIsl_kept
      | with_reducible apply launched_kept
      | with_reducible apply modIsl_kept
      | (try lift_lets); intro x; refine kept_have (s0 := s0) (s := ‹State›) ?_ ?_; unfold x; rotate_left; intro hx; clear_value x
      | (try lift_lets); intro x; clear_value x
      | split
      | dsimp only

theorem spillOldest_kept {s0 : State} (s : State) (p : Nat) (hk : Kept s0 s) : Kept s0 (spillOldest s p) := by
  delta spillOldest
  repeat' first
    | with_reducible assumption
    | with_reducible apply hbmWrite_kept
    | with_reducible apply setIsl_kept
    | (try lift_lets); intro x; clear_value x
    | split
    | dsimp only

theorem launchNew_kept {s0 : State} (s : State) (p : Nat) (k : Pack) (hk : Kept s0 s) : Kept s0 (launchNew s p k) := by
  delta launchNew
  repeat' first
    | with_reducible assumption
    | with_reducible apply setIsl_kept
    | with_reducible apply launch_kept
    | with_reducible apply spillOldest_kept
    | (try lift_lets); intro x; refine kept_have (s0 := s0) (s := ‹State›) ?_ ?_; unfold x; rotate_left; intro hx; clear_value x
    | (try lift_lets); intro x; clear_value x
    | split
    | dsimp only

theorem execDataFolio_kept {s0 : State} (p : PortId) (lanes : List (List Level)) (s : State) (hk : Kept s0 s) : KeptRes s0 (execDataFolio p lanes s) := by
  delta execDataFolio
  repeat' first
    | with_reducible assumption
    | with_reducible apply kept_next
    | with_reducible apply passFolio_kept
    | with_reducible apply discardOne_kept
    | with_reducible apply detected_kept
    | with_reducible apply setIsl_kept
    | with_reducible apply takeData_kept
    | refine nextFolio_out ‹_› ?_
    | (try lift_lets); intro x; clear_value x
    | split
    | dsimp only

theorem execChkLock_kept {s0 : State} (l : LaneId) (rx : List Level) (s : State) (hk : Kept s0 s) : KeptRes s0 (execChkLock l rx s) := by
  delta execChkLock
  repeat' first
    | with_reducible assumption
    | with_reducible apply kept_next
    | with_reducible apply loopBack_kept
    | with_reducible apply checkerCount_kept
    | with_reducible apply setLane_kept
    | with_reducible apply setLaneBit_kept
    | (try lift_lets); intro x; refine kept_have (s0 := s0) (s := ‹State›) ?_ ?_; unfold x; rotate_left; intro hx; clear_value x
    | (try lift_lets); intro x; clear_value x
    | split
    | dsimp only

theorem refFails_kept {s0 : State} (s : State) (p : Nat) (hk : Kept s0 s) : Kept s0 (refFails s p) := by
  delta refFails
  repeat' first
    | with_reducible assumption
    | with_reducible apply cdrLost_kept
    | with_reducible apply linkDown_kept
    | with_reducible apply loseCxl_kept
    | split
    | dsimp only

theorem alignDrafts_kept {s0 : State} (s : State) (e : Nat) (x : Engine) (l : List Nat) (hk : Kept s0 s) : Kept s0 (alignDrafts s e x l).2.1 := by
  induction l generalizing s e x with
  | nil => exact hk
  | cons a l ih =>
    unfold alignDrafts
    repeat' first
      | with_reducible assumption
      | with_reducible apply ih
      | with_reducible apply draft_kept
      | (try lift_lets); intro x; refine kept_have (s0 := s0) (s := (‹Nat × State × Engine›).2.1) ?_ ?_; unfold x; rotate_left; intro hx; clear_value x
      | split
      | dsimp only

theorem execLaneAlign_kept {s0 : State} (e : EngineId) (rx : List (List Level)) (s : State) (hk : Kept s0 s) : KeptRes s0 (execLaneAlign e rx s) := by
  delta execLaneAlign
  repeat' first
    | with_reducible assumption
    | with_reducible apply kept_next
    | with_reducible apply macroOp_kept
    | with_reducible apply slipped_kept
    | with_reducible apply alignDrafts_kept
    | with_reducible apply kept_foldl
    | refine fun _ => ?_
    | (try lift_lets); intro x; refine kept_have (s0 := s0) (s := ‹State›) ?_ ?_; unfold x; rotate_left; intro hx; clear_value x
    | (try lift_lets); intro x; clear_value x
    | split
    | dsimp only

theorem execRecoveryEntry_kept {s0 : State} (p : PortId) (sub : Fin 5) (s : State) (hk : Kept s0 s) : KeptRes s0 (execRecoveryEntry p sub s) := by
  delta execRecoveryEntry
  repeat' first
    | with_reducible assumption
    | with_reducible apply kept_next
    | with_reducible apply toRecovery_kept
    | with_reducible apply setLive_kept
    | split
    | dsimp only

theorem execVfReset_kept {s0 : State} (e : EngineId) (s : State) (hk : Kept s0 s) : KeptRes s0 (execVfReset e s) := by
  delta execVfReset
  repeat' first
    | with_reducible assumption
    | with_reducible apply kept_next
    | with_reducible apply macroThen_kept
    | with_reducible apply finish_kept
    | with_reducible apply vfReset_kept
    | refine fun _ => ?_
    | (try lift_lets); intro x; clear_value x
    | split
    | dsimp only

theorem startReplay_kept {s0 : State} (s : State) (p : Nat) (start : Nat) (hk : Kept s0 s) : Kept s0 (startReplay s p start) := by
  delta startReplay
  repeat' first
    | with_reducible assumption
    | with_reducible apply modIsl_kept
    | (try lift_lets); intro x; clear_value x
    | split
    | dsimp only

theorem execAckTimeout_kept {s0 : State} (p : PortId) (s : State) (hk : Kept s0 s) : KeptRes s0 (execAckTimeout p s) := by
  delta execAckTimeout
  repeat' first
    | with_reducible assumption
    | with_reducible apply kept_next
    | with_reducible apply leaveOpen_kept
    | with_reducible apply startReplay_kept
    | (try lift_lets); intro x; clear_value x
    | split
    | dsimp only

theorem execViral_kept {s0 : State} (p : PortId) (s : State) (hk : Kept s0 s) : KeptRes s0 (execViral p s) := by
  delta execViral
  repeat' first
    | with_reducible assumption
    | with_reducible apply kept_next
    | with_reducible apply emit_kept
    | with_reducible apply kept_foldl
    | refine fun _ => ?_
    | (try lift_lets); intro x; clear_value x
    | split
    | simp -zeta only [kept_mk]
    | dsimp only

theorem execIdleExitRequest_kept {s0 : State} (p : PortId) (s : State) (hk : Kept s0 s) : KeptRes s0 (execIdleExitRequest p s) := by
  delta execIdleExitRequest
  repeat' first
    | with_reducible assumption
    | with_reducible apply kept_next
    | with_reducible apply leaveIdle_kept
    | split
    | dsimp only

theorem linkComesUp_kept {s0 : State} (s : State) (p : Nat) (flit : Nat) (rate : Nat) (width : Nat) (cxl : Bool) (cache : Bool) (inv : BitVec 16) (hk : Kept s0 s) : Kept s0 (linkComesUp s p flit rate width cxl cache inv) := by
  delta linkComesUp
  repeat' first
    | with_reducible assumption
    | with_reducible apply setLive_kept
    | with_reducible apply setLanesBit_kept
    | with_reducible apply setLaneBit_kept
    | with_reducible apply upClearsLost_kept
    | with_reducible apply adaptNow_kept
    | with_reducible apply raiseEvent_kept
    | with_reducible apply egressFlush_kept
    | with_reducible apply kept_foldl
    | refine fun _ => ?_
    | (try lift_lets); intro x; refine kept_have (s0 := s0) (s := ‹State›) ?_ ?_; unfold x; rotate_left; intro hx; clear_value x
    | (try lift_lets); intro x; clear_value x
    | split
    | simp -zeta only [kept_mk]
    | dsimp only

theorem execLinkUp_kept {s0 : State} (p : PortId) (stage : Training) (rate : Fin 6) (width : Fin 5) (offers : BitVec 3) (cxl : Bool) (cache : Bool) (inv : BitVec 16) (s : State) (hk : Kept s0 s) : KeptRes s0 (execLinkUp p stage rate width offers cxl cache inv s) := by
  delta execLinkUp
  repeat' first
    | with_reducible assumption
    | with_reducible apply kept_next
    | with_reducible apply setLive_kept
    | with_reducible apply linkComesUp_kept
    | split
    | dsimp only

theorem execHotResetReceived_kept {s0 : State} (p : PortId) (s : State) (hk : Kept s0 s) : KeptRes s0 (execHotResetReceived p s) := by
  delta execHotResetReceived
  repeat' first
    | with_reducible assumption
    | with_reducible apply kept_next
    | with_reducible apply loseCxl_kept
    | split
    | dsimp only

theorem execPmeTurnOff_kept {s0 : State} (p : PortId) (s : State) (hk : Kept s0 s) : KeptRes s0 (execPmeTurnOff p s) := by
  delta execPmeTurnOff
  repeat' first
    | with_reducible assumption
    | with_reducible apply kept_next
    | with_reducible apply setL0p_kept
    | with_reducible apply setLive_kept
    | split
    | dsimp only

theorem execMacEpochCheck_kept {s0 : State} (p : PortId) (ok : Bool) (msgs : List Msg) (s : State) (hk : Kept s0 s) : KeptRes s0 (execMacEpochCheck p ok msgs s) := by
  delta execMacEpochCheck
  repeat' first
    | with_reducible assumption
    | with_reducible apply kept_next
    | with_reducible apply releaseUnits_kept
    | with_reducible apply headerLookup_kept
    | with_reducible apply rasReport_kept
    | with_reducible apply setLive_kept
    | with_reducible apply raiseEvent_kept
    | with_reducible apply count_kept
    | with_reducible apply kept_foldl
    | refine fun _ => ?_
    | (try lift_lets); intro x; refine kept_have (s0 := s0) (s := ‹State›) ?_ ?_; unfold x; rotate_left; intro hx; clear_value x
    | split
    | simp -zeta only [kept_mk]
    | dsimp only

theorem execRefLost_kept {s0 : State} (pair : RefPairId) (s : State) (hk : Kept s0 s) : KeptRes s0 (execRefLost pair s) := by
  delta execRefLost
  repeat' first
    | with_reducible assumption
    | with_reducible apply kept_next
    | with_reducible apply setLanesBit_kept
    | with_reducible apply refFails_kept
    | with_reducible apply raiseEvent_kept
    | with_reducible apply kept_foldl
    | refine fun _ => ?_
    | (try lift_lets); intro x; refine kept_have (s0 := s0) (s := ‹State›) ?_ ?_; unfold x; rotate_left; intro hx; clear_value x
    | (try lift_lets); intro x; clear_value x
    | split
    | simp -zeta only [kept_mk]
    | dsimp only

theorem execRefReturn_kept {s0 : State} (pair : RefPairId) (s : State) (hk : Kept s0 s) : KeptRes s0 (execRefReturn pair s) := by
  delta execRefReturn
  repeat' first
    | with_reducible assumption
    | with_reducible apply kept_next
    | with_reducible apply setLanesBit_kept
    | with_reducible apply trainAgain_kept
    | with_reducible apply kept_foldl
    | refine fun _ => ?_
    | (try lift_lets); intro x; refine kept_have (s0 := s0) (s := ‹State›) ?_ ?_; unfold x; rotate_left; intro hx; clear_value x
    | (try lift_lets); intro x; clear_value x
    | split
    | simp -zeta only [kept_mk]
    | dsimp only

theorem execMarkerCheck_kept {s0 : State} (p : PortId) (words : List (List Level)) (s : State) (hk : Kept s0 s) : KeptRes s0 (execMarkerCheck p words s) := by
  delta execMarkerCheck
  repeat' first
    | with_reducible assumption
    | with_reducible apply kept_next
    | with_reducible apply enterAlign_kept
    | with_reducible apply modIsl_kept
    | with_reducible apply restartRx_kept
    | with_reducible apply raiseEvent_kept
    | with_reducible apply kept_foldl
    | refine fun _ => ?_
    | (try lift_lets); intro x; clear_value x
    | split
    | dsimp only

theorem execWakeHoldEnd_kept {s0 : State} (p : PortId) (s : State) (hk : Kept s0 s) : KeptRes s0 (execWakeHoldEnd p s) := by
  delta execWakeHoldEnd
  repeat' first
    | with_reducible assumption
    | with_reducible apply kept_next
    | with_reducible apply sendParam_kept
    | with_reducible apply setTstate_kept
    | with_reducible apply modIsl_kept
    | with_reducible apply openSession_kept
    | (try lift_lets); intro x; refine kept_have (s0 := s0) (s := ‹State›) ?_ ?_; unfold x; rotate_left; intro hx; clear_value x
    | split
    | dsimp only

theorem execAlignRerun_kept {s0 : State} (p : PortId) (s : State) (hk : Kept s0 s) : KeptRes s0 (execAlignRerun p s) := by
  delta execAlignRerun
  repeat' first
    | with_reducible assumption
    | with_reducible apply kept_next
    | with_reducible apply enterAlign_kept
    | split
    | dsimp only

theorem execAlignResult_kept {s0 : State} (p : PortId) (s : State) (hk : Kept s0 s) : KeptRes s0 (execAlignResult p s) := by
  delta execAlignResult
  repeat' first
    | with_reducible assumption
    | with_reducible apply kept_next
    | with_reducible apply raiseEvent_kept
    | with_reducible apply modIsl_kept
    | split
    | dsimp only

theorem execParamResend_kept {s0 : State} (p : PortId) (s : State) (hk : Kept s0 s) : KeptRes s0 (execParamResend p s) := by
  delta execParamResend
  repeat' first
    | with_reducible assumption
    | with_reducible apply kept_next
    | with_reducible apply sendParam_kept
    | split
    | dsimp only

theorem execNullFolio_kept {s0 : State} (p : PortId) (lanes : List (List Level)) (s : State) (hk : Kept s0 s) : KeptRes s0 (execNullFolio p lanes s) := by
  delta execNullFolio
  repeat' first
    | with_reducible assumption
    | with_reducible apply kept_next
    | with_reducible apply plainFolio_kept
    | refine fun _ => ?_
    | dsimp only

theorem execNakFolio_kept {s0 : State} (p : PortId) (lanes : List (List Level)) (s : State) (hk : Kept s0 s) : KeptRes s0 (execNakFolio p lanes s) := by
  delta execNakFolio
  repeat' first
    | with_reducible assumption
    | with_reducible apply kept_next
    | with_reducible apply plainFolio_kept
    | with_reducible apply startReplay_kept
    | refine fun _ => ?_
    | split
    | dsimp only

theorem execIdleFolio_kept {s0 : State} (p : PortId) (lanes : List (List Level)) (s : State) (hk : Kept s0 s) : KeptRes s0 (execIdleFolio p lanes s) := by
  delta execIdleFolio
  repeat' first
    | with_reducible assumption
    | with_reducible apply kept_next
    | with_reducible apply plainFolio_kept
    | with_reducible apply modIsl_kept
    | refine fun _ => ?_
    | dsimp only

theorem execLeanQualified_kept {s0 : State} (p : PortId) (ber : Bool) (s : State) (hk : Kept s0 s) : KeptRes s0 (execLeanQualified p ber s) := by
  delta execLeanQualified
  repeat' first
    | with_reducible assumption
    | with_reducible apply kept_next
    | with_reducible apply setRxLean_kept
    | with_reducible apply setIsl_kept
    | (try lift_lets); intro x; clear_value x
    | split
    | dsimp only

theorem execIdleEntry_kept {s0 : State} (p : PortId) (s : State) (hk : Kept s0 s) : KeptRes s0 (execIdleEntry p s) := by
  delta execIdleEntry
  repeat' first
    | with_reducible assumption
    | with_reducible apply kept_next
    | with_reducible apply lowBegin_kept
    | with_reducible apply setTstate_kept
    | with_reducible apply modIsl_kept
    | with_reducible apply stopStream_kept
    | with_reducible apply launchPlain_kept
    | split
    | dsimp only

theorem execBurstReceived_kept {s0 : State} (p : PortId) (s : State) (hk : Kept s0 s) : KeptRes s0 (execBurstReceived p s) := by
  delta execBurstReceived
  repeat' first
    | with_reducible assumption
    | with_reducible apply kept_next
    | with_reducible apply leaveIdle_kept
    | with_reducible apply modIsl_kept
    | with_reducible apply restartRx_kept
    | split
    | dsimp only

theorem execIdleExitFailure_kept {s0 : State} (p : PortId) (s : State) (hk : Kept s0 s) : KeptRes s0 (execIdleExitFailure p s) := by
  delta execIdleExitFailure
  repeat' first
    | with_reducible assumption
    | with_reducible apply kept_next
    | with_reducible apply leaveOpen_kept
    | split
    | dsimp only

theorem execTimeMarkSend_kept {s0 : State} (p : PortId) (s : State) (hk : Kept s0 s) : KeptRes s0 (execTimeMarkSend p s) := by
  delta execTimeMarkSend
  repeat' first
    | with_reducible assumption
    | with_reducible apply kept_next
    | with_reducible apply setIsl_kept
    | (try lift_lets); intro x; clear_value x
    | split
    | dsimp only

theorem execTimeMark_kept {s0 : State} (p : PortId) (s : State) (hk : Kept s0 s) : KeptRes s0 (execTimeMark p s) := by
  delta execTimeMark
  repeat' first
    | with_reducible assumption
    | with_reducible apply kept_next
    | with_reducible apply setIsl_kept
    | (try lift_lets); intro x; clear_value x
    | split
    | dsimp only

theorem execTimeEcho_kept {s0 : State} (p : PortId) (s : State) (hk : Kept s0 s) : KeptRes s0 (execTimeEcho p s) := by
  delta execTimeEcho
  repeat' first
    | with_reducible assumption
    | with_reducible apply kept_next
    | with_reducible apply setIsl_kept
    | with_reducible apply raiseEvent_kept
    | (try lift_lets); intro x; refine kept_have (s0 := s0) (s := ‹State›) ?_ ?_; unfold x; rotate_left; intro hx; clear_value x
    | (try lift_lets); intro x; clear_value x
    | split
    | simp -zeta only [kept_mk]
    | dsimp only

theorem execPortConfig_kept {s0 : State} (e : EngineId) (s : State) (hk : Kept s0 s) : KeptRes s0 (execPortConfig e s) := by
  delta execPortConfig
  repeat' first
    | with_reducible assumption
    | with_reducible apply kept_next
    | with_reducible apply macroOp_kept
    | with_reducible apply draftMasked_kept
    | refine fun _ => ?_
    | (try lift_lets); intro x; clear_value x
    | split
    | dsimp only

theorem execLaneStat_kept {s0 : State} (e : EngineId) (s : State) (hk : Kept s0 s) : KeptRes s0 (execLaneStat e s) := by
  delta execLaneStat
  repeat' first
    | with_reducible assumption
    | with_reducible apply kept_next
    | with_reducible apply macroOp_kept
    | refine fun _ => ?_
    | (try lift_lets); intro x; clear_value x
    | split
    | dsimp only

theorem execVfRestore_kept {s0 : State} (e : EngineId) (s : State) (hk : Kept s0 s) : KeptRes s0 (execVfRestore e s) := by
  delta execVfRestore
  repeat' first
    | with_reducible assumption
    | with_reducible apply kept_next
    | with_reducible apply macroThen_kept
    | with_reducible apply finish_kept
    | with_reducible apply memCheck_kept
    | with_reducible apply restoreBlob_kept
    | with_reducible apply setEngine_kept
    | with_reducible apply memAsk_kept
    | refine memLocal_out ‹_› ?_
    | refine fun _ => ?_
    | (try lift_lets); intro x; refine kept_have (s0 := s0) (s := (‹Nat × State›).2) ?_ ?_; unfold x; rotate_left; intro hx; clear_value x
    | (try lift_lets); intro x; clear_value x
    | split
    | dsimp only

theorem execCplHead_kept {s0 : State} (f : Option FuncId) (j : Fin 8) (v : BitVec 16) (s : State) (hk : Kept s0 s) : KeptRes s0 (execCplHead f j v s) := by
  delta execCplHead
  repeat' first
    | with_reducible assumption
    | with_reducible apply kept_next
    | with_reducible apply fnDoorbell_kept
    | with_reducible apply ringDoorbell_kept
    | split
    | dsimp only

theorem execRingEnable_kept {s0 : State} (f : Option FuncId) (j : Fin 8) (s : State) (hk : Kept s0 s) : KeptRes s0 (execRingEnable f j s) := by
  delta execRingEnable
  repeat' first
    | with_reducible assumption
    | with_reducible apply kept_next
    | with_reducible apply submitFor_kept
    | with_reducible apply slotEnable_kept
    | split
    | dsimp only

theorem execRingDisable_kept {s0 : State} (f : Option FuncId) (j : Fin 8) (s : State) (hk : Kept s0 s) : KeptRes s0 (execRingDisable f j s) := by
  delta execRingDisable
  repeat' first
    | with_reducible assumption
    | with_reducible apply kept_next
    | with_reducible apply submitFor_kept
    | with_reducible apply slotEnable_kept
    | split
    | dsimp only

theorem execVfEnableClear_kept {s0 : State} (p : PortId) (s : State) (hk : Kept s0 s) : KeptRes s0 (execVfEnableClear p s) := by
  delta execVfEnableClear
  repeat' first
    | with_reducible assumption
    | with_reducible apply kept_next
    | with_reducible apply vfReset_kept
    | with_reducible apply kept_foldl
    | refine fun _ => ?_
    | (try lift_lets); intro x; refine kept_have (s0 := s0) (s := ‹State›) ?_ ?_; unfold x; rotate_left; intro hx; clear_value x
    | split
    | simp -zeta only [kept_mk]
    | dsimp only

theorem execMmioBad_kept {s0 : State} (f : FuncId) (off : BitVec 20) (read : Bool) (s : State) (hk : Kept s0 s) : KeptRes s0 (execMmioBad f off read s) := by
  delta execMmioBad
  repeat' first
    | with_reducible assumption
    | with_reducible apply kept_next
    | with_reducible apply emit_kept
    | with_reducible apply raiseEvent_kept
    | (try lift_lets); intro x; refine kept_have (s0 := s0) (s := ‹State›) ?_ ?_; unfold x; rotate_left; intro hx; clear_value x
    | split
    | dsimp only

theorem decWrite_kept {s0 : State} (s : State) (k : Nat) (v : Entry) (mask : Entry) (hk : Kept s0 s) : Kept s0 (decWrite s k v mask) := by
  delta decWrite
  repeat' first
    | with_reducible assumption
    | (try lift_lets); intro x; clear_value x
    | split
    | simp -zeta only [kept_mk]
    | dsimp only

theorem execRegisterWrite_kept {s0 : State} (t : RegTarget) (v : BitVec 64) (s : State) (hk : Kept s0 s) : KeptRes s0 (execRegisterWrite t v s) := by
  delta execRegisterWrite
  repeat' first
    | with_reducible assumption
    | with_reducible apply kept_next
    | with_reducible apply barStore_kept
    | with_reducible apply stewStore_kept
    | with_reducible apply msixFlush_kept
    | with_reducible apply setMsix_kept
    | with_reducible apply decWrite_kept
    | (try lift_lets); intro x; clear_value x
    | split
    | simp -zeta only [kept_mk]
    | dsimp only

theorem execReturnToL0_kept {s0 : State} (p : PortId) (rate : Fin 6) (width : Fin 5) (s : State) (hk : Kept s0 s) : KeptRes s0 (execReturnToL0 p rate width s) := by
  delta execReturnToL0
  repeat' first
    | with_reducible assumption
    | with_reducible apply kept_next
    | with_reducible apply setLive_kept
    | with_reducible apply egressFlush_kept
    | with_reducible apply adaptNow_kept
    | (try lift_lets); intro x; refine kept_have (s0 := s0) (s := ‹State›) ?_ ?_; unfold x; rotate_left; intro hx; clear_value x
    | split
    | dsimp only

theorem packFolio_kept {s0 : State} (s : State) (p : Nat) (hk : Kept s0 s) : Kept s0 (packFolio s p).1 := by
  delta packFolio
  repeat' first
    | with_reducible assumption
    | with_reducible apply fill_kept
    | with_reducible apply setIsl_kept
    | with_reducible apply launched_kept
    | (try lift_lets); intro x; refine kept_have (s0 := s0) (s := (‹State × Pack›).1) ?_ ?_; unfold x; rotate_left; intro hx; clear_value x
    | (try lift_lets); intro x; clear_value x
    | split
    | dsimp only

theorem execFolioTransmit_kept {s0 : State} (p : PortId) (s : State) (hk : Kept s0 s) : KeptRes s0 (execFolioTransmit p s) := by
  delta execFolioTransmit
  repeat' first
    | with_reducible assumption
    | with_reducible apply kept_next
    | with_reducible apply launchPlain_kept
    | with_reducible apply count_kept
    | with_reducible apply setIsl_kept
    | with_reducible apply launch_kept
    | with_reducible apply packFolio_kept
    | with_reducible apply launchNew_kept
    | with_reducible apply modIsl_kept
    | (try lift_lets); intro x; refine kept_have (s0 := s0) (s := ‹State›) ?_ ?_; unfold x; rotate_left; intro hx; clear_value x
    | (try lift_lets); intro x; refine kept_have (s0 := s0) (s := (‹State × Option Pack›).1) ?_ ?_; unfold x; rotate_left; intro hx; clear_value x
    | (try lift_lets); intro x; clear_value x
    | split
    | dsimp only

end Sys2Proof.Machine
end

