-- ==== Sys2Proof/Laws/KeptCommit.lean ====
section
/-! SUPPORT. What the tables, the movers, the pool, Survey and COMMIT keep of the state (Kept): one lemma per operation and meaning. -/
namespace Sys2Proof.Machine

theorem setDesc_kept {s0 : State} (s : State) (i : Nat) (d : Desc) (hk : Kept s0 s) : Kept s0 (setDesc s i d) := by
  delta setDesc
  repeat' first
    | with_reducible assumption
    | (try lift_lets); intro x; clear_value x
    | simp -zeta only [kept_mk]
    | dsimp only

theorem endDesc_kept {s0 : State} (s : State) (i : Nat) (d : Desc) (st : Nat) (r1 : Nat) (r2 : Word) (hk : Kept s0 s) : Kept s0 (endDesc s i d st r1 r2) := by
  delta endDesc
  repeat' first
    | with_reducible assumption
    | with_reducible apply setDesc_kept
    | dsimp only

theorem failDesc_kept {s0 : State} (s : State) (i : Nat) (d : Desc) (st : Nat) (hk : Kept s0 s) : Kept s0 (failDesc s i d st) := by
  delta failDesc
  repeat' first
    | with_reducible assumption
    | with_reducible apply endDesc_kept
    | dsimp only

theorem tickBytes_kept {s0 : State} (s : State) (n : Nat) (hk : Kept s0 s) : Kept s0 (tickBytes s n) := by
  delta tickBytes
  repeat' first
    | with_reducible assumption
    | simp -zeta only [kept_mk]
    | dsimp only

theorem seqDrain_kept {s0 : State} (s : State) (e : Nat) (x : Engine) (step : Nat) (a : Nat) (kind : Nat) (target : Nat) (hk : Kept s0 s) : Kept s0 (seqDrain s e x step a kind target) := by
  delta seqDrain
  repeat' first
    | with_reducible assumption
    | with_reducible apply setEngine_kept
    | dsimp only

theorem unvppbDrain_kept {s0 : State} (s : State) (e : Nat) (x : Engine) (i : Nat) (hk : Kept s0 s) : Kept s0 (unvppbDrain s e x i) := by
  delta unvppbDrain
  repeat' first
    | with_reducible assumption
    | with_reducible apply seqDrain_kept
    | (try lift_lets); intro x; clear_value x
    | split
    | dsimp only

theorem askCommit_kept {s0 : State} (s : State) (e : Nat) (x : Engine) (hk : Kept s0 s) : Kept s0 (askCommit s e x) := by
  delta askCommit
  repeat' first
    | with_reducible assumption
    | with_reducible apply setEngine_kept
    | (try lift_lets); intro x; clear_value x
    | simp -zeta only [kept_mk]
    | dsimp only

theorem seqCommit_kept {s0 : State} (s : State) (e : Nat) (x : Engine) (step : Nat) (a : Nat) (b : Nat) (ds : List (Nat × Nat × Entry × Entry)) (hk : Kept s0 s) : Kept s0 (seqCommit s e x step a b ds) := by
  delta seqCommit
  repeat' first
    | with_reducible assumption
    | with_reducible apply drafts_kept
    | with_reducible apply finish_kept
    | with_reducible apply askCommit_kept
    | (try lift_lets); intro x; refine kept_have (s0 := s0) (s := (‹Nat × State × Engine›).2.1) ?_ ?_; unfold x; rotate_left; intro hx; clear_value x
    | (try lift_lets); intro x; clear_value x
    | split
    | dsimp only

theorem unvppbLast_kept {s0 : State} (s : State) (e : Nat) (x : Engine) (i : Nat) (hk : Kept s0 s) : Kept s0 (unvppbLast s e x i) := by
  delta unvppbLast
  repeat' first
    | with_reducible assumption
    | with_reducible apply seqCommit_kept
    | dsimp only

theorem seqWalk_kept {s0 : State} (s : State) (e : Nat) (x : Engine) (step : Nat) (a : Nat) (kind : Nat) (obj : Nat) (hk : Kept s0 s) : Kept s0 (seqWalk s e x step a kind obj) := by
  delta seqWalk
  repeat' first
    | with_reducible assumption
    | with_reducible apply setEngine_kept
    | simp -zeta only [kept_mk]
    | dsimp only

theorem agentRemoveLast_kept {s0 : State} (s : State) (e : Nat) (x : Engine) (c : Nat) (hk : Kept s0 s) : Kept s0 (agentRemoveLast s e x c) := by
  delta agentRemoveLast
  repeat' first
    | with_reducible assumption
    | with_reducible apply seqCommit_kept
    | dsimp only

theorem regionReleaseLast_kept {s0 : State} (s : State) (e : Nat) (x : Engine) (r : Nat) (hk : Kept s0 s) : Kept s0 (regionReleaseLast s e x r) := by
  delta regionReleaseLast
  repeat' first
    | with_reducible assumption
    | with_reducible apply seqCommit_kept
    | dsimp only

theorem leavePool_kept {s0 : State} (s : State) (p : Nat) (hk : Kept s0 s) : Kept s0 (leavePool s p) := by
  delta leavePool
  repeat' first
    | with_reducible assumption
    | with_reducible apply deviceUpdate_kept
    | with_reducible apply kept_foldl
    | refine fun _ => ?_
    | (try lift_lets); intro x; refine kept_have (s0 := s0) (s := ‹State›) ?_ ?_; unfold x; rotate_left; intro hx; clear_value x
    | (try lift_lets); intro x; clear_value x
    | simp -zeta only [kept_mk]
    | dsimp only

theorem modPartner_kept {s0 : State} (s : State) (p : Nat) (f : Partner → Partner) (hk : Kept s0 s) : Kept s0 (modPartner s p f) := by
  delta modPartner
  repeat' first
    | with_reducible assumption
    | simp -zeta only [kept_mk]
    | dsimp only

theorem detachStep_kept {s0 : State} (s : State) (p : Nat) (k : Nat) (hk : Kept s0 s) : Kept s0 (detachStep s p k) := by
  delta detachStep
  repeat' first
    | with_reducible assumption
    | with_reducible apply modPartner_kept
    | dsimp only

theorem disableLink_kept {s0 : State} (s : State) (p : Nat) (hk : Kept s0 s) : Kept s0 (disableLink s p) := by
  delta disableLink
  repeat' first
    | with_reducible assumption
    | with_reducible apply setLive_kept
    | with_reducible apply endSession_kept
    | with_reducible apply lowEnd_kept
    | with_reducible apply emit_kept
    | with_reducible apply linkDown_kept
    | split
    | dsimp only

theorem slotOffAt_kept {s0 : State} (s : State) (p : Nat) (hk : Kept s0 s) : Kept s0 (slotOffAt s p) := by
  delta slotOffAt
  repeat' first
    | with_reducible assumption
    | with_reducible apply slotCmdOff_kept
    | split
    | dsimp only

theorem detachEnd_kept {s0 : State} (s : State) (e : Nat) (x : Engine) (p : Nat) (hk : Kept s0 s) : Kept s0 (detachEnd s e x p) := by
  delta detachEnd
  repeat' first
    | with_reducible assumption
    | with_reducible apply leavePool_kept
    | with_reducible apply detachStep_kept
    | with_reducible apply disableLink_kept
    | with_reducible apply slotOffAt_kept
    | with_reducible apply modPartner_kept
    | with_reducible apply finish_kept
    | with_reducible apply raiseEvent_kept
    | (try lift_lets); intro x; refine kept_have (s0 := s0) (s := ‹State›) ?_ ?_; unfold x; rotate_left; intro hx; clear_value x
    | split
    | simp -zeta only [kept_mk]
    | dsimp only

theorem detach6_kept {s0 : State} (s : State) (e : Nat) (x : Engine) (p : Nat) (hk : Kept s0 s) : Kept s0 (detach6 s e x p) := by
  delta detach6
  repeat' first
    | with_reducible assumption
    | with_reducible apply detachStep_kept
    | with_reducible apply detachEnd_kept
    | with_reducible apply setEngine_kept
    | (try lift_lets); intro x; refine kept_have (s0 := s0) (s := ‹State›) ?_ ?_; unfold x; rotate_left; intro hx; clear_value x
    | split
    | dsimp only

theorem detach5_kept {s0 : State} (s : State) (e : Nat) (x : Engine) (p : Nat) (hk : Kept s0 s) : Kept s0 (detach5 s e x p) := by
  delta detach5
  repeat' first
    | with_reducible assumption
    | with_reducible apply detachStep_kept
    | with_reducible apply detach6_kept
    | with_reducible apply seqDrain_kept
    | (try lift_lets); intro x; refine kept_have (s0 := s0) (s := ‹State›) ?_ ?_; unfold x; rotate_left; intro hx; clear_value x
    | split
    | dsimp only

theorem detach4_kept {s0 : State} (s : State) (e : Nat) (x : Engine) (p : Nat) (hk : Kept s0 s) : Kept s0 (detach4 s e x p) := by
  delta detach4
  repeat' first
    | with_reducible assumption
    | with_reducible apply detachStep_kept
    | with_reducible apply seqWalk_kept
    | with_reducible apply seqCommit_kept
    | with_reducible apply detach5_kept
    | (try lift_lets); intro x; refine kept_have (s0 := s0) (s := ‹State›) ?_ ?_; unfold x; rotate_left; intro hx; clear_value x
    | split
    | dsimp only

theorem detach3_kept {s0 : State} (s : State) (e : Nat) (x : Engine) (p : Nat) (hk : Kept s0 s) : Kept s0 (detach3 s e x p) := by
  delta detach3
  repeat' first
    | with_reducible assumption
    | with_reducible apply detachStep_kept
    | with_reducible apply detach4_kept
    | with_reducible apply setEngine_kept
    | with_reducible apply seqCommit_kept
    | (try lift_lets); intro x; refine kept_have (s0 := s0) (s := ‹State›) ?_ ?_; unfold x; rotate_left; intro hx; clear_value x
    | (try lift_lets); intro x; clear_value x
    | split
    | simp -zeta only [kept_mk]
    | dsimp only

theorem detach2_kept {s0 : State} (s : State) (e : Nat) (x : Engine) (p : Nat) (hk : Kept s0 s) : Kept s0 (detach2 s e x p) := by
  delta detach2
  repeat' first
    | with_reducible assumption
    | with_reducible apply detachStep_kept
    | with_reducible apply detach3_kept
    | with_reducible apply seqDrain_kept
    | with_reducible apply seqCommit_kept
    | (try lift_lets); intro x; refine kept_have (s0 := s0) (s := ‹State›) ?_ ?_; unfold x; rotate_left; intro hx; clear_value x
    | (try lift_lets); intro x; clear_value x
    | split
    | dsimp only

theorem detachGo_kept {s0 : State} (s : State) (e : Nat) (x : Engine) (hk : Kept s0 s) : Kept s0 (detachGo s e x) := by
  delta detachGo
  repeat' first
    | with_reducible assumption
    | with_reducible apply detachEnd_kept
    | with_reducible apply seqDrain_kept
    | with_reducible apply seqCommit_kept
    | with_reducible apply detach2_kept
    | with_reducible apply seqWalk_kept
    | with_reducible apply detach4_kept
    | with_reducible apply detach6_kept
    | with_reducible apply detach3_kept
    | (try lift_lets); intro x; clear_value x
    | split
    | dsimp only

theorem macroNext_kept {s0 : State} (s : State) (e : Nat) (x : Engine) (hk : Kept s0 s) : Kept s0 (macroNext s e x) := by
  delta macroNext
  repeat' first
    | with_reducible assumption
    | with_reducible apply unvppbDrain_kept
    | with_reducible apply unvppbLast_kept
    | with_reducible apply seqWalk_kept
    | with_reducible apply agentRemoveLast_kept
    | with_reducible apply regionReleaseLast_kept
    | with_reducible apply detachGo_kept
    | with_reducible apply finish_kept
    | (try lift_lets); intro x; clear_value x
    | split
    | dsimp only

theorem drainWaiters_kept {s0 : State} (s : State) (hk : Kept s0 s) : Kept s0 (drainWaiters s) := by
  delta drainWaiters
  repeat' first
    | with_reducible assumption
    | with_reducible apply macroNext_kept
    | with_reducible apply kept_foldl
    | refine fun _ => ?_
    | (try lift_lets); intro x; clear_value x
    | split
    | dsimp only

theorem execEpochDrainSum_kept {s0 : State} (pl : Plane) (s : State) (hk : Kept s0 s) : KeptRes s0 (execEpochDrainSum pl s) := by
  delta execEpochDrainSum
  repeat' first
    | with_reducible assumption
    | with_reducible apply kept_next
    | with_reducible apply drainWaiters_kept
    | with_reducible apply epochDrain_kept
    | dsimp only

theorem execPerfTrace_kept {s0 : State} (e : EngineId) (s : State) (hk : Kept s0 s) : KeptRes s0 (execPerfTrace e s) := by
  delta execPerfTrace
  repeat' first
    | with_reducible assumption
    | with_reducible apply kept_next
    | with_reducible apply macroOp_kept
    | with_reducible apply draftWhole_kept
    | refine fun _ => ?_
    | dsimp only

theorem setRun_kept {s0 : State} (s : State) (p : Nat) (r : SurveyRun) (hk : Kept s0 s) : Kept s0 (setRun s p r) := by
  delta setRun
  repeat' first
    | with_reducible assumption
    | simp -zeta only [kept_mk]
    | dsimp only

theorem beginStep_kept {s0 : State} (s : State) (p : Nat) (k : Nat) (r : SurveyRun) (hk : Kept s0 s) : Kept s0 (beginStep s p k r) := by
  delta beginStep
  repeat' first
    | with_reducible assumption
    | with_reducible apply setRun_kept
    | with_reducible apply modPartner_kept
    | dsimp only

theorem runEnds_kept {s0 : State} (s : State) (p : Nat) (e : Nat) (o : Nat) (hk : Kept s0 s) : Kept s0 (runEnds s p e o) := by
  delta runEnds
  repeat' first
    | with_reducible assumption
    | with_reducible apply finish_kept
    | (try lift_lets); intro x; refine kept_have (s0 := s0) (s := ‹State›) ?_ ?_; unfold x; rotate_left; intro hx; clear_value x
    | (try lift_lets); intro x; clear_value x
    | split
    | simp -zeta only [kept_mk]
    | dsimp only

theorem runArrives_kept {s0 : State} (s : State) (p : Nat) (r : SurveyRun) (o : Nat) (hk : Kept s0 s) : Kept s0 (runArrives s p r o) := by
  delta runArrives
  repeat' first
    | with_reducible assumption
    | with_reducible apply modPartner_kept
    | with_reducible apply runEnds_kept
    | with_reducible apply raiseEvent_kept
    | (try lift_lets); intro x; refine kept_have (s0 := s0) (s := ‹State›) ?_ ?_; unfold x; rotate_left; intro hx; clear_value x
    | dsimp only

theorem step7_kept {s0 : State} (s : State) (p : Nat) (r : SurveyRun) (hk : Kept s0 s) : Kept s0 (step7 s p r) := by
  delta step7
  repeat' first
    | with_reducible assumption
    | with_reducible apply runArrives_kept
    | with_reducible apply modPartner_kept
    | with_reducible apply setRun_kept
    | (try lift_lets); intro x; refine kept_have (s0 := s0) (s := ‹State›) ?_ ?_; unfold x; rotate_left; intro hx; clear_value x
    | (try lift_lets); intro x; clear_value x
    | split
    | simp -zeta only [kept_mk]
    | dsimp only

theorem step6_kept {s0 : State} (s : State) (p : Nat) (r : SurveyRun) (hk : Kept s0 s) : Kept s0 (step6 s p r) := by
  delta step6
  repeat' first
    | with_reducible assumption
    | with_reducible apply beginStep_kept
    | with_reducible apply step7_kept
    | (try lift_lets); intro x; clear_value x
    | split
    | dsimp only

theorem step5_kept {s0 : State} (s : State) (p : Nat) (r : SurveyRun) (hk : Kept s0 s) : Kept s0 (step5 s p r) := by
  delta step5
  repeat' first
    | with_reducible assumption
    | with_reducible apply beginStep_kept
    | with_reducible apply step6_kept
    | split
    | dsimp only

theorem overGranules_kept {s0 : State} (s : State) (e : Entry) (f : State → Nat → Nat → State) (hk : Kept s0 s) (hf : ∀ t a1 a2, Kept s0 t → Kept s0 (f t a1 a2)) : Kept s0 (overGranules s e f) := by
  delta overGranules
  repeat' first
    | with_reducible assumption
    | with_reducible apply hf
    | with_reducible apply kept_foldl
    | refine fun _ => ?_
    | dsimp only

theorem setGranule_kept {s0 : State} (s : State) (m : Nat) (g : Nat) (x : Granule) (hk : Kept s0 s) : Kept s0 (setGranule s m g x) := by
  delta setGranule
  repeat' first
    | with_reducible assumption
    | simp -zeta only [kept_mk]
    | dsimp only

theorem hold_kept {s0 : State} (s : State) (m : Nat) (g : Nat) (hk : Kept s0 s) : Kept s0 (hold s m g) := by
  delta hold
  repeat' first
    | with_reducible assumption
    | with_reducible apply setGranule_kept
    | split
    | dsimp only

theorem letGo_kept {s0 : State} (s : State) (m : Nat) (g : Nat) (hk : Kept s0 s) : Kept s0 (letGo s m g) := by
  delta letGo
  repeat' first
    | with_reducible assumption
    | with_reducible apply setGranule_kept
    | (try lift_lets); intro x; clear_value x
    | split
    | dsimp only

theorem everBound_kept {s0 : State} (s : State) (m : Nat) (g : Nat) (hk : Kept s0 s) : Kept s0 (everBound s m g) := by
  delta everBound
  repeat' first
    | with_reducible assumption
    | with_reducible apply setGranule_kept
    | (try lift_lets); intro x; clear_value x
    | split
    | dsimp only

theorem extentChange_kept {s0 : State} (s : State) (i : Nat) (old : Entry) (new : Entry) (quiet : Bool) (hk : Kept s0 s) : Kept s0 (extentChange s i old new quiet) := by
  delta extentChange
  dsimp only
  repeat' first
    | with_reducible assumption
    | with_reducible apply overGranules_kept
    | with_reducible apply hold_kept
    | with_reducible apply letGo_kept
    | with_reducible apply everBound_kept
    | with_reducible apply emit_kept
    | with_reducible apply raiseEvent_kept
    | refine fun _ => ?_
    | split
    | simp -zeta only [kept_mk]
    | dsimp only

theorem execEvtPost_kept {s0 : State} (e : EngineId) (s : State) (hk : Kept s0 s) : KeptRes s0 (execEvtPost e s) := by
  delta execEvtPost
  repeat' first
    | with_reducible assumption
    | with_reducible apply kept_next
    | with_reducible apply macroOp_kept
    | with_reducible apply raiseEvent_kept
    | refine fun _ => ?_
    | dsimp only

theorem execFenceSet_kept {s0 : State} (e : EngineId) (s : State) (hk : Kept s0 s) : KeptRes s0 (execFenceSet e s) := by
  delta execFenceSet
  repeat' first
    | with_reducible assumption
    | with_reducible apply kept_next
    | with_reducible apply macroOp_kept
    | with_reducible apply ruledWhole_kept
    | refine fun _ => ?_
    | (try lift_lets); intro x; clear_value x
    | split
    | dsimp only

theorem judgedDraft_kept {s0 : State} (d : Nat × State × Engine) (j : View → Nat) (hk : Kept s0 d.2.1) : Kept s0 (judgedDraft d j).2.1 := by
  delta judgedDraft
  repeat' first
    | with_reducible assumption
    | split
    | dsimp only

theorem execBindPld_kept {s0 : State} (e : EngineId) (s : State) (hk : Kept s0 s) : KeptRes s0 (execBindPld e s) := by
  delta execBindPld
  repeat' first
    | with_reducible assumption
    | with_reducible apply kept_next
    | with_reducible apply macroOp_kept
    | with_reducible apply judgedDraft_kept
    | with_reducible apply draftWhole_kept
    | refine fun _ => ?_
    | (try lift_lets); intro x; clear_value x
    | dsimp only

theorem onMailbox_kept {s0 : State} (s : State) (v : Nat) (f : Nat → State) (hk : Kept s0 s) (hf : ∀ p, Kept s0 (f p)) : KeptRes s0 (onMailbox s v f) := by
  delta onMailbox
  split
  · exact kept_next (hf _)
  · exact kept_next hk

theorem execGetDynamicCapacityConfiguration_kept {s0 : State} (v : VppbId) (s : State) (hk : Kept s0 s) : KeptRes s0 (execGetDynamicCapacityConfiguration v s) := by
  delta execGetDynamicCapacityConfiguration
  repeat' first
    | with_reducible assumption
    | with_reducible apply kept_next
    | with_reducible apply onMailbox_kept
    | with_reducible apply emit_kept
    | with_reducible apply tickBytes_kept
    | refine fun _ => ?_
    | (try lift_lets); intro x; clear_value x
    | dsimp only

theorem execCohRegionShare_kept {s0 : State} (e : EngineId) (s : State) (hk : Kept s0 s) : KeptRes s0 (execCohRegionShare e s) := by
  delta execCohRegionShare
  repeat' first
    | with_reducible assumption
    | with_reducible apply kept_next
    | with_reducible apply macroOp_kept
    | with_reducible apply judgedDraft_kept
    | with_reducible apply draftWhole_kept
    | refine fun _ => ?_
    | (try lift_lets); intro x; refine kept_have (s0 := s0) (s := (‹Nat × State × Engine›).2.1) ?_ ?_; unfold x; rotate_left; intro hx; clear_value x
    | (try lift_lets); intro x; clear_value x
    | split
    | dsimp only

theorem persist_kept {s0 : State} (s : State) (x : Engine) (w : Nat × Nat × Entry) (hk : Kept s0 s) : Kept s0 (persist s x w) := by
  delta persist
  repeat' first
    | with_reducible assumption
    | (try lift_lets); intro x; clear_value x
    | split
    | simp -zeta only [kept_mk]
    | dsimp only

theorem forget_kept {s0 : State} (s : State) (p : Nat) (hk : Kept s0 s) : Kept s0 (forget s p) := by
  delta forget
  repeat' first
    | with_reducible assumption
    | simp -zeta only [kept_mk]
    | dsimp only

theorem portFlip_kept {s0 : State} (s : State) (p : Nat) (old : Entry) (new : Entry) (mask : Entry) (hk : Kept s0 s) : Kept s0 (portFlip s p old new mask) := by
  delta portFlip
  repeat' first
    | with_reducible assumption
    | with_reducible apply endSession_kept
    | with_reducible apply enterDetect_kept
    | with_reducible apply emit_kept
    | with_reducible apply setLive_kept
    | with_reducible apply setRxLean_kept
    | with_reducible apply setSess_kept
    | (try lift_lets); intro x; refine kept_have (s0 := s0) (s := ‹State›) ?_ ?_; unfold x; rotate_left; intro hx; clear_value x
    | (try lift_lets); intro x; clear_value x
    | split
    | dsimp only

theorem bindFlip_kept {s0 : State} (s : State) (i : Nat) (old : Entry) (new : Entry) (hk : Kept s0 s) : Kept s0 (bindFlip s i old new) := by
  delta bindFlip
  repeat' first
    | with_reducible assumption
    | with_reducible apply setLive_kept
    | (try lift_lets); intro x; refine kept_have (s0 := s0) (s := ‹State›) ?_ ?_; unfold x; rotate_left; intro hx; clear_value x
    | split
    | simp -zeta only [kept_mk]
    | dsimp only

theorem memberFlip_kept {s0 : State} (s : State) (m : Nat) (new : Entry) (hk : Kept s0 s) : Kept s0 (memberFlip s m new) := by
  delta memberFlip
  repeat' first
    | with_reducible assumption
    | simp -zeta only [kept_mk]
    | dsimp only

theorem regionFreed_kept {s0 : State} (s : State) (old : Entry) (hk : Kept s0 s) : Kept s0 (regionFreed s old) := by
  delta regionFreed
  repeat' first
    | with_reducible assumption
    | with_reducible apply letGo_kept
    | with_reducible apply kept_foldl
    | refine fun _ => ?_
    | dsimp only

theorem clearUncertain_kept {s0 : State} (s : State) (g : Nat) (hk : Kept s0 s) : Kept s0 (clearUncertain s g) := by
  delta clearUncertain
  repeat' first
    | with_reducible assumption
    | with_reducible apply setSlice_kept
    | (try lift_lets); intro x; refine kept_have (s0 := s0) (s := ‹State›) ?_ ?_; unfold x; rotate_left; intro hx; clear_value x
    | (try lift_lets); intro x; clear_value x
    | simp -zeta only [kept_mk]
    | dsimp only

theorem ringFlip_kept {s0 : State} (s : State) (r : Nat) (mask : Entry) (new : Entry) (hk : Kept s0 s) : Kept s0 (ringFlip s r mask new) := by
  delta ringFlip
  repeat' first
    | with_reducible assumption
    | split
    | simp -zeta only [kept_mk]
    | dsimp only

theorem timerFlip_kept {s0 : State} (s : State) (t : Nat) (old : Entry) (new : Entry) (mask : Entry) (hk : Kept s0 s) : Kept s0 (timerFlip s t old new mask) := by
  delta timerFlip
  repeat' first
    | with_reducible assumption
    | (try lift_lets); intro x; clear_value x
    | split
    | simp -zeta only [kept_mk]
    | dsimp only

theorem metricFlip_kept {s0 : State} (s : State) (m : Nat) (old : Entry) (new : Entry) (hk : Kept s0 s) : Kept s0 (metricFlip s m old new) := by
  delta metricFlip
  repeat' first
    | with_reducible assumption
    | with_reducible apply kept_foldl
    | refine fun _ => ?_
    | split
    | simp -zeta only [kept_mk]
    | dsimp only

theorem armFlip_kept {s0 : State} (s : State) (i : Nat) (old : Entry) (new : Entry) (hk : Kept s0 s) : Kept s0 (armFlip s i old new) := by
  delta armFlip
  repeat' first
    | with_reducible assumption
    | (try lift_lets); intro x; refine kept_have (s0 := s0) (s := ‹State›) ?_ ?_; unfold x; rotate_left; intro hx; clear_value x
    | (try lift_lets); intro x; clear_value x
    | split
    | simp -zeta only [kept_mk]
    | dsimp only

theorem functionFlip_kept {s0 : State} (s : State) (f : Nat) (mask : Entry) (new : Entry) (hk : Kept s0 s) : Kept s0 (functionFlip s f mask new) := by
  delta functionFlip
  repeat' first
    | with_reducible assumption
    | with_reducible apply setLive_kept
    | (try lift_lets); intro x; clear_value x
    | split
    | simp -zeta only [kept_mk]
    | dsimp only

theorem applyOpp_kept {s0 : State} (s : State) (t : Nat) (hk : Kept s0 s) : Kept s0 (applyOpp s t) := by
  delta applyOpp
  repeat' first
    | with_reducible assumption
    | with_reducible apply count_kept
    | (try lift_lets); intro x; clear_value x
    | split
    | simp -zeta only [kept_mk]
    | dsimp only

theorem tileFlip_kept {s0 : State} (s : State) (t : Nat) (new : Entry) (hk : Kept s0 s) : Kept s0 (tileFlip s t new) := by
  delta tileFlip
  repeat' first
    | with_reducible assumption
    | with_reducible apply applyOpp_kept
    | (try lift_lets); intro x; refine kept_have (s0 := s0) (s := ‹State›) ?_ ?_; unfold x; rotate_left; intro hx; clear_value x
    | (try lift_lets); intro x; clear_value x
    | split
    | simp -zeta only [kept_mk]
    | dsimp only

theorem traceFlip_kept {s0 : State} (s : State) (t : Nat) (old : Entry) (new : Entry) (hk : Kept s0 s) : Kept s0 (traceFlip s t old new) := by
  delta traceFlip
  repeat' first
    | with_reducible assumption
    | with_reducible apply setLive_kept
    | (try lift_lets); intro x; refine kept_have (s0 := s0) (s := ‹State›) ?_ ?_; unfold x; rotate_left; intro hx; clear_value x
    | split
    | simp -zeta only [kept_mk]
    | dsimp only

theorem entryFlip_kept {s0 : State} (quiet : Bool) (s : State) (w : Nat × Nat × Entry × Entry × Entry) (hk : Kept s0 s) : Kept s0 (entryFlip quiet s w) := by
  delta entryFlip
  repeat' first
    | with_reducible assumption
    | with_reducible apply portFlip_kept
    | with_reducible apply laneFlip_kept
    | with_reducible apply bindFlip_kept
    | with_reducible apply extentChange_kept
    | with_reducible apply memberFlip_kept
    | with_reducible apply regionFreed_kept
    | with_reducible apply clearUncertain_kept
    | with_reducible apply ringFlip_kept
    | with_reducible apply timerFlip_kept
    | with_reducible apply slotFresh_kept
    | with_reducible apply metricFlip_kept
    | with_reducible apply armFlip_kept
    | with_reducible apply functionFlip_kept
    | with_reducible apply tileFlip_kept
    | with_reducible apply traceFlip_kept
    | (try lift_lets); intro x; clear_value x
    | split
    | simp -zeta only [kept_mk]
    | dsimp only

theorem planeFlip_kept {s0 : State} (s : State) (before : State) (pl : Nat) (hk : Kept s0 s) (hk1 : Kept s0 before) : Kept s0 (planeFlip s before pl) := by
  delta planeFlip
  repeat' first
    | with_reducible assumption
    | with_reducible apply setLive_kept
    | with_reducible apply kept_foldl
    | refine fun _ => ?_
    | (try lift_lets); intro x; refine kept_have (s0 := s0) (s := ‹State›) ?_ ?_; unfold x; rotate_left; intro hx; clear_value x
    | (try lift_lets); intro x; clear_value x
    | simp -zeta only [kept_mk]
    | dsimp only

theorem alignFlip_kept {s0 : State} (s : State) (x : Engine) (hk : Kept s0 s) : Kept s0 (alignFlip s x) := by
  delta alignFlip
  repeat' first
    | with_reducible assumption
    | with_reducible apply enterWake_kept
    | split
    | dsimp only

theorem legendFlip_kept {s0 : State} (s : State) (ws : List (Nat × Nat × Entry × Entry × Entry)) (hk : Kept s0 s) : Kept s0 (legendFlip s ws) := by
  delta legendFlip
  repeat' first
    | with_reducible assumption
    | with_reducible apply legendChanged_kept
    | split
    | dsimp only

theorem flip_kept {s0 : State} (s : State) (x : Engine) (hk : Kept s0 s) : Kept s0 (flip s x) := by
  delta flip
  repeat' first
    | with_reducible assumption
    | with_reducible apply setTab_kept
    | with_reducible apply persist_kept
    | with_reducible apply forget_kept
    | with_reducible apply count_kept
    | with_reducible apply entryFlip_kept
    | with_reducible apply planeFlip_kept
    | with_reducible apply alignFlip_kept
    | with_reducible apply deviceUpdate_kept
    | with_reducible apply legendFlip_kept
    | with_reducible apply kept_foldl
    | refine fun _ => ?_
    | (try lift_lets); intro x; refine kept_have (s0 := s0) (s := ‹State›) ?_ ?_; unfold x; rotate_left; intro hx; clear_value x
    | (try lift_lets); intro x; clear_value x
    | intro _
    | split
    | simp -zeta only [kept_mk]
    | dsimp only

theorem decoderSubmit_kept {s0 : State} (s : State) (k : Nat) (on : Bool) (hk : Kept s0 s) : Kept s0 (decoderSubmit s k on) := by
  delta decoderSubmit
  repeat' first
    | with_reducible assumption
    | simp -zeta only [kept_mk]
    | dsimp only

theorem execDecoderCommit_kept {s0 : State} (d : Fin 68608) (s : State) (hk : Kept s0 s) : KeptRes s0 (execDecoderCommit d s) := by
  delta execDecoderCommit
  repeat' first
    | with_reducible assumption
    | with_reducible apply kept_next
    | with_reducible apply decoderSubmit_kept
    | (try lift_lets); intro x; clear_value x
    | split
    | simp -zeta only [kept_mk]
    | dsimp only

theorem execBindVppb_kept {s0 : State} (e : EngineId) (s : State) (hk : Kept s0 s) : KeptRes s0 (execBindVppb e s) := by
  delta execBindVppb
  repeat' first
    | with_reducible assumption
    | with_reducible apply kept_next
    | with_reducible apply macroOp_kept
    | with_reducible apply draftWhole_kept
    | refine fun _ => ?_
    | (try lift_lets); intro x; refine kept_have (s0 := s0) (s := (‹Nat × State × Engine›).2.1) ?_ ?_; unfold x; rotate_left; intro hx; clear_value x
    | (try lift_lets); intro x; clear_value x
    | split
    | dsimp only

theorem spanCheck_kept {s0 : State} (s : State) (m : Option Nat) (a : Option Access) (hk : Kept s0 s) : Kept s0 (spanCheck s m a).2 := by
  delta spanCheck
  repeat' first
    | with_reducible assumption
    | with_reducible apply fenceCheck_kept
    | split
    | dsimp only

theorem spansCheck_kept {s0 : State} (s : State) (m : Option Nat) (off : Nat) (len : Nat) (l : List (Side × Bool)) (hk : Kept s0 s) : Kept s0 (spansCheck s m off len l).2 := by
  induction l generalizing s m off len with
  | nil => exact hk
  | cons a l ih =>
    unfold spansCheck
    repeat' first
      | with_reducible assumption
      | with_reducible apply ih
      | with_reducible apply spanCheck_kept
      | (try lift_lets); intro x; refine kept_have (s0 := s0) (s := (‹Nat × State›).2) ?_ ?_; unfold x; rotate_left; intro hx; clear_value x
      | split
      | dsimp only

theorem acceptDesc_kept {s0 : State} (s : State) (e : Nat) (x : Engine) (w : List Word) (hk : Kept s0 s) : Kept s0 (acceptDesc s e x w).2.1 := by
  delta acceptDesc
  repeat' first
    | with_reducible assumption
    | with_reducible apply spansCheck_kept
    | with_reducible apply placeDesc_kept
    | (try lift_lets); intro x; refine kept_have (s0 := s0) (s := (‹Nat × State›).2) ?_ ?_; unfold x; rotate_left; intro hx; clear_value x
    | (try lift_lets); intro x; clear_value x
    | split
    | dsimp only

theorem execMoverRun_kept {s0 : State} (e : EngineId) (s : State) (hk : Kept s0 s) : KeptRes s0 (execMoverRun e s) := by
  delta execMoverRun
  repeat' first
    | with_reducible assumption
    | with_reducible apply kept_next
    | with_reducible apply macroThen_kept
    | with_reducible apply acceptDesc_kept
    | with_reducible apply finish_kept
    | with_reducible apply setEngine_kept
    | refine fun _ => ?_
    | (try lift_lets); intro x; refine kept_have (s0 := s0) (s := (‹Nat × State × Nat›).2.1) ?_ ?_; unfold x; rotate_left; intro hx; clear_value x
    | split
    | dsimp only

theorem runFails_kept {s0 : State} (s : State) (p : Nat) (r : SurveyRun) (o : Nat) (hk : Kept s0 s) : Kept s0 (runFails s p r o) := by
  delta runFails
  repeat' first
    | with_reducible assumption
    | with_reducible apply slotOffAt_kept
    | with_reducible apply raiseEvent_kept
    | with_reducible apply disableLink_kept
    | with_reducible apply modPartner_kept
    | with_reducible apply runEnds_kept
    | with_reducible apply detectAbsence_kept
    | (try lift_lets); intro x; refine kept_have (s0 := s0) (s := ‹State›) ?_ ?_; unfold x; rotate_left; intro hx; clear_value x
    | (try lift_lets); intro x; clear_value x
    | split
    | dsimp only

theorem execPartnerLost_kept {s0 : State} (p : PortId) (s : State) (hk : Kept s0 s) : KeptRes s0 (execPartnerLost p s) := by
  delta execPartnerLost
  repeat' first
    | with_reducible assumption
    | with_reducible apply kept_next
    | with_reducible apply runFails_kept
    | with_reducible apply slotOffAt_kept
    | with_reducible apply leavePool_kept
    | with_reducible apply raiseEvent_kept
    | with_reducible apply modPartner_kept
    | (try lift_lets); intro x; refine kept_have (s0 := s0) (s := ‹State›) ?_ ?_; unfold x; rotate_left; intro hx; clear_value x
    | (try lift_lets); intro x; clear_value x
    | split
    | simp -zeta only [kept_mk]
    | dsimp only

theorem execBindRelease_kept {s0 : State} (e : EngineId) (s : State) (hk : Kept s0 s) : KeptRes s0 (execBindRelease e s) := by
  delta execBindRelease
  repeat' first
    | with_reducible assumption
    | with_reducible apply kept_next
    | with_reducible apply onOp_kept
    | with_reducible apply finish_kept
    | with_reducible apply draft_kept
    | refine fun _ => ?_
    | (try lift_lets); intro x; refine kept_have (s0 := s0) (s := (‹Nat × State × Engine›).2.1) ?_ ?_; unfold x; rotate_left; intro hx; clear_value x
    | (try lift_lets); intro x; clear_value x
    | intro _
    | split
    | dsimp only

theorem execAttentionDetachStart_kept {s0 : State} (p : PortId) (s : State) (hk : Kept s0 s) : KeptRes s0 (execAttentionDetachStart p s) := by
  delta execAttentionDetachStart
  repeat' first
    | with_reducible assumption
    | with_reducible apply kept_next
    | (try lift_lets); intro x; clear_value x
    | split
    | simp -zeta only [kept_mk]
    | dsimp only

theorem execBindUnvppb_kept {s0 : State} (e : EngineId) (s : State) (hk : Kept s0 s) : KeptRes s0 (execBindUnvppb e s) := by
  delta execBindUnvppb
  repeat' first
    | with_reducible assumption
    | with_reducible apply kept_next
    | with_reducible apply macroThen_kept
    | with_reducible apply finish_kept
    | with_reducible apply unvppbDrain_kept
    | with_reducible apply seqCommit_kept
    | refine fun _ => ?_
    | (try lift_lets); intro x; clear_value x
    | split
    | dsimp only

theorem execOfferExpired_kept {s0 : State} (x : ExtentId) (s : State) (hk : Kept s0 s) : KeptRes s0 (execOfferExpired x s) := by
  delta execOfferExpired
  repeat' first
    | with_reducible assumption
    | with_reducible apply kept_next
    | with_reducible apply extentChange_kept
    | with_reducible apply deviceUpdate_kept
    | (try lift_lets); intro x; clear_value x
    | split
    | dsimp only

theorem execBindVcs_kept {s0 : State} (e : EngineId) (s : State) (hk : Kept s0 s) : KeptRes s0 (execBindVcs e s) := by
  delta execBindVcs
  repeat' first
    | with_reducible assumption
    | with_reducible apply kept_next
    | with_reducible apply macroOp_kept
    | with_reducible apply draftWhole_kept
    | refine fun _ => ?_
    | (try lift_lets); intro x; clear_value x
    | split
    | dsimp only

theorem startTraining_kept {s0 : State} (s : State) (p : Nat) (hk : Kept s0 s) : Kept s0 (startTraining s p) := by
  delta startTraining
  repeat' first
    | with_reducible assumption
    | with_reducible apply enterDetect_kept
    | with_reducible apply emit_kept
    | with_reducible apply setLive_kept
    | split
    | dsimp only

theorem step3_kept {s0 : State} (s : State) (p : Nat) (r : SurveyRun) (hk : Kept s0 s) : Kept s0 (step3 s p r) := by
  delta step3
  repeat' first
    | with_reducible assumption
    | with_reducible apply startTraining_kept
    | with_reducible apply beginStep_kept
    | dsimp only

theorem execMoverPost_kept {s0 : State} (e : EngineId) (s : State) (hk : Kept s0 s) : KeptRes s0 (execMoverPost e s) := by
  delta execMoverPost
  repeat' first
    | with_reducible assumption
    | with_reducible apply kept_next
    | with_reducible apply macroThen_kept
    | with_reducible apply acceptDesc_kept
    | with_reducible apply finish_kept
    | refine fun _ => ?_
    | (try lift_lets); intro x; refine kept_have (s0 := s0) (s := (‹Nat × State × Nat›).2.1) ?_ ?_; unfold x; rotate_left; intro hx; clear_value x
    | split
    | dsimp only

theorem execPerfRead_kept {s0 : State} (e : EngineId) (s : State) (hk : Kept s0 s) : KeptRes s0 (execPerfRead e s) := by
  delta execPerfRead
  repeat' first
    | with_reducible assumption
    | with_reducible apply kept_next
    | with_reducible apply macroRead_kept
    | (try lift_lets); intro x; clear_value x
    | split
    | dsimp only

theorem execSurveyStepTimeout_kept {s0 : State} (p : PortId) (s : State) (hk : Kept s0 s) : KeptRes s0 (execSurveyStepTimeout p s) := by
  delta execSurveyStepTimeout
  repeat' first
    | with_reducible assumption
    | with_reducible apply kept_next
    | with_reducible apply runFails_kept
    | with_reducible apply step7_kept
    | (try lift_lets); intro x; clear_value x
    | split
    | dsimp only

theorem execGetDynamicCapacityExtentList_kept {s0 : State} (v : VppbId) (count : BitVec 32) (start : BitVec 32) (s : State) (hk : Kept s0 s) : KeptRes s0 (execGetDynamicCapacityExtentList v count start s) := by
  delta execGetDynamicCapacityExtentList
  repeat' first
    | with_reducible assumption
    | with_reducible apply kept_next
    | with_reducible apply onMailbox_kept
    | with_reducible apply emit_kept
    | with_reducible apply tickBytes_kept
    | refine fun _ => ?_
    | (try lift_lets); intro x; clear_value x
    | dsimp only

theorem slotOnAt_kept {s0 : State} (s : State) (p : Nat) (hk : Kept s0 s) : Kept s0 (slotOnAt s p) := by
  delta slotOnAt
  repeat' first
    | with_reducible assumption
    | with_reducible apply slotCmdOn_kept
    | split
    | dsimp only

theorem step2_kept {s0 : State} (s : State) (p : Nat) (r : SurveyRun) (hk : Kept s0 s) : Kept s0 (step2 s p r) := by
  delta step2
  repeat' first
    | with_reducible assumption
    | with_reducible apply slotOnAt_kept
    | with_reducible apply beginStep_kept
    | with_reducible apply step3_kept
    | split
    | dsimp only

theorem beginRun_kept {s0 : State} (s : State) (e : Nat) (p : Nat) (hk : Kept s0 s) : Kept s0 (beginRun s e p) := by
  delta beginRun
  repeat' first
    | with_reducible assumption
    | with_reducible apply modPartner_kept
    | with_reducible apply step2_kept
    | with_reducible apply setRun_kept
    | with_reducible apply runFails_kept
    | (try lift_lets); intro x; refine kept_have (s0 := s0) (s := ‹State›) ?_ ?_; unfold x; rotate_left; intro hx; clear_value x
    | (try lift_lets); intro x; clear_value x
    | split
    | simp -zeta only [kept_mk]
    | dsimp only

theorem execQosFlow_kept {s0 : State} (e : EngineId) (s : State) (hk : Kept s0 s) : KeptRes s0 (execQosFlow e s) := by
  delta execQosFlow
  repeat' first
    | with_reducible assumption
    | with_reducible apply kept_next
    | with_reducible apply macroOp_kept
    | with_reducible apply draftWhole_kept
    | refine fun _ => ?_
    | (try lift_lets); intro x; clear_value x
    | split
    | dsimp only

theorem step5Passed_kept {s0 : State} (s : State) (p : Nat) (meas : BitVec 64) (ide : Bool) (hk : Kept s0 s) : Kept s0 (step5Passed s p meas ide) := by
  delta step5Passed
  repeat' first
    | with_reducible assumption
    | with_reducible apply modPartner_kept
    | with_reducible apply partnerTrusted_kept
    | with_reducible apply egressFlush_kept
    | with_reducible apply setLive_kept
    | (try lift_lets); intro x; refine kept_have (s0 := s0) (s := ‹State›) ?_ ?_; unfold x; rotate_left; intro hx; clear_value x
    | (try lift_lets); intro x; clear_value x
    | intro _
    | split
    | simp -zeta only [kept_mk]
    | dsimp only

theorem execSlotMap_kept {s0 : State} (e : EngineId) (s : State) (hk : Kept s0 s) : KeptRes s0 (execSlotMap e s) := by
  delta execSlotMap
  repeat' first
    | with_reducible assumption
    | with_reducible apply kept_next
    | with_reducible apply macroOp_kept
    | with_reducible apply draft_kept
    | refine fun _ => ?_
    | (try lift_lets); intro x; clear_value x
    | split
    | dsimp only

theorem execScrubStart_kept {s0 : State} (m : MoverId) (s : State) (hk : Kept s0 s) : KeptRes s0 (execScrubStart m s) := by
  delta execScrubStart
  repeat' first
    | with_reducible assumption
    | with_reducible apply kept_next
    | with_reducible apply setGranule_kept
    | with_reducible apply setDesc_kept
    | with_reducible apply kept_foldl
    | refine fun _ => ?_
    | (try lift_lets); intro x; refine kept_have (s0 := s0) (s := ‹State›) ?_ ?_; unfold x; rotate_left; intro hx; clear_value x
    | (try lift_lets); intro x; clear_value x
    | split
    | simp -zeta only [kept_mk]
    | dsimp only

theorem execPerfGrant_kept {s0 : State} (e : EngineId) (s : State) (hk : Kept s0 s) : KeptRes s0 (execPerfGrant e s) := by
  delta execPerfGrant
  repeat' first
    | with_reducible assumption
    | with_reducible apply kept_next
    | with_reducible apply macroOp_kept
    | with_reducible apply draft_kept
    | refine fun _ => ?_
    | (try lift_lets); intro x; clear_value x
    | split
    | dsimp only

theorem identified_kept {s0 : State} (s : State) (p : Nat) (prev : Option Nat) (f : Partner → Partner) (hk : Kept s0 s) : Kept s0 (identified s p prev f) := by
  delta identified
  repeat' first
    | with_reducible assumption
    | with_reducible apply modPartner_kept
    | with_reducible apply raiseEvent_kept
    | (try lift_lets); intro x; refine kept_have (s0 := s0) (s := ‹State›) ?_ ?_; unfold x; rotate_left; intro hx; clear_value x
    | split
    | dsimp only

theorem step4Found_out {s0 s t : State} {p : Nat} {prev : Option Nat} {x : StepFound} {b : Bool} {l : List Nat}
    (e : step4Found s p prev x = some (t, b, l)) (hk : Kept s0 s) : Kept s0 t := by
  unfold step4Found at e
  split at e
  all_goals first | contradiction | skip
  all_goals simp only [Option.some.injEq, Prod.mk.injEq] at e
  all_goals obtain ⟨rfl, -, -⟩ := e
  all_goals exact identified_kept _ _ _ _ hk

theorem arbNext_kept {s0 : State} (s : State) (hk : Kept s0 s) : Kept s0 (arbNext s) := by
  delta arbNext
  repeat' first
    | with_reducible assumption
    | simp -zeta only [kept_mk]
    | dsimp only

theorem commitFails_kept {s0 : State} (s : State) (e : Nat) (x : Engine) (st : Nat) (hk : Kept s0 s) : Kept s0 (commitFails s e x st) := by
  delta commitFails
  repeat' first
    | with_reducible assumption
    | with_reducible apply count_kept
    | with_reducible apply arbNext_kept
    | with_reducible apply finish_kept
    | with_reducible apply lkWrite_kept
    | (try lift_lets); intro x; refine kept_have (s0 := s0) (s := ‹State›) ?_ ?_; unfold x; rotate_left; intro hx; clear_value x
    | split
    | dsimp only

theorem lossesAfter_kept {s0 : State} (s : State) (hk : Kept s0 s) : Kept s0 (lossesAfter s) := by
  delta lossesAfter
  repeat' first
    | with_reducible assumption
    | with_reducible apply deviceUpdate_kept
    | with_reducible apply setLive_kept
    | with_reducible apply loseMembers_kept
    | with_reducible apply kept_foldl
    | refine fun _ => ?_
    | dsimp only

theorem execCommitFlip_kept {s0 : State} (s : State) (hk : Kept s0 s) : KeptRes s0 (execCommitFlip s) := by
  delta execCommitFlip
  repeat' first
    | with_reducible assumption
    | with_reducible apply kept_next
    | with_reducible apply arbNext_kept
    | with_reducible apply commitFails_kept
    | with_reducible apply lossesAfter_kept
    | with_reducible apply flip_kept
    | with_reducible apply setEngine_kept
    | with_reducible apply count_kept
    | with_reducible apply finish_kept
    | with_reducible apply macroNext_kept
    | (try lift_lets); intro x; refine kept_have (s0 := s0) (s := ‹State›) ?_ ?_; unfold x; rotate_left; intro hx; clear_value x
    | (try lift_lets); intro x; clear_value x
    | split
    | dsimp only

theorem execPresence_kept {s0 : State} (p : PortId) (s : State) (hk : Kept s0 s) : KeptRes s0 (execPresence p s) := by
  delta execPresence
  repeat' first
    | with_reducible assumption
    | with_reducible apply kept_next
    | with_reducible apply raiseEvent_kept
    | split
    | simp -zeta only [kept_mk]
    | dsimp only

theorem execPerfArm_kept {s0 : State} (e : EngineId) (s : State) (hk : Kept s0 s) : KeptRes s0 (execPerfArm e s) := by
  delta execPerfArm
  repeat' first
    | with_reducible assumption
    | with_reducible apply kept_next
    | with_reducible apply macroOp_kept
    | with_reducible apply ruledWhole_kept
    | refine fun _ => ?_
    | (try lift_lets); intro x; clear_value x
    | split
    | dsimp only

theorem execTrd_kept {s0 : State} (e : EngineId) (s : State) (hk : Kept s0 s) : KeptRes s0 (execTrd e s) := by
  delta execTrd
  repeat' first
    | with_reducible assumption
    | with_reducible apply kept_next
    | with_reducible apply onOp_kept
    | with_reducible apply finish_kept
    | refine fun _ => ?_
    | (try lift_lets); intro x; clear_value x
    | split
    | dsimp only

theorem execCohRegionRelease_kept {s0 : State} (e : EngineId) (s : State) (hk : Kept s0 s) : KeptRes s0 (execCohRegionRelease e s) := by
  delta execCohRegionRelease
  repeat' first
    | with_reducible assumption
    | with_reducible apply kept_next
    | with_reducible apply macroThen_kept
    | with_reducible apply finish_kept
    | with_reducible apply seqWalk_kept
    | with_reducible apply seqCommit_kept
    | refine fun _ => ?_
    | (try lift_lets); intro x; clear_value x
    | split
    | dsimp only

theorem execBindGfam_kept {s0 : State} (e : EngineId) (s : State) (hk : Kept s0 s) : KeptRes s0 (execBindGfam e s) := by
  delta execBindGfam
  repeat' first
    | with_reducible assumption
    | with_reducible apply kept_next
    | with_reducible apply macroOp_kept
    | with_reducible apply judgedDraft_kept
    | with_reducible apply draftWhole_kept
    | refine fun _ => ?_
    | (try lift_lets); intro x; clear_value x
    | split
    | dsimp only

theorem drainGranules_kept {s0 : State} (s : State) (p : Nat) (hk : Kept s0 s) : Kept s0 (drainGranules s p) := by
  delta drainGranules
  repeat' first
    | with_reducible assumption
    | simp -zeta only [kept_mk]
    | dsimp only

theorem execDrainPointReached_kept {s0 : State} (ep : Fin 3072) (s : State) (hk : Kept s0 s) : KeptRes s0 (execDrainPointReached ep s) := by
  delta execDrainPointReached
  repeat' first
    | with_reducible assumption
    | with_reducible apply kept_next
    | with_reducible apply drainGranules_kept
    | with_reducible apply drainWaiters_kept
    | (try lift_lets); intro x; refine kept_have (s0 := s0) (s := ‹State›) ?_ ?_; unfold x; rotate_left; intro hx; clear_value x
    | split
    | dsimp only

theorem execEvtTimer_kept {s0 : State} (e : EngineId) (s : State) (hk : Kept s0 s) : KeptRes s0 (execEvtTimer e s) := by
  delta execEvtTimer
  repeat' first
    | with_reducible assumption
    | with_reducible apply kept_next
    | with_reducible apply macroOp_kept
    | with_reducible apply draftWhole_kept
    | refine fun _ => ?_
    | dsimp only

theorem execPerfDump_kept {s0 : State} (e : EngineId) (s : State) (hk : Kept s0 s) : KeptRes s0 (execPerfDump e s) := by
  delta execPerfDump
  refine kept_next (macroOp_kept _ _ _ _ _ _ _ hk fun t x b ht => ?_)
  refine kept_ite rfl ht (kept_ite rfl ht (kept_ite rfl ht (kept_ite rfl ht (draftWhole_kept _ _ _ _ _ _ ht))))

theorem execReleaseDynamicCapacity_kept {s0 : State} (v : VppbId) (exts : List (BitVec 28 × BitVec 28)) (s : State) (hk : Kept s0 s) : KeptRes s0 (execReleaseDynamicCapacity v exts s) := by
  delta execReleaseDynamicCapacity
  repeat' first
    | with_reducible assumption
    | with_reducible apply kept_next
    | with_reducible apply onMailbox_kept
    | refine fun _ => ?_
    | simp -zeta only [kept_mk]
    | dsimp only

theorem execBindPid_kept {s0 : State} (e : EngineId) (s : State) (hk : Kept s0 s) : KeptRes s0 (execBindPid e s) := by
  delta execBindPid
  repeat' first
    | with_reducible assumption
    | with_reducible apply kept_next
    | with_reducible apply macroOp_kept
    | with_reducible apply judgedDraft_kept
    | with_reducible apply draftWhole_kept
    | refine fun _ => ?_
    | (try lift_lets); intro x; clear_value x
    | split
    | dsimp only

theorem execSurveyRun_kept {s0 : State} (e : EngineId) (s : State) (hk : Kept s0 s) : KeptRes s0 (execSurveyRun e s) := by
  delta execSurveyRun
  repeat' first
    | with_reducible assumption
    | with_reducible apply kept_next
    | with_reducible apply macroThen_kept
    | with_reducible apply finish_kept
    | with_reducible apply setEngine_kept
    | with_reducible apply step7_kept
    | with_reducible apply setRun_kept
    | with_reducible apply modPartner_kept
    | with_reducible apply beginRun_kept
    | refine fun _ => ?_
    | (try lift_lets); intro x; refine kept_have (s0 := s0) (s := ‹State›) ?_ ?_; unfold x; rotate_left; intro hx; clear_value x
    | (try lift_lets); intro x; clear_value x
    | split
    | dsimp only

theorem execCohAgentAdd_kept {s0 : State} (e : EngineId) (s : State) (hk : Kept s0 s) : KeptRes s0 (execCohAgentAdd e s) := by
  delta execCohAgentAdd
  repeat' first
    | with_reducible assumption
    | with_reducible apply kept_next
    | with_reducible apply macroOp_kept
    | with_reducible apply draftWhole_kept
    | with_reducible apply judgedDraft_kept
    | with_reducible apply drafts_kept
    | refine fun _ => ?_
    | (try lift_lets); intro x; refine kept_have (s0 := s0) (s := (‹Nat × State × Engine›).2.1) ?_ ?_; unfold x; rotate_left; intro hx; clear_value x
    | (try lift_lets); intro x; clear_value x
    | split
    | dsimp only

theorem execDrain_kept {s0 : State} (e : EngineId) (s : State) (hk : Kept s0 s) : KeptRes s0 (execDrain e s) := by
  delta execDrain
  repeat' first
    | with_reducible assumption
    | with_reducible apply kept_next
    | with_reducible apply onOp_kept
    | with_reducible apply finish_kept
    | with_reducible apply setEngine_kept
    | refine fun _ => ?_
    | (try lift_lets); intro x; clear_value x
    | split
    | dsimp only

theorem lineDone_kept {s0 : State} (s : State) (i : Nat) (d : Desc) (hk : Kept s0 s) : Kept s0 (lineDone s i d) := by
  delta lineDone
  repeat' first
    | with_reducible assumption
    | with_reducible apply endDesc_kept
    | with_reducible apply setDesc_kept
    | (try lift_lets); intro x; clear_value x
    | split
    | dsimp only

theorem compareLines_kept {s0 : State} (s : State) (i : Nat) (d : Desc) (bs : List Byte) (hk : Kept s0 s) : Kept s0 (compareLines s i d bs) := by
  delta compareLines
  repeat' first
    | with_reducible assumption
    | with_reducible apply tick_kept
    | with_reducible apply endDesc_kept
    | with_reducible apply lineDone_kept
    | split
    | dsimp only

theorem execTileProfile_kept {s0 : State} (e : EngineId) (s : State) (hk : Kept s0 s) : KeptRes s0 (execTileProfile e s) := by
  delta execTileProfile
  repeat' first
    | with_reducible assumption
    | with_reducible apply kept_next
    | with_reducible apply macroOp_kept
    | with_reducible apply draftWhole_kept
    | refine fun _ => ?_
    | (try lift_lets); intro x; clear_value x
    | split
    | dsimp only

theorem execUnclaim_kept {s0 : State} (e : EngineId) (s : State) (hk : Kept s0 s) : KeptRes s0 (execUnclaim e s) := by
  delta execUnclaim
  repeat' first
    | with_reducible assumption
    | with_reducible apply kept_next
    | with_reducible apply onOp_kept
    | with_reducible apply finish_kept
    | with_reducible apply releaseClaims_kept
    | with_reducible apply raiseEvent_kept
    | refine fun _ => ?_
    | (try lift_lets); intro x; clear_value x
    | intro _
    | split
    | dsimp only

theorem execSurveyDetach_kept {s0 : State} (e : EngineId) (s : State) (hk : Kept s0 s) : KeptRes s0 (execSurveyDetach e s) := by
  delta execSurveyDetach
  repeat' first
    | with_reducible assumption
    | with_reducible apply kept_next
    | with_reducible apply macroThen_kept
    | with_reducible apply finish_kept
    | with_reducible apply modPartner_kept
    | with_reducible apply detachEnd_kept
    | with_reducible apply detach2_kept
    | with_reducible apply detachGo_kept
    | refine fun _ => ?_
    | (try lift_lets); intro x; refine kept_have (s0 := s0) (s := ‹State›) ?_ ?_; unfold x; rotate_left; intro hx; clear_value x
    | (try lift_lets); intro x; clear_value x
    | split
    | simp -zeta only [kept_mk]
    | dsimp only

theorem execWalkDone_kept {s0 : State} (s : State) (hk : Kept s0 s) : KeptRes s0 (execWalkDone s) := by
  delta execWalkDone
  repeat' first
    | with_reducible assumption
    | with_reducible apply kept_next
    | with_reducible apply raiseEvent_kept
    | with_reducible apply macroNext_kept
    | (try lift_lets); intro x; refine kept_have (s0 := s0) (s := ‹State›) ?_ ?_; unfold x; rotate_left; intro hx; clear_value x
    | (try lift_lets); intro x; clear_value x
    | intro _
    | split
    | simp -zeta only [kept_mk]
    | dsimp only

theorem execZeroComplete_kept {s0 : State} (m : MoverId) (s : State) (hk : Kept s0 s) : KeptRes s0 (execZeroComplete m s) := by
  delta execZeroComplete
  repeat' first
    | with_reducible assumption
    | with_reducible apply kept_next
    | with_reducible apply setGranule_kept
    | with_reducible apply raiseEvent_kept
    | with_reducible apply kept_foldl
    | refine fun _ => ?_
    | (try lift_lets); intro x; refine kept_have (s0 := s0) (s := ‹State›) ?_ ?_; unfold x; rotate_left; intro hx; clear_value x
    | (try lift_lets); intro x; clear_value x
    | split
    | simp -zeta only [kept_mk]
    | dsimp only

theorem execReleaseOverdue_kept {s0 : State} (x : ExtentId) (s : State) (hk : Kept s0 s) : KeptRes s0 (execReleaseOverdue x s) := by
  delta execReleaseOverdue
  repeat' first
    | with_reducible assumption
    | with_reducible apply kept_next
    | with_reducible apply raiseEvent_kept
    | (try lift_lets); intro x; clear_value x
    | split
    | simp -zeta only [kept_mk]
    | dsimp only

theorem registeredNow_kept {s0 : State} (s : State) (p : Nat) (todo : List (Nat × Nat)) (hk : Kept s0 s) : Kept s0 (registeredNow s p todo) := by
  delta registeredNow
  repeat' first
    | with_reducible assumption
    | with_reducible apply modPartner_kept
    | with_reducible apply raiseEvent_kept
    | with_reducible apply kept_foldl
    | refine fun _ => ?_
    | (try lift_lets); intro x; refine kept_have (s0 := s0) (s := ‹State›) ?_ ?_; unfold x; rotate_left; intro hx; clear_value x
    | dsimp only

theorem execDeferredRegistration_kept {s0 : State} (p : PortId) (s : State) (hk : Kept s0 s) : KeptRes s0 (execDeferredRegistration p s) := by
  delta execDeferredRegistration
  repeat' first
    | with_reducible assumption
    | with_reducible apply kept_next
    | with_reducible apply deviceUpdate_kept
    | with_reducible apply memberFlip_kept
    | with_reducible apply registeredNow_kept
    | with_reducible apply kept_foldl
    | refine fun _ => ?_
    | (try lift_lets); intro x; refine kept_have (s0 := s0) (s := ‹State›) ?_ ?_; unfold x; rotate_left; intro hx; clear_value x
    | (try lift_lets); intro x; clear_value x
    | split
    | simp -zeta only [kept_mk]
    | dsimp only

theorem execDecoderUncommit_kept {s0 : State} (d : Fin 68608) (s : State) (hk : Kept s0 s) : KeptRes s0 (execDecoderUncommit d s) := by
  delta execDecoderUncommit
  repeat' first
    | with_reducible assumption
    | with_reducible apply kept_next
    | with_reducible apply decoderSubmit_kept
    | (try lift_lets); intro x; clear_value x
    | split
    | dsimp only

theorem execIdentifyMemoryDevice_kept {s0 : State} (v : VppbId) (s : State) (hk : Kept s0 s) : KeptRes s0 (execIdentifyMemoryDevice v s) := by
  delta execIdentifyMemoryDevice
  repeat' first
    | with_reducible assumption
    | with_reducible apply kept_next
    | with_reducible apply onMailbox_kept
    | with_reducible apply emit_kept
    | with_reducible apply tickBytes_kept
    | refine fun _ => ?_
    | dsimp only

theorem execAddDynamicCapacityResponse_kept {s0 : State} (v : VppbId) (exts : List (BitVec 28 × BitVec 28)) (s : State) (hk : Kept s0 s) : KeptRes s0 (execAddDynamicCapacityResponse v exts s) := by
  delta execAddDynamicCapacityResponse
  repeat' first
    | with_reducible assumption
    | with_reducible apply kept_next
    | with_reducible apply onMailbox_kept
    | refine fun _ => ?_
    | (try lift_lets); intro x; clear_value x
    | split
    | simp -zeta only [kept_mk]
    | dsimp only

theorem execMailboxUnsupported_kept {s0 : State} (v : VppbId) (op : BitVec 16) (s : State) (hk : Kept s0 s) : KeptRes s0 (execMailboxUnsupported v op s) := by
  delta execMailboxUnsupported
  repeat' first
    | with_reducible assumption
    | with_reducible apply kept_next
    | with_reducible apply onMailbox_kept
    | with_reducible apply emit_kept
    | refine fun _ => ?_
    | dsimp only

theorem execTwr_kept {s0 : State} (e : EngineId) (s : State) (hk : Kept s0 s) : KeptRes s0 (execTwr e s) := by
  delta execTwr
  repeat' first
    | with_reducible assumption
    | with_reducible apply kept_next
    | with_reducible apply onOp_kept
    | with_reducible apply finish_kept
    | with_reducible apply draftRuled_kept
    | refine fun _ => ?_
    | (try lift_lets); intro x; refine kept_have (s0 := s0) (s := (‹Nat × State × Engine›).2.1) ?_ ?_; unfold x; rotate_left; intro hx; clear_value x
    | (try lift_lets); intro x; clear_value x
    | split
    | dsimp only

theorem execTclr_kept {s0 : State} (e : EngineId) (s : State) (hk : Kept s0 s) : KeptRes s0 (execTclr e s) := by
  delta execTclr
  repeat' first
    | with_reducible assumption
    | with_reducible apply kept_next
    | with_reducible apply onOp_kept
    | with_reducible apply finish_kept
    | with_reducible apply draftAny_kept
    | refine fun _ => ?_
    | (try lift_lets); intro x; refine kept_have (s0 := s0) (s := (‹Nat × State × Engine›).2.1) ?_ ?_; unfold x; rotate_left; intro hx; clear_value x
    | (try lift_lets); intro x; clear_value x
    | split
    | dsimp only

theorem execCommit_kept {s0 : State} (e : EngineId) (s : State) (hk : Kept s0 s) : KeptRes s0 (execCommit e s) := by
  delta execCommit
  repeat' first
    | with_reducible assumption
    | with_reducible apply kept_next
    | with_reducible apply onOp_kept
    | with_reducible apply finish_kept
    | with_reducible apply askCommit_kept
    | refine fun _ => ?_
    | split
    | dsimp only

theorem execCommitJudgement_kept {s0 : State} (s : State) (hk : Kept s0 s) : KeptRes s0 (execCommitJudgement s) := by
  delta execCommitJudgement
  repeat' first
    | with_reducible assumption
    | with_reducible apply kept_next
    | with_reducible apply arbNext_kept
    | with_reducible apply commitFails_kept
    | (try lift_lets); intro x; clear_value x
    | split
    | simp -zeta only [kept_mk]
    | dsimp only

theorem execDrainTimeout_kept {s0 : State} (e : EngineId) (s : State) (hk : Kept s0 s) : KeptRes s0 (execDrainTimeout e s) := by
  delta execDrainTimeout
  repeat' first
    | with_reducible assumption
    | with_reducible apply kept_next
    | with_reducible apply finish_kept
    | (try lift_lets); intro x; clear_value x
    | split
    | dsimp only

theorem execBindAdd_kept {s0 : State} (e : EngineId) (s : State) (hk : Kept s0 s) : KeptRes s0 (execBindAdd e s) := by
  delta execBindAdd
  repeat' first
    | with_reducible assumption
    | with_reducible apply kept_next
    | with_reducible apply macroOp_kept
    | with_reducible apply judgedDraft_kept
    | with_reducible apply draftWhole_kept
    | refine fun _ => ?_
    | (try lift_lets); intro x; refine kept_have (s0 := s0) (s := (‹Nat × State × Engine›).2.1) ?_ ?_; unfold x; rotate_left; intro hx; clear_value x
    | (try lift_lets); intro x; clear_value x
    | split
    | dsimp only

theorem execCohDomain_kept {s0 : State} (e : EngineId) (s : State) (hk : Kept s0 s) : KeptRes s0 (execCohDomain e s) := by
  delta execCohDomain
  repeat' first
    | with_reducible assumption
    | with_reducible apply kept_next
    | with_reducible apply macroOp_kept
    | with_reducible apply judgedDraft_kept
    | with_reducible apply draft_kept
    | refine fun _ => ?_
    | (try lift_lets); intro x; clear_value x
    | dsimp only

theorem execCohAgentRemove_kept {s0 : State} (e : EngineId) (s : State) (hk : Kept s0 s) : KeptRes s0 (execCohAgentRemove e s) := by
  delta execCohAgentRemove
  repeat' first
    | with_reducible assumption
    | with_reducible apply kept_next
    | with_reducible apply macroThen_kept
    | with_reducible apply finish_kept
    | with_reducible apply seqWalk_kept
    | with_reducible apply seqCommit_kept
    | refine fun _ => ?_
    | (try lift_lets); intro x; clear_value x
    | split
    | dsimp only

theorem execCohLookup_kept {s0 : State} (e : EngineId) (s : State) (hk : Kept s0 s) : KeptRes s0 (execCohLookup e s) := by
  delta execCohLookup
  repeat' first
    | with_reducible assumption
    | with_reducible apply kept_next
    | with_reducible apply macroRead_kept
    | (try lift_lets); intro x; clear_value x
    | split
    | dsimp only

theorem execQosPort_kept {s0 : State} (e : EngineId) (s : State) (hk : Kept s0 s) : KeptRes s0 (execQosPort e s) := by
  delta execQosPort
  repeat' first
    | with_reducible assumption
    | with_reducible apply kept_next
    | with_reducible apply macroOp_kept
    | with_reducible apply draftMasked_kept
    | refine fun _ => ?_
    | (try lift_lets); intro x; clear_value x
    | split
    | dsimp only

theorem execFenceClear_kept {s0 : State} (e : EngineId) (s : State) (hk : Kept s0 s) : KeptRes s0 (execFenceClear e s) := by
  delta execFenceClear
  repeat' first
    | with_reducible assumption
    | with_reducible apply kept_next
    | with_reducible apply macroOp_kept
    | with_reducible apply draftWhole_kept
    | refine fun _ => ?_
    | (try lift_lets); intro x; clear_value x
    | split
    | dsimp only

theorem execSlotConfig_kept {s0 : State} (e : EngineId) (s : State) (hk : Kept s0 s) : KeptRes s0 (execSlotConfig e s) := by
  delta execSlotConfig
  refine kept_next (macroOp_kept _ _ _ _ _ _ _ hk fun t x b ht => ?_)
  refine kept_ite rfl ht (draft_kept _ _ _ _ _ _ _ ht)

theorem execSurveyRecord_kept {s0 : State} (e : EngineId) (s : State) (hk : Kept s0 s) : KeptRes s0 (execSurveyRecord e s) := by
  delta execSurveyRecord
  repeat' first
    | with_reducible assumption
    | with_reducible apply kept_next
    | with_reducible apply macroOp_kept
    | refine fun _ => ?_
    | (try lift_lets); intro x; clear_value x
    | split
    | dsimp only

theorem execEvtRoute_kept {s0 : State} (e : EngineId) (s : State) (hk : Kept s0 s) : KeptRes s0 (execEvtRoute e s) := by
  delta execEvtRoute
  repeat' first
    | with_reducible assumption
    | with_reducible apply kept_next
    | with_reducible apply macroOp_kept
    | with_reducible apply draftWhole_kept
    | refine fun _ => ?_
    | (try lift_lets); intro x; clear_value x
    | split
    | dsimp only

theorem execEvtMetric_kept {s0 : State} (e : EngineId) (s : State) (hk : Kept s0 s) : KeptRes s0 (execEvtMetric e s) := by
  delta execEvtMetric
  repeat' first
    | with_reducible assumption
    | with_reducible apply kept_next
    | with_reducible apply macroOp_kept
    | with_reducible apply ruledWhole_kept
    | refine fun _ => ?_
    | (try lift_lets); intro x; clear_value x
    | split
    | dsimp only

theorem reportDesc_kept {s0 : State} (s : State) (i : Nat) (e : Nat) (x : Engine) (d : Desc) (hk : Kept s0 s) : Kept s0 (reportDesc s i e x d) := by
  delta reportDesc
  repeat' first
    | with_reducible assumption
    | with_reducible apply finish_kept
    | with_reducible apply setDesc_kept
    | dsimp only

theorem execMoverWait_kept {s0 : State} (e : EngineId) (s : State) (hk : Kept s0 s) : KeptRes s0 (execMoverWait e s) := by
  delta execMoverWait
  repeat' first
    | with_reducible assumption
    | with_reducible apply kept_next
    | with_reducible apply macroThen_kept
    | with_reducible apply finish_kept
    | with_reducible apply reportDesc_kept
    | with_reducible apply setEngine_kept
    | refine fun _ => ?_
    | (try lift_lets); intro x; clear_value x
    | split
    | dsimp only

theorem execMoverTake_kept {s0 : State} (m : MoverId) (s : State) (hk : Kept s0 s) : KeptRes s0 (execMoverTake m s) := by
  delta execMoverTake
  repeat' first
    | with_reducible assumption
    | with_reducible apply kept_next
    | with_reducible apply spansCheck_kept
    | with_reducible apply endDesc_kept
    | with_reducible apply setDesc_kept
    | (try lift_lets); intro x; refine kept_have (s0 := s0) (s := (‹Nat × State›).2) ?_ ?_; unfold x; rotate_left; intro hx; clear_value x
    | (try lift_lets); intro x; clear_value x
    | split
    | dsimp only

/-- What a line's answer carries keeps. -/
def KeptLine (s0 : State) : LineOut → Prop
  | .sent t => Kept s0 t
  | .data t _ => Kept s0 t
  | .gone => True

theorem lineOf_keeps {s0 : State} (s : State) (m : Nat) (d : Desc) (x : Side) (poison : Bool) (wr : Option (List Byte)) (hk : Kept s0 s) :
    KeptLine s0 (lineOf s m d x poison wr) := by
  have hto : ∀ t p w, KeptLine s0 (lineTo s m d t p w) := by
    intro t p w
    unfold lineTo
    repeat' first
      | exact newTxn_kept _ _ hk
      | trivial
      | split
  have hhost : ∀ a p w, KeptLine s0 (lineHost s m d a p w) := by
    intro a p w
    unfold lineHost
    repeat' first
      | exact hto _ _ _
      | exact newTxn_kept _ _ hk
      | trivial
      | split
  unfold lineOf
  dsimp only
  repeat' first
    | exact hto _ _ _
    | exact hhost _ _ _
    | exact hbmWrite_kept _ _ _ hk
    | exact hk
    | exact newTxn_kept _ _ hk
    | trivial
    | split

theorem lineOf_sent {s0 s t : State} {m : Nat} {d : Desc} {x : Side} {poison : Bool} {wr : Option (List Byte)}
    (e : lineOf s m d x poison wr = .sent t) (hk : Kept s0 s) : Kept s0 t := by
  have := lineOf_keeps s m d x poison wr hk
  rw [e] at this
  exact this

theorem lineOf_data {s0 s t : State} {m : Nat} {d : Desc} {x : Side} {poison : Bool} {wr : Option (List Byte)} {bs : List Byte}
    (e : lineOf s m d x poison wr = .data t bs) (hk : Kept s0 s) : Kept s0 t := by
  have := lineOf_keeps s m d x poison wr hk
  rw [e] at this
  exact this

theorem writeLine_kept {s0 : State} (s : State) (m : Nat) (i : Nat) (d : Desc) (bs : List Byte) (hk : Kept s0 s) : Kept s0 (writeLine s m i d bs) := by
  delta writeLine
  repeat' first
    | with_reducible assumption
    | with_reducible apply setDesc_kept
    | with_reducible apply failDesc_kept
    | with_reducible apply lineDone_kept
    | refine lineOf_sent ‹_› ?_
    | refine lineOf_data ‹_› ?_
    | split
    | dsimp only

theorem haveLine_kept {s0 : State} (s : State) (m : Nat) (i : Nat) (d : Desc) (bs : List Byte) (hk : Kept s0 s) : Kept s0 (haveLine s m i d bs) := by
  delta haveLine
  repeat' first
    | with_reducible assumption
    | with_reducible apply lineDone_kept
    | with_reducible apply setDesc_kept
    | with_reducible apply compareLines_kept
    | with_reducible apply failDesc_kept
    | with_reducible apply writeLine_kept
    | refine lineOf_sent ‹_› ?_
    | refine lineOf_data ‹_› ?_
    | with_reducible apply kept_foldl
    | refine fun _ => ?_
    | (try lift_lets); intro x; clear_value x
    | split
    | dsimp only

theorem beginLine_kept {s0 : State} (s : State) (m : Nat) (i : Nat) (d : Desc) (hk : Kept s0 s) : Kept s0 (beginLine s m i d) := by
  delta beginLine
  repeat' first
    | with_reducible assumption
    | with_reducible apply spansCheck_kept
    | with_reducible apply failDesc_kept
    | with_reducible apply setDesc_kept
    | with_reducible apply haveLine_kept
    | with_reducible apply writeLine_kept
    | refine lineOf_sent ‹_› ?_
    | refine lineOf_data ‹_› ?_
    | (try lift_lets); intro x; refine kept_have (s0 := s0) (s := (‹Nat × State›).2) ?_ ?_; unfold x; rotate_left; intro hx; clear_value x
    | split
    | dsimp only

theorem takeLanded_out {s0 s t : State} {m : Nat} {a : Landed} (e : takeLanded s m = some (a, t)) (hk : Kept s0 s) : Kept s0 t := by
  unfold takeLanded at e
  rw [Option.map_eq_some_iff] at e
  obtain ⟨r, -, e⟩ := e
  simp only [Prod.mk.injEq] at e
  obtain ⟨-, rfl⟩ := e
  simp -zeta only [kept_mk]
  exact hk

theorem lineAnswer_kept {s0 : State} (s : State) (m : Nat) (i : Nat) (d : Desc) (a : Landed) (hk : Kept s0 s) : Kept s0 (lineAnswer s m i d a) := by
  delta lineAnswer
  repeat' first
    | with_reducible assumption
    | with_reducible apply writeLine_kept
    | with_reducible apply failDesc_kept
    | with_reducible apply haveLine_kept
    | with_reducible apply compareLines_kept
    | with_reducible apply lineDone_kept
    | (try lift_lets); intro x; clear_value x
    | split
    | dsimp only

theorem execMoverLineIssue_kept {s0 : State} (m : MoverId) (s : State) (hk : Kept s0 s) : KeptRes s0 (execMoverLineIssue m s) := by
  delta execMoverLineIssue
  repeat' first
    | with_reducible assumption
    | with_reducible apply kept_next
    | with_reducible apply frostStep_kept
    | with_reducible apply beginLine_kept
    | with_reducible apply lineAnswer_kept
    | refine takeLanded_out ‹_› ?_
    | split
    | dsimp only

theorem execDescriptorComplete_kept {s0 : State} (slot : Fin 1024) (s : State) (hk : Kept s0 s) : KeptRes s0 (execDescriptorComplete slot s) := by
  delta execDescriptorComplete
  repeat' first
    | with_reducible assumption
    | with_reducible apply kept_next
    | with_reducible apply setDesc_kept
    | with_reducible apply raiseEvent_kept
    | with_reducible apply reportDesc_kept
    | with_reducible apply frostStep_kept
    | (try lift_lets); intro x; refine kept_have (s0 := s0) (s := ‹State›) ?_ ?_; unfold x; rotate_left; intro hx; clear_value x
    | (try lift_lets); intro x; clear_value x
    | split
    | dsimp only

theorem execPresenceAbsent_kept {s0 : State} (p : PortId) (s : State) (hk : Kept s0 s) : KeptRes s0 (execPresenceAbsent p s) := by
  delta execPresenceAbsent
  repeat' first
    | with_reducible assumption
    | with_reducible apply kept_next
    | with_reducible apply raiseEvent_kept
    | with_reducible apply linkDown_kept
    | with_reducible apply loseCxl_kept
    | with_reducible apply runFails_kept
    | (try lift_lets); intro x; refine kept_have (s0 := s0) (s := ‹State›) ?_ ?_; unfold x; rotate_left; intro hx; clear_value x
    | split
    | simp -zeta only [kept_mk]
    | dsimp only

theorem execSurveyStart_kept {s0 : State} (p : PortId) (s : State) (hk : Kept s0 s) : KeptRes s0 (execSurveyStart p s) := by
  delta execSurveyStart
  repeat' first
    | with_reducible assumption
    | with_reducible apply kept_next
    | (try lift_lets); intro x; clear_value x
    | split
    | simp -zeta only [kept_mk]
    | dsimp only

theorem execSurveyStepComplete_kept {s0 : State} (p : PortId) (x : StepFound) (s : State) (hk : Kept s0 s) : KeptRes s0 (execSurveyStepComplete p x s) := by
  delta execSurveyStepComplete
  repeat' first
    | with_reducible assumption
    | with_reducible apply kept_next
    | with_reducible apply runFails_kept
    | with_reducible apply step3_kept
    | with_reducible apply modPartner_kept
    | with_reducible apply beginStep_kept
    | with_reducible apply step5_kept
    | with_reducible apply step6_kept
    | with_reducible apply step5Passed_kept
    | with_reducible apply step7_kept
    | with_reducible apply registeredNow_kept
    | with_reducible apply runArrives_kept
    | refine step4Found_out ‹_› ?_
    | (try lift_lets); intro x; refine kept_have (s0 := s0) (s := ‹State›) ?_ ?_; unfold x; rotate_left; intro hx; clear_value x
    | (try lift_lets); intro x; clear_value x
    | split
    | dsimp only

theorem execSurveyPerstRelease_kept {s0 : State} (p : PortId) (s : State) (hk : Kept s0 s) : KeptRes s0 (execSurveyPerstRelease p s) := by
  delta execSurveyPerstRelease
  repeat' first
    | with_reducible assumption
    | with_reducible apply kept_next
    | with_reducible apply setRun_kept
    | (try lift_lets); intro x; refine kept_have (s0 := s0) (s := ‹State›) ?_ ?_; unfold x; rotate_left; intro hx; clear_value x
    | split
    | simp -zeta only [kept_mk]
    | dsimp only

theorem execAttention_kept {s0 : State} (p : PortId) (s : State) (hk : Kept s0 s) : KeptRes s0 (execAttention p s) := by
  delta execAttention
  repeat' first
    | with_reducible assumption
    | with_reducible apply kept_next
    | with_reducible apply raiseEvent_kept
    | (try lift_lets); intro x; refine kept_have (s0 := s0) (s := ‹State›) ?_ ?_; unfold x; rotate_left; intro hx; clear_value x
    | (try lift_lets); intro x; clear_value x
    | intro _
    | split
    | simp -zeta only [kept_mk]
    | dsimp only

theorem execDetachTimeout_kept {s0 : State} (p : PortId) (s : State) (hk : Kept s0 s) : KeptRes s0 (execDetachTimeout p s) := by
  delta execDetachTimeout
  repeat' first
    | with_reducible assumption
    | with_reducible apply kept_next
    | with_reducible apply finish_kept
    | (try lift_lets); intro x; clear_value x
    | split
    | dsimp only

theorem execPartner_kept {s0 : State} (src : MctpSrc) (tag : BitVec 16) (p : BitVec 8) (s : State) (hk : Kept s0 s) : KeptRes s0 (execPartner src tag p s) := by
  delta execPartner
  repeat' first
    | with_reducible assumption
    | with_reducible apply kept_next
    | with_reducible apply vendor_kept
    | with_reducible apply mgmtAnswer_kept
    | refine fun _ => ?_
    | split
    | dsimp only

end Sys2Proof.Machine
end

