-- ==== Sys2Proof/Laws/KeptBoot.lean ====
section
/-! SUPPORT. What chart fetch, the Fabric Manager API, tiles, boot and time keep of the state (Kept): one lemma per operation and meaning. -/
namespace Sys2Proof.Machine

theorem fmFrom_kept {s0 : State} (s : State) (src : MctpSrc) (tag : BitVec 8) (code : Nat) (f : State → State) (hk : Kept s0 s) (hf : ∀ t, Kept s0 t → Kept s0 (f t)) : Kept s0 (fmFrom s src tag code f) := by
  delta fmFrom
  repeat' first
    | with_reducible assumption
    | with_reducible apply fmAnswer_kept
    | with_reducible apply hf
    | split
    | dsimp only

theorem fmReply_kept {s0 : State} (s : State) (src : MctpSrc) (tag : BitVec 8) (code : Nat) (rc : Nat) (body : List Byte) (hk : Kept s0 s) : Kept s0 (fmReply s src tag code rc body) := by
  delta fmReply
  repeat' first
    | with_reducible assumption
    | with_reducible apply fmAnswer_kept
    | dsimp only

theorem execGetPhysicalPortState_kept {s0 : State} (src : MctpSrc) (tag : BitVec 8) (ports : List (BitVec 8)) (s : State) (hk : Kept s0 s) : KeptRes s0 (execGetPhysicalPortState src tag ports s) := by
  delta execGetPhysicalPortState
  repeat' first
    | with_reducible assumption
    | with_reducible apply kept_next
    | with_reducible apply fmFrom_kept
    | with_reducible apply fmReply_kept
    | refine fun _ => ?_
    | (try lift_lets); intro x; clear_value x
    | split
    | dsimp only

theorem resumeOk_kept {s0 : State} (s : State) (e : Option Nat) (hk : Kept s0 s) : Kept s0 (resumeOk s e) := by
  delta resumeOk
  repeat' first
    | with_reducible assumption
    | with_reducible apply finish_kept
    | (try lift_lets); intro x; clear_value x
    | split
    | dsimp only

theorem thawPort_kept {s0 : State} (s : State) (p : Nat) (hk : Kept s0 s) : Kept s0 (thawPort s p) := by
  delta thawPort
  repeat' first
    | with_reducible assumption
    | with_reducible apply enterDetect_kept
    | with_reducible apply emit_kept
    | with_reducible apply setLive_kept
    | split
    | dsimp only

theorem execPortResetEnd_kept {s0 : State} (p : PortId) (s : State) (hk : Kept s0 s) : KeptRes s0 (execPortResetEnd p s) := by
  delta execPortResetEnd
  repeat' first
    | with_reducible assumption
    | with_reducible apply kept_next
    | with_reducible apply resumeOk_kept
    | with_reducible apply thawPort_kept
    | (try lift_lets); intro x; refine kept_have (s0 := s0) (s := ‹State›) ?_ ?_; unfold x; rotate_left; intro hx; clear_value x
    | split
    | simp -zeta only [kept_mk]
    | dsimp only

theorem execGetDcdInfo_kept {s0 : State} (src : MctpSrc) (tag : BitVec 8) (s : State) (hk : Kept s0 s) : KeptRes s0 (execGetDcdInfo src tag s) := by
  delta execGetDcdInfo
  repeat' first
    | with_reducible assumption
    | with_reducible apply kept_next
    | with_reducible apply fmFrom_kept
    | with_reducible apply fmReply_kept
    | with_reducible apply tickBytes_kept
    | refine fun _ => ?_
    | dsimp only

theorem fmTunnel_kept {s0 : State} (s : State) (src : MctpSrc) (tag : BitVec 8) (code : Nat) (p : BitVec 8) (body : List Byte) (answer : List Byte) (hk : Kept s0 s) : KeptRes s0 (fmTunnel s src tag code p body answer) := by
  delta fmTunnel
  repeat' first
    | with_reducible assumption
    | with_reducible apply kept_next
    | with_reducible apply fmFrom_kept
    | with_reducible apply fmReply_kept
    | with_reducible apply emit_kept
    | refine fun _ => ?_
    | split
    | dsimp only

theorem fmChart_kept {s0 : State} (s : State) (src : MctpSrc) (tag : BitVec 8) (code : Nat) (w : Word) (block : List Word) (hk : Kept s0 s) : Kept s0 (fmChart s src tag code w block) := by
  delta fmChart
  repeat' first
    | with_reducible assumption
    | with_reducible apply fmReply_kept
    | (try lift_lets); intro x; refine kept_have (s0 := s0) (s := ‹State›) ?_ ?_; unfold x; rotate_left; intro hx; clear_value x
    | (try lift_lets); intro x; clear_value x
    | split
    | simp -zeta only [kept_mk]
    | dsimp only

theorem execInitiateDynamicCapacityAdd_kept {s0 : State} (src : MctpSrc) (tag : BitVec 8) (pld : BitVec 8) (p : BitVec 7) (ld : BitVec 4) (shared : Bool) (auto : Bool) (lgran : BitVec 28) (ngran : BitVec 28) (mgran : BitVec 28) (s : State) (hk : Kept s0 s) : KeptRes s0 (execInitiateDynamicCapacityAdd src tag pld p ld shared auto lgran ngran mgran s) := by
  delta execInitiateDynamicCapacityAdd
  repeat' first
    | with_reducible assumption
    | with_reducible apply kept_next
    | with_reducible apply fmFrom_kept
    | with_reducible apply fmChart_kept
    | refine fun _ => ?_
    | split
    | dsimp only

theorem execSetQosAllocatedBw_kept {s0 : State} (src : MctpSrc) (tag : BitVec 8) (p : BitVec 8) (body : List Byte) (answer : List Byte) (s : State) (hk : Kept s0 s) : KeptRes s0 (execSetQosAllocatedBw src tag p body answer s) := by
  delta execSetQosAllocatedBw
  repeat' first
    | with_reducible assumption
    | with_reducible apply kept_next
    | with_reducible apply fmTunnel_kept
    | dsimp only

theorem releaseMasters_kept {s0 : State} (s : State) (hk : Kept s0 s) : Kept s0 (releaseMasters s) := by
  delta releaseMasters
  repeat' first
    | with_reducible assumption
    | (try lift_lets); intro x; clear_value x
    | simp -zeta only [kept_mk]
    | dsimp only

theorem strapClaims_kept {s0 : State} (s : State) (hk : Kept s0 s) : Kept s0 (strapClaims s) := by
  delta strapClaims
  repeat' first
    | with_reducible assumption
    | with_reducible apply setClaim_kept
    | (try lift_lets); intro x; refine kept_have (s0 := s0) (s := ‹State›) ?_ ?_; unfold x; rotate_left; intro hx; clear_value x
    | split
    | dsimp only

theorem strapTables_kept {s0 : State} (s : State) (slots : Bool) (hk : Kept s0 s) : Kept s0 (strapTables s slots) := by
  delta strapTables
  dsimp only
  repeat' first
    | with_reducible assumption
    | with_reducible apply setTab_kept
    | with_reducible apply kept_foldl
    | refine fun _ => ?_
    | split
    | dsimp only

theorem execStrapLatch_kept {s0 : State} (levels : BitVec 24) (s : State) (hk : Kept s0 s) : KeptRes s0 (execStrapLatch levels s) := by
  delta execStrapLatch
  dsimp only
  repeat' split
  · exact kept_next hk
  · exact kept_next ⟨hk.pending, hk.clock, hk.hbm, hk.tab, hk.claims, hk.engines, hk.svn1, hk.svn2⟩
  · have k : Kept s0 { s with boot := { s.boot with straps := levels.toNat } } := ⟨hk.pending, hk.clock, hk.hbm, hk.tab, hk.claims, hk.engines, hk.svn1, hk.svn2⟩
    exact kept_next (legendSync_kept _ _ k (releaseMasters_kept _ (strapClaims_kept _ (strapTables_kept _ _
      ⟨hk.pending, hk.clock, hk.hbm, hk.tab, hk.claims, hk.engines, hk.svn1, hk.svn2⟩))))

theorem extentDrafts_kept {s0 : State} (s : State) (e : Nat) (x : Engine) (was : Nat) (now : Nat) (l : List Nat) (hk : Kept s0 s) : Kept s0 (extentDrafts s e x was now l).2.1 := by
  induction l generalizing s e x was now with
  | nil => exact hk
  | cons a l ih =>
    unfold extentDrafts
    repeat' first
      | with_reducible assumption
      | with_reducible apply ih
      | with_reducible apply draftAny_kept
      | (try lift_lets); intro x; refine kept_have (s0 := s0) (s := (‹Nat × State × Engine›).2.1) ?_ ?_; unfold x; rotate_left; intro hx; clear_value x
      | split
      | dsimp only

theorem execHbmTrained_kept {s0 : State} (s : State) (hk : Kept s0 s) : KeptRes s0 (execHbmTrained s) := by
  delta execHbmTrained
  repeat' first
    | with_reducible assumption
    | with_reducible apply kept_next
    | (try lift_lets); intro x; clear_value x
    | split
    | simp -zeta only [kept_mk]
    | dsimp only

theorem drainAlmanac_kept {s0 : State} (s : State) (hk : Kept s0 s) : Kept s0 (drainAlmanac s) := by
  delta drainAlmanac
  repeat' first
    | with_reducible assumption
    | with_reducible apply kept_foldl
    | refine fun _ => ?_
    | (try lift_lets); intro x; clear_value x
    | split
    | simp -zeta only [kept_mk]
    | dsimp only

theorem closeUnclean_kept {s0 : State} (s : State) (hk : Kept s0 s) : Kept s0 (closeUnclean s) := by
  delta closeUnclean
  repeat' first
    | with_reducible assumption
    | (try lift_lets); intro x; clear_value x
    | split
    | simp -zeta only [kept_mk]
    | dsimp only

theorem startMeridian_kept {s0 : State} (s : State) (c : Nat) (hk : Kept s0 s) : Kept s0 (startMeridian s c) := by
  delta startMeridian
  dsimp only
  refine drainAlmanac_kept _ (closeUnclean_kept _ ?_)
  split
  · exact kept_mkSec hk (Nat.le_refl _) (Nat.le_refl _)
  · exact legendChanged_kept _ (kept_mkSec hk (Nat.le_refl _) (Nat.le_refl _))

theorem execFmUnsupportedCommand_kept {s0 : State} (src : MctpSrc) (tag : BitVec 8) (code : BitVec 16) (s : State) (hk : Kept s0 s) : KeptRes s0 (execFmUnsupportedCommand src tag code s) := by
  delta execFmUnsupportedCommand
  repeat' first
    | with_reducible assumption
    | with_reducible apply kept_next
    | with_reducible apply fmFrom_kept
    | with_reducible apply fmReply_kept
    | refine fun _ => ?_
    | dsimp only

theorem execTsPps_kept {s0 : State} (s : State) (hk : Kept s0 s) : KeptRes s0 (execTsPps s) := by
  delta execTsPps
  repeat' first
    | with_reducible assumption
    | with_reducible apply kept_next
    | (try lift_lets); intro x; clear_value x
    | split
    | simp -zeta only [kept_mk]
    | dsimp only

theorem fetchFails_kept {s0 : State} (s : State) (e : Nat) (x : Engine) (st : Nat) (hk : Kept s0 s) : Kept s0 (fetchFails s e x st) := by
  delta fetchFails
  repeat' first
    | with_reducible assumption
    | with_reducible apply endChart_kept
    | with_reducible apply setEngine_kept
    | dsimp only

theorem fetchBegins_kept {s0 : State} (s : State) (e : Nat) (x : Engine) (hk : Kept s0 s) : Kept s0 (fetchBegins s e x) := by
  delta fetchBegins
  repeat' first
    | with_reducible assumption
    | with_reducible apply fetchFails_kept
    | with_reducible apply setEngine_kept
    | (try lift_lets); intro x; clear_value x
    | split
    | dsimp only

theorem fetchData_kept {s0 : State} (s : State) (e : Nat) (x : Engine) (ws : List Word) (hk : Kept s0 s) : Kept s0 (fetchData s e x ws) := by
  delta fetchData
  repeat' first
    | with_reducible assumption
    | with_reducible apply fetchFails_kept
    | with_reducible apply fetchBegins_kept
    | split
    | dsimp only

theorem fetchMessage_kept {s0 : State} (s : State) (e : Nat) (x : Engine) (m : ChartMsg) (hk : Kept s0 s) : Kept s0 (fetchMessage s e x m) := by
  delta fetchMessage
  repeat' first
    | with_reducible assumption
    | with_reducible apply fetchFails_kept
    | with_reducible apply fetchData_kept
    | (try lift_lets); intro x; clear_value x
    | split
    | dsimp only

theorem perstAll_kept {s0 : State} (s : State) (hk : Kept s0 s) : Kept s0 (perstAll s) := by
  delta perstAll
  repeat' first
    | with_reducible assumption
    | with_reducible apply perstAssert_kept
    | with_reducible apply kept_foldl
    | refine fun _ => ?_
    | dsimp only

theorem merReset_kept {s0 : State} (e : Nat) (s : State) (scope : Nat) (f : State → Engine → Nat → State) (hk : Kept s0 s) (hf : ∀ t a1 a2, Kept s0 t → Kept s0 (f t a1 a2)) : Kept s0 (merReset e s scope f) := by
  delta merReset
  repeat' first
    | with_reducible assumption
    | with_reducible apply onOp_kept
    | with_reducible apply finish_kept
    | with_reducible apply hf
    | refine fun _ => ?_
    | (try lift_lets); intro x; clear_value x
    | split
    | dsimp only

theorem flushAlmanac_kept {s0 : State} (s : State) (hk : Kept s0 s) : Kept s0 (flushAlmanac s) := by
  delta flushAlmanac
  repeat' first
    | with_reducible assumption
    | simp -zeta only [kept_mk]
    | dsimp only

theorem serveCommit_kept {s0 : State} (s : State) (hk : Kept s0 s) : Kept s0 (serveCommit s) := by
  delta serveCommit
  repeat' first
    | with_reducible assumption
    | with_reducible apply flip_kept
    | split
    | dsimp only

theorem beforeReset_kept {s0 : State} (s : State) (hk : Kept s0 s) : Kept s0 (beforeReset s) := by
  delta beforeReset
  repeat' first
    | with_reducible assumption
    | with_reducible apply flushAlmanac_kept
    | with_reducible apply drainAlmanac_kept
    | with_reducible apply serveCommit_kept
    | dsimp only

theorem functionClaimsFreed_kept {s0 : State} (s : State) (hk : Kept s0 s) : Kept s0 (functionClaimsFreed s) :=
  ⟨hk.pending, hk.clock, hk.hbm, hk.tab, fun w => smWf_filter _ s.claims _ (hk.claims w), hk.engines, hk.svn1, hk.svn2⟩

theorem allCountersZero_kept {s0 : State} (s : State) (hk : Kept s0 s) : Kept s0 (allCountersZero s) := by
  delta allCountersZero
  repeat' first
    | with_reducible assumption
    | simp -zeta only [kept_mk]
    | dsimp only

/-- The keys of a store whose entries are changed are those of the store. -/
theorem map_filter_wf (f : Nat × TEntry → TEntry) (m : SMap TEntry) (h : Tables.wf m = true) :
    Tables.wf ((m.map fun e => (e.1, f e)).filter fun e => e.2 != entryReset e.1) = true := by
  induction m with
  | nil => rfl
  | cons e m ih =>
    obtain ⟨j, u⟩ := e
    obtain ⟨-, hj, hm⟩ := (smWf_cons entryReset j u m).mp h
    rw [List.map_cons, List.filter_cons]
    split
    · rename_i hu
      refine (smWf_cons entryReset j _ _).mpr ⟨by simpa using hu, fun e he => ?_, ih hm⟩
      obtain ⟨he, -⟩ := List.mem_filter.mp he
      obtain ⟨a, ha, rfl⟩ := List.mem_map.mp he
      exact hj a ha
    · exact ih hm

theorem renumber_kept {s0 : State} (s : State) (hk : Kept s0 s) : Kept s0 (renumber s) :=
  ⟨hk.pending, hk.clock, hk.hbm, fun w => map_filter_wf (fun e => { e.2 with num := 0 }) s.tab (hk.tab w), hk.claims, hk.engines, hk.svn1, hk.svn2⟩

theorem endpointsReset_kept {s0 : State} (s : State) (hk : Kept s0 s) : Kept s0 (endpointsReset s) := by
  delta endpointsReset
  repeat' first
    | with_reducible assumption
    | with_reducible apply kept_foldl
    | refine fun _ => ?_
    | simp -zeta only [kept_mk]
    | dsimp only

theorem fabricReset_kept {s0 : State} (s : State) (hk : Kept s0 s) : Kept s0 (fabricReset s) :=
  ⟨hk.pending, hk.clock, hk.hbm, fun w => smWf_filter entryReset s.tab _ (hk.tab w), hk.claims, fun _ => rfl, hk.svn1, hk.svn2⟩

theorem chipSoftReset_kept {s0 : State} (s : State) (hk : Kept s0 s) : Kept s0 (chipSoftReset s) := by
  have h := functionClaimsFreed_kept _ (allCountersZero_kept _ (renumber_kept _ (fabricReset_kept _ (perstAll_kept _ (beforeReset_kept s hk)))))
  delta chipSoftReset
  dsimp only
  rw [kept_mk]
  exact resubmitUpdate_kept _ (strapTables_kept _ _ ⟨h.pending, h.clock, fun w => smWf_filter _ _ _ (h.hbm w), h.tab, h.claims, h.engines, h.svn1, h.svn2⟩)

theorem execMerResetChip_kept {s0 : State} (e : EngineId) (s : State) (hk : Kept s0 s) : KeptRes s0 (execMerResetChip e s) := by
  delta execMerResetChip
  repeat' first
    | with_reducible assumption
    | with_reducible apply kept_next
    | with_reducible apply merReset_kept
    | with_reducible apply legendSync_kept
    | with_reducible apply chipSoftReset_kept
    | refine fun _ => ?_
    | dsimp only

theorem advanceGens_kept {s0 : State} (s : State) (eps : List Nat) (hk : Kept s0 s) : Kept s0 (advanceGens s eps) := by
  delta advanceGens
  repeat' first
    | with_reducible assumption
    | with_reducible apply setEndp_kept
    | with_reducible apply kept_foldl
    | refine fun _ => ?_
    | (try lift_lets); intro x; clear_value x
    | dsimp only

theorem tileGens_kept {s0 : State} (s : State) (t : Nat) (hk : Kept s0 s) : Kept s0 (tileGens s t) := by
  delta tileGens
  repeat' first
    | with_reducible assumption
    | with_reducible apply advanceGens_kept
    | dsimp only

theorem setTileSt_kept {s0 : State} (s : State) (t : Nat) (v : Nat) (hk : Kept s0 s) : Kept s0 (setTileSt s t v) := by
  delta setTileSt
  repeat' first
    | with_reducible assumption
    | with_reducible apply setLive_kept
    | dsimp only

theorem thawDoorbell_kept {s0 : State} (s : State) (l : Latched) (hk : Kept s0 s) : Kept s0 (thawDoorbell s l) := by
  delta thawDoorbell
  repeat' first
    | with_reducible assumption
    | with_reducible apply actLatched_kept
    | split
    | dsimp only

theorem thawTile_kept {s0 : State} (s : State) (t : Nat) (hk : Kept s0 s) : Kept s0 (thawTile s t) := by
  delta thawTile
  repeat' first
    | with_reducible assumption
    | with_reducible apply tileGens_kept
    | with_reducible apply setEndp_kept
    | with_reducible apply applyOpp_kept
    | with_reducible apply setTileSt_kept
    | with_reducible apply thawPort_kept
    | with_reducible apply thawDoorbell_kept
    | with_reducible apply kept_foldl
    | refine fun _ => ?_
    | (try lift_lets); intro x; refine kept_have (s0 := s0) (s := ‹State›) ?_ ?_; unfold x; rotate_left; intro hx; clear_value x
    | (try lift_lets); intro x; clear_value x
    | split
    | simp -zeta only [kept_mk]
    | dsimp only

theorem frostPort_kept {s0 : State} (lost : Bool) (s : State) (p : Nat) (hk : Kept s0 s) : Kept s0 (frostPort lost s p) := by
  delta frostPort
  repeat' first
    | with_reducible assumption
    | with_reducible apply disableLink_kept
    | with_reducible apply contain_kept
    | with_reducible apply emit_kept
    | with_reducible apply loseCxl_kept
    | split
    | dsimp only

theorem passHeld_kept {s0 : State} (t : Nat) (early : List Nat) (s : State) (i : Nat) (hk : Kept s0 s) : Kept s0 (passHeld t early s i) := by
  delta passHeld
  repeat' first
    | with_reducible assumption
    | with_reducible apply setEndp_kept
    | with_reducible apply count_kept
    | with_reducible apply dropTxn_kept
    | (try lift_lets); intro x; clear_value x
    | split
    | dsimp only

theorem toProxy_kept {s0 : State} (s : State) (t : Nat) (hk : Kept s0 s) : Kept s0 (toProxy s t) := by
  delta toProxy
  repeat' first
    | with_reducible assumption
    | with_reducible apply setEndp_kept
    | with_reducible apply passHeld_kept
    | with_reducible apply kept_foldl
    | refine fun _ => ?_
    | (try lift_lets); intro x; refine kept_have (s0 := s0) (s := ‹State›) ?_ ?_; unfold x; rotate_left; intro hx; clear_value x
    | (try lift_lets); intro x; clear_value x
    | simp -zeta only [kept_mk]
    | dsimp only

theorem functionsReset_kept {s0 : State} (s : State) (p : Nat) (hk : Kept s0 s) : Kept s0 (functionsReset s p) := by
  delta functionsReset
  repeat' first
    | with_reducible assumption
    | with_reducible apply pfReset_kept
    | with_reducible apply releaseClaims_kept
    | split
    | dsimp only

theorem portBlockReset_kept {s0 : State} (s : State) (p : Nat) (hk : Kept s0 s) : Kept s0 (portBlockReset s p) := by
  delta portBlockReset
  repeat' first
    | with_reducible assumption
    | with_reducible apply setLive_kept
    | with_reducible apply setLaneBit_kept
    | with_reducible apply kept_foldl
    | refine fun _ => ?_
    | (try lift_lets); intro x; refine kept_have (s0 := s0) (s := ‹State›) ?_ ?_; unfold x; rotate_left; intro hx; clear_value x
    | (try lift_lets); intro x; clear_value x
    | intro _
    | simp -zeta only [kept_mk]
    | dsimp only

theorem countersZero_kept {s0 : State} (s : State) (mine : Nat → Bool) (hk : Kept s0 s) : Kept s0 (countersZero s mine) := by
  delta countersZero
  repeat' first
    | with_reducible assumption
    | (try lift_lets); intro x; clear_value x
    | simp -zeta only [kept_mk]
    | dsimp only

theorem tileBlocksReset_kept {s0 : State} (s : State) (t : Nat) (hk : Kept s0 s) : Kept s0 (tileBlocksReset s t) := by
  delta tileBlocksReset
  repeat' first
    | with_reducible assumption
    | with_reducible apply functionsReset_kept
    | with_reducible apply portBlockReset_kept
    | with_reducible apply countersZero_kept
    | with_reducible apply setEngine_kept
    | with_reducible apply kept_foldl
    | refine fun _ => ?_
    | (try lift_lets); intro x; refine kept_have (s0 := s0) (s := ‹State›) ?_ ?_; unfold x; rotate_left; intro hx; clear_value x
    | (try lift_lets); intro x; clear_value x
    | simp -zeta only [kept_mk]
    | dsimp only

theorem tileResetNow_kept {s0 : State} (s : State) (t : Nat) (hk : Kept s0 s) : Kept s0 (tileResetNow s t) := by
  delta tileResetNow
  repeat' first
    | with_reducible assumption
    | with_reducible apply setTileSt_kept
    | with_reducible apply tileGens_kept
    | with_reducible apply tileBlocksReset_kept
    | dsimp only

theorem frostEnd_kept {s0 : State} (s : State) (t : Nat) (hk : Kept s0 s) : Kept s0 (frostEnd s t) := by
  delta frostEnd
  repeat' first
    | with_reducible assumption
    | with_reducible apply frostPort_kept
    | with_reducible apply setTileSt_kept
    | with_reducible apply toProxy_kept
    | with_reducible apply resumeOk_kept
    | with_reducible apply tileResetNow_kept
    | with_reducible apply kept_foldl
    | refine fun _ => ?_
    | (try lift_lets); intro x; refine kept_have (s0 := s0) (s := ‹State›) ?_ ?_; unfold x; rotate_left; intro hx; clear_value x
    | (try lift_lets); intro x; clear_value x
    | split
    | simp -zeta only [kept_mk]
    | dsimp only

theorem execInitiateDynamicCapacityRelease_kept {s0 : State} (src : MctpSrc) (tag : BitVec 8) (x : ExtentId) (force : Bool) (s : State) (hk : Kept s0 s) : KeptRes s0 (execInitiateDynamicCapacityRelease src tag x force s) := by
  delta execInitiateDynamicCapacityRelease
  repeat' first
    | with_reducible assumption
    | with_reducible apply kept_next
    | with_reducible apply fmFrom_kept
    | with_reducible apply fmChart_kept
    | refine fun _ => ?_
    | split
    | dsimp only

theorem portResetNow_kept {s0 : State} (s : State) (p : Nat) (hk : Kept s0 s) : Kept s0 (portResetNow s p) := by
  delta portResetNow
  repeat' first
    | with_reducible assumption
    | with_reducible apply contain_kept
    | with_reducible apply loseCxl_kept
    | with_reducible apply functionsReset_kept
    | with_reducible apply releaseClaims_kept
    | with_reducible apply countersZero_kept
    | with_reducible apply advanceGens_kept
    | with_reducible apply portBlockReset_kept
    | with_reducible apply setTstate_kept
    | (try lift_lets); intro x; refine kept_have (s0 := s0) (s := ‹State›) ?_ ?_; unfold x; rotate_left; intro hx; clear_value x
    | split
    | dsimp only

theorem execMerResetPort_kept {s0 : State} (e : EngineId) (s : State) (hk : Kept s0 s) : KeptRes s0 (execMerResetPort e s) := by
  delta execMerResetPort
  repeat' first
    | with_reducible assumption
    | with_reducible apply kept_next
    | with_reducible apply merReset_kept
    | with_reducible apply finish_kept
    | with_reducible apply portResetNow_kept
    | with_reducible apply setEngine_kept
    | refine fun _ => ?_
    | (try lift_lets); intro x; refine kept_have (s0 := s0) (s := ‹State›) ?_ ?_; unfold x; rotate_left; intro hx; clear_value x
    | split
    | simp -zeta only [kept_mk]
    | dsimp only

theorem tileMacro_kept {s0 : State} (s : State) (e : Nat) (op : Nat) (mask : Nat) (f : State → Engine → Nat → Word → State) (hk : Kept s0 s) (hf : ∀ t a1 a2 a3, Kept s0 t → Kept s0 (f t a1 a2 a3)) : Kept s0 (tileMacro s e op mask f) := by
  delta tileMacro
  repeat' first
    | with_reducible assumption
    | with_reducible apply macroThen_kept
    | with_reducible apply finish_kept
    | with_reducible apply hf
    | refine fun _ => ?_
    | split
    | dsimp only

theorem tilePower_kept {s0 : State} (s : State) (e : Nat) (on : Bool) (f : State → Engine → Nat → State) (hk : Kept s0 s) (hf : ∀ t a1 a2, Kept s0 t → Kept s0 (f t a1 a2)) : Kept s0 (tilePower s e on f) := by
  delta tilePower
  repeat' first
    | with_reducible assumption
    | with_reducible apply tileMacro_kept
    | with_reducible apply hf
    | refine fun _ => ?_
    | split
    | dsimp only

theorem meridianReset_kept {s0 : State} (s : State) (hk : Kept s0 s) : Kept s0 (meridianReset s) := by
  delta meridianReset
  repeat' first
    | with_reducible assumption
    | with_reducible apply closeScope_kept
    | with_reducible apply setTarget_kept
    | (try lift_lets); intro x; refine kept_have (s0 := s0) (s := ‹State›) ?_ ?_; unfold x; rotate_left; intro hx; clear_value x
    | (try lift_lets); intro x; clear_value x
    | split
    | simp -zeta only [kept_mk]
    | dsimp only

theorem readData_kept {s0 : State} (s : State) (e : Nat) (x : Engine) (hk : Kept s0 s) : Kept s0 (readData s e x) := by
  delta readData
  repeat' first
    | with_reducible assumption
    | with_reducible apply fetchData_kept
    | with_reducible apply memCheck_kept
    | with_reducible apply fetchFails_kept
    | with_reducible apply setEngine_kept
    | with_reducible apply memAsk_kept
    | refine memLocal_out ‹_› ?_
    | (try lift_lets); intro x; refine kept_have (s0 := s0) (s := (‹Nat × State›).2) ?_ ?_; unfold x; rotate_left; intro hx; clear_value x
    | split
    | dsimp only

theorem fetchInstr_kept {s0 : State} (s : State) (e : Nat) (x : Engine) (ws : List Word) (hk : Kept s0 s) : Kept s0 (fetchInstr s e x ws) := by
  delta fetchInstr
  repeat' first
    | with_reducible assumption
    | with_reducible apply readData_kept
    | dsimp only

theorem readInstr_kept {s0 : State} (s : State) (e : Nat) (x : Engine) (hk : Kept s0 s) : Kept s0 (readInstr s e x) := by
  delta readInstr
  repeat' first
    | with_reducible assumption
    | with_reducible apply readData_kept
    | with_reducible apply memCheck_kept
    | with_reducible apply fetchFails_kept
    | with_reducible apply fetchInstr_kept
    | with_reducible apply setEngine_kept
    | with_reducible apply memAsk_kept
    | refine memLocal_out ‹_› ?_
    | (try lift_lets); intro x; refine kept_have (s0 := s0) (s := (‹Nat × State›).2) ?_ ?_; unfold x; rotate_left; intro hx; clear_value x
    | split
    | dsimp only

theorem coldReset_kept {s0 : State} (s : State) (hk : Kept s0 s) : Kept s0 (coldReset s) := by
  have h := slotsReset_kept s hk
  exact ⟨h.pending, h.clock, fun _ => rfl, fun _ => rfl, fun _ => rfl, fun _ => rfl, h.svn1, h.svn2⟩

theorem frostBegin_kept {s0 : State} (s : State) (e : Nat) (x : Engine) (t : Nat) (ns : Nat) (lost : Bool) (hk : Kept s0 s) : Kept s0 (frostBegin s e x t ns lost) := by
  delta frostBegin
  repeat' first
    | with_reducible assumption
    | with_reducible apply setEngine_kept
    | with_reducible apply setTileSt_kept
    | (try lift_lets); intro x; refine kept_have (s0 := s0) (s := ‹State›) ?_ ?_; unfold x; rotate_left; intro hx; clear_value x
    | (try lift_lets); intro x; clear_value x
    | simp -zeta only [kept_mk]
    | dsimp only

theorem execMerResetTile_kept {s0 : State} (e : EngineId) (s : State) (hk : Kept s0 s) : KeptRes s0 (execMerResetTile e s) := by
  delta execMerResetTile
  repeat' first
    | with_reducible assumption
    | with_reducible apply kept_next
    | with_reducible apply merReset_kept
    | with_reducible apply finish_kept
    | with_reducible apply frostBegin_kept
    | with_reducible apply tileResetNow_kept
    | refine fun _ => ?_
    | split
    | dsimp only

theorem execWarmResetEnd_kept {s0 : State} (s : State) (hk : Kept s0 s) : KeptRes s0 (execWarmResetEnd s) := by
  delta execWarmResetEnd
  repeat' first
    | with_reducible assumption
    | with_reducible apply kept_next
    | with_reducible apply releaseMasters_kept
    | (try lift_lets); intro x; refine kept_have (s0 := s0) (s := ‹State›) ?_ ?_; unfold x; rotate_left; intro hx; clear_value x
    | (try lift_lets); intro x; clear_value x
    | split
    | simp -zeta only [kept_mk]
    | dsimp only

theorem fetchEntry_kept {s0 : State} (s : State) (e : Nat) (x : Engine) (ws : List Word) (hk : Kept s0 s) : Kept s0 (fetchEntry s e x ws) := by
  delta fetchEntry
  repeat' first
    | with_reducible assumption
    | with_reducible apply readInstr_kept
    | dsimp only

theorem ringDraft_kept {s0 : State} (s : State) (e : Nat) (x : Engine) (r : Nat) (on : Bool) (hk : Kept s0 s) : Kept s0 (ringDraft s e x r on).2.1 := by
  delta ringDraft
  repeat' first
    | with_reducible assumption
    | with_reducible apply draftAny_kept
    | (try lift_lets); intro x; clear_value x
    | split
    | dsimp only

theorem execSetQosBwLimit_kept {s0 : State} (src : MctpSrc) (tag : BitVec 8) (p : BitVec 8) (body : List Byte) (answer : List Byte) (s : State) (hk : Kept s0 s) : KeptRes s0 (execSetQosBwLimit src tag p body answer s) := by
  delta execSetQosBwLimit
  repeat' first
    | with_reducible assumption
    | with_reducible apply kept_next
    | with_reducible apply fmTunnel_kept
    | dsimp only

theorem execThermtrip_kept {s0 : State} (s : State) (hk : Kept s0 s) : KeptRes s0 (execThermtrip s) := by
  delta execThermtrip
  repeat' first
    | with_reducible assumption
    | with_reducible apply kept_next
    | (try lift_lets); intro x; clear_value x
    | split
    | simp -zeta only [kept_mk]
    | dsimp only

theorem execGaugeSample_kept {s0 : State} (g : Fin 6) (subj : Fin 96) (reading : BitVec 16) (s : State) (hk : Kept s0 s) : KeptRes s0 (execGaugeSample g subj reading s) := by
  delta execGaugeSample
  repeat' first
    | with_reducible assumption
    | with_reducible apply kept_next
    | with_reducible apply feedGauge_kept
    | with_reducible apply setSlot_kept
    | (try lift_lets); intro x; clear_value x
    | split
    | dsimp only

theorem execTileThaw_kept {s0 : State} (e : EngineId) (s : State) (hk : Kept s0 s) : KeptRes s0 (execTileThaw e s) := by
  delta execTileThaw
  repeat' first
    | with_reducible assumption
    | with_reducible apply kept_next
    | with_reducible apply tileMacro_kept
    | with_reducible apply finish_kept
    | with_reducible apply thawTile_kept
    | refine fun _ => ?_
    | split
    | dsimp only

theorem execBackgroundOperationStatus_kept {s0 : State} (src : MctpSrc) (tag : BitVec 8) (s : State) (hk : Kept s0 s) : KeptRes s0 (execBackgroundOperationStatus src tag s) := by
  delta execBackgroundOperationStatus
  repeat' first
    | with_reducible assumption
    | with_reducible apply kept_next
    | with_reducible apply fmFrom_kept
    | with_reducible apply fmReply_kept
    | with_reducible apply tickBytes_kept
    | refine fun _ => ?_
    | split
    | dsimp only

theorem execIdentifySwitchDevice_kept {s0 : State} (src : MctpSrc) (tag : BitVec 8) (s : State) (hk : Kept s0 s) : KeptRes s0 (execIdentifySwitchDevice src tag s) := by
  delta execIdentifySwitchDevice
  repeat' first
    | with_reducible assumption
    | with_reducible apply kept_next
    | with_reducible apply fmFrom_kept
    | with_reducible apply fmReply_kept
    | refine fun _ => ?_
    | (try lift_lets); intro x; clear_value x
    | split
    | dsimp only

theorem execTsSyncEdge_kept {s0 : State} (s : State) (hk : Kept s0 s) : KeptRes s0 (execTsSyncEdge s) := by
  delta execTsSyncEdge
  repeat' first
    | with_reducible assumption
    | with_reducible apply kept_next
    | (try lift_lets); intro x; clear_value x
    | split
    | simp -zeta only [kept_mk]
    | dsimp only

theorem execMaskRomCheck_kept {s0 : State} (s : State) (hk : Kept s0 s) : KeptRes s0 (execMaskRomCheck s) := by
  delta execMaskRomCheck
  repeat' first
    | with_reducible assumption
    | with_reducible apply kept_next
    | with_reducible apply startMeridian_kept
    | split
    | dsimp only

theorem draftedChart_kept {s0 : State} (e : Nat) (d : Nat × State × Engine) (hd : Kept s0 d.2.1) : Kept s0 (draftedChart e d) := by
  delta draftedChart
  split
  · exact endChart_kept _ _ _ _ (setEngine_kept _ _ _ hd)
  · exact setEngine_kept _ _ _ hd

theorem execGetEventRecords_kept {s0 : State} (src : MctpSrc) (tag : BitVec 8) (s : State) (hk : Kept s0 s) : KeptRes s0 (execGetEventRecords src tag s) := by
  delta execGetEventRecords
  repeat' first
    | with_reducible assumption
    | with_reducible apply kept_next
    | with_reducible apply fmFrom_kept
    | with_reducible apply fmReply_kept
    | refine fun _ => ?_
    | (try lift_lets); intro x; clear_value x
    | split
    | dsimp only

theorem execGetResponseMessageLimit_kept {s0 : State} (src : MctpSrc) (tag : BitVec 8) (s : State) (hk : Kept s0 s) : KeptRes s0 (execGetResponseMessageLimit src tag s) := by
  delta execGetResponseMessageLimit
  repeat' first
    | with_reducible assumption
    | with_reducible apply kept_next
    | with_reducible apply fmFrom_kept
    | with_reducible apply fmReply_kept
    | refine fun _ => ?_
    | dsimp only

theorem execHostReadResponse_kept {s0 : State} (e : EngineId) (outcome : Fin 3) (data : List Word) (s : State) (hk : Kept s0 s) : KeptRes s0 (execHostReadResponse e outcome data s) := by
  delta execHostReadResponse
  repeat' first
    | with_reducible assumption
    | with_reducible apply kept_next
    | with_reducible apply dropTxn_kept
    | with_reducible apply fetchFails_kept
    | with_reducible apply fetchEntry_kept
    | with_reducible apply fetchInstr_kept
    | with_reducible apply fetchData_kept
    | with_reducible apply finish_kept
    | with_reducible apply restoreBlob_kept
    | with_reducible apply kept_foldl
    | refine fun _ => ?_
    | (try lift_lets); intro x; refine kept_have (s0 := s0) (s := ‹State›) ?_ ?_; unfold x; rotate_left; intro hx; clear_value x
    | (try lift_lets); intro x; clear_value x
    | split
    | dsimp only

theorem fmLd_kept {s0 : State} (s : State) (src : MctpSrc) (tag : BitVec 8) (code : Nat) (p : BitVec 8) (ld : BitVec 16) (write : Bool) (addr : Nat) (data : List Byte) (answer : List Byte) (hk : Kept s0 s) : KeptRes s0 (fmLd s src tag code p ld write addr data answer) := by
  delta fmLd
  repeat' first
    | with_reducible assumption
    | with_reducible apply kept_next
    | with_reducible apply fmFrom_kept
    | with_reducible apply fmReply_kept
    | with_reducible apply emit_kept
    | refine fun _ => ?_
    | split
    | dsimp only

theorem execSendLdCxlIoMemoryRequest_kept {s0 : State} (src : MctpSrc) (tag : BitVec 8) (p : BitVec 8) (ld : BitVec 16) (write : Bool) (addr : BitVec 64) (data : List Byte) (answer : List Byte) (s : State) (hk : Kept s0 s) : KeptRes s0 (execSendLdCxlIoMemoryRequest src tag p ld write addr data answer s) := by
  delta execSendLdCxlIoMemoryRequest
  repeat' first
    | with_reducible assumption
    | with_reducible apply kept_next
    | with_reducible apply fmLd_kept
    | dsimp only

theorem frostCut_kept {s0 : State} (s : State) (t : Nat) (hk : Kept s0 s) : Kept s0 (frostCut s t) := by
  delta frostCut
  repeat' first
    | with_reducible assumption
    | with_reducible apply endChart_kept
    | with_reducible apply runFails_kept
    | with_reducible apply kept_foldl
    | refine fun _ => ?_
    | (try lift_lets); intro x; refine kept_have (s0 := s0) (s := ‹State›) ?_ ?_; unfold x; rotate_left; intro hx; clear_value x
    | (try lift_lets); intro x; clear_value x
    | split
    | dsimp only

theorem execFrostBoundExpiry_kept {s0 : State} (t : TileId) (s : State) (hk : Kept s0 s) : KeptRes s0 (execFrostBoundExpiry t s) := by
  delta execFrostBoundExpiry
  repeat' first
    | with_reducible assumption
    | with_reducible apply kept_next
    | with_reducible apply frostEnd_kept
    | with_reducible apply frostCut_kept
    | split
    | dsimp only

theorem execGetLdInfo_kept {s0 : State} (src : MctpSrc) (tag : BitVec 8) (p : BitVec 8) (body : List Byte) (answer : List Byte) (s : State) (hk : Kept s0 s) : KeptRes s0 (execGetLdInfo src tag p body answer s) := by
  delta execGetLdInfo
  repeat' first
    | with_reducible assumption
    | with_reducible apply kept_next
    | with_reducible apply fmTunnel_kept
    | dsimp only

theorem execGetLdAllocations_kept {s0 : State} (src : MctpSrc) (tag : BitVec 8) (p : BitVec 8) (body : List Byte) (answer : List Byte) (s : State) (hk : Kept s0 s) : KeptRes s0 (execGetLdAllocations src tag p body answer s) := by
  delta execGetLdAllocations
  repeat' first
    | with_reducible assumption
    | with_reducible apply kept_next
    | with_reducible apply fmTunnel_kept
    | dsimp only

theorem execSendPpbCxlIoConfigurationRequest_kept {s0 : State} (src : MctpSrc) (tag : BitVec 8) (p : BitVec 8) (write : Bool) (reg : BitVec 12) (data : BitVec 32) (s : State) (hk : Kept s0 s) : KeptRes s0 (execSendPpbCxlIoConfigurationRequest src tag p write reg data s) := by
  delta execSendPpbCxlIoConfigurationRequest
  repeat' first
    | with_reducible assumption
    | with_reducible apply kept_next
    | with_reducible apply fmFrom_kept
    | with_reducible apply fmReply_kept
    | with_reducible apply bridgeWrite_kept
    | refine fun _ => ?_
    | (try lift_lets); intro x; clear_value x
    | split
    | dsimp only

theorem execFmBindVppb_kept {s0 : State} (src : MctpSrc) (tag : BitVec 8) (vcs : Fin 64) (vppb : Fin 64) (btype : BitVec 4) (p : BitVec 7) (ld : BitVec 4) (pld : BitVec 8) (s : State) (hk : Kept s0 s) : KeptRes s0 (execFmBindVppb src tag vcs vppb btype p ld pld s) := by
  delta execFmBindVppb
  repeat' first
    | with_reducible assumption
    | with_reducible apply kept_next
    | with_reducible apply fmFrom_kept
    | with_reducible apply fmChart_kept
    | refine fun _ => ?_
    | dsimp only

theorem chartTaken_kept {s0 : State} (s : State) (hk : Kept s0 s) : Kept s0 (chartTaken s) := by
  delta chartTaken
  repeat' first
    | with_reducible assumption
    | with_reducible apply tick_kept
    | (try lift_lets); intro x; clear_value x
    | simp -zeta only [kept_mk]
    | dsimp only

theorem takeEntry_kept {s0 : State} (s : State) (e : Nat) (r : Nat) (hk : Kept s0 s) : Kept s0 (takeEntry s e r) := by
  delta takeEntry
  repeat' first
    | with_reducible assumption
    | with_reducible apply chartTaken_kept
    | with_reducible apply memCheck_kept
    | with_reducible apply fetchFails_kept
    | with_reducible apply fetchEntry_kept
    | with_reducible apply setEngine_kept
    | with_reducible apply memAsk_kept
    | refine memLocal_out ‹_› ?_
    | (try lift_lets); intro x; refine kept_have (s0 := s0) (s := ‹State›) ?_ ?_; unfold x; rotate_left; intro hx; clear_value x
    | (try lift_lets); intro x; refine kept_have (s0 := s0) (s := (‹Nat × State›).2) ?_ ?_; unfold x; rotate_left; intro hx; clear_value x
    | (try lift_lets); intro x; clear_value x
    | split
    | simp -zeta only [kept_mk]
    | dsimp only

theorem execFrostDrainComplete_kept {s0 : State} (t : TileId) (s : State) (hk : Kept s0 s) : KeptRes s0 (execFrostDrainComplete t s) := by
  delta execFrostDrainComplete
  repeat' first
    | with_reducible assumption
    | with_reducible apply kept_next
    | with_reducible apply frostEnd_kept
    | split
    | dsimp only

theorem execTilePowerDown_kept {s0 : State} (e : EngineId) (s : State) (hk : Kept s0 s) : KeptRes s0 (execTilePowerDown e s) := by
  delta execTilePowerDown
  repeat' first
    | with_reducible assumption
    | with_reducible apply kept_next
    | with_reducible apply tilePower_kept
    | with_reducible apply finish_kept
    | with_reducible apply portBlockReset_kept
    | with_reducible apply setLaneBit_kept
    | with_reducible apply setLive_kept
    | with_reducible apply setTileSt_kept
    | with_reducible apply setEngine_kept
    | with_reducible apply kept_foldl
    | refine fun _ => ?_
    | (try lift_lets); intro x; refine kept_have (s0 := s0) (s := ‹State›) ?_ ?_; unfold x; rotate_left; intro hx; clear_value x
    | split
    | dsimp only

theorem execPowerUpComplete_kept {s0 : State} (t : TileId) (s : State) (hk : Kept s0 s) : KeptRes s0 (execPowerUpComplete t s) := by
  delta execPowerUpComplete
  repeat' first
    | with_reducible assumption
    | with_reducible apply kept_next
    | with_reducible apply tileResetNow_kept
    | with_reducible apply resumeOk_kept
    | (try lift_lets); intro x; refine kept_have (s0 := s0) (s := ‹State›) ?_ ?_; unfold x; rotate_left; intro hx; clear_value x
    | (try lift_lets); intro x; clear_value x
    | split
    | simp -zeta only [kept_mk]
    | dsimp only

theorem startJob_kept {s0 : State} (s : State) (e : Nat) (j : Job) (hk : Kept s0 s) : Kept s0 (startJob s e j) := by
  delta startJob
  repeat' first
    | with_reducible assumption
    | with_reducible apply chartTaken_kept
    | with_reducible apply draftedChart_kept
    | with_reducible apply draftAny_kept
    | with_reducible apply ringDraft_kept
    | with_reducible apply setEngine_kept
    | with_reducible apply extentDrafts_kept
    | (try lift_lets); intro x; refine kept_have (s0 := s0) (s := ‹State›) ?_ ?_; unfold x; rotate_left; intro hx; clear_value x
    | (try lift_lets); intro x; refine kept_have (s0 := s0) (s := (‹Nat × State × Engine›).2.1) ?_ ?_; unfold x; rotate_left; intro hx; clear_value x
    | (try lift_lets); intro x; clear_value x
    | split
    | dsimp only

theorem execSetLdAllocations_kept {s0 : State} (src : MctpSrc) (tag : BitVec 8) (p : BitVec 8) (body : List Byte) (answer : List Byte) (s : State) (hk : Kept s0 s) : KeptRes s0 (execSetLdAllocations src tag p body answer s) := by
  delta execSetLdAllocations
  repeat' first
    | with_reducible assumption
    | with_reducible apply kept_next
    | with_reducible apply fmTunnel_kept
    | dsimp only

theorem applySettings_kept {s0 : State} (s : State) (hk : Kept s0 s) : Kept s0 (applySettings s) := by
  delta applySettings
  repeat' first
    | with_reducible assumption
    | with_reducible apply setTab_kept
    | with_reducible apply kept_foldl
    | refine fun _ => ?_
    | split
    | dsimp only

theorem takeMessage_kept {s0 : State} (s : State) (e : Nat) (r : Nat) (hk : Kept s0 s) : Kept s0 (takeMessage s e r) := by
  delta takeMessage
  repeat' first
    | with_reducible assumption
    | with_reducible apply fetchMessage_kept
    | with_reducible apply chartTaken_kept
    | (try lift_lets); intro x; clear_value x
    | split
    | simp -zeta only [kept_mk]
    | dsimp only

theorem registerDrafts_kept {s0 : State} (s : State) (e : Nat) (x : Engine) (p : Nat) (hk : Kept s0 s) : Kept s0 (registerDrafts s e x p).2.1 := by
  delta registerDrafts
  repeat' first
    | with_reducible assumption
    | with_reducible apply draftsAny_kept
    | split
    | dsimp only

theorem startResident_kept {s0 : State} (s : State) (e : Nat) (r : Resident) (hk : Kept s0 s) : Kept s0 (startResident s e r) := by
  delta startResident
  repeat' first
    | with_reducible assumption
    | with_reducible apply chartTaken_kept
    | with_reducible apply setEngine_kept
    | with_reducible apply draftedChart_kept
    | with_reducible apply registerDrafts_kept
    | (try lift_lets); intro x; refine kept_have (s0 := s0) (s := ‹State›) ?_ ?_; unfold x; rotate_left; intro hx; clear_value x
    | (try lift_lets); intro x; clear_value x
    | split
    | dsimp only

theorem fetchNext_kept {s0 : State} (s : State) (e : Nat) (hk : Kept s0 s) : Kept s0 (fetchNext s e) := by
  delta fetchNext
  repeat' first
    | with_reducible assumption
    | with_reducible apply takeMessage_kept
    | with_reducible apply startResident_kept
    | with_reducible apply startJob_kept
    | with_reducible apply takeEntry_kept
    | (try lift_lets); intro x; refine kept_have (s0 := s0) (s := ‹State›) ?_ ?_; unfold x; rotate_left; intro hx; clear_value x
    | (try lift_lets); intro x; clear_value x
    | split
    | simp -zeta only [kept_mk]
    | dsimp only

theorem execColdReset_kept {s0 : State} (s : State) (hk : Kept s0 s) : KeptRes s0 (execColdReset s) := by
  delta execColdReset
  repeat' first
    | with_reducible assumption
    | with_reducible apply kept_next
    | with_reducible apply legendSync_kept
    | with_reducible apply coldReset_kept
    | with_reducible apply beforeReset_kept
    | split
    | dsimp only

theorem execChartFetch_kept {s0 : State} (e : EngineId) (mer : Option (List Word)) (s : State) (hk : Kept s0 s) : KeptRes s0 (execChartFetch e mer s) := by
  delta execChartFetch
  repeat' first
    | with_reducible assumption
    | with_reducible apply kept_next
    | with_reducible apply fetchNext_kept
    | (try lift_lets); intro x; refine kept_have (s0 := s0) (s := ‹State›) ?_ ?_; unfold x; rotate_left; intro hx; clear_value x
    | split
    | simp -zeta only [kept_mk]
    | dsimp only

theorem execIdentify_kept {s0 : State} (src : MctpSrc) (tag : BitVec 8) (s : State) (hk : Kept s0 s) : KeptRes s0 (execIdentify src tag s) := by
  delta execIdentify
  repeat' first
    | with_reducible assumption
    | with_reducible apply kept_next
    | with_reducible apply fmFrom_kept
    | with_reducible apply fmReply_kept
    | with_reducible apply tickBytes_kept
    | refine fun _ => ?_
    | dsimp only

theorem execSetResponseMessageLimit_kept {s0 : State} (src : MctpSrc) (tag : BitVec 8) (n : BitVec 8) (s : State) (hk : Kept s0 s) : KeptRes s0 (execSetResponseMessageLimit src tag n s) := by
  delta execSetResponseMessageLimit
  repeat' first
    | with_reducible assumption
    | with_reducible apply kept_next
    | with_reducible apply fmFrom_kept
    | with_reducible apply fmReply_kept
    | refine fun _ => ?_
    | (try lift_lets); intro x; clear_value x
    | split
    | simp -zeta only [kept_mk]
    | dsimp only

theorem execClearEventRecords_kept {s0 : State} (src : MctpSrc) (tag : BitVec 8) (handles : List (BitVec 16)) (s : State) (hk : Kept s0 s) : KeptRes s0 (execClearEventRecords src tag handles s) := by
  delta execClearEventRecords
  repeat' first
    | with_reducible assumption
    | with_reducible apply kept_next
    | with_reducible apply fmFrom_kept
    | with_reducible apply fmReply_kept
    | with_reducible apply setEq_kept
    | refine fun _ => ?_
    | (try lift_lets); intro x; clear_value x
    | split
    | dsimp only

theorem execAssertPerst_kept {s0 : State} (src : MctpSrc) (tag : BitVec 8) (p : BitVec 8) (s : State) (hk : Kept s0 s) : KeptRes s0 (execAssertPerst src tag p s) := by
  delta execAssertPerst
  repeat' first
    | with_reducible assumption
    | with_reducible apply kept_next
    | with_reducible apply fmFrom_kept
    | with_reducible apply fmReply_kept
    | refine fun _ => ?_
    | split
    | simp -zeta only [kept_mk]
    | dsimp only

theorem execDeassertPerst_kept {s0 : State} (src : MctpSrc) (tag : BitVec 8) (p : BitVec 8) (s : State) (hk : Kept s0 s) : KeptRes s0 (execDeassertPerst src tag p s) := by
  delta execDeassertPerst
  repeat' first
    | with_reducible assumption
    | with_reducible apply kept_next
    | with_reducible apply fmFrom_kept
    | with_reducible apply fmReply_kept
    | with_reducible apply tickBytes_kept
    | refine fun _ => ?_
    | split
    | simp -zeta only [kept_mk]
    | dsimp only

theorem execGetVirtualCxlSwitchInfo_kept {s0 : State} (src : MctpSrc) (tag : BitVec 8) (vcss : List (BitVec 8)) (s : State) (hk : Kept s0 s) : KeptRes s0 (execGetVirtualCxlSwitchInfo src tag vcss s) := by
  delta execGetVirtualCxlSwitchInfo
  repeat' first
    | with_reducible assumption
    | with_reducible apply kept_next
    | with_reducible apply fmFrom_kept
    | with_reducible apply fmReply_kept
    | refine fun _ => ?_
    | (try lift_lets); intro x; clear_value x
    | split
    | dsimp only

theorem execFmUnbindVppb_kept {s0 : State} (src : MctpSrc) (tag : BitVec 8) (vcs : Fin 64) (vppb : Fin 64) (s : State) (hk : Kept s0 s) : KeptRes s0 (execFmUnbindVppb src tag vcs vppb s) := by
  delta execFmUnbindVppb
  repeat' first
    | with_reducible assumption
    | with_reducible apply kept_next
    | with_reducible apply fmFrom_kept
    | with_reducible apply fmChart_kept
    | refine fun _ => ?_
    | dsimp only

theorem execGenerateAerEvent_kept {s0 : State} (src : MctpSrc) (tag : BitVec 8) (vcs : Fin 64) (vppb : Fin 64) (error : BitVec 32) (header : List Byte) (s : State) (hk : Kept s0 s) : KeptRes s0 (execGenerateAerEvent src tag vcs vppb error header s) := by
  delta execGenerateAerEvent
  repeat' first
    | with_reducible assumption
    | with_reducible apply kept_next
    | with_reducible apply fmFrom_kept
    | with_reducible apply fmReply_kept
    | with_reducible apply modBridge_kept
    | with_reducible apply emit_kept
    | refine fun _ => ?_
    | (try lift_lets); intro x; refine kept_have (s0 := s0) (s := ‹State›) ?_ ?_; unfold x; rotate_left; intro hx; clear_value x
    | split
    | dsimp only

theorem execTunnelManagementCommand_kept {s0 : State} (src : MctpSrc) (tag : BitVec 8) (p : BitVec 8) (body : List Byte) (answer : List Byte) (s : State) (hk : Kept s0 s) : KeptRes s0 (execTunnelManagementCommand src tag p body answer s) := by
  delta execTunnelManagementCommand
  repeat' first
    | with_reducible assumption
    | with_reducible apply kept_next
    | with_reducible apply fmTunnel_kept
    | dsimp only

theorem execSendLdCxlIoConfigurationRequest_kept {s0 : State} (src : MctpSrc) (tag : BitVec 8) (p : BitVec 8) (ld : BitVec 16) (write : Bool) (reg : BitVec 12) (data : BitVec 32) (answer : BitVec 32) (s : State) (hk : Kept s0 s) : KeptRes s0 (execSendLdCxlIoConfigurationRequest src tag p ld write reg data answer s) := by
  delta execSendLdCxlIoConfigurationRequest
  repeat' first
    | with_reducible assumption
    | with_reducible apply kept_next
    | with_reducible apply fmLd_kept
    | dsimp only

theorem execGetQosControl_kept {s0 : State} (src : MctpSrc) (tag : BitVec 8) (p : BitVec 8) (body : List Byte) (answer : List Byte) (s : State) (hk : Kept s0 s) : KeptRes s0 (execGetQosControl src tag p body answer s) := by
  delta execGetQosControl
  repeat' first
    | with_reducible assumption
    | with_reducible apply kept_next
    | with_reducible apply fmTunnel_kept
    | dsimp only

theorem execSetQosControl_kept {s0 : State} (src : MctpSrc) (tag : BitVec 8) (p : BitVec 8) (body : List Byte) (answer : List Byte) (s : State) (hk : Kept s0 s) : KeptRes s0 (execSetQosControl src tag p body answer s) := by
  delta execSetQosControl
  repeat' first
    | with_reducible assumption
    | with_reducible apply kept_next
    | with_reducible apply fmTunnel_kept
    | dsimp only

theorem execGetQosStatus_kept {s0 : State} (src : MctpSrc) (tag : BitVec 8) (p : BitVec 8) (body : List Byte) (answer : List Byte) (s : State) (hk : Kept s0 s) : KeptRes s0 (execGetQosStatus src tag p body answer s) := by
  delta execGetQosStatus
  repeat' first
    | with_reducible assumption
    | with_reducible apply kept_next
    | with_reducible apply fmTunnel_kept
    | dsimp only

theorem execGetQosAllocatedBw_kept {s0 : State} (src : MctpSrc) (tag : BitVec 8) (p : BitVec 8) (body : List Byte) (answer : List Byte) (s : State) (hk : Kept s0 s) : KeptRes s0 (execGetQosAllocatedBw src tag p body answer s) := by
  delta execGetQosAllocatedBw
  repeat' first
    | with_reducible assumption
    | with_reducible apply kept_next
    | with_reducible apply fmTunnel_kept
    | dsimp only

theorem execGetQosBwLimit_kept {s0 : State} (src : MctpSrc) (tag : BitVec 8) (p : BitVec 8) (body : List Byte) (answer : List Byte) (s : State) (hk : Kept s0 s) : KeptRes s0 (execGetQosBwLimit src tag p body answer s) := by
  delta execGetQosBwLimit
  repeat' first
    | with_reducible assumption
    | with_reducible apply kept_next
    | with_reducible apply fmTunnel_kept
    | dsimp only

theorem execGetHostDcRegionConfiguration_kept {s0 : State} (src : MctpSrc) (tag : BitVec 8) (pld : BitVec 8) (s : State) (hk : Kept s0 s) : KeptRes s0 (execGetHostDcRegionConfiguration src tag pld s) := by
  delta execGetHostDcRegionConfiguration
  repeat' first
    | with_reducible assumption
    | with_reducible apply kept_next
    | with_reducible apply fmFrom_kept
    | with_reducible apply fmReply_kept
    | with_reducible apply tickBytes_kept
    | refine fun _ => ?_
    | (try lift_lets); intro x; clear_value x
    | split
    | dsimp only

theorem execSetDcRegionConfiguration_kept {s0 : State} (src : MctpSrc) (tag : BitVec 8) (pld : BitVec 8) (en : Bool) (maxg : BitVec 28) (s : State) (hk : Kept s0 s) : KeptRes s0 (execSetDcRegionConfiguration src tag pld en maxg s) := by
  delta execSetDcRegionConfiguration
  repeat' first
    | with_reducible assumption
    | with_reducible apply kept_next
    | with_reducible apply fmFrom_kept
    | with_reducible apply fmChart_kept
    | refine fun _ => ?_
    | split
    | dsimp only

theorem execGetDcRegionExtentLists_kept {s0 : State} (src : MctpSrc) (tag : BitVec 8) (pld : BitVec 8) (count : BitVec 32) (start : BitVec 32) (s : State) (hk : Kept s0 s) : KeptRes s0 (execGetDcRegionExtentLists src tag pld count start s) := by
  delta execGetDcRegionExtentLists
  repeat' first
    | with_reducible assumption
    | with_reducible apply kept_next
    | with_reducible apply fmFrom_kept
    | with_reducible apply fmReply_kept
    | with_reducible apply tickBytes_kept
    | refine fun _ => ?_
    | (try lift_lets); intro x; clear_value x
    | split
    | dsimp only

theorem execTsSyncLoss_kept {s0 : State} (s : State) (hk : Kept s0 s) : KeptRes s0 (execTsSyncLoss s) := by
  delta execTsSyncLoss
  repeat' first
    | with_reducible assumption
    | with_reducible apply kept_next
    | (try lift_lets); intro x; clear_value x
    | split
    | simp -zeta only [kept_mk]
    | dsimp only

theorem execTileFrost_kept {s0 : State} (e : EngineId) (s : State) (hk : Kept s0 s) : KeptRes s0 (execTileFrost e s) := by
  delta execTileFrost
  repeat' first
    | with_reducible assumption
    | with_reducible apply kept_next
    | with_reducible apply tileMacro_kept
    | with_reducible apply finish_kept
    | with_reducible apply frostBegin_kept
    | refine fun _ => ?_
    | split
    | dsimp only

theorem execTilePowerUp_kept {s0 : State} (e : EngineId) (s : State) (hk : Kept s0 s) : KeptRes s0 (execTilePowerUp e s) := by
  delta execTilePowerUp
  repeat' first
    | with_reducible assumption
    | with_reducible apply kept_next
    | with_reducible apply tilePower_kept
    | with_reducible apply finish_kept
    | with_reducible apply setEngine_kept
    | with_reducible apply setTileSt_kept
    | refine fun _ => ?_
    | (try lift_lets); intro x; refine kept_have (s0 := s0) (s := ‹State›) ?_ ?_; unfold x; rotate_left; intro hx; clear_value x
    | (try lift_lets); intro x; clear_value x
    | split
    | simp -zeta only [kept_mk]
    | dsimp only

theorem execTileReset_kept {s0 : State} (e : EngineId) (s : State) (hk : Kept s0 s) : KeptRes s0 (execTileReset e s) := by
  delta execTileReset
  repeat' first
    | with_reducible assumption
    | with_reducible apply kept_next
    | with_reducible apply tileMacro_kept
    | with_reducible apply finish_kept
    | with_reducible apply tileResetNow_kept
    | refine fun _ => ?_
    | split
    | dsimp only

theorem execLedFrame_kept {s0 : State} (s : State) (hk : Kept s0 s) : KeptRes s0 (execLedFrame s) := by
  delta execLedFrame
  repeat' first
    | with_reducible assumption
    | with_reducible apply kept_next
    | with_reducible apply emit_kept
    | with_reducible apply kept_foldl
    | refine fun _ => ?_
    | (try lift_lets); intro x; refine kept_have (s0 := s0) (s := ‹State›) ?_ ?_; unfold x; rotate_left; intro hx; clear_value x
    | (try lift_lets); intro x; clear_value x
    | split
    | simp -zeta only [kept_mk]
    | dsimp only

theorem execVddAoPowerOn_kept {s0 : State} (s : State) (hk : Kept s0 s) : KeptRes s0 (execVddAoPowerOn s) := by
  delta execVddAoPowerOn
  repeat' first
    | with_reducible assumption
    | with_reducible apply kept_next
    | with_reducible apply coldReset_kept
    | dsimp only

theorem execPwrOkRise_kept {s0 : State} (s : State) (hk : Kept s0 s) : KeptRes s0 (execPwrOkRise s) := by
  delta execPwrOkRise
  repeat' first
    | with_reducible assumption
    | with_reducible apply kept_next
    | (try lift_lets); intro x; clear_value x
    | split
    | simp -zeta only [kept_mk]
    | dsimp only

theorem startSteward_kept {s0 : State} (s : State) (b : Nat) (hk : Kept s0 s) : Kept s0 (startSteward s b) := by
  delta startSteward
  repeat' first
    | with_reducible assumption
    | with_reducible apply hbmWrite_kept
    | with_reducible apply legendChanged_kept
    | (try lift_lets); intro x; refine kept_have (s0 := s0) (s := ‹State›) ?_ ?_; unfold x; rotate_left; intro hx; clear_value x
    | (try lift_lets); intro x; clear_value x
    | split
    | simp -zeta only [kept_mk]
    | dsimp only

theorem raisedSvn_le (s : State) (kind old : Nat) (a b : Image) : old ≤ raisedSvn s kind old a b := by
  unfold raisedSvn
  split
  · exact Nat.le_max_left ..
  · exact Nat.le_max_left ..
  · exact Nat.le_max_left ..
  · exact Nat.le_refl _

theorem raiseSvns_kept {s0 : State} (s : State) (hk : Kept s0 s) : Kept s0 (raiseSvns s) :=
  ⟨hk.pending, hk.clock, hk.hbm, hk.tab, hk.claims, hk.engines, Nat.le_trans hk.svn1 (raisedSvn_le ..), Nat.le_trans hk.svn2 (raisedSvn_le ..)⟩

theorem execStewardImageVerified_kept {s0 : State} (s : State) (hk : Kept s0 s) : KeptRes s0 (execStewardImageVerified s) := by
  delta execStewardImageVerified
  repeat' first
    | with_reducible assumption
    | with_reducible apply kept_next
    | with_reducible apply startSteward_kept
    | with_reducible apply raiseSvns_kept
    | with_reducible apply hbmWrite_kept
    | (try lift_lets); intro x; refine kept_have (s0 := s0) (s := ‹State›) ?_ ?_; unfold x; rotate_left; intro hx; clear_value x
    | (try lift_lets); intro x; clear_value x
    | split
    | simp -zeta only [kept_mk]
    | dsimp only

theorem execSettingsApplied_kept {s0 : State} (s : State) (hk : Kept s0 s) : KeptRes s0 (execSettingsApplied s) := by
  delta execSettingsApplied
  repeat' first
    | with_reducible assumption
    | with_reducible apply kept_next
    | with_reducible apply applySettings_kept
    | with_reducible apply setLaneBit_kept
    | with_reducible apply legendSync_kept
    | with_reducible apply thawPort_kept
    | with_reducible apply kept_foldl
    | refine fun _ => ?_
    | (try lift_lets); intro x; refine kept_have (s0 := s0) (s := ‹State›) ?_ ?_; unfold x; rotate_left; intro hx; clear_value x
    | (try lift_lets); intro x; clear_value x
    | intro _
    | split
    | simp -zeta only [kept_mk]
    | dsimp only

theorem execFabricReady_kept {s0 : State} (s : State) (hk : Kept s0 s) : KeptRes s0 (execFabricReady s) := by
  delta execFabricReady
  repeat' first
    | with_reducible assumption
    | with_reducible apply kept_next
    | (try lift_lets); intro x; clear_value x
    | split
    | simp -zeta only [kept_mk]
    | dsimp only

theorem execHoldBootTimeout_kept {s0 : State} (s : State) (hk : Kept s0 s) : KeptRes s0 (execHoldBootTimeout s) := by
  delta execHoldBootTimeout
  repeat' first
    | with_reducible assumption
    | with_reducible apply kept_next
    | (try lift_lets); intro x; clear_value x
    | split
    | simp -zeta only [kept_mk]
    | dsimp only

theorem stewardReset_kept {s0 : State} (s : State) (hk : Kept s0 s) : Kept s0 (stewardReset s) :=
  ⟨hk.pending, hk.clock, fun _ => rfl, hk.tab, hk.claims, hk.engines, hk.svn1, hk.svn2⟩

theorem warmReset_kept {s0 : State} (s : State) (hk : Kept s0 s) : Kept s0 (warmReset s) := by
  delta warmReset
  repeat' first
    | with_reducible assumption
    | with_reducible apply perstAll_kept
    | with_reducible apply beforeReset_kept
    | with_reducible apply functionClaimsFreed_kept
    | with_reducible apply allCountersZero_kept
    | with_reducible apply stewardReset_kept
    | with_reducible apply renumber_kept
    | with_reducible apply fabricReset_kept
    | with_reducible apply strapTables_kept
    | (try lift_lets); intro x; refine kept_have (s0 := s0) (s := ‹State›) ?_ ?_; unfold x; rotate_left; intro hx; clear_value x
    | (try lift_lets); intro x; clear_value x
    | simp -zeta only [kept_mk]
    | dsimp only

theorem execWarmReset_kept {s0 : State} (s : State) (hk : Kept s0 s) : KeptRes s0 (execWarmReset s) := by
  delta execWarmReset
  repeat' first
    | with_reducible assumption
    | with_reducible apply kept_next
    | with_reducible apply legendSync_kept
    | with_reducible apply warmReset_kept
    | split
    | dsimp only

/-- Marking the charts of ring 8 leaves every listed engine different from an idle one. -/
theorem ring8_wf (m : SMap Engine) (h : Engines.wf m = true) :
    Engines.wf (m.map fun e => (e.1, if e.2.origin == .ring 8 then { e.2 with subReset := true } else e.2)) = true := by
  induction m with
  | nil => rfl
  | cons e m ih =>
    obtain ⟨j, u⟩ := e
    obtain ⟨hu, hj, hm⟩ := (smWf_cons (fun _ => ({} : Engine)) j u m).mp h
    rw [List.map_cons]
    refine (smWf_cons (fun _ => ({} : Engine)) j _ _).mpr ⟨?_, fun e he => ?_, ih hm⟩
    · dsimp only
      split
      · rename_i hr
        intro he
        have := congrArg Engine.origin he
        simp only [beq_iff_eq] at hr
        rw [show ({ u with subReset := true } : Engine).origin = u.origin from rfl, hr] at this
        exact absurd this (by decide)
      · exact hu
    · obtain ⟨a, ha, rfl⟩ := List.mem_map.mp he
      exact hj a ha

theorem execMeridianWatchdog_kept {s0 : State} (s : State) (hk : Kept s0 s) : KeptRes s0 (execMeridianWatchdog s) := by
  delta execMeridianWatchdog
  split
  · exact kept_next (meridianReset_kept _
      ⟨hk.pending, hk.clock, hk.hbm, hk.tab, hk.claims, fun w => ring8_wf s.engines (hk.engines w), hk.svn1, hk.svn2⟩)
  · exact kept_next hk

theorem execMeridianRestart_kept {s0 : State} (s : State) (hk : Kept s0 s) : KeptRes s0 (execMeridianRestart s) := by
  delta execMeridianRestart
  repeat' first
    | with_reducible assumption
    | with_reducible apply kept_next
    | with_reducible apply startMeridian_kept
    | (try lift_lets); intro x; clear_value x
    | split
    | simp -zeta only [kept_mk]
    | dsimp only

end Sys2Proof.Machine
end

