-- ==== Sys2Proof/Laws/State.lean ====
section
/-! SUPPORT. What each named update of the state leaves alone and what it writes: one lemma per field per update. -/
namespace Sys2Proof.Machine

/-! emit -/

@[simp] theorem emit_lanes (s : State) (o : Out) : (emit s o).lanes = s.lanes := rfl
@[simp] theorem emit_isls (s : State) (o : Out) : (emit s o).isls = s.isls := rfl
@[simp] theorem emit_detaching (s : State) (o : Out) : (emit s o).detaching = s.detaching := rfl
@[simp] theorem emit_lowSince (s : State) (o : Out) : (emit s o).lowSince = s.lowSince := rfl
@[simp] theorem emit_refPair (s : State) (o : Out) : (emit s o).refPair = s.refPair := rfl
@[simp] theorem emit_l0pWidth (s : State) (o : Out) : (emit s o).l0pWidth = s.l0pWidth := rfl
@[simp] theorem emit_woken (s : State) (o : Out) : (emit s o).woken = s.woken := rfl
@[simp] theorem emit_txns (s : State) (o : Out) : (emit s o).txns = s.txns := rfl
@[simp] theorem emit_nextTxn (s : State) (o : Out) : (emit s o).nextTxn = s.nextTxn := rfl
@[simp] theorem emit_routers (s : State) (o : Out) : (emit s o).routers = s.routers := rfl
@[simp] theorem emit_streams (s : State) (o : Out) : (emit s o).streams = s.streams := rfl
@[simp] theorem emit_early (s : State) (o : Out) : (emit s o).early = s.early := rfl
@[simp] theorem emit_endps (s : State) (o : Out) : (emit s o).endps = s.endps := rfl
@[simp] theorem emit_scheds (s : State) (o : Out) : (emit s o).scheds = s.scheds := rfl
@[simp] theorem emit_paces (s : State) (o : Out) : (emit s o).paces = s.paces := rfl
@[simp] theorem emit_thrs (s : State) (o : Out) : (emit s o).thrs = s.thrs := rfl
@[simp] theorem emit_routeOld (s : State) (o : Out) : (emit s o).routeOld = s.routeOld := rfl
@[simp] theorem emit_arrived (s : State) (o : Out) : (emit s o).arrived = s.arrived := rfl
@[simp] theorem emit_islRet (s : State) (o : Out) : (emit s o).islRet = s.islRet := rfl
@[simp] theorem emit_macUnits (s : State) (o : Out) : (emit s o).macUnits = s.macUnits := rfl
@[simp] theorem emit_bridges (s : State) (o : Out) : (emit s o).bridges = s.bridges := rfl
@[simp] theorem emit_decRegs (s : State) (o : Out) : (emit s o).decRegs = s.decRegs := rfl
@[simp] theorem emit_granules (s : State) (o : Out) : (emit s o).granules = s.granules := rfl
@[simp] theorem emit_poolLost (s : State) (o : Out) : (emit s o).poolLost = s.poolLost := rfl
@[simp] theorem emit_member0 (s : State) (o : Out) : (emit s o).member0 = s.member0 := rfl
@[simp] theorem emit_scrubs (s : State) (o : Out) : (emit s o).scrubs = s.scrubs := rfl
@[simp] theorem emit_offers (s : State) (o : Out) : (emit s o).offers = s.offers := rfl
@[simp] theorem emit_overdue (s : State) (o : Out) : (emit s o).overdue = s.overdue := rfl
@[simp] theorem emit_presence (s : State) (o : Out) : (emit s o).presence = s.presence := rfl
@[simp] theorem emit_vcsReset (s : State) (o : Out) : (emit s o).vcsReset = s.vcsReset := rfl
@[simp] theorem emit_viral (s : State) (o : Out) : (emit s o).viral = s.viral := rfl
@[simp] theorem emit_internals (s : State) (o : Out) : (emit s o).internals = s.internals := rfl
@[simp] theorem emit_slices (s : State) (o : Out) : (emit s o).slices = s.slices := rfl
@[simp] theorem emit_ways (s : State) (o : Out) : (emit s o).ways = s.ways := rfl
@[simp] theorem emit_plru (s : State) (o : Out) : (emit s o).plru = s.plru := rfl
@[simp] theorem emit_backing (s : State) (o : Out) : (emit s o).backing = s.backing := rfl
@[simp] theorem emit_walks (s : State) (o : Out) : (emit s o).walks = s.walks := rfl
@[simp] theorem emit_fwds (s : State) (o : Out) : (emit s o).fwds = s.fwds := rfl
@[simp] theorem emit_lostWalked (s : State) (o : Out) : (emit s o).lostWalked = s.lostWalked := rfl
@[simp] theorem emit_ideUp (s : State) (o : Out) : (emit s o).ideUp = s.ideUp := rfl
@[simp] theorem emit_cxlCache (s : State) (o : Out) : (emit s o).cxlCache = s.cxlCache := rfl
@[simp] theorem emit_noCxl (s : State) (o : Out) : (emit s o).noCxl = s.noCxl := rfl
@[simp] theorem emit_biIds (s : State) (o : Out) : (emit s o).biIds = s.biIds := rfl
@[simp] theorem emit_pending (s : State) (o : Out) : (emit s o).pending = s.pending := rfl
@[simp] theorem emit_clock (s : State) (o : Out) : (emit s o).clock = s.clock := rfl
@[simp] theorem emit_freeCtr (s : State) (o : Out) : (emit s o).freeCtr = s.freeCtr := rfl
@[simp] theorem emit_tab (s : State) (o : Out) : (emit s o).tab = s.tab := rfl
@[simp] theorem emit_commitNum (s : State) (o : Out) : (emit s o).commitNum = s.commitNum := rfl
@[simp] theorem emit_hbm (s : State) (o : Out) : (emit s o).hbm = s.hbm := rfl
@[simp] theorem emit_engines (s : State) (o : Out) : (emit s o).engines = s.engines := rfl
@[simp] theorem emit_arb (s : State) (o : Out) : (emit s o).arb = s.arb := rfl
@[simp] theorem emit_rings (s : State) (o : Out) : (emit s o).rings = s.rings := rfl
@[simp] theorem emit_ringTurn (s : State) (o : Out) : (emit s o).ringTurn = s.ringTurn := rfl
@[simp] theorem emit_residents (s : State) (o : Out) : (emit s o).residents = s.residents := rfl
@[simp] theorem emit_paused (s : State) (o : Out) : (emit s o).paused = s.paused := rfl
@[simp] theorem emit_claims (s : State) (o : Out) : (emit s o).claims = s.claims := rfl
@[simp] theorem emit_updated (s : State) (o : Out) : (emit s o).updated = s.updated := rfl
@[simp] theorem emit_partners (s : State) (o : Out) : (emit s o).partners = s.partners := rfl
@[simp] theorem emit_present (s : State) (o : Out) : (emit s o).present = s.present := rfl
@[simp] theorem emit_arriving (s : State) (o : Out) : (emit s o).arriving = s.arriving := rfl
@[simp] theorem emit_surveys (s : State) (o : Out) : (emit s o).surveys = s.surveys := rfl
@[simp] theorem emit_deferred (s : State) (o : Out) : (emit s o).deferred = s.deferred := rfl
@[simp] theorem emit_attn (s : State) (o : Out) : (emit s o).attn = s.attn := rfl
@[simp] theorem emit_detachAt (s : State) (o : Out) : (emit s o).detachAt = s.detachAt := rfl
@[simp] theorem emit_lostAt (s : State) (o : Out) : (emit s o).lostAt = s.lostAt := rfl
@[simp] theorem emit_stated (s : State) (o : Out) : (emit s o).stated = s.stated := rfl
@[simp] theorem emit_slots (s : State) (o : Out) : (emit s o).slots = s.slots := rfl
@[simp] theorem emit_locks (s : State) (o : Out) : (emit s o).locks = s.locks := rfl
@[simp] theorem emit_dbg (s : State) (o : Out) : (emit s o).dbg = s.dbg := rfl
@[simp] theorem emit_ev (s : State) (o : Out) : (emit s o).ev = s.ev := rfl
@[simp] theorem emit_alm (s : State) (o : Out) : (emit s o).alm = s.alm := rfl
@[simp] theorem emit_cnt (s : State) (o : Out) : (emit s o).cnt = s.cnt := rfl
@[simp] theorem emit_traces (s : State) (o : Out) : (emit s o).traces = s.traces := rfl
@[simp] theorem emit_timers (s : State) (o : Out) : (emit s o).timers = s.timers := rfl
@[simp] theorem emit_svc (s : State) (o : Out) : (emit s o).svc = s.svc := rfl
@[simp] theorem emit_sec (s : State) (o : Out) : (emit s o).sec = s.sec := rfl
@[simp] theorem emit_mer (s : State) (o : Out) : (emit s o).mer = s.mer := rfl
@[simp] theorem emit_stw (s : State) (o : Out) : (emit s o).stw = s.stw := rfl
@[simp] theorem emit_mctp (s : State) (o : Out) : (emit s o).mctp = s.mctp := rfl
@[simp] theorem emit_legend (s : State) (o : Out) : (emit s o).legend = s.legend := rfl
@[simp] theorem emit_fieldLock (s : State) (o : Out) : (emit s o).fieldLock = s.fieldLock := rfl
@[simp] theorem emit_ts (s : State) (o : Out) : (emit s o).ts = s.ts := rfl
@[simp] theorem emit_boot (s : State) (o : Out) : (emit s o).boot = s.boot := rfl
@[simp] theorem emit_tsync (s : State) (o : Out) : (emit s o).tsync = s.tsync := rfl
@[simp] theorem emit_frost (s : State) (o : Out) : (emit s o).frost = s.frost := rfl
@[simp] theorem emit_settings (s : State) (o : Out) : (emit s o).settings = s.settings := rfl
@[simp] theorem emit_portResets (s : State) (o : Out) : (emit s o).portResets = s.portResets := rfl
@[simp] theorem emit_fabricRdy (s : State) (o : Out) : (emit s o).fabricRdy = s.fabricRdy := rfl
@[simp] theorem emit_pinLow (s : State) (o : Out) : (emit s o).pinLow = s.pinLow := rfl
@[simp] theorem emit_ledLast (s : State) (o : Out) : (emit s o).ledLast = s.ledLast := rfl
@[simp] theorem emit_ledWhen (s : State) (o : Out) : (emit s o).ledWhen = s.ledWhen := rfl
@[simp] theorem emit_ledPhase (s : State) (o : Out) : (emit s o).ledPhase = s.ledPhase := rfl
@[simp] theorem emit_ledNext (s : State) (o : Out) : (emit s o).ledNext = s.ledNext := rfl
@[simp] theorem emit_oppNow (s : State) (o : Out) : (emit s o).oppNow = s.oppNow := rfl
@[simp] theorem emit_out (s : State) (o : Out) : (emit s o).out = s.out ++ [o] := rfl

/-! emits -/

@[simp] theorem emits_lanes (s : State) (os : List Out) : (emits s os).lanes = s.lanes := rfl
@[simp] theorem emits_isls (s : State) (os : List Out) : (emits s os).isls = s.isls := rfl
@[simp] theorem emits_detaching (s : State) (os : List Out) : (emits s os).detaching = s.detaching := rfl
@[simp] theorem emits_lowSince (s : State) (os : List Out) : (emits s os).lowSince = s.lowSince := rfl
@[simp] theorem emits_refPair (s : State) (os : List Out) : (emits s os).refPair = s.refPair := rfl
@[simp] theorem emits_l0pWidth (s : State) (os : List Out) : (emits s os).l0pWidth = s.l0pWidth := rfl
@[simp] theorem emits_woken (s : State) (os : List Out) : (emits s os).woken = s.woken := rfl
@[simp] theorem emits_txns (s : State) (os : List Out) : (emits s os).txns = s.txns := rfl
@[simp] theorem emits_nextTxn (s : State) (os : List Out) : (emits s os).nextTxn = s.nextTxn := rfl
@[simp] theorem emits_routers (s : State) (os : List Out) : (emits s os).routers = s.routers := rfl
@[simp] theorem emits_streams (s : State) (os : List Out) : (emits s os).streams = s.streams := rfl
@[simp] theorem emits_early (s : State) (os : List Out) : (emits s os).early = s.early := rfl
@[simp] theorem emits_endps (s : State) (os : List Out) : (emits s os).endps = s.endps := rfl
@[simp] theorem emits_scheds (s : State) (os : List Out) : (emits s os).scheds = s.scheds := rfl
@[simp] theorem emits_paces (s : State) (os : List Out) : (emits s os).paces = s.paces := rfl
@[simp] theorem emits_thrs (s : State) (os : List Out) : (emits s os).thrs = s.thrs := rfl
@[simp] theorem emits_routeOld (s : State) (os : List Out) : (emits s os).routeOld = s.routeOld := rfl
@[simp] theorem emits_arrived (s : State) (os : List Out) : (emits s os).arrived = s.arrived := rfl
@[simp] theorem emits_islRet (s : State) (os : List Out) : (emits s os).islRet = s.islRet := rfl
@[simp] theorem emits_macUnits (s : State) (os : List Out) : (emits s os).macUnits = s.macUnits := rfl
@[simp] theorem emits_bridges (s : State) (os : List Out) : (emits s os).bridges = s.bridges := rfl
@[simp] theorem emits_decRegs (s : State) (os : List Out) : (emits s os).decRegs = s.decRegs := rfl
@[simp] theorem emits_granules (s : State) (os : List Out) : (emits s os).granules = s.granules := rfl
@[simp] theorem emits_poolLost (s : State) (os : List Out) : (emits s os).poolLost = s.poolLost := rfl
@[simp] theorem emits_member0 (s : State) (os : List Out) : (emits s os).member0 = s.member0 := rfl
@[simp] theorem emits_scrubs (s : State) (os : List Out) : (emits s os).scrubs = s.scrubs := rfl
@[simp] theorem emits_offers (s : State) (os : List Out) : (emits s os).offers = s.offers := rfl
@[simp] theorem emits_overdue (s : State) (os : List Out) : (emits s os).overdue = s.overdue := rfl
@[simp] theorem emits_presence (s : State) (os : List Out) : (emits s os).presence = s.presence := rfl
@[simp] theorem emits_vcsReset (s : State) (os : List Out) : (emits s os).vcsReset = s.vcsReset := rfl
@[simp] theorem emits_viral (s : State) (os : List Out) : (emits s os).viral = s.viral := rfl
@[simp] theorem emits_internals (s : State) (os : List Out) : (emits s os).internals = s.internals := rfl
@[simp] theorem emits_slices (s : State) (os : List Out) : (emits s os).slices = s.slices := rfl
@[simp] theorem emits_ways (s : State) (os : List Out) : (emits s os).ways = s.ways := rfl
@[simp] theorem emits_plru (s : State) (os : List Out) : (emits s os).plru = s.plru := rfl
@[simp] theorem emits_backing (s : State) (os : List Out) : (emits s os).backing = s.backing := rfl
@[simp] theorem emits_walks (s : State) (os : List Out) : (emits s os).walks = s.walks := rfl
@[simp] theorem emits_fwds (s : State) (os : List Out) : (emits s os).fwds = s.fwds := rfl
@[simp] theorem emits_lostWalked (s : State) (os : List Out) : (emits s os).lostWalked = s.lostWalked := rfl
@[simp] theorem emits_ideUp (s : State) (os : List Out) : (emits s os).ideUp = s.ideUp := rfl
@[simp] theorem emits_cxlCache (s : State) (os : List Out) : (emits s os).cxlCache = s.cxlCache := rfl
@[simp] theorem emits_noCxl (s : State) (os : List Out) : (emits s os).noCxl = s.noCxl := rfl
@[simp] theorem emits_biIds (s : State) (os : List Out) : (emits s os).biIds = s.biIds := rfl
@[simp] theorem emits_pending (s : State) (os : List Out) : (emits s os).pending = s.pending := rfl
@[simp] theorem emits_clock (s : State) (os : List Out) : (emits s os).clock = s.clock := rfl
@[simp] theorem emits_freeCtr (s : State) (os : List Out) : (emits s os).freeCtr = s.freeCtr := rfl
@[simp] theorem emits_tab (s : State) (os : List Out) : (emits s os).tab = s.tab := rfl
@[simp] theorem emits_commitNum (s : State) (os : List Out) : (emits s os).commitNum = s.commitNum := rfl
@[simp] theorem emits_hbm (s : State) (os : List Out) : (emits s os).hbm = s.hbm := rfl
@[simp] theorem emits_engines (s : State) (os : List Out) : (emits s os).engines = s.engines := rfl
@[simp] theorem emits_arb (s : State) (os : List Out) : (emits s os).arb = s.arb := rfl
@[simp] theorem emits_rings (s : State) (os : List Out) : (emits s os).rings = s.rings := rfl
@[simp] theorem emits_ringTurn (s : State) (os : List Out) : (emits s os).ringTurn = s.ringTurn := rfl
@[simp] theorem emits_residents (s : State) (os : List Out) : (emits s os).residents = s.residents := rfl
@[simp] theorem emits_paused (s : State) (os : List Out) : (emits s os).paused = s.paused := rfl
@[simp] theorem emits_claims (s : State) (os : List Out) : (emits s os).claims = s.claims := rfl
@[simp] theorem emits_updated (s : State) (os : List Out) : (emits s os).updated = s.updated := rfl
@[simp] theorem emits_partners (s : State) (os : List Out) : (emits s os).partners = s.partners := rfl
@[simp] theorem emits_present (s : State) (os : List Out) : (emits s os).present = s.present := rfl
@[simp] theorem emits_arriving (s : State) (os : List Out) : (emits s os).arriving = s.arriving := rfl
@[simp] theorem emits_surveys (s : State) (os : List Out) : (emits s os).surveys = s.surveys := rfl
@[simp] theorem emits_deferred (s : State) (os : List Out) : (emits s os).deferred = s.deferred := rfl
@[simp] theorem emits_attn (s : State) (os : List Out) : (emits s os).attn = s.attn := rfl
@[simp] theorem emits_detachAt (s : State) (os : List Out) : (emits s os).detachAt = s.detachAt := rfl
@[simp] theorem emits_lostAt (s : State) (os : List Out) : (emits s os).lostAt = s.lostAt := rfl
@[simp] theorem emits_stated (s : State) (os : List Out) : (emits s os).stated = s.stated := rfl
@[simp] theorem emits_slots (s : State) (os : List Out) : (emits s os).slots = s.slots := rfl
@[simp] theorem emits_locks (s : State) (os : List Out) : (emits s os).locks = s.locks := rfl
@[simp] theorem emits_dbg (s : State) (os : List Out) : (emits s os).dbg = s.dbg := rfl
@[simp] theorem emits_ev (s : State) (os : List Out) : (emits s os).ev = s.ev := rfl
@[simp] theorem emits_alm (s : State) (os : List Out) : (emits s os).alm = s.alm := rfl
@[simp] theorem emits_cnt (s : State) (os : List Out) : (emits s os).cnt = s.cnt := rfl
@[simp] theorem emits_traces (s : State) (os : List Out) : (emits s os).traces = s.traces := rfl
@[simp] theorem emits_timers (s : State) (os : List Out) : (emits s os).timers = s.timers := rfl
@[simp] theorem emits_svc (s : State) (os : List Out) : (emits s os).svc = s.svc := rfl
@[simp] theorem emits_sec (s : State) (os : List Out) : (emits s os).sec = s.sec := rfl
@[simp] theorem emits_mer (s : State) (os : List Out) : (emits s os).mer = s.mer := rfl
@[simp] theorem emits_stw (s : State) (os : List Out) : (emits s os).stw = s.stw := rfl
@[simp] theorem emits_mctp (s : State) (os : List Out) : (emits s os).mctp = s.mctp := rfl
@[simp] theorem emits_legend (s : State) (os : List Out) : (emits s os).legend = s.legend := rfl
@[simp] theorem emits_fieldLock (s : State) (os : List Out) : (emits s os).fieldLock = s.fieldLock := rfl
@[simp] theorem emits_ts (s : State) (os : List Out) : (emits s os).ts = s.ts := rfl
@[simp] theorem emits_boot (s : State) (os : List Out) : (emits s os).boot = s.boot := rfl
@[simp] theorem emits_tsync (s : State) (os : List Out) : (emits s os).tsync = s.tsync := rfl
@[simp] theorem emits_frost (s : State) (os : List Out) : (emits s os).frost = s.frost := rfl
@[simp] theorem emits_settings (s : State) (os : List Out) : (emits s os).settings = s.settings := rfl
@[simp] theorem emits_portResets (s : State) (os : List Out) : (emits s os).portResets = s.portResets := rfl
@[simp] theorem emits_fabricRdy (s : State) (os : List Out) : (emits s os).fabricRdy = s.fabricRdy := rfl
@[simp] theorem emits_pinLow (s : State) (os : List Out) : (emits s os).pinLow = s.pinLow := rfl
@[simp] theorem emits_ledLast (s : State) (os : List Out) : (emits s os).ledLast = s.ledLast := rfl
@[simp] theorem emits_ledWhen (s : State) (os : List Out) : (emits s os).ledWhen = s.ledWhen := rfl
@[simp] theorem emits_ledPhase (s : State) (os : List Out) : (emits s os).ledPhase = s.ledPhase := rfl
@[simp] theorem emits_ledNext (s : State) (os : List Out) : (emits s os).ledNext = s.ledNext := rfl
@[simp] theorem emits_oppNow (s : State) (os : List Out) : (emits s os).oppNow = s.oppNow := rfl
@[simp] theorem emits_out (s : State) (os : List Out) : (emits s os).out = s.out ++ os := rfl

/-! setTab -/

@[simp] theorem setTab_lanes (s : State) (a b : Nat) (v : Entry) (n : Nat) : (setTab s a b v n).lanes = s.lanes := rfl
@[simp] theorem setTab_isls (s : State) (a b : Nat) (v : Entry) (n : Nat) : (setTab s a b v n).isls = s.isls := rfl
@[simp] theorem setTab_detaching (s : State) (a b : Nat) (v : Entry) (n : Nat) : (setTab s a b v n).detaching = s.detaching := rfl
@[simp] theorem setTab_lowSince (s : State) (a b : Nat) (v : Entry) (n : Nat) : (setTab s a b v n).lowSince = s.lowSince := rfl
@[simp] theorem setTab_refPair (s : State) (a b : Nat) (v : Entry) (n : Nat) : (setTab s a b v n).refPair = s.refPair := rfl
@[simp] theorem setTab_l0pWidth (s : State) (a b : Nat) (v : Entry) (n : Nat) : (setTab s a b v n).l0pWidth = s.l0pWidth := rfl
@[simp] theorem setTab_woken (s : State) (a b : Nat) (v : Entry) (n : Nat) : (setTab s a b v n).woken = s.woken := rfl
@[simp] theorem setTab_txns (s : State) (a b : Nat) (v : Entry) (n : Nat) : (setTab s a b v n).txns = s.txns := rfl
@[simp] theorem setTab_nextTxn (s : State) (a b : Nat) (v : Entry) (n : Nat) : (setTab s a b v n).nextTxn = s.nextTxn := rfl
@[simp] theorem setTab_routers (s : State) (a b : Nat) (v : Entry) (n : Nat) : (setTab s a b v n).routers = s.routers := rfl
@[simp] theorem setTab_streams (s : State) (a b : Nat) (v : Entry) (n : Nat) : (setTab s a b v n).streams = s.streams := rfl
@[simp] theorem setTab_early (s : State) (a b : Nat) (v : Entry) (n : Nat) : (setTab s a b v n).early = s.early := rfl
@[simp] theorem setTab_endps (s : State) (a b : Nat) (v : Entry) (n : Nat) : (setTab s a b v n).endps = s.endps := rfl
@[simp] theorem setTab_scheds (s : State) (a b : Nat) (v : Entry) (n : Nat) : (setTab s a b v n).scheds = s.scheds := rfl
@[simp] theorem setTab_paces (s : State) (a b : Nat) (v : Entry) (n : Nat) : (setTab s a b v n).paces = s.paces := rfl
@[simp] theorem setTab_thrs (s : State) (a b : Nat) (v : Entry) (n : Nat) : (setTab s a b v n).thrs = s.thrs := rfl
@[simp] theorem setTab_routeOld (s : State) (a b : Nat) (v : Entry) (n : Nat) : (setTab s a b v n).routeOld = s.routeOld := rfl
@[simp] theorem setTab_arrived (s : State) (a b : Nat) (v : Entry) (n : Nat) : (setTab s a b v n).arrived = s.arrived := rfl
@[simp] theorem setTab_islRet (s : State) (a b : Nat) (v : Entry) (n : Nat) : (setTab s a b v n).islRet = s.islRet := rfl
@[simp] theorem setTab_macUnits (s : State) (a b : Nat) (v : Entry) (n : Nat) : (setTab s a b v n).macUnits = s.macUnits := rfl
@[simp] theorem setTab_bridges (s : State) (a b : Nat) (v : Entry) (n : Nat) : (setTab s a b v n).bridges = s.bridges := rfl
@[simp] theorem setTab_decRegs (s : State) (a b : Nat) (v : Entry) (n : Nat) : (setTab s a b v n).decRegs = s.decRegs := rfl
@[simp] theorem setTab_granules (s : State) (a b : Nat) (v : Entry) (n : Nat) : (setTab s a b v n).granules = s.granules := rfl
@[simp] theorem setTab_poolLost (s : State) (a b : Nat) (v : Entry) (n : Nat) : (setTab s a b v n).poolLost = s.poolLost := rfl
@[simp] theorem setTab_member0 (s : State) (a b : Nat) (v : Entry) (n : Nat) : (setTab s a b v n).member0 = s.member0 := rfl
@[simp] theorem setTab_scrubs (s : State) (a b : Nat) (v : Entry) (n : Nat) : (setTab s a b v n).scrubs = s.scrubs := rfl
@[simp] theorem setTab_offers (s : State) (a b : Nat) (v : Entry) (n : Nat) : (setTab s a b v n).offers = s.offers := rfl
@[simp] theorem setTab_overdue (s : State) (a b : Nat) (v : Entry) (n : Nat) : (setTab s a b v n).overdue = s.overdue := rfl
@[simp] theorem setTab_presence (s : State) (a b : Nat) (v : Entry) (n : Nat) : (setTab s a b v n).presence = s.presence := rfl
@[simp] theorem setTab_vcsReset (s : State) (a b : Nat) (v : Entry) (n : Nat) : (setTab s a b v n).vcsReset = s.vcsReset := rfl
@[simp] theorem setTab_viral (s : State) (a b : Nat) (v : Entry) (n : Nat) : (setTab s a b v n).viral = s.viral := rfl
@[simp] theorem setTab_internals (s : State) (a b : Nat) (v : Entry) (n : Nat) : (setTab s a b v n).internals = s.internals := rfl
@[simp] theorem setTab_slices (s : State) (a b : Nat) (v : Entry) (n : Nat) : (setTab s a b v n).slices = s.slices := rfl
@[simp] theorem setTab_ways (s : State) (a b : Nat) (v : Entry) (n : Nat) : (setTab s a b v n).ways = s.ways := rfl
@[simp] theorem setTab_plru (s : State) (a b : Nat) (v : Entry) (n : Nat) : (setTab s a b v n).plru = s.plru := rfl
@[simp] theorem setTab_backing (s : State) (a b : Nat) (v : Entry) (n : Nat) : (setTab s a b v n).backing = s.backing := rfl
@[simp] theorem setTab_walks (s : State) (a b : Nat) (v : Entry) (n : Nat) : (setTab s a b v n).walks = s.walks := rfl
@[simp] theorem setTab_fwds (s : State) (a b : Nat) (v : Entry) (n : Nat) : (setTab s a b v n).fwds = s.fwds := rfl
@[simp] theorem setTab_lostWalked (s : State) (a b : Nat) (v : Entry) (n : Nat) : (setTab s a b v n).lostWalked = s.lostWalked := rfl
@[simp] theorem setTab_ideUp (s : State) (a b : Nat) (v : Entry) (n : Nat) : (setTab s a b v n).ideUp = s.ideUp := rfl
@[simp] theorem setTab_cxlCache (s : State) (a b : Nat) (v : Entry) (n : Nat) : (setTab s a b v n).cxlCache = s.cxlCache := rfl
@[simp] theorem setTab_noCxl (s : State) (a b : Nat) (v : Entry) (n : Nat) : (setTab s a b v n).noCxl = s.noCxl := rfl
@[simp] theorem setTab_biIds (s : State) (a b : Nat) (v : Entry) (n : Nat) : (setTab s a b v n).biIds = s.biIds := rfl
@[simp] theorem setTab_pending (s : State) (a b : Nat) (v : Entry) (n : Nat) : (setTab s a b v n).pending = s.pending := rfl
@[simp] theorem setTab_clock (s : State) (a b : Nat) (v : Entry) (n : Nat) : (setTab s a b v n).clock = s.clock := rfl
@[simp] theorem setTab_freeCtr (s : State) (a b : Nat) (v : Entry) (n : Nat) : (setTab s a b v n).freeCtr = s.freeCtr := rfl
@[simp] theorem setTab_out (s : State) (a b : Nat) (v : Entry) (n : Nat) : (setTab s a b v n).out = s.out := rfl
@[simp] theorem setTab_commitNum (s : State) (a b : Nat) (v : Entry) (n : Nat) : (setTab s a b v n).commitNum = s.commitNum := rfl
@[simp] theorem setTab_hbm (s : State) (a b : Nat) (v : Entry) (n : Nat) : (setTab s a b v n).hbm = s.hbm := rfl
@[simp] theorem setTab_engines (s : State) (a b : Nat) (v : Entry) (n : Nat) : (setTab s a b v n).engines = s.engines := rfl
@[simp] theorem setTab_arb (s : State) (a b : Nat) (v : Entry) (n : Nat) : (setTab s a b v n).arb = s.arb := rfl
@[simp] theorem setTab_rings (s : State) (a b : Nat) (v : Entry) (n : Nat) : (setTab s a b v n).rings = s.rings := rfl
@[simp] theorem setTab_ringTurn (s : State) (a b : Nat) (v : Entry) (n : Nat) : (setTab s a b v n).ringTurn = s.ringTurn := rfl
@[simp] theorem setTab_residents (s : State) (a b : Nat) (v : Entry) (n : Nat) : (setTab s a b v n).residents = s.residents := rfl
@[simp] theorem setTab_paused (s : State) (a b : Nat) (v : Entry) (n : Nat) : (setTab s a b v n).paused = s.paused := rfl
@[simp] theorem setTab_claims (s : State) (a b : Nat) (v : Entry) (n : Nat) : (setTab s a b v n).claims = s.claims := rfl
@[simp] theorem setTab_updated (s : State) (a b : Nat) (v : Entry) (n : Nat) : (setTab s a b v n).updated = s.updated := rfl
@[simp] theorem setTab_partners (s : State) (a b : Nat) (v : Entry) (n : Nat) : (setTab s a b v n).partners = s.partners := rfl
@[simp] theorem setTab_present (s : State) (a b : Nat) (v : Entry) (n : Nat) : (setTab s a b v n).present = s.present := rfl
@[simp] theorem setTab_arriving (s : State) (a b : Nat) (v : Entry) (n : Nat) : (setTab s a b v n).arriving = s.arriving := rfl
@[simp] theorem setTab_surveys (s : State) (a b : Nat) (v : Entry) (n : Nat) : (setTab s a b v n).surveys = s.surveys := rfl
@[simp] theorem setTab_deferred (s : State) (a b : Nat) (v : Entry) (n : Nat) : (setTab s a b v n).deferred = s.deferred := rfl
@[simp] theorem setTab_attn (s : State) (a b : Nat) (v : Entry) (n : Nat) : (setTab s a b v n).attn = s.attn := rfl
@[simp] theorem setTab_detachAt (s : State) (a b : Nat) (v : Entry) (n : Nat) : (setTab s a b v n).detachAt = s.detachAt := rfl
@[simp] theorem setTab_lostAt (s : State) (a b : Nat) (v : Entry) (n : Nat) : (setTab s a b v n).lostAt = s.lostAt := rfl
@[simp] theorem setTab_stated (s : State) (a b : Nat) (v : Entry) (n : Nat) : (setTab s a b v n).stated = s.stated := rfl
@[simp] theorem setTab_slots (s : State) (a b : Nat) (v : Entry) (n : Nat) : (setTab s a b v n).slots = s.slots := rfl
@[simp] theorem setTab_locks (s : State) (a b : Nat) (v : Entry) (n : Nat) : (setTab s a b v n).locks = s.locks := rfl
@[simp] theorem setTab_dbg (s : State) (a b : Nat) (v : Entry) (n : Nat) : (setTab s a b v n).dbg = s.dbg := rfl
@[simp] theorem setTab_ev (s : State) (a b : Nat) (v : Entry) (n : Nat) : (setTab s a b v n).ev = s.ev := rfl
@[simp] theorem setTab_alm (s : State) (a b : Nat) (v : Entry) (n : Nat) : (setTab s a b v n).alm = s.alm := rfl
@[simp] theorem setTab_cnt (s : State) (a b : Nat) (v : Entry) (n : Nat) : (setTab s a b v n).cnt = s.cnt := rfl
@[simp] theorem setTab_traces (s : State) (a b : Nat) (v : Entry) (n : Nat) : (setTab s a b v n).traces = s.traces := rfl
@[simp] theorem setTab_timers (s : State) (a b : Nat) (v : Entry) (n : Nat) : (setTab s a b v n).timers = s.timers := rfl
@[simp] theorem setTab_svc (s : State) (a b : Nat) (v : Entry) (n : Nat) : (setTab s a b v n).svc = s.svc := rfl
@[simp] theorem setTab_sec (s : State) (a b : Nat) (v : Entry) (n : Nat) : (setTab s a b v n).sec = s.sec := rfl
@[simp] theorem setTab_mer (s : State) (a b : Nat) (v : Entry) (n : Nat) : (setTab s a b v n).mer = s.mer := rfl
@[simp] theorem setTab_stw (s : State) (a b : Nat) (v : Entry) (n : Nat) : (setTab s a b v n).stw = s.stw := rfl
@[simp] theorem setTab_mctp (s : State) (a b : Nat) (v : Entry) (n : Nat) : (setTab s a b v n).mctp = s.mctp := rfl
@[simp] theorem setTab_legend (s : State) (a b : Nat) (v : Entry) (n : Nat) : (setTab s a b v n).legend = s.legend := rfl
@[simp] theorem setTab_fieldLock (s : State) (a b : Nat) (v : Entry) (n : Nat) : (setTab s a b v n).fieldLock = s.fieldLock := rfl
@[simp] theorem setTab_ts (s : State) (a b : Nat) (v : Entry) (n : Nat) : (setTab s a b v n).ts = s.ts := rfl
@[simp] theorem setTab_boot (s : State) (a b : Nat) (v : Entry) (n : Nat) : (setTab s a b v n).boot = s.boot := rfl
@[simp] theorem setTab_tsync (s : State) (a b : Nat) (v : Entry) (n : Nat) : (setTab s a b v n).tsync = s.tsync := rfl
@[simp] theorem setTab_frost (s : State) (a b : Nat) (v : Entry) (n : Nat) : (setTab s a b v n).frost = s.frost := rfl
@[simp] theorem setTab_settings (s : State) (a b : Nat) (v : Entry) (n : Nat) : (setTab s a b v n).settings = s.settings := rfl
@[simp] theorem setTab_portResets (s : State) (a b : Nat) (v : Entry) (n : Nat) : (setTab s a b v n).portResets = s.portResets := rfl
@[simp] theorem setTab_fabricRdy (s : State) (a b : Nat) (v : Entry) (n : Nat) : (setTab s a b v n).fabricRdy = s.fabricRdy := rfl
@[simp] theorem setTab_pinLow (s : State) (a b : Nat) (v : Entry) (n : Nat) : (setTab s a b v n).pinLow = s.pinLow := rfl
@[simp] theorem setTab_ledLast (s : State) (a b : Nat) (v : Entry) (n : Nat) : (setTab s a b v n).ledLast = s.ledLast := rfl
@[simp] theorem setTab_ledWhen (s : State) (a b : Nat) (v : Entry) (n : Nat) : (setTab s a b v n).ledWhen = s.ledWhen := rfl
@[simp] theorem setTab_ledPhase (s : State) (a b : Nat) (v : Entry) (n : Nat) : (setTab s a b v n).ledPhase = s.ledPhase := rfl
@[simp] theorem setTab_ledNext (s : State) (a b : Nat) (v : Entry) (n : Nat) : (setTab s a b v n).ledNext = s.ledNext := rfl
@[simp] theorem setTab_oppNow (s : State) (a b : Nat) (v : Entry) (n : Nat) : (setTab s a b v n).oppNow = s.oppNow := rfl
@[simp] theorem setTab_tab (s : State) (a b : Nat) (v : Entry) (n : Nat) : (setTab s a b v n).tab = tabStore s.tab (tkey a b) ⟨v, n⟩ := rfl

/-! setLive -/

@[simp] theorem setLive_lanes (s : State) (a b lo w v : Nat) : (setLive s a b lo w v).lanes = s.lanes := rfl
@[simp] theorem setLive_isls (s : State) (a b lo w v : Nat) : (setLive s a b lo w v).isls = s.isls := rfl
@[simp] theorem setLive_detaching (s : State) (a b lo w v : Nat) : (setLive s a b lo w v).detaching = s.detaching := rfl
@[simp] theorem setLive_lowSince (s : State) (a b lo w v : Nat) : (setLive s a b lo w v).lowSince = s.lowSince := rfl
@[simp] theorem setLive_refPair (s : State) (a b lo w v : Nat) : (setLive s a b lo w v).refPair = s.refPair := rfl
@[simp] theorem setLive_l0pWidth (s : State) (a b lo w v : Nat) : (setLive s a b lo w v).l0pWidth = s.l0pWidth := rfl
@[simp] theorem setLive_woken (s : State) (a b lo w v : Nat) : (setLive s a b lo w v).woken = s.woken := rfl
@[simp] theorem setLive_txns (s : State) (a b lo w v : Nat) : (setLive s a b lo w v).txns = s.txns := rfl
@[simp] theorem setLive_nextTxn (s : State) (a b lo w v : Nat) : (setLive s a b lo w v).nextTxn = s.nextTxn := rfl
@[simp] theorem setLive_routers (s : State) (a b lo w v : Nat) : (setLive s a b lo w v).routers = s.routers := rfl
@[simp] theorem setLive_streams (s : State) (a b lo w v : Nat) : (setLive s a b lo w v).streams = s.streams := rfl
@[simp] theorem setLive_early (s : State) (a b lo w v : Nat) : (setLive s a b lo w v).early = s.early := rfl
@[simp] theorem setLive_endps (s : State) (a b lo w v : Nat) : (setLive s a b lo w v).endps = s.endps := rfl
@[simp] theorem setLive_scheds (s : State) (a b lo w v : Nat) : (setLive s a b lo w v).scheds = s.scheds := rfl
@[simp] theorem setLive_paces (s : State) (a b lo w v : Nat) : (setLive s a b lo w v).paces = s.paces := rfl
@[simp] theorem setLive_thrs (s : State) (a b lo w v : Nat) : (setLive s a b lo w v).thrs = s.thrs := rfl
@[simp] theorem setLive_routeOld (s : State) (a b lo w v : Nat) : (setLive s a b lo w v).routeOld = s.routeOld := rfl
@[simp] theorem setLive_arrived (s : State) (a b lo w v : Nat) : (setLive s a b lo w v).arrived = s.arrived := rfl
@[simp] theorem setLive_islRet (s : State) (a b lo w v : Nat) : (setLive s a b lo w v).islRet = s.islRet := rfl
@[simp] theorem setLive_macUnits (s : State) (a b lo w v : Nat) : (setLive s a b lo w v).macUnits = s.macUnits := rfl
@[simp] theorem setLive_bridges (s : State) (a b lo w v : Nat) : (setLive s a b lo w v).bridges = s.bridges := rfl
@[simp] theorem setLive_decRegs (s : State) (a b lo w v : Nat) : (setLive s a b lo w v).decRegs = s.decRegs := rfl
@[simp] theorem setLive_granules (s : State) (a b lo w v : Nat) : (setLive s a b lo w v).granules = s.granules := rfl
@[simp] theorem setLive_poolLost (s : State) (a b lo w v : Nat) : (setLive s a b lo w v).poolLost = s.poolLost := rfl
@[simp] theorem setLive_member0 (s : State) (a b lo w v : Nat) : (setLive s a b lo w v).member0 = s.member0 := rfl
@[simp] theorem setLive_scrubs (s : State) (a b lo w v : Nat) : (setLive s a b lo w v).scrubs = s.scrubs := rfl
@[simp] theorem setLive_offers (s : State) (a b lo w v : Nat) : (setLive s a b lo w v).offers = s.offers := rfl
@[simp] theorem setLive_overdue (s : State) (a b lo w v : Nat) : (setLive s a b lo w v).overdue = s.overdue := rfl
@[simp] theorem setLive_presence (s : State) (a b lo w v : Nat) : (setLive s a b lo w v).presence = s.presence := rfl
@[simp] theorem setLive_vcsReset (s : State) (a b lo w v : Nat) : (setLive s a b lo w v).vcsReset = s.vcsReset := rfl
@[simp] theorem setLive_viral (s : State) (a b lo w v : Nat) : (setLive s a b lo w v).viral = s.viral := rfl
@[simp] theorem setLive_internals (s : State) (a b lo w v : Nat) : (setLive s a b lo w v).internals = s.internals := rfl
@[simp] theorem setLive_slices (s : State) (a b lo w v : Nat) : (setLive s a b lo w v).slices = s.slices := rfl
@[simp] theorem setLive_ways (s : State) (a b lo w v : Nat) : (setLive s a b lo w v).ways = s.ways := rfl
@[simp] theorem setLive_plru (s : State) (a b lo w v : Nat) : (setLive s a b lo w v).plru = s.plru := rfl
@[simp] theorem setLive_backing (s : State) (a b lo w v : Nat) : (setLive s a b lo w v).backing = s.backing := rfl
@[simp] theorem setLive_walks (s : State) (a b lo w v : Nat) : (setLive s a b lo w v).walks = s.walks := rfl
@[simp] theorem setLive_fwds (s : State) (a b lo w v : Nat) : (setLive s a b lo w v).fwds = s.fwds := rfl
@[simp] theorem setLive_lostWalked (s : State) (a b lo w v : Nat) : (setLive s a b lo w v).lostWalked = s.lostWalked := rfl
@[simp] theorem setLive_ideUp (s : State) (a b lo w v : Nat) : (setLive s a b lo w v).ideUp = s.ideUp := rfl
@[simp] theorem setLive_cxlCache (s : State) (a b lo w v : Nat) : (setLive s a b lo w v).cxlCache = s.cxlCache := rfl
@[simp] theorem setLive_noCxl (s : State) (a b lo w v : Nat) : (setLive s a b lo w v).noCxl = s.noCxl := rfl
@[simp] theorem setLive_biIds (s : State) (a b lo w v : Nat) : (setLive s a b lo w v).biIds = s.biIds := rfl
@[simp] theorem setLive_pending (s : State) (a b lo w v : Nat) : (setLive s a b lo w v).pending = s.pending := rfl
@[simp] theorem setLive_clock (s : State) (a b lo w v : Nat) : (setLive s a b lo w v).clock = s.clock := rfl
@[simp] theorem setLive_freeCtr (s : State) (a b lo w v : Nat) : (setLive s a b lo w v).freeCtr = s.freeCtr := rfl
@[simp] theorem setLive_out (s : State) (a b lo w v : Nat) : (setLive s a b lo w v).out = s.out := rfl
@[simp] theorem setLive_commitNum (s : State) (a b lo w v : Nat) : (setLive s a b lo w v).commitNum = s.commitNum := rfl
@[simp] theorem setLive_hbm (s : State) (a b lo w v : Nat) : (setLive s a b lo w v).hbm = s.hbm := rfl
@[simp] theorem setLive_engines (s : State) (a b lo w v : Nat) : (setLive s a b lo w v).engines = s.engines := rfl
@[simp] theorem setLive_arb (s : State) (a b lo w v : Nat) : (setLive s a b lo w v).arb = s.arb := rfl
@[simp] theorem setLive_rings (s : State) (a b lo w v : Nat) : (setLive s a b lo w v).rings = s.rings := rfl
@[simp] theorem setLive_ringTurn (s : State) (a b lo w v : Nat) : (setLive s a b lo w v).ringTurn = s.ringTurn := rfl
@[simp] theorem setLive_residents (s : State) (a b lo w v : Nat) : (setLive s a b lo w v).residents = s.residents := rfl
@[simp] theorem setLive_paused (s : State) (a b lo w v : Nat) : (setLive s a b lo w v).paused = s.paused := rfl
@[simp] theorem setLive_claims (s : State) (a b lo w v : Nat) : (setLive s a b lo w v).claims = s.claims := rfl
@[simp] theorem setLive_updated (s : State) (a b lo w v : Nat) : (setLive s a b lo w v).updated = s.updated := rfl
@[simp] theorem setLive_partners (s : State) (a b lo w v : Nat) : (setLive s a b lo w v).partners = s.partners := rfl
@[simp] theorem setLive_present (s : State) (a b lo w v : Nat) : (setLive s a b lo w v).present = s.present := rfl
@[simp] theorem setLive_arriving (s : State) (a b lo w v : Nat) : (setLive s a b lo w v).arriving = s.arriving := rfl
@[simp] theorem setLive_surveys (s : State) (a b lo w v : Nat) : (setLive s a b lo w v).surveys = s.surveys := rfl
@[simp] theorem setLive_deferred (s : State) (a b lo w v : Nat) : (setLive s a b lo w v).deferred = s.deferred := rfl
@[simp] theorem setLive_attn (s : State) (a b lo w v : Nat) : (setLive s a b lo w v).attn = s.attn := rfl
@[simp] theorem setLive_detachAt (s : State) (a b lo w v : Nat) : (setLive s a b lo w v).detachAt = s.detachAt := rfl
@[simp] theorem setLive_lostAt (s : State) (a b lo w v : Nat) : (setLive s a b lo w v).lostAt = s.lostAt := rfl
@[simp] theorem setLive_stated (s : State) (a b lo w v : Nat) : (setLive s a b lo w v).stated = s.stated := rfl
@[simp] theorem setLive_slots (s : State) (a b lo w v : Nat) : (setLive s a b lo w v).slots = s.slots := rfl
@[simp] theorem setLive_locks (s : State) (a b lo w v : Nat) : (setLive s a b lo w v).locks = s.locks := rfl
@[simp] theorem setLive_dbg (s : State) (a b lo w v : Nat) : (setLive s a b lo w v).dbg = s.dbg := rfl
@[simp] theorem setLive_ev (s : State) (a b lo w v : Nat) : (setLive s a b lo w v).ev = s.ev := rfl
@[simp] theorem setLive_alm (s : State) (a b lo w v : Nat) : (setLive s a b lo w v).alm = s.alm := rfl
@[simp] theorem setLive_cnt (s : State) (a b lo w v : Nat) : (setLive s a b lo w v).cnt = s.cnt := rfl
@[simp] theorem setLive_traces (s : State) (a b lo w v : Nat) : (setLive s a b lo w v).traces = s.traces := rfl
@[simp] theorem setLive_timers (s : State) (a b lo w v : Nat) : (setLive s a b lo w v).timers = s.timers := rfl
@[simp] theorem setLive_svc (s : State) (a b lo w v : Nat) : (setLive s a b lo w v).svc = s.svc := rfl
@[simp] theorem setLive_sec (s : State) (a b lo w v : Nat) : (setLive s a b lo w v).sec = s.sec := rfl
@[simp] theorem setLive_mer (s : State) (a b lo w v : Nat) : (setLive s a b lo w v).mer = s.mer := rfl
@[simp] theorem setLive_stw (s : State) (a b lo w v : Nat) : (setLive s a b lo w v).stw = s.stw := rfl
@[simp] theorem setLive_mctp (s : State) (a b lo w v : Nat) : (setLive s a b lo w v).mctp = s.mctp := rfl
@[simp] theorem setLive_legend (s : State) (a b lo w v : Nat) : (setLive s a b lo w v).legend = s.legend := rfl
@[simp] theorem setLive_fieldLock (s : State) (a b lo w v : Nat) : (setLive s a b lo w v).fieldLock = s.fieldLock := rfl
@[simp] theorem setLive_ts (s : State) (a b lo w v : Nat) : (setLive s a b lo w v).ts = s.ts := rfl
@[simp] theorem setLive_boot (s : State) (a b lo w v : Nat) : (setLive s a b lo w v).boot = s.boot := rfl
@[simp] theorem setLive_tsync (s : State) (a b lo w v : Nat) : (setLive s a b lo w v).tsync = s.tsync := rfl
@[simp] theorem setLive_frost (s : State) (a b lo w v : Nat) : (setLive s a b lo w v).frost = s.frost := rfl
@[simp] theorem setLive_settings (s : State) (a b lo w v : Nat) : (setLive s a b lo w v).settings = s.settings := rfl
@[simp] theorem setLive_portResets (s : State) (a b lo w v : Nat) : (setLive s a b lo w v).portResets = s.portResets := rfl
@[simp] theorem setLive_fabricRdy (s : State) (a b lo w v : Nat) : (setLive s a b lo w v).fabricRdy = s.fabricRdy := rfl
@[simp] theorem setLive_pinLow (s : State) (a b lo w v : Nat) : (setLive s a b lo w v).pinLow = s.pinLow := rfl
@[simp] theorem setLive_ledLast (s : State) (a b lo w v : Nat) : (setLive s a b lo w v).ledLast = s.ledLast := rfl
@[simp] theorem setLive_ledWhen (s : State) (a b lo w v : Nat) : (setLive s a b lo w v).ledWhen = s.ledWhen := rfl
@[simp] theorem setLive_ledPhase (s : State) (a b lo w v : Nat) : (setLive s a b lo w v).ledPhase = s.ledPhase := rfl
@[simp] theorem setLive_ledNext (s : State) (a b lo w v : Nat) : (setLive s a b lo w v).ledNext = s.ledNext := rfl
@[simp] theorem setLive_oppNow (s : State) (a b lo w v : Nat) : (setLive s a b lo w v).oppNow = s.oppNow := rfl

/-! setEngine -/

@[simp] theorem setEngine_lanes (s : State) (e : Nat) (x : Engine) : (setEngine s e x).lanes = s.lanes := rfl
@[simp] theorem setEngine_isls (s : State) (e : Nat) (x : Engine) : (setEngine s e x).isls = s.isls := rfl
@[simp] theorem setEngine_detaching (s : State) (e : Nat) (x : Engine) : (setEngine s e x).detaching = s.detaching := rfl
@[simp] theorem setEngine_lowSince (s : State) (e : Nat) (x : Engine) : (setEngine s e x).lowSince = s.lowSince := rfl
@[simp] theorem setEngine_refPair (s : State) (e : Nat) (x : Engine) : (setEngine s e x).refPair = s.refPair := rfl
@[simp] theorem setEngine_l0pWidth (s : State) (e : Nat) (x : Engine) : (setEngine s e x).l0pWidth = s.l0pWidth := rfl
@[simp] theorem setEngine_woken (s : State) (e : Nat) (x : Engine) : (setEngine s e x).woken = s.woken := rfl
@[simp] theorem setEngine_txns (s : State) (e : Nat) (x : Engine) : (setEngine s e x).txns = s.txns := rfl
@[simp] theorem setEngine_nextTxn (s : State) (e : Nat) (x : Engine) : (setEngine s e x).nextTxn = s.nextTxn := rfl
@[simp] theorem setEngine_routers (s : State) (e : Nat) (x : Engine) : (setEngine s e x).routers = s.routers := rfl
@[simp] theorem setEngine_streams (s : State) (e : Nat) (x : Engine) : (setEngine s e x).streams = s.streams := rfl
@[simp] theorem setEngine_early (s : State) (e : Nat) (x : Engine) : (setEngine s e x).early = s.early := rfl
@[simp] theorem setEngine_endps (s : State) (e : Nat) (x : Engine) : (setEngine s e x).endps = s.endps := rfl
@[simp] theorem setEngine_scheds (s : State) (e : Nat) (x : Engine) : (setEngine s e x).scheds = s.scheds := rfl
@[simp] theorem setEngine_paces (s : State) (e : Nat) (x : Engine) : (setEngine s e x).paces = s.paces := rfl
@[simp] theorem setEngine_thrs (s : State) (e : Nat) (x : Engine) : (setEngine s e x).thrs = s.thrs := rfl
@[simp] theorem setEngine_routeOld (s : State) (e : Nat) (x : Engine) : (setEngine s e x).routeOld = s.routeOld := rfl
@[simp] theorem setEngine_arrived (s : State) (e : Nat) (x : Engine) : (setEngine s e x).arrived = s.arrived := rfl
@[simp] theorem setEngine_islRet (s : State) (e : Nat) (x : Engine) : (setEngine s e x).islRet = s.islRet := rfl
@[simp] theorem setEngine_macUnits (s : State) (e : Nat) (x : Engine) : (setEngine s e x).macUnits = s.macUnits := rfl
@[simp] theorem setEngine_bridges (s : State) (e : Nat) (x : Engine) : (setEngine s e x).bridges = s.bridges := rfl
@[simp] theorem setEngine_decRegs (s : State) (e : Nat) (x : Engine) : (setEngine s e x).decRegs = s.decRegs := rfl
@[simp] theorem setEngine_granules (s : State) (e : Nat) (x : Engine) : (setEngine s e x).granules = s.granules := rfl
@[simp] theorem setEngine_poolLost (s : State) (e : Nat) (x : Engine) : (setEngine s e x).poolLost = s.poolLost := rfl
@[simp] theorem setEngine_member0 (s : State) (e : Nat) (x : Engine) : (setEngine s e x).member0 = s.member0 := rfl
@[simp] theorem setEngine_scrubs (s : State) (e : Nat) (x : Engine) : (setEngine s e x).scrubs = s.scrubs := rfl
@[simp] theorem setEngine_offers (s : State) (e : Nat) (x : Engine) : (setEngine s e x).offers = s.offers := rfl
@[simp] theorem setEngine_overdue (s : State) (e : Nat) (x : Engine) : (setEngine s e x).overdue = s.overdue := rfl
@[simp] theorem setEngine_presence (s : State) (e : Nat) (x : Engine) : (setEngine s e x).presence = s.presence := rfl
@[simp] theorem setEngine_vcsReset (s : State) (e : Nat) (x : Engine) : (setEngine s e x).vcsReset = s.vcsReset := rfl
@[simp] theorem setEngine_viral (s : State) (e : Nat) (x : Engine) : (setEngine s e x).viral = s.viral := rfl
@[simp] theorem setEngine_internals (s : State) (e : Nat) (x : Engine) : (setEngine s e x).internals = s.internals := rfl
@[simp] theorem setEngine_slices (s : State) (e : Nat) (x : Engine) : (setEngine s e x).slices = s.slices := rfl
@[simp] theorem setEngine_ways (s : State) (e : Nat) (x : Engine) : (setEngine s e x).ways = s.ways := rfl
@[simp] theorem setEngine_plru (s : State) (e : Nat) (x : Engine) : (setEngine s e x).plru = s.plru := rfl
@[simp] theorem setEngine_backing (s : State) (e : Nat) (x : Engine) : (setEngine s e x).backing = s.backing := rfl
@[simp] theorem setEngine_walks (s : State) (e : Nat) (x : Engine) : (setEngine s e x).walks = s.walks := rfl
@[simp] theorem setEngine_fwds (s : State) (e : Nat) (x : Engine) : (setEngine s e x).fwds = s.fwds := rfl
@[simp] theorem setEngine_lostWalked (s : State) (e : Nat) (x : Engine) : (setEngine s e x).lostWalked = s.lostWalked := rfl
@[simp] theorem setEngine_ideUp (s : State) (e : Nat) (x : Engine) : (setEngine s e x).ideUp = s.ideUp := rfl
@[simp] theorem setEngine_cxlCache (s : State) (e : Nat) (x : Engine) : (setEngine s e x).cxlCache = s.cxlCache := rfl
@[simp] theorem setEngine_noCxl (s : State) (e : Nat) (x : Engine) : (setEngine s e x).noCxl = s.noCxl := rfl
@[simp] theorem setEngine_biIds (s : State) (e : Nat) (x : Engine) : (setEngine s e x).biIds = s.biIds := rfl
@[simp] theorem setEngine_pending (s : State) (e : Nat) (x : Engine) : (setEngine s e x).pending = s.pending := rfl
@[simp] theorem setEngine_clock (s : State) (e : Nat) (x : Engine) : (setEngine s e x).clock = s.clock := rfl
@[simp] theorem setEngine_freeCtr (s : State) (e : Nat) (x : Engine) : (setEngine s e x).freeCtr = s.freeCtr := rfl
@[simp] theorem setEngine_out (s : State) (e : Nat) (x : Engine) : (setEngine s e x).out = s.out := rfl
@[simp] theorem setEngine_tab (s : State) (e : Nat) (x : Engine) : (setEngine s e x).tab = s.tab := rfl
@[simp] theorem setEngine_commitNum (s : State) (e : Nat) (x : Engine) : (setEngine s e x).commitNum = s.commitNum := rfl
@[simp] theorem setEngine_hbm (s : State) (e : Nat) (x : Engine) : (setEngine s e x).hbm = s.hbm := rfl
@[simp] theorem setEngine_arb (s : State) (e : Nat) (x : Engine) : (setEngine s e x).arb = s.arb := rfl
@[simp] theorem setEngine_rings (s : State) (e : Nat) (x : Engine) : (setEngine s e x).rings = s.rings := rfl
@[simp] theorem setEngine_ringTurn (s : State) (e : Nat) (x : Engine) : (setEngine s e x).ringTurn = s.ringTurn := rfl
@[simp] theorem setEngine_residents (s : State) (e : Nat) (x : Engine) : (setEngine s e x).residents = s.residents := rfl
@[simp] theorem setEngine_paused (s : State) (e : Nat) (x : Engine) : (setEngine s e x).paused = s.paused := rfl
@[simp] theorem setEngine_claims (s : State) (e : Nat) (x : Engine) : (setEngine s e x).claims = s.claims := rfl
@[simp] theorem setEngine_updated (s : State) (e : Nat) (x : Engine) : (setEngine s e x).updated = s.updated := rfl
@[simp] theorem setEngine_partners (s : State) (e : Nat) (x : Engine) : (setEngine s e x).partners = s.partners := rfl
@[simp] theorem setEngine_present (s : State) (e : Nat) (x : Engine) : (setEngine s e x).present = s.present := rfl
@[simp] theorem setEngine_arriving (s : State) (e : Nat) (x : Engine) : (setEngine s e x).arriving = s.arriving := rfl
@[simp] theorem setEngine_surveys (s : State) (e : Nat) (x : Engine) : (setEngine s e x).surveys = s.surveys := rfl
@[simp] theorem setEngine_deferred (s : State) (e : Nat) (x : Engine) : (setEngine s e x).deferred = s.deferred := rfl
@[simp] theorem setEngine_attn (s : State) (e : Nat) (x : Engine) : (setEngine s e x).attn = s.attn := rfl
@[simp] theorem setEngine_detachAt (s : State) (e : Nat) (x : Engine) : (setEngine s e x).detachAt = s.detachAt := rfl
@[simp] theorem setEngine_lostAt (s : State) (e : Nat) (x : Engine) : (setEngine s e x).lostAt = s.lostAt := rfl
@[simp] theorem setEngine_stated (s : State) (e : Nat) (x : Engine) : (setEngine s e x).stated = s.stated := rfl
@[simp] theorem setEngine_slots (s : State) (e : Nat) (x : Engine) : (setEngine s e x).slots = s.slots := rfl
@[simp] theorem setEngine_locks (s : State) (e : Nat) (x : Engine) : (setEngine s e x).locks = s.locks := rfl
@[simp] theorem setEngine_dbg (s : State) (e : Nat) (x : Engine) : (setEngine s e x).dbg = s.dbg := rfl
@[simp] theorem setEngine_ev (s : State) (e : Nat) (x : Engine) : (setEngine s e x).ev = s.ev := rfl
@[simp] theorem setEngine_alm (s : State) (e : Nat) (x : Engine) : (setEngine s e x).alm = s.alm := rfl
@[simp] theorem setEngine_cnt (s : State) (e : Nat) (x : Engine) : (setEngine s e x).cnt = s.cnt := rfl
@[simp] theorem setEngine_traces (s : State) (e : Nat) (x : Engine) : (setEngine s e x).traces = s.traces := rfl
@[simp] theorem setEngine_timers (s : State) (e : Nat) (x : Engine) : (setEngine s e x).timers = s.timers := rfl
@[simp] theorem setEngine_svc (s : State) (e : Nat) (x : Engine) : (setEngine s e x).svc = s.svc := rfl
@[simp] theorem setEngine_sec (s : State) (e : Nat) (x : Engine) : (setEngine s e x).sec = s.sec := rfl
@[simp] theorem setEngine_mer (s : State) (e : Nat) (x : Engine) : (setEngine s e x).mer = s.mer := rfl
@[simp] theorem setEngine_stw (s : State) (e : Nat) (x : Engine) : (setEngine s e x).stw = s.stw := rfl
@[simp] theorem setEngine_mctp (s : State) (e : Nat) (x : Engine) : (setEngine s e x).mctp = s.mctp := rfl
@[simp] theorem setEngine_legend (s : State) (e : Nat) (x : Engine) : (setEngine s e x).legend = s.legend := rfl
@[simp] theorem setEngine_fieldLock (s : State) (e : Nat) (x : Engine) : (setEngine s e x).fieldLock = s.fieldLock := rfl
@[simp] theorem setEngine_ts (s : State) (e : Nat) (x : Engine) : (setEngine s e x).ts = s.ts := rfl
@[simp] theorem setEngine_boot (s : State) (e : Nat) (x : Engine) : (setEngine s e x).boot = s.boot := rfl
@[simp] theorem setEngine_tsync (s : State) (e : Nat) (x : Engine) : (setEngine s e x).tsync = s.tsync := rfl
@[simp] theorem setEngine_frost (s : State) (e : Nat) (x : Engine) : (setEngine s e x).frost = s.frost := rfl
@[simp] theorem setEngine_settings (s : State) (e : Nat) (x : Engine) : (setEngine s e x).settings = s.settings := rfl
@[simp] theorem setEngine_portResets (s : State) (e : Nat) (x : Engine) : (setEngine s e x).portResets = s.portResets := rfl
@[simp] theorem setEngine_fabricRdy (s : State) (e : Nat) (x : Engine) : (setEngine s e x).fabricRdy = s.fabricRdy := rfl
@[simp] theorem setEngine_pinLow (s : State) (e : Nat) (x : Engine) : (setEngine s e x).pinLow = s.pinLow := rfl
@[simp] theorem setEngine_ledLast (s : State) (e : Nat) (x : Engine) : (setEngine s e x).ledLast = s.ledLast := rfl
@[simp] theorem setEngine_ledWhen (s : State) (e : Nat) (x : Engine) : (setEngine s e x).ledWhen = s.ledWhen := rfl
@[simp] theorem setEngine_ledPhase (s : State) (e : Nat) (x : Engine) : (setEngine s e x).ledPhase = s.ledPhase := rfl
@[simp] theorem setEngine_ledNext (s : State) (e : Nat) (x : Engine) : (setEngine s e x).ledNext = s.ledNext := rfl
@[simp] theorem setEngine_oppNow (s : State) (e : Nat) (x : Engine) : (setEngine s e x).oppNow = s.oppNow := rfl
@[simp] theorem setEngine_engines (s : State) (e : Nat) (x : Engine) : (setEngine s e x).engines = smSet {} s.engines e x := rfl

/-! hbmWrite -/

@[simp] theorem hbmWrite_lanes (s : State) (a : Nat) (bs : List Byte) : (hbmWrite s a bs).lanes = s.lanes := rfl
@[simp] theorem hbmWrite_isls (s : State) (a : Nat) (bs : List Byte) : (hbmWrite s a bs).isls = s.isls := rfl
@[simp] theorem hbmWrite_detaching (s : State) (a : Nat) (bs : List Byte) : (hbmWrite s a bs).detaching = s.detaching := rfl
@[simp] theorem hbmWrite_lowSince (s : State) (a : Nat) (bs : List Byte) : (hbmWrite s a bs).lowSince = s.lowSince := rfl
@[simp] theorem hbmWrite_refPair (s : State) (a : Nat) (bs : List Byte) : (hbmWrite s a bs).refPair = s.refPair := rfl
@[simp] theorem hbmWrite_l0pWidth (s : State) (a : Nat) (bs : List Byte) : (hbmWrite s a bs).l0pWidth = s.l0pWidth := rfl
@[simp] theorem hbmWrite_woken (s : State) (a : Nat) (bs : List Byte) : (hbmWrite s a bs).woken = s.woken := rfl
@[simp] theorem hbmWrite_txns (s : State) (a : Nat) (bs : List Byte) : (hbmWrite s a bs).txns = s.txns := rfl
@[simp] theorem hbmWrite_nextTxn (s : State) (a : Nat) (bs : List Byte) : (hbmWrite s a bs).nextTxn = s.nextTxn := rfl
@[simp] theorem hbmWrite_routers (s : State) (a : Nat) (bs : List Byte) : (hbmWrite s a bs).routers = s.routers := rfl
@[simp] theorem hbmWrite_streams (s : State) (a : Nat) (bs : List Byte) : (hbmWrite s a bs).streams = s.streams := rfl
@[simp] theorem hbmWrite_early (s : State) (a : Nat) (bs : List Byte) : (hbmWrite s a bs).early = s.early := rfl
@[simp] theorem hbmWrite_endps (s : State) (a : Nat) (bs : List Byte) : (hbmWrite s a bs).endps = s.endps := rfl
@[simp] theorem hbmWrite_scheds (s : State) (a : Nat) (bs : List Byte) : (hbmWrite s a bs).scheds = s.scheds := rfl
@[simp] theorem hbmWrite_paces (s : State) (a : Nat) (bs : List Byte) : (hbmWrite s a bs).paces = s.paces := rfl
@[simp] theorem hbmWrite_thrs (s : State) (a : Nat) (bs : List Byte) : (hbmWrite s a bs).thrs = s.thrs := rfl
@[simp] theorem hbmWrite_routeOld (s : State) (a : Nat) (bs : List Byte) : (hbmWrite s a bs).routeOld = s.routeOld := rfl
@[simp] theorem hbmWrite_arrived (s : State) (a : Nat) (bs : List Byte) : (hbmWrite s a bs).arrived = s.arrived := rfl
@[simp] theorem hbmWrite_islRet (s : State) (a : Nat) (bs : List Byte) : (hbmWrite s a bs).islRet = s.islRet := rfl
@[simp] theorem hbmWrite_macUnits (s : State) (a : Nat) (bs : List Byte) : (hbmWrite s a bs).macUnits = s.macUnits := rfl
@[simp] theorem hbmWrite_bridges (s : State) (a : Nat) (bs : List Byte) : (hbmWrite s a bs).bridges = s.bridges := rfl
@[simp] theorem hbmWrite_decRegs (s : State) (a : Nat) (bs : List Byte) : (hbmWrite s a bs).decRegs = s.decRegs := rfl
@[simp] theorem hbmWrite_granules (s : State) (a : Nat) (bs : List Byte) : (hbmWrite s a bs).granules = s.granules := rfl
@[simp] theorem hbmWrite_poolLost (s : State) (a : Nat) (bs : List Byte) : (hbmWrite s a bs).poolLost = s.poolLost := rfl
@[simp] theorem hbmWrite_member0 (s : State) (a : Nat) (bs : List Byte) : (hbmWrite s a bs).member0 = s.member0 := rfl
@[simp] theorem hbmWrite_scrubs (s : State) (a : Nat) (bs : List Byte) : (hbmWrite s a bs).scrubs = s.scrubs := rfl
@[simp] theorem hbmWrite_offers (s : State) (a : Nat) (bs : List Byte) : (hbmWrite s a bs).offers = s.offers := rfl
@[simp] theorem hbmWrite_overdue (s : State) (a : Nat) (bs : List Byte) : (hbmWrite s a bs).overdue = s.overdue := rfl
@[simp] theorem hbmWrite_presence (s : State) (a : Nat) (bs : List Byte) : (hbmWrite s a bs).presence = s.presence := rfl
@[simp] theorem hbmWrite_vcsReset (s : State) (a : Nat) (bs : List Byte) : (hbmWrite s a bs).vcsReset = s.vcsReset := rfl
@[simp] theorem hbmWrite_viral (s : State) (a : Nat) (bs : List Byte) : (hbmWrite s a bs).viral = s.viral := rfl
@[simp] theorem hbmWrite_internals (s : State) (a : Nat) (bs : List Byte) : (hbmWrite s a bs).internals = s.internals := rfl
@[simp] theorem hbmWrite_slices (s : State) (a : Nat) (bs : List Byte) : (hbmWrite s a bs).slices = s.slices := rfl
@[simp] theorem hbmWrite_ways (s : State) (a : Nat) (bs : List Byte) : (hbmWrite s a bs).ways = s.ways := rfl
@[simp] theorem hbmWrite_plru (s : State) (a : Nat) (bs : List Byte) : (hbmWrite s a bs).plru = s.plru := rfl
@[simp] theorem hbmWrite_backing (s : State) (a : Nat) (bs : List Byte) : (hbmWrite s a bs).backing = s.backing := rfl
@[simp] theorem hbmWrite_walks (s : State) (a : Nat) (bs : List Byte) : (hbmWrite s a bs).walks = s.walks := rfl
@[simp] theorem hbmWrite_fwds (s : State) (a : Nat) (bs : List Byte) : (hbmWrite s a bs).fwds = s.fwds := rfl
@[simp] theorem hbmWrite_lostWalked (s : State) (a : Nat) (bs : List Byte) : (hbmWrite s a bs).lostWalked = s.lostWalked := rfl
@[simp] theorem hbmWrite_ideUp (s : State) (a : Nat) (bs : List Byte) : (hbmWrite s a bs).ideUp = s.ideUp := rfl
@[simp] theorem hbmWrite_cxlCache (s : State) (a : Nat) (bs : List Byte) : (hbmWrite s a bs).cxlCache = s.cxlCache := rfl
@[simp] theorem hbmWrite_noCxl (s : State) (a : Nat) (bs : List Byte) : (hbmWrite s a bs).noCxl = s.noCxl := rfl
@[simp] theorem hbmWrite_biIds (s : State) (a : Nat) (bs : List Byte) : (hbmWrite s a bs).biIds = s.biIds := rfl
@[simp] theorem hbmWrite_pending (s : State) (a : Nat) (bs : List Byte) : (hbmWrite s a bs).pending = s.pending := rfl
@[simp] theorem hbmWrite_clock (s : State) (a : Nat) (bs : List Byte) : (hbmWrite s a bs).clock = s.clock := rfl
@[simp] theorem hbmWrite_freeCtr (s : State) (a : Nat) (bs : List Byte) : (hbmWrite s a bs).freeCtr = s.freeCtr := rfl
@[simp] theorem hbmWrite_out (s : State) (a : Nat) (bs : List Byte) : (hbmWrite s a bs).out = s.out := rfl
@[simp] theorem hbmWrite_tab (s : State) (a : Nat) (bs : List Byte) : (hbmWrite s a bs).tab = s.tab := rfl
@[simp] theorem hbmWrite_commitNum (s : State) (a : Nat) (bs : List Byte) : (hbmWrite s a bs).commitNum = s.commitNum := rfl
@[simp] theorem hbmWrite_engines (s : State) (a : Nat) (bs : List Byte) : (hbmWrite s a bs).engines = s.engines := rfl
@[simp] theorem hbmWrite_arb (s : State) (a : Nat) (bs : List Byte) : (hbmWrite s a bs).arb = s.arb := rfl
@[simp] theorem hbmWrite_rings (s : State) (a : Nat) (bs : List Byte) : (hbmWrite s a bs).rings = s.rings := rfl
@[simp] theorem hbmWrite_ringTurn (s : State) (a : Nat) (bs : List Byte) : (hbmWrite s a bs).ringTurn = s.ringTurn := rfl
@[simp] theorem hbmWrite_residents (s : State) (a : Nat) (bs : List Byte) : (hbmWrite s a bs).residents = s.residents := rfl
@[simp] theorem hbmWrite_paused (s : State) (a : Nat) (bs : List Byte) : (hbmWrite s a bs).paused = s.paused := rfl
@[simp] theorem hbmWrite_claims (s : State) (a : Nat) (bs : List Byte) : (hbmWrite s a bs).claims = s.claims := rfl
@[simp] theorem hbmWrite_updated (s : State) (a : Nat) (bs : List Byte) : (hbmWrite s a bs).updated = s.updated := rfl
@[simp] theorem hbmWrite_partners (s : State) (a : Nat) (bs : List Byte) : (hbmWrite s a bs).partners = s.partners := rfl
@[simp] theorem hbmWrite_present (s : State) (a : Nat) (bs : List Byte) : (hbmWrite s a bs).present = s.present := rfl
@[simp] theorem hbmWrite_arriving (s : State) (a : Nat) (bs : List Byte) : (hbmWrite s a bs).arriving = s.arriving := rfl
@[simp] theorem hbmWrite_surveys (s : State) (a : Nat) (bs : List Byte) : (hbmWrite s a bs).surveys = s.surveys := rfl
@[simp] theorem hbmWrite_deferred (s : State) (a : Nat) (bs : List Byte) : (hbmWrite s a bs).deferred = s.deferred := rfl
@[simp] theorem hbmWrite_attn (s : State) (a : Nat) (bs : List Byte) : (hbmWrite s a bs).attn = s.attn := rfl
@[simp] theorem hbmWrite_detachAt (s : State) (a : Nat) (bs : List Byte) : (hbmWrite s a bs).detachAt = s.detachAt := rfl
@[simp] theorem hbmWrite_lostAt (s : State) (a : Nat) (bs : List Byte) : (hbmWrite s a bs).lostAt = s.lostAt := rfl
@[simp] theorem hbmWrite_stated (s : State) (a : Nat) (bs : List Byte) : (hbmWrite s a bs).stated = s.stated := rfl
@[simp] theorem hbmWrite_slots (s : State) (a : Nat) (bs : List Byte) : (hbmWrite s a bs).slots = s.slots := rfl
@[simp] theorem hbmWrite_locks (s : State) (a : Nat) (bs : List Byte) : (hbmWrite s a bs).locks = s.locks := rfl
@[simp] theorem hbmWrite_dbg (s : State) (a : Nat) (bs : List Byte) : (hbmWrite s a bs).dbg = s.dbg := rfl
@[simp] theorem hbmWrite_ev (s : State) (a : Nat) (bs : List Byte) : (hbmWrite s a bs).ev = s.ev := rfl
@[simp] theorem hbmWrite_alm (s : State) (a : Nat) (bs : List Byte) : (hbmWrite s a bs).alm = s.alm := rfl
@[simp] theorem hbmWrite_cnt (s : State) (a : Nat) (bs : List Byte) : (hbmWrite s a bs).cnt = s.cnt := rfl
@[simp] theorem hbmWrite_traces (s : State) (a : Nat) (bs : List Byte) : (hbmWrite s a bs).traces = s.traces := rfl
@[simp] theorem hbmWrite_timers (s : State) (a : Nat) (bs : List Byte) : (hbmWrite s a bs).timers = s.timers := rfl
@[simp] theorem hbmWrite_svc (s : State) (a : Nat) (bs : List Byte) : (hbmWrite s a bs).svc = s.svc := rfl
@[simp] theorem hbmWrite_sec (s : State) (a : Nat) (bs : List Byte) : (hbmWrite s a bs).sec = s.sec := rfl
@[simp] theorem hbmWrite_mer (s : State) (a : Nat) (bs : List Byte) : (hbmWrite s a bs).mer = s.mer := rfl
@[simp] theorem hbmWrite_stw (s : State) (a : Nat) (bs : List Byte) : (hbmWrite s a bs).stw = s.stw := rfl
@[simp] theorem hbmWrite_mctp (s : State) (a : Nat) (bs : List Byte) : (hbmWrite s a bs).mctp = s.mctp := rfl
@[simp] theorem hbmWrite_legend (s : State) (a : Nat) (bs : List Byte) : (hbmWrite s a bs).legend = s.legend := rfl
@[simp] theorem hbmWrite_fieldLock (s : State) (a : Nat) (bs : List Byte) : (hbmWrite s a bs).fieldLock = s.fieldLock := rfl
@[simp] theorem hbmWrite_ts (s : State) (a : Nat) (bs : List Byte) : (hbmWrite s a bs).ts = s.ts := rfl
@[simp] theorem hbmWrite_boot (s : State) (a : Nat) (bs : List Byte) : (hbmWrite s a bs).boot = s.boot := rfl
@[simp] theorem hbmWrite_tsync (s : State) (a : Nat) (bs : List Byte) : (hbmWrite s a bs).tsync = s.tsync := rfl
@[simp] theorem hbmWrite_frost (s : State) (a : Nat) (bs : List Byte) : (hbmWrite s a bs).frost = s.frost := rfl
@[simp] theorem hbmWrite_settings (s : State) (a : Nat) (bs : List Byte) : (hbmWrite s a bs).settings = s.settings := rfl
@[simp] theorem hbmWrite_portResets (s : State) (a : Nat) (bs : List Byte) : (hbmWrite s a bs).portResets = s.portResets := rfl
@[simp] theorem hbmWrite_fabricRdy (s : State) (a : Nat) (bs : List Byte) : (hbmWrite s a bs).fabricRdy = s.fabricRdy := rfl
@[simp] theorem hbmWrite_pinLow (s : State) (a : Nat) (bs : List Byte) : (hbmWrite s a bs).pinLow = s.pinLow := rfl
@[simp] theorem hbmWrite_ledLast (s : State) (a : Nat) (bs : List Byte) : (hbmWrite s a bs).ledLast = s.ledLast := rfl
@[simp] theorem hbmWrite_ledWhen (s : State) (a : Nat) (bs : List Byte) : (hbmWrite s a bs).ledWhen = s.ledWhen := rfl
@[simp] theorem hbmWrite_ledPhase (s : State) (a : Nat) (bs : List Byte) : (hbmWrite s a bs).ledPhase = s.ledPhase := rfl
@[simp] theorem hbmWrite_ledNext (s : State) (a : Nat) (bs : List Byte) : (hbmWrite s a bs).ledNext = s.ledNext := rfl
@[simp] theorem hbmWrite_oppNow (s : State) (a : Nat) (bs : List Byte) : (hbmWrite s a bs).oppNow = s.oppNow := rfl
@[simp] theorem hbmWrite_hbm (s : State) (a : Nat) (bs : List Byte) : (hbmWrite s a bs).hbm = smSetRun 0 s.hbm a bs := rfl

/-! setClaim -/

@[simp] theorem setClaim_lanes (s : State) (i v : Nat) : (setClaim s i v).lanes = s.lanes := rfl
@[simp] theorem setClaim_isls (s : State) (i v : Nat) : (setClaim s i v).isls = s.isls := rfl
@[simp] theorem setClaim_detaching (s : State) (i v : Nat) : (setClaim s i v).detaching = s.detaching := rfl
@[simp] theorem setClaim_lowSince (s : State) (i v : Nat) : (setClaim s i v).lowSince = s.lowSince := rfl
@[simp] theorem setClaim_refPair (s : State) (i v : Nat) : (setClaim s i v).refPair = s.refPair := rfl
@[simp] theorem setClaim_l0pWidth (s : State) (i v : Nat) : (setClaim s i v).l0pWidth = s.l0pWidth := rfl
@[simp] theorem setClaim_woken (s : State) (i v : Nat) : (setClaim s i v).woken = s.woken := rfl
@[simp] theorem setClaim_txns (s : State) (i v : Nat) : (setClaim s i v).txns = s.txns := rfl
@[simp] theorem setClaim_nextTxn (s : State) (i v : Nat) : (setClaim s i v).nextTxn = s.nextTxn := rfl
@[simp] theorem setClaim_routers (s : State) (i v : Nat) : (setClaim s i v).routers = s.routers := rfl
@[simp] theorem setClaim_streams (s : State) (i v : Nat) : (setClaim s i v).streams = s.streams := rfl
@[simp] theorem setClaim_early (s : State) (i v : Nat) : (setClaim s i v).early = s.early := rfl
@[simp] theorem setClaim_endps (s : State) (i v : Nat) : (setClaim s i v).endps = s.endps := rfl
@[simp] theorem setClaim_scheds (s : State) (i v : Nat) : (setClaim s i v).scheds = s.scheds := rfl
@[simp] theorem setClaim_paces (s : State) (i v : Nat) : (setClaim s i v).paces = s.paces := rfl
@[simp] theorem setClaim_thrs (s : State) (i v : Nat) : (setClaim s i v).thrs = s.thrs := rfl
@[simp] theorem setClaim_routeOld (s : State) (i v : Nat) : (setClaim s i v).routeOld = s.routeOld := rfl
@[simp] theorem setClaim_arrived (s : State) (i v : Nat) : (setClaim s i v).arrived = s.arrived := rfl
@[simp] theorem setClaim_islRet (s : State) (i v : Nat) : (setClaim s i v).islRet = s.islRet := rfl
@[simp] theorem setClaim_macUnits (s : State) (i v : Nat) : (setClaim s i v).macUnits = s.macUnits := rfl
@[simp] theorem setClaim_bridges (s : State) (i v : Nat) : (setClaim s i v).bridges = s.bridges := rfl
@[simp] theorem setClaim_decRegs (s : State) (i v : Nat) : (setClaim s i v).decRegs = s.decRegs := rfl
@[simp] theorem setClaim_granules (s : State) (i v : Nat) : (setClaim s i v).granules = s.granules := rfl
@[simp] theorem setClaim_poolLost (s : State) (i v : Nat) : (setClaim s i v).poolLost = s.poolLost := rfl
@[simp] theorem setClaim_member0 (s : State) (i v : Nat) : (setClaim s i v).member0 = s.member0 := rfl
@[simp] theorem setClaim_scrubs (s : State) (i v : Nat) : (setClaim s i v).scrubs = s.scrubs := rfl
@[simp] theorem setClaim_offers (s : State) (i v : Nat) : (setClaim s i v).offers = s.offers := rfl
@[simp] theorem setClaim_overdue (s : State) (i v : Nat) : (setClaim s i v).overdue = s.overdue := rfl
@[simp] theorem setClaim_presence (s : State) (i v : Nat) : (setClaim s i v).presence = s.presence := rfl
@[simp] theorem setClaim_vcsReset (s : State) (i v : Nat) : (setClaim s i v).vcsReset = s.vcsReset := rfl
@[simp] theorem setClaim_viral (s : State) (i v : Nat) : (setClaim s i v).viral = s.viral := rfl
@[simp] theorem setClaim_internals (s : State) (i v : Nat) : (setClaim s i v).internals = s.internals := rfl
@[simp] theorem setClaim_slices (s : State) (i v : Nat) : (setClaim s i v).slices = s.slices := rfl
@[simp] theorem setClaim_ways (s : State) (i v : Nat) : (setClaim s i v).ways = s.ways := rfl
@[simp] theorem setClaim_plru (s : State) (i v : Nat) : (setClaim s i v).plru = s.plru := rfl
@[simp] theorem setClaim_backing (s : State) (i v : Nat) : (setClaim s i v).backing = s.backing := rfl
@[simp] theorem setClaim_walks (s : State) (i v : Nat) : (setClaim s i v).walks = s.walks := rfl
@[simp] theorem setClaim_fwds (s : State) (i v : Nat) : (setClaim s i v).fwds = s.fwds := rfl
@[simp] theorem setClaim_lostWalked (s : State) (i v : Nat) : (setClaim s i v).lostWalked = s.lostWalked := rfl
@[simp] theorem setClaim_ideUp (s : State) (i v : Nat) : (setClaim s i v).ideUp = s.ideUp := rfl
@[simp] theorem setClaim_cxlCache (s : State) (i v : Nat) : (setClaim s i v).cxlCache = s.cxlCache := rfl
@[simp] theorem setClaim_noCxl (s : State) (i v : Nat) : (setClaim s i v).noCxl = s.noCxl := rfl
@[simp] theorem setClaim_biIds (s : State) (i v : Nat) : (setClaim s i v).biIds = s.biIds := rfl
@[simp] theorem setClaim_pending (s : State) (i v : Nat) : (setClaim s i v).pending = s.pending := rfl
@[simp] theorem setClaim_clock (s : State) (i v : Nat) : (setClaim s i v).clock = s.clock := rfl
@[simp] theorem setClaim_freeCtr (s : State) (i v : Nat) : (setClaim s i v).freeCtr = s.freeCtr := rfl
@[simp] theorem setClaim_out (s : State) (i v : Nat) : (setClaim s i v).out = s.out := rfl
@[simp] theorem setClaim_tab (s : State) (i v : Nat) : (setClaim s i v).tab = s.tab := rfl
@[simp] theorem setClaim_commitNum (s : State) (i v : Nat) : (setClaim s i v).commitNum = s.commitNum := rfl
@[simp] theorem setClaim_hbm (s : State) (i v : Nat) : (setClaim s i v).hbm = s.hbm := rfl
@[simp] theorem setClaim_engines (s : State) (i v : Nat) : (setClaim s i v).engines = s.engines := rfl
@[simp] theorem setClaim_arb (s : State) (i v : Nat) : (setClaim s i v).arb = s.arb := rfl
@[simp] theorem setClaim_rings (s : State) (i v : Nat) : (setClaim s i v).rings = s.rings := rfl
@[simp] theorem setClaim_ringTurn (s : State) (i v : Nat) : (setClaim s i v).ringTurn = s.ringTurn := rfl
@[simp] theorem setClaim_residents (s : State) (i v : Nat) : (setClaim s i v).residents = s.residents := rfl
@[simp] theorem setClaim_paused (s : State) (i v : Nat) : (setClaim s i v).paused = s.paused := rfl
@[simp] theorem setClaim_updated (s : State) (i v : Nat) : (setClaim s i v).updated = s.updated := rfl
@[simp] theorem setClaim_partners (s : State) (i v : Nat) : (setClaim s i v).partners = s.partners := rfl
@[simp] theorem setClaim_present (s : State) (i v : Nat) : (setClaim s i v).present = s.present := rfl
@[simp] theorem setClaim_arriving (s : State) (i v : Nat) : (setClaim s i v).arriving = s.arriving := rfl
@[simp] theorem setClaim_surveys (s : State) (i v : Nat) : (setClaim s i v).surveys = s.surveys := rfl
@[simp] theorem setClaim_deferred (s : State) (i v : Nat) : (setClaim s i v).deferred = s.deferred := rfl
@[simp] theorem setClaim_attn (s : State) (i v : Nat) : (setClaim s i v).attn = s.attn := rfl
@[simp] theorem setClaim_detachAt (s : State) (i v : Nat) : (setClaim s i v).detachAt = s.detachAt := rfl
@[simp] theorem setClaim_lostAt (s : State) (i v : Nat) : (setClaim s i v).lostAt = s.lostAt := rfl
@[simp] theorem setClaim_stated (s : State) (i v : Nat) : (setClaim s i v).stated = s.stated := rfl
@[simp] theorem setClaim_slots (s : State) (i v : Nat) : (setClaim s i v).slots = s.slots := rfl
@[simp] theorem setClaim_locks (s : State) (i v : Nat) : (setClaim s i v).locks = s.locks := rfl
@[simp] theorem setClaim_dbg (s : State) (i v : Nat) : (setClaim s i v).dbg = s.dbg := rfl
@[simp] theorem setClaim_ev (s : State) (i v : Nat) : (setClaim s i v).ev = s.ev := rfl
@[simp] theorem setClaim_alm (s : State) (i v : Nat) : (setClaim s i v).alm = s.alm := rfl
@[simp] theorem setClaim_cnt (s : State) (i v : Nat) : (setClaim s i v).cnt = s.cnt := rfl
@[simp] theorem setClaim_traces (s : State) (i v : Nat) : (setClaim s i v).traces = s.traces := rfl
@[simp] theorem setClaim_timers (s : State) (i v : Nat) : (setClaim s i v).timers = s.timers := rfl
@[simp] theorem setClaim_svc (s : State) (i v : Nat) : (setClaim s i v).svc = s.svc := rfl
@[simp] theorem setClaim_sec (s : State) (i v : Nat) : (setClaim s i v).sec = s.sec := rfl
@[simp] theorem setClaim_mer (s : State) (i v : Nat) : (setClaim s i v).mer = s.mer := rfl
@[simp] theorem setClaim_stw (s : State) (i v : Nat) : (setClaim s i v).stw = s.stw := rfl
@[simp] theorem setClaim_mctp (s : State) (i v : Nat) : (setClaim s i v).mctp = s.mctp := rfl
@[simp] theorem setClaim_legend (s : State) (i v : Nat) : (setClaim s i v).legend = s.legend := rfl
@[simp] theorem setClaim_fieldLock (s : State) (i v : Nat) : (setClaim s i v).fieldLock = s.fieldLock := rfl
@[simp] theorem setClaim_ts (s : State) (i v : Nat) : (setClaim s i v).ts = s.ts := rfl
@[simp] theorem setClaim_boot (s : State) (i v : Nat) : (setClaim s i v).boot = s.boot := rfl
@[simp] theorem setClaim_tsync (s : State) (i v : Nat) : (setClaim s i v).tsync = s.tsync := rfl
@[simp] theorem setClaim_frost (s : State) (i v : Nat) : (setClaim s i v).frost = s.frost := rfl
@[simp] theorem setClaim_settings (s : State) (i v : Nat) : (setClaim s i v).settings = s.settings := rfl
@[simp] theorem setClaim_portResets (s : State) (i v : Nat) : (setClaim s i v).portResets = s.portResets := rfl
@[simp] theorem setClaim_fabricRdy (s : State) (i v : Nat) : (setClaim s i v).fabricRdy = s.fabricRdy := rfl
@[simp] theorem setClaim_pinLow (s : State) (i v : Nat) : (setClaim s i v).pinLow = s.pinLow := rfl
@[simp] theorem setClaim_ledLast (s : State) (i v : Nat) : (setClaim s i v).ledLast = s.ledLast := rfl
@[simp] theorem setClaim_ledWhen (s : State) (i v : Nat) : (setClaim s i v).ledWhen = s.ledWhen := rfl
@[simp] theorem setClaim_ledPhase (s : State) (i v : Nat) : (setClaim s i v).ledPhase = s.ledPhase := rfl
@[simp] theorem setClaim_ledNext (s : State) (i v : Nat) : (setClaim s i v).ledNext = s.ledNext := rfl
@[simp] theorem setClaim_oppNow (s : State) (i v : Nat) : (setClaim s i v).oppNow = s.oppNow := rfl
@[simp] theorem setClaim_claims (s : State) (i v : Nat) : (setClaim s i v).claims = smSet 0xFFFF s.claims i v := rfl

/-! tick -/

@[simp] theorem tick_lanes (s : State) : (tick s).lanes = s.lanes := rfl
@[simp] theorem tick_isls (s : State) : (tick s).isls = s.isls := rfl
@[simp] theorem tick_detaching (s : State) : (tick s).detaching = s.detaching := rfl
@[simp] theorem tick_lowSince (s : State) : (tick s).lowSince = s.lowSince := rfl
@[simp] theorem tick_refPair (s : State) : (tick s).refPair = s.refPair := rfl
@[simp] theorem tick_l0pWidth (s : State) : (tick s).l0pWidth = s.l0pWidth := rfl
@[simp] theorem tick_woken (s : State) : (tick s).woken = s.woken := rfl
@[simp] theorem tick_txns (s : State) : (tick s).txns = s.txns := rfl
@[simp] theorem tick_nextTxn (s : State) : (tick s).nextTxn = s.nextTxn := rfl
@[simp] theorem tick_routers (s : State) : (tick s).routers = s.routers := rfl
@[simp] theorem tick_streams (s : State) : (tick s).streams = s.streams := rfl
@[simp] theorem tick_early (s : State) : (tick s).early = s.early := rfl
@[simp] theorem tick_endps (s : State) : (tick s).endps = s.endps := rfl
@[simp] theorem tick_scheds (s : State) : (tick s).scheds = s.scheds := rfl
@[simp] theorem tick_paces (s : State) : (tick s).paces = s.paces := rfl
@[simp] theorem tick_thrs (s : State) : (tick s).thrs = s.thrs := rfl
@[simp] theorem tick_routeOld (s : State) : (tick s).routeOld = s.routeOld := rfl
@[simp] theorem tick_arrived (s : State) : (tick s).arrived = s.arrived := rfl
@[simp] theorem tick_islRet (s : State) : (tick s).islRet = s.islRet := rfl
@[simp] theorem tick_macUnits (s : State) : (tick s).macUnits = s.macUnits := rfl
@[simp] theorem tick_bridges (s : State) : (tick s).bridges = s.bridges := rfl
@[simp] theorem tick_decRegs (s : State) : (tick s).decRegs = s.decRegs := rfl
@[simp] theorem tick_granules (s : State) : (tick s).granules = s.granules := rfl
@[simp] theorem tick_poolLost (s : State) : (tick s).poolLost = s.poolLost := rfl
@[simp] theorem tick_member0 (s : State) : (tick s).member0 = s.member0 := rfl
@[simp] theorem tick_scrubs (s : State) : (tick s).scrubs = s.scrubs := rfl
@[simp] theorem tick_offers (s : State) : (tick s).offers = s.offers := rfl
@[simp] theorem tick_overdue (s : State) : (tick s).overdue = s.overdue := rfl
@[simp] theorem tick_presence (s : State) : (tick s).presence = s.presence := rfl
@[simp] theorem tick_vcsReset (s : State) : (tick s).vcsReset = s.vcsReset := rfl
@[simp] theorem tick_viral (s : State) : (tick s).viral = s.viral := rfl
@[simp] theorem tick_internals (s : State) : (tick s).internals = s.internals := rfl
@[simp] theorem tick_slices (s : State) : (tick s).slices = s.slices := rfl
@[simp] theorem tick_ways (s : State) : (tick s).ways = s.ways := rfl
@[simp] theorem tick_plru (s : State) : (tick s).plru = s.plru := rfl
@[simp] theorem tick_backing (s : State) : (tick s).backing = s.backing := rfl
@[simp] theorem tick_walks (s : State) : (tick s).walks = s.walks := rfl
@[simp] theorem tick_fwds (s : State) : (tick s).fwds = s.fwds := rfl
@[simp] theorem tick_lostWalked (s : State) : (tick s).lostWalked = s.lostWalked := rfl
@[simp] theorem tick_ideUp (s : State) : (tick s).ideUp = s.ideUp := rfl
@[simp] theorem tick_cxlCache (s : State) : (tick s).cxlCache = s.cxlCache := rfl
@[simp] theorem tick_noCxl (s : State) : (tick s).noCxl = s.noCxl := rfl
@[simp] theorem tick_biIds (s : State) : (tick s).biIds = s.biIds := rfl
@[simp] theorem tick_pending (s : State) : (tick s).pending = s.pending := rfl
@[simp] theorem tick_clock (s : State) : (tick s).clock = s.clock := rfl
@[simp] theorem tick_out (s : State) : (tick s).out = s.out := rfl
@[simp] theorem tick_tab (s : State) : (tick s).tab = s.tab := rfl
@[simp] theorem tick_commitNum (s : State) : (tick s).commitNum = s.commitNum := rfl
@[simp] theorem tick_hbm (s : State) : (tick s).hbm = s.hbm := rfl
@[simp] theorem tick_engines (s : State) : (tick s).engines = s.engines := rfl
@[simp] theorem tick_arb (s : State) : (tick s).arb = s.arb := rfl
@[simp] theorem tick_rings (s : State) : (tick s).rings = s.rings := rfl
@[simp] theorem tick_ringTurn (s : State) : (tick s).ringTurn = s.ringTurn := rfl
@[simp] theorem tick_residents (s : State) : (tick s).residents = s.residents := rfl
@[simp] theorem tick_paused (s : State) : (tick s).paused = s.paused := rfl
@[simp] theorem tick_claims (s : State) : (tick s).claims = s.claims := rfl
@[simp] theorem tick_updated (s : State) : (tick s).updated = s.updated := rfl
@[simp] theorem tick_partners (s : State) : (tick s).partners = s.partners := rfl
@[simp] theorem tick_present (s : State) : (tick s).present = s.present := rfl
@[simp] theorem tick_arriving (s : State) : (tick s).arriving = s.arriving := rfl
@[simp] theorem tick_surveys (s : State) : (tick s).surveys = s.surveys := rfl
@[simp] theorem tick_deferred (s : State) : (tick s).deferred = s.deferred := rfl
@[simp] theorem tick_attn (s : State) : (tick s).attn = s.attn := rfl
@[simp] theorem tick_detachAt (s : State) : (tick s).detachAt = s.detachAt := rfl
@[simp] theorem tick_lostAt (s : State) : (tick s).lostAt = s.lostAt := rfl
@[simp] theorem tick_stated (s : State) : (tick s).stated = s.stated := rfl
@[simp] theorem tick_slots (s : State) : (tick s).slots = s.slots := rfl
@[simp] theorem tick_locks (s : State) : (tick s).locks = s.locks := rfl
@[simp] theorem tick_dbg (s : State) : (tick s).dbg = s.dbg := rfl
@[simp] theorem tick_ev (s : State) : (tick s).ev = s.ev := rfl
@[simp] theorem tick_alm (s : State) : (tick s).alm = s.alm := rfl
@[simp] theorem tick_cnt (s : State) : (tick s).cnt = s.cnt := rfl
@[simp] theorem tick_traces (s : State) : (tick s).traces = s.traces := rfl
@[simp] theorem tick_timers (s : State) : (tick s).timers = s.timers := rfl
@[simp] theorem tick_svc (s : State) : (tick s).svc = s.svc := rfl
@[simp] theorem tick_sec (s : State) : (tick s).sec = s.sec := rfl
@[simp] theorem tick_mer (s : State) : (tick s).mer = s.mer := rfl
@[simp] theorem tick_stw (s : State) : (tick s).stw = s.stw := rfl
@[simp] theorem tick_mctp (s : State) : (tick s).mctp = s.mctp := rfl
@[simp] theorem tick_legend (s : State) : (tick s).legend = s.legend := rfl
@[simp] theorem tick_fieldLock (s : State) : (tick s).fieldLock = s.fieldLock := rfl
@[simp] theorem tick_ts (s : State) : (tick s).ts = s.ts := rfl
@[simp] theorem tick_boot (s : State) : (tick s).boot = s.boot := rfl
@[simp] theorem tick_tsync (s : State) : (tick s).tsync = s.tsync := rfl
@[simp] theorem tick_frost (s : State) : (tick s).frost = s.frost := rfl
@[simp] theorem tick_settings (s : State) : (tick s).settings = s.settings := rfl
@[simp] theorem tick_portResets (s : State) : (tick s).portResets = s.portResets := rfl
@[simp] theorem tick_fabricRdy (s : State) : (tick s).fabricRdy = s.fabricRdy := rfl
@[simp] theorem tick_pinLow (s : State) : (tick s).pinLow = s.pinLow := rfl
@[simp] theorem tick_ledLast (s : State) : (tick s).ledLast = s.ledLast := rfl
@[simp] theorem tick_ledWhen (s : State) : (tick s).ledWhen = s.ledWhen := rfl
@[simp] theorem tick_ledPhase (s : State) : (tick s).ledPhase = s.ledPhase := rfl
@[simp] theorem tick_ledNext (s : State) : (tick s).ledNext = s.ledNext := rfl
@[simp] theorem tick_oppNow (s : State) : (tick s).oppNow = s.oppNow := rfl
@[simp] theorem tick_freeCtr (s : State) : (tick s).freeCtr = s.freeCtr + 1 := rfl

/-! count -/

@[simp] theorem count_lanes (s : State) (i n : Nat) : (count s i n).lanes = s.lanes := rfl
@[simp] theorem count_isls (s : State) (i n : Nat) : (count s i n).isls = s.isls := rfl
@[simp] theorem count_detaching (s : State) (i n : Nat) : (count s i n).detaching = s.detaching := rfl
@[simp] theorem count_lowSince (s : State) (i n : Nat) : (count s i n).lowSince = s.lowSince := rfl
@[simp] theorem count_refPair (s : State) (i n : Nat) : (count s i n).refPair = s.refPair := rfl
@[simp] theorem count_l0pWidth (s : State) (i n : Nat) : (count s i n).l0pWidth = s.l0pWidth := rfl
@[simp] theorem count_woken (s : State) (i n : Nat) : (count s i n).woken = s.woken := rfl
@[simp] theorem count_txns (s : State) (i n : Nat) : (count s i n).txns = s.txns := rfl
@[simp] theorem count_nextTxn (s : State) (i n : Nat) : (count s i n).nextTxn = s.nextTxn := rfl
@[simp] theorem count_routers (s : State) (i n : Nat) : (count s i n).routers = s.routers := rfl
@[simp] theorem count_streams (s : State) (i n : Nat) : (count s i n).streams = s.streams := rfl
@[simp] theorem count_early (s : State) (i n : Nat) : (count s i n).early = s.early := rfl
@[simp] theorem count_endps (s : State) (i n : Nat) : (count s i n).endps = s.endps := rfl
@[simp] theorem count_scheds (s : State) (i n : Nat) : (count s i n).scheds = s.scheds := rfl
@[simp] theorem count_paces (s : State) (i n : Nat) : (count s i n).paces = s.paces := rfl
@[simp] theorem count_thrs (s : State) (i n : Nat) : (count s i n).thrs = s.thrs := rfl
@[simp] theorem count_routeOld (s : State) (i n : Nat) : (count s i n).routeOld = s.routeOld := rfl
@[simp] theorem count_arrived (s : State) (i n : Nat) : (count s i n).arrived = s.arrived := rfl
@[simp] theorem count_islRet (s : State) (i n : Nat) : (count s i n).islRet = s.islRet := rfl
@[simp] theorem count_macUnits (s : State) (i n : Nat) : (count s i n).macUnits = s.macUnits := rfl
@[simp] theorem count_bridges (s : State) (i n : Nat) : (count s i n).bridges = s.bridges := rfl
@[simp] theorem count_decRegs (s : State) (i n : Nat) : (count s i n).decRegs = s.decRegs := rfl
@[simp] theorem count_granules (s : State) (i n : Nat) : (count s i n).granules = s.granules := rfl
@[simp] theorem count_poolLost (s : State) (i n : Nat) : (count s i n).poolLost = s.poolLost := rfl
@[simp] theorem count_member0 (s : State) (i n : Nat) : (count s i n).member0 = s.member0 := rfl
@[simp] theorem count_scrubs (s : State) (i n : Nat) : (count s i n).scrubs = s.scrubs := rfl
@[simp] theorem count_offers (s : State) (i n : Nat) : (count s i n).offers = s.offers := rfl
@[simp] theorem count_overdue (s : State) (i n : Nat) : (count s i n).overdue = s.overdue := rfl
@[simp] theorem count_presence (s : State) (i n : Nat) : (count s i n).presence = s.presence := rfl
@[simp] theorem count_vcsReset (s : State) (i n : Nat) : (count s i n).vcsReset = s.vcsReset := rfl
@[simp] theorem count_viral (s : State) (i n : Nat) : (count s i n).viral = s.viral := rfl
@[simp] theorem count_internals (s : State) (i n : Nat) : (count s i n).internals = s.internals := rfl
@[simp] theorem count_slices (s : State) (i n : Nat) : (count s i n).slices = s.slices := rfl
@[simp] theorem count_ways (s : State) (i n : Nat) : (count s i n).ways = s.ways := rfl
@[simp] theorem count_plru (s : State) (i n : Nat) : (count s i n).plru = s.plru := rfl
@[simp] theorem count_backing (s : State) (i n : Nat) : (count s i n).backing = s.backing := rfl
@[simp] theorem count_walks (s : State) (i n : Nat) : (count s i n).walks = s.walks := rfl
@[simp] theorem count_fwds (s : State) (i n : Nat) : (count s i n).fwds = s.fwds := rfl
@[simp] theorem count_lostWalked (s : State) (i n : Nat) : (count s i n).lostWalked = s.lostWalked := rfl
@[simp] theorem count_ideUp (s : State) (i n : Nat) : (count s i n).ideUp = s.ideUp := rfl
@[simp] theorem count_cxlCache (s : State) (i n : Nat) : (count s i n).cxlCache = s.cxlCache := rfl
@[simp] theorem count_noCxl (s : State) (i n : Nat) : (count s i n).noCxl = s.noCxl := rfl
@[simp] theorem count_biIds (s : State) (i n : Nat) : (count s i n).biIds = s.biIds := rfl
@[simp] theorem count_pending (s : State) (i n : Nat) : (count s i n).pending = s.pending := rfl
@[simp] theorem count_clock (s : State) (i n : Nat) : (count s i n).clock = s.clock := rfl
@[simp] theorem count_freeCtr (s : State) (i n : Nat) : (count s i n).freeCtr = s.freeCtr := rfl
@[simp] theorem count_out (s : State) (i n : Nat) : (count s i n).out = s.out := rfl
@[simp] theorem count_tab (s : State) (i n : Nat) : (count s i n).tab = s.tab := rfl
@[simp] theorem count_commitNum (s : State) (i n : Nat) : (count s i n).commitNum = s.commitNum := rfl
@[simp] theorem count_hbm (s : State) (i n : Nat) : (count s i n).hbm = s.hbm := rfl
@[simp] theorem count_engines (s : State) (i n : Nat) : (count s i n).engines = s.engines := rfl
@[simp] theorem count_arb (s : State) (i n : Nat) : (count s i n).arb = s.arb := rfl
@[simp] theorem count_rings (s : State) (i n : Nat) : (count s i n).rings = s.rings := rfl
@[simp] theorem count_ringTurn (s : State) (i n : Nat) : (count s i n).ringTurn = s.ringTurn := rfl
@[simp] theorem count_residents (s : State) (i n : Nat) : (count s i n).residents = s.residents := rfl
@[simp] theorem count_paused (s : State) (i n : Nat) : (count s i n).paused = s.paused := rfl
@[simp] theorem count_claims (s : State) (i n : Nat) : (count s i n).claims = s.claims := rfl
@[simp] theorem count_updated (s : State) (i n : Nat) : (count s i n).updated = s.updated := rfl
@[simp] theorem count_partners (s : State) (i n : Nat) : (count s i n).partners = s.partners := rfl
@[simp] theorem count_present (s : State) (i n : Nat) : (count s i n).present = s.present := rfl
@[simp] theorem count_arriving (s : State) (i n : Nat) : (count s i n).arriving = s.arriving := rfl
@[simp] theorem count_surveys (s : State) (i n : Nat) : (count s i n).surveys = s.surveys := rfl
@[simp] theorem count_deferred (s : State) (i n : Nat) : (count s i n).deferred = s.deferred := rfl
@[simp] theorem count_attn (s : State) (i n : Nat) : (count s i n).attn = s.attn := rfl
@[simp] theorem count_detachAt (s : State) (i n : Nat) : (count s i n).detachAt = s.detachAt := rfl
@[simp] theorem count_lostAt (s : State) (i n : Nat) : (count s i n).lostAt = s.lostAt := rfl
@[simp] theorem count_stated (s : State) (i n : Nat) : (count s i n).stated = s.stated := rfl
@[simp] theorem count_slots (s : State) (i n : Nat) : (count s i n).slots = s.slots := rfl
@[simp] theorem count_locks (s : State) (i n : Nat) : (count s i n).locks = s.locks := rfl
@[simp] theorem count_dbg (s : State) (i n : Nat) : (count s i n).dbg = s.dbg := rfl
@[simp] theorem count_ev (s : State) (i n : Nat) : (count s i n).ev = s.ev := rfl
@[simp] theorem count_alm (s : State) (i n : Nat) : (count s i n).alm = s.alm := rfl
@[simp] theorem count_traces (s : State) (i n : Nat) : (count s i n).traces = s.traces := rfl
@[simp] theorem count_timers (s : State) (i n : Nat) : (count s i n).timers = s.timers := rfl
@[simp] theorem count_svc (s : State) (i n : Nat) : (count s i n).svc = s.svc := rfl
@[simp] theorem count_sec (s : State) (i n : Nat) : (count s i n).sec = s.sec := rfl
@[simp] theorem count_mer (s : State) (i n : Nat) : (count s i n).mer = s.mer := rfl
@[simp] theorem count_stw (s : State) (i n : Nat) : (count s i n).stw = s.stw := rfl
@[simp] theorem count_mctp (s : State) (i n : Nat) : (count s i n).mctp = s.mctp := rfl
@[simp] theorem count_legend (s : State) (i n : Nat) : (count s i n).legend = s.legend := rfl
@[simp] theorem count_fieldLock (s : State) (i n : Nat) : (count s i n).fieldLock = s.fieldLock := rfl
@[simp] theorem count_ts (s : State) (i n : Nat) : (count s i n).ts = s.ts := rfl
@[simp] theorem count_boot (s : State) (i n : Nat) : (count s i n).boot = s.boot := rfl
@[simp] theorem count_tsync (s : State) (i n : Nat) : (count s i n).tsync = s.tsync := rfl
@[simp] theorem count_frost (s : State) (i n : Nat) : (count s i n).frost = s.frost := rfl
@[simp] theorem count_settings (s : State) (i n : Nat) : (count s i n).settings = s.settings := rfl
@[simp] theorem count_portResets (s : State) (i n : Nat) : (count s i n).portResets = s.portResets := rfl
@[simp] theorem count_fabricRdy (s : State) (i n : Nat) : (count s i n).fabricRdy = s.fabricRdy := rfl
@[simp] theorem count_pinLow (s : State) (i n : Nat) : (count s i n).pinLow = s.pinLow := rfl
@[simp] theorem count_ledLast (s : State) (i n : Nat) : (count s i n).ledLast = s.ledLast := rfl
@[simp] theorem count_ledWhen (s : State) (i n : Nat) : (count s i n).ledWhen = s.ledWhen := rfl
@[simp] theorem count_ledPhase (s : State) (i n : Nat) : (count s i n).ledPhase = s.ledPhase := rfl
@[simp] theorem count_ledNext (s : State) (i n : Nat) : (count s i n).ledNext = s.ledNext := rfl
@[simp] theorem count_oppNow (s : State) (i n : Nat) : (count s i n).oppNow = s.oppNow := rfl
@[simp] theorem count_cnt (s : State) (i n : Nat) : (count s i n).cnt = bump s.tab s.cnt i n := rfl

/-! peak -/

@[simp] theorem peak_lanes (s : State) (i v : Nat) : (peak s i v).lanes = s.lanes := by unfold peak; split <;> rfl
@[simp] theorem peak_isls (s : State) (i v : Nat) : (peak s i v).isls = s.isls := by unfold peak; split <;> rfl
@[simp] theorem peak_detaching (s : State) (i v : Nat) : (peak s i v).detaching = s.detaching := by unfold peak; split <;> rfl
@[simp] theorem peak_lowSince (s : State) (i v : Nat) : (peak s i v).lowSince = s.lowSince := by unfold peak; split <;> rfl
@[simp] theorem peak_refPair (s : State) (i v : Nat) : (peak s i v).refPair = s.refPair := by unfold peak; split <;> rfl
@[simp] theorem peak_l0pWidth (s : State) (i v : Nat) : (peak s i v).l0pWidth = s.l0pWidth := by unfold peak; split <;> rfl
@[simp] theorem peak_woken (s : State) (i v : Nat) : (peak s i v).woken = s.woken := by unfold peak; split <;> rfl
@[simp] theorem peak_txns (s : State) (i v : Nat) : (peak s i v).txns = s.txns := by unfold peak; split <;> rfl
@[simp] theorem peak_nextTxn (s : State) (i v : Nat) : (peak s i v).nextTxn = s.nextTxn := by unfold peak; split <;> rfl
@[simp] theorem peak_routers (s : State) (i v : Nat) : (peak s i v).routers = s.routers := by unfold peak; split <;> rfl
@[simp] theorem peak_streams (s : State) (i v : Nat) : (peak s i v).streams = s.streams := by unfold peak; split <;> rfl
@[simp] theorem peak_early (s : State) (i v : Nat) : (peak s i v).early = s.early := by unfold peak; split <;> rfl
@[simp] theorem peak_endps (s : State) (i v : Nat) : (peak s i v).endps = s.endps := by unfold peak; split <;> rfl
@[simp] theorem peak_scheds (s : State) (i v : Nat) : (peak s i v).scheds = s.scheds := by unfold peak; split <;> rfl
@[simp] theorem peak_paces (s : State) (i v : Nat) : (peak s i v).paces = s.paces := by unfold peak; split <;> rfl
@[simp] theorem peak_thrs (s : State) (i v : Nat) : (peak s i v).thrs = s.thrs := by unfold peak; split <;> rfl
@[simp] theorem peak_routeOld (s : State) (i v : Nat) : (peak s i v).routeOld = s.routeOld := by unfold peak; split <;> rfl
@[simp] theorem peak_arrived (s : State) (i v : Nat) : (peak s i v).arrived = s.arrived := by unfold peak; split <;> rfl
@[simp] theorem peak_islRet (s : State) (i v : Nat) : (peak s i v).islRet = s.islRet := by unfold peak; split <;> rfl
@[simp] theorem peak_macUnits (s : State) (i v : Nat) : (peak s i v).macUnits = s.macUnits := by unfold peak; split <;> rfl
@[simp] theorem peak_bridges (s : State) (i v : Nat) : (peak s i v).bridges = s.bridges := by unfold peak; split <;> rfl
@[simp] theorem peak_decRegs (s : State) (i v : Nat) : (peak s i v).decRegs = s.decRegs := by unfold peak; split <;> rfl
@[simp] theorem peak_granules (s : State) (i v : Nat) : (peak s i v).granules = s.granules := by unfold peak; split <;> rfl
@[simp] theorem peak_poolLost (s : State) (i v : Nat) : (peak s i v).poolLost = s.poolLost := by unfold peak; split <;> rfl
@[simp] theorem peak_member0 (s : State) (i v : Nat) : (peak s i v).member0 = s.member0 := by unfold peak; split <;> rfl
@[simp] theorem peak_scrubs (s : State) (i v : Nat) : (peak s i v).scrubs = s.scrubs := by unfold peak; split <;> rfl
@[simp] theorem peak_offers (s : State) (i v : Nat) : (peak s i v).offers = s.offers := by unfold peak; split <;> rfl
@[simp] theorem peak_overdue (s : State) (i v : Nat) : (peak s i v).overdue = s.overdue := by unfold peak; split <;> rfl
@[simp] theorem peak_presence (s : State) (i v : Nat) : (peak s i v).presence = s.presence := by unfold peak; split <;> rfl
@[simp] theorem peak_vcsReset (s : State) (i v : Nat) : (peak s i v).vcsReset = s.vcsReset := by unfold peak; split <;> rfl
@[simp] theorem peak_viral (s : State) (i v : Nat) : (peak s i v).viral = s.viral := by unfold peak; split <;> rfl
@[simp] theorem peak_internals (s : State) (i v : Nat) : (peak s i v).internals = s.internals := by unfold peak; split <;> rfl
@[simp] theorem peak_slices (s : State) (i v : Nat) : (peak s i v).slices = s.slices := by unfold peak; split <;> rfl
@[simp] theorem peak_ways (s : State) (i v : Nat) : (peak s i v).ways = s.ways := by unfold peak; split <;> rfl
@[simp] theorem peak_plru (s : State) (i v : Nat) : (peak s i v).plru = s.plru := by unfold peak; split <;> rfl
@[simp] theorem peak_backing (s : State) (i v : Nat) : (peak s i v).backing = s.backing := by unfold peak; split <;> rfl
@[simp] theorem peak_walks (s : State) (i v : Nat) : (peak s i v).walks = s.walks := by unfold peak; split <;> rfl
@[simp] theorem peak_fwds (s : State) (i v : Nat) : (peak s i v).fwds = s.fwds := by unfold peak; split <;> rfl
@[simp] theorem peak_lostWalked (s : State) (i v : Nat) : (peak s i v).lostWalked = s.lostWalked := by unfold peak; split <;> rfl
@[simp] theorem peak_ideUp (s : State) (i v : Nat) : (peak s i v).ideUp = s.ideUp := by unfold peak; split <;> rfl
@[simp] theorem peak_cxlCache (s : State) (i v : Nat) : (peak s i v).cxlCache = s.cxlCache := by unfold peak; split <;> rfl
@[simp] theorem peak_noCxl (s : State) (i v : Nat) : (peak s i v).noCxl = s.noCxl := by unfold peak; split <;> rfl
@[simp] theorem peak_biIds (s : State) (i v : Nat) : (peak s i v).biIds = s.biIds := by unfold peak; split <;> rfl
@[simp] theorem peak_pending (s : State) (i v : Nat) : (peak s i v).pending = s.pending := by unfold peak; split <;> rfl
@[simp] theorem peak_clock (s : State) (i v : Nat) : (peak s i v).clock = s.clock := by unfold peak; split <;> rfl
@[simp] theorem peak_freeCtr (s : State) (i v : Nat) : (peak s i v).freeCtr = s.freeCtr := by unfold peak; split <;> rfl
@[simp] theorem peak_out (s : State) (i v : Nat) : (peak s i v).out = s.out := by unfold peak; split <;> rfl
@[simp] theorem peak_tab (s : State) (i v : Nat) : (peak s i v).tab = s.tab := by unfold peak; split <;> rfl
@[simp] theorem peak_commitNum (s : State) (i v : Nat) : (peak s i v).commitNum = s.commitNum := by unfold peak; split <;> rfl
@[simp] theorem peak_hbm (s : State) (i v : Nat) : (peak s i v).hbm = s.hbm := by unfold peak; split <;> rfl
@[simp] theorem peak_engines (s : State) (i v : Nat) : (peak s i v).engines = s.engines := by unfold peak; split <;> rfl
@[simp] theorem peak_arb (s : State) (i v : Nat) : (peak s i v).arb = s.arb := by unfold peak; split <;> rfl
@[simp] theorem peak_rings (s : State) (i v : Nat) : (peak s i v).rings = s.rings := by unfold peak; split <;> rfl
@[simp] theorem peak_ringTurn (s : State) (i v : Nat) : (peak s i v).ringTurn = s.ringTurn := by unfold peak; split <;> rfl
@[simp] theorem peak_residents (s : State) (i v : Nat) : (peak s i v).residents = s.residents := by unfold peak; split <;> rfl
@[simp] theorem peak_paused (s : State) (i v : Nat) : (peak s i v).paused = s.paused := by unfold peak; split <;> rfl
@[simp] theorem peak_claims (s : State) (i v : Nat) : (peak s i v).claims = s.claims := by unfold peak; split <;> rfl
@[simp] theorem peak_updated (s : State) (i v : Nat) : (peak s i v).updated = s.updated := by unfold peak; split <;> rfl
@[simp] theorem peak_partners (s : State) (i v : Nat) : (peak s i v).partners = s.partners := by unfold peak; split <;> rfl
@[simp] theorem peak_present (s : State) (i v : Nat) : (peak s i v).present = s.present := by unfold peak; split <;> rfl
@[simp] theorem peak_arriving (s : State) (i v : Nat) : (peak s i v).arriving = s.arriving := by unfold peak; split <;> rfl
@[simp] theorem peak_surveys (s : State) (i v : Nat) : (peak s i v).surveys = s.surveys := by unfold peak; split <;> rfl
@[simp] theorem peak_deferred (s : State) (i v : Nat) : (peak s i v).deferred = s.deferred := by unfold peak; split <;> rfl
@[simp] theorem peak_attn (s : State) (i v : Nat) : (peak s i v).attn = s.attn := by unfold peak; split <;> rfl
@[simp] theorem peak_detachAt (s : State) (i v : Nat) : (peak s i v).detachAt = s.detachAt := by unfold peak; split <;> rfl
@[simp] theorem peak_lostAt (s : State) (i v : Nat) : (peak s i v).lostAt = s.lostAt := by unfold peak; split <;> rfl
@[simp] theorem peak_stated (s : State) (i v : Nat) : (peak s i v).stated = s.stated := by unfold peak; split <;> rfl
@[simp] theorem peak_slots (s : State) (i v : Nat) : (peak s i v).slots = s.slots := by unfold peak; split <;> rfl
@[simp] theorem peak_locks (s : State) (i v : Nat) : (peak s i v).locks = s.locks := by unfold peak; split <;> rfl
@[simp] theorem peak_dbg (s : State) (i v : Nat) : (peak s i v).dbg = s.dbg := by unfold peak; split <;> rfl
@[simp] theorem peak_ev (s : State) (i v : Nat) : (peak s i v).ev = s.ev := by unfold peak; split <;> rfl
@[simp] theorem peak_alm (s : State) (i v : Nat) : (peak s i v).alm = s.alm := by unfold peak; split <;> rfl
@[simp] theorem peak_traces (s : State) (i v : Nat) : (peak s i v).traces = s.traces := by unfold peak; split <;> rfl
@[simp] theorem peak_timers (s : State) (i v : Nat) : (peak s i v).timers = s.timers := by unfold peak; split <;> rfl
@[simp] theorem peak_svc (s : State) (i v : Nat) : (peak s i v).svc = s.svc := by unfold peak; split <;> rfl
@[simp] theorem peak_sec (s : State) (i v : Nat) : (peak s i v).sec = s.sec := by unfold peak; split <;> rfl
@[simp] theorem peak_mer (s : State) (i v : Nat) : (peak s i v).mer = s.mer := by unfold peak; split <;> rfl
@[simp] theorem peak_stw (s : State) (i v : Nat) : (peak s i v).stw = s.stw := by unfold peak; split <;> rfl
@[simp] theorem peak_mctp (s : State) (i v : Nat) : (peak s i v).mctp = s.mctp := by unfold peak; split <;> rfl
@[simp] theorem peak_legend (s : State) (i v : Nat) : (peak s i v).legend = s.legend := by unfold peak; split <;> rfl
@[simp] theorem peak_fieldLock (s : State) (i v : Nat) : (peak s i v).fieldLock = s.fieldLock := by unfold peak; split <;> rfl
@[simp] theorem peak_ts (s : State) (i v : Nat) : (peak s i v).ts = s.ts := by unfold peak; split <;> rfl
@[simp] theorem peak_boot (s : State) (i v : Nat) : (peak s i v).boot = s.boot := by unfold peak; split <;> rfl
@[simp] theorem peak_tsync (s : State) (i v : Nat) : (peak s i v).tsync = s.tsync := by unfold peak; split <;> rfl
@[simp] theorem peak_frost (s : State) (i v : Nat) : (peak s i v).frost = s.frost := by unfold peak; split <;> rfl
@[simp] theorem peak_settings (s : State) (i v : Nat) : (peak s i v).settings = s.settings := by unfold peak; split <;> rfl
@[simp] theorem peak_portResets (s : State) (i v : Nat) : (peak s i v).portResets = s.portResets := by unfold peak; split <;> rfl
@[simp] theorem peak_fabricRdy (s : State) (i v : Nat) : (peak s i v).fabricRdy = s.fabricRdy := by unfold peak; split <;> rfl
@[simp] theorem peak_pinLow (s : State) (i v : Nat) : (peak s i v).pinLow = s.pinLow := by unfold peak; split <;> rfl
@[simp] theorem peak_ledLast (s : State) (i v : Nat) : (peak s i v).ledLast = s.ledLast := by unfold peak; split <;> rfl
@[simp] theorem peak_ledWhen (s : State) (i v : Nat) : (peak s i v).ledWhen = s.ledWhen := by unfold peak; split <;> rfl
@[simp] theorem peak_ledPhase (s : State) (i v : Nat) : (peak s i v).ledPhase = s.ledPhase := by unfold peak; split <;> rfl
@[simp] theorem peak_ledNext (s : State) (i v : Nat) : (peak s i v).ledNext = s.ledNext := by unfold peak; split <;> rfl
@[simp] theorem peak_oppNow (s : State) (i v : Nat) : (peak s i v).oppNow = s.oppNow := by unfold peak; split <;> rfl

/-! lowest -/

@[simp] theorem lowest_lanes (s : State) (i v : Nat) : (lowest s i v).lanes = s.lanes := by unfold lowest; split <;> rfl
@[simp] theorem lowest_isls (s : State) (i v : Nat) : (lowest s i v).isls = s.isls := by unfold lowest; split <;> rfl
@[simp] theorem lowest_detaching (s : State) (i v : Nat) : (lowest s i v).detaching = s.detaching := by unfold lowest; split <;> rfl
@[simp] theorem lowest_lowSince (s : State) (i v : Nat) : (lowest s i v).lowSince = s.lowSince := by unfold lowest; split <;> rfl
@[simp] theorem lowest_refPair (s : State) (i v : Nat) : (lowest s i v).refPair = s.refPair := by unfold lowest; split <;> rfl
@[simp] theorem lowest_l0pWidth (s : State) (i v : Nat) : (lowest s i v).l0pWidth = s.l0pWidth := by unfold lowest; split <;> rfl
@[simp] theorem lowest_woken (s : State) (i v : Nat) : (lowest s i v).woken = s.woken := by unfold lowest; split <;> rfl
@[simp] theorem lowest_txns (s : State) (i v : Nat) : (lowest s i v).txns = s.txns := by unfold lowest; split <;> rfl
@[simp] theorem lowest_nextTxn (s : State) (i v : Nat) : (lowest s i v).nextTxn = s.nextTxn := by unfold lowest; split <;> rfl
@[simp] theorem lowest_routers (s : State) (i v : Nat) : (lowest s i v).routers = s.routers := by unfold lowest; split <;> rfl
@[simp] theorem lowest_streams (s : State) (i v : Nat) : (lowest s i v).streams = s.streams := by unfold lowest; split <;> rfl
@[simp] theorem lowest_early (s : State) (i v : Nat) : (lowest s i v).early = s.early := by unfold lowest; split <;> rfl
@[simp] theorem lowest_endps (s : State) (i v : Nat) : (lowest s i v).endps = s.endps := by unfold lowest; split <;> rfl
@[simp] theorem lowest_scheds (s : State) (i v : Nat) : (lowest s i v).scheds = s.scheds := by unfold lowest; split <;> rfl
@[simp] theorem lowest_paces (s : State) (i v : Nat) : (lowest s i v).paces = s.paces := by unfold lowest; split <;> rfl
@[simp] theorem lowest_thrs (s : State) (i v : Nat) : (lowest s i v).thrs = s.thrs := by unfold lowest; split <;> rfl
@[simp] theorem lowest_routeOld (s : State) (i v : Nat) : (lowest s i v).routeOld = s.routeOld := by unfold lowest; split <;> rfl
@[simp] theorem lowest_arrived (s : State) (i v : Nat) : (lowest s i v).arrived = s.arrived := by unfold lowest; split <;> rfl
@[simp] theorem lowest_islRet (s : State) (i v : Nat) : (lowest s i v).islRet = s.islRet := by unfold lowest; split <;> rfl
@[simp] theorem lowest_macUnits (s : State) (i v : Nat) : (lowest s i v).macUnits = s.macUnits := by unfold lowest; split <;> rfl
@[simp] theorem lowest_bridges (s : State) (i v : Nat) : (lowest s i v).bridges = s.bridges := by unfold lowest; split <;> rfl
@[simp] theorem lowest_decRegs (s : State) (i v : Nat) : (lowest s i v).decRegs = s.decRegs := by unfold lowest; split <;> rfl
@[simp] theorem lowest_granules (s : State) (i v : Nat) : (lowest s i v).granules = s.granules := by unfold lowest; split <;> rfl
@[simp] theorem lowest_poolLost (s : State) (i v : Nat) : (lowest s i v).poolLost = s.poolLost := by unfold lowest; split <;> rfl
@[simp] theorem lowest_member0 (s : State) (i v : Nat) : (lowest s i v).member0 = s.member0 := by unfold lowest; split <;> rfl
@[simp] theorem lowest_scrubs (s : State) (i v : Nat) : (lowest s i v).scrubs = s.scrubs := by unfold lowest; split <;> rfl
@[simp] theorem lowest_offers (s : State) (i v : Nat) : (lowest s i v).offers = s.offers := by unfold lowest; split <;> rfl
@[simp] theorem lowest_overdue (s : State) (i v : Nat) : (lowest s i v).overdue = s.overdue := by unfold lowest; split <;> rfl
@[simp] theorem lowest_presence (s : State) (i v : Nat) : (lowest s i v).presence = s.presence := by unfold lowest; split <;> rfl
@[simp] theorem lowest_vcsReset (s : State) (i v : Nat) : (lowest s i v).vcsReset = s.vcsReset := by unfold lowest; split <;> rfl
@[simp] theorem lowest_viral (s : State) (i v : Nat) : (lowest s i v).viral = s.viral := by unfold lowest; split <;> rfl
@[simp] theorem lowest_internals (s : State) (i v : Nat) : (lowest s i v).internals = s.internals := by unfold lowest; split <;> rfl
@[simp] theorem lowest_slices (s : State) (i v : Nat) : (lowest s i v).slices = s.slices := by unfold lowest; split <;> rfl
@[simp] theorem lowest_ways (s : State) (i v : Nat) : (lowest s i v).ways = s.ways := by unfold lowest; split <;> rfl
@[simp] theorem lowest_plru (s : State) (i v : Nat) : (lowest s i v).plru = s.plru := by unfold lowest; split <;> rfl
@[simp] theorem lowest_backing (s : State) (i v : Nat) : (lowest s i v).backing = s.backing := by unfold lowest; split <;> rfl
@[simp] theorem lowest_walks (s : State) (i v : Nat) : (lowest s i v).walks = s.walks := by unfold lowest; split <;> rfl
@[simp] theorem lowest_fwds (s : State) (i v : Nat) : (lowest s i v).fwds = s.fwds := by unfold lowest; split <;> rfl
@[simp] theorem lowest_lostWalked (s : State) (i v : Nat) : (lowest s i v).lostWalked = s.lostWalked := by unfold lowest; split <;> rfl
@[simp] theorem lowest_ideUp (s : State) (i v : Nat) : (lowest s i v).ideUp = s.ideUp := by unfold lowest; split <;> rfl
@[simp] theorem lowest_cxlCache (s : State) (i v : Nat) : (lowest s i v).cxlCache = s.cxlCache := by unfold lowest; split <;> rfl
@[simp] theorem lowest_noCxl (s : State) (i v : Nat) : (lowest s i v).noCxl = s.noCxl := by unfold lowest; split <;> rfl
@[simp] theorem lowest_biIds (s : State) (i v : Nat) : (lowest s i v).biIds = s.biIds := by unfold lowest; split <;> rfl
@[simp] theorem lowest_pending (s : State) (i v : Nat) : (lowest s i v).pending = s.pending := by unfold lowest; split <;> rfl
@[simp] theorem lowest_clock (s : State) (i v : Nat) : (lowest s i v).clock = s.clock := by unfold lowest; split <;> rfl
@[simp] theorem lowest_freeCtr (s : State) (i v : Nat) : (lowest s i v).freeCtr = s.freeCtr := by unfold lowest; split <;> rfl
@[simp] theorem lowest_out (s : State) (i v : Nat) : (lowest s i v).out = s.out := by unfold lowest; split <;> rfl
@[simp] theorem lowest_tab (s : State) (i v : Nat) : (lowest s i v).tab = s.tab := by unfold lowest; split <;> rfl
@[simp] theorem lowest_commitNum (s : State) (i v : Nat) : (lowest s i v).commitNum = s.commitNum := by unfold lowest; split <;> rfl
@[simp] theorem lowest_hbm (s : State) (i v : Nat) : (lowest s i v).hbm = s.hbm := by unfold lowest; split <;> rfl
@[simp] theorem lowest_engines (s : State) (i v : Nat) : (lowest s i v).engines = s.engines := by unfold lowest; split <;> rfl
@[simp] theorem lowest_arb (s : State) (i v : Nat) : (lowest s i v).arb = s.arb := by unfold lowest; split <;> rfl
@[simp] theorem lowest_rings (s : State) (i v : Nat) : (lowest s i v).rings = s.rings := by unfold lowest; split <;> rfl
@[simp] theorem lowest_ringTurn (s : State) (i v : Nat) : (lowest s i v).ringTurn = s.ringTurn := by unfold lowest; split <;> rfl
@[simp] theorem lowest_residents (s : State) (i v : Nat) : (lowest s i v).residents = s.residents := by unfold lowest; split <;> rfl
@[simp] theorem lowest_paused (s : State) (i v : Nat) : (lowest s i v).paused = s.paused := by unfold lowest; split <;> rfl
@[simp] theorem lowest_claims (s : State) (i v : Nat) : (lowest s i v).claims = s.claims := by unfold lowest; split <;> rfl
@[simp] theorem lowest_updated (s : State) (i v : Nat) : (lowest s i v).updated = s.updated := by unfold lowest; split <;> rfl
@[simp] theorem lowest_partners (s : State) (i v : Nat) : (lowest s i v).partners = s.partners := by unfold lowest; split <;> rfl
@[simp] theorem lowest_present (s : State) (i v : Nat) : (lowest s i v).present = s.present := by unfold lowest; split <;> rfl
@[simp] theorem lowest_arriving (s : State) (i v : Nat) : (lowest s i v).arriving = s.arriving := by unfold lowest; split <;> rfl
@[simp] theorem lowest_surveys (s : State) (i v : Nat) : (lowest s i v).surveys = s.surveys := by unfold lowest; split <;> rfl
@[simp] theorem lowest_deferred (s : State) (i v : Nat) : (lowest s i v).deferred = s.deferred := by unfold lowest; split <;> rfl
@[simp] theorem lowest_attn (s : State) (i v : Nat) : (lowest s i v).attn = s.attn := by unfold lowest; split <;> rfl
@[simp] theorem lowest_detachAt (s : State) (i v : Nat) : (lowest s i v).detachAt = s.detachAt := by unfold lowest; split <;> rfl
@[simp] theorem lowest_lostAt (s : State) (i v : Nat) : (lowest s i v).lostAt = s.lostAt := by unfold lowest; split <;> rfl
@[simp] theorem lowest_stated (s : State) (i v : Nat) : (lowest s i v).stated = s.stated := by unfold lowest; split <;> rfl
@[simp] theorem lowest_slots (s : State) (i v : Nat) : (lowest s i v).slots = s.slots := by unfold lowest; split <;> rfl
@[simp] theorem lowest_locks (s : State) (i v : Nat) : (lowest s i v).locks = s.locks := by unfold lowest; split <;> rfl
@[simp] theorem lowest_dbg (s : State) (i v : Nat) : (lowest s i v).dbg = s.dbg := by unfold lowest; split <;> rfl
@[simp] theorem lowest_ev (s : State) (i v : Nat) : (lowest s i v).ev = s.ev := by unfold lowest; split <;> rfl
@[simp] theorem lowest_alm (s : State) (i v : Nat) : (lowest s i v).alm = s.alm := by unfold lowest; split <;> rfl
@[simp] theorem lowest_traces (s : State) (i v : Nat) : (lowest s i v).traces = s.traces := by unfold lowest; split <;> rfl
@[simp] theorem lowest_timers (s : State) (i v : Nat) : (lowest s i v).timers = s.timers := by unfold lowest; split <;> rfl
@[simp] theorem lowest_svc (s : State) (i v : Nat) : (lowest s i v).svc = s.svc := by unfold lowest; split <;> rfl
@[simp] theorem lowest_sec (s : State) (i v : Nat) : (lowest s i v).sec = s.sec := by unfold lowest; split <;> rfl
@[simp] theorem lowest_mer (s : State) (i v : Nat) : (lowest s i v).mer = s.mer := by unfold lowest; split <;> rfl
@[simp] theorem lowest_stw (s : State) (i v : Nat) : (lowest s i v).stw = s.stw := by unfold lowest; split <;> rfl
@[simp] theorem lowest_mctp (s : State) (i v : Nat) : (lowest s i v).mctp = s.mctp := by unfold lowest; split <;> rfl
@[simp] theorem lowest_legend (s : State) (i v : Nat) : (lowest s i v).legend = s.legend := by unfold lowest; split <;> rfl
@[simp] theorem lowest_fieldLock (s : State) (i v : Nat) : (lowest s i v).fieldLock = s.fieldLock := by unfold lowest; split <;> rfl
@[simp] theorem lowest_ts (s : State) (i v : Nat) : (lowest s i v).ts = s.ts := by unfold lowest; split <;> rfl
@[simp] theorem lowest_boot (s : State) (i v : Nat) : (lowest s i v).boot = s.boot := by unfold lowest; split <;> rfl
@[simp] theorem lowest_tsync (s : State) (i v : Nat) : (lowest s i v).tsync = s.tsync := by unfold lowest; split <;> rfl
@[simp] theorem lowest_frost (s : State) (i v : Nat) : (lowest s i v).frost = s.frost := by unfold lowest; split <;> rfl
@[simp] theorem lowest_settings (s : State) (i v : Nat) : (lowest s i v).settings = s.settings := by unfold lowest; split <;> rfl
@[simp] theorem lowest_portResets (s : State) (i v : Nat) : (lowest s i v).portResets = s.portResets := by unfold lowest; split <;> rfl
@[simp] theorem lowest_fabricRdy (s : State) (i v : Nat) : (lowest s i v).fabricRdy = s.fabricRdy := by unfold lowest; split <;> rfl
@[simp] theorem lowest_pinLow (s : State) (i v : Nat) : (lowest s i v).pinLow = s.pinLow := by unfold lowest; split <;> rfl
@[simp] theorem lowest_ledLast (s : State) (i v : Nat) : (lowest s i v).ledLast = s.ledLast := by unfold lowest; split <;> rfl
@[simp] theorem lowest_ledWhen (s : State) (i v : Nat) : (lowest s i v).ledWhen = s.ledWhen := by unfold lowest; split <;> rfl
@[simp] theorem lowest_ledPhase (s : State) (i v : Nat) : (lowest s i v).ledPhase = s.ledPhase := by unfold lowest; split <;> rfl
@[simp] theorem lowest_ledNext (s : State) (i v : Nat) : (lowest s i v).ledNext = s.ledNext := by unfold lowest; split <;> rfl
@[simp] theorem lowest_oppNow (s : State) (i v : Nat) : (lowest s i v).oppNow = s.oppNow := by unfold lowest; split <;> rfl

/-! feedGauge -/

@[simp] theorem feedGauge_lanes (s : State) (g j v : Nat) : (feedGauge s g j v).lanes = s.lanes := rfl
@[simp] theorem feedGauge_isls (s : State) (g j v : Nat) : (feedGauge s g j v).isls = s.isls := rfl
@[simp] theorem feedGauge_detaching (s : State) (g j v : Nat) : (feedGauge s g j v).detaching = s.detaching := rfl
@[simp] theorem feedGauge_lowSince (s : State) (g j v : Nat) : (feedGauge s g j v).lowSince = s.lowSince := rfl
@[simp] theorem feedGauge_refPair (s : State) (g j v : Nat) : (feedGauge s g j v).refPair = s.refPair := rfl
@[simp] theorem feedGauge_l0pWidth (s : State) (g j v : Nat) : (feedGauge s g j v).l0pWidth = s.l0pWidth := rfl
@[simp] theorem feedGauge_woken (s : State) (g j v : Nat) : (feedGauge s g j v).woken = s.woken := rfl
@[simp] theorem feedGauge_txns (s : State) (g j v : Nat) : (feedGauge s g j v).txns = s.txns := rfl
@[simp] theorem feedGauge_nextTxn (s : State) (g j v : Nat) : (feedGauge s g j v).nextTxn = s.nextTxn := rfl
@[simp] theorem feedGauge_routers (s : State) (g j v : Nat) : (feedGauge s g j v).routers = s.routers := rfl
@[simp] theorem feedGauge_streams (s : State) (g j v : Nat) : (feedGauge s g j v).streams = s.streams := rfl
@[simp] theorem feedGauge_early (s : State) (g j v : Nat) : (feedGauge s g j v).early = s.early := rfl
@[simp] theorem feedGauge_endps (s : State) (g j v : Nat) : (feedGauge s g j v).endps = s.endps := rfl
@[simp] theorem feedGauge_scheds (s : State) (g j v : Nat) : (feedGauge s g j v).scheds = s.scheds := rfl
@[simp] theorem feedGauge_paces (s : State) (g j v : Nat) : (feedGauge s g j v).paces = s.paces := rfl
@[simp] theorem feedGauge_thrs (s : State) (g j v : Nat) : (feedGauge s g j v).thrs = s.thrs := rfl
@[simp] theorem feedGauge_routeOld (s : State) (g j v : Nat) : (feedGauge s g j v).routeOld = s.routeOld := rfl
@[simp] theorem feedGauge_arrived (s : State) (g j v : Nat) : (feedGauge s g j v).arrived = s.arrived := rfl
@[simp] theorem feedGauge_islRet (s : State) (g j v : Nat) : (feedGauge s g j v).islRet = s.islRet := rfl
@[simp] theorem feedGauge_macUnits (s : State) (g j v : Nat) : (feedGauge s g j v).macUnits = s.macUnits := rfl
@[simp] theorem feedGauge_bridges (s : State) (g j v : Nat) : (feedGauge s g j v).bridges = s.bridges := rfl
@[simp] theorem feedGauge_decRegs (s : State) (g j v : Nat) : (feedGauge s g j v).decRegs = s.decRegs := rfl
@[simp] theorem feedGauge_granules (s : State) (g j v : Nat) : (feedGauge s g j v).granules = s.granules := rfl
@[simp] theorem feedGauge_poolLost (s : State) (g j v : Nat) : (feedGauge s g j v).poolLost = s.poolLost := rfl
@[simp] theorem feedGauge_member0 (s : State) (g j v : Nat) : (feedGauge s g j v).member0 = s.member0 := rfl
@[simp] theorem feedGauge_scrubs (s : State) (g j v : Nat) : (feedGauge s g j v).scrubs = s.scrubs := rfl
@[simp] theorem feedGauge_offers (s : State) (g j v : Nat) : (feedGauge s g j v).offers = s.offers := rfl
@[simp] theorem feedGauge_overdue (s : State) (g j v : Nat) : (feedGauge s g j v).overdue = s.overdue := rfl
@[simp] theorem feedGauge_presence (s : State) (g j v : Nat) : (feedGauge s g j v).presence = s.presence := rfl
@[simp] theorem feedGauge_vcsReset (s : State) (g j v : Nat) : (feedGauge s g j v).vcsReset = s.vcsReset := rfl
@[simp] theorem feedGauge_viral (s : State) (g j v : Nat) : (feedGauge s g j v).viral = s.viral := rfl
@[simp] theorem feedGauge_internals (s : State) (g j v : Nat) : (feedGauge s g j v).internals = s.internals := rfl
@[simp] theorem feedGauge_slices (s : State) (g j v : Nat) : (feedGauge s g j v).slices = s.slices := rfl
@[simp] theorem feedGauge_ways (s : State) (g j v : Nat) : (feedGauge s g j v).ways = s.ways := rfl
@[simp] theorem feedGauge_plru (s : State) (g j v : Nat) : (feedGauge s g j v).plru = s.plru := rfl
@[simp] theorem feedGauge_backing (s : State) (g j v : Nat) : (feedGauge s g j v).backing = s.backing := rfl
@[simp] theorem feedGauge_walks (s : State) (g j v : Nat) : (feedGauge s g j v).walks = s.walks := rfl
@[simp] theorem feedGauge_fwds (s : State) (g j v : Nat) : (feedGauge s g j v).fwds = s.fwds := rfl
@[simp] theorem feedGauge_lostWalked (s : State) (g j v : Nat) : (feedGauge s g j v).lostWalked = s.lostWalked := rfl
@[simp] theorem feedGauge_ideUp (s : State) (g j v : Nat) : (feedGauge s g j v).ideUp = s.ideUp := rfl
@[simp] theorem feedGauge_cxlCache (s : State) (g j v : Nat) : (feedGauge s g j v).cxlCache = s.cxlCache := rfl
@[simp] theorem feedGauge_noCxl (s : State) (g j v : Nat) : (feedGauge s g j v).noCxl = s.noCxl := rfl
@[simp] theorem feedGauge_biIds (s : State) (g j v : Nat) : (feedGauge s g j v).biIds = s.biIds := rfl
@[simp] theorem feedGauge_pending (s : State) (g j v : Nat) : (feedGauge s g j v).pending = s.pending := rfl
@[simp] theorem feedGauge_clock (s : State) (g j v : Nat) : (feedGauge s g j v).clock = s.clock := rfl
@[simp] theorem feedGauge_freeCtr (s : State) (g j v : Nat) : (feedGauge s g j v).freeCtr = s.freeCtr := rfl
@[simp] theorem feedGauge_out (s : State) (g j v : Nat) : (feedGauge s g j v).out = s.out := rfl
@[simp] theorem feedGauge_tab (s : State) (g j v : Nat) : (feedGauge s g j v).tab = s.tab := rfl
@[simp] theorem feedGauge_commitNum (s : State) (g j v : Nat) : (feedGauge s g j v).commitNum = s.commitNum := rfl
@[simp] theorem feedGauge_hbm (s : State) (g j v : Nat) : (feedGauge s g j v).hbm = s.hbm := rfl
@[simp] theorem feedGauge_engines (s : State) (g j v : Nat) : (feedGauge s g j v).engines = s.engines := rfl
@[simp] theorem feedGauge_arb (s : State) (g j v : Nat) : (feedGauge s g j v).arb = s.arb := rfl
@[simp] theorem feedGauge_rings (s : State) (g j v : Nat) : (feedGauge s g j v).rings = s.rings := rfl
@[simp] theorem feedGauge_ringTurn (s : State) (g j v : Nat) : (feedGauge s g j v).ringTurn = s.ringTurn := rfl
@[simp] theorem feedGauge_residents (s : State) (g j v : Nat) : (feedGauge s g j v).residents = s.residents := rfl
@[simp] theorem feedGauge_paused (s : State) (g j v : Nat) : (feedGauge s g j v).paused = s.paused := rfl
@[simp] theorem feedGauge_claims (s : State) (g j v : Nat) : (feedGauge s g j v).claims = s.claims := rfl
@[simp] theorem feedGauge_updated (s : State) (g j v : Nat) : (feedGauge s g j v).updated = s.updated := rfl
@[simp] theorem feedGauge_partners (s : State) (g j v : Nat) : (feedGauge s g j v).partners = s.partners := rfl
@[simp] theorem feedGauge_present (s : State) (g j v : Nat) : (feedGauge s g j v).present = s.present := rfl
@[simp] theorem feedGauge_arriving (s : State) (g j v : Nat) : (feedGauge s g j v).arriving = s.arriving := rfl
@[simp] theorem feedGauge_surveys (s : State) (g j v : Nat) : (feedGauge s g j v).surveys = s.surveys := rfl
@[simp] theorem feedGauge_deferred (s : State) (g j v : Nat) : (feedGauge s g j v).deferred = s.deferred := rfl
@[simp] theorem feedGauge_attn (s : State) (g j v : Nat) : (feedGauge s g j v).attn = s.attn := rfl
@[simp] theorem feedGauge_detachAt (s : State) (g j v : Nat) : (feedGauge s g j v).detachAt = s.detachAt := rfl
@[simp] theorem feedGauge_lostAt (s : State) (g j v : Nat) : (feedGauge s g j v).lostAt = s.lostAt := rfl
@[simp] theorem feedGauge_stated (s : State) (g j v : Nat) : (feedGauge s g j v).stated = s.stated := rfl
@[simp] theorem feedGauge_slots (s : State) (g j v : Nat) : (feedGauge s g j v).slots = s.slots := rfl
@[simp] theorem feedGauge_locks (s : State) (g j v : Nat) : (feedGauge s g j v).locks = s.locks := rfl
@[simp] theorem feedGauge_dbg (s : State) (g j v : Nat) : (feedGauge s g j v).dbg = s.dbg := rfl
@[simp] theorem feedGauge_ev (s : State) (g j v : Nat) : (feedGauge s g j v).ev = s.ev := rfl
@[simp] theorem feedGauge_cnt (s : State) (g j v : Nat) : (feedGauge s g j v).cnt = s.cnt := rfl
@[simp] theorem feedGauge_traces (s : State) (g j v : Nat) : (feedGauge s g j v).traces = s.traces := rfl
@[simp] theorem feedGauge_timers (s : State) (g j v : Nat) : (feedGauge s g j v).timers = s.timers := rfl
@[simp] theorem feedGauge_svc (s : State) (g j v : Nat) : (feedGauge s g j v).svc = s.svc := rfl
@[simp] theorem feedGauge_sec (s : State) (g j v : Nat) : (feedGauge s g j v).sec = s.sec := rfl
@[simp] theorem feedGauge_mer (s : State) (g j v : Nat) : (feedGauge s g j v).mer = s.mer := rfl
@[simp] theorem feedGauge_stw (s : State) (g j v : Nat) : (feedGauge s g j v).stw = s.stw := rfl
@[simp] theorem feedGauge_mctp (s : State) (g j v : Nat) : (feedGauge s g j v).mctp = s.mctp := rfl
@[simp] theorem feedGauge_legend (s : State) (g j v : Nat) : (feedGauge s g j v).legend = s.legend := rfl
@[simp] theorem feedGauge_fieldLock (s : State) (g j v : Nat) : (feedGauge s g j v).fieldLock = s.fieldLock := rfl
@[simp] theorem feedGauge_ts (s : State) (g j v : Nat) : (feedGauge s g j v).ts = s.ts := rfl
@[simp] theorem feedGauge_boot (s : State) (g j v : Nat) : (feedGauge s g j v).boot = s.boot := rfl
@[simp] theorem feedGauge_tsync (s : State) (g j v : Nat) : (feedGauge s g j v).tsync = s.tsync := rfl
@[simp] theorem feedGauge_frost (s : State) (g j v : Nat) : (feedGauge s g j v).frost = s.frost := rfl
@[simp] theorem feedGauge_settings (s : State) (g j v : Nat) : (feedGauge s g j v).settings = s.settings := rfl
@[simp] theorem feedGauge_portResets (s : State) (g j v : Nat) : (feedGauge s g j v).portResets = s.portResets := rfl
@[simp] theorem feedGauge_fabricRdy (s : State) (g j v : Nat) : (feedGauge s g j v).fabricRdy = s.fabricRdy := rfl
@[simp] theorem feedGauge_pinLow (s : State) (g j v : Nat) : (feedGauge s g j v).pinLow = s.pinLow := rfl
@[simp] theorem feedGauge_ledLast (s : State) (g j v : Nat) : (feedGauge s g j v).ledLast = s.ledLast := rfl
@[simp] theorem feedGauge_ledWhen (s : State) (g j v : Nat) : (feedGauge s g j v).ledWhen = s.ledWhen := rfl
@[simp] theorem feedGauge_ledPhase (s : State) (g j v : Nat) : (feedGauge s g j v).ledPhase = s.ledPhase := rfl
@[simp] theorem feedGauge_ledNext (s : State) (g j v : Nat) : (feedGauge s g j v).ledNext = s.ledNext := rfl
@[simp] theorem feedGauge_oppNow (s : State) (g j v : Nat) : (feedGauge s g j v).oppNow = s.oppNow := rfl

/-! raise -/

@[simp] theorem raise_lanes (s : State) (e j : Nat) (p : List Nat) : (raise s e j p).lanes = s.lanes := rfl
@[simp] theorem raise_isls (s : State) (e j : Nat) (p : List Nat) : (raise s e j p).isls = s.isls := rfl
@[simp] theorem raise_detaching (s : State) (e j : Nat) (p : List Nat) : (raise s e j p).detaching = s.detaching := rfl
@[simp] theorem raise_lowSince (s : State) (e j : Nat) (p : List Nat) : (raise s e j p).lowSince = s.lowSince := rfl
@[simp] theorem raise_refPair (s : State) (e j : Nat) (p : List Nat) : (raise s e j p).refPair = s.refPair := rfl
@[simp] theorem raise_l0pWidth (s : State) (e j : Nat) (p : List Nat) : (raise s e j p).l0pWidth = s.l0pWidth := rfl
@[simp] theorem raise_woken (s : State) (e j : Nat) (p : List Nat) : (raise s e j p).woken = s.woken := rfl
@[simp] theorem raise_txns (s : State) (e j : Nat) (p : List Nat) : (raise s e j p).txns = s.txns := rfl
@[simp] theorem raise_nextTxn (s : State) (e j : Nat) (p : List Nat) : (raise s e j p).nextTxn = s.nextTxn := rfl
@[simp] theorem raise_routers (s : State) (e j : Nat) (p : List Nat) : (raise s e j p).routers = s.routers := rfl
@[simp] theorem raise_streams (s : State) (e j : Nat) (p : List Nat) : (raise s e j p).streams = s.streams := rfl
@[simp] theorem raise_early (s : State) (e j : Nat) (p : List Nat) : (raise s e j p).early = s.early := rfl
@[simp] theorem raise_endps (s : State) (e j : Nat) (p : List Nat) : (raise s e j p).endps = s.endps := rfl
@[simp] theorem raise_scheds (s : State) (e j : Nat) (p : List Nat) : (raise s e j p).scheds = s.scheds := rfl
@[simp] theorem raise_paces (s : State) (e j : Nat) (p : List Nat) : (raise s e j p).paces = s.paces := rfl
@[simp] theorem raise_thrs (s : State) (e j : Nat) (p : List Nat) : (raise s e j p).thrs = s.thrs := rfl
@[simp] theorem raise_routeOld (s : State) (e j : Nat) (p : List Nat) : (raise s e j p).routeOld = s.routeOld := rfl
@[simp] theorem raise_arrived (s : State) (e j : Nat) (p : List Nat) : (raise s e j p).arrived = s.arrived := rfl
@[simp] theorem raise_islRet (s : State) (e j : Nat) (p : List Nat) : (raise s e j p).islRet = s.islRet := rfl
@[simp] theorem raise_macUnits (s : State) (e j : Nat) (p : List Nat) : (raise s e j p).macUnits = s.macUnits := rfl
@[simp] theorem raise_bridges (s : State) (e j : Nat) (p : List Nat) : (raise s e j p).bridges = s.bridges := rfl
@[simp] theorem raise_decRegs (s : State) (e j : Nat) (p : List Nat) : (raise s e j p).decRegs = s.decRegs := rfl
@[simp] theorem raise_granules (s : State) (e j : Nat) (p : List Nat) : (raise s e j p).granules = s.granules := rfl
@[simp] theorem raise_poolLost (s : State) (e j : Nat) (p : List Nat) : (raise s e j p).poolLost = s.poolLost := rfl
@[simp] theorem raise_member0 (s : State) (e j : Nat) (p : List Nat) : (raise s e j p).member0 = s.member0 := rfl
@[simp] theorem raise_scrubs (s : State) (e j : Nat) (p : List Nat) : (raise s e j p).scrubs = s.scrubs := rfl
@[simp] theorem raise_offers (s : State) (e j : Nat) (p : List Nat) : (raise s e j p).offers = s.offers := rfl
@[simp] theorem raise_overdue (s : State) (e j : Nat) (p : List Nat) : (raise s e j p).overdue = s.overdue := rfl
@[simp] theorem raise_presence (s : State) (e j : Nat) (p : List Nat) : (raise s e j p).presence = s.presence := rfl
@[simp] theorem raise_vcsReset (s : State) (e j : Nat) (p : List Nat) : (raise s e j p).vcsReset = s.vcsReset := rfl
@[simp] theorem raise_viral (s : State) (e j : Nat) (p : List Nat) : (raise s e j p).viral = s.viral := rfl
@[simp] theorem raise_internals (s : State) (e j : Nat) (p : List Nat) : (raise s e j p).internals = s.internals := rfl
@[simp] theorem raise_slices (s : State) (e j : Nat) (p : List Nat) : (raise s e j p).slices = s.slices := rfl
@[simp] theorem raise_ways (s : State) (e j : Nat) (p : List Nat) : (raise s e j p).ways = s.ways := rfl
@[simp] theorem raise_plru (s : State) (e j : Nat) (p : List Nat) : (raise s e j p).plru = s.plru := rfl
@[simp] theorem raise_backing (s : State) (e j : Nat) (p : List Nat) : (raise s e j p).backing = s.backing := rfl
@[simp] theorem raise_walks (s : State) (e j : Nat) (p : List Nat) : (raise s e j p).walks = s.walks := rfl
@[simp] theorem raise_fwds (s : State) (e j : Nat) (p : List Nat) : (raise s e j p).fwds = s.fwds := rfl
@[simp] theorem raise_lostWalked (s : State) (e j : Nat) (p : List Nat) : (raise s e j p).lostWalked = s.lostWalked := rfl
@[simp] theorem raise_ideUp (s : State) (e j : Nat) (p : List Nat) : (raise s e j p).ideUp = s.ideUp := rfl
@[simp] theorem raise_cxlCache (s : State) (e j : Nat) (p : List Nat) : (raise s e j p).cxlCache = s.cxlCache := rfl
@[simp] theorem raise_noCxl (s : State) (e j : Nat) (p : List Nat) : (raise s e j p).noCxl = s.noCxl := rfl
@[simp] theorem raise_biIds (s : State) (e j : Nat) (p : List Nat) : (raise s e j p).biIds = s.biIds := rfl
@[simp] theorem raise_pending (s : State) (e j : Nat) (p : List Nat) : (raise s e j p).pending = s.pending := rfl
@[simp] theorem raise_clock (s : State) (e j : Nat) (p : List Nat) : (raise s e j p).clock = s.clock := rfl
@[simp] theorem raise_freeCtr (s : State) (e j : Nat) (p : List Nat) : (raise s e j p).freeCtr = s.freeCtr := rfl
@[simp] theorem raise_out (s : State) (e j : Nat) (p : List Nat) : (raise s e j p).out = s.out := rfl
@[simp] theorem raise_tab (s : State) (e j : Nat) (p : List Nat) : (raise s e j p).tab = s.tab := rfl
@[simp] theorem raise_commitNum (s : State) (e j : Nat) (p : List Nat) : (raise s e j p).commitNum = s.commitNum := rfl
@[simp] theorem raise_hbm (s : State) (e j : Nat) (p : List Nat) : (raise s e j p).hbm = s.hbm := rfl
@[simp] theorem raise_engines (s : State) (e j : Nat) (p : List Nat) : (raise s e j p).engines = s.engines := rfl
@[simp] theorem raise_arb (s : State) (e j : Nat) (p : List Nat) : (raise s e j p).arb = s.arb := rfl
@[simp] theorem raise_rings (s : State) (e j : Nat) (p : List Nat) : (raise s e j p).rings = s.rings := rfl
@[simp] theorem raise_ringTurn (s : State) (e j : Nat) (p : List Nat) : (raise s e j p).ringTurn = s.ringTurn := rfl
@[simp] theorem raise_residents (s : State) (e j : Nat) (p : List Nat) : (raise s e j p).residents = s.residents := rfl
@[simp] theorem raise_paused (s : State) (e j : Nat) (p : List Nat) : (raise s e j p).paused = s.paused := rfl
@[simp] theorem raise_claims (s : State) (e j : Nat) (p : List Nat) : (raise s e j p).claims = s.claims := rfl
@[simp] theorem raise_updated (s : State) (e j : Nat) (p : List Nat) : (raise s e j p).updated = s.updated := rfl
@[simp] theorem raise_partners (s : State) (e j : Nat) (p : List Nat) : (raise s e j p).partners = s.partners := rfl
@[simp] theorem raise_present (s : State) (e j : Nat) (p : List Nat) : (raise s e j p).present = s.present := rfl
@[simp] theorem raise_arriving (s : State) (e j : Nat) (p : List Nat) : (raise s e j p).arriving = s.arriving := rfl
@[simp] theorem raise_surveys (s : State) (e j : Nat) (p : List Nat) : (raise s e j p).surveys = s.surveys := rfl
@[simp] theorem raise_deferred (s : State) (e j : Nat) (p : List Nat) : (raise s e j p).deferred = s.deferred := rfl
@[simp] theorem raise_attn (s : State) (e j : Nat) (p : List Nat) : (raise s e j p).attn = s.attn := rfl
@[simp] theorem raise_detachAt (s : State) (e j : Nat) (p : List Nat) : (raise s e j p).detachAt = s.detachAt := rfl
@[simp] theorem raise_lostAt (s : State) (e j : Nat) (p : List Nat) : (raise s e j p).lostAt = s.lostAt := rfl
@[simp] theorem raise_stated (s : State) (e j : Nat) (p : List Nat) : (raise s e j p).stated = s.stated := rfl
@[simp] theorem raise_slots (s : State) (e j : Nat) (p : List Nat) : (raise s e j p).slots = s.slots := rfl
@[simp] theorem raise_locks (s : State) (e j : Nat) (p : List Nat) : (raise s e j p).locks = s.locks := rfl
@[simp] theorem raise_dbg (s : State) (e j : Nat) (p : List Nat) : (raise s e j p).dbg = s.dbg := rfl
@[simp] theorem raise_traces (s : State) (e j : Nat) (p : List Nat) : (raise s e j p).traces = s.traces := rfl
@[simp] theorem raise_timers (s : State) (e j : Nat) (p : List Nat) : (raise s e j p).timers = s.timers := rfl
@[simp] theorem raise_svc (s : State) (e j : Nat) (p : List Nat) : (raise s e j p).svc = s.svc := rfl
@[simp] theorem raise_sec (s : State) (e j : Nat) (p : List Nat) : (raise s e j p).sec = s.sec := rfl
@[simp] theorem raise_mer (s : State) (e j : Nat) (p : List Nat) : (raise s e j p).mer = s.mer := rfl
@[simp] theorem raise_stw (s : State) (e j : Nat) (p : List Nat) : (raise s e j p).stw = s.stw := rfl
@[simp] theorem raise_mctp (s : State) (e j : Nat) (p : List Nat) : (raise s e j p).mctp = s.mctp := rfl
@[simp] theorem raise_legend (s : State) (e j : Nat) (p : List Nat) : (raise s e j p).legend = s.legend := rfl
@[simp] theorem raise_fieldLock (s : State) (e j : Nat) (p : List Nat) : (raise s e j p).fieldLock = s.fieldLock := rfl
@[simp] theorem raise_ts (s : State) (e j : Nat) (p : List Nat) : (raise s e j p).ts = s.ts := rfl
@[simp] theorem raise_boot (s : State) (e j : Nat) (p : List Nat) : (raise s e j p).boot = s.boot := rfl
@[simp] theorem raise_tsync (s : State) (e j : Nat) (p : List Nat) : (raise s e j p).tsync = s.tsync := rfl
@[simp] theorem raise_frost (s : State) (e j : Nat) (p : List Nat) : (raise s e j p).frost = s.frost := rfl
@[simp] theorem raise_settings (s : State) (e j : Nat) (p : List Nat) : (raise s e j p).settings = s.settings := rfl
@[simp] theorem raise_portResets (s : State) (e j : Nat) (p : List Nat) : (raise s e j p).portResets = s.portResets := rfl
@[simp] theorem raise_fabricRdy (s : State) (e j : Nat) (p : List Nat) : (raise s e j p).fabricRdy = s.fabricRdy := rfl
@[simp] theorem raise_pinLow (s : State) (e j : Nat) (p : List Nat) : (raise s e j p).pinLow = s.pinLow := rfl
@[simp] theorem raise_ledLast (s : State) (e j : Nat) (p : List Nat) : (raise s e j p).ledLast = s.ledLast := rfl
@[simp] theorem raise_ledWhen (s : State) (e j : Nat) (p : List Nat) : (raise s e j p).ledWhen = s.ledWhen := rfl
@[simp] theorem raise_ledPhase (s : State) (e j : Nat) (p : List Nat) : (raise s e j p).ledPhase = s.ledPhase := rfl
@[simp] theorem raise_ledNext (s : State) (e j : Nat) (p : List Nat) : (raise s e j p).ledNext = s.ledNext := rfl
@[simp] theorem raise_oppNow (s : State) (e j : Nat) (p : List Nat) : (raise s e j p).oppNow = s.oppNow := rfl

/-! raiseEvent -/

@[simp] theorem raiseEvent_lanes (s : State) (e j : Nat) (p : List Nat) : (raiseEvent s e j p).lanes = s.lanes := by unfold raiseEvent; split <;> rfl
@[simp] theorem raiseEvent_isls (s : State) (e j : Nat) (p : List Nat) : (raiseEvent s e j p).isls = s.isls := by unfold raiseEvent; split <;> rfl
@[simp] theorem raiseEvent_detaching (s : State) (e j : Nat) (p : List Nat) : (raiseEvent s e j p).detaching = s.detaching := by unfold raiseEvent; split <;> rfl
@[simp] theorem raiseEvent_lowSince (s : State) (e j : Nat) (p : List Nat) : (raiseEvent s e j p).lowSince = s.lowSince := by unfold raiseEvent; split <;> rfl
@[simp] theorem raiseEvent_refPair (s : State) (e j : Nat) (p : List Nat) : (raiseEvent s e j p).refPair = s.refPair := by unfold raiseEvent; split <;> rfl
@[simp] theorem raiseEvent_l0pWidth (s : State) (e j : Nat) (p : List Nat) : (raiseEvent s e j p).l0pWidth = s.l0pWidth := by unfold raiseEvent; split <;> rfl
@[simp] theorem raiseEvent_woken (s : State) (e j : Nat) (p : List Nat) : (raiseEvent s e j p).woken = s.woken := by unfold raiseEvent; split <;> rfl
@[simp] theorem raiseEvent_txns (s : State) (e j : Nat) (p : List Nat) : (raiseEvent s e j p).txns = s.txns := by unfold raiseEvent; split <;> rfl
@[simp] theorem raiseEvent_nextTxn (s : State) (e j : Nat) (p : List Nat) : (raiseEvent s e j p).nextTxn = s.nextTxn := by unfold raiseEvent; split <;> rfl
@[simp] theorem raiseEvent_routers (s : State) (e j : Nat) (p : List Nat) : (raiseEvent s e j p).routers = s.routers := by unfold raiseEvent; split <;> rfl
@[simp] theorem raiseEvent_streams (s : State) (e j : Nat) (p : List Nat) : (raiseEvent s e j p).streams = s.streams := by unfold raiseEvent; split <;> rfl
@[simp] theorem raiseEvent_early (s : State) (e j : Nat) (p : List Nat) : (raiseEvent s e j p).early = s.early := by unfold raiseEvent; split <;> rfl
@[simp] theorem raiseEvent_endps (s : State) (e j : Nat) (p : List Nat) : (raiseEvent s e j p).endps = s.endps := by unfold raiseEvent; split <;> rfl
@[simp] theorem raiseEvent_scheds (s : State) (e j : Nat) (p : List Nat) : (raiseEvent s e j p).scheds = s.scheds := by unfold raiseEvent; split <;> rfl
@[simp] theorem raiseEvent_paces (s : State) (e j : Nat) (p : List Nat) : (raiseEvent s e j p).paces = s.paces := by unfold raiseEvent; split <;> rfl
@[simp] theorem raiseEvent_thrs (s : State) (e j : Nat) (p : List Nat) : (raiseEvent s e j p).thrs = s.thrs := by unfold raiseEvent; split <;> rfl
@[simp] theorem raiseEvent_routeOld (s : State) (e j : Nat) (p : List Nat) : (raiseEvent s e j p).routeOld = s.routeOld := by unfold raiseEvent; split <;> rfl
@[simp] theorem raiseEvent_arrived (s : State) (e j : Nat) (p : List Nat) : (raiseEvent s e j p).arrived = s.arrived := by unfold raiseEvent; split <;> rfl
@[simp] theorem raiseEvent_islRet (s : State) (e j : Nat) (p : List Nat) : (raiseEvent s e j p).islRet = s.islRet := by unfold raiseEvent; split <;> rfl
@[simp] theorem raiseEvent_macUnits (s : State) (e j : Nat) (p : List Nat) : (raiseEvent s e j p).macUnits = s.macUnits := by unfold raiseEvent; split <;> rfl
@[simp] theorem raiseEvent_bridges (s : State) (e j : Nat) (p : List Nat) : (raiseEvent s e j p).bridges = s.bridges := by unfold raiseEvent; split <;> rfl
@[simp] theorem raiseEvent_decRegs (s : State) (e j : Nat) (p : List Nat) : (raiseEvent s e j p).decRegs = s.decRegs := by unfold raiseEvent; split <;> rfl
@[simp] theorem raiseEvent_granules (s : State) (e j : Nat) (p : List Nat) : (raiseEvent s e j p).granules = s.granules := by unfold raiseEvent; split <;> rfl
@[simp] theorem raiseEvent_poolLost (s : State) (e j : Nat) (p : List Nat) : (raiseEvent s e j p).poolLost = s.poolLost := by unfold raiseEvent; split <;> rfl
@[simp] theorem raiseEvent_member0 (s : State) (e j : Nat) (p : List Nat) : (raiseEvent s e j p).member0 = s.member0 := by unfold raiseEvent; split <;> rfl
@[simp] theorem raiseEvent_scrubs (s : State) (e j : Nat) (p : List Nat) : (raiseEvent s e j p).scrubs = s.scrubs := by unfold raiseEvent; split <;> rfl
@[simp] theorem raiseEvent_offers (s : State) (e j : Nat) (p : List Nat) : (raiseEvent s e j p).offers = s.offers := by unfold raiseEvent; split <;> rfl
@[simp] theorem raiseEvent_overdue (s : State) (e j : Nat) (p : List Nat) : (raiseEvent s e j p).overdue = s.overdue := by unfold raiseEvent; split <;> rfl
@[simp] theorem raiseEvent_presence (s : State) (e j : Nat) (p : List Nat) : (raiseEvent s e j p).presence = s.presence := by unfold raiseEvent; split <;> rfl
@[simp] theorem raiseEvent_vcsReset (s : State) (e j : Nat) (p : List Nat) : (raiseEvent s e j p).vcsReset = s.vcsReset := by unfold raiseEvent; split <;> rfl
@[simp] theorem raiseEvent_viral (s : State) (e j : Nat) (p : List Nat) : (raiseEvent s e j p).viral = s.viral := by unfold raiseEvent; split <;> rfl
@[simp] theorem raiseEvent_internals (s : State) (e j : Nat) (p : List Nat) : (raiseEvent s e j p).internals = s.internals := by unfold raiseEvent; split <;> rfl
@[simp] theorem raiseEvent_slices (s : State) (e j : Nat) (p : List Nat) : (raiseEvent s e j p).slices = s.slices := by unfold raiseEvent; split <;> rfl
@[simp] theorem raiseEvent_ways (s : State) (e j : Nat) (p : List Nat) : (raiseEvent s e j p).ways = s.ways := by unfold raiseEvent; split <;> rfl
@[simp] theorem raiseEvent_plru (s : State) (e j : Nat) (p : List Nat) : (raiseEvent s e j p).plru = s.plru := by unfold raiseEvent; split <;> rfl
@[simp] theorem raiseEvent_backing (s : State) (e j : Nat) (p : List Nat) : (raiseEvent s e j p).backing = s.backing := by unfold raiseEvent; split <;> rfl
@[simp] theorem raiseEvent_walks (s : State) (e j : Nat) (p : List Nat) : (raiseEvent s e j p).walks = s.walks := by unfold raiseEvent; split <;> rfl
@[simp] theorem raiseEvent_fwds (s : State) (e j : Nat) (p : List Nat) : (raiseEvent s e j p).fwds = s.fwds := by unfold raiseEvent; split <;> rfl
@[simp] theorem raiseEvent_lostWalked (s : State) (e j : Nat) (p : List Nat) : (raiseEvent s e j p).lostWalked = s.lostWalked := by unfold raiseEvent; split <;> rfl
@[simp] theorem raiseEvent_ideUp (s : State) (e j : Nat) (p : List Nat) : (raiseEvent s e j p).ideUp = s.ideUp := by unfold raiseEvent; split <;> rfl
@[simp] theorem raiseEvent_cxlCache (s : State) (e j : Nat) (p : List Nat) : (raiseEvent s e j p).cxlCache = s.cxlCache := by unfold raiseEvent; split <;> rfl
@[simp] theorem raiseEvent_noCxl (s : State) (e j : Nat) (p : List Nat) : (raiseEvent s e j p).noCxl = s.noCxl := by unfold raiseEvent; split <;> rfl
@[simp] theorem raiseEvent_biIds (s : State) (e j : Nat) (p : List Nat) : (raiseEvent s e j p).biIds = s.biIds := by unfold raiseEvent; split <;> rfl
@[simp] theorem raiseEvent_pending (s : State) (e j : Nat) (p : List Nat) : (raiseEvent s e j p).pending = s.pending := by unfold raiseEvent; split <;> rfl
@[simp] theorem raiseEvent_clock (s : State) (e j : Nat) (p : List Nat) : (raiseEvent s e j p).clock = s.clock := by unfold raiseEvent; split <;> rfl
@[simp] theorem raiseEvent_freeCtr (s : State) (e j : Nat) (p : List Nat) : (raiseEvent s e j p).freeCtr = s.freeCtr := by unfold raiseEvent; split <;> rfl
@[simp] theorem raiseEvent_out (s : State) (e j : Nat) (p : List Nat) : (raiseEvent s e j p).out = s.out := by unfold raiseEvent; split <;> rfl
@[simp] theorem raiseEvent_tab (s : State) (e j : Nat) (p : List Nat) : (raiseEvent s e j p).tab = s.tab := by unfold raiseEvent; split <;> rfl
@[simp] theorem raiseEvent_commitNum (s : State) (e j : Nat) (p : List Nat) : (raiseEvent s e j p).commitNum = s.commitNum := by unfold raiseEvent; split <;> rfl
@[simp] theorem raiseEvent_hbm (s : State) (e j : Nat) (p : List Nat) : (raiseEvent s e j p).hbm = s.hbm := by unfold raiseEvent; split <;> rfl
@[simp] theorem raiseEvent_engines (s : State) (e j : Nat) (p : List Nat) : (raiseEvent s e j p).engines = s.engines := by unfold raiseEvent; split <;> rfl
@[simp] theorem raiseEvent_arb (s : State) (e j : Nat) (p : List Nat) : (raiseEvent s e j p).arb = s.arb := by unfold raiseEvent; split <;> rfl
@[simp] theorem raiseEvent_rings (s : State) (e j : Nat) (p : List Nat) : (raiseEvent s e j p).rings = s.rings := by unfold raiseEvent; split <;> rfl
@[simp] theorem raiseEvent_ringTurn (s : State) (e j : Nat) (p : List Nat) : (raiseEvent s e j p).ringTurn = s.ringTurn := by unfold raiseEvent; split <;> rfl
@[simp] theorem raiseEvent_residents (s : State) (e j : Nat) (p : List Nat) : (raiseEvent s e j p).residents = s.residents := by unfold raiseEvent; split <;> rfl
@[simp] theorem raiseEvent_paused (s : State) (e j : Nat) (p : List Nat) : (raiseEvent s e j p).paused = s.paused := by unfold raiseEvent; split <;> rfl
@[simp] theorem raiseEvent_claims (s : State) (e j : Nat) (p : List Nat) : (raiseEvent s e j p).claims = s.claims := by unfold raiseEvent; split <;> rfl
@[simp] theorem raiseEvent_updated (s : State) (e j : Nat) (p : List Nat) : (raiseEvent s e j p).updated = s.updated := by unfold raiseEvent; split <;> rfl
@[simp] theorem raiseEvent_partners (s : State) (e j : Nat) (p : List Nat) : (raiseEvent s e j p).partners = s.partners := by unfold raiseEvent; split <;> rfl
@[simp] theorem raiseEvent_present (s : State) (e j : Nat) (p : List Nat) : (raiseEvent s e j p).present = s.present := by unfold raiseEvent; split <;> rfl
@[simp] theorem raiseEvent_arriving (s : State) (e j : Nat) (p : List Nat) : (raiseEvent s e j p).arriving = s.arriving := by unfold raiseEvent; split <;> rfl
@[simp] theorem raiseEvent_surveys (s : State) (e j : Nat) (p : List Nat) : (raiseEvent s e j p).surveys = s.surveys := by unfold raiseEvent; split <;> rfl
@[simp] theorem raiseEvent_deferred (s : State) (e j : Nat) (p : List Nat) : (raiseEvent s e j p).deferred = s.deferred := by unfold raiseEvent; split <;> rfl
@[simp] theorem raiseEvent_attn (s : State) (e j : Nat) (p : List Nat) : (raiseEvent s e j p).attn = s.attn := by unfold raiseEvent; split <;> rfl
@[simp] theorem raiseEvent_detachAt (s : State) (e j : Nat) (p : List Nat) : (raiseEvent s e j p).detachAt = s.detachAt := by unfold raiseEvent; split <;> rfl
@[simp] theorem raiseEvent_lostAt (s : State) (e j : Nat) (p : List Nat) : (raiseEvent s e j p).lostAt = s.lostAt := by unfold raiseEvent; split <;> rfl
@[simp] theorem raiseEvent_stated (s : State) (e j : Nat) (p : List Nat) : (raiseEvent s e j p).stated = s.stated := by unfold raiseEvent; split <;> rfl
@[simp] theorem raiseEvent_slots (s : State) (e j : Nat) (p : List Nat) : (raiseEvent s e j p).slots = s.slots := by unfold raiseEvent; split <;> rfl
@[simp] theorem raiseEvent_locks (s : State) (e j : Nat) (p : List Nat) : (raiseEvent s e j p).locks = s.locks := by unfold raiseEvent; split <;> rfl
@[simp] theorem raiseEvent_dbg (s : State) (e j : Nat) (p : List Nat) : (raiseEvent s e j p).dbg = s.dbg := by unfold raiseEvent; split <;> rfl
@[simp] theorem raiseEvent_traces (s : State) (e j : Nat) (p : List Nat) : (raiseEvent s e j p).traces = s.traces := by unfold raiseEvent; split <;> rfl
@[simp] theorem raiseEvent_timers (s : State) (e j : Nat) (p : List Nat) : (raiseEvent s e j p).timers = s.timers := by unfold raiseEvent; split <;> rfl
@[simp] theorem raiseEvent_svc (s : State) (e j : Nat) (p : List Nat) : (raiseEvent s e j p).svc = s.svc := by unfold raiseEvent; split <;> rfl
@[simp] theorem raiseEvent_sec (s : State) (e j : Nat) (p : List Nat) : (raiseEvent s e j p).sec = s.sec := by unfold raiseEvent; split <;> rfl
@[simp] theorem raiseEvent_mer (s : State) (e j : Nat) (p : List Nat) : (raiseEvent s e j p).mer = s.mer := by unfold raiseEvent; split <;> rfl
@[simp] theorem raiseEvent_stw (s : State) (e j : Nat) (p : List Nat) : (raiseEvent s e j p).stw = s.stw := by unfold raiseEvent; split <;> rfl
@[simp] theorem raiseEvent_mctp (s : State) (e j : Nat) (p : List Nat) : (raiseEvent s e j p).mctp = s.mctp := by unfold raiseEvent; split <;> rfl
@[simp] theorem raiseEvent_legend (s : State) (e j : Nat) (p : List Nat) : (raiseEvent s e j p).legend = s.legend := by unfold raiseEvent; split <;> rfl
@[simp] theorem raiseEvent_fieldLock (s : State) (e j : Nat) (p : List Nat) : (raiseEvent s e j p).fieldLock = s.fieldLock := by unfold raiseEvent; split <;> rfl
@[simp] theorem raiseEvent_ts (s : State) (e j : Nat) (p : List Nat) : (raiseEvent s e j p).ts = s.ts := by unfold raiseEvent; split <;> rfl
@[simp] theorem raiseEvent_boot (s : State) (e j : Nat) (p : List Nat) : (raiseEvent s e j p).boot = s.boot := by unfold raiseEvent; split <;> rfl
@[simp] theorem raiseEvent_tsync (s : State) (e j : Nat) (p : List Nat) : (raiseEvent s e j p).tsync = s.tsync := by unfold raiseEvent; split <;> rfl
@[simp] theorem raiseEvent_frost (s : State) (e j : Nat) (p : List Nat) : (raiseEvent s e j p).frost = s.frost := by unfold raiseEvent; split <;> rfl
@[simp] theorem raiseEvent_settings (s : State) (e j : Nat) (p : List Nat) : (raiseEvent s e j p).settings = s.settings := by unfold raiseEvent; split <;> rfl
@[simp] theorem raiseEvent_portResets (s : State) (e j : Nat) (p : List Nat) : (raiseEvent s e j p).portResets = s.portResets := by unfold raiseEvent; split <;> rfl
@[simp] theorem raiseEvent_fabricRdy (s : State) (e j : Nat) (p : List Nat) : (raiseEvent s e j p).fabricRdy = s.fabricRdy := by unfold raiseEvent; split <;> rfl
@[simp] theorem raiseEvent_pinLow (s : State) (e j : Nat) (p : List Nat) : (raiseEvent s e j p).pinLow = s.pinLow := by unfold raiseEvent; split <;> rfl
@[simp] theorem raiseEvent_ledLast (s : State) (e j : Nat) (p : List Nat) : (raiseEvent s e j p).ledLast = s.ledLast := by unfold raiseEvent; split <;> rfl
@[simp] theorem raiseEvent_ledWhen (s : State) (e j : Nat) (p : List Nat) : (raiseEvent s e j p).ledWhen = s.ledWhen := by unfold raiseEvent; split <;> rfl
@[simp] theorem raiseEvent_ledPhase (s : State) (e j : Nat) (p : List Nat) : (raiseEvent s e j p).ledPhase = s.ledPhase := by unfold raiseEvent; split <;> rfl
@[simp] theorem raiseEvent_ledNext (s : State) (e j : Nat) (p : List Nat) : (raiseEvent s e j p).ledNext = s.ledNext := by unfold raiseEvent; split <;> rfl
@[simp] theorem raiseEvent_oppNow (s : State) (e j : Nat) (p : List Nat) : (raiseEvent s e j p).oppNow = s.oppNow := by unfold raiseEvent; split <;> rfl

end Sys2Proof.Machine
end

