-- ==== Sys2Proof/Laws/Ops.lean ====
section
/-! SUPPORT. What the shared reads give after the shared writes: engines, registers, tables, claims, HBM. -/
namespace Sys2Proof.Machine

theorem engineOf_setEngine_self (s : State) (e : Nat) (x : Engine) (h : Engines.wf s.engines = true) : engineOf (setEngine s e x) e = x :=
  smGet_smSet_self (fun _ => ({} : Engine)) s.engines e x h

theorem engineOf_setEngine_ne (s : State) (e f : Nat) (x : Engine) (h : Engines.wf s.engines = true) (hf : f ≠ e) :
    engineOf (setEngine s e x) f = engineOf s f :=
  smGet_smSet_ne (fun _ => ({} : Engine)) ({} : Engine) s.engines e f x h hf

theorem tabEntry_setTab_self (s : State) (t i : Nat) (v : Entry) (n : Nat) (h : Tables.wf s.tab = true) : tabEntry (setTab s t i v n) t i = ⟨v, n⟩ :=
  smGet_smSet_self entryReset s.tab (tkey t i) ⟨v, n⟩ h

theorem tabEntry_setTab_ne (s : State) (t i t' i' : Nat) (v : Entry) (n : Nat) (h : Tables.wf s.tab = true) (hk : tkey t' i' ≠ tkey t i) :
    tabEntry (setTab s t i v n) t' i' = tabEntry s t' i' :=
  smGet_smSet_ne entryReset _ s.tab (tkey t i) (tkey t' i') ⟨v, n⟩ h hk

theorem tabEntry_setLive_self (s : State) (t i lo w v : Nat) (h : Tables.wf s.tab = true) :
    tabEntry (setLive s t i lo w v) t i = ⟨setFld (tabVal s t i) lo w v, (tabEntry s t i).num⟩ :=
  smGet_smSet_self entryReset s.tab (tkey t i) _ h

theorem tabEntry_setLive_ne (s : State) (t i lo w v t' i' : Nat) (h : Tables.wf s.tab = true) (hk : tkey t' i' ≠ tkey t i) :
    tabEntry (setLive s t i lo w v) t' i' = tabEntry s t' i' :=
  smGet_smSet_ne entryReset _ s.tab (tkey t i) (tkey t' i') _ h hk

theorem claimOf_setClaim_self (s : State) (i v : Nat) (h : Claims.wf s.claims = true) : claimOf (setClaim s i v) i = v :=
  smGet_smSet_self (fun _ => 0xFFFF) s.claims i v h

theorem claimOf_setClaim_ne (s : State) (i j v : Nat) (h : Claims.wf s.claims = true) (hj : j ≠ i) : claimOf (setClaim s i v) j = claimOf s j :=
  smGet_smSet_ne (fun _ => 0xFFFF) _ s.claims i j v h hj

/-- A byte outside a written run reads as before. -/
theorem smGet_smSetRun_out {α : Type} [DecidableEq α] (d : α) (m : SMap α) (k : Nat) (vs : List α) (a : Nat)
    (h : smWf (fun _ => d) m = true) (ha : a < k ∨ k + vs.length ≤ a) : smGet d (smSetRun d m k vs) a = smGet d m a := by
  induction vs generalizing m k with
  | nil => rfl
  | cons v vs ih =>
    rw [List.length_cons] at ha
    rw [smSetRun, ih _ _ (smWf_smSet (fun _ => d) m k v h) (by omega), smGet_smSet_ne (fun _ => d) d m k a v h (by omega)]

theorem hbmRead_hbmWrite_out (s : State) (a b : Nat) (bs : List Byte) (h : Memory.wf s.hbm = true) (hb : b < a ∨ a + bs.length ≤ b) :
    smGet 0 (hbmWrite s a bs).hbm b = smGet 0 s.hbm b :=
  smGet_smSetRun_out 0 s.hbm a bs b h hb

@[simp] theorem regGet_zero (x : Engine) : regGet x 0 = 0 := rfl

@[simp] theorem regSet_zero (x : Engine) (v : Word) : regSet x 0 v = x := rfl

/-- A write to a register leaves everything of the engine but its registers. -/
theorem regSet_frame (x : Engine) (r : Nat) (v : Word) : regSet x r v = { x with regs := (regSet x r v).regs } := by
  unfold regSet; split <;> rfl

@[simp] theorem regSet_pc (x : Engine) (r : Nat) (v : Word) : (regSet x r v).pc = x.pc := by unfold regSet; split <;> rfl
@[simp] theorem regSet_ninstr (x : Engine) (r : Nat) (v : Word) : (regSet x r v).ninstr = x.ninstr := by unfold regSet; split <;> rfl
@[simp] theorem regSet_wait (x : Engine) (r : Nat) (v : Word) : (regSet x r v).wait = x.wait := by unfold regSet; split <;> rfl
@[simp] theorem regSet_seq (x : Engine) (r : Nat) (v : Word) : (regSet x r v).seq = x.seq := by unfold regSet; split <;> rfl
@[simp] theorem regSet_imem (x : Engine) (r : Nat) (v : Word) : (regSet x r v).imem = x.imem := by unfold regSet; split <;> rfl
@[simp] theorem regSet_dmem (x : Engine) (r : Nat) (v : Word) : (regSet x r v).dmem = x.dmem := by unfold regSet; split <;> rfl
@[simp] theorem regSet_drafts (x : Engine) (r : Nat) (v : Word) : (regSet x r v).drafts = x.drafts := by unfold regSet; split <;> rfl
@[simp] theorem regSet_sub (x : Engine) (r : Nat) (v : Word) : (regSet x r v).sub = x.sub := by unfold regSet; split <;> rfl

/-- Moving on: not the last instruction, so the PC advances and the engine runs. -/
theorem advance_inside (s : State) (e : Nat) (x : Engine) (h : x.pc + 1 < x.ninstr) :
    advance s e x = setEngine s e { x with pc := x.pc + 1, wait := .run, boundary := s.clock } := by
  unfold advance
  rw [if_neg (Nat.not_le.mpr h)]

/-- An instruction that ends with status OK moves on. -/
theorem finish_ok (s : State) (e : Nat) (x : Engine) (h : x.pc + 1 < x.ninstr) :
    finish s e x 0 = setEngine s e { x with status := 0, seq := 0, pc := x.pc + 1, wait := .run, boundary := s.clock } := by
  unfold finish
  rw [if_pos rfl, advance_inside]
  exact h

/-- An instruction with any other status ends its chart. -/
theorem finish_bad (s : State) (e : Nat) (x : Engine) (st : Nat) (h : st ≠ 0) : finish s e x st = endChart (setEngine s e x) e st x.pc := by
  unfold finish
  rw [if_neg h]

/-- What an instruction does where nothing ends it first. -/
theorem onOp_stands {s : State} {e op : Nat} (h : Stands s e op) (f : State → Engine → Word → State) :
    onOp s e op f = f s (engineOf s e) (wordAt (engineOf s e)) := by
  unfold onOp
  simp [h.1, h.2.1, h.2.2]

/-- Moving on, in the words of the claims. -/
theorem advance_moveOn (s : State) (e : Nat) (x : Engine) (h : x.pc + 1 < x.ninstr) : advance s e x = moveOn s e x := advance_inside s e x h

/-- Ending an instruction OK, in the words of the claims. -/
theorem finish_moveOk (s : State) (e : Nat) (x : Engine) (h : x.pc + 1 < x.ninstr) : finish s e x 0 = moveOk s e x := finish_ok s e x h

/-- What a macro does where its own checks pass. -/
theorem macroThen_begins {s : State} {e op : Nat} {masks : List Nat} {flags : Nat} {eng : MacroEng} {seqd : Bool}
    (h : Begins s e op masks flags eng seqd) (f : State → Engine → (Nat → Word) → State) :
    macroThen s e op masks flags eng seqd f =
      f s (regSet (engineOf s e) 1 0) (blockWord (engineOf s e) (wordAt (engineOf s e))) := by
  unfold macroThen
  rw [onOp_stands h.1.1]
  simp [h.2.1, h.2.2]

@[simp] theorem setFlags_pc (x : Engine) (r : Word) (c v : Bool) : (setFlags x r c v).pc = x.pc := rfl
@[simp] theorem setFlags_ninstr (x : Engine) (r : Word) (c v : Bool) : (setFlags x r c v).ninstr = x.ninstr := rfl
@[simp] theorem logicFlags_pc (x : Engine) (r : Word) : (logicFlags x r).pc = x.pc := rfl
@[simp] theorem logicFlags_ninstr (x : Engine) (r : Word) : (logicFlags x r).ninstr = x.ninstr := rfl
@[simp] theorem addFlags_pc (x : Engine) (a b : Word) : (addFlags x a b).pc = x.pc := rfl
@[simp] theorem addFlags_ninstr (x : Engine) (a b : Word) : (addFlags x a b).ninstr = x.ninstr := rfl
@[simp] theorem subFlags_pc (x : Engine) (a b : Word) : (subFlags x a b).pc = x.pc := rfl
@[simp] theorem subFlags_ninstr (x : Engine) (a b : Word) : (subFlags x a b).ninstr = x.ninstr := rfl
@[simp] theorem setData_pc (x : Engine) (k : Nat) (ws : List Word) : (setData x k ws).pc = x.pc := rfl
@[simp] theorem setData_ninstr (x : Engine) (k : Nat) (ws : List Word) : (setData x k ws).ninstr = x.ninstr := rfl

/-- Entering a draft leaves the rest of the engine. -/
theorem putDraft_frame (s : State) (x : Engine) (t i : Nat) (v mask : Entry) :
    putDraft s x t i v mask = { x with drafts := (putDraft s x t i v mask).drafts } := by
  unfold putDraft
  extract_lets k
  split <;> rfl

@[simp] theorem putDraft_pc (s : State) (x : Engine) (t i : Nat) (v m : Entry) : (putDraft s x t i v m).pc = x.pc := by
  rw [putDraft_frame]
@[simp] theorem putDraft_ninstr (s : State) (x : Engine) (t i : Nat) (v m : Entry) : (putDraft s x t i v m).ninstr = x.ninstr := by
  rw [putDraft_frame]

/-- Drafting changes nothing of the engine but its drafts. -/
theorem draft_frame (s : State) (e : Nat) (x : Engine) (t i : Nat) (v mask : Entry) :
    (draft s e x t i v mask).2.2 = { x with drafts := (draft s e x t i v mask).2.2.drafts } := by
  unfold draft
  split
  · rfl
  · unfold draftAny
    simp only []
    repeat' split
    all_goals first | rfl | exact putDraft_frame ..

@[simp] theorem draft_pc (s : State) (e : Nat) (x : Engine) (t i : Nat) (v m : Entry) : (draft s e x t i v m).2.2.pc = x.pc := by
  rw [draft_frame]
@[simp] theorem draft_ninstr (s : State) (e : Nat) (x : Engine) (t i : Nat) (v m : Entry) : (draft s e x t i v m).2.2.ninstr = x.ninstr := by
  rw [draft_frame]

/-- A list of drafts changes nothing of the engine but its drafts. -/
theorem drafts_frame (s : State) (e : Nat) (x : Engine) (ds : List (Nat × Nat × Entry × Entry)) :
    (drafts s e x ds).2.2 = { x with drafts := (drafts s e x ds).2.2.drafts } := by
  induction ds generalizing s x with
  | nil => rfl
  | cons d ds ih =>
    obtain ⟨t, i, v, m⟩ := d
    unfold drafts
    simp only []
    split
    · exact draft_frame ..
    · rw [ih]
      exact congrArg (fun y : Engine => { y with drafts := (drafts (draft s e x t i v m).2.1 e (draft s e x t i v m).2.2 ds).2.2.drafts })
        (draft_frame s e x t i v m)

@[simp] theorem drafts_pc (s : State) (e : Nat) (x : Engine) (ds : List (Nat × Nat × Entry × Entry)) : (drafts s e x ds).2.2.pc = x.pc := by
  rw [drafts_frame]
@[simp] theorem drafts_ninstr (s : State) (e : Nat) (x : Engine) (ds : List (Nat × Nat × Entry × Entry)) :
    (drafts s e x ds).2.2.ninstr = x.ninstr := by
  rw [drafts_frame]

/-- A draft that is allowed: nothing of the state changes, and the bits are entered. -/
theorem draft_allowed {s : State} {e : Nat} {x : Engine} {t i : Nat} {v mask : Entry} (h : Draftable s e x t i v mask) :
    draft s e x t i v mask = (0, s, putDraft s x t i v mask) := by
  obtain ⟨h1, h2, h3, h4, h5, h6, h7⟩ := h
  unfold draft draftAny
  simp only [h1, h2, h4, h5, h6]
  rw [if_neg (by simp), if_neg (by simp), if_neg h3, if_neg (by simp), if_neg (by simp), if_neg (by simp), if_neg]
  rintro ⟨h8, h9⟩
  rcases h7 with h7 | h7
  · rw [Option.isNone_iff_eq_none] at h8; rw [h8] at h7; cases h7
  · omega

/-- What an access that passes the fence leaves: nothing is recorded. -/
theorem memCheck_passes {s : State} {x : Engine} {a n : Nat} {wr : Bool} {m sp q : Nat} (h : Passes s x a n wr m sp q) : memCheck s x a n wr = (0, s) := by
  obtain ⟨h1, h2, h3⟩ := h
  unfold memCheck fenceCheck recordDenial
  simp only [h1, h2, h3]
  rfl

/-- What a denied access leaves: the denial's record. -/
theorem memCheck_denied {s : State} {x : Engine} {a n : Nat} {wr : Bool} {m st : Nat} {acc : Access} (h : Denied s x a n wr m st acc) :
    memCheck s x a n wr = (st, recordDenial s m acc (judgeAccess s m acc)) := by
  obtain ⟨h1, h2, h3, h4, h5, h6, h7⟩ := h
  obtain ⟨sp, q, l, r, w⟩ := acc
  simp only at h2 h3 h4 h5
  subst h3 h4 h5
  unfold memCheck fenceCheck
  simp only [h1, h2, h6]
  rfl

/-- What an access to a reachable partition leaves: nothing is recorded. -/
theorem memCheck_inHbm {s : State} {x : Engine} {a n h : Nat} (hh : InHbm s x a n h) (wr : Bool) : memCheck s x a n wr = (0, s) := by
  unfold memCheck
  simp only [hh.1, hh.2]
  rfl

@[simp] theorem wordBytes_length (w : Word) : (wordBytes w).length = 8 := by
  unfold wordBytes; rw [List.length_map, List.length_range]

@[simp] theorem wordsBytes_length (ws : List Word) : (wordsBytes ws).length = 8 * ws.length := by
  induction ws with
  | nil => rfl
  | cons w ws ih =>
    unfold wordsBytes at ih ⊢
    rw [List.flatMap_cons, List.length_append, wordBytes_length, ih, List.length_cons]
    omega

/-- A read that leaves the device has no words yet, and asks the master's path. -/
theorem memLocal_passes {s : State} {x : Engine} {a n m sp q : Nat} (h : Passes s x a (8 * n) false m sp q) : memLocal s x a n = none := by
  obtain ⟨_, h2, _⟩ := h
  unfold memLocal; rw [h2]

theorem memAsk_passes {s : State} {x : Engine} {e a n m sp q : Nat} (h : Passes s x a (8 * n) false m sp q) :
    memAsk s e x a n = asks s e x m sp q n := by
  obtain ⟨_, h2, _⟩ := h
  unfold memAsk; rw [h2]; rfl

theorem memStore_passes {s : State} {x : Engine} {e a m sp q : Nat} {bs : List Byte} (h : Passes s x a bs.length true m sp q) :
    memStore s e x a bs = sends s e x m sp q bs := by
  obtain ⟨_, h2, _⟩ := h
  unfold memStore; rw [h2]; rfl

theorem memLocal_inHbm {s : State} {x : Engine} {a n h : Nat} (hh : InHbm s x a (8 * n) h) :
    memLocal s x a n = some (bytesWords (hbmRead s h (8 * n)) n, s) := by
  unfold memLocal; rw [hh.2]

theorem memStore_inHbm {s : State} {x : Engine} {e a h : Nat} {bs : List Byte} (hh : InHbm s x a bs.length h) : memStore s e x a bs = hbmWrite s h bs := by
  unfold memStore; rw [hh.2]

theorem nth_getD {α : Type} (d : α) (l : List α) (i : Nat) : nth d l i = l.getD i d := by
  induction l generalizing i with
  | nil => rfl
  | cons x xs ih => cases i with
    | zero => rfl
    | succ i => exact ih i

/-- Taking the first n words of n words that were taken changes nothing. -/
@[simp] theorem map_nth_range (data : List Word) (n : Nat) :
    (List.range n).map (nth 0 ((List.range n).map (nth 0 data))) = (List.range n).map (nth 0 data) := by
  apply List.map_congr_left
  intro i hi
  rw [List.mem_range] at hi
  simp [nth_getD, List.getD, hi]

/-- An instruction's draft, where the value rules of the table and what they read allow it too. -/
theorem draftRuled_allowed {s : State} {e : Nat} {x : Engine} {t i : Nat} {v mask : Entry} (hr : RuledDraftable s e (ruleReads s x t v mask) t i v mask) :
    draftRuled s e x t i v mask false = (0, s, putDraft s (ruleReads s x t v mask) t i v mask) := by
  obtain ⟨hb, hr, h⟩ := hr
  have hd := draft_allowed h
  unfold draft at hd
  unfold draftRuled
  rw [if_neg (by simp [h.1])] at hd
  simp only []
  rw [if_neg (by simp [h.1]), if_neg (by simp [hb])]
  simpa [hr] using hd

/-- The same for a table whose value rules read no other entry. -/
theorem draftRuled_plain {s : State} {e : Nat} {x : Engine} {t i : Nat} {v mask : Entry} (h1 : t ≠ 0x0C) (h2 : t ≠ 0x10)
    (hr : refusedValue s x t i (merge (seenVal s x t i) v mask) mask = false) (h : Draftable s e x t i v mask) :
    draftRuled s e x t i v mask false = (0, s, putDraft s x t i v mask) := by
  have hx : ruleReads s x t v mask = x := by unfold ruleReads; rw [if_neg (fun hh => h1 hh.1)]
  have hr' : RuledDraftable s e (ruleReads s x t v mask) t i v mask := by
    rw [hx]
    exact ⟨by unfold belowBound; simp [h2], hr, h⟩
  have := draftRuled_allowed hr'
  rwa [hx] at this

@[simp] theorem recordRead_pc (s : State) (x : Engine) (t i : Nat) : (recordRead s x t i).pc = x.pc := by
  unfold recordRead; extract_lets k; split <;> rfl
@[simp] theorem recordRead_ninstr (s : State) (x : Engine) (t i : Nat) : (recordRead s x t i).ninstr = x.ninstr := by
  unfold recordRead; extract_lets k; split <;> rfl

@[simp] theorem readsOf_pc (s : State) (x : Engine) (l : List (Nat × Nat)) : (readsOf s x l).pc = x.pc := by
  unfold readsOf
  induction l generalizing x with
  | nil => rfl
  | cons k l ih => rw [List.foldl_cons, ih, recordRead_pc]
@[simp] theorem readsOf_ninstr (s : State) (x : Engine) (l : List (Nat × Nat)) : (readsOf s x l).ninstr = x.ninstr := by
  unfold readsOf
  induction l generalizing x with
  | nil => rfl
  | cons k l ih => rw [List.foldl_cons, ih, recordRead_ninstr]
@[simp] theorem ruleReads_pc (s : State) (x : Engine) (t : Nat) (v m : Entry) : (ruleReads s x t v m).pc = x.pc := by
  unfold ruleReads; split
  · exact recordRead_pc ..
  · rfl
@[simp] theorem ruleReads_ninstr (s : State) (x : Engine) (t : Nat) (v m : Entry) : (ruleReads s x t v m).ninstr = x.ninstr := by
  unfold ruleReads; split
  · exact recordRead_ninstr ..
  · rfl

/-- A macro of one step whose drafts are allowed: it enters them and moves on. -/
theorem macroOp_draft {s : State} {e op : Nat} {masks : List Nat} {flags : Nat} {eng : MacroEng}
    {f : State → Engine → (Nat → Word) → Nat × State × Engine} {t i : Nat} {v mask : Entry} (h : Begins s e op masks flags eng false)
    (hf : f s (regSet (engineOf s e) 1 0) (blockWord (engineOf s e) (wordAt (engineOf s e))) = draft s e (regSet (engineOf s e) 1 0) t i v mask)
    (hd : Draftable s e (regSet (engineOf s e) 1 0) t i v mask) :
    macroOp s e op masks flags eng f = moveOk s e (putDraft s (regSet (engineOf s e) 1 0) t i v mask) := by
  unfold macroOp
  rw [macroThen_begins h]
  simp only [hf, draft_allowed hd]
  exact finish_moveOk _ _ _ (by simpa using h.1.2)

/-- A macro of one step that ends OK. -/
theorem macroOp_ok {s : State} {e op : Nat} {masks : List Nat} {flags : Nat} {eng : MacroEng}
    {f : State → Engine → (Nat → Word) → Nat × State × Engine} {s' : State} {x' : Engine} (h : Begins s e op masks flags eng false)
    (hf : f s (regSet (engineOf s e) 1 0) (blockWord (engineOf s e) (wordAt (engineOf s e))) = (0, s', x')) (hx : x'.pc + 1 < x'.ninstr) :
    macroOp s e op masks flags eng f = moveOk s' e x' := by
  unfold macroOp
  rw [macroThen_begins h]
  simp only [hf]
  exact finish_moveOk _ _ _ hx

/-- A macro of one step that ends with a status other than OK: its chart ends with it. -/
theorem macroOp_bad {s : State} {e op : Nat} {masks : List Nat} {flags : Nat} {eng : MacroEng}
    {f : State → Engine → (Nat → Word) → Nat × State × Engine} {s' : State} {x' : Engine} {st : Nat} (h : Begins s e op masks flags eng false)
    (hf : f s (regSet (engineOf s e) 1 0) (blockWord (engineOf s e) (wordAt (engineOf s e))) = (st, s', x')) (hx : st ≠ 0) :
    macroOp s e op masks flags eng f = endChart (setEngine s' e x') e st x'.pc := by
  unfold macroOp
  rw [macroThen_begins h]
  simp only [hf]
  exact finish_bad _ _ _ _ hx

/-- A mask that covers whole fields, and an allowed draft: TWR's masked draft enters it. -/
theorem draftMasked_allowed {s : State} {e : Nat} {x : Engine} {t i : Nat} {v m : Entry} (h : maskWhole t m = true) (hd : Draftable s e x t i v m) :
    draftMasked s e x t i v m = (0, s, putDraft s x t i v m) := by
  unfold draftMasked; rw [if_neg (by simp [h]), draft_allowed hd]

end Sys2Proof.Machine
end

