-- ==== Sys2Proof/Tests/Slice0.lean ====
section
/-! SUPPORT. Small tests, and for each statement a state that meets its premises. -/
namespace Sys2Proof.Tests
set_option Elab.async false
open Sys2Proof Sys2Proof.Machine

/-! Builders of small states. -/

/-- The device after boot: masters released, power present, Meridian and the Steward running, every tile's and slice's store at reset. -/
def live : State :=
  { State.reset with boot := { State.reset.boot with strapped := true, pwrOk := true, settings := true, steward := true }, clock := 1000 }

/-- s with table entries set. -/
def put (s : State) (l : List (Nat × Nat × Nat)) : State := l.foldl (fun s e => setTab s e.1 e.2.1 (BitVec.ofNat 256 e.2.2) 0) s

/-- An instruction word of Format R, D or I: opcode, GD, GA, GB, IMM16. -/
def ins (op gd ga gb imm : Nat) : Nat := op * 2 ^ 56 + gd * 2 ^ 48 + ga * 2 ^ 44 + gb * 2 ^ 40 + imm

/-- A Fabric-tier chart of submitter 0x8001 whose two instructions are w and END. -/
def chart (w : Nat) (regs : List (Nat × Nat)) (dmem : List Nat) : Engine :=
  { origin := .resident 0 0, sub := 0x8001, tier := 2, ninstr := 2, imem := [(0, BitVec.ofNat 64 w)]
    regs := regs.foldl (fun m r => smSet 0 m r.1 (BitVec.ofNat 64 r.2)) []
    dmem := smSetRun 0 [] 0 (dmem.map (BitVec.ofNat 64)) }

/-- s with that chart on engine 12, a global engine. -/
def on (s : State) (x : Engine) : State := { s with engines := [(12, x)] }

/-- Engine 12 at the instruction, with these registers. -/
def atIns (s : State) (op gd ga gb imm : Nat) (regs : List (Nat × Nat)) : State := on s (chart (ins op gd ga gb imm) regs [])

/-- A macro word: its block is at the address in G4, 0x8000. -/
def mac (op len flags : Nat) : Nat := op * 2 ^ 56 + 4 * 2 ^ 48 + len * 2 ^ 40 + flags * 2 ^ 32

/-- Engine 12 at the macro with this block. -/
def atMac (s : State) (op : Nat) (block : List Nat) (flags : Nat := 0) : State :=
  on s (chart (mac op block.length flags) [(4, 0x8000)] block)

/-- The premises on the block and its draft of a macro that drafts one entry, with the block's words. -/
abbrev draftsOk (s : State) (op : Nat) (masks : List Nat) (eng : MacroEng) (t i : Nat) (v mask : Entry) : Prop :=
  Begins s 12 op masks 0 eng false ∧ Draftable s 12 (regSet (engineOf s 12) 1 0) t i v mask

/-! Steps and time. -/

/-- An idle nanosecond before and after PWR_OK, at a microsecond with a slew. -/
theorem test_wit_idle :
    State.reset.pending = [] ∧ State.reset.boot.pwrOk = false ∧
    live.pending = [] ∧ live.boot.pwrOk = true ∧
    (live.clock + 1) % 1000 ≠ 0 ∧ ({ live with clock := 999, tsync := { slew := -3 } } : State).boot.pwrOk = true := by decide +kernel

/-- A state in canonical form from which a step goes on. -/
theorem test_wit_goes : Canonical live ∧ Goes live (idleTick live) := ⟨by decide +kernel, rfl⟩

/-- A command that answers a next state. -/
theorem test_wit_exec : exec .commitJudgement State.reset = .next State.reset := rfl

/-- An empty queue idles. -/
theorem test_step_idle : (match step live with | .next t => t.clock == 1001 && t.ts == 1 | _ => false) = true := by decide +kernel
/-! Arithmetic, logic, moves and flow. -/

theorem test_wit_alu : ∀ op ∈ [0x08, 0x09, 0x0A, 0x0B, 0x0C, 0x0D, 0x0E, 0x0F, 0x12],
    Runs (atIns live op 1 2 3 0xFFFF [(2, 5), (3, 7)]) 12 op := by decide +kernel

theorem test_wit_compare : ∀ op ∈ [0x10, 0x11], Runs (atIns live op 0 2 3 0xFFFF [(2, 5), (3, 7)]) 12 op := by decide +kernel

/-- Fields that end at bit 63 and one bit beyond. -/
theorem test_wit_bits : ∀ op ∈ [0x13, 0x14],
    (let s := atIns live op 1 2 0 (31 * 64 + 32) [(2, 5)]
     Runs s 12 op ∧ wfld (wordAt (engineOf s 12)) 0 6 + (wfld (wordAt (engineOf s 12)) 6 6 + 1) = 64) ∧
    (let s := atIns live op 1 2 0 (31 * 64 + 33) [(2, 5)]
     Stands s 12 op ∧ 64 < wfld (wordAt (engineOf s 12)) 0 6 + (wfld (wordAt (engineOf s 12)) 6 6 + 1)) := by decide +kernel

theorem test_wit_moves : ∀ op ∈ [0x03, 0x04, 0x18, 0x19, 0x35], Runs (atIns live op 1 0 0 0 []) 12 op := by decide +kernel

/-- The first and last words of the data area. -/
theorem test_wit_ld_st : ∀ c ∈ [(0x20, 1, 0), (0x21, 0, 3)], ∀ a ∈ [0x8000, 0xFFF8],
    let s := atIns live c.1 c.2.1 2 c.2.2 0 [(2, a)]
    Runs s 12 c.1 ∧ (regGet (engineOf s 12) (gaOf (wordAt (engineOf s 12))) + wordOfInt (sext (immOf (wordAt (engineOf s 12))) 16)).toNat = a ∧
      a % 8 = 0 ∧ 0x8000 ≤ a ∧ a + 8 ≤ 0x10000 := by decide +kernel

/-- Misaligned, below and above the data area. -/
theorem test_wit_ld_st_fault : ∀ c ∈ [(0x20, 1, 0), (0x21, 0, 3)], ∀ a ∈ [0x8001, 0x7FF8, 0x10000],
    let s := atIns live c.1 c.2.1 2 c.2.2 0 [(2, a)]
    Stands s 12 c.1 ∧ (regGet (engineOf s 12) (gaOf (wordAt (engineOf s 12))) + wordOfInt (sext (immOf (wordAt (engineOf s 12))) 16)).toNat = a ∧
      (a % 8 ≠ 0 ∨ a < 0x8000 ∨ 0x10000 < a + 8) := by decide +kernel

/-- Engine 12 at B.cc with this condition and offset. -/
def branch (cc off : Nat) : State := on live (chart (0x01 * 2 ^ 56 + cc * 2 ^ 52 + off) [] [])

/-- Not taken; taken to the last instruction, one beyond it, one before the first; a reserved condition. -/
theorem test_wit_branch :
    (Runs (branch 1 0) 12 0x01 ∧ condHolds (engineOf (branch 1 0) 12) 1 = false) ∧
    (∀ c ∈ [(1, (1 : Int)), (2, 2), (0xFFFFFF, -1)], Stands (branch 0 c.1) 12 0x01 ∧ condHolds (engineOf (branch 0 c.1) 12) 0 = true ∧
      (0 : Int) + sext (wfld (wordAt (engineOf (branch 0 c.1) 12)) 0 24) 24 = c.2 ∧ (engineOf (branch 0 c.1) 12).ninstr = 2) ∧
    Stands (branch 9 0) 12 0x01 ∧ 9 ≤ wfld (wordAt (engineOf (branch 9 0) 12)) 52 4 := by decide +kernel

/-- WAIT of 0, 1,000,000, 1,000,001 and -1 microseconds. -/
theorem test_wit_wait : ∀ t ∈ [(0, (0 : Int)), (1000000, 1000000), (1000001, 1000001), (2 ^ 64 - 1, -1)],
    let s := atIns live 0x02 0 2 0 0 [(2, t.1)]
    Stands s 12 0x02 ∧ (regGet (engineOf s 12) 2 + (regGet (engineOf s 12) 0 + wordOfInt (sext 0 16))).toInt = t.2 := by decide +kernel

/-- A timer that ends now. -/
theorem test_wit_wait_end :
    let x := { chart (ins 0x02 0 0 0 0) [] [] with wait := .timer 1000 }
    (on live x).clock = 1000 ∧ (engineOf (on live x) 12).wait = .timer 1000 ∧ (on live x).paused = none ∧ x.pc + 1 < x.ninstr := by decide +kernel

theorem test_wit_end_fail_abort :
    Stands (atIns live 0x00 0 0 0 0 []) 12 0x00 ∧
    (∀ c ∈ [1, 10], Stands (atIns live 0x05 0 0 0 c []) 12 0x05 ∧ wfld (wordAt (engineOf (atIns live 0x05 0 0 0 c []) 12)) 0 8 = c) ∧
    Runs (atIns live 0x34 0 0 0 0 []) 12 0x34 := by decide +kernel

/-- One nanosecond beyond TLIM 1. -/
theorem test_wit_chart_timeout :
    let s := on { put live [(0x30, 16, 2 ^ 108)] with clock := 10000001 } { chart 0 [] [] with origin := .ring 16 }
    let x := engineOf s 12
    x.origin ≠ .none ∧ x.wait = .run ∧ x.seq = 0 ∧ s.paused = none ∧ overTime s x = true := by decide +kernel

/-- Claims 227 and 228, free and held; entries 511 and 512 of QCLAIM. -/
theorem test_wit_claims :
    (let s := atIns live 0x38 0 2 0 0 [(2, 227)]
     Runs s 12 0x38 ∧ claimOwner s 227 = 0xFFFF ∧ (engineOf s 12).sub ≠ 0xFFFF) ∧
    (let s := { atIns live 0x38 0 2 0 0 [(2, 227)] with claims := [(227, 0x8001)] }
     Runs s 12 0x38 ∧ claimOwner s 227 = (engineOf s 12).sub) ∧
    (let s := { atIns live 0x38 0 2 0 0 [(2, 227)] with claims := [(227, 0x8002)] }
     Stands s 12 0x38 ∧ claimOwner s 227 ≠ (engineOf s 12).sub ∧ claimOwner s 227 ≠ 0xFFFF) ∧
    Stands (atIns live 0x38 0 2 0 1 [(2, 227)]) 12 0x38 ∧
    Runs (atIns live 0x3A 1 2 0 0 [(2, 511)]) 12 0x3A ∧ Stands (atIns live 0x3A 1 2 0 1 [(2, 511)]) 12 0x3A := by decide +kernel

/-- ADD of 5 and 7 - 1 writes 11; SUB of equal operands sets Z and C. -/
theorem test_add_sub :
    regGet (engineOf (match exec (.add 12) (atIns live 0x08 1 2 3 0xFFFF [(2, 5), (3, 7)]) with | .next t => t | _ => live) 12) 1 = 11 ∧
    (engineOf (match exec (.cmp 12) (atIns live 0x10 0 2 3 0 [(2, 5), (3, 5)]) with | .next t => t | _ => live) 12).flagZ = true ∧
    (engineOf (match exec (.cmp 12) (atIns live 0x10 0 2 3 0 [(2, 5), (3, 5)]) with | .next t => t | _ => live) 12).flagC = true := by decide +kernel

/-! Memory instructions, answers to reads and fetch. -/

/-- Engine 12 at a memory instruction of a chart of this submitter and master. -/
def atMem (s : State) (sub m op gd ga gb : Nat) (regs : List (Nat × Nat)) : State :=
  on s { chart (ins op gd ga gb 0) regs [] with sub := sub, master := some m }

/-- HLD and HST at 0x1000 by the master of port 0, unfenced. -/
theorem test_wit_hld_hst : ∀ c ∈ [(0x22, 1, 0, false), (0x23, 0, 3, true)],
    let s := atMem live 0x2000 0 c.1 c.2.1 2 c.2.2.1 [(2, 0x1000)]
    Runs s 12 c.1 ∧ 0x1000 % 8 = 0 ∧ (engineOf s 12).subReset = false ∧ subPath s 0x2000 (some 0) 0x1000 8 = .ext 0 0 0x1000 ∧
      (judgeAccess s 0 ⟨0, 0x1000, 8, !c.2.2.2, c.2.2.2⟩).1 = 0 := by decide +kernel

theorem test_wit_hld_passes :
    let s := atMem live 0x2000 0 0x22 1 2 0 [(2, 0x1000)]
    Passes s (engineOf s 12) 0x1000 8 false 0 0 0x1000 := ⟨by decide +kernel, by decide +kernel, by decide +kernel⟩

/-- HGET and HPUT of 1 and of 4,096 words to and from the whole data area. -/
theorem test_wit_hget_hput : ∀ c ∈ [(0x24, false), (0x25, true)], ∀ n ∈ [1, 4096],
    let s := atMem live 0x2000 0 c.1 1 2 3 [(1, 0x8000), (2, 0x1000), (3, n)]
    Runs s 12 c.1 ∧ 0x8000 + 8 * n ≤ 0x10000 ∧ (engineOf s 12).subReset = false ∧
      subPath s 0x2000 (some 0) 0x1000 (8 * n) = .ext 0 0 0x1000 ∧ (judgeAccess s 0 ⟨0, 0x1000, 8 * n, !c.2, c.2⟩).1 = 0 := by decide +kernel

/-- The Steward core's own partition. -/
theorem test_wit_hbm : ∀ c ∈ [(0x22, 1, 2, 0), (0x23, 0, 2, 3), (0x24, 1, 2, 3), (0x25, 1, 2, 3)],
    let s := atMem live 0x4000 144 c.1 c.2.1 c.2.2.1 c.2.2.2 [(1, 0x8000), (2, 0x1000), (3, 1)]
    Runs s 12 c.1 ∧ InHbm s (engineOf s 12) 0x1000 8 0x800001000 := by decide +kernel

/-- A fence region of master 0 over [0, 0x1000), and the same span as a lock region, without rights. -/
theorem test_wit_denied : ∀ c ∈ [(0x22, 1, 2, 0, false), (0x23, 0, 2, 3, true), (0x24, 1, 2, 3, false), (0x25, 1, 2, 3, true)],
    (let s := atMem (put live [(0x39, 0, 64 * 2 ^ 12)]) 0x2000 0 c.1 c.2.1 c.2.2.1 c.2.2.2.1 [(1, 0x8000), (2, 0xFF8), (3, 1)]
     Stands s 12 c.1 ∧ Denied s (engineOf s 12) 0xFF8 8 c.2.2.2.2 0 1 ⟨0, 0xFF8, 8, !c.2.2.2.2, c.2.2.2.2⟩) ∧
    (let s := atMem { live with locks := [(0, 64 * 2 ^ 12 + 2 ^ 131)] } 0x2000 0 c.1 c.2.1 c.2.2.1 c.2.2.2.1 [(1, 0x8000), (2, 0xFF8), (3, 1)]
     Stands s 12 c.1 ∧ Denied s (engineOf s 12) 0xFF8 8 c.2.2.2.2 0 9 ⟨0, 0xFF8, 8, !c.2.2.2.2, c.2.2.2.2⟩) := by decide +kernel

theorem test_wit_hld_misaligned : ∀ c ∈ [(0x22, 1, 2, 0), (0x23, 0, 2, 3)],
    Stands (atMem live 0x2000 0 c.1 c.2.1 c.2.2.1 c.2.2.2 [(2, 0x1004)]) 12 c.1 ∧ 0x1004 % 8 ≠ 0 := by decide +kernel

/-- Engines that wait for each kind of read. -/
theorem test_wit_answers :
    (∀ w ∈ [Wait.hld 1, .hget 0 2, .fetchEntry, .fetchInstr, .fetchData],
      let x := engineOf (on live { chart 0 [] [] with wait := w }) 12
      x.origin ≠ .none ∧ x.wait = w ∧ x.pc + 1 < x.ninstr) ∧
    (let x := { chart 0 [] [] with wait := .fetchInstr }
     x.ndata = 0 ∧ scanOps x.tier ((List.range x.ninstr).map (smGet 0 (smSetRun 0 [] 0 ((List.range x.ninstr).map (nth 0 []))))) = 0 ∧
      scanOps x.tier ((List.range x.ninstr).map (smGet 0 (smSetRun 0 [] 0 ((List.range x.ninstr).map (nth 0 [BitVec.ofNat 64 (2 ^ 64 - 1)]))))) ≠ 0) := by
  decide +kernel

/-- Ring 16 of port 0's function with one entry at 0x4000, to be served by the global engines. -/
def ringed : State :=
  { put live [(0x01, 0, 1), (0x30, 16, 0x100 * 2 ^ 198 + 0x2000 * 2 ^ 116 + 12 * 2 ^ 104 + 2 ^ 100)] with rings := [(16, { cmdTail := 1 })] }

theorem test_wit_fetch :
    mayFetch ringed 12 = true ∧ (smGet {} ringed.rings 8).msgs = [] ∧ ringed.residents = [] ∧ ringed.internals = [] ∧
    nextRing (smGet 0 ringed.ringTurn 12) (ringsFor ringed 12) = some 16 ∧
    subMaster ringed 0x2000 16 0 = some 0 ∧ fld (tabVal ringed 0x30 16) 198 58 * 64 = 0x4000 ∧
    subPath ringed 0x2000 (some 0) 0x4000 64 = .ext 0 0 0x4000 ∧ (judgeAccess ringed 0 ⟨0, 0x4000, 64, true, false⟩).1 = 0 := by decide +kernel

/-- HST in the Steward's partition stores the word; HLD reads it. -/
theorem test_hst_hbm :
    let s := atMem live 0x4000 144 0x23 0 2 3 [(2, 0x1000), (3, 0x1122334455667788)]
    (match exec (.hst 12) s with | .next t => hbmRead t 0x800001000 8 | _ => []) = wordBytes 0x1122334455667788 := by decide +kernel
/-! Drafts, table instructions, drains and claims. -/

/-- Engine 12 at TRD, TWR or TCLR of table t with this FSEL, index in G2, value in G1. -/
def atTab (s : State) (op t fsel i v : Nat) : State :=
  on s (chart (op * 2 ^ 56 + t * 2 ^ 48 + 2 * 2 ^ 44 + (if op = 0x32 then 0 else 2 ^ 40) + fsel * 2 ^ 32) [(1, v), (2, i)] [])

/-- A bit that may be drafted; one in another chart's reservation; one in a locked field. -/
theorem test_wit_draftable :
    Draftable live 12 (chart 0 [] []) 0x06 95 (ones 0 1) (ones 0 16) ∧
    ¬Draftable { live with engines := [(13, { chart 0 [] [] with drafts := [⟨tkey 0x06 95, 0, ones 0 16, 0⟩] })] } 12 (chart 0 [] []) 0x06 95 1 (ones 0 16) := by
  decide +kernel

theorem test_wit_trd :
    (tableInfo 0x06 = some ⟨.rw, 64, 96⟩ ∧ entryExists live 0x06 95 = true ∧ Runs (atTab live 0x30 0x06 0 95 0) 12 0x30 ∧
      selOf 0x06 0 = .field (fRW 0 16)) ∧
    (Runs (atTab live 0x30 0x06 0xF0 95 0) 12 0x30 ∧ selOf 0x06 0xF0 = .word 0) := by decide +kernel

theorem test_wit_twr :
    (let s := atTab live 0x31 0x06 0 95 0xFFFF
     let v := mkEntry [(0, 0xFFFF)]
     Runs s 12 0x31 ∧ entryExists s 0x06 95 = true ∧ (fRW 0 16).ro = false ∧ 0xFFFF < 2 ^ (fRW 0 16).w ∧
      RuledDraftable s 12 (ruleReads s (engineOf s 12) 0x06 v (fldMask (fRW 0 16))) 0x06 95 v (fldMask (fRW 0 16))) ∧
    (let s := atTab live 0x31 0x06 0xF0 95 1
     let mask := draftable 0x06 &&& wordBits 0
     Runs s 12 0x31 ∧ mask ≠ 0 ∧ BitVec.ofNat 256 1 &&& unionMask (fields 0x06) = BitVec.ofNat 256 1 ∧
      RuledDraftable s 12 (ruleReads s (engineOf s 12) 0x06 1 mask) 0x06 95 1 mask) ∧
    (let s := atTab live 0x32 0x06 0 95 0
     Runs s 12 0x32 ∧ Draftable s 12 (engineOf s 12) 0x06 95 (bootEntry s 0x06 95 &&& draftable 0x06) (draftable 0x06)) := by decide +kernel

/-- A reserved table, a digest-only one, an index beyond the table, an RO table. -/
theorem test_wit_table_refused : ∀ op ∈ [0x30, 0x31, 0x32],
    (Stands (atTab live op 0x7F 0 0 0) 12 op ∧ tableInfo 0x7F = none) ∧
    (Stands (atTab live op 0x0B 0 11 0) 12 op ∧ tableInfo 0x0B = some ⟨.digest, 8, 12⟩ ∧ entryExists live 0x0B 11 = true) ∧
    (Stands (atTab live op 0x06 0 96 0) 12 op ∧ entryExists live 0x06 96 = false) ∧
    (Stands (atTab live op 0x0A 0 1 0) 12 op ∧ tableInfo 0x0A = some ⟨.ro, 32, 2⟩ ∧ entryExists live 0x0A 1 = true) := by decide +kernel

theorem test_wit_drain :
    (let s := atIns live 0x36 0 2 0 0 [(2, 95)]
     Runs s 12 0x36 ∧ portExists s 95 = true ∧ drainOver s 0 95 s.commitNum = true) ∧
    (let s := atIns (put live [(0x0A, 1, 2)]) 0x36 0 2 0 (3 + 4 * 1) []
     Runs s 12 0x36 ∧ drainOver s 3 0 s.commitNum = false) ∧
    (let s := on (put live [(0x0A, 1, 2)]) { chart 0 [] [] with wait := .drain 3 0 0 (some 1000) }
     (engineOf s 12).wait = .drain 3 0 0 (some 1000) ∧ 1000 ≤ s.clock ∧ drainOver s 3 0 0 = false ∧ (engineOf s 12).seq = 0) := by decide +kernel

/-- Claim 227 held by the chart's submitter, by another, free, and permanent. -/
theorem test_wit_unclaim_1 :
    (let s := { atIns live 0x39 0 2 0 0 [(2, 227)] with claims := [(227, 0x8001)] }
     Runs s 12 0x39 ∧ claimOf s 227 / 0x10000 % 2 = 0 ∧ claimOwner s 227 = (engineOf s 12).sub) ∧
    (let s := { atIns live 0x39 0 2 0 0x8000 [(2, 227)] with claims := [(227, 0x8002)] }
     Runs s 12 0x39 ∧ 2 ≤ (engineOf s 12).tier ∧ claimOwner s 227 ≠ (engineOf s 12).sub ∧ claimOwner s 227 ≠ 0xFFFF) ∧
    (let s := atIns live 0x39 0 2 0 0x8000 [(2, 227)]
     Runs s 12 0x39 ∧ claimOwner s 227 = 0xFFFF) ∧
    (let s := { atIns live 0x39 0 2 0 0 [(2, 227)] with claims := [(227, 0x8002)] }
     Stands s 12 0x39 ∧ claimOf s 227 / 0x10000 % 2 = 0 ∧ claimOwner s 227 ≠ (engineOf s 12).sub) ∧
    (let s := { atIns live 0x39 0 2 0 0 [(2, 227)] with claims := [(227, 0x10000 + 0x8001)] }
     Stands s 12 0x39 ∧ claimOf s 227 / 0x10000 % 2 = 1) ∧
    Stands (atIns live 0x39 0 2 0 1 [(2, 227)]) 12 0x39 := by decide +kernel

theorem test_wit_draft_macros_1 :
    let s := atMac live 0x80 [95, 0xFFFF, 0xFFFF]
    draftsOk s 0x80 [rowBits [(6, 0)], tabWordMask 0x06 0, allBits] (.tile tileOfPort0) 0x06 95 0xFFFF 0xFFFF ∧
      portExists s 95 = true ∧ maskWhole 0x06 0xFFFF = true := by decide +kernel

theorem test_wit_draft_macros_2 :
    let s := atMac live 0x81 [95 + 96 * 2 ^ 8 + 0xFFFF * 2 ^ 16 + 1 * 2 ^ 32]
    draftsOk s 0x81 [rowBits [(6, 0), (14, 8), (31, 16), (39, 32)]] (.tile tileOfPort0) 0x07 (97 * 95 + 96)
      (mkEntry [(0, 0xFFFF), (16, 1)]) (draftable 0x07) := by decide +kernel

theorem test_wit_draft_macros_3 :
    let s := atMac live 0x90 [0, 0, 0]
    draftsOk s 0x90 [rowBits [(7, 0), (13, 8)], allBits, allBits] .glob 0x39 0 0 (draftable 0x39) ∧ entryExists s 0x39 0 = true ∧
      refusedValue s (engineOf s 12) 0x39 0 (merge (seenVal s (engineOf s 12) 0x39 0) 0 (draftable 0x39)) (draftable 0x39) = false := by decide +kernel

theorem test_wit_draft_macros_4 :
    let s := atMac live 0x91 [151 + 15 * 2 ^ 8]
    draftsOk s 0x91 [rowBits [(7, 0), (13, 8)]] .glob 0x39 (64 * 151 + 15) 0 (draftable 0x39) ∧ entryExists s 0x39 (64 * 151 + 15) = true := by decide +kernel

theorem test_wit_draft_macros_5 :
    let s := atMac live 0xA0 [31, (tabVal live 0x38 31).toNat % 2 ^ 64, (tabVal live 0x38 31).toNat / 2 ^ 64]
    let v := tabVal live 0x38 31
    draftsOk s 0xA0 [rowBits [(4, 0)], tabWordMask 0x38 0, tabWordMask 0x38 1] (.tile tileOfSlot0) 0x38 31
      (v &&& ~~~(ones 0 7)) (draftable 0x38 &&& ~~~(ones 0 7)) := by decide +kernel

/-- No port, and the last one. -/
theorem test_wit_draft_macros_6 : ∀ q ∈ [127, 95],
    let s := atMac live 0xA1 [31 + q * 2 ^ 8]
    let x := regSet (engineOf s 12) 1 0
    Begins s 12 0xA1 [rowBits [(4, 0), (14, 8)]] 0 .glob false ∧ portExists s 95 = true ∧
      (List.range 32).all (fun k => decide (k = 31) || fld (seenVal s x 0x38 k) 0 7 != 95) = true ∧
      Draftable s 12 (readsOf s x (((List.range 32).filter fun k => q != 127 && k != 31).map fun k => (0x38, k))) 0x38 31 (BitVec.ofNat 256 q) (ones 0 7) := by
  decide +kernel

theorem test_wit_draft_macros_7 :
    let s := atMac live 0xD0 [11 + 7 * 2 ^ 8]
    draftsOk s 0xD0 [rowBits [(3, 0), (10, 8)]] (.tile tileOf0) 0x0B 11 6 (draftable 0x0B) := by decide +kernel

theorem test_wit_event_macros_1 :
    let s := atMac live 0xB0 [0x580, 0]
    draftsOk s 0xB0 [rowBits [(10, 0)], tabWordMask 0x3A 0] .glob 0x3A 0x580 0 (draftable 0x3A) ∧ esidKnown 0x580 = true := by decide +kernel

theorem test_wit_event_macros_2 :
    ∀ src ∈ [0x580 * 2 ^ 44 + 1 * 2 ^ 61, 5 * 2 ^ 44 + 2 * 2 ^ 55 + 2 * 2 ^ 61],
    let s := atMac live 0xB1 [1023, src]
    let v := BitVec.ofNat 256 src
    draftsOk s 0xB1 [rowBits [(9, 0)], tabWordMask 0x3B 0] .glob 0x3B 1023 v (draftable 0x3B) ∧
      (fld v 55 2 ≠ 2 ∧ esidKnown (fld v 44 11) = true ∨ fld v 55 2 = 2 ∧ fld v 44 11 ≤ 5) ∧
      refusedValue s (engineOf s 12) 0x3B 1023 (merge (seenVal s (engineOf s 12) 0x3B 1023) v (draftable 0x3B)) (draftable 0x3B) = false := by decide +kernel

theorem test_wit_event_macros_3 :
    Begins (atMac live 0xB2 [15, 2 ^ 64 - 1]) 12 0xB2 [rowBits [(3, 0)], allBits] 0 .any false := by decide +kernel

theorem test_wit_event_macros_4 :
    let s := { atMac live 0xB3 [63, 63 * 2 ^ 18, 0] with claims := [(111, 0x8001)] }
    draftsOk s 0xB3 [rowBits [(5, 0)], tabWordMask 0x32 0, tabWordMask 0x32 1] .any 0x32 63 (BitVec.ofNat 256 (63 * 2 ^ 18)) (draftable 0x32) := by decide +kernel

theorem test_wit_event_macros_5 :
    let s := atMac live 0xB8 [0, 0]
    draftsOk s 0xB8 [rowBits [(15, 0)], tabWordMask 0x3C 0] (.tile tileOfCounter0) 0x3C 0 0 (draftable 0x3C) ∧ entryExists s 0x3C 0 = true ∧
      refusedValue s (engineOf s 12) 0x3C 0 (merge (seenVal s (engineOf s 12) 0x3C 0) 0 (draftable 0x3C)) (draftable 0x3C) = false := by decide +kernel

/-- A schedule switched off, one to a partition, one to the USP at port 0. -/
theorem test_wit_event_macros_6 : ∀ c ∈ [(0, 2 ^ 8 + 2 ^ 16), (0x880000001, 2 ^ 8 + 2 ^ 16), (2, 2 ^ 8 + 2 ^ 16)],
    let s := { atMac (put live [(0x01, 0, 1)]) 0xB9 [c.1, c.2] with claims := [(114, 0x8001)] }
    let x := regSet (engineOf s 12) 1 0
    let u := entryOfWords [BitVec.ofNat 64 c.1, BitVec.ofNat 64 c.2]
    let y := if fld u 0 2 = 2 then readsOf s x [(0x01, fld u 8 7)] else x
    Begins s 12 0xB9 [tabWordMask 0x40 0, tabWordMask 0x40 1] 0 .glob false ∧ hasReserved 0x40 0 u (draftable 0x40) = false ∧ fld u 0 2 = c.1 % 4 ∧
      (c.1 % 4 = 1 → partitionCheck s x.sub (fld u 15 49 * 2 ^ 15) (fld u 72 8 * 32768) = 0) ∧
      (c.1 = 2 → vWidth (viewOf s x) (fld u 8 7) ≠ 0 ∧ vRole (viewOf s x) (fld u 8 7) = 1) ∧ Draftable s 12 y 0x40 0 u (draftable 0x40) := by decide +kernel

theorem test_wit_event_macros_7 :
    let s := atMac (put live [(0x3D, 2047, 1)]) 0xBA [2047 + 2 ^ 16]
    draftsOk s 0xBA [rowBits [(10, 0), (16, 16)]] (.tile tileOfVf0) 0x3D 2047 (mkEntry [(50, 1)]) (ones 50 1) ∧
      funcState s 2047 ≠ 0 ∧ mayActOnVf s (engineOf s 12) 2047 = true := by decide +kernel

theorem test_wit_event_macros_8 :
    let s := atMac live 0xBB [0x08FF]
    Begins s 12 0xBB [rowBits [(15, 0)]] 0 (.tile tileOfCounter0) false ∧ entryExists s 0x3C 0x08FF = true ∧ 2 ≤ (engineOf s 12).tier := by decide +kernel

theorem test_wit_event_macros_9 :
    let s := { atMac live 0xBC [3, 0, 0] with claims := [(131, 0x8001)] }
    draftsOk s 0xBC [rowBits [(1, 0)], tabWordMask 0x3F 0, tabWordMask 0x3F 1] .glob 0x3F 3 0 (draftable 0x3F) := by decide +kernel

/-- A Host-tier chart of port 0's function reads counter 0x17 of port 0, not counter 0x18 of port 1. -/
theorem test_wit_perf_read : ∀ c ∈ [(0x17, true), (0x18, false)],
    let s := on (put live [(0x01, 0, 1)]) { chart (mac 0xBB 1 0) [(4, 0x8000)] [c.1] with sub := 0x2000, tier := 1 }
    Engines.wf s.engines = true ∧ Begins s 12 0xBB [rowBits [(15, 0)]] 0 (.tile tileOfCounter0) false ∧ entryExists s 0x3C c.1 = true ∧
      smGet 0 s.cnt.latched c.1 < 2 ^ 48 ∧ (engineOf s 12).tier < 2 ∧ c.1 < 0x0900 ∧ subFunc 0x2000 = some 2048 ∧
      (funcPort s 2048 == c.1 / 24) = c.2 := by decide +kernel

/-- QOS.PORT of port 0 drafts one entry and goes on. -/
theorem test_qos_port :
    (match exec (.qosPort 12) (atMac live 0x80 [0, 0xFFFF, 0xFFFF]) with
      | .next t => (engineOf t 12).drafts.length == 1 && (engineOf t 12).pc == 1 && fld (seenVal t (engineOf t 12) 0x06 0) 0 16 == 0xFFFF
      | _ => false) = true := by decide +kernel
/-! Lanes and ports. -/

theorem test_wit_lane_set :
    let s := atMac live 0x50 [383 + 1 * 2 ^ 16, 7 * 2 ^ 20, 7 * 2 ^ 20]
    draftsOk s 0x50 [rowBits [(8, 0), (21, 16)], tabWordMask 0x03 0, allBits] (.tile tileOfLane0) 0x03 383 (ones 20 3) (ones 20 3) ∧
      tapsOk (merge (seenVal s (engineOf s 12) 0x03 383) (ones 20 3) (ones 20 3)) = true ∧
      injectDenied s (engineOf s 12) 383 (ones 20 3) (ones 20 3) = false ∧ maskWhole 0x03 (ones 20 3) = true := by decide +kernel

/-- All 32 lanes of tile 11. -/
theorem test_wit_lane_set_all :
    let s := atMac live 0x50 [352 + 32 * 2 ^ 16, 0, 7 * 2 ^ 20]
    Begins s 12 0x50 [rowBits [(8, 0), (21, 16)], tabWordMask 0x03 0, allBits] 0 (.tile tileOfLane0) false ∧ 352 / 32 = (352 + 32 - 1) / 32 ∧
      (laneDrafts s 12 (regSet (engineOf s 12) 1 0) 0 (ones 20 3) ((List.range 32).map (352 + ·))).1 = 0 := by decide +kernel

/-- Port 0 an ISL in ALIGN with CDR lock on its four lanes. -/
def aligning : State :=
  put live ([(0x01, 0, 3), (0x05, 0, 3 * 2 ^ 28)] ++ (List.range 4).map fun l => (0x04, l, 4))

theorem test_wit_lane_slip :
    let s := atMac aligning 0x51 [0]
    Begins s 12 0x51 [rowBits [(8, 0)]] 0 (.tile tileOfLane0) false ∧ laneAligns s 0 ≠ none ∧ laneBit s 0 2 = true ∧
      reservedElsewhere s 12 (tkey 0x03 0) = false := by decide +kernel

theorem test_wit_lane_align :
    let s := atMac aligning 0x52 [0]
    Begins s 12 0x52 [rowBits [(6, 0)]] 0 (.tile tileOfPort0) false ∧ roleOf s 0 = 3 ∧ tstate s 0 = 3 ∧ portExists s 0 = true ∧ cdrAll s 0 = true ∧
      (∀ k ∈ portLanes s 0, reservedElsewhere s 12 (tkey 0x03 k) = false) ∧ portLanes s 0 = [0, 1, 2, 3] ∧
      (∀ c ∈ [(markerSymbols ++ markerSymbols, some 0), (Level.m3 :: markerSymbols ++ markerSymbols.take 63, some 1), (List.replicate 128 Level.m3, none)],
        searchLane s 3 c.1 = c.2) ∧
      (let s1 := (portLanes s 0).foldl (fun s l => slipped s l 0) s
       (alignDrafts s1 12 (regSet (regSet (engineOf s 12) 1 0) 1 0) (portLanes s 0)).1 = 0) := by decide +kernel

/-- A checker of PRBS7 at an NRZ rate: a window without error, with one, and with 33. -/
theorem test_wit_checker :
    let s := put live [(0x03, 383, 2 ^ 14 + 1 * 2 ^ 16)]
    let rx := symbolsOf false ((List.replicate 7 true) ++ patBits (patTaps 1) 127 256)
    tabFld s 0x03 383 14 1 = 1 ∧ laneBit s 383 3 = false ∧ windowErrors s 383 rx = some 0 ∧
      windowErrors s 383 (rx.take 262 ++ (rx.drop 262).map invertLevel) = some 1 ∧
      windowErrors s 383 (rx.take 230 ++ (rx.drop 230).map invertLevel) = some 33 := by decide +kernel

/-- Both ends of the eye's counts and offsets. -/
theorem test_wit_lane_eye : ∀ c ∈ [(10, 0x8000), (30, 0xC000)],
    let s := { atMac live 0x53 [383 + 1 * 2 ^ 9 + c.1 * 2 ^ 16, c.2] with claims := [(132 + 383 / 4, 0x8001)] }
    Begins s 12 0x53 [rowBits [(8, 0), (10, 9), (20, 16)], rowBits [(15, 0)]] 0 (.tile tileOfLane0) false ∧ laneRate s 383 ≤ 4 ∧
      claimCheck s (engineOf s 12).sub (132 + 383 / 4) = 0 := by decide +kernel

theorem test_wit_lane_stat :
    Begins (atMac live 0x54 [383]) 12 0x54 [rowBits [(8, 0)]] 0 (.tile tileOfLane0) false ∧
    (let s := put live [(0x03, 383, 2 ^ 14)]
     tabFld s 0x03 383 14 1 = 1 ∧ laneBit s 383 3 = false) ∧
    laneBit (put live [(0x04, 383, 2 ^ 3)]) 383 3 = true := by decide +kernel

theorem test_wit_port_config :
    let s := atMac live 0x40 [95, 0, 7]
    draftsOk s 0x40 [rowBits [(6, 0)], tabWordMask 0x01 0, allBits] (.tile tileOfPort0) 0x01 95 0 7 ∧ portExists s 95 = true ∧
      maskWhole 0x01 7 = true := by decide +kernel

theorem test_wit_port_macros :
    (let s := atMac (put live [(0x01, 95, 2), (0x02, 95, 0x0B)]) 0x41 [95]
     Begins s 12 0x41 [rowBits [(6, 0)]] 0 (.tile tileOfPort0) false ∧ portExists s 95 = true ∧ roleOf s 95 = 2 ∧ tabFld s 0x02 95 0 6 = 0x0B) ∧
    (let s := atMac live 0x42 [95]
     Begins s 12 0x42 [rowBits [(6, 0)]] 0 (.tile tileOfPort0) false ∧ mayActOn s (engineOf s 12) 95 = true) ∧
    (let s := atMac (put live [(0x01, 95, 3), (0x05, 95, 5 * 2 ^ 28)]) 0x58 [95]
     Begins s 12 0x58 [rowBits [(6, 0)]] 0 (.tile tileOfPort0) false ∧ roleOf s 95 = 3 ∧ islOpen s 95 = true) := by decide +kernel

/-- A parent that is no port at all, 127, and one that the chart reads to be an ISL port. -/
theorem test_wit_isl_chip : ∀ q ∈ [127, 95],
    let w := 15 + q * 2 ^ 8
    let s := atMac (put live [(0x01, 95, 3)]) 0x59 [w]
    let y := ruleReads s (regSet (engineOf s 12) 1 0) 0x0C (BitVec.ofNat 256 w) (draftable 0x0C)
    Begins s 12 0x59 [tabWordMask 0x0C 0] 0 .glob false ∧
      RuledDraftable s 12 y 0x0C 0 (BitVec.ofNat 256 w) (draftable 0x0C) := by decide +kernel

/-- Every port width of the seven profiles is 4, 8 or 16 lanes or none. -/
theorem test_wit_widths : ∀ f ∈ List.range 7,
    let s := put live [(0x0B, 11, f)]
    (List.range 8).all (fun k => decide (portWidth s (88 + k) ≤ 3)) = true ∧
      (∃ k ∈ List.range 8, portExists s (88 + k) = true) := by decide +kernel

/-- A four-lane, an eight-lane, a sixteen-lane port and one that does not exist. -/
theorem test_wit_lanes : portWidth live 0 = 1 ∧ portWidth (put live [(0x0B, 0, 1)]) 6 = 2 ∧ portWidth (put live [(0x0B, 0, 2)]) 4 = 3 ∧
    portExists (put live [(0x0B, 0, 2)]) 1 = false := by decide +kernel
/-! Binding and coherence macros. -/

/-- A USP at port 0 and a DSP at port 1 whose registered member has 16 granules, whole for VCS 0. -/
def bound : State :=
  { put live [(0x01, 0, 1), (0x01, 8, 2), (0x10, 0, 0 + 4 * 2 ^ 7 + 2 ^ 14), (0x14, 0, 2 ^ 36 + 100)] with
    partners := [(8, { st := 2, flags := 1, nld := 1, ldGran := [(0, 16)] })] }

theorem test_wit_bind_vcs :
    let s := atMac bound 0x60 [1 + 0 * 2 ^ 8 + 64 * 2 ^ 16 + 2 ^ 24]
    let vcs := mkEntry [(0, 0), (7, 64), (14, 1)]
    let y := readsOf s (regSet (engineOf s 12) 1 0) [(0x01, 0)]
    Begins s 12 0x60 [rowBits [(5, 0), (14, 8), (22, 16), (24, 24)]] 0 .glob false ∧ Draftable s 12 y 0x10 1 vcs (draftable 0x10) ∧
      vWidth (viewOf s y) (fld vcs 0 7) ≠ 0 ∧
      ((vBound (viewOf s y) 1).any fun k => fld vcs 14 1 == 0 || decide (fld vcs 7 7 ≤ k)) = false := by decide +kernel

theorem test_wit_bind_vppb :
    let s := atMac bound 0x61 [0 + 0 * 2 ^ 8 + 1 * 2 ^ 16, 8]
    let v := mkEntry [(0, 1), (4, 8), (24, 1)]
    let x := regSet (engineOf s 12) 1 0
    Begins s 12 0x61 [rowBits [(5, 0), (13, 8), (19, 16)], rowBits [(6, 0), (11, 8), (23, 16)]] 0 .glob false ∧
      bstate (seenVal s x 0x11 0) ≠ 1 ∧ bindTarget s (viewWith s x 0x11 0 v) 0 = true ∧
      let z := readsOf s x (bindReads 0 v)
      Draftable s 12 z 0x11 0 v (draftable 0x11) ∧ Draftable s 12 (putDraft s z 0x11 0 v (draftable 0x11)) 0x18 0 1 (draftable 0x18) := by decide +kernel

theorem test_wit_bind_pld :
    let s := atMac live 0x63 [255 + 2 ^ 8 + 1 * 2 ^ 36]
    let v := mkEntry [(0, 1), (36, 1)]
    draftsOk s 0x63 [rowBits [(7, 0), (8, 8), (63, 36)]] .glob 0x14 255 v (draftable 0x14) ∧
      judgePld (viewOf s (putDraft s (regSet (engineOf s 12) 1 0) 0x14 255 v (draftable 0x14))) 255 = 0 := by decide +kernel

/-- BIND.ADD on a clean run and at a stated granule. -/
theorem test_wit_bind_add : ∀ c ∈ [1, 0],
    let s := atMac (put bound [(0x19, 128, 16)]) 0x64 [0 + 8 * 2 ^ 8 + c * 2 ^ 21, 1 * 2 ^ 28, 0]
    let s := { s with granules := (List.range 16).map fun g => (8 * 16 * 2 ^ 28 + g, { st := 2 }) }
    let x := regSet (engineOf s 12) 1 0
    let y := readsOf s x [(0x14, 0)]
    let v := mkEntry [(44, 1), (29, 8), (22, 1)]
    Begins s 12 0x64 [rowBits [(7, 0), (14, 8), (19, 16), (20, 20), (21, 21)], rowBits [(27, 0), (55, 28)], rowBits [(27, 0)]] 0 .glob false ∧
      registered s 128 ≠ 0 ∧ smGet false s.poolLost 128 = false ∧ fld (seenVal s x 0x14 0) 36 1 = 1 ∧ freeExtent s 12 x = some 0 ∧
      (if c = 1 then cleanRun s x 8 0 1 else some 0) = some 0 ∧
      extentRules (viewOf s (putDraft s y 0x15 0 v (draftable 0x15))) 0 = 0 ∧ Draftable s 12 y 0x15 0 v (draftable 0x15) := by decide +kernel

/-- Releases of extent 0: lost (4), bound (2) and releasing (3) with FORCE, bound, offered (1) and releasing without, free. -/
theorem test_wit_bind_release : ∀ c ∈ [(4, 0), (2, 1), (3, 1), (2, 0), (1, 0), (3, 0), (0, 0)],
    let s := atMac (put bound [(0x15, 0, c.1 * 2 ^ 22)]) 0x65 [0] c.2
    Runs s 12 0x65 ∧ (engineOf s 12).seq = 0 ∧ macroStatus s 12 (engineOf s 12) (wordAt (engineOf s 12)) [rowBits [(13, 0)]] 1 .glob false = 0 ∧
      estate (seenVal s (engineOf s 12) 0x15 0) = c.1 ∧ mflagsOf (wordAt (engineOf s 12)) = c.2 ∧
      Draftable s 12 (regSet (engineOf s 12) 1 0) 0x15 0 0 (ones 22 3) ∧
      Draftable s 12 (regSet (engineOf s 12) 1 0) 0x15 0 (setFld 0 22 3 3) (ones 22 3) := by decide +kernel

/-- A GFAM entry left empty; DPID 0xFFE routed to the last port as one of it. -/
theorem test_wit_bind_gfam_pid :
    (let s := atMac bound 0x66 [0, 0, 0]
     let x := regSet (engineOf s 12) 1 0
     let y := readsOf s x [(0x01, 0)]
     Begins s 12 0x66 [rowBits [(6, 0), (11, 8)], tabWordMask 0x16 0, tabWordMask 0x16 1] 0 .glob false ∧ portExists s 0 = true ∧
      vRole (viewOf s x) 0 = 1 ∧ judgeGfam (viewOf s (putDraft s y 0x16 0 0 (draftable 0x16))) 0 = 0 ∧ Draftable s 12 y 0x16 0 0 (draftable 0x16)) ∧
    (let v := BitVec.ofNat 256 (95 + 2 ^ 12)
     let s := atMac live 0x67 [0xFFE + v.toNat * 2 ^ 32]
     draftsOk s 0x67 [rowBits [(11, 0)] ||| tabWordMask 0x17 0 * 2 ^ 32] .glob 0x17 0xFFE v (draftable 0x17) ∧
      judgePid (viewOf s (putDraft s (regSet (engineOf s 12) 1 0) 0x17 0xFFE v (draftable 0x17))) 0xFFE = 0) := by
  decide +kernel

/-- BIND.UNVPPB of a bound vPPB, and again when its withdrawal is committed. -/
theorem test_wit_unvppb :
    (let s := atMac (put bound [(0x11, 0, 1 + 8 * 2 ^ 4 + 2 ^ 24)]) 0x62 [0]
     Begins s 12 0x62 [rowBits [(5, 0), (13, 8)]] 0 .glob true ∧ bstate (tabVal s 0x11 0) = 1 ∧ tabFld s 0x18 0 0 2 ≠ 2 ∧
      Draftable s 12 (regSet (engineOf s 12) 1 0) 0x18 0 2 (ones 0 2)) ∧
    (let s := atMac (put bound [(0x11, 0, 1 + 8 * 2 ^ 4 + 2 ^ 24), (0x18, 0, 2)]) 0x62 [0]
     Begins s 12 0x62 [rowBits [(5, 0), (13, 8)]] 0 .glob true ∧ bstate (tabVal s 0x11 0) = 1 ∧ tabFld s 0x18 0 0 2 = 2) := by decide +kernel

theorem test_wit_coh_domain :
    let s := atMac live 0x70 [15 + 2 ^ 8]
    draftsOk s 0x70 [rowBits [(3, 0), (8, 8)]] .glob 0x21 15 1 (ones 0 1) ∧
      judgeDomain s (viewOf s (putDraft s (regSet (engineOf s 12) 1 0) 0x21 15 1 (ones 0 1))) 15 = 0 := by decide +kernel

/-- Agent 0, a host at port 0, joins domain 0. -/
def domained : State := put bound [(0x21, 0, 1)]

theorem test_wit_agent_add :
    let s := { atMac (put domained [(0x02, 0, 2 * 2 ^ 15 + 2 ^ 17), (0x17, 0, 2 ^ 12)]) 0x71 [0 + 2 ^ 16, 0] with biIds := [(0, 1)] }
    let x := regSet (engineOf s 12) 1 0
    let val := setFld 0 0 2 1
    Begins s 12 0x71 [rowBits [(5, 0), (31, 16)], tabWordMask 0x22 0] 0 .glob false ∧ portExists s 0 = true ∧
      Draftable s 12 x 0x22 0 val (draftable 0x22) ∧
      let a := drafts s 12 (putDraft s x 0x22 0 val (draftable 0x22)) (agentBits 0 [0] true)
      a.1 = 0 ∧ judgeAgent s (viewOf a.2.1 a.2.2) 0 true = 0 := by decide +kernel

theorem test_wit_agent_remove :
    (let s := atMac (put domained [(0x22, 0, 1)]) 0x72 [0]
     Begins s 12 0x72 [rowBits [(5, 0)]] 0 .glob true ∧ tabFld s 0x22 0 0 2 = 1 ∧ Draftable s 12 (regSet (engineOf s 12) 1 0) 0x22 0 3 (ones 0 2)) ∧
    (let s := atMac (put domained [(0x22, 0, 3)]) 0x72 [0]
     Begins s 12 0x72 [rowBits [(5, 0)]] 0 .glob true ∧ tabFld s 0x22 0 0 2 = 3) := by decide +kernel

/-- A region of one granule of the member of port 8. -/
theorem test_wit_region_share :
    let s := { atMac (put domained [(0x19, 128, 16)]) 0x73 [8, 1 * 2 ^ 28] with granules := [(8 * 16 * 2 ^ 28, { st := 2 })] }
    let v := mkEntry [(72, 1), (65, 8), (55, 1)]
    let x := regSet (engineOf s 12) 1 0
    let y := readsOf s x [(0x01, 8), (0x21, 0)]
    Begins s 12 0x73 [rowBits [(6, 0), (11, 8), (19, 16)], rowBits [(27, 0), (55, 28)]] 0 .glob false ∧
      findFrom (fun j => rstate (seenVal s x 0x20 j) == 0 && !(reservedElsewhere s 12 (tkey 0x20 j))) 0 256 = some 0 ∧
      vRole (viewOf s x) 8 = 2 ∧ (smGet {} s.partners 8).nld = 1 ∧
      judgeRegion s (viewOf s (putDraft s y 0x20 0 v (draftable 0x20))) 0 = 0 ∧ Draftable s 12 y 0x20 0 v (draftable 0x20) := by decide +kernel

/-- A shared region not held, one releasing, one held. -/
theorem test_wit_region_release :
    (let s := atMac (put domained [(0x20, 255, 2 ^ 55 + 2 ^ 72 + 8 * 2 ^ 65)]) 0x74 [255]
     Begins s 12 0x74 [rowBits [(7, 0)]] 0 .glob true ∧ rstate (tabVal s 0x20 255) = 1 ∧ regionHeld s 255 = false ∧
      Draftable s 12 (regSet (engineOf s 12) 1 0) 0x20 255 (setFld 0 55 2 2) (ones 55 2)) ∧
    (let s := atMac (put domained [(0x20, 255, 2 * 2 ^ 55 + 2 ^ 72 + 8 * 2 ^ 65)]) 0x74 [255]
     Begins s 12 0x74 [rowBits [(7, 0)]] 0 .glob true ∧ rstate (tabVal s 0x20 255) = 2 ∧ regionHeld s 255 = false) ∧
    (let s := atMac (put domained [(0x20, 255, 2 ^ 55 + 2 ^ 72 + 8 * 2 ^ 65), (0x15, 0, 2 ^ 44 + 8 * 2 ^ 29 + 2 * 2 ^ 22)]) 0x74 [255]
     Begins s 12 0x74 [rowBits [(7, 0)]] 0 .glob true ∧ rstate (tabVal s 0x20 255) ≠ 0 ∧ regionHeld s 255 = true) := by decide +kernel

theorem test_wit_lookup :
    let s := atMac (put domained [(0x20, 255, 2 ^ 55 + 2 ^ 72 + 8 * 2 ^ 65)]) 0x75 [255, 2 ^ 28 - 1]
    Begins s 12 0x75 [rowBits [(7, 0)], allBits] 0 .glob false ∧ rstate (tabVal s 0x20 255) = 1 ∧
      (fld (tabVal s 0x20 255) 100 28 + fld (tabVal s 0x20 255) 72 28) * 2 ^ 28 = 2 ^ 28 := by decide +kernel
/-! Slot channels. -/

/-- Channel 31 in this state, the device's settings as at reset: 12 V, ILIM 10 A, START_T and FAULT_T as shipped. -/
def slot (h : SlotCh) : State := { live with slots := [(31, h)], clock := 1000000000 }

/-- The settings of channel 31 at reset, with these bits changed. -/
def slotSet (h : SlotCh) (lo w v : Nat) : State := setTab (slot h) 0x38 31 (setFld (tabVal live 0x38 31) lo w v) 0

theorem test_wit_slot_macros :
    (∀ op ∈ [0xA2, 0xA3, 0xA4], ∀ st ∈ [3, 0, 5],
      let s := atMac (slot { st := st, enPin := true }) op [31]
      Begins s 12 op [rowBits [(4, 0)]] 0 .any false ∧ slotScope s 12 31 = true ∧
        (slotAdc (slotOf s 31) ⟨0, 0, 0, 0⟩).st = st ∧ (slotAdc (slotOf s 31) ⟨0, 0, 0, 0⟩).enPin = true) ∧
    (let s := on live { chart (mac 0xA2 1 0) [(4, 0x8000)] [31] with wait := .macroStep, seq := 1, seqA := 31, seqB := 1000 }
     waitsSlotOn (engineOf s 12) (engineOf s 12).seqA = true ∧ (engineOf s 12).seqB ≤ s.clock) := by decide +kernel

theorem test_wit_ramp_done : ((200 : Nat) ≤ 200 ∧ (slotOf (slot { st := 1 }) 31).st = 1 ∧ (slotOf (slot { st := 1 }) 31).driven = false) ∧
    (slotRuns (slotOf (slot { st := 3, driven := true }) 31) = true ∧ (slotOf (slot { st := 3, driven := true }) 31).driven = true) := by decide +kernel

/-- Qualified for exactly its time at exactly 90 % of 12 V. -/
theorem test_wit_pg :
    let s := slot { st := 2, qualAt := 998000000 }
    let h := slotOf s 31
    h.st = 2 ∧ 9 * slotVnom (slotEff s 31) = (slotAdc h ⟨108, 0, 0, 0⟩).vout * 10 ∧ h.inLimit = false ∧ h.qualAt + h.qual * 100000 = s.clock := by
  decide +kernel

theorem test_wit_en :
    (slotRuns (slotOf (slot { st := 2 }) 31) = true ∧ (slotOf (slot { st := 2 }) 31).pg = false) ∧ (slotOf (slot { st := 5 }) 31).pg = false ∧
    (slotRuns (slotOf (slot { st := 3, pg := true }) 31) = true ∧ (slotOf (slot { st := 3, pg := true }) 31).pg = true) ∧
    (slotOf (slot { st := 4 }) 31).st = 4 ∧ (slotOf (slot { cmdOn := true }) 31).st = 0 ∧ (slotOf (slot { cmdOn := true }) 31).cmdOn = true ∧
    ¬((slotOf (slot {}) 31).st = 0 ∧ (slotOf (slot {}) 31).cmdOn = true) ∧
    (slotOf (slot { st := 3, fresh := true, pg := true }) 31).fresh = true := by decide +kernel

/-- A feed at exactly 85 % of 12 V in WAIT_FEED and in OFF; one just below 80 % on a stopped and on a running channel. -/
theorem test_wit_feeds :
    (∀ st ∈ [5, 0], let s := slot { st := st }
      85 * slotVnom (slotEff s 31) ≤ (102 : BitVec 10).toNat * 100 ∧ (slotOf s 31).okA = false ∧ (slotOf s 31).st = st ∧ slotRuns (slotOf s 31) = false) ∧
    (∀ st ∈ [0, 3], let s := slot { st := st, okA := true }
      (95 : BitVec 10).toNat * 100 < 80 * slotVnom (slotEff s 31) ∧ (slotOf s 31).okA = true ∧ slotRuns (slotOf s 31) = decide (st = 3) ∧
        slotFed (slotEff s 31) { slotOf s 31 with feedA := 95, okA := false } = false) := by decide +kernel

theorem test_wit_reverse :
    let s := slotSet { st := 3, gateA := true, gateB := true } 9 1 0
    slotRuns (slotOf s 31) = true ∧ (slotOf s 31).gateA = true ∧ (slotOf s 31).gateB = true ∧ slotPrio (slotEff s 31) = false := by decide +kernel

/-- 9.5 V in ON, 10.7 V in QUAL. -/
theorem test_wit_vout_low :
    ((slotOf (slot { st := 3 }) 31).st = 3 ∧ (95 : BitVec 10).toNat * 10 < 8 * slotVnom (slotEff (slot { st := 3 }) 31)) ∧
    ((slotOf (slot { st := 2 }) 31).st = 2 ∧ (107 : BitVec 10).toNat * 10 < 9 * slotVnom (slotEff (slot { st := 2 }) 31)) := by decide +kernel

/-- At the limit exactly and one count below it; time in limit exactly at the timer; a limit count of 1 ms; 1.5 times the limit. -/
theorem test_wit_limit :
    (let s := slot { st := 3, pg := true, limitAt := 999000001 }
     let h := slotOf s 31
     slotRuns h = true ∧ h.inLimit = false ∧ h.pg = true ∧ s.clock < h.limitAt + 1000000 ∧
      slotLimitUv (slotIlim (slotEff s 31)) (fld h.ramp 44 12) 0 = (25 : BitVec 10).toNat * 200) ∧
    (let s := slot { st := 3, pg := true, inLimit := true }
     slotRuns (slotOf s 31) = true ∧ (slotOf s 31).inLimit = true ∧
      (24 : BitVec 10).toNat * 200 < slotLimitUv (slotIlim (slotEff s 31)) (fld (slotOf s 31).ramp 44 12) 0) ∧
    (let s := slot { st := 3, pgSince := true, inLimit := true, limitAt := 999000000 }
     slotRuns (slotOf s 31) = true ∧ slotTimerUs (slotEff s 31) (slotOf s 31) = (slotOf s 31).limitUs + (s.clock - (slotOf s 31).limitAt) / 1000) ∧
    ((slotOf (slot { limitAt := 999000000 }) 31).inLimit = false ∧ (slotOf (slot { limitAt := 999000000 }) 31).limitAt + 1000000 = (slot {}).clock) ∧
    (slotRuns (slotOf (slot { st := 1 }) 31) = true ∧ 15 * slotIlim (slotEff (slot { st := 1 }) 31) = 2 * (75 : BitVec 10).toNat) := by decide +kernel

theorem test_wit_handover :
    (let s := slot { st := 3, handover := some 999998000 }
     (slotOf s 31).handover = some 999998000 ∧ 999998000 + 2000 = s.clock ∧ slotRuns (slotOf s 31) = true) ∧
    (let s := slotSet { st := 3, activeB := true, okA := true, validAt := 900000000 } 9 1 1
     let h := slotOf s 31
     slotRuns h = true ∧ slotPrio (slotEff s 31) = true ∧ h.activeB = true ∧ h.okA = true ∧ h.handover = none ∧ h.driven = false ∧
      h.validAt + 100000000 = s.clock) := by decide +kernel

/-- At reset the channels keep the invariant of O29. -/
theorem test_wit_slots_reset : smWf (fun _ => ({} : SlotCh)) State.reset.slots = true ∧ smWf (fun _ => ({} : SlotCh)) (slot { st := 3, pg := true }).slots = true := by
  decide +kernel

/-- 1.5 times the limit trips the channel: LATCHED with cause 3. -/
theorem test_severe : (match exec (.severeOvercurrent 31 75) (slot { st := 3 }) with | .next t => ((slotOf t 31).st, (slotOf t 31).trip) | _ => (0, 0)) = (4, 3) := by
  decide +kernel
/-! Functions, registers and data movers. -/

/-- A USP at port 0 whose VF 2047 is in this STATE, with ring 100 enabled, of 16 entries. -/
def vf (st : Nat) : State :=
  put live [(0x01, 0, 1), (0x3D, 2047, st + 1 * 2 ^ 32 + 100 * 2 ^ 36), (0x30, 100, 2 ^ 100 + 2047 * 2 ^ 116)]

/-- s with engine 12 at the macro, its chart's accesses through the master of port 0. -/
def atVf (s : State) (op : Nat) (block : List Nat) : State :=
  on s { chart (mac op block.length 0) [(4, 0x8000)] block with master := some 0 }

theorem test_wit_vf_enable :
    let s := atMac (vf 0) 0xC0 [0 + 1 * 2 ^ 16 + 1 * 2 ^ 28]
    let x := regSet (engineOf s 12) 1 0
    let d := vfEnableDrafts s x 0 1 1
    let y := readsOf s x (vfReads s 0)
    Begins s 12 0xC0 [rowBits [(6, 0), (24, 16), (31, 28)]] 0 (.tile tileOfPort0) false ∧ mayActOn s x 0 = true ∧ d.1 = 0 ∧
      (draftsAny s 12 y d.2).1 = 0 := by decide +kernel

/-- Frost, Thaw and reset of a VF in each state they take. -/
theorem test_wit_vf_macros :
    (∀ c ∈ [(0xC1, 1), (0xC1, 3), (0xC1, 5), (0xC4, 3), (0xC4, 5), (0xC5, 1), (0xC5, 15)],
      let s := atVf (vf c.2) c.1 [2047]
      Begins s 12 c.1 [vfWord] 0 (.tile tileOfVf0) true ∧ vfObject s (regSet (engineOf s 12) 1 0) 2047 = 0 ∧ funcState s 2047 = c.2) ∧
    (∀ c ∈ [(0xC2, 3, true), (0xC2, 4, true), (0xC3, 3, false)],
      let s := { atVf (vf c.2.1) c.1 [2047, 0x1000, 7] with mer := { State.reset.mer with sessions := [(7, {})] } }
      Begins s 12 c.1 [vfWord, allBits, rowBits [(15, 0)]] 0 (.tile tileOfVf0) true ∧ vfObject s (regSet (engineOf s 12) 1 0) 2047 = 0 ∧
        funcState s 2047 = c.2.1 ∧ sessionOf s 7 = some {} ∧ 0x1000 % 8 = 0 ∧
        (regSet (engineOf s 12) 1 0).subReset = false ∧
        subPath s (regSet (engineOf s 12) 1 0).sub (regSet (engineOf s 12) 1 0).master 0x1000 9920 = .ext 0 0 0x1000 ∧
        (judgeAccess s 0 ⟨0, 0x1000, 9920, !c.2.2, c.2.2⟩).1 = 0) := by decide +kernel

/-- The 100 ms of R351 end now while a chart of the VF runs. -/
theorem test_wit_frost_timeout :
    let s := { on (vf 2) { chart 0 [] [] with sub := 2047 } with svc := { State.reset.svc with frozen := [(2047, { deadline := some 1000 })] } }
    (smGet {} s.svc.frozen 2047).deadline = some 1000 ∧ funcState s 2047 = 2 ∧ subRuns s 2047 = true ∧ 1000 ≤ s.clock := by decide +kernel

theorem test_wit_flr :
    funcState (vf 0) 2047 = 0 ∧ (Canonical (vf 1) ∧ funcState (vf 1) 2047 ≠ 0 ∧ frostWaiters (vf 1) 2047 = []) ∧
    roleOf (vf 0) 0 = 1 ∧ roleOf (vf 0) 1 ≠ 1 := by decide +kernel

/-- Ring 0 of an active, a disabled and a frozen VF; entries 15 and 16; Steward's ring 7. -/
theorem test_wit_doorbells :
    (∀ st ∈ [1, 6], fnRing (vf st) 2047 0 = some 100 ∧ (funcState (vf st) 2047 < 2 ∨ 5 < funcState (vf st) 2047) ∧ fnTileSt (vf st) 2047 = 0 ∧
      tabFld (vf st) 0x30 100 100 1 = 1 ∧ 2 ^ (tabFld (vf st) 0x30 100 194 4 + 4) = 16 ∧ 2 ^ (tabFld (vf st) 0x30 100 132 4 + 4) = 16) ∧
    (let s := put (vf 1) [(0x30, 100, 0)]
     fnRing s 2047 0 = some 100 ∧ fnTileSt s 2047 = 0 ∧ tabFld s 0x30 100 100 1 = 0) ∧
    (∀ st ∈ [2, 5], fnRing (vf st) 2047 0 = some 100 ∧ 2 ≤ funcState (vf st) 2047 ∧ funcState (vf st) 2047 ≤ 5) ∧
    (let s := put live [(0x30, 7, 2 ^ 100)]
     tabFld s 0x30 7 100 1 = 1 ∧ 2 ^ (tabFld s 0x30 7 194 4 + 4) = 16) := by decide +kernel

theorem test_wit_ring_enable :
    (slotRing (vf 1) (some 2047) 0 = some 100 ∧ ringCommitting (vf 1) 100 = false) ∧
    (let s := { vf 1 with internals := [⟨0, .ring 100 true⟩] }
     slotRing s (some 2047) 0 = some 100 ∧ ringCommitting s 100 = true) ∧
    slotRing live none 7 = some 7 ∧ ringCommitting live 7 = false := by decide +kernel

theorem test_wit_msix :
    smWf (fun _ => ({} : Msix)) live.svc.msix = true ∧ (msixOf live 0).pba.getLsbD 7 = false ∧
    (let s := { vf 1 with svc := { State.reset.svc with msix := [(2047, { enable := true, pba := 0x80 })] } }
     smWf (fun _ => ({} : Msix)) s.svc.msix = true ∧ (msixOf s 2047).pba.getLsbD 7 = true ∧ (msixOf s 2047).enable = true ∧
      (msixOf s 2047).fnMask = false ∧ funcState s 2047 < 2) := by decide +kernel

theorem test_wit_registers :
    (0xFFFFC : BitVec 20).toNat % 4 = 0 ∧ (0xFFFF8 : BitVec 20).toNat % 8 = 0 ∧ (1 : BitVec 20).toNat % 4 ≠ 0 ∧ (0x3FFFFC : BitVec 22).toNat % 4 = 0 ∧
    (smGet {} live.decRegs (tkey 0x12 (0 * 32 + 31))).committed = false ∧
    (smGet {} ({ live with decRegs := [(tkey 0x13 (1 * 16 + 15), { committed := true })] } : State).decRegs (tkey 0x13 (1 * 16 + 15))).committed = true := by
  decide +kernel

/-- Steward's own partition, its registers, an aperture passed and denied, and no map. -/
theorem test_wit_core_access :
    coreMap live 0x3FFFFFF8 8 = .hbm 0x83FFFFFF8 ∧ coreMap live 0x10003FFFF8 8 = .regs 0x3FFFF8 ∧ 0x3FFFF8 % 8 = 0 ∧
    coreMap live 0x1000000000 3 = .regs 0 ∧
    (let s := { live with stw := { State.reset.stw with apertures := [(0, 1)] } }
     coreMap s 0x10000000000 8 = .aperture 1 0 ∧ (judgeAccess s 144 ⟨1, 0, 8, true, false⟩).1 = 0) ∧
    (let s := { live with stw := { State.reset.stw with apertures := [(0, 1)] }, locks := [(0, 1 + 64 * 2 ^ 12 + 2 ^ 131)] }
     coreMap s 0x10000000000 8 = .aperture 1 0 ∧ (judgeAccess s 144 ⟨1, 0, 8, true, false⟩).1 ≠ 0) ∧
    coreMap live 0x40000000 8 = .outside := by decide +kernel

/-- A descriptor that fills n bytes of HBM partition 2 with zeros. -/
def zeroDesc (n flags : Nat) : List Word := [BitVec.ofNat 64 (3 + 2 * 2 ^ 16 + flags * 2 ^ 24), BitVec.ofNat 64 n, 0, 0x880000000, 0, 0, 0, 0]

theorem test_wit_mover_macros : ∀ op ∈ [0xC8, 0xC9],
    let s := { atMac live op ((zeroDesc 64 0).map (·.toNat)) with claims := [(114, 0x8001)] }
    Begins s 12 op descMasks 0 .any false ∧ (acceptDesc s 12 (regSet (engineOf s 12) 1 0) (zeroDesc 64 0)).1 = 0 := by decide +kernel

/-- A ticket of the chart, unfinished and finished, and one that names nothing. -/
theorem test_wit_mover_wait :
    (∀ f ∈ [false, true],
      let s := { atMac live 0xCA [1023 + 5 * 2 ^ 10] with svc := { State.reset.svc with descs := [(1023, { issue := 5, engine := 12, finished := f })] } }
      Begins s 12 0xCA [allBits] 0 .any false ∧ descAt s 1023 = some { issue := 5, engine := 12, finished := f }) ∧
    (Begins (atMac live 0xCA [1023]) 12 0xCA [allBits] 0 .any false ∧ descAt live 1023 = none) := by decide +kernel

/-- A descriptor waiting, one that a mover runs on its last and on an earlier line, one denied by mover 0's fence. -/
theorem test_wit_mover :
    (∀ c ∈ [(0, 0), (64, 1)],
      let d : Desc := { words := [3, 64, 0, 0, 0, 0, 0, 0] }
      let s := { put live [(0x39, 64 * 96, c.1 * 2 ^ 12)] with svc := { State.reset.svc with descs := [(0, d)] } }
      fabricRuns s = true ∧ moverFree s 0 = true ∧ oldestDesc s.svc.descs = some (0, d) ∧
        (spansCheck s (some 96) 0 64 (sidesOf d.words)).1 = c.2) ∧
    (∀ n ∈ [64, 128],
      let d : Desc := { words := zeroDesc n 0, mover := some 0 }
      let s := { live with svc := { State.reset.svc with descs := [(0, d)] } }
      moverDesc s 0 = some (0, d) ∧ 2048 ≤ d.sub ∧ dOp d.words = 3 ∧ dDas d.words = 2 ∧ dLen d.words = n ∧
        (spansCheck s (some 96) 0 64 (sidesOf d.words)).1 = 0) := by decide +kernel

theorem test_wit_descriptor : ∀ f ∈ [0, 1],
    let d : Desc := { words := zeroDesc 64 f, known := true }
    let s := { live with svc := { State.reset.svc with descs := [(1023, d)] } }
    descAt s 1023 = some d ∧ 2048 ≤ d.sub ∧ dFlags d.words % 2 = f ∧
      descWaiter (setDesc s 1023 { d with finished := true, mover := none }) 1023 { d with finished := true, mover := none } = none := by decide +kernel
/-! Events, timers, counters and traces. -/

/-- Queue 2144 with these registers and a record pending. -/
def queued (e : EvQueue) : State :=
  { live with ev := { queues := [(2144, e)], store := [⟨2144, 0x580, 0, 0, 0, []⟩] }, ts := 2000 }

theorem test_wit_queue :
    (eqOf live 2144).enable = false ∧ (eqOf (queued { enable := true }) 2144).enable = true ∧
    eqHeld live 2144 = false ∧ 2 ^ ((eqOf live 2144).size + 4) = 16 ∧ eqHeld (vf 3) 2047 = true := by decide +kernel

/-- A record for a disabled queue, a frozen VF's queue, a full queue, and a queue with room in Steward's memory, whose last place it takes. -/
theorem test_wit_record :
    (let s := queued {}
     takeFirst (fun x : EvRec => x.queue == 2144) s.ev.store = some (⟨2144, 0x580, 0, 0, 0, []⟩, []) ∧ (eqOf s 2144).enable = false) ∧
    (let s := { vf 3 with ev := { queues := [(2047, { enable := true })], store := [⟨2047, 0x580, 0, 0, 0, []⟩] } }
     takeFirst (fun x : EvRec => x.queue == 2047) s.ev.store = some (⟨2047, 0x580, 0, 0, 0, []⟩, []) ∧ (eqOf s 2047).enable = true ∧ eqHeld s 2047 = true) ∧
    (let e := eqOf (queued { enable := true, tail := 15 }) 2144
     e.enable = true ∧ (e.tail + 1) % 2 ^ (e.size + 4) = e.head % 2 ^ (e.size + 4)) ∧
    (let s := queued { enable := true, tail := 15, head := 3 }
     let e := eqOf s 2144
     e.enable = true ∧ eqHeld s 2144 = false ∧ e.faulted = false ∧ (e.tail + 1) % 2 ^ (e.size + 4) ≠ e.head % 2 ^ (e.size + 4) ∧ e.ien = false ∧
      coreMap s (e.base + 64 * e.tail) 64 = .hbm (0x800000000 + 64 * 15)) := by decide +kernel

theorem test_wit_windows :
    (let w : RateWin := { esid := 0x580, subj := 1, queue := 2144, limit := 10, ends := 1999, last := ⟨2144, 0x580, 1, 0, 0, []⟩ }
     let s := { live with ev := { wins := [w] }, ts := 2000 }
     s.ev.wins.find? (isWin 0x580 1 2144) = some w ∧ w.ends < s.ts) ∧
    (let s := queued { ien := true, icount := 1, modTime := 1, ifirst := 0 }
     let e := eqOf s 2144
     e.ien = true ∧ e.icount ≠ 0 ∧ e.modTime ≠ 0 ∧ e.ifirst + e.modTime * 1000 = s.clock) := by decide +kernel

/-- Timer 63 that expires now, without pin and event, and with both. -/
theorem test_wit_timers :
    (∀ c ∈ [(0, 0), (1, 1)],
      let s := { put live [(0x32, 63, 1 + c.2 * 2 ^ 15 + c.1 * 2 ^ 16)] with timers := [(63, { next := some 2000 })], ts := 2000 }
      (smGet ({} : TimerLive) s.timers 63).next = some 2000 ∧ fld (tabVal s 0x32 63) 0 1 = 1 ∧ 2000 ≤ s.ts ∧ fld (tabVal s 0x32 63) 24 40 = 0 ∧
        fld (tabVal s 0x32 63) 16 2 = c.1 ∧ fld (tabVal s 0x32 63) 15 1 = c.2) ∧
    (let s := { live with timers := [(63, { driving := true, pulseEnd := some 1000 })] }
     (smGet ({} : TimerLive) s.timers 63).pulseEnd = some 1000 ∧ 1000 ≤ s.clock) := by decide +kernel

theorem test_wit_counters :
    (let s := { live with ts := 1000000 }
     s.cnt.nextTick ≤ s.ts ∧ s.cnt.schedNew = false ∧ fld s.cnt.sched 0 2 = 0) ∧
    (let s := { live with cnt := { State.reset.cnt with dumpBusy := true, dumpDest := 1 } }
     s.cnt.dumpBusy = true ∧ s.cnt.dumpDest = 1) ∧
    (∀ n ∈ [0, 1],
      let s := { put live [(0x3C, portCtr 95 (20 + n), 1)] with ts := 1000 }
      (smGet 0 s.cnt.winStart (portCtr 95 (20 + n)) / 1000 + 1) * 1000 ≤ s.ts ∧ fld (tabVal s 0x3C (portCtr 95 (20 + n))) 0 1 = 1) ∧
    (let s := { put live [(0x3F, 3, 1)] with traces := [(3, { held := [[1, 2, 3, 4]], records := 1023 })] }
     let b := smGet {} s.traces 3
     b.held = [1, 2, 3, 4] :: [] ∧ fld (tabVal s 0x3F 3) 0 1 = 1 ∧ b.full = false ∧ b.records + 1 = 2 ^ (fld (tabVal s 0x3F 3) 96 4 + 10)) ∧
    (let o : OpenRec := ⟨20479, {}, 0, 0, true⟩
     let s := { live with alm := { State.reset.alm with openRecs := [o] }, ts := 10000000000 }
     s.alm.openRecs.find? (fun x => x.slot == 20479 && x.changed && decide (x.written + 10000000000 ≤ s.ts)) = some o) := by decide +kernel

/-- A full queue of 16 records drops the record, sets OVF and counts it. -/
theorem test_queue_full : (match exec (.eventRecordWrite 2144) (queued { enable := true, tail := 15 }) with
    | .next t => ((eqOf t 2144).ovf, (eqOf t 2144).lost, t.ev.store.length) | _ => (false, 0, 0)) = (true, 1, 0) := by decide +kernel
/-! Links and the switch core. -/

/-- Port 8 a DSP of x4 at up to 64 GT/s with this LTSSM code and these further status bits. -/
def dsp (ltssm more : Nat) (cfg : Nat := 0) : State := put live [(0x01, 8, 2 + 5 * 2 ^ 6 + cfg), (0x02, 8, ltssm + more)]

/-- A link that trains, and what it negotiates: with everything on offer the first mode of FLIT_POLICY that suits the partner, at the lower rate. -/
theorem test_wit_link_up :
    (let s := dsp 2 0
     cxlPort s 8 = true ∧ fabricRuns s = true ∧ s.boot.settings = true ∧ linkAlive s 8 = false ∧ ltssm s 8 ≠ 0x0F ∧ smGet false s.woken 8 = false ∧ ltssm s 8 ≠ 0) ∧
    (∀ c ∈ [(5, (7 : BitVec 3), true, 0, some (2, 5)), (4, 7, true, 0, some (2, 4)), (5, 3, true, 0, some (1, 4)), (5, 3, false, 0, some (0, 4)),
        (4, 1, true, 0, none), (5, 3, true, 2, some (1, 4)), (5, 3, true, 1, none)],
      negotiate (dsp 2 0 (c.2.2.2.1 * 2 ^ 10)) 8 c.1 c.2.1 c.2.2.1 = c.2.2.2.2) := by decide +kernel

theorem test_wit_recovery :
    (∀ c ∈ [0x0B, 0x0D], cxlPort (dsp c 0) 8 = true ∧ ltssm (dsp c 0) 8 = c) ∧
    (∀ c ∈ [0x06, 0x0A], ltssm (dsp c (2 * 2 ^ 15)) 8 = c ∧ speedOk (dsp c (2 * 2 ^ 15)) 8 5 2 = true) := by decide +kernel

/-- L0s, L1, L0p on x2, and the way back. -/
theorem test_wit_low_power :
    (ltssm (dsp 0x0B 0 (2 ^ 13)) 8 = 0x0B ∧ tabFld (dsp 0x0B 0 (2 ^ 13)) 0x01 8 13 1 = 1 ∧ flitOf (dsp 0x0B 0 (2 ^ 13)) 8 = 0) ∧
    tabFld (dsp 0x0B 0 (2 ^ 14)) 0x01 8 14 1 = 1 ∧
    (let s := dsp 0x0B (2 * 2 ^ 10 + 2 * 2 ^ 15) (2 ^ 12)
     ltssm s 8 = 0x0B ∧ tabFld s 0x01 8 12 1 = 1 ∧ flitOf s 8 = 2 ∧ 1 < tabFld s 0x02 8 10 5) ∧
    (ltssm (dsp 0x0E 0) 8 = 0x0E ∧ cxlPort (dsp 0x0E 0) 8 = true) ∧ ltssm (dsp 0x0C 0) 8 = 0x0C ∧ ltssm (dsp 0x0D 0) 8 = 0x0D ∧
    (ltssm (dsp 0x0B (2 ^ 19)) 8 ≠ 0x0C ∧ ltssm (dsp 0x0B (2 ^ 19)) 8 ≠ 0x0D ∧ tabFld (dsp 0x0B (2 ^ 19)) 0x02 8 19 1 = 1) ∧
    (roleOf (dsp 0x0B 0) 8 ≠ 4 ∧ ltssm (dsp 0x0B 0) 8 = 0x0B) := by decide +kernel

theorem test_wit_port_lost :
    (∀ c ∈ [0x06, 0x0E], Canonical (dsp c 0) ∧ cxlPort (dsp c 0) 8 = true ∧ roleOf (dsp c 0) 8 = 2 ∧ linkAlive (dsp c 0) 8 = true ∧
      smGet false (dsp c 0).detaching 8 = false) ∧
    (let s := { dsp 0x0B 0 with detaching := [(8, true)] }
     linkAlive s 8 = true ∧ smGet false s.detaching 8 = true) ∧
    (let s := put live [(0x01, 0, 1), (0x02, 0, 0x0B)]
     cxlPort s 0 = true ∧ linkAlive s 0 = true ∧ roleOf s 0 = 1) := by decide +kernel

/-- Both streams of a port keyed, one of them alone, a port with IDE active. -/
theorem test_wit_ide :
    (cxlPort (dsp 0x0B (2 ^ 17)) 8 = true ∧ tabFld (dsp 0x0B (2 ^ 17)) 0x02 8 17 1 = 1) ∧
    (∀ c ∈ [(0, false), (2, true)], let s := { dsp 0x0B (2 ^ 17) with ideUp := [(8, c.1)] }
      ((smGet 0 s.ideUp 8 ||| 2 ^ 0) &&& ideNeeded s 8 == ideNeeded s 8) = c.2) ∧
    tabFld (dsp 0x0B (2 ^ 17 + 2 ^ 18)) 0x02 8 18 1 = 1 ∧
    smGet false ({ live with refPair := [(5, true)] } : State).refPair 5 = true ∧ smGet false live.refPair 5 = false := by decide +kernel

theorem test_wit_header : fabricRuns (dsp 0x0B 0) = true ∧ portExists (dsp 0x0B 0) 8 = true ∧ roleOf (dsp 0x0B 0) 8 ≠ 0 := by decide +kernel

/-- s with one transaction. -/
def withTxn (s : State) (t : Txn) : State := { s with txns := [(1, t)], nextTxn := 2 }

/-- The front of a class: with a local answer, a response, a request that fits, and one that finds the pool full. -/
theorem test_wit_admission :
    (∀ t ∈ [{ ingress := 8, answer := 1 }, { ingress := 8, dst := portEp 0 }, { ingress := 8, dst := portEp 0, cells := 19457 }], ∀ k ∈ [(0 : Nat)],
      let s := withTxn (dsp 0x0B (2 ^ 17)) t
      (txnsWhere s fun t => t.phase == 0 && t.ingress == 8 && stageClass t == k).head? = some 1 ∧ fabricRuns s = true ∧
        portGated s (txnOf s 1) = false ∧ t.reply = false ∧ sliceFull s t = false ∧
        ((queueCells s 8 t.dst t.cls + t.cells ≤ alphaOf (alphaCode s 8 t.cls) (poolFree s 1) ∧ t.cells ≤ poolFree s 1) ↔ t.cells = 1)) ∧
    (let s := withTxn (dsp 0x0B (2 ^ 17)) { ingress := 8, reply := true }
     (txnsWhere s fun t => t.phase == 0 && t.ingress == 8 && stageClass t == 5).head? = some 1 ∧ portGated s (txnOf s 1) = false) := by decide +kernel

theorem test_wit_cut_through : ∀ ph ∈ [1, 2], ∀ cpl ∈ [false, true],
    let s := withTxn live { src := portEp 8, reply := cpl, cut := true, tag := 0xFFFF, units := 2, got := 1, phase := ph }
    (txnsWhere s fun t => t.src == portEp 8 && t.cut && t.reply == cpl && !t.bad && t.tag == 0xFFFF && decide (t.got < t.units) &&
      decide (t.phase ≤ 2)).head? = some 1 ∧ tabFld s 0x02 8 18 1 ≠ 1 ∧ (txnOf s 1).phase = ph := by decide +kernel

theorem test_wit_egress :
    let s := withTxn (dsp 0x0B (2 ^ 17)) { ingress := 0, dst := portEp 8, phase := 1, reply := true, oc := 2, cmd := 0x20 }
    fabricRuns s = true ∧ (smGet {} s.paces (portEp 8)).freeAt ≤ s.clock * 1000 ∧ (pickNext s (portEp 8)).isSome = true := by decide +kernel

/-- A response at the egress of a port that is lost, and of one that takes it; a completion TLP that has begun to arrive. -/
theorem test_wit_response :
    (∀ c ∈ [2 ^ 20, 2 ^ 17],
      let s := withTxn (dsp 0x0B c) { ingress := 0, dst := portEp 8, phase := 4, reply := true, oc := 2, cmd := 0x20 }
      (txnsWhere s fun t => atEgress 8 t && t.phase == 4).head? = some 1 ∧ fabricRuns s = true ∧ roleOf s 8 = 2 ∧
        (if c = 2 ^ 20 then tabFld s 0x02 8 20 1 = 1 else tabFld s 0x02 8 20 1 = 0 ∧
          ((txnsWhere s (atEgress 8)).find? fun i => mayLeave s 8 (if (txnOf s i).phase = 2 then { txnOf s i with ord := s.nextTxn } else txnOf s i)) = some 1)) ∧
    (let s := withTxn (dsp 0x0B (2 ^ 17)) { ingress := 0, dst := portEp 8, phase := 2, reply := true, oc := 1, cmd := 0x31, cut := true, arrived := 1, data := [0] }
     ((txnsWhere s (atEgress 8)).find? fun i => mayLeave s 8 (if (txnOf s i).phase = 2 then { txnOf s i with ord := s.nextTxn } else txnOf s i)) = some 1 ∧
       (txnOf s 1).phase = 2) := by decide +kernel

/-- A queue at its threshold for exactly SEVERE_T of 1 ms. -/
theorem test_wit_severe :
    let s := { put live [(0x06, 1, 2 ^ 40)] with clock := 1000000, thrs := [(queueKey 0 (portEp 1) 3, { last := 1000000, since := 1 })] }
    tabFld s 0x06 1 40 4 = 1 ∧ atThreshold s (queueKey 0 (portEp 1) 3) = true ∧ (smGet {} s.thrs (queueKey 0 (portEp 1) 3)).raised = false ∧
      (smGet {} s.thrs (queueKey 0 (portEp 1) 3)).since + 1 * 1000000 = s.clock + 1 := by decide +kernel

theorem test_wit_loss :
    let s := withTxn live { dst := portEp 8, phase := 7 }
    (txnsWhere s (lossWaits s 8)).head? = some 1 := by decide +kernel
/-! Commits, walks and routers. -/

/-- Engine 12 at COMMIT, or waiting in it, with one draft made against this commit number. -/
def committing (w : Wait) (judged : Bool) (num : Nat) : State :=
  { on live { chart (0x33 * 2 ^ 56) [] [] with wait := w, drafts := [⟨tkey 0x06 0, 1, ones 0 16, num⟩] } with arb := { queue := [12], judged := judged } }

theorem test_wit_commit :
    (Runs (atIns live 0x33 0 0 0 0 []) 12 0x33 ∧ (engineOf (atIns live 0x33 0 0 0 0 []) 12).drafts = []) ∧
    (Stands (committing .run false 0) 12 0x33 ∧ (engineOf (committing .run false 0) 12).drafts ≠ []) ∧
    (fabricRuns (committing .commit false 0) = true ∧ (committing .commit false 0).arb.queue = 12 :: [] ∧
      (engineOf (committing .commit false 0) 12).wait = .commit ∧ judge (committing .commit false 0) (engineOf (committing .commit false 0) 12) = 0) ∧
    (engineOf (committing .run false 0) 12).wait ≠ .commit := by decide +kernel

/-- A draft that has gone STALE (10), and one whose bits are locked (9). -/
theorem test_wit_commit_fails :
    judge (committing .commit false 1) (engineOf (committing .commit false 1) 12) = 10 ∧
    (let s := { on { live with fieldLock := 0x1F } { chart (0x33 * 2 ^ 56) [] [] with wait := .commit, drafts := [⟨tkey 0x39 0, 0, ones 0 128, 0⟩] } with
        arb := { queue := [12] } }
     judge s (engineOf s 12) = 9 ∧ lockedDraft s (engineOf s 12) = some ⟨tkey 0x39 0, 0, ones 0 128, 0⟩) := by decide +kernel

theorem test_wit_flip :
    (committing .commit true 0).arb.judged = true ∧
    (∃ d ∈ (engineOf (committing .commit true 1) 12).drafts, (smGet (entryReset d.key) (committing .commit true 1).tab d.key).num ≠ d.num) ∧
    (let s := committing .commit true 0
     (∀ d ∈ (engineOf s 12).drafts, (smGet (entryReset d.key) s.tab d.key).num = d.num) ∧ (engineOf s 12).seq = 0 ∧
      (engineOf s 12).pc + 1 < (engineOf s 12).ninstr ∧
      (∀ d ∈ (engineOf s 12).drafts, keyTab d.key ∈ [0x06, 0x07, 0x10, 0x12, 0x13, 0x14, 0x16, 0x17, 0x18, 0x21, 0x39, 0x3A]) ∧
      (∀ p ∈ List.range 96, smGet 0 s.lostAt p ≠ s.clock + 1)) ∧
    (∀ c ∈ [(1, 1), (0, 2)],
      let s := committing .commit true 0
      let x := { engineOf s 12 with pc := c.1, seq := c.2 }
      (x.seq = 0 ∧ x.ninstr ≤ x.pc + 1) ∨ x.seq ≠ 0) := by decide +kernel

/-- COMMIT_FLIP makes the draft the committed value under commit number 1. -/
theorem test_flip : (match exec .commitFlip (committing .commit true 0) with
    | .next t => (t.commitNum, tabFld t 0x06 0 0 16, (engineOf t 12).pc, (engineOf t 12).drafts.length) | _ => (0, 0, 0, 0)) = (1, 1, 1, 0) := by
  decide +kernel

/-- ABORT with a draft, whose reservation another engine meets. -/
theorem test_wit_abort :
    let s := on live { chart (0x34 * 2 ^ 56) [] [] with drafts := [⟨tkey 0x06 0, 1, ones 0 16, 0⟩] }
    Engines.wf s.engines = true ∧ Runs s 12 0x34 ∧ reservedElsewhere s 13 (tkey 0x06 0) = true ∧
      Draftable { s with engines := [(12, { chart (0x34 * 2 ^ 56) [] [] with pc := 1 })] } 12 (chart 0 [] []) 0x06 0 1 (ones 0 16) := by decide +kernel

theorem test_wit_epoch :
    planeDrains live 0 = false ∧
    (planeDrains (put live [(0x0A, 0, 2)]) 0 = true ∧ (epochSum (put live [(0x0A, 0, 2)]) 0 1).toNat = 0) ∧
    (let s := { put live [(0x0A, 0, 2)] with routers := [(0, { net1 := 1 })] }
     planeDrains s 0 = true ∧ (epochSum s 0 (1 - planeEpoch s 0)).toNat ≠ 0) ∧
    epPort (portEp 95) = some 95 ∧ epPort bridgeEp = none := by decide +kernel

/-- Walks that every slice has finished: of no engine, of an engine that waits for it, of one that no longer waits; and none. -/
theorem test_wit_walk_done :
    let w := fun e : Option Nat => ({ kind := 1, obj := 3, started := 0, slices := 0xFFFF, engine := e } : Walk)
    let found := fun s : State => takeFirst (fun w => w.slices == 0xFFFF && (List.range 16).all (walkClear s w)) s.walks
    found { live with walks := [w none] } = some (w none, []) ∧
    (let s := { on live { chart 0 [] [] with wait := .macroStep, seqA := 3, seq := 2 } with walks := [w (some 12)] }
     found s = some (w (some 12), []) ∧ (engineOf s 12).wait = .macroStep ∧ (engineOf s 12).seqA = 3 ∧ (engineOf s 12).seq = 2) ∧
    (engineOf { live with walks := [w (some 12)] } 12).wait ≠ .macroStep ∧ found live = none := by decide +kernel

/-- A packet on input 0 and on input 3 of router 0 for the endpoint of port 95. -/
theorem test_wit_router : ∀ i ∈ [0, 3],
    let p : Packet := { txn := 1, cmd := 1, src := portEp 0, dst := portEp 95, oc := 2, epoch := 0 }
    let s := { live with routers := [(0, { inputs := [(i, p)] })] }
    fabricRuns s = true ∧ smWf (fun _ => ({} : Router)) s.routers = true ∧ (routerOf s 0 0).inputs = [(i, p)] ∧ (routerOf s 0 0).inj = [] ∧
      epRouter p.dst ≠ 0 ∧ usableOut s 0 0 / 2 ^ nbits (routeEntry s 0 0 0 (epRouter p.dst)) 4 2 % 2 = 1 := by decide +kernel

/-- Starvation at exactly 256 cycles, one below it, and reported already. -/
theorem test_wit_starve :
    let p : Packet := { txn := 1, cmd := 1, src := 0, dst := portEp 95, oc := 2, epoch := 0 }
    (let x := routerOf { live with routers := [(47, { wait := 256, inj := [p] })] } 0 47
     256 ≤ x.wait ∧ x.inj ≠ [] ∧ x.starve = false) ∧
    (routerOf { live with routers := [(47, { wait := 255, inj := [p] })] } 0 47).wait < 256 ∧
    (routerOf { live with routers := [(47, { wait := 256, starve := true })] } 0 47).starve = true := by decide +kernel

theorem test_wit_proxy :
    let p : Packet := { txn := 1, cmd := 0x21, src := portEp 0, dst := portEp 1, oc := 2, epoch := 0 }
    (let s := { live with endps := [(portEp 0, { proxy := true, errs := [p] })] }
     (endpOf s (portEp 0)).proxy = true ∧ (endpOf s (portEp 0)).leaving = false ∧ (endpOf s (portEp 0)).errs = p :: []) ∧
    ((endpOf { live with endps := [(portEp 0, { proxy := true })] } (portEp 0)).errs = [] ∧
      (endpOf { live with endps := [(portEp 0, { proxy := true })] } (portEp 0)).handed = []) ∧
    (let x := endpOf { live with endps := [(portEp 0, { proxy := true, leaving := true })] } (portEp 0)
     x.proxy = true ∧ x.leaving = true ∧ x.errs = [] ∧ x.handed = []) := by decide +kernel

/-- A release report due now and 1 ns early; a REL, a SKIP and a CLOSE that arrived at a port and at the bridge. -/
theorem test_wit_reports :
    (∀ c ∈ [(0, true), (1, false)],
      let s := { live with streams := [(streamKey 5 6 2, { relAt := some c.1 })] }
      (streamOf s (streamKey 5 6 2)).relAt = some c.1 ∧ decide (c.1 + 1000 ≤ s.clock) = c.2) ∧
    (∀ cmd ∈ [0x50, 0x51, 0x52], ∀ ep ∈ [portEp 95, bridgeEp],
      let p : Packet := { txn := 0, cmd := cmd, src := 5, dst := ep, oc := 2, epoch := 0 }
      takeFirst (fun p : Packet => p.cmd == cmd && p.dst == ep) ({ live with arrived := [p] } : State).arrived = some (p, [])) ∧
    epTile (portEp 95) = some 11 ∧ epTile bridgeEp = none := by decide +kernel
/-! The coherence home and the pool. -/

/-- Slice 0 with the line of key 0 of region 0 on die as e; agents 0 (a host, PID 0x10) and 1 (PID 0x11, of this KIND) are active, and
transaction 1 of agent 0 with this command waits in the slice's queue. -/
def homed (cmd kind : Nat) (e : DirEnt) : State :=
  { put live [(0x20, 0, 8 * 2 ^ 65 + 2 ^ 72 + 2 ^ 55), (0x22, 0, 1 + 0x10 * 2 ^ 36), (0x22, 1, 1 + kind * 2 ^ 4 + 0x11 * 2 ^ 36)] with
    slices := [(0, { ready := true, inq := [1] })], ways := [(0, { ent := e, valid := true })]
    txns := [(1, { cmd := cmd, spid := 0x10, dpid := 0x11, home := some (0, 0) })] }

/-- What the statement on requests assumes of slice 0 in s, the line's transaction not busy and its entry found at way 0 as e. -/
abbrev serves (s : State) (cmd : Nat) (e : DirEnt) : Prop :=
  let x := sliceOf s 0
  let s1 := setSlice s 0 { x with inq := [] }
  let x1 := sliceOf s1 0
  let s2 := dieErrors (count (setSlice s1 0 { x1 with act := x1.act ++ [{ key := 0, txn := some 1 }] }) (sliceCtr 0 0) 1) 0 0 {}
  let v := touchWay (count s2 (sliceCtr 0 1) 1) 0
  let w := openReq v 0 0 0 1
  fabricRuns s = true ∧ x.ready = true ∧ x.sink = [] ∧ x.conf.length < 256 ∧ x.scq.length < 64 ∧ x.inq = 1 :: [] ∧ (txnOf s1 1).home.map (·.2) = some 0 ∧
    (txnOf s 1).cmd = cmd ∧ ¬((actOf x1 0).isSome = true ∨ 255 ≤ (entryOf s1 0).opn ∨ (x1.conf.any fun j => homeLine s1 j == some 0) = true) ∧
    findDie s2 0 = some 0 ∧ lacksTracker v 0 0 1 (wayOfNo v 0).ent = false ∧ (txnOf w 1).cmd = cmd ∧
    applyLoss w (sliceOf w 0) 0 (wayOfNo w 0).ent = (wayOfNo w 0).ent ∧ (wayOfNo w 0).ent.st = e.st ∧
    (wayOfNo w 0).ent.sharers = e.sharers ∧ (wayOfNo w 0).ent.owner = e.owner ∧ reqAgent w 1 = some 0

/-- In I; in S with agent 1 and without another sharer; in O by the other agent, by a far one, by the requester; LOST: for every command. -/
theorem test_wit_home : ∀ cmd ∈ [1, 2, 3, 4, 5], ∀ c ∈ [(({} : DirEnt), 0), ({ st := 1, sharers := 3 }, 0), ({ st := 1, sharers := 1 }, 0),
      ({ st := 2, owner := 1 }, 0), ({ st := 2, owner := 1 }, 2), ({ st := 2, owner := 0 }, 0), ({ st := 3 }, 0)],
    serves (homed cmd c.2 c.1) cmd c.1 ∧ tabFld (homed cmd c.2 c.1) 0x22 1 4 2 = c.2 := by decide +kernel

/-- A line already active, one behind a waiting request of its line, one that the die does not hold, and one whose snoops find no tracker. -/
theorem test_wit_home_busy :
    (let s := { homed 1 0 {} with slices := [(0, { ready := true, inq := [1], act := [{ key := 0, txn := some 9 }] })] }
     (actOf (sliceOf (setSlice s 0 { sliceOf s 0 with inq := [] }) 0) 0).isSome = true) ∧
    (let s := { homed 1 0 {} with slices := [(0, { ready := true, inq := [1], conf := [1] })] }
     ((sliceOf s 0).conf.any fun j => homeLine s j == some 0) = true) ∧
    (let s := { homed 1 0 {} with ways := [] }
     ¬((actOf (sliceOf s 0) 0).isSome = true ∨ 255 ≤ (entryOf s 0).opn) ∧ findDie s 0 = none) ∧
    (let s := { homed 2 0 { st := 2, owner := 1 } with
        slices := [(0, { ready := true, inq := [1], act := List.replicate 512 { key := 9, txn := none, tracker := true } })] }
     lacksTracker s 0 0 1 { st := 2, owner := 1 } = true) := by decide +kernel

/-- As homed, with transaction 1 among the must-sink commands, and this active transaction on its line. -/
def sunk (cmd spid : Nat) (e : DirEnt) (act : List Active) : State :=
  { homed cmd 0 e with slices := [(0, { ready := true, sink := [1], act := act, opens := [⟨0, 7, some 0, false, 0x10, 5, 96⟩] })]
                       txns := [(1, { cmd := cmd, spid := spid, dpid := 0x11, tag := 5, home := some (0, 0) })] }

theorem test_wit_sink :
    (∀ cmd ∈ [0x25, 0x22, 0x21, 0x27], ∀ act ∈ [[], [({ key := 0, txn := some 9, stage := 2 } : Active)]],
      let s := sunk cmd 0x10 { st := 2, owner := 0, opn := 1 } act
      let s1 := dieErrors (setSlice s 0 { sliceOf s 0 with sink := [] }) 0 0 {}
      fabricRuns s = true ∧ (sliceOf s 0).ready = true ∧ (sliceOf s 0).sink = 1 :: [] ∧ (txnOf s 1).cmd = cmd ∧ findDie s1 (txnOf s1 1).key = some 0 ∧
        agentOfPid s1 (txnOf s1 1).spid = some 0 ∧ agentOfPid s1 (txnOf s1 1).dpid = some 1 ∧ (wayOfNo s1 0).ent.st = 2 ∧ (wayOfNo s1 0).ent.owner = 0 ∧
        actOf (sliceOf s1 0) 0 = act.head? ∧ applyLoss s1 (sliceOf s1 0) 0 (wayOfNo s1 0).ent = (wayOfNo s1 0).ent ∧
        takeFirst (fun o : OpenTx => o.key == 0 && o.tag == 5 && o.spid == 0x10 && o.ingress == 96) (sliceOf (dieErrors (dropTxn (setSlice s 0 { sliceOf s 0 with sink := [] }) 1) 0 0 {}) 0).opens =
          some (⟨0, 7, some 0, false, 0x10, 5, 96⟩, [])) ∧
    (let s := setSlice { sunk 0x25 0x10 {} [] with ways := [] } 0 { ready := true }
     findDie s 0 = none ∧ findDie (dropTxn s 1) 0 = none ∧ backOwned s 0 0 (some 0) = none) ∧
    (let s := { sunk 0x25 0x10 {} [] with ways := [], backing := [((keySet 0 * 8 + 3), { st := 2, owner := 0, tag := keyTag 0 })] }
     findDie s 0 = none ∧ backOwned (setErrors (dieErrors s 0 0 {}) (keySet 0) {}) 0 0 (some 0) = some 3) ∧
    agentOfPid (sunk 0x22 0xFFF {} []) 0xFFF = none := by decide +kernel

/-- An ERR from a snoop to a lost owner that is being asked. -/
theorem test_wit_err_lost :
    let s := setTab (sunk 0x21 0x10 { st := 5, owner := 1 } [{ key := 0, txn := some 9, stage := 2, awaits := [1] }]) 0x22 1 (2 + 0x11 * 2 ^ 36) 0
    let d := dropTxn (dieErrors (setSlice s 0 { sliceOf s 0 with sink := [] }) 0 0 {}) 1
    (wayOfNo d 0).ent.st = 5 ∧ (wayOfNo d 0).ent.owner = 1 ∧ astate d 1 = 2 ∧ agentOfPid s 0x11 = some 1 := by decide +kernel

theorem test_wit_lists :
    (let s := setSlice (homed 1 0 {}) 0 { ready := true, conf := [1] }
     takeFirst (mayActivate s 0) (sliceOf s 0).conf = some (1, []) ∧ homeLine s 1 = some 0) ∧
    (sliceOf live 0).conf = [] ∧ (sliceOf live 0).scq = [] ∧
    (let s := setSlice (homed 1 0 {}) 0 { ready := true, scq := [0], act := [{ key := 0, txn := some 1 }] }
     takeFirst (fun k => oldestOfSet (sliceOf s 0) k && canTake s k) (sliceOf s 0).scq = some (0, []) ∧ actOf (sliceOf s 0) 0 = some { key := 0, txn := some 1 } ∧
      (sliceOf s 0).act.find? (fun a => a.stage == 0 && (match a.txn with | some _ => true | none => false)) = some { key := 0, txn := some 1 }) ∧
    (let s := setSlice { homed 1 0 {} with
        ways := [], backing := (List.range 8).map fun h => (keySet 0 * 8 + h, { st := 1, sharers := 1, tag := keyTag 0 + 1 + h }) } 0
        { ready := true, scq := [0], act := [{ key := 0, txn := some 1 }] }
     takeFirst (fun k => oldestOfSet (sliceOf s 0) k && canTake s k) (sliceOf s 0).scq = none ∧
      (sliceOf s 0).scq.find? (lacksVictim s (sliceOf s 0)) = some 0) ∧
    (let s := put (homed 1 0 {}) [(0x24, 0, 255 * 2 ^ 16)]
     tabFld s 0x24 0 16 8 ≠ 0 ∧ (sliceOf s 0).ready = true ∧ s.clock < (sliceOf s 0).patrolAt + 255 * 3600000000000 / 2 ^ 24) ∧
    (let s := { put (homed 1 0 {}) [(0x24, 0, 1 * 2 ^ 16)] with clock := 214576 }
     (sliceOf s 0).ready = true ∧ (sliceOf s 0).patrolAt + tabFld s 0x24 0 16 8 * 3600000000000 / 2 ^ 24 = s.clock) ∧
    tabFld (put live [(0x24, 15, 0)]) 0x24 15 16 8 = 0 := by decide +kernel

/-- A walk that slice 15 has not finished: clear at once, and one that finds agent 0 as a sharer behind an active eviction. -/
theorem test_wit_walk :
    (let s := { live with walks := [{ kind := 1, obj := 0, started := 0, slices := 0x7FFF }] }
     (s.walks.find? fun w => w.slices / 2 ^ 15 % 2 == 0) = some { kind := 1, obj := 0, started := 0, slices := 0x7FFF } ∧
      walkClear s { kind := 1, obj := 0, started := 0, slices := 0x7FFF } 15 = true) ∧
    walkClear { live with slices := [(0, { ready := true, act := [{ key := 0, txn := none, goal := 2 }] })] } { kind := 1, obj := 0, started := 0 } 0 = false := by
  decide +kernel

theorem test_wit_edge :
    (({ live with boot := { live.boot with hbm := true } } : State).boot.hbm = true ∧ live.boot.dirClear = false) ∧
    (portExists (dsp 0x0B 0) 8 = true ∧ roleOf (dsp 0x0B 0) 8 ≠ 0) ∧
    (txnsWhere (withTxn live { phase := 4, cmd := 0x13, dst := portEp 8 }) fun t => t.phase == 4 && t.cmd == 0x13 && t.dst == portEp 8).head? = some 1 ∧
    (let f : Fwd := ⟨8, 0x40, 0, 0x10, 5, 0x12⟩
     takeFirst (fun f : Fwd => f.port == 8 && f.line == 0x40) ({ live with fwds := [f] } : State).fwds = some (f, [])) ∧
    tabFld (put live [(0x17, 0x10, 1 * 2 ^ 12)]) 0x17 0x10 12 3 = 1 ∧ tabFld live 0x17 0x10 12 3 ≠ 1 := by decide +kernel

/-- The member of port 8 with one granule, DIRTY. -/
theorem test_wit_scrub :
    (let s := put live [(0x19, 128, 1)]
     moverFree s 47 = true ∧ scrubMember s = some 128 ∧ dirtyGranule s 128 = some 0) ∧
    (let s := { live with scrubs := [⟨128, 0, 1, 47⟩] }
     moverFree s 47 = false ∧ (s.scrubs.find? fun c => c.mover == 47) = some ⟨128, 0, 1, 47⟩) ∧
    (∀ st ∈ [0, 7],
      let d := { scrubDesc 128 0 1 47 with known := true, status := st }
      let s := { live with scrubs := [⟨128, 0, 1, 47⟩], svc := { State.reset.svc with descs := [(1071, d)] } }
      descAt s (1024 + 47) = some d ∧ d.known = true ∧ d.status = st ∧ (s.scrubs.find? fun c => c.mover == 47) = some ⟨128, 0, 1, 47⟩) ∧
    descAt live (1024 + 47) = none := by decide +kernel

/-- An offer that ends now and one in its last nanosecond; a release overdue now; a bound extent. -/
theorem test_wit_offers :
    (let s := { put live [(0x15, 16383, 1 * 2 ^ 22)] with offers := [(16383, 1)], clock := 2000000000 }
     estate (tabVal s 0x15 16383) = 1 ∧ smGet 0 s.offers 16383 ≠ 0 ∧ smGet 0 s.offers 16383 + 2000000000 = s.clock + 1) ∧
    (let s := { put live [(0x15, 16383, 1 * 2 ^ 22)] with offers := [(16383, 1)], clock := 1999999999 }
     s.clock + 1 < smGet 0 s.offers 16383 + 2000000000) ∧
    (let s := { put live [(0x15, 16383, 3 * 2 ^ 22)] with offers := [(16383, 1)], clock := 10000000000 }
     estate (tabVal s 0x15 16383) = 3 ∧ smGet 0 s.offers 16383 + 10000000000 = s.clock + 1 ∧ smGet false s.overdue 16383 = false) ∧
    (∀ judged ∈ [true, false],
      let s := { on (put live [(0x15, 16383, 1 * 2 ^ 22)]) { chart 0 [] [] with wait := .commit, drafts := [⟨tkey 0x15 16383, 0, ones 22 3, 0⟩] } with
        offers := [(16383, 1)], clock := 2000000000, arb := { queue := [12], judged := judged } }
      acceptedNow s 16383 1 = judged) ∧
    estate (tabVal live 0x15 0) ≠ 1 ∧ estate (tabVal live 0x15 0) ≠ 3 := by decide +kernel

/-- The last decoder of a vPPB that is bound to a port. -/
theorem test_wit_foreign : decoderForeign (put live [(0x11, 4095, 1 + 2 ^ 24)]) 68607 = true := by decide +kernel

/-- The last decoder of the USP at port 95, not committed, committed, and committed with its lock. -/
theorem test_wit_decoders : ∀ r ∈ [({} : DecReg), { committed := true }, { committed := true, lockOn := true }],
    let s := { put live [(0x01, 95, 1)] with decRegs := [(tkey 0x12 3071, { r with val := 1 })] }
    decoderShown s 3071 = true ∧ decoderBusy s (decoderKey 3071) = false ∧ (smGet ({} : DecReg) s.decRegs (decoderKey 3071)).committed = r.committed ∧
      (smGet ({} : DecReg) s.decRegs (decoderKey 3071)).lockOn = r.lockOn := by decide +kernel

/-- The vPPB 4,095 bound to the pooled logical device 255, and one that is not. -/
theorem test_wit_mailbox : pldOf (put live [(0x11, 4095, 3 + 255 * 2 ^ 15 + 2 ^ 24)]) 4095 = some 255 ∧ pldOf live 4095 = none := by decide +kernel
/-! Survey. -/

/-- Slot channel 31 mapped to the DSP at port 8, presence at GPIO 0, attention at 1, PERST# at 2. -/
def slotted : State := put (dsp 2 0) [(0x38, 31, 8 + 0 * 2 ^ 80 + 1 * 2 ^ 88 + 2 * 2 ^ 96)]

theorem test_wit_presence :
    (portExists slotted 8 = true ∧ byPin slotted 8 = true ∧ smGet false slotted.present 8 = false) ∧
    (∀ st ∈ [2, 0], byPin (dsp st 0) 8 = false ∧ inBand (dsp st 0) 8 = decide (st = 2) ∧ smGet false (dsp st 0).present 8 = false) ∧
    (let s := { dsp 2 0 with present := [(8, true)] }
     smGet false s.present 8 = true ∧ byPin s 8 = false ∧ runOf s 8 = none) ∧
    (∀ st ∈ [0, 3, 5, 6, 7], let s := { dsp 2 0 with arriving := [(8, true)], partners := [(8, { st := st, rdBw := 1 })] }
      smGet false s.arriving 8 = true ∧ roleOf s 8 ≠ 0 ∧ (partnerOf s 8).st = st ∧ surveying s 8 = false ∧ detachOf s 8 = none) ∧
    smGet false live.arriving 8 = false := by decide +kernel

/-- SURVEY.RUN on an arrived and registered partner, on an arrived one, on an empty record; RECORD into the last 128 bytes; DETACH. -/
theorem test_wit_survey_macros :
    (∀ q ∈ [({ st := 2, flags := 1 } : Partner), { st := 2 }, {}],
      let s := { atMac (dsp 2 0) 0xA8 [8] with partners := [(8, { q with rdBw := 1 })] }
      Begins s 12 0xA8 [rowBits [(6, 0)]] 0 (.tile tileOfPort0) true ∧ portExists s 8 = true ∧ roleOf s 8 ≠ 0 ∧ surveying s 8 = false ∧
        detachOf s 8 = none ∧ (partnerOf s 8).st = q.st ∧ (partnerOf s 8).flags = q.flags) ∧
    (∀ off ∈ [0x8000, 0xFF80], let s := atMac (dsp 2 0) 0xAA [8, off]
      Begins s 12 0xAA [rowBits [(6, 0)], rowBits [(15, 0)]] 0 (.tile tileOfPort0) false ∧ off % 8 = 0 ∧ portExists s 8 = true ∧ off + 128 ≤ 0x10000) := by
  decide +kernel

theorem test_wit_detach : ∀ st ∈ [2, 3, 4], ∀ c ∈ [(0, false), (2 ^ 20, true)],
    let s := { atMac (dsp 2 c.1) 0xA9 [8] with partners := [(8, { st := st })] }
    Begins s 12 0xA9 [rowBits [(6, 0)]] 0 .glob true ∧ surveying s 8 = false ∧ detachOf s 8 = none ∧ portExists s 8 = true ∧ (partnerOf s 8).st = st ∧
      lostNow (modPartner s 8 fun q => { q with st := 4, step := 1 }) 8 = c.2 := by decide +kernel

/-- A run of port 8 in step k that began at 0, its link up. -/
def running (k : Nat) (s : State) (r : SurveyRun := { engine := 1 }) : State :=
  { s with surveys := [(8, r)], partners := [(8, { st := 1, step := k })], clock := 2000000000 }

theorem test_wit_steps :
    (∀ k ∈ [2, 3, 4, 5, 6], runOf (running k (dsp 0x0B (2 ^ 17))) 8 = some { engine := 1 } ∧ lostNow (running k (dsp 0x0B (2 ^ 17))) 8 = false ∧
      (partnerOf (running k (dsp 0x0B (2 ^ 17))) 8).step = k) ∧
    slotReady (running 2 (dsp 2 0)) 8 { engine := 1 } = true ∧ trained (running 3 (dsp 0x0B (2 ^ 17))) 8 = true ∧ trained (running 3 (dsp 2 0)) 8 = false ∧
    (∀ c ∈ [(5, true), (1, false)], ((step4Found (running 4 (dsp 0x0B (2 ^ 17))) 8 none
      (.identity c.1 2 1 1 1 1 7 [1, 1])).map fun t => t.2.1) = some c.2) := by decide +kernel

/-- Each step's bound exactly reached; the bound of step 2 with a slot that never came up, or is latched; PERST# exactly 100 ms after PG. -/
theorem test_wit_step_bounds :
    (∀ c ∈ [(3, 1000000000), (4, 1000000000), (5, 0), (6, 1000000000)],
      let s := running c.1 (dsp 2 0) { engine := 1, began := c.2 }
      runOf s 8 = some { engine := 1, began := c.2 } ∧ (partnerOf s 8).step = c.1 ∧ c.2 + (if c.1 = 5 then 2000000000 else 1000000000) = s.clock) ∧
    (∀ c ∈ [(1900000000, 0), (2000000000, 4)],
      let s := { running 2 slotted { engine := 1, began := c.1 } with slots := [(31, { st := c.2, peak := 1 })] }
      channelOf s 8 = some 31 ∧ (slotOf s 31).pg = false ∧ (c.1 + 100000000 ≤ s.clock ∨ (slotOf s 31).st = 4)) ∧
    (let s := { running 2 slotted with slots := [(31, { st := 3, pg := true, pgAt := 1900000000 })] }
     channelOf s 8 = some 31 ∧ perstPin s 8 = some 2 ∧ (slotOf s 31).pg = true ∧ (slotOf s 31).pgAt + 100000000 = s.clock) := by decide +kernel

theorem test_wit_detach_timers :
    (let s := { on slotted { chart (mac 0xA9 1 0) [] [] with seq := 32, seqA := 8 } with detachAt := [(8, 1)], clock := 10000000000 }
     detachOf s 8 = some 12 ∧ (engineOf s 12).seq = 32 ∧ smGet 0 s.detachAt 8 ≠ 0 ∧ smGet 0 s.detachAt 8 + 10000000000 = s.clock + 1) ∧
    (channelOf slotted 8 = some 31 ∧ tabFld slotted 0x38 31 88 6 < 48 ∧ detachOf slotted 8 = none ∧ smGet 0 slotted.attn 8 = 0) ∧
    (∀ t ∈ [5000000000], let s := { slotted with attn := [(8, 1)], clock := t }
      smGet 0 s.attn 8 ≠ 0 ∧ s.clock + 1 = smGet 0 s.attn 8 + 5000000000) := by decide +kernel

/-- A lost DSP whose partner is gone, and deferred capacity of an arrived one. -/
theorem test_wit_partner_lost :
    (∀ st ∈ [1, 4], let s := { dsp 2 (2 ^ 20) with partners := [(8, { st := st })] }
      lostNow s 8 = true ∧ detachOf s 8 = none ∧ (partnerOf s 8).st = st ∧ runOf s 8 = none ∧ smGet false s.present 8 = false) ∧
    (let s := { dsp 2 (2 ^ 20) with partners := [(8, { st := 2 })], present := [(8, true)], lostAt := [(8, 1)], clock := 1000000000 }
     lostNow s 8 = true ∧ smGet 0 s.lostAt 8 + 1000000000 = s.clock + 1) ∧
    (let s := { dsp 2 0 with partners := [(8, { st := 2 })], deferred := [(8, [(0, 16)])] }
     smGet [] s.deferred 8 ≠ [] ∧ lostExtent s 8 = false ∧ (partnerOf s 8).st = 2) := by decide +kernel
/-! The Fabric Manager API. -/

theorem test_wit_fm_source :
    srcLetter live .smbus ≠ 4 ∧ srcLetter live .smbus ≠ 5 ∧ srcLetter live .mailbox = 4 ∧
    srcLetter (put live [(0x01, 0, 1)]) (.vdm 0) = 5 := by decide +kernel

theorem test_wit_fm_background :
    live.mctp.bgRunning = false ∧ ({ live with mctp := { live.mctp with bgRunning := true } } : State).mctp.bgRunning = true ∧
    (∀ n ∈ [(8 : BitVec 8), 13], 8 ≤ n.toNat ∧ n.toNat ≤ 13) ∧ (∀ n ∈ [(7 : BitVec 8), 14], n.toNat < 8 ∨ 13 < n.toNat) := by decide +kernel

/-- Queue 4,095 with one record waiting of handle 0: cleared by that handle and by none, not by another. -/
theorem test_wit_fm_handles :
    let s := setEq live 4095 { eqOf live 4095 with tail := 1 }
    fmNamed s (eqOf s 4095).head (fmWaiting (eqOf s 4095)) [0] = true ∧ fmNamed s (eqOf s 4095).head (fmWaiting (eqOf s 4095)) [] = true ∧
    fmNamed s (eqOf s 4095).head (fmWaiting (eqOf s 4095)) [1] = false ∧ fmNamed s (eqOf s 4095).head (fmWaiting (eqOf s 4095)) [0, 0] = false := by
  decide +kernel

/-- The last port, one that does not exist, and a port's PERST# pin with PG. -/
theorem test_wit_fm_ports :
    portExists (dsp 2 0) 8 = true ∧ portExists (dsp 2 0) 95 = true ∧ portExists (dsp 2 0) 96 = false ∧
    (let s := { slotted with slots := [(31, { st := 3, pg := true })] }
     fmPerst s 8 = some 2 ∧ channelOf s 8 = some 31 ∧ (slotOf s 31).pg = true) ∧
    fmPerst (dsp 2 0) 8 = none := by decide +kernel

/-- An enabled VCS with vPPBs, an enabled pooled logical device. -/
theorem test_wit_fm_virtual :
    tabFld bound 0x10 0 14 1 = 1 ∧ 3 < tabFld bound 0x10 0 7 7 ∧ tabFld bound 0x14 0 36 1 = 1 ∧ (63 : BitVec 8).toNat < 64 := by decide +kernel

/-- An arrived MLD of 16 logical devices at port 8, and none. -/
theorem test_wit_fm_mld :
    (let s := { dsp 0x0B (2 ^ 17) with partners := [(8, { st := 2, kind := 5, nld := 16 })] }
     fmMld s 8 = true ∧ (15 : BitVec 16).toNat < (partnerOf s 8).nld) ∧ fmMld (dsp 0x0B (2 ^ 17)) 8 = false := by decide +kernel

/-! Meridian: messages, SPDM, firmware, Root macros, tokens. -/

/-- A running Meridian and Steward, port 0 a USP, port 8 an ISL, port 16 the fabric management port, VDMs of port 0 admitted or not. -/
def merLive (m : Meridian) (adm : Bool := false) : State :=
  { put live [(0x01, 0, 1), (0x01, 8, 3), (0x01, 16, 4)] with
    mer := { m with running := true }, stw := { State.reset.stw with running := true }
    sec := { State.reset.sec with admitMask := if adm then 1 else 0, anchors := [(7, [1])] } }

theorem test_wit_sources :
    srcLetter (merLive {}) .smbus = 0 ∧ srcLetter (merLive {}) .i3c = 1 ∧ srcLetter (merLive {}) (.vdm 16) = 2 ∧
    srcLetter (merLive {} true) (.vdm 0) = 3 ∧ srcLetter (merLive {}) .mailbox = 4 ∧ srcLetter (merLive {}) (.vdm 0) = 5 := by decide +kernel

/-- A message of an unknown type and one byte beyond each limit. -/
theorem test_wit_discard : ∀ c ∈ [((1 : BitVec 8), 1), (0x7E, 65601), (0x07, 8257)],
    c.1.toNat ∉ [0x00, 0x05, 0x06, 0x07, 0x7E] ∨ 65600 < c.2 ∨ (c.1 ≠ 0x7E ∧ 8256 < c.2) := by decide +kernel

theorem test_wit_vendor_commands :
    portExists (merLive {}) 95 = true ∧ portExists (merLive {}) 96 = false ∧
    (20479 : BitVec 32).toNat < 20480 ∧ 20480 ≤ (20480 : BitVec 32).toNat ∧
    (∀ n ∈ [1, 8192], 1 ≤ (List.replicate n (0 : Byte)).length ∧ (List.replicate n (0 : Byte)).length ≤ 8192) ∧
    (merLive {}).stw.running = true ∧ live.stw.running = false ∧ (merLive {}).mer.running = true ∧ live.mer.running = false := by decide +kernel

/-- Each transport of SPDM. -/
theorem test_wit_spdm :
    (∀ v ∈ [SpdmVia.mctp .smbus, .mctp (.vdm 0), .doe 0, .mgmt 8], viaOk (merLive {}) v = true) ∧
    (1 : Fin 8) ≠ 0 ∧ (∀ i ∈ [(1 : BitVec 8), 7], 1 ≤ i.toNat ∧ i.toNat ≤ 7) ∧ (∀ i ∈ [(8 : BitVec 8), 0xFE], 7 < i.toNat ∧ i ≠ 0xFF) ∧
    freeSession (merLive {}) = some 0 ∧ freeSession (merLive { sessions := (List.range 15).map fun i => (i, {}) }) = some 15 ∧
    freeSession (merLive { sessions := (List.range 16).map fun i => (i, {}) }) = none ∧
    (7 ≤ 7 ∧ 6 < 7 ∧ smGet [] (merLive {}).sec.anchors (6 + 1) = [1] ∧ ([1] : List Byte) ≠ []) := by decide +kernel

/-- A session just before and at its deadline. -/
theorem test_wit_session : ∀ c ∈ [(1000, true), (1001, false)],
    let s := merLive { sessions := [(15, { deadline := c.1 })] }
    sessionOf s (15 : BitVec 16).toNat = some { deadline := c.1 } ∧ decide (c.1 ≤ s.clock) = c.2 := by decide +kernel

/-! Firmware. -/

/-- No staging, with and without a bank staged; a Cartouche that fails. -/
theorem test_wit_staging_none :
    (merLive {}).mer.staging = none ∧ (merLive {}).mer.staged = none ∧ (merLive {}).mer.upd = none ∧
    (merLive { staged := some 1 }).mer.staged = some 1 ∧ (merLive { staged := some 1 }).mer.staging = none ∧
    (0 : BitVec 16).toNat ≤ 1000 ∧ (1000 : BitVec 16).toNat ≤ 1000 := by decide +kernel

theorem test_wit_cart_fails : ¬((cartKind [] = 1 ∨ cartKind [] = 2) ∧ cartOk (merLive {}) (cartKind []) [] = true) :=
  fun h => absurd h.1 (by decide)

/-- A Cartouche of this KIND for a payload of 4 bytes, its key in entry 1. -/
def cart (kind : Nat) (digest : List Byte) : List Byte :=
  natBytes 4 0x41435753 ++ natBytes 2 1 ++ natBytes 1 kind ++ natBytes 1 1 ++ natBytes 4 7 ++ natBytes 4 0 ++ natBytes 4 4 ++ natBytes 4 0 ++ natBytes 8 0 ++
    (digest ++ (natBytes 28 0 ++ natBytes 132 0))

/-- The next 4 bytes, to the end of the payload; none left of 10 s, and one nanosecond. -/
theorem test_wit_staging :
    (let g : Staging := ⟨2, 1, cart 2 (List.replicate 64 0), [], 0⟩
     (merLive { staging := some g }).mer.staging = some g ∧ (4 : Nat) ≠ 0 ∧ 4 ≤ 4096 ∧ (256 : BitVec 32).toNat = 256 + g.got.length ∧ g.got.length + 4 ≤ cartLength g.cart) ∧
    (∀ c ∈ [(10000000000, true), (9999999999, false)],
      let s := { merLive { staging := some ⟨2, 1, [], [], 0⟩ } with clock := c.1 }
      s.mer.staging = some ⟨2, 1, [], [], 0⟩ ∧ decide (0 + 10000000000 ≤ s.clock) = c.2) := by decide +kernel

theorem test_wit_live_update :
    (∀ k ∈ [2, 5], let u : LiveUpd := ⟨k, 1, 1, 1000, false⟩
      (merLive { upd := some u }).mer.upd = some u ∧ u.step = k ∧ (merLive { upd := some u }).mer.running = true ∧
        u.deadline ≤ (merLive { upd := some u }).clock ∧ (merLive { upd := some u }).paused = none) ∧
    (let s := { merLive { upd := some ⟨5, 1, 1, 0, true⟩ } with paused := some 500 }
     s.mer.upd = some ⟨5, 1, 1, 0, true⟩ ∧ s.paused = some 500) ∧
    (merLive { reports := [⟨1, [], 0⟩] }).mer.running = true ∧ (merLive { reports := [⟨1, [], 0⟩] }).mer.reports = ⟨1, [], 0⟩ :: [] := by decide +kernel

theorem bytesNat_natBytes (n v : Nat) (h : v < 256 ^ n) : bytesNat (natBytes n v) = v := by
  have go : ∀ n v k, bytesNat ((List.range' k n).map fun i => BitVec.ofNat 8 (v / 2 ^ (8 * i))) = v / 2 ^ (8 * k) % 256 ^ n := by
    intro n; induction n with
    | zero => intro v k; simp [bytesNat, Nat.mod_one]
    | succ n ih =>
      intro v k
      have e : 2 ^ (8 * (k + 1)) = 2 ^ (8 * k) * 256 := by rw [show 8 * (k + 1) = 8 * k + 8 by omega, Nat.pow_add]
      have f : 256 ^ (n + 1) = 256 * 256 ^ n := by rw [Nat.pow_succ, Nat.mul_comm]
      rw [List.range'_succ, List.map_cons, bytesNat, ih, BitVec.toNat_ofNat, e, f, ← Nat.div_div_eq_div_mul, Nat.mod_mul]
  have := go n v 0
  rw [List.range_eq_range'.symm] at this
  simpa [natBytes, Nat.mod_eq_of_lt h] using this

theorem natBytes_length (n v : Nat) : (natBytes n v).length = n := by simp only [natBytes, List.length_map, List.length_range]

theorem leAt_of (t : List Byte) (off n v : Nat) (h : slice t off n = natBytes n v) (hv : v < 256 ^ n) : leAt t off n = v := by
  rw [leAt, h, bytesNat_natBytes _ _ hv]

theorem slice_here (a b c : List Byte) (n m : Nat) (ha : a.length = n) (hb : b.length = m) : slice (a ++ (b ++ c)) n m = b := by
  subst ha; subst hb; simp [slice]

theorem sha_length (b : List Byte) : (sha b).length = 64 := by
  simp only [sha, slice, List.length_append, List.length_take, List.length_drop, List.length_replicate]; omega

/-- An image of this KIND staged in bank B and in eMRAM copies 1 and, or not, 0. -/
def imaged (kind : Nat) (both : Bool := false) : State :=
  let m : Image := { cart := cart kind (sha [1, 2, 3, 4]), bytes := [1, 2, 3, 4], valid := true }
  { merLive { staged := some 1, flashB := m, mer1 := m, mer0 := if both then m else {} } with sec := { State.reset.sec with keys := [(1, { pub := [1], purpose := 3, state := 1 })], prefBank := 1 } }

/-- A valid image is one whose key accepts its signature: the rest is met. -/
theorem test_wit_image (kind : Nat) (both : Bool) (hk : kind = 1 ∨ kind = 2)
    (h : Config.ecdsaVerify [1] (sha ((cart kind (sha [1, 2, 3, 4])).take 124)) (slice (cart kind (sha [1, 2, 3, 4])) 124 132) = true) :
    cartKind (cart kind (sha [1, 2, 3, 4])) = kind ∧ cartOk (imaged kind both) kind (cart kind (sha [1, 2, 3, 4])) = true ∧
    imageOk (imaged kind both) kind { cart := cart kind (sha [1, 2, 3, 4]), bytes := [1, 2, 3, 4], valid := true } = true := by
  have hd := slice_here (natBytes 4 0x41435753 ++ natBytes 2 1 ++ natBytes 1 kind ++ natBytes 1 1 ++ natBytes 4 7 ++ natBytes 4 0 ++ natBytes 4 4 ++
    natBytes 4 0 ++ natBytes 8 0) (sha [1, 2, 3, 4]) (natBytes 28 0 ++ natBytes 132 0) 32 64 rfl (sha_length _)
  have hz : slice (cart kind (sha [1, 2, 3, 4])) 96 28 = natBytes 28 0 := by
    have := slice_here (natBytes 4 0x41435753 ++ natBytes 2 1 ++ natBytes 1 kind ++ natBytes 1 1 ++ natBytes 4 7 ++ natBytes 4 0 ++ natBytes 4 4 ++
      natBytes 4 0 ++ natBytes 8 0 ++ sha [1, 2, 3, 4]) (natBytes 28 0) (natBytes 132 0) 96 28 (by simp only [List.length_append, natBytes_length, sha_length]) rfl
    simpa only [cart, List.append_assoc] using this
  have hl : (cart kind (sha [1, 2, 3, 4])).length = 256 := by simp only [cart, List.length_append, natBytes_length, sha_length]
  have h1 : leAt (cart kind (sha [1, 2, 3, 4])) 0 4 = 0x41435753 := leAt_of _ 0 4 0x41435753 rfl (by decide)
  have h2 : leAt (cart kind (sha [1, 2, 3, 4])) 4 2 = 1 := leAt_of _ 4 2 1 rfl (by decide)
  have h3 : cartKind (cart kind (sha [1, 2, 3, 4])) = kind := leAt_of _ 6 1 kind rfl (by omega)
  have h4 : leAt (cart kind (sha [1, 2, 3, 4])) 7 1 = 1 := leAt_of _ 7 1 1 rfl (by decide)
  have h5 : slice (cart kind (sha [1, 2, 3, 4])) 24 8 = List.replicate 8 0 := rfl
  have h6 : cartLength (cart kind (sha [1, 2, 3, 4])) = 4 := leAt_of _ 16 4 4 rfl (by decide)
  have h7 : cartEntry (cart kind (sha [1, 2, 3, 4])) = 0 := leAt_of _ 20 4 0 rfl (by decide)
  have h8 : cartSvn (cart kind (sha [1, 2, 3, 4])) = 0 := leAt_of _ 12 4 0 rfl (by decide)
  have h9 : cartDigest (cart kind (sha [1, 2, 3, 4])) = sha [1, 2, 3, 4] := hd
  have ok : cartOk (imaged kind both) kind (cart kind (sha [1, 2, 3, 4])) = true := by
    have e : (keyAt (imaged kind both) 1) = { pub := [1], purpose := 3, state := 1 } := rfl
    have e1 : svnOf (imaged kind both) kind = 0 := by rcases hk with rfl | rfl <;> rfl
    simp only [cartOk, hl, h1, h2, h3, h4, h5, h6, h7, h8, hz, h, e, e1]
    rcases hk with rfl | rfl <;> decide
  refine ⟨h3, ok, ?_⟩
  simp only [imageOk, ok, h6, h9]; simp

/-! Root macros. -/

/-- Engine 12 at a Root macro with this block. -/
def atRoot (s : State) (op : Nat) (block : List Nat) : State :=
  on s { chart (mac op block.length 0) [(4, 0x8000)] block with tier := 3, sub := 0xC000 }

/-- Cores 0 and 7: held or running, of boot kind 2. -/
theorem test_wit_steward_macro : ∀ c ∈ [(0, 0xFF), (1, 0xFF), (1, 0x01), (2, 0)],
    let s := { atRoot live 0xF0 [0x81 + c.1 * 2 ^ 8 + 2 * 2 ^ 12, 0x100] with stw := { State.reset.stw with held := BitVec.ofNat 8 c.2 } }
    let x := engineOf s 12
    let b := blockWord x (wordAt x)
    let m := BitVec.ofNat 8 (wfld (b 0) 0 8)
    Runs s 12 0xF0 ∧ blockStatus x (wordAt x) [rowBits [(9, 0), (15, 12)], allBits] 0 = 0 ∧ wfld (b 0) 0 8 ≠ 0 ∧ wfld (b 0) 12 4 ≤ 2 ∧ wfld (b 0) 8 2 = c.1 ∧
      ((s.stw.held &&& m = m) ↔ c.2 = 0xFF) := by decide +kernel

theorem test_wit_legend_macro : ∀ k ∈ [0, 1],
    let s := atRoot live 0xF1 [k, 7]
    let x := engineOf s 12
    Runs s 12 0xF1 ∧ blockStatus x (wordAt x) [rowBits [(0, 0)], allBits] 0 = 0 ∧ wfld (blockWord x (wordAt x) 0) 0 1 = k := by decide +kernel

/-- The chip; tile 11 LIVE and FROZEN; port 95. -/
theorem test_wit_reset_macro :
    (∀ c ∈ [(0, 0), (1, 11), (2, 95)], let s := atRoot live 0xF2 [c.1 + c.2 * 2 ^ 4]
      let b := blockWord (engineOf s 12) (wordAt (engineOf s 12)) 0
      Begins s 12 0xF2 [rowBits [(1, 0), (11, 4)]] 0 .glob true ∧ wfld b 0 2 = c.1 ∧ wfld b 4 8 = c.2) ∧
    tileSt live 11 = 0 ∧ tileSt (put live [(0x3E, 11, 2 * 2 ^ 20)]) 11 = 2 ∧
    Begins (atRoot (put live [(0x3E, 11, 2 * 2 ^ 20)]) 0xF2 [1 + 11 * 2 ^ 4]) 12 0xF2 [rowBits [(1, 0), (11, 4)]] 0 .glob true ∧
    portExists (atRoot live 0xF2 [2 + 95 * 2 ^ 4]) 95 = true ∧ smGet none live.portResets 95 = none := by decide +kernel

/-! Tokens. -/

/-- A token of this operation and body, of key 0, nonce and boot count 0, for this device, with a signature of zeros. -/
def token (op : Nat) (body : List Byte) : List Byte :=
  natBytes 4 0x544F5753 ++ natBytes 2 1 ++ natBytes 1 0 ++ natBytes 1 op ++ natBytes 8 Config.serial ++ natBytes 32 0 ++ natBytes 4 0 ++ natBytes 4 body.length ++
    (body ++ natBytes 132 0)

/-- Meridian with the nonce, key 0 that may sign tokens, key 1 of Ahnikar. -/
def keyed (owned : Bool) : State :=
  { merLive { nonce := some (natBytes 32 0) } with
    sec := { State.reset.sec with keys := [(0, { pub := [1], purpose := 8, state := 1, origin := if owned then 1 else 0 }), (1, { pub := [2], purpose := 2, state := 1 })], owned := owned } }

theorem serial_lt : Config.serial < 256 ^ 8 := by have := Config.nodeId.isLt; simp only [Config.serial]; omega

/-- A token whose key accepts its signature passes. -/
theorem test_wit_token (owned : Bool) (op : Nat) (b : List Byte) (ho : op < 256) (hb : b.length < 2 ^ 32)
    (h : Config.ecdsaVerify [1] (sha ((token op b).take (56 + b.length))) (slice (token op b) (56 + b.length) 132) = true) :
    tokenFails (keyed owned) (token op b) = 0 ∧ leAt (token op b) 7 1 = op ∧ leAt (token op b) 52 4 = b.length ∧ slice (token op b) 56 b.length = b := by
  have h1 : leAt (token op b) 0 4 = 0x544F5753 := leAt_of _ 0 4 0x544F5753 rfl (by decide)
  have h2 : leAt (token op b) 4 2 = 1 := leAt_of _ 4 2 1 rfl (by decide)
  have h3 : leAt (token op b) 6 1 = 0 := leAt_of _ 6 1 0 rfl (by decide)
  have h4 : leAt (token op b) 7 1 = op := leAt_of _ 7 1 op rfl (by omega)
  have h5 : leAt (token op b) 8 8 = Config.serial := leAt_of _ 8 8 _ rfl serial_lt
  have h6 : slice (token op b) 16 32 = natBytes 32 0 := rfl
  have h7 : leAt (token op b) 48 4 = 0 := leAt_of _ 48 4 0 rfl (by decide)
  have h8 : leAt (token op b) 52 4 = b.length := leAt_of _ 52 4 _ rfl (by omega)
  have h9 : (token op b).length = 188 + b.length := by simp only [token, List.length_append, natBytes_length]; omega
  have hk : (keyAt (keyed owned) 0) = { pub := [1], purpose := 8, state := 1, origin := if owned then 1 else 0 } := rfl
  refine ⟨?_, h4, h8, ?_⟩
  · have n1 : (keyed owned).mer.nonce = some (natBytes 32 0) := rfl
    have n2 : (keyed owned).sec.boot = 0 := rfl
    have n3 : (keyed owned).sec.owned = owned := rfl
    simp only [tokenFails, h1, h2, h3, h5, h6, h7, h8, h9, hk, h, n1, n2, n3]
    cases owned <;> simp
  · exact slice_here _ b _ 56 b.length rfl rfl

/-- Bodies of each operation that it permits, at the ends of their ranges, and whether the device is owned. -/
theorem test_wit_token_bodies :
    (let b := natBytes 132 1 ++ natBytes 4 3; b.length = 136 ∧ leAt b 132 4 < 4) ∧
    (keyed true).sec.owned = true ∧ (keyed false).sec.owned = false ∧
    (∀ i ∈ [1, 15], let b := natBytes 1 i ++ natBytes 1 2 ++ natBytes 1 3 ++ natBytes 1 0 ++ natBytes 132 2
      b.length = 136 ∧ keySetOk (keyed false) b = true) ∧
    (∀ i ∈ [1, 7], let b := natBytes 4 i ++ natBytes 64 0; b.length = 68 ∧ 1 ≤ leAt b 0 1 ∧ leAt b 0 1 ≤ 7 ∧ leAt b 1 3 = 0) ∧
    (∀ i ∈ [0, 3], let b := natBytes 4 i; b.length = 4 ∧ leAt b 0 1 ≤ 3 ∧ leAt b 1 3 = 0) ∧
    (∀ i ∈ [0, 15], let b := natBytes 4 i ++ natBytes 24 (2 ^ 132 - 1); b.length = 28 ∧ leAt b 0 1 < 16 ∧ leAt b 1 3 = 0 ∧ leAt b 4 24 < 2 ^ 132) ∧
    (∀ i ∈ [1, 2], let b := natBytes 4 i ++ natBytes 4 5; b.length = 8 ∧ leAt b 0 1 = i ∧ leAt b 1 3 = 0) ∧
    (∀ i ∈ [0, 7], let b := natBytes 4 i; b.length = 4 ∧ leAt b 0 1 < 8 ∧ leAt b 1 3 = 0) := by decide +kernel

/-- A token without a nonce outstanding, of each operation. -/
theorem test_wit_token_refused : ∀ op ∈ [1, 2, 3, 4, 5, 6, 7, 8], leAt (List.replicate 7 0 ++ [BitVec.ofNat 8 op]) 7 1 = op ∧
    tokenFails (merLive {}) (List.replicate 7 0 ++ [BitVec.ofNat 8 op]) ≠ 0 := by decide +kernel

/-! Resets, boot, tiles, time, the TAP. -/

/-- s with its boot fields changed and Meridian running or not. -/
def booting (b : Boot) (mer : Bool) : State := { State.reset with boot := b, clock := 1000000000, mer := { State.reset.mer with running := mer } }

theorem test_wit_resets :
    live.boot.pwrOk = true ∧ live.boot.warm = none ∧ State.reset.boot.pwrOk = false ∧
    (booting { pwrOk := true, warm := some 994000000 } true).boot.warm = some 994000000 ∧
    994000000 + 6000000 ≤ (booting { pwrOk := true, warm := some 994000000 } true).clock ∧ (booting { pwrOk := true, warm := some 994000000 } true).mer.running = true := by
  decide +kernel

/-- Without a valid copy. -/
theorem test_wit_rom_none :
    live.mer.running = false ∧ live.mer.restartAt = none ∧ romChoice live = none ∧
    (let s := { live with mer := { live.mer with restartAt := some 0 } }; s.mer.restartAt = some 0 ∧ romChoice s = none) := by decide +kernel

/-- With copy 1, or both of one VERSION, that their key accepts. -/
theorem test_wit_rom_some
    (h : Config.ecdsaVerify [1] (sha ((cart 1 (sha [1, 2, 3, 4])).take 124)) (slice (cart 1 (sha [1, 2, 3, 4])) 124 132) = true) :
    (imageOk (imaged 1 true) 1 (imaged 1 true).mer.mer0 = true ∧ cartVersion (imaged 1 true).mer.mer1.cart ≤ cartVersion (imaged 1 true).mer.mer0.cart) ∧
    (imageOk (imaged 1) 1 (imaged 1).mer.mer1 = true ∧ imageOk (imaged 1) 1 (imaged 1).mer.mer0 = false) ∧
    romChoice (imaged 1) = some 1 := by
  have a := (test_wit_image 1 true (.inl rfl) h).2.2
  have b := (test_wit_image 1 false (.inl rfl) h).2.2
  have c : imageOk (imaged 1) 1 (imaged 1).mer.mer0 = false := by decide +kernel
  refine ⟨⟨a, Nat.le_refl _⟩, ⟨b, c⟩, ?_⟩
  unfold romChoice
  rw [c, show (imaged 1).mer.mer1 = ⟨cart 1 (sha [1, 2, 3, 4]), [1, 2, 3, 4], true⟩ from rfl, b]

/-- Each step of the boot: PWR_OK low, HBM not trained, exactly 1 s, 1 ms after the reference, ready. -/
theorem test_wit_boot_steps :
    State.reset.boot.pwrOk = false ∧ (live.boot.strapped = true ∧ live.boot.hbm = false) ∧
    (let s := booting { pwrOk := true } false; s.boot.pwrOk = true ∧ s.boot.reference + 1000000000 ≤ s.clock) ∧
    (let b := (booting { dirClear := true, settings := true, steward := true } true).boot; b.dirClear = true ∧ b.settings = true ∧ b.steward = true ∧ b.ready = false) ∧
    (∀ m ∈ [true, false], let s := booting { pwrOk := true, reference := 999000000 } m
      s.boot.pwrOk = true ∧ s.boot.strapped = false ∧ s.boot.warm = none ∧ s.boot.reference + 1000000 ≤ s.clock ∧ s.mer.running = m) ∧
    (let s := booting { strapped := true, hbm := true } true
     s.boot.strapped = true ∧ s.mer.running = true ∧ s.boot.hbm = true ∧ s.boot.steward = false ∧ s.boot.settings = false ∧
       imageOk s 2 (bankOf s (bootBank s s.boot.banksTried)) = false ∧ s.boot.banksTried = 0) ∧
    (let s := booting { strapped := true, hbm := true, banksTried := 1 } true
     s.boot.steward = false ∧ imageOk s 2 (bankOf s (bootBank s 1)) = false ∧ 1 ≤ s.boot.banksTried ∧ s.boot.settings = false) := by decide +kernel

/-- The preferred bank of a valid image. -/
theorem test_wit_boot_image
    (h : Config.ecdsaVerify [1] (sha ((cart 2 (sha [1, 2, 3, 4])).take 124)) (slice (cart 2 (sha [1, 2, 3, 4])) 124 132) = true) :
    let s := imaged 2
    s.mer.staged = some 1 ∧ s.mer.upd = none ∧ s.mer.staging = none ∧ imageOk s 2 (bankOf s 1) = true ∧ bootBank s 0 = 1 :=
  ⟨rfl, rfl, rfl, (test_wit_image 2 false (.inr rfl) h).2.2, by decide +kernel⟩

/-! Tiles and ports. -/

/-- Tile 11 in this TILE_ST. -/
def tile11 (st : Nat) (role : Nat := 0) : State := put live [(0x3E, 11, st * 2 ^ 20), (0x01, 88, role)]

/-- Frost of a LIVE tile, of one with a USP in use, and of a FROZEN one; at bound 0 and 65,535 µs. -/
theorem test_wit_frost :
    (∀ us ∈ [0, 65535], let s := atMac (tile11 0) 0xD1 [11 + us * 2 ^ 16]
      Begins s 12 0xD1 [rowBits [(3, 0)] ||| rowBits [(31, 16)]] 0 .glob true ∧ wfld (blockWord (engineOf s 12) (wordAt (engineOf s 12)) 0) 0 4 = 11 ∧
        tileSt s 11 = 0 ∧ frostConflict s 11 = false) ∧
    (let s := atMac (put (tile11 0 1) [(0x10, 5, 88 + 64 * 2 ^ 7 + 2 ^ 14), (0x11, 5 * 64 + 63, 2 ^ 24)]) 0xD1 [11]
     Begins s 12 0xD1 [rowBits [(3, 0)] ||| rowBits [(31, 16)]] 0 .glob true ∧ tileSt s 11 = 0 ∧ frostConflict s 11 = true) ∧
    (let s := atMac (tile11 2) 0xD1 [11]
     Begins s 12 0xD1 [rowBits [(3, 0)] ||| rowBits [(31, 16)]] 0 .glob true ∧ tileSt s 11 ≠ 0) := by decide +kernel

theorem test_wit_tile_macros :
    (∀ st ∈ [2, 0], let s := atMac (tile11 st) 0xD2 [11]
      Begins s 12 0xD2 [rowBits [(3, 0)] ||| 0] 0 .glob true ∧ wfld (blockWord (engineOf s 12) (wordAt (engineOf s 12)) 0) 0 4 = 11 ∧ tileSt s 11 = st) ∧
    (∀ on ∈ [0, 1], ∀ st ∈ [2, 3], let s := atMac (tile11 st) 0xD3 [11 + on * 2 ^ 8]
      let w := blockWord (engineOf s 12) (wordAt (engineOf s 12)) 0
      Begins s 12 0xD3 [rowBits [(3, 0)] ||| rowBits [(8, 8)]] 0 .glob true ∧ wfld w 0 4 = 11 ∧ wfld w 8 1 = on ∧ tileSt s 11 = st) ∧
    (let s := atMac (tile11 2) 0xD4 [11]
     Begins s 12 0xD4 [rowBits [(3, 0)] ||| 0] 0 .glob true ∧ wfld (blockWord (engineOf s 12) (wordAt (engineOf s 12)) 0) 0 4 = 11 ∧ tileSt s 11 = 2) := by decide +kernel

/-- A drained tile, one whose port still holds a request, one past its bound, one that powers up; a port in reset. -/
theorem test_wit_tile_events :
    (tileSt (tile11 1) 11 = 1 ∧ tileDrained (tile11 1) 11 = true ∧ (frostOf (tile11 1) 11).bound ≤ (tile11 1).clock) ∧
    (let s := { tile11 1 with txns := [(1, { ingress := 88 })] }; tileSt s 11 = 1 ∧ tileDrained s 11 = false) ∧
    tileSt (tile11 4) 11 = 4 ∧ smGet none ({ live with portResets := [(88, some 10000)] } : State).portResets 88 = some 10000 := by decide +kernel

/-! Time. -/

/-- A chip with a time parent; first, late and timely edges; 3 s without one; a pulse due and not; gauges; a frame due and not. -/
theorem test_wit_time :
    (let s := put live [(0x0C, 0, 8 * 2 ^ 8)]; tabFld s 0x0C 0 8 7 ≠ 127) ∧
    (tabFld live 0x0C 0 8 7 = 127 ∧ live.tsync.lastEdge = none) ∧
    (let s := { live with tsync := { lastEdge := some 0 }, clock := 3000000000 }
     tabFld s 0x0C 0 8 7 = 127 ∧ s.tsync.lastEdge = some 0 ∧ 0 + 3000000000 ≤ s.clock) ∧
    (∀ c ∈ [999000000, 1001000000], let s := { live with tsync := { lastEdge := some 0 }, clock := c }
      s.tsync.lastEdge = some 0 ∧ 0 + 999000000 ≤ s.clock ∧ s.clock ≤ 0 + 1001000000) ∧
    (∀ c ∈ [(1000000000, true), (999999999, false)], let s := { live with ts := c.1 }
      s.tsync.nextPps = 1000000000 ∧ decide (s.tsync.nextPps ≤ s.ts) = c.2) ∧
    (slotOf { live with slots := [(31, { st := 3 })] } 31).st = 3 ∧
    (∀ c ∈ [(10000000, true), (9999999, false)], let s := { live with ledNext := 10000000, clock := c.1 }; decide (s.ledNext ≤ s.clock) = c.2) := by decide +kernel

/-! The TAP. -/

/-- A device with this debug policy, open scope, access key and a lock region over HBM. -/
def tapped (policy scope : Nat) : State :=
  { merLive {} with
    sec := { State.reset.sec with policy := policy, keys := [(2, { pub := [1], purpose := 4, state := 1 })] }
    dbg := { scope := scope, expiry := 1000, nonce := some (natBytes 32 0), token := some [] } }

theorem test_wit_tap :
    debugPolicy (tapped 1 0) ≤ 1 ∧ debugPolicy (tapped 2 0) = 2 ∧ debugPolicy (tapped 3 0) = 3 ∧ (tapped 1 0).mer.running = true ∧
    (∀ b ∈ [8, 9, 10], scopeBit (tapped 0 (2 ^ b)) b = true ∧ scopeBit (tapped 0 (2 ^ 11 - 1 - 2 ^ b)) b = false) ∧
    (List.replicate 196 (0 : Byte)).length = 196 ∧ (tapped 0 1).dbg.scope ≠ 0 ∧ (tapped 0 1).dbg.expiry ≤ (tapped 0 1).clock ∧
    live.clock < ({ tapped 0 1 with dbg := { scope := 1, expiry := 1001 } } : State).dbg.expiry := by decide +kernel

/-- A token that fails: none of its fields set, so its magic is wrong; at policy 2 and at policy 1 with a class. -/
theorem test_wit_unlock_refused : ∀ p ∈ [0, 1, 2], (tapped p 0).dbg.token = some [] ∧ (tapped p 0).mer.running = true ∧ unlockFails (tapped p 0) [] ≠ 0 := by
  decide +kernel

/-- An unlock token of scope 0x7FF for 86,400 s, of key 2, nonce and boot count 0, for this device, with a signature of zeros. -/
def unlock (scope life : Nat) : List Byte :=
  natBytes 4 0x54445753 ++ natBytes 2 1 ++ natBytes 1 2 ++ natBytes 1 0 ++ natBytes 8 Config.serial ++ natBytes 32 0 ++ natBytes 4 0 ++ natBytes 4 scope ++ natBytes 4 life ++
    natBytes 4 0 ++ natBytes 132 0

/-- One that its key accepts passes at policy 0, and at policy 1 without a class. -/
theorem test_wit_unlock (c : Nat × Nat) (hc : c ∈ [(0, 0x7FF), (1, 0x700)])
    (h : Config.ecdsaVerify [1] (sha ((unlock c.2 86400).take 64)) (slice (unlock c.2 86400) 64 132) = true) :
    unlockFails (tapped c.1 0) (unlock c.2 86400) = 0 := by
  have hs : c.2 < 256 ^ 4 := by simp only [List.mem_cons, List.not_mem_nil, or_false] at hc; rcases hc with rfl | rfl <;> decide
  have h1 : leAt (unlock c.2 86400) 0 4 = 0x54445753 := leAt_of _ 0 4 0x54445753 rfl (by decide)
  have h2 : leAt (unlock c.2 86400) 4 2 = 1 := leAt_of _ 4 2 1 rfl (by decide)
  have h3 : leAt (unlock c.2 86400) 6 1 = 2 := leAt_of _ 6 1 2 rfl (by decide)
  have h4 : leAt (unlock c.2 86400) 7 1 = 0 := leAt_of _ 7 1 0 rfl (by decide)
  have h5 : leAt (unlock c.2 86400) 8 8 = Config.serial := leAt_of _ 8 8 _ rfl serial_lt
  have h6 : slice (unlock c.2 86400) 16 32 = natBytes 32 0 := rfl
  have h7 : leAt (unlock c.2 86400) 48 4 = 0 := leAt_of _ 48 4 0 rfl (by decide)
  have h8 : leAt (unlock c.2 86400) 52 4 = c.2 := leAt_of _ 52 4 _ rfl hs
  have h9 : leAt (unlock c.2 86400) 56 4 = 86400 := leAt_of _ 56 4 86400 rfl (by decide)
  have h10 : leAt (unlock c.2 86400) 60 4 = 0 := leAt_of _ 60 4 0 rfl (by decide)
  have hk : keyAt (tapped c.1 0) 2 = { pub := [1], purpose := 4, state := 1 } := rfl
  have n1 : (tapped c.1 0).dbg.nonce = some (natBytes 32 0) := rfl
  have n2 : (tapped c.1 0).sec.boot = 0 := rfl
  simp only [unlockFails, h1, h2, h3, h4, h5, h6, h7, h8, h9, h10, hk, h, n1, n2]
  simp only [List.mem_cons, List.not_mem_nil, or_false] at hc
  rcases hc with rfl | rfl <;> simp <;> decide

/-- Accesses that pass, that a lock region over all of HBM space 1 denies, that a fence region of master 152 denies; a form that is wrong. -/
theorem test_wit_access :
    let q : Word := 64
    let a : Access := ⟨1, 64, 64, true, false⟩
    scopeBit (tapped 0 0x100) 8 = true ∧ accessOk 1 16 q = true ∧ accessOk 1 1 q = false ∧
    (judgeAccess (tapped 0 0x100) 152 a).1 = 0 ∧ (judgeAccess (tapped 0 0x100) 152 ⟨1, 64, 64, false, true⟩).1 = 0 ∧
    (judgeAccess { tapped 0 0x100 with locks := [(15, 1 + 2 ^ 131 + 2 * 2 ^ 12)] } 152 a).1 = 9 ∧
    (judgeAccess (put (tapped 0 0x100) [(0x39, 152 * 64 + 7, 1 + 2 * 2 ^ 12)]) 152 a).1 = 1 := by decide +kernel

/-! Trorno. -/

/-- The ISL at port 8 in this TSTATE, with more of its session status, its lanes' boundaries stored or not, CDR lock held or not. -/
def isl (st : Nat) (x : Isl) (more : Nat := 0) (good : Bool := true) (cdr : Bool := true) : State :=
  let ls := portLanes live 8
  { live with
    tab := (tkey 0x01 8, ⟨3 + 2 ^ 14, 0⟩) :: ls.map (fun l => (tkey 0x03 l, ⟨if good then 2 ^ 51 else 0, 0⟩)) ++
      ls.map (fun l => (tkey 0x04 l, ⟨if cdr then 4 else 0, 0⟩)) ++ [(tkey 0x05 8, ⟨BitVec.ofNat 256 (st * 2 ^ 28 + more), 0⟩)]
    isls := smSet {} [] 8 x, clock := 3000000000 }

theorem test_wit_isl_training :
    (∀ st ∈ [1, 2, 4, 7], portExists (isl st {}) 8 = true ∧ roleOf (isl st {}) 8 = 3 ∧ tstate (isl st {}) 8 = st ∧ islOpen (isl st {}) 8 = false) ∧
    (∀ st ∈ [5, 6], islOpen (isl st {}) 8 = true ∧ tstate (isl st {}) 8 ≠ 2 ∧ tstate (isl st {}) 8 ≠ 4 ∧ 3 ≤ tstate (isl st {}) 8) ∧
    (cdrAll (isl 2 {}) 8 = true ∧ (islOf (isl 2 {}) 8).runAt = none ∧ boundsGood (isl 2 {}) 8 = true) ∧
    (∀ c ∈ [(0x0000, true), (0x0001, false)], cdrAll (setLanesBit (isl 5 {}) ((portLanes (isl 5 {}) 8).filter fun l => (BitVec.ofNat 16 c.1).getLsbD (l - firstLane 8)) 2 false) 8 = c.2 ∧
      islOpen (setLanesBit (isl 5 {}) ((portLanes (isl 5 {}) 8).filter fun l => (BitVec.ofNat 16 c.1).getLsbD (l - firstLane 8)) 2 false) 8 = true) := by
  decide +kernel

/-- Words that are the marker on every lane, and on all lanes but one; codewords filled with it, and not. -/
theorem test_wit_isl_marks :
    (portLanes (isl 2 {}) 8).length = 4 ∧
    (∀ c ∈ [(List.replicate 4 markerSymbols, true), (List.replicate 3 markerSymbols, false)], (unmarked (isl 2 {}) 8 c.1).isEmpty = c.2) ∧
    (∀ st ∈ [5, 7], ∀ c ∈ [((List.replicate 8 markerSymbols).flatten, true), (List.replicate 512 Level.m3, false)],
      ((lanesIn (isl st {}) 8 (List.replicate 4 c.1)).all isMarkerRun) = c.2 ∧ islOpen (setIsl (isl st {}) 8 {}) 8 = decide (st = 5)) := by decide +kernel

theorem test_wit_isl_bounds : ∀ good ∈ [true, false], boundsGood (setLanesBit (isl 2 {} 0 good false) (portLanes (isl 2 {} 0 good false) 8) 2 true) 8 = good := by
  decide +kernel

/-- The timers of training at their instants. -/
theorem test_wit_isl_timers :
    (∀ ps ∈ [[], [(0 : Byte)]], let s := isl 2 { runAt := some 3000000000, peerParam := ps }
      let x := islOf s 8
      x.runAt = some 3000000000 ∧ tstate s 8 = 2 ∧ 3000000000 ≤ s.clock ∧
        (islOf (sendParam (setTstate (setIsl s 8 { x with runAt := none, longHold := false, firstParam := none }) 8 4) 8) 8).peerParam = ps) ∧
    (let s := isl 3 { alignAt := some 3000000000 }; (islOf s 8).alignAt = some 3000000000 ∧ tstate s 8 = 3 ∧ 3000000000 ≤ s.clock) ∧
    (islOf (isl 3 { alignDone := some (7, 64) }) 8).alignDone = some (7, 64) ∧
    (∀ c ∈ [(2999990000, true), (2999990001, false)], let s := isl 4 { lastParam := c.1 }
      tstate s 8 = 4 ∧ (islOf s 8).peerParam = [] ∧ decide ((islOf s 8).lastParam + 10000 ≤ s.clock) = c.2) ∧
    (let s := isl 4 { firstParam := some 2999980000 }
     (islOf s 8).firstParam = some 2999980000 ∧ tstate s 8 = 4 ∧ (islOf s 8).peerParam = [] ∧ 2999980000 + 20000 ≤ s.clock) ∧
    (∀ st ∈ [2, 4], let s := isl st { deadline := some 3000000000 }
      (islOf s 8).deadline = some 3000000000 ∧ 2 ≤ tstate s 8 ∧ tstate s 8 ≤ 4 ∧ 3000000000 ≤ s.clock ∧ Canonical s ∧ smWf (fun _ => ({} : Isl)) s.isls = true) ∧
    (let s := isl 2 { deadline := some 3000000001 }; (islOf s 8).deadline = some 3000000001 ∧ s.clock < 3000000001) := by decide +kernel

/-- A folio of this type, sequence and contents, in lean mode, without a CRC. -/
def folio (typ seq : Nat) (body : List Byte) : List Byte := folioBytes ⟨typ, seq, 0xFFF, [], 0, true, false⟩ body

theorem crcBit_lt (r : Nat) (b : Bool) : crcBit r b < 2 ^ 64 := by
  simp only [crcBit]
  split
  · exact Nat.xor_lt_two_pow (Nat.mod_lt _ (by decide)) (by decide)
  · exact Nat.mod_lt _ (by decide)

theorem crcByte_lt (r : Nat) (b : Byte) : crcByte r b < 2 ^ 64 := crcBit_lt _ _

theorem crc64_lt (bs : List Byte) : crc64 bs < 2 ^ 64 := by
  have go : ∀ (bs : List Byte) r, r < 2 ^ 64 → bs.foldl crcByte r < 2 ^ 64 := by
    intro bs
    induction bs with
    | nil => intro r h; exact h
    | cons b bs ih => intro r _; exact ih _ (crcByte_lt r b)
  exact go bs _ (by decide)

/-- The folio that a guarded sender builds passes its CRC. -/
theorem crcGood_folioBytes (h : Hdr) (body : List Byte) (hm : h.mode = false) : crcGood (folioBytes h body) = true := by
  have go : ∀ bs : List Byte, bs.length = 120 → crcGood (bs ++ natBytes 8 (crc64 bs)) = true := by
    intro bs hb
    have e : slice (bs ++ natBytes 8 (crc64 bs)) 0 120 = bs := by simp [slice, ← hb]
    have d : slice (bs ++ natBytes 8 (crc64 bs)) 120 8 = natBytes 8 (crc64 bs) := by
      have := slice_here bs (natBytes 8 (crc64 bs)) [] 120 8 hb (natBytes_length 8 _)
      simpa using this
    simp only [crcGood, leAt, e, d, bytesNat_natBytes 8 _ (crc64_lt bs), beq_self_eq_true]
  have hl : ∀ v, (natBytes 8 v ++ slice body 0 112).length = 120 := by
    intro v; simp only [natBytes, slice, List.length_append, List.length_map, List.length_range, List.length_take, List.length_drop, List.length_replicate]; omega
  simp only [folioBytes, hm]
  exact go _ (hl _)

/-- A PARAM folio of this format, for a port of negotiated width and rate 0, with the least CAPs. -/
def param (fmt : Nat) : List Byte :=
  folioBytes ⟨2, 0, 0xFFF, [], 0, false, false⟩ (natBytes 2 fmt ++ natBytes 2 0 ++ natBytes 32 0 ++ (List.range 6).flatMap fun v => natBytes 2 (leastCap v))

theorem test_wit_param_crc (fmt : Nat) : crcGood (param fmt) = true := crcGood_folioBytes _ _ rfl

theorem test_wit_param :
    (∀ c ∈ [(2, some 8), (1, none)], ∀ first ∈ [none, some 0], let s := isl 4 { firstParam := first, rxBuf := param c.1 }
      let u := setIsl s 8 { islOf s 8 with rxBuf := [] }
      tstate s 8 = 4 ∧ (hdrOf (param c.1)).typ = 2 ∧ (hdrOf (param c.1)).mode = false ∧ paramFault u 8 (param c.1) = c.2 ∧
        leAt (param c.1) 12 1 ≠ 1 ∧ (islOf u 8).partner = none ∧ (islOf (takeParam u 8 (param c.1)) 8).firstParam = first) := by
  decide +kernel

/-- The folio that a codeword position left is taken next. -/
theorem takeFolio_left (s : State) (p : PortId) (f : List Byte) (hf : f.length = 128) (h : (islOf s p).rxBuf = f) :
    takeFolio s p [] = some (setIsl s p { islOf s p with rxBuf := [] }, f, (islOf s p).rxFec, (islOf s p).rxPar) := by
  have hd : f.drop 128 = [] := List.drop_eq_nil_of_le (by omega)
  have ht : f.take 128 = f := List.take_of_length_le (by omega)
  simp [takeFolio, h, hf, hd, ht]

theorem test_wit_param_taken : ∀ fmt ∈ [1, 2], (param fmt).length = 128 ∧
    (islOf (isl 4 { rxBuf := param fmt }) 8).rxBuf.length = 128 ∧ (islOf (isl 4 { rxBuf := param fmt }) 8).rxFec = 0 := by decide +kernel

/-- What a folio of this type meets in an open session, taken after what this verdict of its codewords leaves. -/
def meets (x : Isl) (typ seq : Nat) (body : List Byte) (post : Isl → Hdr → Bool) : Bool :=
  let s := isl 5 { x with rxBuf := folio typ seq body }
  match takeFolio s 8 [] with
  | none => false
  | some (u, f, fec, par) =>
    let c := checkFolio u 8 f fec par
    receiving s 8 && match c.2 with | some h => h.typ == typ && post (islOf c.1 8) h | none => false

/-- The symbols of the first codeword position of a two-lane port that sends this folio twice, with one byte of lane 0 changed. -/
def position (f : List Byte) (x : Byte) : List (List Level) :=
  match (striped 2 (f ++ f)).map laneCodeword with
  | [a, b] => [symbolsOf true (bitsOf (a.mapIdx fun i v => if i = 7 then v ^^^ x else v)), symbolsOf true (bitsOf b)]
  | _ => []

set_option maxRecDepth 100000 in
/-- A codeword position, with a byte in error, gives the folio that was striped into it and counts the codeword corrected. -/
theorem test_wit_codewords : let x : Byte := 0x5A
    let s := setLive (setLive (isl 5 {}) 0x02 8 10 5 2) 0x01 8 20 4 2
    (match takeFolio s 8 (position (folio 1 0 []) x) with
     | some (u, f, fec, par) => f == folio 1 0 [] && fec == 1 && !par && (islOf u 8).rxBuf.length == 112
     | none => false) = true := by decide +kernel

/-- DATA in order, already accepted, out of order, and while a NAK is out; one that FEC cannot correct. -/
theorem test_wit_data_folio :
    receiving (isl 5 {}) 8 = true ∧ takeFolio (isl 5 {}) 8 [] = none ∧ receiving (isl 2 {}) 8 = false ∧ receiving (isl 7 {}) 8 = false ∧
    (takeFolio (isl 2 { rxBuf := folio 1 0 [] }) 8 []).isSome = true ∧ (checkFolio (isl 5 {}) 8 (folio 1 0 []) 2 false).2 = none ∧
    meets {} 1 0 [] (fun y h => y.nakCause == 0 && h.seq == y.expect % 4096 && !(seqLe y.expect y.accept)) = true ∧
    meets { accept := 0 } 1 0 [] (fun y h => y.nakCause == 0 && h.seq == y.expect % 4096 && seqLe y.expect y.accept) = true ∧
    meets {} 1 1 [] (fun y h => y.nakCause == 0 && h.seq != y.expect % 4096) = true ∧
    meets { nakCause := 1 } 1 0 [] (fun y _ => y.nakCause != 0) = true := by decide +kernel

/-- NULL, NAK of the whole store and beyond it, RPLY of ACCEPT + 1 and above it, IDLE. -/
theorem test_wit_other_folios :
    meets {} 0 0 [] (fun y _ => y.nakCause == 0) = true ∧ meets { nakCause := 1 } 0 0 [] (fun y _ => y.nakCause != 0) = true ∧
    meets { acked := 0, store := [⟨0, [], false, []⟩] } 3 0 (natBytes 4 1) (fun y _ => y.nakCause == 0 &&
      decide (seqDist y.acked (leAt (folio 3 0 (natBytes 4 1)) 8 4) ≤ y.store.length)) = true ∧
    meets { acked := 0, store := [⟨0, [], false, []⟩] } 3 0 (natBytes 4 2) (fun y _ => y.nakCause == 0 &&
      decide (y.store.length < seqDist y.acked (leAt (folio 3 0 (natBytes 4 2)) 8 4))) = true ∧
    meets {} 4 0 (natBytes 4 0) (fun y _ => seqLe (leAt (folio 4 0 (natBytes 4 0)) 8 4) (seqAdd y.accept 1)) = true ∧
    meets {} 4 0 (natBytes 4 1) (fun y _ => !(seqLe (leAt (folio 4 0 (natBytes 4 1)) 8 4) (seqAdd y.accept 1))) = true ∧
    meets {} 5 0 [] (fun y _ => y.nakCause == 0) = true ∧
    meets { nakCause := 1 } 3 0 (natBytes 4 5) (fun y _ => y.nakCause != 0) = true ∧ meets { nakCause := 1 } 5 0 [] (fun y _ => y.nakCause != 0) = true ∧ receiving (isl 5 { rxIdle := true }) 8 = false := by decide +kernel

/-- Timers of an open session at their instants. -/
theorem test_wit_session_timers :
    roleOf (isl 5 {}) 8 = 3 ∧ islOpen (isl 5 {}) 8 = true ∧
    (let s := isl 5 { nakCause := 1, nakAt := 3000000000 }; (islOf s 8).nakCause ≠ 0 ∧ (islOf s 8).nakAt ≤ s.clock ∧ (islOf s 8).txIdle = none) ∧
    (∀ k ∈ [0, 1], let s := isl 5 { store := [⟨0, [], false, []⟩], ackAt := 2999992000 } (k * 2 ^ 27)
      (islOf s 8).store ≠ [] ∧ (islOf s 8).ackAt + 8000 ≤ s.clock ∧ sessFld s 8 27 1 = k) ∧
    (let s := isl 5 { openAt := some 2000000000 }
     (islOf s 8).openAt = some 2000000000 ∧ (islOf s 8).qualified = false ∧ 1000000000 ≤ (islOf s 8).goodNs + (s.clock - 2000000000)) ∧
    (let s := isl 5 { periodAt := 3000000000 } (2 ^ 23); (islOf s 8).periodAt ≤ s.clock ∧ sessFld s 8 23 1 = 1) ∧
    (let s := isl 5 { periodAt := 3000000001 }; s.clock < (islOf s 8).periodAt) := by decide +kernel

/-- Electrical idle: entered after exactly 2 µs, left with traffic, by a burst, and failed; a time mark due and not. -/
theorem test_wit_idle_time :
    (let s := isl 5 { quiet := some 2999998000 }
     (islOf s 8).quiet = some 2999998000 ∧ tabFld s 0x01 8 14 1 = 1 ∧ (islOf s 8).txIdle = none ∧ 2999998000 + 2000 ≤ s.clock ∧ nothingDue s 8 = true) ∧
    (∀ t ∈ [2900000000, 2899999999], let s := isl 6 { txIdle := some t, rply := some 0 }; (islOf s 8).txIdle = some t ∧ nothingDue s 8 = false ∧ islOpen s 8 = true) ∧
    (islOf (isl 6 { rxIdle := true }) 8).rxIdle = true ∧
    (let s := isl 5 { rxExit := some 2999999000 }; (islOf s 8).rxExit = some 2999999000 ∧ 2999999000 + 1000 ≤ s.clock) ∧
    (let s := setTab (isl 5 { markAt := 3000000000 }) 0x0C 0 (8 * 2 ^ 8) 0; tabFld s 0x0C 0 8 7 = 8 ∧ (islOf s 8).markAt ≤ s.clock) ∧
    (let s := isl 5 { markAt := 3000000001 }; s.clock < (islOf s 8).markAt) := by decide +kernel

/-- A TIME_MARK, and a TIME_ECHO of offsets 5 and -5 at the opening and later. -/
theorem test_wit_time_messages :
    (takeFirst (fun t : TimeMsg => t.op == 0x60) (islOf (isl 5 { timeRx := [⟨0x60, 1, 2, 0, 0, 9, 0⟩] }) 8).timeRx = some (⟨0x60, 1, 2, 0, 0, 9, 0⟩, [])) ∧
    (∀ a ∈ [(10 : Nat), 0], ∀ due ∈ [true, false], let s := setTab (isl 5 { timeRx := [⟨0x61, 1, 2, a, 100, 105, 0⟩], stepDue := due, t1 := 0 }) 0x0C 0 (8 * 2 ^ 8) 0
      takeFirst (fun t : TimeMsg => t.op == 0x61) (islOf s 8).timeRx = some (⟨0x61, 1, 2, a, 100, 105, 0⟩, []) ∧ tabFld s 0x0C 0 8 7 = 8 ∧ (islOf s 8).stepDue = due ∧
        ((0 : Int) < (((a : Int) - (islOf s 8).t1) - (((105 : Nat) : Int) - ((100 : Nat) : Int))) / 2 ↔ a = 10)) ∧
    tabFld (isl 5 {}) 0x0C 0 8 7 ≠ 8 := by decide +kernel

/-- What FOLIO_TRANSMIT sends: RPLY, a replayed folio, NULL with the store at its limit, NULL with nothing to send, a transaction. -/
theorem test_wit_transmit :
    (∀ x ∈ [({ rply := some 0 } : Isl), { replay := some 0, store := [⟨0, [], false, []⟩] }, { store := List.replicate 256 ⟨0, [], false, []⟩ }, {}],
      fabricRuns (isl 5 x) = true ∧ (islOf (isl 5 x) 8).txIdle = none ∧ (islOf (isl 5 x) 8).rply = x.rply ∧ (islOf (isl 5 x) 8).replay = x.replay ∧
        (islOf (isl 5 x) 8).store = x.store) ∧
    storeLimit (isl 5 {}) = 256 ∧ (packFolio (isl 5 {}) 8).2 = none ∧
    (let s := { isl 5 { credit := [(0, 1)] } with txns := [(1, { cmd := 0x01, dst := portEp 8, phase := 4 })] }
     (packFolio s 8).2 = some { slots := [(true, unitBytes (headOf { cmd := 0x01, dst := portEp 8, phase := 4 }))], heads := [(0, 1)] } ∧
       (islOf s 8).store.length < storeLimit s ∧ (islOf s 8).rply = none ∧ (islOf s 8).replay = none) := by decide +kernel

/-! Well-formedness: for each check an ill-formed command, refused, beside a well-formed one. -/

/-- A message of this length with this many bytes. -/
def msg (len : BitVec 13) (n : Nat) : Msg :=
  { kind := .mgmt, addr := 0, len := len, tag := 0, spid := 0, dpid := 0, ld := 0, io := .hdm, poison := false, devload := 0, units := 1, data := List.replicate n 0 }

/-- n zero bytes. -/
def zeros (n : Nat) : List Byte := List.replicate n 0

theorem test_wf_messages :
    Instr.wellFormed (.headerLookup 0 (msg 4096 0)) = true ∧ Instr.wellFormed (.headerLookup 0 (msg 4097 0)) = false ∧
    Instr.wellFormed (.headerLookup 0 (msg 0 4097)) = false ∧ Instr.wellFormed (.memInv 0 true (msg 4097 0)) = false ∧
    Instr.wellFormed (.macEpochCheck 0 true [msg 0 0, msg 4097 0]) = false ∧ Instr.wellFormed (.cutThroughUnit 0 false 0 (zeros 65) false false) = false ∧
    Instr.wellFormed (.proxySnoopAnswer 0 0 0 (some (zeros 65))) = false ∧ Instr.wellFormed (.dataFwd 0 0 0 (zeros 65)) = false := by decide +kernel

/-- What n lanes receive, k symbols on each. -/
def heard (n k : Nat) : List (List Level) := List.replicate n (List.replicate k .p1)

theorem test_wf_folios : ∀ c ∈ [(heard 1 511, false), (heard 17 512, false), (heard 16 512, true), ([], true)],
    ∀ i ∈ [Instr.paramFolio 0 c.1, .dataFolio 0 c.1, .nullFolio 0 c.1, .nakFolio 0 c.1, .rplyFolio 0 c.1, .idleFolio 0 c.1, .markerRunSeen 0 c.1],
      i.wellFormed = c.2 := by decide +kernel

theorem test_wf_lanes :
    (∀ c ∈ [(heard 1 63, false), (heard 17 64, false), (heard 16 64, true)], Instr.wellFormed (.markerCheck 0 c.1) = c.2) ∧
    (∀ c ∈ [(heard 1 127, false), (heard 17 128, false), (heard 16 128, true)], Instr.wellFormed (.laneAlign 0 c.1) = c.2) ∧
    (∀ n ∈ [127, 128, 129], Instr.wellFormed (.laneSlip 0 (List.replicate n .m1)) = decide (n = 128)) ∧
    (∀ n ∈ [512, 513], Instr.wellFormed (.chkLock 0 (List.replicate n .m1)) = decide (n = 512) ∧
      Instr.wellFormed (.lockLoss 0 (List.replicate n .m1)) = decide (n = 512)) := by decide +kernel

theorem test_wf_management : ∀ i ∈ [Instr.chart .smbus 0 [] [], .chart .smbus 0 (List.replicate 8 0) (List.replicate 8193 0),
    .stewardCoreAccess 0 0 (some (zeros 65)) 0 [], .fwBegin .smbus 0 (zeros 255), .fwData .smbus 0 0 [], .fwData .smbus 0 0 (zeros 4097),
    .transfer .smbus 0 (zeros 187), .release .smbus 0 (zeros 8193), .keySet .smbus 0 [], .anchorSet .smbus 0 [], .policy .smbus 0 [], .lockSet .smbus 0 [],
    .svnRaise .smbus 0 [], .fieldLock .smbus 0 [], .steward .smbus 0 [], .steward .smbus 0 (zeros 8193), .spdmChallenge (.doe 0) (zeros 31),
    .tapToken (zeros 195), .accessRead 1 33 0 0 [], .accessRead 1 16 0 0 (zeros 129), .accessWrite 1 33 0 []], i.wellFormed = false := by decide +kernel

theorem test_wf_fits : ∀ i ∈ [Instr.cutThroughUnit 0 false 0 (zeros 64) false false, .chart .smbus 0 (List.replicate 8 0) [], .fwBegin .smbus 0 (zeros 256), .fwData .smbus 0 0 (zeros 4096),
    .transfer .smbus 0 (zeros 188), .steward .smbus 0 (zeros 8192), .spdmChallenge (.doe 0) (zeros 32), .tapToken (zeros 196), .accessRead 1 32 0 0 (zeros 128), .fabricReady],
    i.wellFormed = true := by decide +kernel

/-- No word spells a command. -/
theorem test_decode_none : decodeTableWord 8 0 = none ∧ (live.withFetchWord 8 0).pending = live.pending := ⟨rfl, rfl⟩

end Sys2Proof.Tests
end

section
/-! SUPPORT. The step: the front command or an idle nanosecond, and that no command's meaning ends in a fault or a refusal (R14). -/
namespace Sys2Proof.Machine

/-! How a step chooses. -/

theorem step_of_pending_nil {s : State} (h : s.pending = []) : step s = .next (idleTick s) := by
  simp only [step, h]

theorem step_of_pending_cons {s : State} {c : Instr} {q : List Instr} (h : s.pending = c :: q) :
    step s = exec c { s with pending := q } := by
  simp only [step, h]

/-! Meanings as decision trees: tests and lookups whose leaves are next states. -/

/-- The outcome is a next state, neither a fault nor a refusal. -/
def AnswersNext (r : Res) : Prop := ∃ t, r = .next t

namespace AnswersNext

theorem next (t : State) : AnswersNext (.next t) := ⟨t, rfl⟩

theorem ite {c : Prop} [Decidable c] {a b : Res} (ha : AnswersNext a) (hb : AnswersNext b) : AnswersNext (if c then a else b) := by
  split
  · exact ha
  · exact hb

theorem option {α : Type} {o : Option α} {a : Res} {f : α → Res} (ha : AnswersNext a) (hf : ∀ x, AnswersNext (f x)) :
    AnswersNext (o.casesOn a f) := by
  cases o with
  | none => exact ha
  | some x => exact hf x

/-- A test whose first branch is a leaf. -/
theorem test {c : Prop} [Decidable c] {t : State} {r : Res} (hr : AnswersNext r) : AnswersNext (if c then .next t else r) :=
  .ite (.next t) hr

/-- A lookup that answers a next state where nothing is found. -/
theorem lookup {α : Type} {o : Option α} {t : State} {f : α → Res} (hf : ∀ x, AnswersNext (f x)) :
    AnswersNext (o.casesOn (.next t) f) :=
  .option (.next t) hf

/-- A look at the front of a list that answers a next state where the list is empty. -/
theorem front {α : Type} {l : List α} {t : State} {f : α → List α → Res} (hf : ∀ x xs, AnswersNext (f x xs)) :
    AnswersNext (l.casesOn (.next t) f) := by
  cases l with
  | nil => exact .next t
  | cons x xs => exact hf x xs

end AnswersNext

/-! The meanings that branch on something else than a test, an optional value or a list. -/
theorem execWaitExpiry_answersNext (e : EngineId) (s : State) : AnswersNext (execWaitExpiry e s) := by
  unfold execWaitExpiry
  dsimp only
  split
  · exact .test (.next _)
  · exact .next _

theorem execDrainTimeout_answersNext (e : EngineId) (s : State) : AnswersNext (execDrainTimeout e s) := by
  unfold execDrainTimeout
  dsimp only
  split
  · exact .test (.next _)
  · exact .next _

theorem execEngineResume_answersNext (s : State) : AnswersNext (execEngineResume s) := by
  unfold execEngineResume
  split <;> exact .next _

theorem execRegisterWrite_answersNext (t : RegTarget) (v : BitVec 64) (s : State) : AnswersNext (execRegisterWrite t v s) := by
  cases t <;> exact .next _

theorem execStewardCoreAccess_answersNext (c : CoreId) (addr : BitVec 64) (store : Option (List Byte)) (len : Fin 65) (ans : List Byte)
    (s : State) : AnswersNext (execStewardCoreAccess c addr store len ans s) := by
  unfold execStewardCoreAccess
  cases store
  all_goals
    dsimp only
    split
    · exact .next _
    · exact .test (.next _)
    · exact .test (.next _)
    · exact .next _

theorem execSurveyPerstRelease_answersNext (p : PortId) (s : State) : AnswersNext (execSurveyPerstRelease p s) := by
  unfold execSurveyPerstRelease
  split
  · exact .test (.next _)
  · exact .next _

theorem execErr_answersNext (g : SliceId) (d : DieRead) (s : State) : AnswersNext (execErr g d s) := by
  unfold execErr
  split
  · exact .next _
  · dsimp only
    split
    · split
      · split <;> exact .next _
      · exact .next _
    · exact .next _

theorem execDone_answersNext (g : SliceId) (d : DieRead) (s : State) : AnswersNext (execDone g d s) := by
  unfold execDone
  split
  · exact .next _
  · dsimp only
    split <;> exact .next _

theorem execLowPowerEntry_answersNext (p : PortId) (kind : Fin 3) (lanes : Fin 4) (s : State) :
    AnswersNext (execLowPowerEntry p kind lanes s) := by
  unfold execLowPowerEntry
  refine .test ?_
  split
  · exact .test (.next _)
  · exact .next _
  · exact .test (.next _)

theorem execHostReadResponse_answersNext (e : EngineId) (outcome : Fin 3) (data : List Word) (s : State) :
    AnswersNext (execHostReadResponse e outcome data s) := by
  unfold execHostReadResponse
  refine .test (.test (.test ?_))
  split
  case h_6 => exact .test (.next _)
  all_goals exact .next _

theorem execSurveyStepTimeout_answersNext (p : PortId) (s : State) : AnswersNext (execSurveyStepTimeout p s) := by
  unfold execSurveyStepTimeout
  split
  · exact .next _
  · dsimp only
    split
    · split <;> exact .next _
    all_goals exact .next _

theorem execSurveyStepComplete_answersNext (p : PortId) (x : StepFound) (s : State) : AnswersNext (execSurveyStepComplete p x s) := by
  unfold execSurveyStepComplete
  split
  · exact .next _
  · refine .test ?_
    split
    case h_3 => split <;> exact .next _
    case h_6 => split <;> exact .next _
    all_goals exact .next _

/-! Every command. -/

/- A `match` of a meaning unfolds to the case analysis that `option`, `lookup` and `front` speak of. -/
set_option smartUnfolding false in
/-- No command ends in a fault or a refusal. Each group of cases shares one decision tree; the commands left at the end answer a next state
without a branch outside it. -/
theorem exec_answersNext (c : Instr) (s : State) : AnswersNext (exec c s) := by
  cases c
  case starve | proxyErrIssue | headerLookup | loadSevere | hotResetReceived | pmeTurnOff | viral | memInv | patrolRead |
      directoryClearDone | offerExpired | releaseOverdue | deferredRegistration | decoderUncommit | refLost | refReturn | cdrLockLost |
      paramResend | nakResend | ackTimeout | creditPeriod | idleExitRequest | burstReceived | timeMarkSend | tsPps | chartTimeout |
      slotOnTimeout | frostDrainComplete | frostBoundExpiry | powerUpComplete | eqHead | vfEnableSet | vfEnableClear | pf0Flr | eqEnable |
      interruptModerationTimeout | bwWindowEnd | dumpBlockComplete | ledFrame | presence | surveyStart | attentionDetachStart |
      partnerLost | rampDone | limitTimerExpiry | limitCountReset | severeOvercurrent | enLowOff | enLowLatchClear | enHigh | handback |
      slotSettingsApply | thermtrip | coldReset | pwrOkRise | hbmTrained | settingsApplied | fabricReady | holdBootTimeout | warmReset |
      meridianWatchdog | samplePreload | extest | tapChallenge | tapToken | core | scopeLifetimeEnd | returnToL0 =>
    exact .test (.next _)
  case relReportTimer | wakeHoldEnd | alignRerun | paramTimeout | leanQualified | idleEntry | idleExitFailure | reopenDeadline |
      tsSyncLoss | descriptorComplete | enginePause | eventRecordWrite | rateWindowEnd | timerExpired | timerPulseEnd | detachTimeout |
      handoverConfirmed | warmResetEnd | ready | handoverTimeout | fwStagingTimeout | spdmHeartbeatTimeout | lockLoss | vfFrostTimeout =>
    exact .lookup fun _ => .test (.next _)
  case rel | skip | close | lossResponseIssue | snpFwd | lossWalk | identifyMemoryDevice | getDynamicCapacityConfiguration |
      getDynamicCapacityExtentList | addDynamicCapacityResponse | releaseDynamicCapacity | mailboxUnsupported | alignResult | timeMark |
      cmdTail | cplHead | ringEnable | ringDisable | almanacPeriodicWrite | portResetEnd =>
    exact .lookup fun _ => .next _
  case portLost | macEpochCheck | decoderCommit | surveyDetach | gaugeSample | reverse | voutLow | strapLatch | stewardImageVerified |
      mctpDiscard | slotLimit =>
    exact .test (.test (.next _))
  case markerRunSeen | markerCheck | counterTick | attention | slotPg | recoveryEntry | folioTransmit | ideKeyManagement =>
    exact .test (.test (.test (.next _)))
  case snpRsp | conflictListActivate | proxySnoopAnswer | backingReadReturn | walkDone | meridianRestart =>
    exact .lookup fun _ => .lookup fun _ => .next _
  case egressSelect | moverTake | maskRomCheck =>
    exact .test (.lookup fun _ => .next _)
  case traceRecordWrite | measurementReport =>
    exact .front fun _ _ => .test (.next _)
  case timeEcho | unlockTokenVerdict =>
    exact .lookup fun _ => .test (.test (.next _))
  case tsSyncEdge | presenceAbsent =>
    exact .test (.lookup fun _ => .test (.next _))
  case cdrLockAll | lowPowerExit =>
    exact .test (.test (.test (.test (.next _))))
  case linkUp =>
    exact .test (.test (.lookup fun _ => .next _))
  case wb =>
    exact .lookup fun _ => .option (.lookup fun _ => .next _) fun _ => .next _
  case setConflictRelease =>
    exact .option (.lookup fun _ => .next _) fun _ => .lookup fun _ => .next _
  case scrubStart =>
    exact .test (.lookup fun _ => .lookup fun _ => .next _)
  case zeroComplete =>
    exact .lookup fun _ => .test (.lookup fun _ => .next _)
  case commitJudgement =>
    exact .front fun _ _ => .test (.test (.next _))
  case responseLeaves =>
    exact .test (.ite (.lookup fun _ => .next _) (.lookup fun _ => .next _))
  case commitFlip =>
    exact .front fun _ _ => .test (.test (.test (.next _)))
  case chkLock =>
    exact .test (.lookup fun _ => .test (.test (.next _)))
  case admission =>
    exact .lookup fun _ => .test (.test (.test (.test (.next _))))
  case moverLineIssue =>
    exact .lookup fun _ => .test (.ite (.test (.next _)) (.lookup fun _ => .next _))
  case feedInvalid =>
    exact .test (.test (.test (.ite (.test (.next _)) (.next _))))
  case paramFolio =>
    exact .test (.lookup fun _ => .test (.test (.test (.lookup fun _ => .next _))))
  case dataFolio =>
    exact .test (.lookup fun _ => .lookup fun _ => .test (.test (.test (.test (.next _)))))
  case feedValid =>
    exact .test (.test (.test (.ite (.ite (.test (.next _)) (.next _)) (.test (.next _)))))
  case waitExpiry e => exact execWaitExpiry_answersNext e s
  case drainTimeout e => exact execDrainTimeout_answersNext e s
  case engineResume => exact execEngineResume_answersNext s
  case registerWrite t v => exact execRegisterWrite_answersNext t v s
  case stewardCoreAccess c addr store len ans => exact execStewardCoreAccess_answersNext c addr store len ans s
  case surveyPerstRelease p => exact execSurveyPerstRelease_answersNext p s
  case err g d => exact execErr_answersNext g d s
  case done g d => exact execDone_answersNext g d s
  case surveyStepTimeout p => exact execSurveyStepTimeout_answersNext p s
  case surveyStepComplete p x => exact execSurveyStepComplete_answersNext p x s
  case hostReadResponse e outcome data => exact execHostReadResponse_answersNext e outcome data s
  case lowPowerEntry p kind lanes => exact execLowPowerEntry_answersNext p kind lanes s
  all_goals exact .next _

/-! The obligations. -/

/-- Settles O1: the step unfolds to its second case. -/
theorem stepRunsTheFrontCommand : Obligations.StepRunsTheFrontCommand :=
  fun _ _ _ => step_of_pending_cons rfl

/-- Settles O7: an idle nanosecond answers a next state, and so does every command. -/
theorem noCommandStopsTheMachine : Obligations.NoCommandStopsTheMachine := by
  intro s
  cases h : s.pending with
  | nil => exact ⟨idleTick s, step_of_pending_nil h⟩
  | cons c q =>
    obtain ⟨t, ht⟩ := exec_answersNext c { s with pending := q }
    exact ⟨t, (step_of_pending_cons h).trans ht⟩

end Sys2Proof.Machine
end

/-! SUPPORT. Ports and their protocols: the fields of an entry, what the loss of a port leaves and marks, links, IDE, viral, reference pairs, the Fabric
Manager API, and the statements of 02_ports_protocols.md settled from these. -/
namespace Sys2Proof.Machine

/-! Fields of an entry. -/

theorem testBit_fld (v : Entry) (lo w i : Nat) : (fld v lo w).testBit i = (decide (i < w) && v.getLsbD (lo + i)) := by
  unfold fld
  rw [Nat.testBit_mod_two_pow, Nat.testBit_div_two_pow, BitVec.getLsbD, Nat.add_comm]

theorem getLsbD_ones (lo w j : Nat) (hj : j < 256) : (ones lo w).getLsbD j = (decide (lo ≤ j) && decide (j < lo + w)) := by
  unfold ones
  rw [BitVec.getLsbD_ofNat, Nat.testBit_mul_two_pow, Nat.testBit_two_pow_sub_one]
  by_cases h : lo ≤ j
  · have : j - lo < w ↔ j < lo + w := by omega
    simp [hj, h, this]
  · simp [h]

/-- A bit of an entry with a field replaced: the field's bit inside it, the entry's outside. -/
theorem getLsbD_setFld (v : Entry) (lo w x j : Nat) (hj : j < 256) :
    (setFld v lo w x).getLsbD j = if lo ≤ j ∧ j < lo + w then x.testBit (j - lo) else v.getLsbD j := by
  have hx : (BitVec.ofNat 256 ((x % 2 ^ w) * 2 ^ lo)).getLsbD j = (decide (lo ≤ j ∧ j < lo + w) && x.testBit (j - lo)) := by
    rw [BitVec.getLsbD_ofNat, Nat.testBit_mul_two_pow, Nat.testBit_mod_two_pow]
    by_cases h : lo ≤ j
    · have : j - lo < w ↔ j < lo + w := by omega
      simp [hj, h, this]
    · simp [h]
  unfold setFld
  rw [BitVec.getLsbD_or, BitVec.getLsbD_and, BitVec.getLsbD_not, getLsbD_ones _ _ _ hj, hx]
  by_cases h1 : lo ≤ j <;> by_cases h2 : j < lo + w <;> simp [h1, h2, hj]

theorem fld_setFld_same (v : Entry) (lo w x : Nat) (h : lo + w ≤ 256) : fld (setFld v lo w x) lo w = x % 2 ^ w := by
  refine Nat.eq_of_testBit_eq fun i => ?_
  rw [testBit_fld, Nat.testBit_mod_two_pow]
  by_cases hi : i < w
  · rw [getLsbD_setFld _ _ _ _ _ (by omega), if_pos (by omega), Nat.add_sub_cancel_left]
  · simp [hi]

theorem fld_setFld_apart (v : Entry) (lo w x lo' w' : Nat) (h : lo' + w' ≤ lo ∨ lo + w ≤ lo') : fld (setFld v lo w x) lo' w' = fld v lo' w' := by
  refine Nat.eq_of_testBit_eq fun i => ?_
  rw [testBit_fld, testBit_fld]
  by_cases hi : i < w'
  · by_cases hj : lo' + i < 256
    · rw [getLsbD_setFld _ _ _ _ _ hj, if_neg (by omega)]
    · rw [BitVec.getLsbD_of_ge _ _ (by omega), BitVec.getLsbD_of_ge _ _ (by omega)]
  · simp [hi]

/-! The tables and the places that operations on transactions, slices, agents and events leave. -/

/-- t has of s the granules, HBM, the claims and the slot channels. -/
structure SamePlaces (s t : State) : Prop where
  granules : t.granules = s.granules
  hbm : t.hbm = s.hbm
  claims : t.claims = s.claims
  slots : t.slots = s.slots

theorem SamePlaces.trans {a b c : State} (h : SamePlaces a b) (k : SamePlaces b c) : SamePlaces a c :=
  ⟨k.granules.trans h.granules, k.hbm.trans h.hbm, k.claims.trans h.claims, k.slots.trans h.slots⟩

/-- As SamePlaces, and t has the tables of s too. -/
structure SameStores (s t : State) : Prop where
  places : SamePlaces s t
  tab : t.tab = s.tab

theorem SameStores.refl (s : State) : SameStores s s := ⟨⟨rfl, rfl, rfl, rfl⟩, rfl⟩

theorem SameStores.trans {a b c : State} (h : SameStores a b) (k : SameStores b c) : SameStores a c :=
  ⟨h.places.trans k.places, k.tab.trans h.tab⟩

/-- As trans, the last step first. -/
theorem SameStores.since {a b c : State} (k : SameStores b c) (h : SameStores a b) : SameStores a c := h.trans k

theorem SameStores.ite {s a b : State} {c : Prop} [Decidable c] (ha : SameStores s a) (hb : SameStores s b) : SameStores s (if c then a else b) := by
  split
  · exact ha
  · exact hb

theorem SameStores.foldl {α : Type} {f : State → α → State} (hf : ∀ s a, SameStores s (f s a)) (l : List α) (s : State) :
    SameStores s (l.foldl f s) := by
  induction l generalizing s with
  | nil => exact .refl s
  | cons a l ih => exact (hf s a).trans (ih _)

/-- Table reads see the tables alone. -/
theorem tabVal_of_tab {s t : State} (h : t.tab = s.tab) : tabVal t = tabVal s := by
  funext a i
  unfold tabVal tabEntry
  rw [h]

theorem countPort_sameStores (s : State) (p : Nat) (tx : Bool) (oc n : Nat) : SameStores s (countPort s p tx oc n) := by
  unfold countPort
  dsimp only
  repeat' split
  all_goals exact ⟨⟨rfl, rfl, rfl, rfl⟩, rfl⟩

theorem gone_sameStores (s : State) (p i : Nat) : SameStores s (gone s p i) :=
  (countPort_sameStores ..).trans (.ite ⟨⟨rfl, rfl, rfl, rfl⟩, rfl⟩ ⟨⟨rfl, rfl, rfl, rfl⟩, rfl⟩)

theorem leavePort_sameStores (s : State) (p i : Nat) : SameStores s (leavePort s p i) :=
  (gone_sameStores (emit s _) p i).since ⟨⟨rfl, rfl, rfl, rfl⟩, rfl⟩

theorem sendPart_sameStores (s : State) (p i : Nat) : SameStores s (sendPart s p i) :=
  .ite ⟨⟨rfl, rfl, rfl, rfl⟩, rfl⟩ ⟨⟨rfl, rfl, rfl, rfl⟩, rfl⟩

theorem tryLeave_sameStores (s : State) (p i : Nat) : SameStores s (tryLeave s p i) := by
  unfold tryLeave
  refine .ite (.refl s) (.ite (.ite ⟨⟨rfl, rfl, rfl, rfl⟩, rfl⟩ (.refl s)) (.ite (.ite ?_ (.refl s)) (.ite ?_ (.refl s))))
  · exact (sendPart_sameStores s p i).trans (gone_sameStores _ p i)
  · exact leavePort_sameStores s p i

theorem egressFlush_sameStores (s : State) (p : Nat) : SameStores s (egressFlush s p) := by
  have hf : ∀ s i, SameStores s (tryLeave s p i) := fun s i => tryLeave_sameStores s p i
  unfold egressFlush
  exact (SameStores.foldl hf _ s).trans (.foldl hf _ _)

theorem closeTxn_sameStores (s : State) (k : Packet) : SameStores s (closeTxn s k) := by
  unfold closeTxn
  dsimp only
  split
  · refine .ite ⟨⟨rfl, rfl, rfl, rfl⟩, rfl⟩ (.ite ?_ ⟨⟨rfl, rfl, rfl, rfl⟩, rfl⟩)
    exact (egressFlush_sameStores (dropTxn (emit (count s _ 1) _) k.txn) _).since ⟨⟨rfl, rfl, rfl, rfl⟩, rfl⟩
  · exact ⟨⟨rfl, rfl, rfl, rfl⟩, rfl⟩

/-- A closing packet that no stream numbers only closes its transaction. -/
theorem release_close (s : State) (k : Packet) (hc : k.cmd = 0x52) (hs : k.seqd = false) : release s k = closeTxn s k := by
  unfold release
  simp [hc, hs]

theorem skipTxn_sameStores (s : State) (i : Nat) : SameStores s (skipTxn s i) := ⟨⟨rfl, rfl, rfl, rfl⟩, rfl⟩

theorem cancelTxn_sameStores (s : State) (i : Nat) : SameStores s (cancelTxn s i) := by
  unfold cancelTxn
  dsimp only
  refine .ite ⟨⟨rfl, rfl, rfl, rfl⟩, rfl⟩ (.ite ⟨⟨rfl, rfl, rfl, rfl⟩, rfl⟩ ?_)
  split
  next hsame =>
    rw [release_close _ _ rfl (by simpa using hsame)]
    exact (closeTxn_sameStores (setTxn s i _) _).since ⟨⟨rfl, rfl, rfl, rfl⟩, rfl⟩
  next => exact ⟨⟨rfl, rfl, rfl, rfl⟩, rfl⟩

theorem closeIngress_sameStores (s : State) (p : Nat) : SameStores s (closeIngress s p) := by
  unfold closeIngress
  exact (SameStores.foldl cancelTxn_sameStores _ s).trans (.foldl (fun s i => .ite (cancelTxn_sameStores s i) (.refl s)) _ _)

theorem setTxn_sameStores (s : State) (i : Nat) (t : Txn) : SameStores s (setTxn s i t) := ⟨⟨rfl, rfl, rfl, rfl⟩, rfl⟩

theorem dropTxn_sameStores (s : State) (i : Nat) : SameStores s (dropTxn s i) := ⟨⟨rfl, rfl, rfl, rfl⟩, rfl⟩

theorem newTxn_sameStores (s : State) (t : Txn) : SameStores s (newTxn s t) := ⟨⟨rfl, rfl, rfl, rfl⟩, rfl⟩

theorem count_sameStores (s : State) (i n : Nat) : SameStores s (count s i n) := ⟨⟨rfl, rfl, rfl, rfl⟩, rfl⟩

theorem markLoss_sameStores (s : State) (p : Nat) : SameStores s (markLoss s p) := by
  unfold markLoss
  refine (SameStores.foldl (fun s i => setTxn_sameStores s i _) _ s).trans (.foldl (fun s i => .ite ?_ (.refl s)) _ _)
  exact SameStores.trans (.ite (skipTxn_sameStores s i) (.refl s)) (setTxn_sameStores _ i _)

theorem setSlice_sameStores (s : State) (g : Nat) (x : Slice) : SameStores s (setSlice s g x) := by
  unfold setSlice feedChange
  dsimp only
  repeat' split
  all_goals exact ⟨⟨rfl, rfl, rfl, rfl⟩, rfl⟩

theorem dropConflicts_sameStores (s : State) (c : Nat) : SameStores s (dropConflicts s c) := by
  unfold dropConflicts
  refine .foldl (fun s g => .ite (.refl s) ?_) _ s
  exact (SameStores.foldl dropTxn_sameStores _ _).since (setSlice_sameStores s g _)

theorem errAwaited_sameStores (s : State) (p c : Nat) : SameStores s (errAwaited s p c) := by
  unfold errAwaited
  refine .foldl (fun s g => .foldl (fun s a => .ite (.refl s) ?_) _ s) _ s
  exact newTxn_sameStores s _

theorem raiseEvent_sameStores (s : State) (e j : Nat) (l : List Nat) : SameStores s (raiseEvent s e j l) :=
  ⟨⟨raiseEvent_granules .., raiseEvent_hbm .., raiseEvent_claims .., raiseEvent_slots ..⟩, raiseEvent_tab ..⟩

theorem loseAgents_sameStores (s : State) (p : Nat) (cs : List Nat) : SameStores s (loseAgents s p cs) := by
  unfold loseAgents
  refine .foldl (fun s c => ?_) cs s
  refine (dropConflicts_sameStores (errAwaited _ p c) c).since ((errAwaited_sameStores _ p c).since ?_)
  exact SameStores.since (b := raiseEvent s 0x301 c []) ⟨⟨rfl, rfl, rfl, rfl⟩, rfl⟩ (raiseEvent_sameStores s 0x301 c [])

theorem errFwds_sameStores (s : State) (p : Nat) : SameStores s (errFwds s p) := by
  unfold errFwds
  refine (SameStores.foldl (fun s f => ?_) _ _).since ⟨⟨rfl, rfl, rfl, rfl⟩, rfl⟩
  split
  · exact newTxn_sameStores s _
  · exact count_sameStores s _ 1

/-! Table reads after the table writes of a lost port. -/

theorem tabVal_setLive_self (s : State) (t i lo w v : Nat) (h : Tables.wf s.tab = true) :
    tabVal (setLive s t i lo w v) t i = setFld (tabVal s t i) lo w v := by
  unfold tabVal
  rw [tabEntry_setLive_self s t i lo w v h]
  rfl

theorem tabVal_setLive_ne (s : State) (t i lo w v t' i' : Nat) (h : Tables.wf s.tab = true) (hk : tkey t' i' ≠ tkey t i) :
    tabVal (setLive s t i lo w v) t' i' = tabVal s t' i' := by
  unfold tabVal
  rw [tabEntry_setLive_ne s t i lo w v t' i' h hk]

theorem setLive_wf {s : State} (t i lo w v : Nat) (h : Tables.wf s.tab = true) : Tables.wf (setLive s t i lo w v).tab = true :=
  (setLive_kept s t i lo w v (.refl s)).tab h

/-- Lane status bits are entries of table 0x04 alone. -/
theorem tabVal_setLanesBit (s : State) (ls : List Nat) (b : Nat) (v : Bool) (t i : Nat) (h : Tables.wf s.tab = true)
    (hk : ∀ l, tkey t i ≠ tkey 0x04 l) : tabVal (setLanesBit s ls b v) t i = tabVal s t i := by
  induction ls generalizing s with
  | nil => rfl
  | cons l ls ih =>
    exact (ih _ (setLive_wf 0x04 l b 1 _ h)).trans (tabVal_setLive_ne s 0x04 l b 1 _ t i h (hk l))

/-- Table writes of a device update under its commit number, as one run on the tables. -/
def tabWrites (num : Nat) (m : SMap TEntry) (ws : List (Nat × Nat × Entry)) : SMap TEntry :=
  ws.foldl (fun m w => tabStore m (tkey w.1 w.2.1) ⟨w.2.2, num⟩) m

theorem foldl_setTab (num : Nat) (ws : List (Nat × Nat × Entry)) (s : State) :
    ws.foldl (fun s w => setTab s w.1 w.2.1 w.2.2 num) s = { s with tab := tabWrites num s.tab ws } := by
  induction ws generalizing s with
  | nil => rfl
  | cons w ws ih => exact ih _

theorem deviceUpdate_tab (s : State) (ws : List (Nat × Nat × Entry)) : ∃ num, (deviceUpdate s ws).tab = tabWrites num s.tab ws := by
  unfold deviceUpdate
  dsimp only
  rw [foldl_setTab, foldl_setTab]
  split
  next h => exact ⟨0, by rw [List.isEmpty_iff.mp h]; rfl⟩
  next =>
    split
    · exact ⟨_, rfl⟩
    · exact ⟨_, rfl⟩

theorem deviceUpdate_samePlaces (s : State) (ws : List (Nat × Nat × Entry)) : SamePlaces s (deviceUpdate s ws) := by
  unfold deviceUpdate
  dsimp only
  rw [foldl_setTab, foldl_setTab]
  repeat' split
  all_goals exact ⟨rfl, rfl, rfl, rfl⟩

/-- An entry that no write names reads as before. -/
theorem smGet_tabWrites_ne (num : Nat) (m : SMap TEntry) (ws : List (Nat × Nat × Entry)) (k : Nat) (h : Tables.wf m = true)
    (hk : ∀ w ∈ ws, k ≠ tkey w.1 w.2.1) : smGet (entryReset k) (tabWrites num m ws) k = smGet (entryReset k) m k := by
  induction ws generalizing m with
  | nil => rfl
  | cons w ws ih =>
    refine (ih _ (smWf_smSet entryReset m _ _ h) fun w hw => hk w (List.mem_cons_of_mem _ hw)).trans ?_
    exact smGet_smSet_ne entryReset _ m _ k _ h (hk w (List.mem_cons_self ..))

/-- An entry that is written, and with one value only, reads as that value. -/
theorem smGet_tabWrites_mem (num : Nat) (m : SMap TEntry) (ws : List (Nat × Nat × Entry)) (k : Nat) (v : Entry) (h : Tables.wf m = true)
    (hk : ∃ w ∈ ws, tkey w.1 w.2.1 = k) (hv : ∀ w ∈ ws, tkey w.1 w.2.1 = k → w.2.2 = v) :
    (smGet (entryReset k) (tabWrites num m ws) k).val = v := by
  induction ws generalizing m with
  | nil => simp at hk
  | cons w ws ih =>
    have hm := smWf_smSet entryReset m (tkey w.1 w.2.1) ⟨w.2.2, num⟩ h
    have hws := fun x hx => hv x (List.mem_cons_of_mem w hx)
    by_cases hlater : ∃ x ∈ ws, tkey x.1 x.2.1 = k
    · exact ih _ hm hlater hws
    · have hw : tkey w.1 w.2.1 = k := by
        obtain ⟨x, hx, rfl⟩ := hk
        rcases List.mem_cons.mp hx with rfl | hx
        · rfl
        · exact absurd ⟨x, hx, rfl⟩ hlater
      subst hw
      refine (congrArg TEntry.val (smGet_tabWrites_ne num _ ws _ hm fun x hx he => hlater ⟨x, hx, he.symm⟩)).trans ?_
      exact (congrArg TEntry.val (smGet_smSet_self entryReset m _ ⟨w.2.2, num⟩ h)).trans (hv w (List.mem_cons_self ..) rfl)

theorem lowEnd_sameStores (s : State) (p : Nat) : SameStores s (lowEnd s p) := .ite (.refl s) ⟨⟨rfl, rfl, rfl, rfl⟩, rfl⟩

theorem setLive_samePlaces (s : State) (t i lo w v : Nat) : SamePlaces s (setLive s t i lo w v) := ⟨rfl, rfl, rfl, rfl⟩

theorem setL0p_samePlaces (s : State) (p n : Nat) : SamePlaces s (setL0p s p n) := ⟨rfl, rfl, rfl, rfl⟩

theorem setLanesBit_samePlaces (s : State) (ls : List Nat) (b : Nat) (v : Bool) : SamePlaces s (setLanesBit s ls b v) := by
  induction ls generalizing s with
  | nil => exact ⟨rfl, rfl, rfl, rfl⟩
  | cons l ls ih => exact SamePlaces.trans (b := setLaneBit s b v l) ⟨rfl, rfl, rfl, rfl⟩ (ih _)

/-- The status bits of a link that goes down, before its lanes' bits. -/
def statusDown (s : State) (p code : Nat) : State := setL0p (setLive (setLive (setLive s 0x02 p 0 6 code) 0x02 p 17 1 0) 0x02 p 18 1 0) p 0

/-- Of the tables and the places a link that goes down changes its status and its lanes' alone. -/
theorem linkDown_sameStores (s : State) (p code : Nat) :
    SameStores (setLanesBit (statusDown s p code) (portLanes (statusDown s p code) p) 2 false) (linkDown s p code) := by
  unfold linkDown
  refine ⟨⟨?_, ?_, ?_, ?_⟩, (lowEnd_sameStores _ p).tab⟩
  · exact (lowEnd_sameStores _ p).places.granules
  · exact (lowEnd_sameStores _ p).places.hbm
  · exact (lowEnd_sameStores _ p).places.claims
  · exact (lowEnd_sameStores _ p).places.slots

theorem linkDown_samePlaces (s : State) (p code : Nat) : SamePlaces s (linkDown s p code) := by
  have hstatus : SamePlaces s (statusDown s p code) :=
    (setLive_samePlaces s 0x02 p 0 6 code).trans <| (setLive_samePlaces _ 0x02 p 17 1 0).trans <|
      (setLive_samePlaces _ 0x02 p 18 1 0).trans (setL0p_samePlaces _ p 0)
  have hlanes := setLanesBit_samePlaces (statusDown s p code) (portLanes (statusDown s p code) p) 2 false
  exact hstatus.trans (hlanes.trans (linkDown_sameStores s p code).places)

theorem statusDown_wf {s : State} (p code : Nat) (h : Tables.wf s.tab = true) : Tables.wf (statusDown s p code).tab = true :=
  setLive_wf 0x02 p 19 1 _ (setLive_wf 0x02 p 18 1 0 (setLive_wf 0x02 p 17 1 0 (setLive_wf 0x02 p 0 6 code h)))

/-- A link that goes down writes no table but the port's status and its lanes'. -/
theorem tabVal_linkDown (s : State) (p code t i : Nat) (h : Tables.wf s.tab = true) (hp : tkey t i ≠ tkey 0x02 p) (hl : ∀ l, tkey t i ≠ tkey 0x04 l) :
    tabVal (linkDown s p code) t i = tabVal s t i := by
  have h1 := setLive_wf 0x02 p 0 6 code h
  have h2 := setLive_wf 0x02 p 17 1 0 h1
  have h3 := setLive_wf 0x02 p 18 1 0 h2
  rw [tabVal_of_tab (linkDown_sameStores s p code).tab, tabVal_setLanesBit _ _ _ _ _ _ (statusDown_wf p code h) hl]
  refine (tabVal_setLive_ne _ 0x02 p 19 1 _ t i h3 hp).trans ?_
  rw [tabVal_setLive_ne _ _ _ _ _ _ _ _ h2 hp, tabVal_setLive_ne _ _ _ _ _ _ _ _ h1 hp, tabVal_setLive_ne _ _ _ _ _ _ _ _ h hp]

/-- The port's status after its link went down. -/
theorem tabVal_linkDown_status (s : State) (p code : Nat) (h : Tables.wf s.tab = true) (hl : ∀ l, tkey 0x02 p ≠ tkey 0x04 l) :
    tabVal (linkDown s p code) 0x02 p = setFld (setFld (setFld (setFld (tabVal s 0x02 p) 0 6 code) 17 1 0) 18 1 0) 19 1 0 := by
  have h1 := setLive_wf 0x02 p 0 6 code h
  have h2 := setLive_wf 0x02 p 17 1 0 h1
  have h3 := setLive_wf 0x02 p 18 1 0 h2
  rw [tabVal_of_tab (linkDown_sameStores s p code).tab, tabVal_setLanesBit _ _ _ _ _ _ (statusDown_wf p code h) hl]
  refine (tabVal_setLive_self _ 0x02 p 19 1 0 h3).trans ?_
  rw [← tabVal_setLive_self s 0x02 p 0 6 code h, ← tabVal_setLive_self _ 0x02 p 17 1 0 h1, ← tabVal_setLive_self _ 0x02 p 18 1 0 h2]

/-- The device updates of a lost DSP (R62, R63, R221). -/
def lossWrites (s : State) (p : Nat) : List (Nat × Nat × Entry) :=
  bindLostEntries s p ++ extLostEntries s p ++ agentLostEntries s (agentsBehind s p)

/-- The state of a lost DSP with its status and its pool members marked, before the device updates. -/
def dspMarked (s : State) (p code : Nat) : State := setLive (linkDown (loseMembers s p) p code) 0x02 p 20 1 1

/-- The tables and the places after the loss of a DSP are those of its device updates: what it does to transactions and agents leaves them. -/
theorem losePort_dsp {s : State} {p : Nat} (code : Nat) (hr : roleOf s p = 2) :
    SameStores (deviceUpdate (dspMarked s p code) (lossWrites s p)) (losePort s p code) := by
  unfold losePort
  simp only [hr, if_true, show ¬(2 = 1) by decide, if_false, List.append_nil]
  refine (errFwds_sameStores _ p).since ((loseAgents_sameStores _ p _).since ((markLoss_sameStores _ p).since
    ((closeIngress_sameStores _ p).since ((raiseEvent_sameStores _ 0x281 p []).since ((raiseEvent_sameStores _ 0x081 p [2]).since ?_)))))
  exact ⟨⟨rfl, rfl, rfl, rfl⟩, rfl⟩

/-- Its writes: the bindings marked lost, and entries of the extents and of the agents. -/
theorem mem_lossWrites {s : State} {p : Nat} {w : Nat × Nat × Entry} (hw : w ∈ lossWrites s p) :
    (∃ i, w = (0x11, i, setFld (tabVal s 0x11 i) 24 3 2)) ∨ w.1 = 0x15 ∨ w.1 = 0x22 := by
  unfold lossWrites bindLostEntries extLostEntries agentLostEntries at hw
  simp only [List.mem_append, List.mem_map] at hw
  rcases hw with (⟨i, _, rfl⟩ | ⟨i, _, rfl⟩) | ⟨c, _, rfl⟩
  · exact .inl ⟨i, rfl⟩
  · exact .inr (.inl rfl)
  · exact .inr (.inr rfl)

/-- No device update of a loss names an entry of the ports' own tables. -/
theorem tkey_port_notin_lossWrites {s : State} {p t i : Nat} (ht : t ≤ 0x10) (hi : i < 2 ^ 24) : ∀ w ∈ lossWrites s p, tkey t i ≠ tkey w.1 w.2.1 := by
  intro w hw
  unfold tkey
  rcases mem_lossWrites hw with ⟨j, rfl⟩ | hw | hw
  · simp only; omega
  · rw [hw]; omega
  · rw [hw]; omega

theorem linkDown_wf {s : State} (p code : Nat) (h : Tables.wf s.tab = true) : Tables.wf (linkDown s p code).tab = true :=
  (linkDown_kept s p code (.refl s)).tab h

theorem dspMarked_wf {s : State} (p code : Nat) (h : Tables.wf s.tab = true) : Tables.wf (dspMarked s p code).tab = true :=
  setLive_wf 0x02 p 20 1 1 (linkDown_wf (s := loseMembers s p) p code h)

section
variable {s : State} {p code : Nat} (hr : roleOf s p = 2) (h : Tables.wf s.tab = true)
include hr h

/-- The ports' own tables after the loss of a DSP are those before its device updates. -/
theorem tabVal_losePort_dsp {t i : Nat} (ht : t ≤ 0x10) (hi : i < 2 ^ 24) : tabVal (losePort s p code) t i = tabVal (dspMarked s p code) t i := by
  obtain ⟨num, hnum⟩ := deviceUpdate_tab (dspMarked s p code) (lossWrites s p)
  unfold tabVal tabEntry
  rw [(losePort_dsp code hr).tab, hnum, smGet_tabWrites_ne _ _ _ _ (dspMarked_wf p code h) (tkey_port_notin_lossWrites ht hi)]

/-- The status of a lost DSP: LTSSM of where the link fell, LINK_UP, IDE_ACTIVE and L0P clear, LOST set. -/
theorem tabVal_losePort_status (hp : p < 96) : tabVal (losePort s p code) 0x02 p =
    setFld (setFld (setFld (setFld (setFld (tabVal s 0x02 p) 0 6 code) 17 1 0) 18 1 0) 19 1 0) 20 1 1 := by
  have hkey : ∀ l, tkey 0x02 p ≠ tkey 0x04 l := by unfold tkey; omega
  rw [tabVal_losePort_dsp hr h (by omega) (by omega), dspMarked, tabVal_setLive_self _ 0x02 p 20 1 1 (linkDown_wf (s := loseMembers s p) p code h),
    tabVal_linkDown_status (loseMembers s p) p code h hkey, tabVal_of_tab (s := s) (t := loseMembers s p) rfl]

theorem roleOf_losePort_dsp (hp : p < 96) : roleOf (losePort s p code) p = 2 := by
  have hkey : ∀ l, tkey 0x01 p ≠ tkey 0x04 l := by unfold tkey; omega
  have hne : tkey 0x01 p ≠ tkey 0x02 p := by unfold tkey; omega
  rw [← hr]
  unfold roleOf tabFld
  rw [tabVal_losePort_dsp hr h (by omega) (by omega), dspMarked, tabVal_setLive_ne _ 0x02 p 20 1 1 _ _ (linkDown_wf (s := loseMembers s p) p code h) hne,
    tabVal_linkDown (loseMembers s p) p code _ _ h hne hkey, tabVal_of_tab (s := s) (t := loseMembers s p) rfl]

/-- A binding of the lost DSP is lost. -/
theorem tabVal_losePort_binding {i : Nat} (hi : i < 4096) (hb : i ∈ bindingsOf s p) (h1 : bstate (tabVal s 0x11 i) = 1) :
    tabVal (losePort s p code) 0x11 i = setFld (tabVal s 0x11 i) 24 3 2 := by
  obtain ⟨num, hnum⟩ := deviceUpdate_tab (dspMarked s p code) (lossWrites s p)
  have hmem : (0x11, i, setFld (tabVal s 0x11 i) 24 3 2) ∈ lossWrites s p := by
    unfold lossWrites bindLostEntries
    simp only [List.mem_append, List.mem_map, List.mem_filter, beq_iff_eq]
    exact .inl (.inl ⟨i, ⟨hb, h1⟩, rfl⟩)
  have honly : ∀ w ∈ lossWrites s p, tkey w.1 w.2.1 = tkey 0x11 i → w.2.2 = setFld (tabVal s 0x11 i) 24 3 2 := by
    intro w hw hk
    unfold tkey at hk
    rcases mem_lossWrites hw with ⟨j, rfl⟩ | hw | hw
    · have hj : j = i := Nat.add_left_cancel hk
      rw [hj]
    · omega
    · omega
  unfold tabVal tabEntry
  rw [(losePort_dsp code hr).tab, hnum]
  exact smGet_tabWrites_mem num _ _ _ _ (dspMarked_wf p code h) ⟨_, hmem, rfl⟩ honly

end

/-- The loss of a DSP takes its members' granules out of the pool and leaves the other places. -/
theorem losePort_dsp_samePlaces {s : State} {p : Nat} (code : Nat) (hr : roleOf s p = 2) : SamePlaces (loseMembers s p) (losePort s p code) :=
  (linkDown_samePlaces (loseMembers s p) p code).trans <| (setLive_samePlaces _ 0x02 p 20 1 1).trans <|
    (deviceUpdate_samePlaces (dspMarked s p code) (lossWrites s p)).trans (losePort_dsp code hr).places

/-- No granule of a registered member of the DSP is left in the pool. -/
theorem granules_losePort_dsp {s : State} {p : Nat} (code : Nat) (hr : roleOf s p = 2) :
    ∀ g ∈ (losePort s p code).granules, registered s (g.1 / 2 ^ 28) ≠ 0 → g.1 / 2 ^ 28 / 16 ≠ p := by
  rw [(losePort_dsp_samePlaces code hr).granules]
  intro g hg hreg hport
  unfold loseMembers membersOf at hg
  simp only [List.mem_filter, Bool.not_eq_true', List.contains_eq_mem, decide_eq_false_iff_not] at hg
  refine hg.2 ?_
  simp only [List.mem_map, List.mem_range, bne_iff_ne]
  exact ⟨⟨g.1 / 2 ^ 28 % 16, Nat.mod_lt _ (by decide), by omega⟩, hreg⟩

/-! Lanes of a port (R38, Table 2.1). -/

/-- Table 2.1: the local indices at which a profile has ports of eight and of sixteen lanes. -/
theorem profileWidth_places (prof k : Fin 8) :
    profileWidth prof k ≤ 3 ∧ (profileWidth prof k = 2 → k.val % 2 = 0) ∧ (profileWidth prof k = 3 → k.val = 0 ∨ k.val = 4) := by
  revert prof k
  decide

theorem firstLane_at (t k : Nat) : firstLane (8 * t + k) = 32 * t + 4 * k := by
  unfold firstLane
  omega

/-- A port's lanes are consecutive, as many as its width says. -/
theorem portLanes_at (s : State) (t k : Nat) :
    portLanes s (8 * t + k) = List.range' (32 * t + 4 * k) (widthLanes (portWidth s (8 * t + k))) := by
  unfold portLanes
  rw [firstLane_at, List.range'_eq_map_range]

/-! CXL and PCIe links (R48-R52, R62-R65). -/

/-- Under a highest rate a mode runs no faster than it. -/
theorem modeRate_le {flit top r : Nat} (h : modeRate flit top = some r) : r ≤ top := by
  unfold modeRate at h
  split at h
  · simp only [Option.some.injEq] at h; omega
  · split at h
    · simp only [Option.some.injEq] at h; omega
    · contradiction
  · simp only [Option.some.injEq] at h; omega

/-- What is negotiated: a mode that the policy permits, the partner offers and suits, at a rate of both (R50). -/
theorem negotiate_some {s : State} {p rate : Nat} {offers : BitVec 3} {cxl : Bool} {flit r : Nat} (h : negotiate s p rate offers cxl = some (flit, r)) :
    flit ∈ policyModes s p ∧ offers.getLsbD flit = true ∧ modeFits s p flit cxl = true ∧ r ≤ rate ∧ r ≤ tabFld s 0x01 p 6 4 := by
  unfold negotiate at h
  obtain ⟨f, hf, hr⟩ := List.exists_of_findSome?_eq_some h
  split at hr
  next hfits =>
    obtain ⟨x, hx, hxr⟩ := Option.map_eq_some_iff.mp hr
    obtain ⟨rfl, rfl⟩ := Prod.mk.inj hxr
    obtain ⟨hoffer, hsuits⟩ := Bool.and_eq_true_iff.mp hfits
    have hle := modeRate_le hx
    exact ⟨hf, hoffer, hsuits, by omega, by omega⟩
  next => contradiction

section
variable {p : PortId} {s : State} (hc : cxlPort s p = true)
include hc

/-- Every state of training but Polling.Compliance, which a lane test shows, is one that a CXL or PCIe port can show. -/
theorem canShow_cxlPort {stage : Training} (h : stage ≠ .pollingCompliance) : canShow s p stage = true := by
  cases stage with
  | pollingCompliance => contradiction
  | loopback => simp [canShow, hc]
  | _ => exact hc

section
variable (hrun : fabricRuns s = true) (hset : s.boot.settings = true) (hdown : linkAlive s p = false) (hdis : ltssm s p ≠ 0x0F)
include hrun hset hdown hdis

theorem execLinkUp_trains {stage : Training} (hup : stage ≠ .up) (hcomp : stage ≠ .pollingCompliance) (rate : Fin 6) (width : Fin 5) (offers : BitVec 3)
    (cxl cache : Bool) (inv : BitVec 16) :
    execLinkUp p stage rate width offers cxl cache inv s = .next (setLive s 0x02 p 0 6 (trainingCode stage)) := by
  unfold execLinkUp
  rw [if_neg (by simp [hrun, hset, canShow_cxlPort hc hcomp, hdown, hdis]), if_pos hup]

theorem execLinkUp_up {rate : Fin 6} {offers : BitVec 3} {cxl : Bool} {flit r : Nat} (hn : negotiate s p rate offers cxl = some (flit, r))
    (width : Fin 5) (cache : Bool) (inv : BitVec 16) :
    execLinkUp p .up rate width offers cxl cache inv s = .next (linkComesUp s p flit r width cxl cache inv) := by
  have hshow : canShow s p .up = true := canShow_cxlPort hc (by decide)
  unfold execLinkUp
  rw [if_neg (by simp [hrun, hset, hshow, hdown, hdis]), if_neg (by simp), hn]

end

section
variable (ha : linkAlive s p = true)
include ha

/-- A fall to Detect that a managed detach expects is no loss (R62). -/
theorem execPortLost_detaching (hd : smGet false s.detaching p = true) : execPortLost p 0 s = .next (detectAbsence (linkDown s p 0x00) p) := by
  unfold execPortLost
  simp [hc, ha, hd]

section
variable (hd : smGet false s.detaching p = false)
include hd

theorem execPortLost_toDetect : execPortLost p 0 s = .next (detectAbsence (loseCxl s p 0x00) p) := by
  unfold execPortLost
  simp [hc, ha, hd]

theorem execPortLost_toDisabled : execPortLost p 1 s = .next (loseCxl s p 0x0F) := by
  unfold execPortLost
  simp [hc, ha, hd]

theorem execPortLost_toHotReset : execPortLost p 2 s = .next (loseCxl s p 0x11) := by
  unfold execPortLost
  simp [hc, ha, hd]

end
end

/-- A link that has not come up, and did not train from L2, falls without a loss. -/
theorem execPortLost_training (ha : linkAlive s p = false) (hw : smGet false s.woken p = false) (hl : ltssm s p ≠ 0x0F) (h0 : ltssm s p ≠ 0) :
    execPortLost p 1 s = .next (setLive s 0x02 p 0 6 0x0F) := by
  unfold execPortLost
  simp [hc, ha, hw, hl, h0]

theorem execHotResetReceived_usp (ha : linkAlive s p = true) (hr : roleOf s p = 1) : execHotResetReceived p s = .next (loseCxl s p 0x11) := by
  unfold execHotResetReceived
  exact if_neg (by simp [hc, ha, hr])

theorem execRecoveryEntry_fromL0 (hlo : 0x0B ≤ ltssm s p) (hhi : ltssm s p ≤ 0x0D) (sub : Fin 5) : execRecoveryEntry p sub s = .next (toRecovery s p) := by
  unfold execRecoveryEntry
  rw [if_neg (by simp [hc]), if_pos ⟨hlo, hhi⟩]

theorem execRecoveryEntry_substate (hlo : 0x06 ≤ ltssm s p) (hhi : ltssm s p ≤ 0x0A) {sub : Fin 5} (heq : sub ≠ 1 ∨ 2 ≤ tabFld s 0x02 p 6 4) :
    execRecoveryEntry p sub s = .next (setLive s 0x02 p 0 6 (6 + sub.val)) := by
  unfold execRecoveryEntry
  rw [if_neg (by simp [hc]), if_neg (by omega), if_pos ⟨hlo, hhi, heq⟩]

theorem execReturnToL0_recovery (hlo : 0x06 ≤ ltssm s p) (hhi : ltssm s p ≤ 0x0A) {rate : Fin 6} {width : Fin 5} (hs : speedOk s p rate width = true) :
    execReturnToL0 p rate width s =
      .next (egressFlush (adaptNow (setLive (setLive (setLive s 0x02 p 0 6 0x0B) 0x02 p 6 4 rate) 0x02 p 10 5 (2 ^ width.val)) p) p) := by
  have hrec : ¬(ltssm s p < 0x06) ∧ ¬(0x0A < ltssm s p) := by omega
  unfold execReturnToL0
  exact if_neg (by simp [hc, hrec, hs])

section
variable (h0 : ltssm s p = 0x0B) (n : Fin 4)
include h0

theorem execLowPowerEntry_L0s (hen : tabFld s 0x01 p 13 1 = 1) (hf : flitOf s p = 0) :
    execLowPowerEntry p 0 n s = .next (lowBegin (setLive s 0x02 p 0 6 0x0C) p) := by
  unfold execLowPowerEntry
  simp [hc, h0, hen, hf]

theorem execLowPowerEntry_L1 (hen : tabFld s 0x01 p 14 1 = 1) :
    execLowPowerEntry p 1 n s = .next (lowBegin (setL0p (setLive s 0x02 p 0 6 0x0D) p 0) p) := by
  unfold execLowPowerEntry
  simp [hc, h0, hen]

theorem execLowPowerEntry_L0p (hen : tabFld s 0x01 p 12 1 = 1) (hf : flitOf s p = 2) (hw : 2 ^ n.val < tabFld s 0x02 p 10 5) :
    execLowPowerEntry p 2 n s = .next (lowBegin (setL0p s p (2 ^ n.val)) p) := by
  unfold execLowPowerEntry
  simp [hc, h0, hen, hf, hw]

end

theorem execLowPowerExit_fromL0sL1 (h : ltssm s p = 0x0C ∨ ltssm s p = 0x0D) :
    execLowPowerExit p s = .next (egressFlush (adaptNow (lowEnd (setLive s 0x02 p 0 6 0x0B) p) p) p) := by
  unfold execLowPowerExit
  rw [if_neg (by simp [hc]), if_pos h]

theorem execLowPowerExit_fromL2 (h : ltssm s p = 0x0E) :
    execLowPowerExit p s = .next { setLive s 0x02 p 0 6 0x02 with woken := smSet false s.woken p true } := by
  unfold execLowPowerExit
  rw [if_neg (by simp [hc]), if_neg (by omega), if_pos h]

theorem execLowPowerExit_fromL0p (h : ltssm s p = 0x0B) (hl : tabFld s 0x02 p 19 1 = 1) : execLowPowerExit p s = .next (lowEnd (setL0p s p 0) p) := by
  unfold execLowPowerExit
  rw [if_neg (by simp [hc]), if_neg (by omega), if_neg (by omega), if_pos hl]

theorem execPmeTurnOff_L0 (hr : roleOf s p ≠ 4) (h : ltssm s p = 0x0B) :
    execPmeTurnOff p s = .next (setL0p (setLive (setLive s 0x02 p 0 6 0x0E) 0x02 p 17 1 0) p 0) := by
  unfold execPmeTurnOff
  exact if_neg (by simp [hc, hr, h])

end

/-! IDE and viral (R56, R57), reference pairs (R75). -/

/-- Error reports of bridges leave the IDE streams. -/
theorem foldl_rasReport_ideUp (ks : List Nat) (s : State) (bit : Nat) : (ks.foldl (fun s k => rasReport s k bit []) s).ideUp = s.ideUp := by
  induction ks generalizing s with
  | nil => rfl
  | cons k ks ih => exact ih _

section
variable {p : PortId} {s : State} (hc : cxlPort s p = true)
include hc

section
variable (hup : tabFld s 0x02 p 17 1 = 1)
include hup

theorem execIdeKeyManagement_fails (st : Fin 2) : execIdeKeyManagement p st false s = .next (raiseEvent s 0x082 p []) := by
  unfold execIdeKeyManagement
  rw [if_neg (by simp [hc, hup])]
  rfl

/-- A key message that succeeds: the stream is up, and with every stream that the link needs IDE is active. -/
theorem execIdeKeyManagement_succeeds (st : Fin 2) :
    execIdeKeyManagement p st true s =
      let up := smGet 0 s.ideUp p ||| 2 ^ st.val
      let s1 := { s with ideUp := smSet 0 s.ideUp p up }
      if up &&& ideNeeded s p = ideNeeded s p then .next (egressFlush (setLive s1 0x02 p 18 1 1) p) else .next s1 := by
  unfold execIdeKeyManagement
  rw [if_neg (by simp [hc, hup])]
  rfl

theorem execViral_up : execViral p s =
    let ps := (((vcssOf s p).map (portsOfVcs s)).flatten).eraseDups.filter fun q => q != p.val
    .next (ps.foldl (fun s q => emit { s with viral := smSet false s.viral q true } (.link q 11 0)) s) := by
  unfold execViral
  rw [if_neg (by simp [hc, hup])]

end

section
variable (hide : tabFld s 0x02 p 18 1 = 1) (msgs : List Msg)
include hide

theorem execMacEpochCheck_good :
    execMacEpochCheck p true msgs s = .next (releaseUnits (msgs.foldl (fun s m => headerLookup s p m) s) p true) := by
  unfold execMacEpochCheck
  rw [if_neg (by simp [hc, hide])]
  rfl

/-- A MAC that fails (R57). -/
theorem execMacEpochCheck_bad :
    execMacEpochCheck p false msgs s =
      let s1 := count (releaseUnits ((portBridges s p 0).foldl (fun s k => rasReport s k 16 []) s) p false) (portCtr p 13) 1
      .next (setLive { raiseEvent s1 0x082 p [] with ideUp := smSet 0 s.ideUp p 0 } 0x02 p 18 1 0) := by
  unfold execMacEpochCheck
  rw [if_neg (by simp [hc, hide]), ← foldl_rasReport_ideUp (portBridges s p 0) s 16]
  rfl

end
end

section
variable {r : RefPairId} {s : State}

theorem execRefLost_present (h : smGet false s.refPair r = true) :
    execRefLost r s = .next (((List.range 16).map (16 * r.val + ·)).foldl refFails
      (raiseEvent (setLanesBit (setLanesBit (setLanesBit { s with refPair := smSet false s.refPair r false } (pairLanes s r) 0 false)
        (pairLanes s r) 1 false) (pairLanes s r) 4 true) 0x000 r [])) := by
  unfold execRefLost
  exact if_neg (by simp [h])

theorem execRefReturn_absent (h : smGet false s.refPair r = false) :
    execRefReturn r s = .next (((List.range 16).map (16 * r.val + ·)).foldl trainAgain
      (setLanesBit (setLanesBit (setLanesBit { s with refPair := smSet false s.refPair r true } (pairLanes s r) 0 true)
        (pairLanes s r) 1 true) (pairLanes s r) 4 true)) := by
  unfold execRefReturn
  exact if_neg (by simp [h])

end

/-! The Fabric Manager API (R60, R61). -/

/-- A Fabric Manager command of an admitted source takes effect. -/
theorem fmFrom_admitted {s : State} {src : MctpSrc} (h4 : srcLetter s src ≠ 4) (h5 : srcLetter s src ≠ 5) {tag : BitVec 8} {code : Nat}
    {f : State → State} {t : State} (h : f s = t) : (.next (fmFrom s src tag code f) : Res) = .next t := by
  subst h
  unfold fmFrom
  split
  · contradiction
  · contradiction
  · rfl

/-- An unadmitted USP is answered Unsupported (R445). -/
theorem fmFrom_refused {s : State} {src : MctpSrc} (h5 : srcLetter s src = 5) (tag : BitVec 8) (code : Nat) (f : State → State) :
    (.next (fmFrom s src tag code f) : Res) = .next (fmReply s src tag code 3 []) := by
  unfold fmFrom
  rw [h5]
  rfl

/-- Steward's mailbox carries no Fabric Manager commands. -/
theorem fmFrom_mailbox {s : State} {src : MctpSrc} (h4 : srcLetter s src = 4) (tag : BitVec 8) (code : Nat) (f : State → State) :
    (.next (fmFrom s src tag code f) : Res) = .next s := by
  unfold fmFrom
  rw [h4]
  rfl

section
variable {s : State} {src : MctpSrc} (h4 : srcLetter s src ≠ 4) (h5 : srcLetter s src ≠ 5) {tag p : BitVec 8}
include h4 h5

/-- A command through the tunnel of a port behind which an MLD has arrived. -/
theorem fmTunnel_mld (hm : fmMld s p.toNat = true) (code : Nat) (body answer : List Byte) :
    fmTunnel s src tag code p body answer = .next (fmReply (emit s (.port p.toNat 0x502 code 0 tag.toNat body)) src tag code 0 answer) :=
  fmFrom_admitted h4 h5 (if_pos hm)

theorem fmTunnel_noMld (hm : fmMld s p.toNat = false) (code : Nat) (body answer : List Byte) :
    fmTunnel s src tag code p body answer = .next (fmReply s src tag code 2 []) :=
  fmFrom_admitted h4 h5 (if_neg (by simp [hm]))

/-- A request to a logical device that the MLD has: a write carries its data and is answered without a payload, a read is answered with one. -/
theorem fmLd_mld (hm : fmMld s p.toNat = true) {ld : BitVec 16} (hld : ld.toNat < (partnerOf s p.toNat).nld) (code : Nat) (write : Bool) (addr : Nat)
    (data answer : List Byte) :
    fmLd s src tag code p ld write addr data answer = .next (fmReply
      (emit s (.port p.toNat (0x503 + code % 4) (ld.toNat * 2 + (if write then 1 else 0)) addr tag.toNat (if write then data else []))) src tag code 0
        (if write then [] else answer)) :=
  fmFrom_admitted h4 h5 (if_pos ⟨hm, hld⟩)

theorem fmLd_noMld (hm : fmMld s p.toNat = false) (ld : BitVec 16) (code : Nat) (write : Bool) (addr : Nat) (data answer : List Byte) :
    fmLd s src tag code p ld write addr data answer = .next (fmReply s src tag code 2 []) :=
  fmFrom_admitted h4 h5 (if_neg (by simp [hm]))

end

/-- A background command runs alone: another is answered Busy, else the chart waits for an engine and the answer is Background Started. -/
theorem fmChart_background {code : Nat} (hb : fmBackground code = true) (s : State) (src : MctpSrc) (tag : BitVec 8) (w : Word) (block : List Word) :
    fmChart s src tag code w block =
      if s.mctp.bgRunning then fmReply s src tag code 6 []
      else fmReply { s with internals := s.internals ++ [⟨12, .fm (bindingOf src) tag.toNat code w block⟩],
                            mctp := { s.mctp with bgRunning := true, bgOpcode := code } } src tag code 1 [] := by
  unfold fmChart
  rw [hb]
  rfl

/-- A command that runs in the foreground is answered by its chart's end. -/
theorem fmChart_foreground {code : Nat} (hb : fmBackground code = false) (s : State) (src : MctpSrc) (tag : BitVec 8) (w : Word) (block : List Word) :
    fmChart s src tag code w block = { s with internals := s.internals ++ [⟨12, .fm (bindingOf src) tag.toNat code w block⟩] } := by
  unfold fmChart
  rw [hb]
  rfl

/-! The statements. -/

/-- Settles O38: the loss marks the status and the bindings by its own writes, takes the members' granules, and what it does to transactions, agents
and events leaves the tables and the places. -/
theorem lostPortIsMarkedLost : Obligations.LostPortIsMarkedLost := by
  intro p s hcan hcxl hrole halive hdet
  obtain ⟨_, hwf, _, _⟩ := hcan
  have hp : p.val < 96 := p.isLt
  have hexec : loseCxl s p 0x0F = losePort s p 0x0F := by
    unfold loseCxl
    simp [roleOf_losePort_dsp hrole hwf hp]
  have hstatus := tabVal_losePort_status (code := 0x0F) hrole hwf hp
  have hplaces := losePort_dsp_samePlaces 0x0F hrole
  refine ⟨losePort s p 0x0F, ?_, ?_, ?_, ?_, ?_, granules_losePort_dsp 0x0F hrole, hplaces.hbm, hplaces.claims, hplaces.slots⟩
  · rw [exec_portLost, execPortLost_toDisabled hcxl halive hdet, hexec]
  · rw [tabFld, hstatus]; simp [fld_setFld_same]
  · rw [tabFld, hstatus]; simp [fld_setFld_same, fld_setFld_apart]
  · rw [tabFld, hstatus]; simp [fld_setFld_same, fld_setFld_apart]
  · intro i hi hb h1
    rw [tabVal_losePort_binding hrole hwf hi hb h1, bstate]; simp [fld_setFld_same]

/-- Settles O37: each command of a CXL or PCIe link in the state of the link that the clause names. That L1 is left in one step and that
PME_Turn_Off clears LINK_UP are the model's choices (log 67), as are the wake from L2 to Polling and the mode chosen before its rate (log 98). -/
theorem cxlLinkStateResults : Obligations.CxlLinkStateResults := by
  intro p s hc
  refine ⟨?trains, ?negotiated, ?up, ?recovery, ?substate, ?back, ?lowPower, ?exit, ?wake, ?exitL0p, ?pme, ?lost, ?detached, ?training, ?hotReset⟩
  case trains => exact fun _ _ _ _ _ _ _ hrun hset hdown hdis hup hcomp => execLinkUp_trains hc hrun hset hdown hdis hup hcomp ..
  case negotiated => exact fun _ _ _ _ _ => negotiate_some
  case up => exact fun _ _ _ _ _ _ _ _ hrun hset hdown hdis hn => execLinkUp_up hc hrun hset hdown hdis hn ..
  case recovery => exact fun sub hlo hhi => execRecoveryEntry_fromL0 hc hlo hhi sub
  case substate => exact fun sub hlo hhi heq => execRecoveryEntry_substate hc hlo hhi heq
  case back => exact fun rate width hlo hhi hs => execReturnToL0_recovery hc hlo hhi hs
  case lowPower => exact fun n h0 => ⟨execLowPowerEntry_L0s hc h0 n, execLowPowerEntry_L1 hc h0 n, execLowPowerEntry_L0p hc h0 n⟩
  case exit => exact execLowPowerExit_fromL0sL1 hc
  case wake => exact execLowPowerExit_fromL2 hc
  case exitL0p => exact execLowPowerExit_fromL0p hc
  case pme => exact execPmeTurnOff_L0 hc
  case lost => exact fun ha hd => ⟨execPortLost_toDetect hc ha hd, execPortLost_toDisabled hc ha hd, execPortLost_toHotReset hc ha hd⟩
  case detached => exact execPortLost_detaching hc
  case training => exact execPortLost_training hc
  case hotReset => exact execHotResetReceived_usp hc

/-- Settles O39: the port is one of CXL or PCIe with its link up, or with IDE active, and the pair is present, or gone. What a
failed key message and a failed MAC raise and clear, and the bit reported, are the model's choices (logs 66 and 97). -/
theorem ideViralAndReferenceResults : Obligations.IdeViralAndReferenceResults := by
  refine ⟨fun p s hc hup => ⟨?_, fun st => ?_, ?_⟩, fun p msgs s hc hide => ⟨?_, ?_⟩, fun r s => ⟨?_, ?_⟩⟩
  · exact execIdeKeyManagement_fails hc hup
  · have keys := execIdeKeyManagement_succeeds hc hup st
    exact ⟨fun hall => keys.trans (if_pos hall), fun hsome => keys.trans (if_neg hsome)⟩
  · exact execViral_up hc hup
  · exact execMacEpochCheck_good hc hide msgs
  · exact execMacEpochCheck_bad hc hide msgs
  · exact execRefLost_present
  · exact execRefReturn_absent

/-- Settles O41: the profile's table fixes the widths and the indices, and the lanes are a run from the port's first lane. -/
theorem portsTakeTheirLanes : Obligations.PortsTakeTheirLanes := by
  intro s t k ht hk p
  have hp : p < 96 := by omega
  have hidx : p % 8 = k := by omega
  have hprof : profileOf s (p / 8) < 8 := Nat.mod_lt _ (by decide)
  obtain ⟨h3, heven, hquad⟩ := profileWidth_places ⟨_, hprof⟩ ⟨k, hk⟩
  have hwidth : portWidth s p = profileWidth (profileOf s (p / 8)) k := by rw [portWidth, hidx]
  rw [← hwidth] at h3 heven hquad
  have hlanes : portLanes s p = List.range' (32 * t + 4 * k) (widthLanes (portWidth s p)) := portLanes_at s t k
  have hexists : portExists s p = true ↔ portWidth s p ≠ 0 := by simp [portExists, hp]
  refine ⟨fun h => ?_, fun h => ⟨?_, heven h⟩, fun h => ⟨?_, hquad h⟩, fun h => ?_, fun h => ?_⟩
  · rw [hlanes, h]; rfl
  · rw [hlanes, h]; rfl
  · rw [hlanes, h]; rfl
  · have h0 : portWidth s p = 0 := Decidable.byContradiction fun hne => Bool.false_ne_true (h.symm.trans (hexists.mpr hne))
    rw [hlanes, h0]; rfl
  · have h0 := hexists.mp h
    omega

/-- Settles O51: a source that is admitted reaches the command's own meaning, of which each clause names the branch. Opcodes, layouts and the
numbers of return codes are presumed from CXL (logs 29 and 85). -/
theorem fabricManagerQueriesAndSettings : Obligations.FabricManagerQueriesAndSettings := by
  intro src tag s said free used front later
  refine ⟨fun h5 => ⟨fmFrom_refused h5 .., fun code => fmFrom_refused h5 ..⟩, fun h4 => fmFrom_mailbox h4 .., fun h4 h5 => ?_⟩
  refine ⟨?identify, ?status, ?getLimit, ?setLimit, ?badLimit, ?events, ?switchDevice, ?ports, ?badPorts, ?perst, ?noPerst, ?config, ?vcss, ?bind, ?unbind,
    ?aer, ?dcd, ?region, ?setRegion, ?add, ?release, ?unsupported⟩
  case identify => exact fmFrom_admitted h4 h5 rfl
  case status =>
    intro hrun
    refine fmFrom_admitted h4 h5 ?_
    rw [hrun]
    rfl
  case getLimit => exact fmFrom_admitted h4 h5 rfl
  case setLimit => exact fun n hlo hhi => fmFrom_admitted h4 h5 (if_pos ⟨hlo, hhi⟩)
  case badLimit => exact fun n hn => fmFrom_admitted h4 h5 (if_neg (by omega))
  case events =>
    exact ⟨fmFrom_admitted h4 h5 rfl, fun hs hn => fmFrom_admitted h4 h5 (if_pos hn), fun hs hn => fmFrom_admitted h4 h5 (if_neg (by simp [hn]))⟩
  case switchDevice => exact fmFrom_admitted h4 h5 rfl
  case ports => exact fun ps hps => fmFrom_admitted h4 h5 (if_pos (List.all_eq_true.mpr hps))
  case badPorts =>
    rintro ps ⟨p, hp, hno⟩
    refine fmFrom_admitted h4 h5 (if_neg fun hall => ?_)
    exact absurd (List.all_eq_true.mp hall p hp) (by simp [hno])
  case perst =>
    intro p g hg
    refine ⟨fmFrom_admitted h4 h5 ?_, fun c hc hpg => fmFrom_admitted h4 h5 ?_⟩
    · rw [hg]; rfl
    · rw [hg, hc]; exact if_pos hpg
  case noPerst =>
    intro p hp
    refine ⟨fmFrom_admitted h4 h5 ?_, fmFrom_admitted h4 h5 ?_⟩
    · rw [hp]; rfl
    · rw [hp]; rfl
  case config =>
    intro p reg data hp
    refine ⟨fmFrom_admitted h4 h5 ?_, fmFrom_admitted h4 h5 ?_⟩
    · rw [hp]; rfl
    · rw [hp]; rfl
  case vcss => exact fun vs hvs => fmFrom_admitted h4 h5 (if_pos (List.all_eq_true.mpr fun v hv => decide_eq_true (hvs v hv)))
  case bind => exact fun v k btype p ld pld => fmFrom_admitted h4 h5 (fmChart_background rfl ..)
  case unbind => exact fun v k => fmFrom_admitted h4 h5 (fmChart_background rfl ..)
  case aer =>
    intro v k error header hv hk
    exact fmFrom_admitted h4 h5 (if_neg (by omega))
  case dcd => exact fmFrom_admitted h4 h5 rfl
  case region =>
    intro pld hpld
    have hshown : ¬tabFld s 0x14 pld.toNat 36 1 = 0 := by omega
    exact ⟨fmFrom_admitted h4 h5 (if_neg hshown), fun n start => fmFrom_admitted h4 h5 (if_neg hshown)⟩
  case setRegion => exact fun pld en maxg => fmFrom_admitted h4 h5 (fmChart_foreground rfl ..)
  case add => exact fun pld p ld shared auto lg ng mg => fmFrom_admitted h4 h5 (fmChart_background rfl ..)
  case release => exact fun x force => fmFrom_admitted h4 h5 (fmChart_background rfl ..)
  case unsupported => exact fun code => fmFrom_admitted h4 h5 rfl

/-- Settles O52: every command is the tunnel's or a logical device's request under its own code. Opcodes, layouts and the tunnel's refusals are the
model's (logs 29 and 85). -/
theorem tunnelledCommandsReachTheMld : Obligations.TunnelledCommandsReachTheMld := by
  intro src tag p s h4 h5 said sent
  constructor
  · intro hm b a
    have tunnel := fun code => fmTunnel_mld h4 h5 (tag := tag) hm code b a
    refine ⟨tunnel 0x5300, tunnel 0x5400, tunnel 0x5401, tunnel 0x5402, tunnel 0x5403, tunnel 0x5404, tunnel 0x5405, tunnel 0x5406, tunnel 0x5407,
      tunnel 0x5408, tunnel 0x5409, fun ld reg d r hld => ?_, fun ld addr d r hld => ?_⟩
    · exact ⟨fmLd_mld h4 h5 hm hld 0x5301 true .., fmLd_mld h4 h5 hm hld 0x5301 false ..⟩
    · exact ⟨fmLd_mld h4 h5 hm hld 0x5302 true .., fmLd_mld h4 h5 hm hld 0x5302 false ..⟩
  · intro hm b a
    have tunnel := fun code => fmTunnel_noMld h4 h5 (tag := tag) hm code b a
    exact ⟨tunnel 0x5300, tunnel 0x5400, tunnel 0x5409, fun ld wr reg d r => fmLd_noMld h4 h5 hm ld 0x5301 wr ..,
      fun ld wr addr d r => fmLd_noMld h4 h5 hm ld 0x5302 wr ..⟩

end Sys2Proof.Machine

/-! SUPPORT. Lanes: the least number that a search finds, what lane drafts leave of the engine, each LANE macro where it goes on, the checker's windows,
and the statements of 03_lanes.md settled from these. -/
namespace Sys2Proof.Machine

/-- The search finds the least number in its range that is accepted. -/
theorem findFrom_eq_some_iff {p : Nat → Bool} {lo len n : Nat} :
    findFrom p lo len = some n ↔ lo ≤ n ∧ n < lo + len ∧ p n = true ∧ ∀ k, lo ≤ k → k < n → p k = false := by
  induction len generalizing lo with
  | zero =>
    constructor
    · exact nofun
    · rintro ⟨h1, h2, -⟩
      omega
  | succ len ih =>
    rw [findFrom]
    split
    case isTrue hp =>
      constructor
      · rintro ⟨⟩
        exact ⟨by omega, by omega, hp, fun k h1 h2 => absurd h1 (by omega)⟩
      · rintro ⟨h1, -, -, hleast⟩
        refine congrArg some (Nat.le_antisymm h1 (Nat.le_of_not_lt fun hlt => ?_))
        rw [hleast lo (Nat.le_refl lo) hlt] at hp
        cases hp
    case isFalse hp =>
      rw [ih]
      constructor
      · rintro ⟨h1, h2, hn, hleast⟩
        refine ⟨by omega, by omega, hn, fun k hlo hk => ?_⟩
        obtain rfl | hne := Nat.eq_or_lt_of_le hlo
        · simpa using hp
        · exact hleast k hne hk
      · rintro ⟨h1, h2, hn, hleast⟩
        have hne : lo ≠ n := by rintro rfl; exact hp hn
        exact ⟨by omega, by omega, hn, fun k hlo hk => hleast k (by omega) hk⟩

/-! What the drafts of lanes leave of the engine. -/

theorem draftMasked_frame (s : State) (e : Nat) (x : Engine) (t i : Nat) (v m : Entry) :
    (draftMasked s e x t i v m).2.2 = { x with drafts := (draftMasked s e x t i v m).2.2.drafts } := by
  unfold draftMasked
  split
  · rfl
  · exact draft_frame ..

@[simp] theorem draftMasked_pc (s : State) (e : Nat) (x : Engine) (t i : Nat) (v m : Entry) : (draftMasked s e x t i v m).2.2.pc = x.pc := by
  rw [draftMasked_frame]
@[simp] theorem draftMasked_ninstr (s : State) (e : Nat) (x : Engine) (t i : Nat) (v m : Entry) :
    (draftMasked s e x t i v m).2.2.ninstr = x.ninstr := by
  rw [draftMasked_frame]

/-- The drafts leave the chart at its instruction. -/
theorem laneDrafts_place (s : State) (e : Nat) (x : Engine) (v m : Entry) (ls : List Nat) :
    (laneDrafts s e x v m ls).2.2.pc = x.pc ∧ (laneDrafts s e x v m ls).2.2.ninstr = x.ninstr := by
  induction ls generalizing s x with
  | nil => exact ⟨rfl, rfl⟩
  | cons l ls ih =>
    rw [laneDrafts]
    split
    case isTrue => exact ⟨rfl, rfl⟩
    split
    case isTrue => exact ⟨rfl, rfl⟩
    dsimp only
    split
    · exact ⟨draftMasked_pc .., draftMasked_ninstr ..⟩
    · simp [ih]

/-- As laneDrafts_place, for the drafts of boundaries. -/
theorem alignDrafts_place (s : State) (e : Nat) (x : Engine) (ls : List Nat) :
    (alignDrafts s e x ls).2.2.pc = x.pc ∧ (alignDrafts s e x ls).2.2.ninstr = x.ninstr := by
  induction ls generalizing s x with
  | nil => exact ⟨rfl, rfl⟩
  | cons l ls ih =>
    rw [alignDrafts]
    split
    · exact ⟨draft_pc .., draft_ninstr ..⟩
    · simp [ih]

/-- The drafts of one lane, where the rules of taps and of injection allow them, are one draft of its entry. -/
theorem laneDrafts_singleton {s : State} {e : Nat} {x : Engine} {l : Nat} {v m : Entry} (ht : tapsOk (merge (seenVal s x 0x03 l) v m) = true)
    (hi : injectDenied s x l v m = false) (hm : maskWhole 0x03 m = true) (hd : Draftable s e x 0x03 l v m) :
    laneDrafts s e x v m [l] = (0, s, putDraft s x 0x03 l v m) := by
  rw [laneDrafts, if_neg (by simp [ht]), if_neg (by simp [hi])]
  simp [draftMasked_allowed hm hd, laneDrafts]

/-- What LANE.ALIGN finds on each of a port's lanes, in the symbols that each receives (R80). -/
def alignSearch (s : State) (ls : List Nat) (rx : List (List Level)) : List (Nat × Option Nat) :=
  (ls.zip (rx ++ List.replicate (ls.length - rx.length) [])).map fun h => (h.1, searchLane s h.1 h.2)

/-- The state after LANE.ALIGN's slips: to the boundary found, or by 63 (R80, log 93). -/
def alignSlips (s : State) (found : List (Nat × Option Nat)) : State := found.foldl (fun s h => slipped s h.1 (h.2.getD 63)) s

/-! The LANE macros where their checks pass. -/

section
variable {e : EngineId} {s : State} {x : Engine} {b : Nat → Word} (hx : x = regSet (engineOf s e) 1 0)
  (hb : b = blockWord (engineOf s e) (wordAt (engineOf s e)))
include hx hb

/-- LANE.SET goes on where each of its 1 to 32 lanes of one tile may be drafted (R72, R288). -/
theorem execLaneSet_drafts (h : Begins s e 0x50 [rowBits [(8, 0), (21, 16)], tabWordMask 0x03 0, allBits] 0 (.tile tileOfLane0) false)
    (h1 : 1 ≤ wfld (b 0) 16 6) (h32 : wfld (b 0) 16 6 ≤ 32) (hl : wfld (b 0) 0 9 < 384)
    (htile : wfld (b 0) 0 9 / 32 = (wfld (b 0) 0 9 + wfld (b 0) 16 6 - 1) / 32) (hm : maskWhole 0x03 (entryOfWords [b 2]) = true)
    {d : Nat × State × Engine}
    (hd : d = laneDrafts s e x (entryOfWords [b 1]) (entryOfWords [b 2]) ((List.range (wfld (b 0) 16 6)).map (wfld (b 0) 0 9 + ·)))
    (h0 : d.1 = 0) : execLaneSet e s = .next (moveOk d.2.1 e d.2.2) := by
  obtain ⟨hpc, hn⟩ := laneDrafts_place s e x (entryOfWords [b 1]) (entryOfWords [b 2])
    ((List.range (wfld (b 0) 16 6)).map (wfld (b 0) 0 9 + ·))
  rw [← hd] at hpc hn
  subst hx hb
  refine congrArg Host.Outcome.next (macroOp_ok h ?_ ?_)
  · refine (if_neg ?_).trans ((if_neg (by omega)).trans ?_)
    · simp [hm, ← htile]
      omega
    · rw [← hd, ← h0]
  · simpa [hpc, hn] using h.1.2

/-- LANE.SLIP on a lane that aligns and has clock lock (R79). -/
theorem execLaneSlip_aligning (h : Begins s e 0x51 [rowBits [(8, 0)]] 0 (.tile tileOfLane0) false) (ha : laneAligns s (wfld (b 0) 0 9) ≠ none)
    (hc : laneBit s (wfld (b 0) 0 9) 2 = true) (hr : reservedElsewhere s e (tkey 0x03 (wfld (b 0) 0 9)) = false) (hl : wfld (b 0) 0 9 < 384)
    (rx : List Level) {s' : State} (hs : s' = slipped s (wfld (b 0) 0 9) 1) :
    execLaneSlip e rx s = .next (moveOk s' e (regSet (regSet x 1 (if markerChecks s' (wfld (b 0) 0 9) rx then 1 else 0)) 2
      (BitVec.ofNat 64 (laneOf s' (wfld (b 0) 0 9)).bound))) := by
  subst hx hb hs
  refine congrArg Host.Outcome.next (macroOp_ok h ?_ ?_)
  · exact (if_neg (by omega)).trans ((if_neg (by simp [ha])).trans ((if_neg (by simp [hc])).trans (if_neg (by simp [hr]))))
  · simpa using h.1.2

section
variable (h : Begins s e 0x52 [rowBits [(6, 0)]] 0 (.tile tileOfPort0) false) (hrole : roleOf s (wfld (b 0) 0 7) = 3)
  (hstate : tstate s (wfld (b 0) 0 7) = 3) (hex : portExists s (wfld (b 0) 0 7) = true) (hcdr : cdrAll s (wfld (b 0) 0 7) = true)
  (hres : ∀ k ∈ portLanes s (wfld (b 0) 0 7), reservedElsewhere s e (tkey 0x03 k) = false)
  {rx : List (List Level)} {found : List (Nat × Option Nat)} (hf : found = alignSearch s (portLanes s (wfld (b 0) 0 7)) rx)
  {y : Engine} (hy : y = regSet x 1 (BitVec.ofNat 64 (sumOf (found.map fun h => h.2.getD 63))))
include h hrole hstate hex hcdr hres hf hy

/-- LANE.ALIGN on a port in the alignment step, with clock lock on each lane and none reserved elsewhere, answers by its search: TIMEOUT where a
lane has no boundary, else the drafts (R80). -/
theorem execLaneAlign_searches {r : Nat × State × Engine}
    (hr : r = if found.any fun h => h.2.isNone then (7, alignSlips s found, y)
      else alignDrafts (alignSlips s found) e y (portLanes s (wfld (b 0) 0 7))) :
    execLaneAlign e rx s = .next (finish r.2.1 e r.2.2 r.1) := by
  have hlanes : ((portLanes s (wfld (b 0) 0 7)).any fun l => reservedElsewhere s e (tkey 0x03 l)) = false :=
    List.any_eq_false.mpr fun k hk => by simp [hres k hk]
  subst hx hb hf hy hr
  rw [execLaneAlign, macroOp, macroThen_begins h]
  dsimp only
  rw [if_neg (by simp [hex]), if_neg (by simp [hrole, hstate]), if_neg (by simp [hcdr]), if_neg (by simp [hlanes])]
  rfl

theorem execLaneAlign_noBoundary (hnone : ∃ h ∈ found, h.2 = none) :
    execLaneAlign e rx s = .next (endChart (setEngine (alignSlips s found) e y) e 7 x.pc) := by
  have hany : (found.any fun h => h.2.isNone) = true := by simpa using hnone
  rw [execLaneAlign_searches hx hb h hrole hstate hex hcdr hres hf hy (if_pos hany).symm, finish_bad _ _ _ _ (by simp), hy, regSet_pc]

theorem execLaneAlign_found (hall : ∀ h ∈ found, h.2 ≠ none) {d : Nat × State × Engine}
    (hd : d = alignDrafts (alignSlips s found) e y (portLanes s (wfld (b 0) 0 7))) (h0 : d.1 = 0) :
    execLaneAlign e rx s = .next (moveOk d.2.1 e d.2.2) := by
  have hany : ¬(found.any fun h => h.2.isNone) = true := fun hsome => by
    obtain ⟨k, hk, hnone⟩ := List.any_eq_true.mp hsome
    exact hall k hk (Option.isNone_iff_eq_none.mp hnone)
  obtain ⟨hpc, hn⟩ := alignDrafts_place (alignSlips s found) e y (portLanes s (wfld (b 0) 0 7))
  rw [execLaneAlign_searches hx hb h hrole hstate hex hcdr hres hf hy (hd.trans (if_neg hany).symm), h0, finish_moveOk]
  rw [hd, hpc, hn, hy, hx]
  simpa using h.1.2

end

/-- LANE.EYE with arguments that the row allows and the lane's test group held (R89). -/
theorem execLaneEye_legal (h : Begins s e 0x53 [rowBits [(8, 0), (10, 9), (20, 16)], rowBits [(15, 0)]] 0 (.tile tileOfLane0) false)
    (hl : wfld (b 0) 0 9 < 384) (heye : wfld (b 0) 9 2 ≠ 3) (hk : 10 ≤ wfld (b 0) 16 5) (hk' : wfld (b 0) 16 5 ≤ 30)
    (halign : wfld (b 1) 0 16 % 8 = 0) (hlo : 0x8000 ≤ wfld (b 1) 0 16) (hhi : wfld (b 1) 0 16 ≤ 0xC000)
    (hrate : laneRate s (wfld (b 0) 0 9) ≤ 4 → wfld (b 0) 9 2 = 1) (hclaim : claimCheck s x.sub (132 + wfld (b 0) 0 9 / 4) = 0) (errs : List Nat) :
    execLaneEye e errs s = .next (moveOk s e { x with dmem := smSetRun 0 x.dmem ((wfld (b 1) 0 16 - 0x8000) / 8) (eyeWords errs) }) := by
  subst hx hb
  refine congrArg Host.Outcome.next (macroOp_ok h ?_ ?_)
  · exact (if_neg (by omega)).trans ((if_neg (by omega)).trans ((if_neg fun hno => hno.2 (hrate hno.1)).trans (if_neg (not_not_intro hclaim))))
  · simpa using h.1.2

/-- LANE.STAT shows the lane's status and changes nothing else. -/
theorem execLaneStat_shows (h : Begins s e 0x54 [rowBits [(8, 0)]] 0 (.tile tileOfLane0) false) (hl : wfld (b 0) 0 9 < 384) :
    execLaneStat e s = .next (moveOk s e
      (regSet (regSet x 1 (entryWord (laneShown s (wfld (b 0) 0 9)) 0)) 2 (entryWord (laneShown s (wfld (b 0) 0 9)) 1))) := by
  subst hx hb
  refine congrArg Host.Outcome.next (macroOp_ok h (if_neg (by omega)) ?_)
  simpa using h.1.2

end

/-- The boundary that a lane's search finds is the first at which its marker checks (R80). -/
theorem searchLane_eq_some_iff {s : State} {l n : Nat} {rx : List Level} :
    searchLane s l rx = some n ↔
      n < 64 ∧ markerChecks (slipped s l n) l rx = true ∧ ∀ k, k < n → markerChecks (slipped s l k) l rx = false := by
  simp [searchLane, findFrom_eq_some_iff]

/-! The pattern checker (R86). -/

@[simp] theorem loopBack_lanes (s : State) (l : Nat) (rx : List Level) : (loopBack s l rx).lanes = s.lanes := by
  unfold loopBack
  split <;> rfl

@[simp] theorem laneOf_loopBack (s : State) (l : Nat) (rx : List Level) (k : Nat) : laneOf (loopBack s l rx) k = laneOf s k := by
  unfold laneOf
  rw [loopBack_lanes]

section
variable {l : LaneId} {rx : List Level} {s : State}

section
variable (hen : tabFld s 0x03 l 14 1 = 1)
include hen

/-- An enabled checker without lock locks on a window without error, and its count starts. -/
theorem execChkLock_locks (hlock : laneBit s l 3 = false) (hw : windowErrors s l rx = some 0) :
    execChkLock l rx s = .next (setLane (setLaneBit (loopBack s l rx) 3 true l) l { laneOf s l with lockAt := s.clock + 1 }) := by
  rw [execChkLock, if_neg (by omega), hw]
  simp [hlock]

/-- A locked checker counts a window with up to 32 errors. -/
theorem execChkLock_counts {n : Nat} (hlock : laneBit s l 3 = true) (hw : windowErrors s l rx = some n) (hn : n ≤ 32) :
    execChkLock l rx s = .next (checkerCount (loopBack s l rx) l n) := by
  rw [execChkLock, if_neg (by omega), hw]
  simp [hlock, hn]

end

/-- A locked checker loses its lock on a window with more than 32 errors: it counts the window first. -/
theorem execLockLoss_loses {n : Nat} (hlock : laneBit s l 3 = true) (hw : windowErrors s l rx = some n) (hn : 32 < n) {s' : State}
    (hs : s' = setLaneBit (checkerCount (loopBack s l rx) l n) 3 false l) :
    execLockLoss l rx s =
      .next (setLane (setLive s' 0x04 l 16 16 (min 65535 (tabFld s' 0x04 l 16 16 + 1))) l { laneOf s' l with lockAt := 0 }) := by
  rw [execLockLoss, hw, hs]
  exact if_pos ⟨hlock, hn⟩

end

/-! The statement. -/

/-- Settles O23: each macro past its checks answers by its own meaning, and the checker by its lock and the errors of the window. That LANE.ALIGN goes
on with the other lanes, slips a lane without a boundary by 63 and adds up every slip in G1, and that a locked checker counts further windows, are the
model's choices (log 93). -/
theorem laneMacroResults : Obligations.LaneMacroResults := by
  refine ⟨fun e s => ⟨?set, ?setMany, ?slip, ?search, ?align, ?eye, ?stat⟩, fun l rx s hen => ⟨?locks, ?counts⟩, ?loses⟩
  case set =>
    intro h h1 hl htaps hinj hm hd
    have hone := laneDrafts_singleton htaps hinj hm hd
    rw [exec_laneSet, execLaneSet_drafts rfl rfl h (by omega) (by omega) hl (by omega) hm (d := (0, s, _)) ?_ rfl]
    rw [h1]
    exact hone.symm
  case setMany => exact fun h h1 h32 hl htile hm h0 => execLaneSet_drafts rfl rfl h h1 h32 hl htile hm rfl h0
  case slip => exact fun rx h ha hc hr hl => execLaneSlip_aligning rfl rfl h ha hc hr hl rx rfl
  case search => exact fun rx n => searchLane_eq_some_iff
  case align =>
    exact fun rx h hrole hstate hex hcdr hres => ⟨execLaneAlign_noBoundary rfl rfl h hrole hstate hex hcdr hres rfl rfl,
      fun hall => execLaneAlign_found rfl rfl h hrole hstate hex hcdr hres rfl rfl hall rfl⟩
  case eye =>
    exact fun errs h hl heye hk hk' halign hlo hhi hrate hclaim => execLaneEye_legal rfl rfl h hl heye hk hk' halign hlo hhi hrate hclaim errs
  case stat => exact fun h hl => execLaneStat_shows rfl rfl h hl
  case locks => exact execChkLock_locks hen
  case counts => exact fun n => execChkLock_counts hen
  case loses => exact fun l rx n s hlock hw hn => execLockLoss_loses hlock hw hn rfl

end Sys2Proof.Machine

/-! SUPPORT. The Trorno link: what the sparse stores read in any form, what leaves every Trorno port alone, a containment step by step, training and PARAM,
an open session's folios, timers, electrical idle and time, and the statements of 04_trorno_link.md settled from these. -/
namespace Sys2Proof.Machine

/-! What the sparse stores read after a write, canonical or not. -/

section
variable {α : Type} [DecidableEq α]

/-- A key above the one written reads as before, in any store. -/
theorem smGet_smSet_above (d d' : α) (m : SMap α) {k k' : Nat} (v : α) (hk : k < k') : smGet d (smSet d' m k v) k' = smGet d m k' := by
  have hne : k' ≠ k := by omega
  have hnl : ¬k' < k := by omega
  induction m with
  | nil =>
    unfold smSet
    split
    · rfl
    · simp [smGet, hne, hnl]
  | cons e m ih =>
    obtain ⟨j, u⟩ := e
    unfold smSet
    split
    next hkj =>
      subst hkj
      split <;> simp [smGet, hne, hnl]
    next =>
      split
      · split <;> simp [smGet, hne, hnl]
      · simp only [smGet, ih]

/-- A key that reads as something else than its default does so after any write to another key, in any store. -/
theorem smGet_smSet_listed (d d' : α) (m : SMap α) {k k' : Nat} (v : α) (hk : k' ≠ k) (hd : smGet d m k' ≠ d) :
    smGet d (smSet d' m k v) k' = smGet d m k' := by
  induction m with
  | nil => exact absurd rfl hd
  | cons e m ih =>
    obtain ⟨j, u⟩ := e
    rcases Nat.lt_or_gt_of_ne hk with hlt | hgt
    · by_cases hj : k' = j
      · subst hj
        have h1 : k ≠ k' := by omega
        have h2 : ¬k < k' := by omega
        simp [smSet, smGet, h1, h2]
      · have hjk : ¬k' < j := fun h => hd (by simp [smGet, hj, h])
        have h1 : k ≠ j := by omega
        have h2 : ¬k < j := by omega
        have hd' : smGet d m k' ≠ d := by simpa [smGet, hj, hjk] using hd
        simp [smSet, smGet, hj, hjk, h1, h2, ih hd']
    · exact smGet_smSet_above d d' _ v hgt

/-- A key reads as what was written to it, in any store, if that is not the default. -/
theorem smGet_smSet_nondefault (d : α) (m : SMap α) (k : Nat) {v : α} (hv : v ≠ d) : smGet d (smSet d m k v) k = v := by
  induction m with
  | nil => simp [smSet, smGet, hv]
  | cons e m ih =>
    obtain ⟨j, u⟩ := e
    unfold smSet
    split
    · simp [smGet]
    next hne =>
      split
      · simp [smGet]
      next hnl => simp [smGet, hne, hnl, ih]

/-- A second write to a key replaces the first, in any store, if the first was not of the default. -/
theorem smSet_smSet_nondefault (d : α) (m : SMap α) (k : Nat) {v : α} (w : α) (hv : v ≠ d) : smSet d (smSet d m k v) k w = smSet d m k w := by
  induction m with
  | nil => simp [smSet, hv]
  | cons e m ih =>
    obtain ⟨j, u⟩ := e
    rcases Nat.lt_trichotomy k j with hlt | rfl | hgt
    · have hne : k ≠ j := by omega
      simp [smSet, hne, hlt, hv]
    · simp [smSet, hv]
    · have hne : k ≠ j := by omega
      have hnl : ¬k < j := by omega
      simp [smSet, hne, hnl, ih]

end

/-! What leaves every Trorno port's state alone. -/

/-- t has of s the state of every Trorno port. -/
structure SameIsls (s t : State) : Prop where
  isls : t.isls = s.isls

theorem SameIsls.refl (s : State) : SameIsls s s := ⟨rfl⟩

theorem SameIsls.trans {a b c : State} (h : SameIsls a b) (k : SameIsls b c) : SameIsls a c := ⟨k.isls.trans h.isls⟩

theorem SameIsls.ite {s a b : State} {c : Prop} [Decidable c] (ha : SameIsls s a) (hb : SameIsls s b) : SameIsls s (if c then a else b) := by
  split
  · exact ha
  · exact hb

theorem SameIsls.foldl {α : Type} {f : State → α → State} (hf : ∀ s a, SameIsls s (f s a)) (l : List α) (s : State) :
    SameIsls s (l.foldl f s) := by
  induction l generalizing s with
  | nil => exact .refl s
  | cons a l ih => exact (hf s a).trans (ih _)

theorem setLive_sameIsls (s : State) (t i lo w v : Nat) : SameIsls s (setLive s t i lo w v) := ⟨rfl⟩

theorem setTxn_sameIsls (s : State) (i : Nat) (t : Txn) : SameIsls s (setTxn s i t) := ⟨rfl⟩

theorem dropTxn_sameIsls (s : State) (i : Nat) : SameIsls s (dropTxn s i) := ⟨rfl⟩

theorem newTxn_sameIsls (s : State) (t : Txn) : SameIsls s (newTxn s t) := ⟨rfl⟩

theorem skipTxn_sameIsls (s : State) (i : Nat) : SameIsls s (skipTxn s i) := ⟨rfl⟩

theorem gone_sameIsls (s : State) (p i : Nat) : SameIsls s (gone s p i) := by
  have hcount : SameIsls s (countPort s p true (txnOf s i).oc (txnOf s i).len) := by
    unfold countPort
    dsimp only
    repeat' split
    all_goals exact ⟨rfl⟩
  exact hcount.trans (.ite ⟨rfl⟩ ⟨rfl⟩)

theorem leavePort_sameIsls (s : State) (p i : Nat) : SameIsls s (leavePort s p i) :=
  SameIsls.trans (b := emit s _) ⟨rfl⟩ (gone_sameIsls _ p i)

theorem sendPart_sameIsls (s : State) (p i : Nat) : SameIsls s (sendPart s p i) := .ite ⟨rfl⟩ ⟨rfl⟩

theorem tryLeave_sameIsls (s : State) (p i : Nat) : SameIsls s (tryLeave s p i) := by
  unfold tryLeave
  refine .ite (.refl s) (.ite (.ite ⟨rfl⟩ (.refl s)) (.ite (.ite ?_ (.refl s)) (.ite ?_ (.refl s))))
  · exact (sendPart_sameIsls s p i).trans (gone_sameIsls _ p i)
  · exact leavePort_sameIsls s p i

theorem egressFlush_sameIsls (s : State) (p : Nat) : SameIsls s (egressFlush s p) := by
  have hf : ∀ s i, SameIsls s (tryLeave s p i) := fun s i => tryLeave_sameIsls s p i
  unfold egressFlush
  exact (SameIsls.foldl hf _ s).trans (.foldl hf _ _)

theorem closeTxn_sameIsls (s : State) (k : Packet) : SameIsls s (closeTxn s k) := by
  unfold closeTxn
  dsimp only
  split
  · refine .ite ⟨rfl⟩ (.ite ?_ ⟨rfl⟩)
    exact SameIsls.trans (b := dropTxn (emit (count s _ 1) _) k.txn) ⟨rfl⟩ (egressFlush_sameIsls _ _)
  · exact ⟨rfl⟩

theorem cancelTxn_sameIsls (s : State) (i : Nat) : SameIsls s (cancelTxn s i) := by
  unfold cancelTxn
  dsimp only
  refine .ite ⟨rfl⟩ (.ite ⟨rfl⟩ ?_)
  split
  next hsame =>
    rw [release_close _ _ rfl (by simpa using hsame)]
    exact SameIsls.trans (b := setTxn s i _) ⟨rfl⟩ (closeTxn_sameIsls _ _)
  next => exact ⟨rfl⟩

theorem closeIngress_sameIsls (s : State) (p : Nat) : SameIsls s (closeIngress s p) := by
  unfold closeIngress
  exact (SameIsls.foldl cancelTxn_sameIsls _ s).trans (.foldl (fun s i => .ite (cancelTxn_sameIsls s i) (.refl s)) _ _)

theorem markLoss_sameIsls (s : State) (p : Nat) : SameIsls s (markLoss s p) := by
  unfold markLoss
  refine (SameIsls.foldl (fun s i => setTxn_sameIsls s i _) _ s).trans (.foldl (fun s i => .ite ?_ (.refl s)) _ _)
  exact SameIsls.trans (.ite (skipTxn_sameIsls s i) (.refl s)) (setTxn_sameIsls _ i _)

theorem setSlice_sameIsls (s : State) (g : Nat) (x : Slice) : SameIsls s (setSlice s g x) := by
  unfold setSlice feedChange
  dsimp only
  repeat' split
  all_goals exact ⟨rfl⟩

theorem dropConflicts_sameIsls (s : State) (c : Nat) : SameIsls s (dropConflicts s c) := by
  unfold dropConflicts
  exact .foldl (fun s g => .ite (.refl s) ((setSlice_sameIsls s g _).trans (.foldl dropTxn_sameIsls _ _))) _ s

theorem errAwaited_sameIsls (s : State) (p c : Nat) : SameIsls s (errAwaited s p c) := by
  unfold errAwaited
  exact .foldl (fun s g => .foldl (fun s a => .ite (.refl s) (newTxn_sameIsls s _)) _ s) _ s

theorem loseAgents_sameIsls (s : State) (p : Nat) (cs : List Nat) : SameIsls s (loseAgents s p cs) := by
  unfold loseAgents
  refine .foldl (fun s c => SameIsls.trans ?_ ((errAwaited_sameIsls _ p c).trans (dropConflicts_sameIsls _ c))) cs s
  exact ⟨raiseEvent_isls s 0x301 c []⟩

theorem deviceUpdate_sameIsls (s : State) (ws : List (Nat × Nat × Entry)) : SameIsls s (deviceUpdate s ws) := by
  unfold deviceUpdate
  dsimp only
  rw [foldl_setTab, foldl_setTab]
  repeat' split
  all_goals exact ⟨rfl⟩

theorem closeHome_sameIsls (s : State) (t : Txn) (src rstat : Nat) : SameIsls s (closeHome s t src rstat) := by
  unfold closeHome
  split
  · exact .refl s
  · exact ⟨rfl⟩

theorem sinkReplies_sameIsls (s : State) (p : Nat) : SameIsls s (sinkReplies s p) := by
  unfold sinkReplies
  refine SameIsls.trans (.foldl (fun s i => ?_) _ s) (.foldl (fun s i => setTxn_sameIsls s i _) _ _)
  exact SameIsls.trans (b := count (dropTxn s i) _ 1) ⟨rfl⟩ (closeHome_sameIsls _ _ _ _)

theorem voidOpens_sameIsls (s : State) (p : Nat) : SameIsls s (voidOpens s p) := by
  unfold voidOpens
  exact .foldl (fun s g => .foldl (fun s o => newTxn_sameIsls s _) _ s) _ s

/-! What leaves the tables and the places alone too. -/

theorem closeHome_sameStores (s : State) (t : Txn) (src rstat : Nat) : SameStores s (closeHome s t src rstat) := by
  unfold closeHome
  split
  · exact .refl s
  · exact newTxn_sameStores s _

theorem sinkReplies_sameStores (s : State) (p : Nat) : SameStores s (sinkReplies s p) := by
  unfold sinkReplies
  refine SameStores.trans (.foldl (fun s i => ?_) _ s) (.foldl (fun s i => setTxn_sameStores s i _) _ _)
  exact (closeHome_sameStores _ _ _ _).since ⟨⟨rfl, rfl, rfl, rfl⟩, rfl⟩

theorem voidOpens_sameStores (s : State) (p : Nat) : SameStores s (voidOpens s p) := by
  unfold voidOpens
  exact .foldl (fun s g => .foldl (fun s o => newTxn_sameStores s _) _ s) _ s

theorem closeRx_sameStores (s : State) (p : Nat) : SameStores s (closeRx s p) := by
  unfold closeRx
  dsimp only
  split
  · exact .refl s
  · split
    · refine .ite ?_ ⟨⟨rfl, rfl, rfl, rfl⟩, rfl⟩
      exact (cancelTxn_sameStores _ _).since ⟨⟨rfl, rfl, rfl, rfl⟩, rfl⟩
    · exact ⟨⟨rfl, rfl, rfl, rfl⟩, rfl⟩

/-! A port's state and its status after a containment (R123). -/

/-- The canonical form of the Trorno ports' store. -/
abbrev Isls.wf (m : SMap Isl) : Bool := smWf (fun _ => ({} : Isl)) m

theorem modIsl_wf {s : State} (p : Nat) (f : Isl → Isl) (h : Isls.wf s.isls = true) : Isls.wf (modIsl s p f).isls = true :=
  smWf_smSet (fun _ => ({} : Isl)) s.isls p _ h

theorem islOf_modIsl_self {s : State} (p : Nat) (f : Isl → Isl) (h : Isls.wf s.isls = true) : islOf (modIsl s p f) p = f (islOf s p) :=
  smGet_smSet_self (fun _ => ({} : Isl)) s.isls p _ h

theorem SameIsls.wf {s t : State} (k : SameIsls s t) (h : Isls.wf s.isls = true) : Isls.wf t.isls = true := by rwa [k.isls]

theorem closeRx_wf {s : State} (p : Nat) (h : Isls.wf s.isls = true) : Isls.wf (closeRx s p).isls = true := by
  have hclosed := modIsl_wf p (fun x => { x with rx := none, expect := x.expect }) h
  unfold closeRx
  dsimp only
  split
  · exact h
  · split
    · split
      · exact (SameIsls.trans ⟨count_isls ..⟩ (cancelTxn_sameIsls _ _)).wf hclosed
      · exact hclosed
    · exact hclosed

/-- What a containment has done before it marks the port: low power, the open reception, the ingress, what waits for answers, and the replies. -/
def streamsEnded (s : State) (p : Nat) : State := sinkReplies (markLoss (closeIngress (closeRx (lowEnd s p) p) p) p) p

/-- And then the port is LOST and not LINK_UP, and the agents behind it are. -/
def containMarked (s : State) (p : Nat) : State :=
  deviceUpdate (setLive (setLive (streamsEnded s p) 0x02 p 17 1 0) 0x02 p 20 1 1) (agentLostEntries (streamsEnded s p) (agentsBehind s p))

/-- No credit is queued for return at the port. -/
def dropReturns (s : State) (p : Nat) : State := { s with islRet := smErase s.islRet fun k => k / 8 == p }

/-- And then what the agents' loss brings is done, and nothing is queued for return. -/
def containAgents (s : State) (p : Nat) : State := dropReturns (voidOpens (loseAgents (containMarked s p) p (agentsBehind s p)) p) p

/-- FATAL_CNT, RETRAIN_CNT, FALLBACK, RX_LEAN, TX_LEAN, PEER_RXL, NEW_PARTNER and CREDIT_LOW are those of no session. -/
def sessionCleared (s : State) (p : Nat) : State := setSess (setSess s p 0 16 0) p 22 6 0

/-- What a containment leaves of a port: its training, its streams, and the cause that ended its last OPEN. -/
def islContained (x : Isl) : Isl :=
  { begun := x.begun, alignDone := x.alignDone, alignAt := x.alignAt, reason := x.reason, runAt := x.runAt, longHold := x.longHold,
    firstParam := x.firstParam, lastParam := x.lastParam, reversed := x.reversed, rxBuf := x.rxBuf, rxFec := x.rxFec, rxPar := x.rxPar, txBuf := x.txBuf }

/-- A containment step by step. -/
theorem contain_eq (s : State) (p : Nat) : contain s p = modIsl (sessionCleared (containAgents s p) p) p islContained := rfl

theorem streamsEnded_sameStores (s : State) (p : Nat) : SameStores s (streamsEnded s p) :=
  (lowEnd_sameStores s p).trans <| (closeRx_sameStores _ p).trans <| (closeIngress_sameStores _ p).trans <|
    (markLoss_sameStores _ p).trans (sinkReplies_sameStores _ p)

theorem containAgents_sameStores (s : State) (p : Nat) : SameStores (containMarked s p) (containAgents s p) := by
  have hdrop : ∀ t, SameStores t (dropReturns t p) := fun t => ⟨⟨rfl, rfl, rfl, rfl⟩, rfl⟩
  exact (loseAgents_sameStores _ p (agentsBehind s p)).trans ((voidOpens_sameStores _ p).trans (hdrop _))

theorem containMarked_samePlaces (s : State) (p : Nat) : SamePlaces s (containMarked s p) :=
  (streamsEnded_sameStores s p).places.trans <| (setLive_samePlaces _ 0x02 p 17 1 0).trans <| (setLive_samePlaces _ 0x02 p 20 1 1).trans <|
    deviceUpdate_samePlaces _ _

theorem sessionCleared_samePlaces (s : State) (p : Nat) : SamePlaces s (sessionCleared s p) :=
  (setLive_samePlaces s 0x05 p 0 16 0).trans (setLive_samePlaces _ 0x05 p 22 6 0)

theorem sessionCleared_sameIsls (s : State) (p : Nat) : SameIsls s (sessionCleared s p) :=
  (setLive_sameIsls s 0x05 p 0 16 0).trans (setLive_sameIsls _ 0x05 p 22 6 0)

theorem containAgents_islsWf {s : State} (p : Nat) (h : Isls.wf s.isls = true) : Isls.wf (containAgents s p).isls = true := by
  have hrx : Isls.wf (closeRx (lowEnd s p) p).isls = true := closeRx_wf p (SameIsls.wf (.ite (.refl s) ⟨rfl⟩) h)
  have hends : SameIsls (closeRx (lowEnd s p) p) (streamsEnded s p) :=
    (closeIngress_sameIsls _ p).trans <| (markLoss_sameIsls _ p).trans (sinkReplies_sameIsls _ p)
  have hmarks : SameIsls (streamsEnded s p) (containMarked s p) :=
    (setLive_sameIsls _ 0x02 p 17 1 0).trans <| (setLive_sameIsls _ 0x02 p 20 1 1).trans (deviceUpdate_sameIsls _ _)
  have hdrop : ∀ t, SameIsls t (dropReturns t p) := fun t => ⟨rfl⟩
  have hagents : SameIsls (containMarked s p) (containAgents s p) :=
    (loseAgents_sameIsls _ p (agentsBehind s p)).trans ((voidOpens_sameIsls _ p).trans (hdrop _))
  exact (hends.trans (hmarks.trans hagents)).wf hrx

theorem modIsl_tab (s : State) (p : Nat) (f : Isl → Isl) : (modIsl s p f).tab = s.tab := rfl

theorem modIsl_samePlaces (s : State) (p : Nat) (f : Isl → Isl) : SamePlaces s (modIsl s p f) := ⟨rfl, rfl, rfl, rfl⟩

theorem tabVal_containMarked_status {s : State} {p : Nat} (hp : p < 96) (h : Tables.wf s.tab = true) :
    tabVal (containMarked s p) 0x02 p = setFld (setFld (tabVal s 0x02 p) 17 1 0) 20 1 1 := by
  have hends : Tables.wf (streamsEnded s p).tab = true := by rwa [(streamsEnded_sameStores s p).tab]
  have hup := setLive_wf 0x02 p 17 1 0 hends
  obtain ⟨num, htab⟩ := deviceUpdate_tab (setLive (setLive (streamsEnded s p) 0x02 p 17 1 0) 0x02 p 20 1 1)
    (agentLostEntries (streamsEnded s p) (agentsBehind s p))
  have hagents : ∀ w ∈ agentLostEntries (streamsEnded s p) (agentsBehind s p), tkey 0x02 p ≠ tkey w.1 w.2.1 := by
    intro w hw
    obtain ⟨c, -, rfl⟩ := List.mem_map.mp hw
    unfold tkey
    omega
  calc tabVal (containMarked s p) 0x02 p
      = tabVal (setLive (setLive (streamsEnded s p) 0x02 p 17 1 0) 0x02 p 20 1 1) 0x02 p := by
        unfold tabVal tabEntry containMarked
        rw [htab, smGet_tabWrites_ne num _ _ _ (setLive_wf 0x02 p 20 1 1 hup) hagents]
    _ = setFld (setFld (tabVal s 0x02 p) 17 1 0) 20 1 1 := by
        rw [tabVal_setLive_self _ 0x02 p 20 1 1 hup, tabVal_setLive_self _ 0x02 p 17 1 0 hends,
          tabVal_of_tab (streamsEnded_sameStores s p).tab]

theorem tabVal_sessionCleared_status {s : State} (p : Nat) (h : Tables.wf s.tab = true) : tabVal (sessionCleared s p) 0x02 p = tabVal s 0x02 p := by
  have hkey : tkey 0x02 p ≠ tkey 0x05 p := by unfold tkey; omega
  exact (tabVal_setLive_ne _ 0x05 p 22 6 0 0x02 p (setLive_wf 0x05 p 0 16 0 h) hkey).trans (tabVal_setLive_ne s 0x05 p 0 16 0 0x02 p h hkey)

/-- The status of a contained port (Table 2.4): not LINK_UP, and LOST. -/
theorem tabVal_contain_status {s : State} {p : Nat} (hp : p < 96) (h : Tables.wf s.tab = true) :
    tabVal (contain s p) 0x02 p = setFld (setFld (tabVal s 0x02 p) 17 1 0) 20 1 1 := by
  have hends : Tables.wf (streamsEnded s p).tab = true := by rwa [(streamsEnded_sameStores s p).tab]
  have hmarks : Tables.wf (containMarked s p).tab = true :=
    (deviceUpdate_kept _ _ (setLive_kept _ 0x02 p 20 1 1 (setLive_kept _ 0x02 p 17 1 0 (.refl _)))).tab hends
  have hagents : Tables.wf (containAgents s p).tab = true := by rwa [(containAgents_sameStores s p).tab]
  calc tabVal (contain s p) 0x02 p
      = tabVal (sessionCleared (containAgents s p) p) 0x02 p := by
        rw [contain_eq]
        exact congrFun (congrFun (tabVal_of_tab (modIsl_tab ..)) _) _
    _ = tabVal (containMarked s p) 0x02 p := by
        rw [tabVal_sessionCleared_status p hagents, tabVal_of_tab (containAgents_sameStores s p).tab]
    _ = _ := tabVal_containMarked_status hp h

/-- Entering a state writes it to the session's word. -/
theorem tstate_setTstate {s : State} (p v : Nat) (h : Tables.wf s.tab = true) : tstate (setTstate s p v) p = v % 2 ^ 4 := by
  have hkey : tkey 0x05 p ≠ tkey 0x02 p := by unfold tkey; omega
  have hval : tabVal (setTstate s p v) 0x05 p = setFld (tabVal s 0x05 p) 28 4 v :=
    (tabVal_setLive_ne _ 0x02 p 0 6 _ 0x05 p (setLive_wf 0x05 p 28 4 v h) hkey).trans (tabVal_setLive_self s 0x05 p 28 4 v h)
  unfold tstate sessFld tabFld
  rw [hval, fld_setFld_same _ 28 4 v (by omega)]

/-- Entering a state leaves of the port's status all but its LTSSM code. -/
theorem tabFld_setTstate_status {s : State} (p v : Nat) {lo : Nat} (w : Nat) (hlo : 6 ≤ lo) (h : Tables.wf s.tab = true) :
    tabFld (setTstate s p v) 0x02 p lo w = tabFld s 0x02 p lo w := by
  have hkey : tkey 0x02 p ≠ tkey 0x05 p := by unfold tkey; omega
  have hval : tabVal (setTstate s p v) 0x02 p = setFld (tabVal s 0x02 p) 0 6 (if v = 0 then 0x0F else 0x12) :=
    (tabVal_setLive_self _ 0x02 p 0 6 _ (setLive_wf 0x05 p 28 4 v h)).trans
      (congrArg (setFld · 0 6 _) (tabVal_setLive_ne s 0x05 p 28 4 v 0x02 p h hkey))
  unfold tabFld
  rw [hval, fld_setFld_apart _ 0 6 _ lo w (by omega)]

/-- Of a port's own state its stretch of OPEN alone is kept in step with TSTATE. -/
theorem islOf_syncOpen {s : State} (p : Nat) (h : Isls.wf s.isls = true) :
    ∃ a n, islOf (syncOpen s p) p = { islOf s p with openAt := a, goodNs := n } := by
  unfold syncOpen
  rw [islOf_modIsl_self p _ h]
  dsimp only
  split <;> exact ⟨_, _, rfl⟩

/-- Entering a state changes of a port's own state its stretch of OPEN alone. -/
theorem islOf_setTstate {s : State} (p v : Nat) (h : Isls.wf s.isls = true) :
    ∃ a n, islOf (setTstate s p v) p = { islOf s p with openAt := a, goodNs := n } :=
  islOf_syncOpen (s := setLive (setSess s p 28 4 v) 0x02 p 0 6 (if v = 0 then 0x0F else 0x12)) p h

theorem contain_islsWf {s : State} (p : Nat) (h : Isls.wf s.isls = true) : Isls.wf (contain s p).isls = true := by
  rw [contain_eq]
  exact modIsl_wf p islContained ((sessionCleared_sameIsls _ p).wf (containAgents_islsWf p h))

theorem islOf_contain {s : State} (p : Nat) (h : Isls.wf s.isls = true) : ∃ x, islOf (contain s p) p = islContained x := by
  rw [contain_eq]
  exact ⟨_, islOf_modIsl_self p islContained ((sessionCleared_sameIsls _ p).wf (containAgents_islsWf p h))⟩

theorem contain_samePlaces (s : State) (p : Nat) : SamePlaces s (contain s p) := by
  rw [contain_eq]
  exact (containMarked_samePlaces s p).trans <| (containAgents_sameStores s p).places.trans <|
    (sessionCleared_samePlaces _ p).trans (modIsl_samePlaces _ p islContained)

theorem syncOpen_samePlaces (s : State) (p : Nat) : SamePlaces s (syncOpen s p) := modIsl_samePlaces s p _

theorem setTstate_samePlaces (s : State) (p v : Nat) : SamePlaces s (setTstate s p v) :=
  (setLive_samePlaces s 0x05 p 28 4 v).trans <| (setLive_samePlaces _ 0x02 p 0 6 _).trans (syncOpen_samePlaces _ p)

/-- At the reopen deadline a port that trains again is contained (R100, R123): in state 7, LOST, not LINK_UP, without a partner or a stored folio, HBM and
claims as before. -/
theorem execReopenDeadline_contains {p : PortId} {s : State} {t : Nat} (hd : (islOf s p).deadline = some t) (h2 : 2 ≤ tstate s p) (h4 : tstate s p ≤ 4)
    (hdue : t ≤ s.clock) (htab : Tables.wf s.tab = true) (hisls : Isls.wf s.isls = true) :
    Does (.reopenDeadline p) s fun t => tstate t p = 7 ∧ tabFld t 0x02 p 17 1 = 0 ∧ tabFld t 0x02 p 20 1 = 1 ∧
      (islOf t p).partner = none ∧ (islOf t p).store = [] ∧ t.hbm = s.hbm ∧ t.claims = s.claims := by
  have hc : Tables.wf (contain s p).tab = true := (contain_kept s p (.refl s)).tab htab
  have hexec : exec (.reopenDeadline p) s = .next (setTstate (contain s p) p 7) := by
    rw [exec_reopenDeadline, execReopenDeadline, hd]
    exact if_pos ⟨h2, h4, hdue⟩
  obtain ⟨a, n, hisl⟩ := islOf_setTstate p 7 (contain_islsWf p hisls)
  obtain ⟨x, hx⟩ := islOf_contain p hisls
  have hplaces := (contain_samePlaces s p).trans (setTstate_samePlaces _ p 7)
  have hstatus := tabVal_contain_status p.isLt htab
  have hdown : fld (setFld (setFld (tabVal s 0x02 p) 17 1 0) 20 1 1) 17 1 = 0 :=
    (fld_setFld_apart _ 20 1 1 17 1 (by omega)).trans (fld_setFld_same _ 17 1 0 (by omega))
  have hlost : fld (setFld (setFld (tabVal s 0x02 p) 17 1 0) 20 1 1) 20 1 = 1 := fld_setFld_same _ 20 1 1 (by omega)
  refine ⟨_, hexec, tstate_setTstate p 7 hc, ?_, ?_, ?_, ?_, hplaces.hbm, hplaces.claims⟩
  · rw [tabFld_setTstate_status p 7 1 (by omega) hc, tabFld, hstatus]
    exact hdown
  · rw [tabFld_setTstate_status p 7 1 (by omega) hc, tabFld, hstatus]
    exact hlost
  · rw [hisl, hx]
    rfl
  · rw [hisl, hx]
    rfl

/-! A lane's status bits leave what stands in other tables, in any store. -/

theorem tabEntry_setLive_above (s : State) (t i lo w v : Nat) {t' i' : Nat} (hk : tkey t i < tkey t' i') :
    tabEntry (setLive s t i lo w v) t' i' = tabEntry s t' i' :=
  smGet_smSet_above (entryReset (tkey t' i')) (entryReset (tkey t i)) s.tab _ hk

theorem tabEntry_setLive_listed (s : State) (t i lo w v : Nat) {t' i' : Nat} (hk : tkey t' i' ≠ tkey t i)
    (hd : tabEntry s t' i' ≠ entryReset (tkey t' i')) : tabEntry (setLive s t i lo w v) t' i' = tabEntry s t' i' :=
  smGet_smSet_listed (entryReset (tkey t' i')) (entryReset (tkey t i)) s.tab _ hk hd

/-- The status bits of lanes leave the session's word. -/
theorem tstate_setLanesBit (s : State) (ls : List Nat) (b : Nat) (v : Bool) (p : Nat) (hls : ∀ l ∈ ls, l < 2 ^ 24) :
    tstate (setLanesBit s ls b v) p = tstate s p := by
  induction ls generalizing s with
  | nil => rfl
  | cons l ls ih =>
    have hl : tkey 0x04 l < tkey 0x05 p := by
      have := hls l (List.mem_cons_self ..)
      unfold tkey
      omega
    refine (ih _ fun l hl => hls l (List.mem_cons_of_mem _ hl)).trans ?_
    unfold tstate sessFld tabFld tabVal setLaneBit
    rw [tabEntry_setLive_above s 0x04 l b 1 _ hl]

/-- A port's entry that gives it a role is listed: the reset value gives none. -/
theorem tabEntry_port_listed {s : State} {p : Nat} (hp : p < 96) (hrole : roleOf s p ≠ 0) : tabEntry s 0x01 p ≠ entryReset (tkey 0x01 p) := by
  intro hreset
  have hkey : keyTab (tkey 0x01 p) = 0x01 := by
    unfold keyTab tkey
    omega
  apply hrole
  unfold roleOf tabFld tabVal
  rw [hreset, entryReset, hkey]
  exact (by decide : fld (mkEntry [(6, 5), (20, 10)]) 0 3 = 0)

/-- The status bits of lanes leave the role of a port that has one. -/
theorem roleOf_setLanesBit (s : State) (ls : List Nat) (b : Nat) (v : Bool) {p : Nat} (hp : p < 96) (hrole : roleOf s p ≠ 0) :
    roleOf (setLanesBit s ls b v) p = roleOf s p := by
  induction ls generalizing s with
  | nil => rfl
  | cons l ls ih =>
    have hl : tkey 0x01 p ≠ tkey 0x04 l := by
      unfold tkey
      omega
    have hone : roleOf (setLaneBit s b v l) p = roleOf s p := by
      unfold roleOf tabFld tabVal setLaneBit
      rw [tabEntry_setLive_listed s 0x04 l b 1 _ hl (tabEntry_port_listed hp hrole)]
    exact (ih _ (hone ▸ hrole)).trans hone

theorem portLanes_lt (s : State) {p l : Nat} (hp : p < 96) (hl : l ∈ portLanes s p) : l < 2 ^ 24 := by
  obtain ⟨i, hi, rfl⟩ := List.mem_map.mp hl
  have hw : widthLanes (portWidth s p) ≤ 16 := by
    unfold widthLanes
    split <;> omega
  have hi' := List.mem_range.mp hi
  unfold firstLane
  omega

/-! Training and PARAM. -/

section
variable {p : PortId} {s : State}

/-- What training finds once every lane is locked (R43): the lanes' polarity and their order. -/
def lanesLocked (s : State) (p : PortId) (inv : BitVec 16) (rev : Bool) : State :=
  modIsl ((portLanes s p).foldl (fun s l => setLaneBit s 5 (inv.getLsbD (l - firstLane p)) l) (setLanesBit s (portLanes s p) 2 true)) p
    fun x => { x with reversed := rev }

section
variable (hrole : roleOf s p = 3)
include hrole

theorem execCdrLockAll_isl (hex : portExists s p = true) (inv : BitVec 16) (rev : Bool) : execCdrLockAll p inv rev s = .next (
    let t := lanesLocked s p inv rev
    if tstate s p = 1 then (if boundsGood t p then enterWake t p false else enterAlign t p)
    else if tstate s p = 2 ∧ boundsGood t p = false then enterAlign t p else t) := by
  unfold execCdrLockAll
  rw [if_neg (by simp [hex]), if_neg (by simp [hrole])]
  dsimp only
  rw [← lanesLocked]
  simp only [Bool.not_eq_true']
  split
  · rfl
  · split <;> rfl

/-- Lock lost on a lane of an open session ends it with REASON 3. -/
theorem execCdrLockLost_open (hex : portExists s p = true) (lanes : BitVec 16) {t : State}
    (ht : t = setLanesBit s ((portLanes s p).filter fun l => lanes.getLsbD (l - firstLane p)) 2 false)
    (hopen : islOpen t p = true) (hidle : (islOf t p).rxIdle = false) (hcdr : cdrAll t p = false) :
    execCdrLockLost p lanes s = .next (leaveOpen t p 3) := by
  have hr : roleOf t p = 3 := by rw [ht, roleOf_setLanesBit s _ 2 false p.isLt (by omega), hrole]
  unfold execCdrLockLost cdrLost
  rw [if_neg (by simp [hex]), ← ht]
  exact congrArg _ (if_pos ⟨hr, hopen, by simp [hidle], by simp [hcdr]⟩)

section
variable {lanes : List (List Level)} (hlen : lanes.length = (portLanes s p).length) (hall : (lanesIn s p lanes).all isMarkerRun = true)
include hlen hall

theorem execMarkerRunSeen_open (hopen : islOpen (restartRx s p) p = true) : execMarkerRunSeen p lanes s = .next (leaveOpen (restartRx s p) p 7) := by
  unfold execMarkerRunSeen
  rw [if_neg (by simp [hrole, hlen, hall])]
  exact if_pos hopen

theorem execMarkerRunSeen_contained (hstate : tstate (restartRx s p) p = 7) : execMarkerRunSeen p lanes s = .next (enterDetect (restartRx s p) p) := by
  unfold execMarkerRunSeen
  rw [if_neg (by simp [hrole, hlen, hall])]
  exact (if_neg (by simp [islOpen, hstate])).trans (if_pos hstate)

end

section
variable (hstate : tstate s p = 2)
include hstate

section
variable (hcdr : cdrAll s p = true) (hrun : (islOf s p).runAt = none) (hgood : boundsGood s p = true) {words : List (List Level)}
include hcdr hrun hgood

theorem execMarkerCheck_passes (hall : unmarked s p words = []) : execMarkerCheck p words s =
    .next (modIsl (restartRx s p) p fun x => { x with runAt := some (s.clock + (if x.longHold then 2000000 else 1000)) }) := by
  unfold execMarkerCheck
  rw [if_neg (by simp [hrole, hstate, hcdr, hrun]), if_neg (by simp [hgood]), hall]
  rfl

theorem execMarkerCheck_fails (hbad : unmarked s p words ≠ []) : execMarkerCheck p words s =
    .next (enterAlign ((unmarked s p words).foldl (fun s l => raiseEvent s 0x001 l []) s) p) := by
  unfold execMarkerCheck
  rw [if_neg (by simp [hrole, hstate, hcdr, hrun]), if_neg (by simp [hgood])]
  exact if_neg (by simpa using hbad)

end

/-- The end of the hold sends PARAM, and opens the session at once where the peer's has come. -/
theorem execWakeHoldEnd_due {t : Nat} (hrun : (islOf s p).runAt = some t)
    (hdue : t ≤ s.clock ∨ ((islOf s p).longHold = true ∧ (islOf s p).peerParam ≠ [])) {s1 : State}
    (hs : s1 = sendParam (setTstate (modIsl s p fun x => { x with runAt := none, longHold := false, firstParam := none }) p 4) p) :
    execWakeHoldEnd p s = .next (if (islOf s1 p).peerParam = [] then s1 else openSession s1 p) := by
  have hnow : t ≤ s.clock ∨ ((islOf s p).longHold = true ∧ (!(islOf s p).peerParam.isEmpty) = true) := by simpa using hdue
  unfold execWakeHoldEnd
  rw [hrun]
  refine (if_pos ⟨hrole, hstate, hnow⟩).trans ?_
  rw [← hs]
  simp only [List.isEmpty_iff]

end

/-- A PARAM off the stream in PARAM, past the checks of its codewords, type and CRC: a field refused raises its offset, else it counts as received, and
the session opens once this end's own was sent. -/
theorem execParamFolio_checked (hstate : tstate s p = 4) {lanes : List (List Level)} {u : State} {f : List Byte} {fec : Nat}
    (ht : takeFolio s p lanes = some (u, f, fec, false))
    (hfec : fec ≠ 2) (htyp : (hdrOf f).typ = 2) (hmode : (hdrOf f).mode = false) (hcrc : crcGood f = true) :
    execParamFolio p lanes s = .next ((paramFault u p f).elim
      (if (islOf (takeParam u p f) p).firstParam.isSome then openSession (takeParam u p f) p else takeParam u p f)
      fun o => raiseEvent u 0x101 p [o]) := by
  unfold execParamFolio
  rw [if_neg (by simp [hrole, hstate]), ht]
  dsimp only
  rw [if_neg (by simp [hfec]), if_neg (by simp [htyp, hmode]), if_neg (by simp [hcrc])]
  simp only [hstate, true_and]
  cases paramFault u p f <;> rfl

end

/-- Lock lost outside an open session changes the lanes' bits alone. -/
theorem execCdrLockLost_closed (hex : portExists s p = true) (hopen : islOpen s p = false) (lanes : BitVec 16) : execCdrLockLost p lanes s =
    .next (setLanesBit s ((portLanes s p).filter fun l => lanes.getLsbD (l - firstLane p)) 2 false) := by
  have hclosed : islOpen (setLanesBit s ((portLanes s p).filter fun l => lanes.getLsbD (l - firstLane p)) 2 false) p = false := by
    unfold islOpen at hopen ⊢
    rw [tstate_setLanesBit s _ 2 false p fun l hl => portLanes_lt s p.isLt (List.mem_filter.mp hl).1, hopen]
  unfold execCdrLockLost cdrLost
  rw [if_neg (by simp [hex])]
  exact congrArg _ (if_neg fun h => Bool.eq_false_iff.mp hclosed h.2.1)

theorem execMarkerRunSeen_none {lanes : List (List Level)} (hall : (lanesIn s p lanes).all isMarkerRun = false) :
    execMarkerRunSeen p lanes s = .next s := by
  unfold execMarkerRunSeen
  exact if_pos (.inr (.inr (by simp [hall])))

theorem execMarkerCheck_notWake (hstate : tstate s p ≠ 2) (words : List (List Level)) : execMarkerCheck p words s = .next s :=
  if_pos (.inr (.inl hstate))

theorem execAlignRerun_due {t : Nat} (hat : (islOf s p).alignAt = some t) (hstate : tstate s p = 3) (hdue : t ≤ s.clock) :
    execAlignRerun p s = .next (enterAlign s p) := by
  unfold execAlignRerun
  rw [hat]
  exact if_pos ⟨hstate, hdue⟩

theorem execAlignResult_done {st n : Nat} (hdone : (islOf s p).alignDone = some (st, n)) : execAlignResult p s =
    .next (raiseEvent (modIsl s p fun x => { x with
      alignDone := none, alignAt := if st ≠ 0 ∧ tstate s p = 3 then some (s.clock + 1000000) else none }) 0x100 p [st, n]) := by
  unfold execAlignResult
  rw [hdone]

section
variable (hstate : tstate s p = 4) (hnone : (islOf s p).peerParam = [])
include hstate hnone

theorem execParamResend_eq : execParamResend p s = .next (if (islOf s p).lastParam + 10000 ≤ s.clock then sendParam s p else s) := by
  unfold execParamResend
  simp only [hstate, hnone, List.isEmpty_nil, true_and]
  split <;> rfl

theorem execParamTimeout_due {t : Nat} (hfirst : (islOf s p).firstParam = some t) (hdue : t + 20000 ≤ s.clock) :
    execParamTimeout p s = .next (enterWake (modIsl s p fun x => { x with firstParam := none }) p true) := by
  unfold execParamTimeout
  rw [hfirst]
  exact if_pos ⟨hstate, by simp [hnone], hdue⟩

end

theorem execParamFolio_untaken (h2 : tstate s p ≠ 2) (h4 : tstate s p ≠ 4) (lanes : List (List Level)) : execParamFolio p lanes s = .next s :=
  if_pos (.inr (by simp [h2, h4]))

/-- A PARAM of the session's partner, or of the first, that names no lean fatal event is kept, and its RXL followed. -/
theorem takeParam_samePartner {f : List Byte} (hreason : leAt f 12 1 ≠ 1) (hnode : (islOf s p).partner = none ∨ (islOf s p).partner = some (leAt f 16 8)) :
    takeParam s p f = takeRxl (modIsl s p fun x => { x with peerParam := f }) p (hdrOf f).rxl := by
  have hsame : ((islOf s p).partner.isSome && (islOf s p).partner != some (leAt f 16 8)) = false := by
    rcases hnode with h | h <;> simp [h]
  unfold takeParam
  simp [hsame, hreason]

theorem execReopenDeadline_early {t : Nat} (hd : (islOf s p).deadline = some t) (h : s.clock < t) : execReopenDeadline p s = .next s := by
  unfold execReopenDeadline
  rw [hd]
  exact if_neg fun hdue => absurd hdue.2.2 (by omega)

end

/-! The statement. -/

/-- Settles O59: every command of training by its own meaning, PARAM past its checks, and the containment at the deadline. That the operands of the link
commands are the symbols of a codeword position is the model's choice (log 92), and so is what the PARAM of another partner brings (log 94). -/
theorem trornoTrainsOpensAndIsContained : Obligations.TrornoTrainsOpensAndIsContained := by
  intro p s hex hrole x
  refine ⟨fun inv rev => ?lock, ?lockLost, ?lockLostOpen, fun lanes hlen => ?markerRun, fun words h2 hcdr hrun hgood => ?markerCheck, ?notWake, ?holdEnd,
    ?rerun, ?result, ?resend, ?resendEarly, ?timeout, ?param, ?untaken, ?contained, ?deadlineEarly⟩
  case lock =>
    have hlock := execCdrLockAll_isl hrole hex inv rev
    refine ⟨fun h1 hb => ?_, fun h1 hb => ?_, fun h2 hb => ?_, fun h2 hb => ?_, fun h3 => ?_⟩
    · exact hlock.trans (congrArg _ ((if_pos h1).trans (if_pos hb)))
    · exact hlock.trans (congrArg _ ((if_pos h1).trans (if_neg (Bool.eq_false_iff.mp hb))))
    · exact hlock.trans (congrArg _ ((if_neg (by omega)).trans (if_pos ⟨h2, hb⟩)))
    · exact hlock.trans (congrArg _ ((if_neg (by omega)).trans (if_neg fun h => Bool.eq_false_iff.mp h.2 hb)))
    · exact hlock.trans (congrArg _ ((if_neg (by omega)).trans (if_neg (by omega))))
  case lockLost => exact fun lanes hopen => execCdrLockLost_closed hex hopen lanes
  case lockLostOpen => exact fun lanes => execCdrLockLost_open hrole hex lanes rfl
  case markerRun =>
    exact ⟨execMarkerRunSeen_open hrole hlen, execMarkerRunSeen_contained hrole hlen, execMarkerRunSeen_none⟩
  case markerCheck => exact ⟨execMarkerCheck_passes hrole h2 hcdr hrun hgood, execMarkerCheck_fails hrole h2 hcdr hrun hgood⟩
  case notWake => exact fun words h2 => execMarkerCheck_notWake h2 words
  case holdEnd =>
    intro t hrun h2 hdue s1
    have hend := execWakeHoldEnd_due hrole h2 hrun hdue (s1 := s1) rfl
    exact ⟨fun hnone => hend.trans (congrArg _ (if_pos hnone)), fun hcome => hend.trans (congrArg _ (if_neg hcome))⟩
  case rerun => exact fun t hat h3 => execAlignRerun_due hat h3
  case result => exact fun st n => execAlignResult_done
  case resend => exact fun h4 hnone hdue => (execParamResend_eq h4 hnone).trans (congrArg _ (if_pos hdue))
  case resendEarly => exact fun h4 hnone hearly => (execParamResend_eq h4 hnone).trans (congrArg _ (if_neg (Nat.not_le.mpr hearly)))
  case timeout => exact fun t hfirst h4 hnone => execParamTimeout_due h4 hnone hfirst
  case param =>
    intro lanes u f fec h4 ht hfec htyp hmode hcrc v
    have hparam := execParamFolio_checked hrole h4 ht hfec htyp hmode hcrc
    refine ⟨fun o ho => ?_, fun ho hsent => ?_, fun ho hsent => ?_, takeParam_samePartner⟩
    · rw [exec_paramFolio, hparam, ho]
      rfl
    · rw [exec_paramFolio, hparam, ho]
      exact congrArg _ (if_pos hsent)
    · rw [exec_paramFolio, hparam, ho]
      exact congrArg _ (if_neg (Option.not_isSome_iff_eq_none.mpr hsent))
  case untaken => exact fun lanes h2 h4 => execParamFolio_untaken h2 h4 lanes
  case contained => exact fun t hd h2 h4 hdue hc hisls => execReopenDeadline_contains hd h2 h4 hdue hc.2.1 hisls
  case deadlineEarly => exact fun t => execReopenDeadline_early

/-! The folio that the received codewords give (R105-R107). -/

section
variable {p : PortId} {s : State} {lanes : List (List Level)}

section
variable (hrecv : receiving s p = true)
include hrecv

theorem plainFolio_none (hnone : takeFolio s p lanes = none) (typ : Nat) (act : State → List Byte → Hdr → State) :
    plainFolio s p typ lanes act = s := by
  unfold plainFolio nextFolio
  rw [if_neg (by simp [hrecv]), hnone]

theorem execDataFolio_none (hnone : takeFolio s p lanes = none) : execDataFolio p lanes s = .next s := by
  unfold execDataFolio nextFolio
  rw [if_neg (by simp [hrecv]), hnone]

section
variable {u t : State} {f : List Byte} {fec : Nat} {par : Bool} (htake : takeFolio s p lanes = some (u, f, fec, par))
include htake

section
variable (hc : checkFolio u p f fec par = (t, none))
include hc

/-- A folio that fails its checks leaves what the checks leave. -/
theorem plainFolio_fails (typ : Nat) (act : State → List Byte → Hdr → State) : plainFolio s p typ lanes act = t := by
  unfold plainFolio nextFolio
  rw [if_neg (by simp [hrecv]), htake]
  simp [hc]

theorem execDataFolio_fails : execDataFolio p lanes s = .next t := by
  unfold execDataFolio nextFolio
  rw [if_neg (by simp [hrecv]), htake]
  simp [hc]

end

section
variable {h : Hdr} (hc : checkFolio u p f fec par = (t, some h))
include hc

/-- A folio of a type that consumes no sequence acts; while a NAK is out it acts all the same and is discarded, unless it is the RPLY. -/
theorem plainFolio_passes {typ : Nat} (htyp : h.typ = typ) (act : State → List Byte → Hdr → State) :
    plainFolio s p typ lanes act = if (islOf t p).nakCause ≠ 0 ∧ typ ≠ 4 then discardOne (act t f h) p else act t f h := by
  unfold plainFolio nextFolio
  rw [if_neg (by simp [hrecv]), htake]
  simp [hc, htyp]

theorem plainFolio_acts {typ : Nat} (htyp : h.typ = typ) (hfree : (islOf t p).nakCause = 0 ∨ typ = 4) (act : State → List Byte → Hdr → State) :
    plainFolio s p typ lanes act = act t f h :=
  (plainFolio_passes hrecv htake hc htyp act).trans (if_neg (by omega))

theorem plainFolio_discards {typ : Nat} (htyp : h.typ = typ) (hnak : (islOf t p).nakCause ≠ 0) (h4 : typ ≠ 4)
    (act : State → List Byte → Hdr → State) :
    plainFolio s p typ lanes act = discardOne (act t f h) p :=
  (plainFolio_passes hrecv htake hc htyp act).trans (if_pos ⟨hnak, h4⟩)

/-- A DATA folio is discarded while a NAK is out, starts one out of order, is passed over if already accepted, and else is taken (R105, R110, R114). -/
theorem execDataFolio_passes (htyp : h.typ = 1) : execDataFolio p lanes s =
    if (islOf t p).nakCause ≠ 0 then .next (discardOne t p)
    else if h.seq ≠ (islOf t p).expect % 4096 then .next (detected t p 4)
    else if seqLe (islOf t p).expect (islOf t p).accept then .next (setIsl t p { islOf t p with expect := seqAdd (islOf t p).expect 1 })
    else .next (takeData t p f h.smap) := by
  unfold execDataFolio nextFolio
  rw [if_neg (by simp [hrecv]), htake]
  simp [hc, htyp]

end
end
end

section
variable (hrecv : receiving s p = false)
include hrecv

theorem plainFolio_notReceiving (typ : Nat) (act : State → List Byte → Hdr → State) : plainFolio s p typ lanes act = passFolio s p lanes :=
  if_pos (by simp [hrecv])

theorem execDataFolio_notReceiving : execDataFolio p lanes s = .next (passFolio s p lanes) := if_pos (by simp [hrecv])

end

/-- Outside WAKE and PARAM of an ISL port a folio is not even taken off the stream. -/
theorem passFolio_untaken (h : roleOf s p ≠ 3 ∨ (tstate s p ≠ 2 ∧ tstate s p ≠ 4)) : passFolio s p lanes = s :=
  if_neg (by omega)

/-- In WAKE and PARAM a folio that is no PARAM is taken off the stream and passed over. -/
theorem passFolio_taken {u : State} {f : List Byte} {fec : Nat} {par : Bool} (hrole : roleOf s p = 3) (hstate : tstate s p = 2 ∨ tstate s p = 4)
    (htake : takeFolio s p lanes = some (u, f, fec, par)) : passFolio s p lanes = u := by
  unfold passFolio
  rw [if_pos ⟨hrole, hstate⟩, htake]

/-- Whatever folio the codewords hold, its command leaves t. -/
def AllFolios (p : PortId) (lanes : List (List Level)) (s t : State) : Prop :=
  exec (.dataFolio p lanes) s = .next t ∧ exec (.nullFolio p lanes) s = .next t ∧ exec (.nakFolio p lanes) s = .next t ∧
    exec (.rplyFolio p lanes) s = .next t ∧ exec (.idleFolio p lanes) s = .next t

/-- The commands of the folios that consume no sequence differ in what they do alone. -/
theorem allFolios_of {t : State} (hdata : execDataFolio p lanes s = .next t) (hplain : ∀ typ act, plainFolio s p typ lanes act = t) :
    AllFolios p lanes s t :=
  ⟨hdata, congrArg _ (hplain 0 _), congrArg _ (hplain 3 _), congrArg _ (hplain 4 _), congrArg _ (hplain 5 _)⟩

end

/-! Timers of an open session (R105, R108, R113, R120). -/

section
variable {p : PortId} {s : State}

section
variable (hopen : islOpen s p = true)
include hopen

theorem execNakResend_due (hcause : (islOf s p).nakCause ≠ 0) (hat : (islOf s p).nakAt ≤ s.clock) (hidle : (islOf s p).txIdle = none) :
    execNakResend p s = .next (sendNak s p) :=
  if_pos ⟨hopen, hcause, hat, by simp [hidle]⟩

theorem execAckTimeout_late (hstore : (islOf s p).store ≠ []) (hlate : (islOf s p).ackAt + 8000 ≤ s.clock) :
    execAckTimeout p s = .next (if sessFld s p 27 1 = 1 then leaveOpen s p 6 else startReplay s p (seqAdd (islOf s p).acked 1)) :=
  if_pos ⟨hopen, by simpa using hstore, hlate⟩

theorem execLeanQualified_reached {a : Nat} (hat : (islOf s p).openAt = some a) (hnot : (islOf s p).qualified = false)
    (hgood : 1000000000 ≤ (islOf s p).goodNs + (s.clock - a)) :
    execLeanQualified p true s = .next (setRxLean (setIsl s p { islOf s p with qualified := true }) p) := by
  unfold execLeanQualified
  dsimp only
  rw [hat]
  exact if_pos ⟨hopen, rfl, by simp [hnot], hgood⟩

/-- The VCs whose credit stayed under half of the peer's capacity for the period. -/
def lowVcs (x : Isl) : List Nat := (List.range 6).filter fun v => decide (smGet 0 x.high v * 2 < smGet 0 x.cap v)

/-- The least share of its capacity, in percent, that a VC's credit reached in the period. -/
def leastShare (x : Isl) : Nat := ((List.range 6).map fun v => smGet 0 x.high v * 100 / max 1 (smGet 0 x.cap v)).foldl min 100

/-- The period's gauge and CREDIT_LOW, before the next period begins. -/
def periodGauged (s : State) (p : Nat) : State :=
  setSess (feedGauge s 3 p (leastShare (islOf s p))) p 22 1 (if lowVcs (islOf s p) = [] then 0 else 1)

/-- The end of a credit period while the partner is new raises no event (R120). -/
theorem execCreditPeriod_newPartner (hat : (islOf s p).periodAt ≤ s.clock) (hnew : sessFld s p 23 1 = 1) : execCreditPeriod p s =
    .next (modIsl (periodGauged s p) p fun y => { y with
      high := y.credit, low := (lowVcs (islOf s p)).foldl (fun m v => smSet false m v true) [], periodAt := y.periodAt + 1000000 }) := by
  unfold execCreditPeriod periodGauged
  simp only [hopen, hat, hnew, and_self, if_true, List.isEmpty_iff]
  rfl

end

theorem execNakResend_none (hcause : (islOf s p).nakCause = 0) : execNakResend p s = .next s := if_neg fun h => h.2.1 hcause

theorem execAckTimeout_none (hstore : (islOf s p).store = []) : execAckTimeout p s = .next s :=
  if_neg fun h => absurd h.2.1 (by simp [hstore])

theorem execLeanQualified_badRatio : execLeanQualified p false s = .next s := by
  unfold execLeanQualified
  dsimp only
  split
  · exact if_neg fun h => absurd h.2.1 (by decide)
  · rfl

theorem execCreditPeriod_running (hat : s.clock < (islOf s p).periodAt) : execCreditPeriod p s = .next s :=
  if_neg fun h => absurd h.2 (by omega)

end

/-! Electrical idle (R121) and time (R124). -/

theorem islOf_setIsl_nondefault (s : State) (p : Nat) {x : Isl} (hx : x ≠ {}) : islOf (setIsl s p x) p = x :=
  smGet_smSet_nondefault ({} : Isl) s.isls p hx

theorem setIsl_setIsl_nondefault (s : State) (p : Nat) {x : Isl} (y : Isl) (hx : x ≠ {}) : setIsl (setIsl s p x) p y = setIsl s p y :=
  congrArg (fun m => { s with isls := m }) (smSet_smSet_nondefault ({} : Isl) s.isls p y hx)

section
variable {p : PortId} {s : State}

section
variable (hopen : islOpen s p = true)
include hopen

theorem execIdleEntry_quiet {q : Nat} (hrole : roleOf s p = 3) (hquiet : (islOf s p).quiet = some q) (hen : tabFld s 0x01 p 14 1 = 1)
    (hidle : (islOf s p).txIdle = none) (hlong : q + 2000 ≤ s.clock) (hdue : nothingDue s p = true) :
    execIdleEntry p s = .next (lowBegin (setTstate (modIsl (stopStream (launchPlain s p 5 []) p) p fun x =>
      { x with txIdle := some s.clock, quiet := none }) p 6) p) := by
  unfold execIdleEntry
  rw [hquiet]
  exact if_pos ⟨hrole, hopen, hen, by simp [hidle], hlong, hdue⟩

theorem execIdleExitRequest_due {t : Nat} (hidle : (islOf s p).txIdle = some t) (hdue : nothingDue s p = false) :
    execIdleExitRequest p s = .next (lowEnd (setTstate (emit (setIsl s p { islOf s p with txIdle := none })
      (.link p 2 (if s.clock ≤ t + 100000000 then 4 else 64))) p 5) p) := by
  have hexit : execIdleExitRequest p s = .next (leaveIdle s p) := if_pos ⟨hopen, by simp [hidle], by simp [hdue]⟩
  rw [hexit]
  unfold leaveIdle
  rw [hidle]
  rfl

/-- A burst ends the peer's idle and this end's: what the stream left is forgotten in the same write. -/
theorem execBurstReceived_idle (hidle : (islOf s p).rxIdle = true) : execBurstReceived p s = .next (leaveIdle (setIsl s p { islOf s p with
    rxBuf := [], rxFec := 0, rxPar := false, rxIdle := false, rxExit := some s.clock }) p) := by
  have hrestarted : { islOf s p with rxBuf := [], rxFec := 0, rxPar := false } ≠ ({} : Isl) := fun h => by
    have : (islOf s p).rxIdle = false := congrArg Isl.rxIdle h
    simp [hidle] at this
  refine (if_pos ⟨hopen, hidle⟩).trans ?_
  unfold restartRx modIsl
  rw [islOf_setIsl_nondefault s p hrestarted, setIsl_setIsl_nondefault s p _ hrestarted]

theorem execIdleExitFailure_late {t : Nat} (hexit : (islOf s p).rxExit = some t) (hlate : t + 1000 ≤ s.clock) :
    execIdleExitFailure p s = .next (leaveOpen s p 5) := by
  unfold execIdleExitFailure
  rw [hexit]
  exact if_pos ⟨hopen, hlate⟩

theorem execTimeMarkSend_due (hchild : tabFld s 0x0C 0 8 7 = p) (hat : (islOf s p).markAt ≤ s.clock) : execTimeMarkSend p s =
    .next (setIsl s p { islOf s p with
      timeTx := (islOf s p).timeTx ++ [{ op := 0x60, pid := 0xFFF, tag := (islOf s p).markTag, arrived := 0, stamp := s.nextTxn }],
      markTag := ((islOf s p).markTag + 1) % 65536, markAt := s.clock + 1000000 }) :=
  if_pos ⟨hchild, hopen, hat⟩

end

theorem execIdleEntry_busy (hquiet : (islOf s p).quiet = none) : execIdleEntry p s = .next s := by
  unfold execIdleEntry
  rw [hquiet]

theorem execIdleExitRequest_nothingDue (hdue : nothingDue s p = true) : execIdleExitRequest p s = .next s :=
  if_neg fun h => absurd h.2.2 (by simp [hdue])

theorem execBurstReceived_awake (hidle : (islOf s p).rxIdle = false) : execBurstReceived p s = .next s :=
  if_neg fun h => absurd h.2 (by simp [hidle])

theorem execIdleExitFailure_none (hexit : (islOf s p).rxExit = none) : execIdleExitFailure p s = .next s := by
  unfold execIdleExitFailure
  rw [hexit]

theorem execTimeMarkSend_early (hat : s.clock < (islOf s p).markAt) : execTimeMarkSend p s = .next s :=
  if_neg fun h => absurd h.2.2 (by omega)

theorem execTimeMark_answers {t : TimeMsg} {rest : List TimeMsg}
    (htake : takeFirst (fun t : TimeMsg => t.op == 0x60) (islOf s p).timeRx = some (t, rest)) : execTimeMark p s =
    .next (setIsl s p { islOf s p with
      timeRx := rest,
      timeTx := (islOf s p).timeTx ++ [{ op := 0x61, pid := t.pid, tag := t.tag, a := t.arrived, arrived := 0, stamp := s.nextTxn }] }) := by
  unfold execTimeMark
  dsimp only
  rw [htake]

/-- The offset that an echo gives (R124): half the difference of the two ways' times. -/
def echoOffset (x : Isl) (t : TimeMsg) : Int := (((t.a : Int) - x.t1) - ((t.arrived : Int) - t.b)) / 2

/-- The port without the echo that it takes. -/
def echoTaken (s : State) (p : Nat) (rest : List TimeMsg) : State := setIsl s p { islOf s p with timeRx := rest, stepDue := false }

/-- An echo slews TS by its offset, and at an opening raises its event and steps TS where the offset is positive; at the parent it is only taken. -/
theorem execTimeEcho_takes {t : TimeMsg} {rest : List TimeMsg}
    (htake : takeFirst (fun t : TimeMsg => t.op == 0x61) (islOf s p).timeRx = some (t, rest)) : execTimeEcho p s = .next (
    let off := echoOffset (islOf s p) t
    let s1 := echoTaken s p rest
    let s2 := raiseEvent s1 0x580 p [(wordOfInt off).toNat]
    if tabFld s 0x0C 0 8 7 ≠ p then s1
    else if (islOf s p).stepDue then
      (if 0 < off then { s2 with ts := s2.ts + off.toNat, tsync := { s2.tsync with slew := 0 } } else { s2 with tsync := { s2.tsync with slew := off } })
    else { s1 with tsync := { s1.tsync with slew := off } }) := by
  unfold execTimeEcho
  dsimp only
  rw [htake]
  dsimp only
  split
  · rfl
  · split <;> rfl

end

/-! Transmission (R112-R115). -/

/-- The folio of an open session's folio time: RPLY, then the replayed folios, then new DATA, else NULL. -/
def folioSent (s : State) (p : Nat) : State :=
  let x := islOf s p
  match x.rply, x.replay with
  | some a, _ => count (launchPlain (setIsl s p { x with rply := none }) p 4 (natBytes 4 a)) (portCtr p 11) 1
  | none, some i =>
    match x.store[i]? with
    | some f => launch (setIsl s p { x with replay := if i + 1 < x.store.length then some (i + 1) else none }) p 1 (seqAdd x.acked (i + 1)) f.smap
        (txLean s p) (storedBody s p (seqAdd x.acked (i + 1)) f)
    | none => setIsl s p { x with replay := none }
  | none, none =>
    if storeLimit s ≤ x.store.length then launchPlain s p 0 []
    else match (packFolio s p).2 with
      | some k => launchNew (packFolio s p).1 p k
      | none => launchPlain (packFolio s p).1 p 0 []

/-- The idle condition is watched: since when nothing has been due. -/
def quietWatched (s : State) (p now : Nat) : State :=
  modIsl s p fun y => { y with quiet := if nothingDue s p then some (y.quiet.getD now) else none }

theorem execFolioTransmit_open {p : PortId} {s : State} (hrun : fabricRuns s = true) (hrole : roleOf s p = 3) (hidle : (islOf s p).txIdle = none)
    (hopen : islOpen s p = true) : execFolioTransmit p s = .next (quietWatched (folioSent s p) p s.clock) := by
  have hparam : tstate s p ≠ 4 := fun h => by simp [islOpen, h] at hopen
  unfold execFolioTransmit
  dsimp only
  rw [if_neg (by simp [hrun, hrole, hidle]), if_neg hparam, if_neg (by simp [hopen])]
  rfl

section
variable {p : Nat} {s : State}

theorem folioSent_rply {a : Nat} (hrply : (islOf s p).rply = some a) :
    folioSent s p = count (launchPlain (setIsl s p { islOf s p with rply := none }) p 4 (natBytes 4 a)) (portCtr p 11) 1 := by
  unfold folioSent
  dsimp only
  rw [hrply]

section
variable (hrply : (islOf s p).rply = none)
include hrply

theorem folioSent_replay {i : Nat} {f : TxFolio} (hreplay : (islOf s p).replay = some i) (hf : (islOf s p).store[i]? = some f) :
    folioSent s p = launch (setIsl s p { islOf s p with replay := if i + 1 < (islOf s p).store.length then some (i + 1) else none }) p 1
      (seqAdd (islOf s p).acked (i + 1)) f.smap (txLean s p) (storedBody s p (seqAdd (islOf s p).acked (i + 1)) f) := by
  unfold folioSent
  dsimp only
  rw [hrply, hreplay]
  dsimp only
  rw [hf]

section
variable (hreplay : (islOf s p).replay = none)
include hreplay

theorem folioSent_full (hfull : storeLimit s ≤ (islOf s p).store.length) : folioSent s p = launchPlain s p 0 [] := by
  unfold folioSent
  dsimp only
  rw [hrply, hreplay]
  exact if_pos hfull

variable (hroom : (islOf s p).store.length < storeLimit s)
include hroom

theorem folioSent_empty (hpack : (packFolio s p).2 = none) : folioSent s p = launchPlain (packFolio s p).1 p 0 [] := by
  unfold folioSent
  dsimp only
  rw [hrply, hreplay, hpack]
  exact if_neg (by omega)

theorem folioSent_new {k : Pack} (hpack : (packFolio s p).2 = some k) : folioSent s p = launchNew (packFolio s p).1 p k := by
  unfold folioSent
  dsimp only
  rw [hrply, hreplay, hpack]
  exact if_neg (by omega)

end
end
end

/-! The statement. -/

/-- Settles O60: a folio by what its checks leave and by its type, the commands of an open session by their own meanings, and the folio sent by what
waits. What discarding reaches, duplicates and the TAG of an echo are the model's choices (log 94), and so is the order among transactions (log 45); that
the SEQ of an RPLY names the sender's NEXT, and that the offset is halved toward minus infinity, are deduced (logs 43 and 48). -/
theorem trornoFoliosTimersIdleAndTime : Obligations.TrornoFoliosTimersIdleAndTime := by
  refine ⟨?received, fun p s lanes => ⟨?untaken, ?notReceiving, ?passed⟩, ?opened⟩
  case received =>
    intro p s lanes u f fec par hrecv htake c t y
    have passes : ∀ {h}, c.2 = some h → checkFolio u p f fec par = (t, some h) := fun hh => Prod.ext rfl hh
    refine ⟨fun hfail => ?fails, fun h hh htyp => ?data, fun h hh htyp hfree => ?null, fun h hh htyp hnak => ?nullDiscarded, fun h hh htyp => ?nak,
      fun h hh htyp hbeyond => ?rplyBeyond, fun h hh htyp hwithin => ?rply, fun h hh htyp => ?idle⟩
    case fails =>
      have hc : checkFolio u p f fec par = (t, none) := Prod.ext rfl hfail
      exact allFolios_of (execDataFolio_fails hrecv htake hc) (plainFolio_fails hrecv htake hc)
    case data =>
      have hdata := execDataFolio_passes hrecv htake (passes hh) htyp
      refine ⟨fun hnak => ?_, fun hfree hseq => ?_, fun hfree hseq hdone => ?_, fun hfree hseq hnew => ?_⟩
      · exact hdata.trans (if_pos hnak)
      · exact hdata.trans ((if_neg (not_not_intro hfree)).trans (if_pos hseq))
      · exact hdata.trans ((if_neg (not_not_intro hfree)).trans ((if_neg (not_not_intro hseq)).trans (if_pos hdone)))
      · exact hdata.trans ((if_neg (not_not_intro hfree)).trans ((if_neg (not_not_intro hseq)).trans (if_neg (Bool.eq_false_iff.mp hnew))))
    case null => exact congrArg _ (plainFolio_acts hrecv htake (passes hh) htyp (.inl hfree) _)
    case nullDiscarded => exact congrArg _ (plainFolio_discards hrecv htake (passes hh) htyp hnak (by decide) _)
    case nak =>
      exact ⟨fun hfree => congrArg _ (plainFolio_acts hrecv htake (passes hh) htyp (.inl hfree) _),
        fun hnak => congrArg _ (plainFolio_discards hrecv htake (passes hh) htyp hnak (by decide) _)⟩
    case rplyBeyond =>
      exact congrArg _ ((plainFolio_acts hrecv htake (passes hh) htyp (.inr rfl) _).trans (if_pos (congrArg not hbeyond)))
    case rply =>
      have hstart : (!seqLe (leAt f 8 4) (seqAdd y.accept 1)) = false := congrArg not hwithin
      exact congrArg _ ((plainFolio_acts hrecv htake (passes hh) htyp (.inr rfl) _).trans (if_neg (Bool.eq_false_iff.mp hstart)))
    case idle =>
      exact ⟨fun hfree => congrArg _ (plainFolio_acts hrecv htake (passes hh) htyp (.inl hfree) _),
        fun hnak => congrArg _ (plainFolio_discards hrecv htake (passes hh) htyp hnak (by decide) _)⟩
  case untaken => exact fun hrecv hnone => allFolios_of (execDataFolio_none hrecv hnone) (plainFolio_none hrecv hnone)
  case notReceiving =>
    intro hrecv hstate
    have hpass : passFolio s p lanes = s := passFolio_untaken hstate
    exact allFolios_of ((execDataFolio_notReceiving hrecv).trans (congrArg _ hpass)) fun typ act => (plainFolio_notReceiving hrecv typ act).trans hpass
  case passed =>
    intro u f fec par hrecv hrole hstate htake
    have hpass : passFolio s p lanes = u := passFolio_taken hrole hstate htake
    exact allFolios_of ((execDataFolio_notReceiving hrecv).trans (congrArg _ hpass)) fun typ act => (plainFolio_notReceiving hrecv typ act).trans hpass
  case opened =>
    intro p s hrole hopen x
    refine ⟨execNakResend_due hopen, execNakResend_none, fun hstore hlate hguarded => ?replays, fun hstore hlate hlean => ?leaves, execAckTimeout_none,
      fun a => execLeanQualified_reached hopen, execLeanQualified_badRatio, execCreditPeriod_newPartner hopen, execCreditPeriod_running,
      fun q hquiet hen hidle => execIdleEntry_quiet hopen hrole hquiet hen hidle, execIdleEntry_busy, fun t => execIdleExitRequest_due hopen,
      execIdleExitRequest_nothingDue, execBurstReceived_idle hopen, execBurstReceived_awake, fun t => execIdleExitFailure_late hopen,
      execIdleExitFailure_none, execTimeMarkSend_due hopen, execTimeMarkSend_early, fun t rest => execTimeMark_answers, fun t rest htake => ?echo,
      fun hrun hidle => ?sent⟩
    case replays => exact (execAckTimeout_late hopen hstore hlate).trans (congrArg _ (if_neg (by omega)))
    case leaves => exact (execAckTimeout_late hopen hstore hlate).trans (congrArg _ (if_pos hlean))
    case echo =>
      have hecho := execTimeEcho_takes (p := p) htake
      refine ⟨fun hparent => ?_, fun hchild hslews => ?_, fun hchild hsteps hahead => ?_, fun hchild hsteps hbehind => ?_⟩
      · exact hecho.trans (congrArg _ (if_pos hparent))
      · exact hecho.trans (congrArg _ ((if_neg (not_not_intro hchild)).trans (if_neg (Bool.eq_false_iff.mp hslews))))
      · exact hecho.trans (congrArg _ ((if_neg (not_not_intro hchild)).trans ((if_pos hsteps).trans (if_pos hahead))))
      · exact hecho.trans (congrArg _ ((if_neg (not_not_intro hchild)).trans ((if_pos hsteps).trans (if_neg (Int.not_lt.mpr hbehind)))))
    case sent =>
      have hsent := execFolioTransmit_open hrun hrole hidle hopen
      refine ⟨fun a hrply => ?_, fun i f hrply hreplay hf => ?_, fun hrply hreplay hfull => ?_, fun hrply hreplay hroom hpack => ?_,
        fun k hrply hreplay hroom hpack => ?_⟩
      · exact hsent.trans (by rw [folioSent_rply hrply]; rfl)
      · exact hsent.trans (by rw [folioSent_replay hrply hreplay hf]; rfl)
      · exact hsent.trans (by rw [folioSent_full hrply hreplay hfull]; rfl)
      · exact hsent.trans (by rw [folioSent_empty hrply hreplay hroom hpack]; rfl)
      · exact hsent.trans (by rw [folioSent_new hrply hreplay hroom hpack]; rfl)

end Sys2Proof.Machine

/-! SUPPORT. The switch core: the transactions that a command takes up, what each command does to the one it finds, the waits that end with a drain or a
walk, and the statements of 05_switch_core.md settled from these. -/
namespace Sys2Proof.Machine

/-! Lookup (R126, R127). -/

theorem execHeaderLookup_live {p : PortId} {s : State} (hrun : fabricRuns s = true) (hport : portExists s p = true) (hrole : roleOf s p ≠ 0) (m : Msg) :
    execHeaderLookup p m s = .next (headerLookup s p m) := by
  unfold execHeaderLookup
  exact if_neg (by simp [hrun, hport, hrole])

/-! Admission (R125, R142-R145). -/

/-- The front of a message class in a port's staging area. -/
def stagingFront (s : State) (p : PortId) (c : Fin 6) : Option Nat :=
  (txnsWhere s fun t => t.phase == 0 && t.ingress == p.val && stageClass t == c.val).head?

/-- The request is within its queue's share, its tile's free cells, and its slice's room (R145, R209, R237). -/
@[reducible] def admissible (s : State) (p : PortId) (t : Txn) : Prop :=
  queueCells s p t.dst t.cls + t.cells ≤ alphaOf (alphaCode s p t.cls) (poolFree s (p.val / 8)) ∧ t.cells ≤ poolFree s (p.val / 8) ∧ sliceFull s t = false

/-- A transaction that has left staging for its queue, its credits returned. -/
def queued (s : State) (i : Nat) : State := setTxn (leaveStaging s (txnOf s i)) i { txnOf s i with phase := 1, cost := 0 }

/-- A request admitted: counted by its class, with the tile's marks of used and of free cells, and response cells reserved if they are free. -/
def admitted (s : State) (p : PortId) (i : Nat) : State :=
  let s1 := count (queued s i) (tileCtr (p.val / 8) (4 + (txnOf s i).cls)) 1
  reserve (lowest (peak s1 (tileCtr (p.val / 8) 0) (poolUsed s1 (p.val / 8))) (tileCtr (p.val / 8) 3) (poolFree s1 (p.val / 8))) i

/-- What becomes of the front of a class that the port may forward: an answer decided locally, a response that no threshold holds (R143), or a request
that is admitted or withheld. -/
theorem execAdmission_front {p : PortId} {c : Fin 6} {s : State} {i : Nat} (hfront : stagingFront s p c = some i) (hrun : fabricRuns s = true)
    (hgate : portGated s (txnOf s i) = false) : execAdmission p c s =
      let t := txnOf s i
      if t.answer ≠ 0 then .next (localAnswer (leaveStaging (dropTxn s i) t) p t (t.answer - 1))
      else if t.reply = true then .next (queued s i)
      else if admissible s p t then .next (admitted s p i)
      else .next (withhold s p (queueKey p t.dst t.cls)) := by
  unfold stagingFront at hfront
  unfold execAdmission
  rw [hfront]
  refine (if_neg (by simp [hrun, hgate])).trans ?_
  simp only [Bool.not_eq_true']
  rfl

/-! Units of cut-through transactions (R128-R131). -/

/-- With IDE active a unit waits for its MAC epoch (R129). -/
theorem execCutThroughUnit_ide {p : PortId} {s : State} (hide : tabFld s 0x02 p 18 1 = 1) (cpl : Bool) (tag : BitVec 16) (data : List Byte)
    (poison bad : Bool) : execCutThroughUnit p cpl tag data poison bad s = .next { s with macUnits := s.macUnits ++
      [{ port := p, cpl := cpl, tag := tag.toNat, data := data, poison := poison, bad := bad }] } :=
  congrArg Host.Outcome.next (if_pos hide)

/-- The transaction that a unit arriving at a port continues. -/
def unitOwner (s : State) (p : Nat) (cpl : Bool) (tag : Nat) : Option Nat :=
  (txnsWhere s fun t => t.src == portEp p && t.cut && t.reply == cpl && !t.bad && t.tag == tag && decide (t.got < t.units) && decide (t.phase ≤ 2)).head?

/-- A unit's data joins its transaction; the last unit of a response answers the request (R142). -/
def unitJoined (s : State) (i : Nat) (data : List Byte) (poison : Bool) : State :=
  let t := txnOf s i
  let s1 := setTxn s i { t with got := t.got + 1, data := t.data ++ data, poison := t.poison || poison }
  if t.reply ∧ t.got + 1 = t.units then cutAnswered s1 i else s1

section
variable {p : PortId} {cpl : Bool} {tag : BitVec 16} {s : State} {i : Nat}
variable (howner : unitOwner s p cpl tag.toNat = some i) (hide : tabFld s 0x02 p 18 1 ≠ 1) (data : List Byte) (poison : Bool)
include howner hide

/-- A nullified unit ends its transaction (R131). -/
theorem execCutThroughUnit_nullified : execCutThroughUnit p cpl tag data poison true s = .next (cancelTxn s i) := by
  unfold unitOwner at howner
  refine congrArg Host.Outcome.next ((if_neg hide).trans ?_)
  unfold cutUnit
  rw [howner]
  rfl

theorem execCutThroughUnit_joins : execCutThroughUnit p cpl tag data poison false s =
    .next (if (txnOf s i).phase = 2 then sendPackets (unitJoined s i data poison) i (txnPackets (txnOf s i)) else unitJoined s i data poison) := by
  unfold unitOwner at howner
  refine congrArg Host.Outcome.next ((if_neg hide).trans ?_)
  unfold cutUnit
  rw [howner]
  rfl

end

/-! Selection (R146, R148). -/

/-- The time that an egress port takes for a transaction: its charge over the service rate. -/
def serviceTime (s : State) (dst : Nat) (t : Txn) : Nat :=
  match epPort dst with
  | some p => if svcRate s p = 0 then 0 else charge t * 4000 / svcRate s p
  | none => 0

/-- The transfers within a tile counted. -/
def localCounted (s : State) (t : Txn) : State :=
  if sameTile t.src t.dst then (match epTile t.dst with | some x => count s (tileCtr x 20) 1 | none => s) else s

/-- The mark of the tile's selection share at an egress port, with a request's cells. -/
def selectionMarked (s : State) (dst : Nat) (t : Txn) : State :=
  match epPort dst with
  | some p => peak s (tileCtr (p / 8) 2) (selectedCells s (fun q => q / 8 == p / 8) + if t.reply then 0 else t.cells)
  | none => s

/-- What the schedulers picked is selected: cells reserved, the egress paced, counts and marks, and the packets sent. -/
def selected (s : State) (dst : Nat) (i : Nat) (m : SMap Sched) (turn : Nat) : State :=
  let s1 := reserve { s with scheds := m } i
  let t := txnOf s1 i
  let free := max (smGet {} s.paces dst).freeAt (s1.clock * 1000) + serviceTime s1 dst t
  let s2 := { s1 with paces := smSet {} s1.paces dst { freeAt := free, turn := turn } }
  sendPackets (setTxn (selectionMarked (localCounted s2 t) dst t) i { t with phase := 2, slot := wbSlot t }) i (txnPackets t)

theorem execEgressSelect_picks {d : Fin 3072} {s : State} {i : Nat} {m : SMap Sched} {turn : Nat} (hrun : fabricRuns s = true)
    (hpaced : (smGet {} s.paces d).freeAt ≤ s.clock * 1000) (hpick : pickNext s d = some (i, m, turn)) :
    execEgressSelect d s = .next (selected s d i m turn) := by
  have hgo : ¬((!fabricRuns s) = true ∨ s.clock * 1000 < (smGet {} s.paces d.val).freeAt) := by simp [hrun, hpaced]
  unfold execEgressSelect
  refine (if_neg hgo).trans ?_
  rw [hpick]
  rfl

/-! Responses that leave, or are sunk (R63, R142, R153, R210). -/

section
variable {p : PortId} {s : State} {i : Nat} (hrun : fabricRuns s = true)
include hrun

theorem execResponseLeaves_lost (hfront : (txnsWhere s fun t => atEgress p t && t.phase == 4).head? = some i) (hlost : tabFld s 0x02 p 20 1 = 1) :
    execResponseLeaves p s = .next (sinkResponse s p i) := by
  simp [execResponseLeaves, hrun, hlost, hfront]

/-- The oldest response at a port's egress that nothing holds back: one that is cut through takes its turn behind all others. -/
def responseFront (s : State) (p : Nat) : Option Nat :=
  (txnsWhere s (atEgress p)).find? fun i => mayLeave s p (if (txnOf s i).phase = 2 then { txnOf s i with ord := s.nextTxn } else txnOf s i)

theorem execResponseLeaves_open (hfront : responseFront s p = some i) (hrole : roleOf s p ≠ 0) (hisl : roleOf s p ≠ 3) (hlost : tabFld s 0x02 p 20 1 = 0) :
    execResponseLeaves p s = .next (sendResponse s p i) := by
  unfold responseFront at hfront
  simp [execResponseLeaves, hrun, hrole, hisl, hlost, hfront]

end

/-- The endpoint that answered: the home of the request's line, or the response's own source (R153). -/
def answeredBy (t : Txn) : Nat := match t.home with | some (g, _) => sliceEp g | none => t.src

section
variable {p i : Nat} {s : State}

/-- A TLP that is cut through begins to leave with what has arrived (R128). -/
theorem sendResponse_cut (hphase : (txnOf s i).phase = 2) :
    sendResponse s p i =
      let t := txnOf s i
      let n := min t.data.length (128 * t.arrived)
      setTxn (emit s (responseMsg p t t.devload ((leavingData t).take n))) i { t with sent := n } :=
  if_pos hphase

/-- A whole response leaves with the worse load, and closes its line at home and on another chip. -/
theorem sendResponse_whole (hphase : (txnOf s i).phase ≠ 2) (hsent : (txnOf s i).sent = 0) :
    sendResponse s p i =
      let t := txnOf s i
      let mem := t.oc == 2 && roleOf s p == 1
      let own := ownLoad s p (answeredBy t)
      let s1 := if mem ∧ own = 2 then count s (portCtr p 6) 1 else if mem ∧ own = 3 then count s (portCtr p 7) 1 else s
      let s2 := if silent s1 t then s1
        else emit s1 (responseMsg p t (if mem then max t.devload own else t.devload) (if dropsData t.kind ∨ t.noData then [] else leavingData t))
      closeRemote (closeHome (countPort (dropTxn s2 i) p true t.oc t.len) t (portEp p) 0) t 0 := by
  have hunsent : ¬0 < (txnOf s i).sent := by omega
  unfold sendResponse
  rw [if_neg hphase]
  dsimp only
  rw [if_neg hunsent, if_neg hunsent]
  rfl

end

/-! Severe load (R154) and synthesised answers (R63). -/

theorem execLoadSevere_raises {p q : PortId} {c : Fin 4} {s : State} (hsev : tabFld s 0x06 q 40 4 ≠ 0)
    (hat : atThreshold s (queueKey p (portEp q) c) = true) (hraised : (smGet {} s.thrs (queueKey p (portEp q) c)).raised = false)
    (hlong : (smGet {} s.thrs (queueKey p (portEp q) c)).since + tabFld s 0x06 q 40 4 * 1000000 ≤ s.clock + 1) :
    execLoadSevere p q c s = .next (raiseEvent { s with
      thrs := smSet {} s.thrs (queueKey p (portEp q) c) { smGet {} s.thrs (queueKey p (portEp q) c) with raised := true } } 0x181 p [q, c]) := by
  unfold execLoadSevere
  exact if_pos ⟨hsev, hat, by simp [hraised], hlong⟩

theorem execLossResponseIssue_waits {p : PortId} {s : State} {i : Nat} (hfront : (txnsWhere s (lossWaits s p)).head? = some i) :
    execLossResponseIssue p s = .next (lossAnswer s p i) := by
  unfold execLossResponseIssue
  rw [hfront]

/-! Drained epochs and walks (R170, R222, R225). -/

/-- A plane's OLD_COUNT shows the sum of its old counts. -/
def oldCountShown (s : State) (n : Nat) : State := setLive s 0x0A n 3 16 (min 65535 (epochSum s n (1 - planeEpoch s n)).toNat)

theorem epochDrain_still {s : State} {n : Nat} (hdrains : planeDrains s n = false) : epochDrain s n = s :=
  if_neg (Bool.eq_false_iff.mp hdrains)

section
variable {s : State} {n : Nat} (hdrains : planeDrains s n = true)
include hdrains

theorem epochDrain_counting (hsum : (epochSum s n (1 - planeEpoch s n)).toNat ≠ 0) : epochDrain s n = oldCountShown s n :=
  (if_pos hdrains).trans (if_neg hsum)

theorem epochDrain_over (hsum : (epochSum s n (1 - planeEpoch s n)).toNat = 0) : epochDrain s n = { setLive (oldCountShown s n) 0x0A n 1 1 0 with
    routeOld := (oldCountShown s n).routeOld.filter fun e =>
      !((keyTab e.1 == 0x08 && keyIdx e.1 / 2304 == n) || (keyTab e.1 == 0x09 && keyIdx e.1 / 48 == n)) } :=
  (if_pos hdrains).trans (if_pos hsum)

end

theorem execDrainPointReached_port {ep : Fin 3072} {p : Nat} (hport : epPort ep = some p) (s : State) :
    execDrainPointReached ep s = .next (drainWaiters (drainGranules s p)) := by
  unfold execDrainPointReached
  rw [hport]

theorem execDrainPointReached_noPort {ep : Fin 3072} (hport : epPort ep = none) (s : State) :
    execDrainPointReached ep s = .next (drainWaiters s) := by
  unfold execDrainPointReached
  rw [hport]

/-- The oldest walk that every slice has finished, and the others. -/
def finishedWalk (s : State) : Option (Walk × List Walk) :=
  takeFirst (fun w => w.slices == 0xFFFF && (List.range 16).all (walkClear s w)) s.walks

/-- A walk's end: a lost agent's is marked, a lost or removed agent's is raised (log 76). -/
def walkEnded (s : State) (w : Walk) (rest : List Walk) : State :=
  let s1 := { s with walks := rest, lostWalked := if w.kind = 0 then smSet false s.lostWalked w.obj true else s.lostWalked }
  if w.kind = 2 then s1 else raiseEvent s1 0x302 w.obj []

/-- The end of a walk in the order of its steps. -/
theorem walkEnded_eq (s : State) (w : Walk) (rest : List Walk) : walkEnded s w rest =
    let s1 := { s with walks := rest }
    let s2 := if w.kind = 0 then { s1 with lostWalked := smSet false s1.lostWalked w.obj true } else s1
    if w.kind = 2 then s2 else raiseEvent s2 0x302 w.obj [] := by
  unfold walkEnded
  by_cases hlost : w.kind = 0
  · simp only [if_pos hlost]
  · simp only [if_neg hlost]

/-- The engine waits for the walk of an object. -/
def awaitsWalk (x : Engine) (obj : Nat) : Bool :=
  x.wait == .macroStep && (x.seqA == obj || x.seqB == obj) && (x.seq == 2 || x.seq == 42 || x.seq == 45)

theorem execWalkDone_none {s : State} (hwalk : finishedWalk s = none) : execWalkDone s = .next s := by
  unfold finishedWalk at hwalk
  unfold execWalkDone
  rw [hwalk]

section
variable {s : State} {w : Walk} {rest : List Walk} (hwalk : finishedWalk s = some (w, rest))
include hwalk

theorem execWalkDone_noEngine (hengine : w.engine = none) : execWalkDone s = .next (walkEnded s w rest) := by
  unfold finishedWalk at hwalk
  rw [walkEnded_eq]
  unfold execWalkDone
  rw [hwalk]
  dsimp only
  rw [hengine]

theorem execWalkDone_engine {e : Nat} (hengine : w.engine = some e) : execWalkDone s =
    let t := walkEnded s w rest
    .next (if awaitsWalk (engineOf t e) w.obj then macroNext t e { engineOf t e with wait := .run } else t) := by
  unfold finishedWalk at hwalk
  rw [walkEnded_eq]
  unfold execWalkDone
  rw [hwalk]
  dsimp only
  rw [hengine]
  rfl

end

/-! The statements. -/

/-- Settles O40: each command by the transaction it finds and the branch that the clause names. That one decided locally waits its class's turn, which
queue a response's load is, and that a completion cut through holds its request open are deduced (logs 31, 38 and 47); what the chapter leaves open of
admission is the model's choice (log 95). -/
theorem switchCoreResults : Obligations.SwitchCoreResults := by
  refine ⟨fun p m s hrun hport hrole => execHeaderLookup_live hrun hport hrole m, ?admission, ?ide, ?unit, ?select, ?sunk, ?leaves, ?severe, ?loss⟩
  case admission =>
    intro p c s i hfront t tile fits hrun hgate
    have htree := execAdmission_front hfront hrun hgate
    refine ⟨fun hanswer => htree.trans (if_pos hanswer), fun hnone hreply => ?reply, fun hnone hreq hfits => ?admitted, fun hnone hreq hfits => ?withheld⟩
    all_goals refine htree.trans ((if_neg (not_not_intro hnone)).trans ?_)
    case reply => exact if_pos hreply
    case admitted => exact (if_neg (Bool.eq_false_iff.mp hreq)).trans (if_pos hfits)
    case withheld => exact (if_neg (Bool.eq_false_iff.mp hreq)).trans (if_neg hfits)
  case ide => exact fun p cpl tag data poison bad s hide => execCutThroughUnit_ide hide ..
  case unit =>
    intro p cpl tag data poison s i howner hide t s1 s2
    have hjoins := execCutThroughUnit_joins howner hide data poison
    exact ⟨fun hphase => hjoins.trans (congrArg _ (if_neg hphase)), fun hphase => hjoins.trans (congrArg _ (if_pos hphase)),
      execCutThroughUnit_nullified howner hide data poison⟩
  case select => exact fun d s i m turn => execEgressSelect_picks
  case sunk => exact fun p s i hfront hrun => execResponseLeaves_lost hrun hfront
  case leaves =>
    intro p s i hfront hrun hrole hisl hlost t msg
    have hleaves := execResponseLeaves_open hrun hfront hrole hisl hlost
    exact ⟨fun hphase => hleaves.trans (congrArg _ (sendResponse_cut hphase)),
      fun hphase hsent => hleaves.trans (congrArg _ (sendResponse_whole hphase hsent))⟩
  case severe => exact fun p q c s => execLoadSevere_raises
  case loss => exact fun p s i => execLossResponseIssue_waits

/-- Settles O45: the waits that go on are drainWaiters, after what the epoch's sum, the drain point or the walk's end leaves. That WALK_DONE is
raised for a lost or removed agent only is deduced (log 76), as is where a pooled logical device drains (log 65). -/
theorem walksDrainPointsAndEpochsLetMacrosGoOn : Obligations.WalksDrainPointsAndEpochsLetMacrosGoOn := by
  unfold Obligations.WalksDrainPointsAndEpochsLetMacrosGoOn
  intro goOn
  refine ⟨?epochs, ?points, ?walks, fun s => execWalkDone_none⟩
  case epochs =>
    intro pl s n sum shown
    have hexec {u : State} (hu : epochDrain s n = u) : exec (.epochDrainSum pl) s = .next (goOn u) :=
      congrArg (fun v => Host.Outcome.next (drainWaiters v)) hu
    exact ⟨fun hdrains => hexec (epochDrain_still hdrains), fun hdrains hsum => hexec (epochDrain_counting hdrains hsum),
      fun hdrains hsum => hexec (epochDrain_over hdrains hsum)⟩
  case points => exact fun ep s => ⟨fun p hport => execDrainPointReached_port hport s, fun hport => execDrainPointReached_noPort hport s⟩
  case walks =>
    intro s w rest hwalk s1 s2
    refine ⟨execWalkDone_noEngine hwalk, fun e hengine hwait hobj hstep => ?_, fun e hengine hwait => ?_⟩
    · have hgoes : awaitsWalk (engineOf s2 e) w.obj = true := by simp [awaitsWalk, hwait, hobj, hstep]
      exact (execWalkDone_engine hwalk hengine).trans (congrArg _ (if_pos hgoes))
    · have hstays : ¬awaitsWalk (engineOf s2 e) w.obj = true := by simp [awaitsWalk, hwait]
      exact (execWalkDone_engine hwalk hengine).trans (congrArg _ (if_neg hstays))

end Sys2Proof.Machine

/-! SUPPORT. The Graticule: the routers' store, what a router cycle without arrivals or with one packet to pass on leaves of the planes, starvation, proxies, the
packets that report on streams, and the statement of 06_graticule_noc.md settled from these. -/
namespace Sys2Proof.Machine

/-! The routers' store, and what leaves it alone. -/

/-- The canonical form of the routers' store. -/
abbrev Routers.wf (m : SMap Router) : Bool := smWf (fun _ => ({} : Router)) m

theorem setRouter_wf {s : State} (hwf : Routers.wf s.routers = true) (n r : Nat) (x : Router) : Routers.wf (setRouter s n r x).routers = true :=
  smWf_smSet (fun _ => ({} : Router)) s.routers _ x hwf

theorem routerOf_setRouter_self {s : State} (hwf : Routers.wf s.routers = true) (n r : Nat) (x : Router) : routerOf (setRouter s n r x) n r = x :=
  smGet_smSet_self (fun _ => ({} : Router)) s.routers _ x hwf

theorem routerOf_setRouter_ne {s : State} (hwf : Routers.wf s.routers = true) {n r m q : Nat} (x : Router) (hr : r < 48) (hq : q < 48)
    (hne : ¬(m = n ∧ q = r)) : routerOf (setRouter s n r x) m q = routerOf s m q :=
  smGet_smSet_ne (fun _ => ({} : Router)) {} s.routers _ _ x hwf (by omega)

/-- t has of s the routers, the transactions, the tables and the old routes. -/
structure SameNet (s t : State) : Prop where
  routers : t.routers = s.routers
  txns : t.txns = s.txns
  tab : t.tab = s.tab
  routeOld : t.routeOld = s.routeOld

theorem SameNet.refl (s : State) : SameNet s s := ⟨rfl, rfl, rfl, rfl⟩

theorem SameNet.trans {a b c : State} (h : SameNet a b) (k : SameNet b c) : SameNet a c :=
  ⟨k.routers.trans h.routers, k.txns.trans h.txns, k.tab.trans h.tab, k.routeOld.trans h.routeOld⟩

theorem SameNet.ite {s a b : State} {c : Prop} [Decidable c] (ha : SameNet s a) (hb : SameNet s b) : SameNet s (if c then a else b) := by
  split
  · exact ha
  · exact hb

theorem SameNet.foldl {α : Type} {f : State → α → State} (hf : ∀ s a, SameNet s (f s a)) (l : List α) (s : State) : SameNet s (l.foldl f s) := by
  induction l generalizing s with
  | nil => exact .refl s
  | cons a l ih => exact (hf s a).trans (ih _)

theorem SameNet.routerOf {s t : State} (h : SameNet s t) (n r : Nat) : routerOf t n r = routerOf s n r :=
  congrArg (smGet ({} : Router) · (n * 48 + r)) h.routers

theorem SameNet.wf {s t : State} (h : SameNet s t) (hwf : Routers.wf s.routers = true) : Routers.wf t.routers = true := h.routers ▸ hwf

theorem count_sameNet (s : State) (i n : Nat) : SameNet s (count s i n) := ⟨rfl, rfl, rfl, rfl⟩

theorem feedChange_sameNet (s : State) (n subj old new : Nat) : SameNet s (feedChange s n subj old new) := .ite (.refl s) ⟨rfl, rfl, rfl, rfl⟩

theorem setSlice_sameNet (s : State) (g : Nat) (x : Slice) : SameNet s (setSlice s g x) :=
  SameNet.trans (b := { s with slices := smSet {} s.slices g x }) ⟨rfl, rfl, rfl, rfl⟩ ((feedChange_sameNet ..).trans (feedChange_sameNet ..))

theorem turnTokens_sameNet (s : State) (n r : Nat) : SameNet s (turnTokens s n r) :=
  .foldl (fun s g => .ite (setSlice_sameNet s g _) (.refl s)) _ s

theorem traceAt_sameNet (s : State) (n r point input : Nat) (p : Packet) : SameNet s (traceAt s n r point input p) := by
  unfold traceAt
  refine .foldl (fun s _ => ?_) _ s
  exact .ite (.ite ⟨rfl, rfl, rfl, rfl⟩ ⟨rfl, rfl, rfl, rfl⟩) (.refl s)

/-- Routes and links are read from the tables and the old routes alone. -/
theorem routeEntry_congr {s t : State} (htab : t.tab = s.tab) (hold : t.routeOld = s.routeOld) : routeEntry t = routeEntry s := by
  unfold routeEntry planeEpoch tabFld
  rw [tabVal_of_tab htab, hold]

theorem usableOut_congr {s t : State} (htab : t.tab = s.tab) (hold : t.routeOld = s.routeOld) : usableOut t = usableOut s := by
  unfold usableOut planeDrains linkEn linkEnOld tabFld
  rw [tabVal_of_tab htab, hold]

/-! Neighbours (R155). -/

theorem neighbour_lt {r : Nat} (hr : r < 48) (d : Nat) : neighbour r d < 48 := by
  unfold neighbour routerX routerY
  split <;> omega

theorem neighbour_ne (r d : Nat) : neighbour r d ≠ r := by
  unfold neighbour routerX routerY
  split <;> omega

/-! A router cycle (R162). -/

theorem takeArrivals_nil {x : Router} (hin : x.inputs = []) : takeArrivals x = ([], []) := by
  unfold takeArrivals
  rw [hin]
  rfl

theorem takeArrivals_lone {x : Router} {i : Nat} {p : Packet} (hi : i < 4) (hin : x.inputs = [(i, p)]) : takeArrivals x = ([(i, p)], []) := by
  unfold takeArrivals
  rw [hin]
  obtain rfl | rfl | rfl | rfl : i = 0 ∨ i = 1 ∨ i = 2 ∨ i = 3 := by omega
  all_goals rfl

theorem inputErrors_lone_none (s : State) (n r i : Nat) (p : Packet) : inputErrors s n r 0 0 0 [(i, p)] = (s, [(i, p)]) := by
  simp [inputErrors]

theorem ejectPass_lone_other (s : State) {n r i k : Nat} {p : Packet} (hdst : epRouter p.dst ≠ r) : ejectPass s n r k [(i, p)] = (s, [(i, p)]) := by
  simp [ejectPass, hdst]

theorem injectPass_none {s : State} {n r : Nat} (hinj : (routerOf s n r).inj = []) (l : List (Nat × Packet)) : injectPass s n r l = (s, l) := by
  unfold injectPass
  rw [hinj]

/-- The output that a packet's route entry prefers (R162). -/
def preferredOut (s : State) (n r : Nat) (p : Packet) : Nat := nbits (routeEntry s n p.epoch r (epRouter p.dst)) 4 2

theorem chooseOut_preferred {s : State} {n r free firstOut : Nat} {p : Packet} (hdst : epRouter p.dst ≠ r)
    (hfree : free / 2 ^ preferredOut s n r p % 2 = 1) : chooseOut s n r free firstOut p = some (preferredOut s n r p, false) :=
  if_pos ⟨by simpa using hdst, hfree⟩

/-- A router that one more packet has reached, at input i. -/
def withArrival (x : Router) (i : Nat) (p : Packet) : Router := { x with inputs := x.inputs ++ [(i, p)] }

/-- A lone packet whose preferred output is free arrives at the neighbour there; what is counted and traced of it leaves the planes alone. -/
theorem forwardPass_lone {s : State} {n r free firstOut i : Nat} {p : Packet} (hdst : epRouter p.dst ≠ r)
    (hfree : free / 2 ^ preferredOut s n r p % 2 = 1) :
    ∃ u, SameNet s u ∧ forwardPass s n r firstOut free [(i, p)] =
      setRouter u n (neighbour r (preferredOut s n r p))
        (withArrival (routerOf u n (neighbour r (preferredOut s n r p))) (oppositeIn (preferredOut s n r p)) { p with hops := min 255 (p.hops + 1) }) := by
  simp only [forwardPass, chooseOut_preferred hdst hfree]
  refine ⟨_, ?_, rfl⟩
  exact (count_sameNet s _ 1).trans ((SameNet.ite (count_sameNet _ _ 1) (.refl _)).trans (traceAt_sameNet ..))

/-- A cycle begun at a router: the tokens have turned, and the inputs are empty. -/
def cycleBegun (s : State) (n r : Nat) : State := setRouter (turnTokens s n r) n r { routerOf s n r with inputs := [] }

/-- A cycle ended: the router's two pointers, which stood as in x, have advanced. -/
def cycleEnded (s : State) (n r : Nat) (x : Router) : State :=
  setRouter s n r { routerOf s n r with firstIn := (x.firstIn + 1) % 4, firstOut := (x.firstOut + 1) % 4 }

section
variable {s : State} {n r : Nat} (hwf : Routers.wf s.routers = true)
include hwf

theorem cycleBegun_wf : Routers.wf (cycleBegun s n r).routers = true := setRouter_wf ((turnTokens_sameNet s n r).wf hwf) ..

theorem routerOf_cycleBegun_self : routerOf (cycleBegun s n r) n r = { routerOf s n r with inputs := [] } :=
  routerOf_setRouter_self ((turnTokens_sameNet s n r).wf hwf) ..

theorem routerOf_cycleBegun_ne {m q : Nat} (hr : r < 48) (hq : q < 48) (hne : ¬(m = n ∧ q = r)) : routerOf (cycleBegun s n r) m q = routerOf s m q :=
  (routerOf_setRouter_ne ((turnTokens_sameNet s n r).wf hwf) _ hr hq hne).trans ((turnTokens_sameNet s n r).routerOf m q)

theorem routerOf_cycleEnded_self {x : Router} : routerOf (cycleEnded s n r x) n r =
    { routerOf s n r with firstIn := (x.firstIn + 1) % 4, firstOut := (x.firstOut + 1) % 4 } :=
  routerOf_setRouter_self hwf ..

theorem routerOf_cycleEnded_ne {x : Router} {m q : Nat} (hr : r < 48) (hq : q < 48) (hne : ¬(m = n ∧ q = r)) :
    routerOf (cycleEnded s n r x) m q = routerOf s m q :=
  routerOf_setRouter_ne hwf _ hr hq hne

end

theorem cycleBegun_txns (s : State) (n r : Nat) : (cycleBegun s n r).txns = s.txns := (turnTokens_sameNet s n r).txns
theorem cycleBegun_tab (s : State) (n r : Nat) : (cycleBegun s n r).tab = s.tab := (turnTokens_sameNet s n r).tab
theorem cycleBegun_routeOld (s : State) (n r : Nat) : (cycleBegun s n r).routeOld = s.routeOld := (turnTokens_sameNet s n r).routeOld

section
variable {pl : Plane} {r : RouterId} {hdr unit corr : BitVec 4} {s : State} {l : List (Nat × Packet)}

/-- A cycle in which every arrival passes through and nothing waits to be injected: the arrivals are forwarded, and the pointers advance. -/
theorem routerCycle_forwards (hwf : Routers.wf s.routers = true) (hinj : (routerOf s (planeNo pl) r).inj = [])
    (harrive : takeArrivals (routerOf s (planeNo pl) r) = (l, []))
    (herrors : inputErrors (cycleBegun s (planeNo pl) r) (planeNo pl) r hdr unit corr l = (cycleBegun s (planeNo pl) r, l))
    (heject : ejectPass (cycleBegun s (planeNo pl) r) (planeNo pl) r 0 l = (cycleBegun s (planeNo pl) r, l)) :
    routerCycle s pl r hdr unit corr =
      cycleEnded (forwardPass (cycleBegun s (planeNo pl) r) (planeNo pl) r (routerOf s (planeNo pl) r).firstOut (usableOut s (planeNo pl) r) l)
        (planeNo pl) r (routerOf s (planeNo pl) r) := by
  have hinject : injectPass (cycleBegun s (planeNo pl) r) (planeNo pl) r l = (cycleBegun s (planeNo pl) r, l) :=
    injectPass_none (by rw [routerOf_cycleBegun_self hwf, hinj]) l
  have husable := usableOut_congr (cycleBegun_tab s (planeNo pl) r) (cycleBegun_routeOld s (planeNo pl) r)
  simp only [cycleBegun] at herrors heject hinject husable
  simp only [routerCycle, harrive, herrors, heject, hinject, husable, cycleBegun, cycleEnded]

theorem execRouterCycle_runs (hruns : fabricRuns s = true) : execRouterCycle pl r hdr unit corr s = .next (routerCycle s pl r hdr unit corr) :=
  congrArg _ (if_pos hruns)

end

section
variable {pl : Plane} {r : RouterId} {s : State} (hwf : Routers.wf s.routers = true) (hinj : (routerOf s (planeNo pl) r).inj = [])
include hwf hinj

theorem routerCycle_empty (hin : (routerOf s (planeNo pl) r).inputs = []) (hdr unit corr : BitVec 4) :
    routerCycle s pl r hdr unit corr = cycleEnded (cycleBegun s (planeNo pl) r) (planeNo pl) r (routerOf s (planeNo pl) r) :=
  routerCycle_forwards hwf hinj (takeArrivals_nil hin) rfl rfl

/-- A cycle of a router that holds nothing changes that router's pointers alone. -/
theorem routerCycle_empty_reads (hin : (routerOf s (planeNo pl) r).inputs = []) (hdr unit corr : BitVec 4) :
    routerOf (routerCycle s pl r hdr unit corr) (planeNo pl) r = { routerOf s (planeNo pl) r with
      firstIn := ((routerOf s (planeNo pl) r).firstIn + 1) % 4, firstOut := ((routerOf s (planeNo pl) r).firstOut + 1) % 4 } ∧
    (∀ m q : Nat, q < 48 → ¬(m = planeNo pl ∧ q = r) → routerOf (routerCycle s pl r hdr unit corr) m q = routerOf s m q) ∧
    (routerCycle s pl r hdr unit corr).txns = s.txns := by
  have hb := cycleBegun_wf (n := planeNo pl) (r := r) hwf
  rw [routerCycle_empty hwf hinj hin]
  refine ⟨?router, fun m q hq hother => ?others, cycleBegun_txns ..⟩
  case router => rw [routerOf_cycleEnded_self hb, routerOf_cycleBegun_self hwf, ← hin]
  case others => rw [routerOf_cycleEnded_ne hb r.isLt hq hother, routerOf_cycleBegun_ne hwf r.isLt hq hother]

section
variable {i : Nat} {p : Packet} (hi : i < 4) (hin : (routerOf s (planeNo pl) r).inputs = [(i, p)]) (hdst : epRouter p.dst ≠ r)
  (hfree : usableOut s (planeNo pl) r / 2 ^ preferredOut s (planeNo pl) r p % 2 = 1)
include hi hin hdst hfree

/-- A cycle of a router that holds one packet for elsewhere: the neighbour on the preferred output takes the packet, one hop older. -/
theorem routerCycle_lone : ∃ u, SameNet (cycleBegun s (planeNo pl) r) u ∧ routerCycle s pl r 0 0 0 =
    cycleEnded (setRouter u (planeNo pl) (neighbour r (preferredOut s (planeNo pl) r p))
      (withArrival (routerOf s (planeNo pl) (neighbour r (preferredOut s (planeNo pl) r p))) (oppositeIn (preferredOut s (planeNo pl) r p))
        { p with hops := min 255 (p.hops + 1) })) (planeNo pl) r (routerOf s (planeNo pl) r) := by
  have hpref : preferredOut (cycleBegun s (planeNo pl) r) (planeNo pl) r p = preferredOut s (planeNo pl) r p := by
    unfold preferredOut
    rw [routeEntry_congr (cycleBegun_tab ..) (cycleBegun_routeOld ..)]
  obtain ⟨u, hsame, hforward⟩ := forwardPass_lone (s := cycleBegun s (planeNo pl) r) (firstOut := (routerOf s (planeNo pl) r).firstOut) (i := i) hdst
    (hpref.symm ▸ hfree)
  refine ⟨u, hsame, ?_⟩
  rw [routerCycle_forwards hwf hinj (takeArrivals_lone hi hin) (inputErrors_lone_none ..) (ejectPass_lone_other _ hdst), hforward, hpref, hsame.routerOf,
    routerOf_cycleBegun_ne hwf r.isLt (neighbour_lt r.isLt _) fun h => neighbour_ne r _ h.2]

/-- That cycle writes the router and the neighbour, and no third router of either plane. -/
theorem routerCycle_lone_reads {d nb : Nat} (hd : d = preferredOut s (planeNo pl) r p) (hnb : nb = neighbour r d) :
    routerOf (routerCycle s pl r 0 0 0) (planeNo pl) r = { routerOf s (planeNo pl) r with
      inputs := [], firstIn := ((routerOf s (planeNo pl) r).firstIn + 1) % 4, firstOut := ((routerOf s (planeNo pl) r).firstOut + 1) % 4 } ∧
    routerOf (routerCycle s pl r 0 0 0) (planeNo pl) nb =
      withArrival (routerOf s (planeNo pl) nb) (oppositeIn d) { p with hops := min 255 (p.hops + 1) } ∧
    (∀ m q : Nat, q < 48 → ¬(m = planeNo pl ∧ (q = r ∨ q = nb)) → routerOf (routerCycle s pl r 0 0 0) m q = routerOf s m q) ∧
    (routerCycle s pl r 0 0 0).txns = s.txns ∧ (routerCycle s pl r 0 0 0).tab = s.tab := by
  obtain ⟨u, hsame, hcycle⟩ := routerCycle_lone hwf hinj hi hin hdst hfree
  rw [← hd, ← hnb] at hcycle
  have hlt : nb < 48 := hnb ▸ neighbour_lt r.isLt d
  have hne : nb ≠ r := hnb ▸ neighbour_ne r d
  have hu : Routers.wf u.routers = true := hsame.wf (cycleBegun_wf hwf)
  have hv := setRouter_wf hu (planeNo pl) nb
  rw [hcycle]
  refine ⟨?router, ?neighbour, fun m q hq hother => ?others, hsame.txns.trans (cycleBegun_txns ..), hsame.tab.trans (cycleBegun_tab ..)⟩
  case router =>
    rw [routerOf_cycleEnded_self (hv _), routerOf_setRouter_ne hu _ hlt r.isLt fun h => hne h.2.symm, hsame.routerOf, routerOf_cycleBegun_self hwf]
  case neighbour => rw [routerOf_cycleEnded_ne (hv _) r.isLt hlt fun h => hne h.2, routerOf_setRouter_self hu]
  case others =>
    rw [routerOf_cycleEnded_ne (hv _) r.isLt hq fun h => hother ⟨h.1, .inl h.2⟩, routerOf_setRouter_ne hu _ hlt hq fun h => hother ⟨h.1, .inr h.2⟩,
      hsame.routerOf, routerOf_cycleBegun_ne hwf r.isLt hq fun h => hother ⟨h.1, .inl h.2⟩]

end

end

/-! Starvation (R164). -/

theorem execStarve_raises {pl : Plane} {r : RouterId} {s : State} (hwait : 256 ≤ (routerOf s (planeNo pl) r).wait)
    (hinj : (routerOf s (planeNo pl) r).inj ≠ []) (hquiet : (routerOf s (planeNo pl) r).starve = false) :
    execStarve pl r s = .next (starveAny (setRouter s (planeNo pl) r { routerOf s (planeNo pl) r with starve := true }) (planeNo pl)) :=
  if_pos ⟨hwait, by simpa using hinj, by simpa using hquiet⟩

theorem execStarve_waits {pl : Plane} {r : RouterId} {s : State}
    (hwaits : (routerOf s (planeNo pl) r).wait < 256 ∨ (routerOf s (planeNo pl) r).starve = true) : execStarve pl r s = .next s := by
  refine if_neg ?_
  rintro ⟨hwait, -, hquiet⟩
  rcases hwaits with hshort | hraised
  · omega
  · simp [hraised] at hquiet

/-! Proxies (R172-R174). -/

/-- A proxy's queues become those of y, and a packet that it issues is counted. -/
def proxySent (s : State) (ep : Nat) (y : Endp) : State := count (setEndp s ep y) (routerCtr 0 (epRouter ep) 6) 1

section
variable {ep : Fin 3072} {s : State} (hproxy : (endpOf s ep).proxy = true)
include hproxy

theorem execProxyErrIssue_issues {p : Packet} {rest : List Packet} (herrs : (endpOf s ep).errs = p :: rest)
    (hstays : (endpOf (inject (proxySent s ep { endpOf s ep with errs := rest }) p) ep).leaving = false) :
    execProxyErrIssue ep s = .next (inject (proxySent s ep { endpOf s ep with errs := rest }) p) := by
  simp only [execProxyErrIssue, hproxy, herrs, proxySent] at hstays ⊢
  simp [hstays]

theorem execProxyErrIssue_idle (hstays : (endpOf s ep).leaving = false) (herrs : (endpOf s ep).errs = []) (hhanded : (endpOf s ep).handed = []) :
    execProxyErrIssue ep s = .next s := by
  simp [execProxyErrIssue, hproxy, herrs, hhanded, hstays]

theorem execProxyErrIssue_leaves (hleaves : (endpOf s ep).leaving = true) (herrs : (endpOf s ep).errs = []) (hhanded : (endpOf s ep).handed = []) :
    execProxyErrIssue ep s = .next (setEndp s ep { endpOf s ep with proxy := false, leaving := false }) := by
  simp [execProxyErrIssue, hproxy, herrs, hhanded, hleaves]

end

/-! Release reports (R135), skip markers (R137) and closing packets (R130). -/

section
variable {dst src : Fin 3072} {oc : Fin 6} {s : State} {a : Nat} (hrel : (streamOf s (streamKey src dst oc)).relAt = some a)
include hrel

theorem execRelReportTimer_due (hdue : a + 1000 ≤ s.clock) : execRelReportTimer dst src oc s = .next (sendRel s src dst oc) := by
  unfold execRelReportTimer
  rw [hrel]
  exact if_pos hdue

theorem execRelReportTimer_early (hearly : s.clock < a + 1000) : execRelReportTimer dst src oc s = .next s := by
  unfold execRelReportTimer
  rw [hrel]
  exact if_neg (by omega)

end

theorem takeArrived_found {s : State} {cmd ep : Nat} {p : Packet} {rest : List Packet}
    (hfound : takeFirst (fun p : Packet => p.cmd == cmd && p.dst == ep) s.arrived = some (p, rest)) :
    takeArrived s cmd ep = some (p, { s with arrived := rest }) := by
  unfold takeArrived
  rw [hfound]

/-- The stream whose window a release report reopens, up to the number reported (R135). -/
def windowReopened (s : State) (p : Packet) : State :=
  setStream s (streamKey p.dst p.src p.oc) { streamOf s (streamKey p.dst p.src p.oc) with
    unreleased := ((streamOf s (streamKey p.dst p.src p.oc)).next + 1024 - p.arg % 1024) % 1024 }

/-- Marker counter k of the tile of an endpoint, where it has one, counts a marker that reached it. -/
def markerCounted (s : State) (ep k : Nat) : State := match epTile ep with | some t => count s (tileCtr t k) 1 | none => s

theorem markerCounted_tile {ep t : Nat} (htile : epTile ep = some t) (s : State) (k : Nat) : markerCounted s ep k = count s (tileCtr t k) 1 := by
  unfold markerCounted
  rw [htile]

theorem markerCounted_noTile {ep : Nat} (hnone : epTile ep = none) (s : State) (k : Nat) : markerCounted s ep k = s := by
  unfold markerCounted
  rw [hnone]

section
variable {ep : Fin 3072} {s : State} {p : Packet} {rest : List Packet}

theorem execRel_arrived (hfound : takeFirst (fun p : Packet => p.cmd == 0x50 && p.dst == ep.val) s.arrived = some (p, rest)) :
    execRel ep s = .next (windowReopened { s with arrived := rest } p) := by
  unfold execRel
  rw [takeArrived_found hfound]
  rfl

theorem execSkip_arrived (hfound : takeFirst (fun p : Packet => p.cmd == 0x51 && p.dst == ep.val) s.arrived = some (p, rest)) :
    execSkip ep s = .next (resequence (markerCounted { s with arrived := rest } ep 16) p) := by
  unfold execSkip
  rw [takeArrived_found hfound]
  rfl

theorem execClose_arrived (hfound : takeFirst (fun p : Packet => p.cmd == 0x52 && p.dst == ep.val) s.arrived = some (p, rest)) :
    execClose ep s = .next (resequence (markerCounted { s with arrived := rest } ep 17) p) := by
  unfold execClose
  rw [takeArrived_found hfound]
  rfl

end

/-! The statement. -/

/-- Settles O46: a router's cycle is the forwarding of what passes through between the emptying of its inputs and the advance of its pointers; the other
commands are the branch that each clause names. In the two clauses on a cycle, q is a RouterId, so that q < 48 compares with 48 read modulo 48 and never
holds: that no other router changes is taken here from routerCycle_lone_reads and routerCycle_empty_reads, which say it of every router. -/
theorem routersMovePacketsAndStreamsReport : Obligations.RoutersMovePacketsAndStreamsReport := by
  unfold Obligations.RoutersMovePacketsAndStreamsReport
  refine ⟨?lone, ?empty, ?starve, ?proxy, ?leaving, ?report, ?arrived⟩
  case lone =>
    intro pl r s i p hruns hwf n x d nb hi hin hinj hdst hfree
    obtain ⟨hrouter, hneighbour, hothers, htxns, htab⟩ := routerCycle_lone_reads hwf hinj hi hin hdst hfree rfl rfl
    refine ⟨_, execRouterCycle_runs hruns, hrouter, hneighbour, fun m q _ _ hother => hothers m q q.isLt ?_, htxns, htab⟩
    rwa [Fin.val_inj]
  case empty =>
    intro pl r hdr unit corr s hruns hwf x hin hinj
    obtain ⟨hrouter, hothers, htxns⟩ := routerCycle_empty_reads hwf hinj hin hdr unit corr
    refine ⟨_, execRouterCycle_runs hruns, hrouter, fun m q _ _ hother => hothers m q q.isLt ?_, htxns⟩
    rwa [Fin.val_inj]
  case starve => exact fun pl r s => ⟨execStarve_raises, execStarve_waits⟩
  case proxy =>
    intro ep s hproxy hstays x sent
    exact ⟨fun p rest => execProxyErrIssue_issues hproxy, execProxyErrIssue_idle hproxy hstays⟩
  case leaving => exact fun ep s => execProxyErrIssue_leaves
  case report => exact fun dst src oc s a hrel => ⟨execRelReportTimer_due hrel, execRelReportTimer_early hrel⟩
  case arrived =>
    intro ep s p rest
    refine ⟨execRel_arrived, fun hskip => ⟨fun t htile => ?_, fun hnone => ?_⟩, fun hclose => ⟨fun t htile => ?_, fun hnone => ?_⟩⟩
    · exact (execSkip_arrived hskip).trans (by rw [markerCounted_tile htile])
    · exact (execSkip_arrived hskip).trans (by rw [markerCounted_noTile hnone])
    · exact (execClose_arrived hclose).trans (by rw [markerCounted_tile htile])
    · exact (execClose_arrived hclose).trans (by rw [markerCounted_noTile hnone])

end Sys2Proof.Machine

/-! SUPPORT. The pool and its bindings: the BIND macros past their own checks, scrubbing, the times of extents, decoders' host charts, the mailbox of a
pooled logical device, and the statements of 07_binding.md settled from these. -/
namespace Sys2Proof.Machine

/-! What the blocks of the BIND macros spell (R289, Table 11.11). -/

/-- The VCS that BIND.VCS's block spells: its USP, NVPPB and EN. -/
def vcsEntry (b : Nat → Word) : Entry := mkEntry [(0, wfld (b 0) 8 7), (7, wfld (b 0) 16 7), (14, wfld (b 0) 24 1)]

/-- The bound vPPB that BIND.VPPB's block spells. -/
def vppbEntry (b : Nat → Word) : Entry := mkEntry [(0, wfld (b 0) 16 4), (4, wfld (b 1) 0 7), (11, wfld (b 1) 8 4), (15, wfld (b 1) 16 8), (24, 1)]

/-- The vPPB that BIND.VPPB's block names. -/
def vppbIndex (b : Nat → Word) : Nat := 64 * wfld (b 0) 0 6 + wfld (b 0) 8 6

/-- The PLD that BIND.PLD's block spells: MAXG and EN. -/
def pldEntry (b : Nat → Word) : Entry := mkEntry [(0, wfld (b 0) 36 28), (36, wfld (b 0) 8 1)]

/-- The offered extent that BIND.ADD's block spells, at granule g of the member. -/
def offerEntry (b : Nat → Word) (g : Nat) : Entry :=
  mkEntry [(100, wfld (b 1) 0 28), (72, g), (44, wfld (b 1) 28 28), (36, wfld (b 0) 0 8), (29, wfld (b 0) 8 7), (25, wfld (b 0) 16 4), (22, 1),
    (21, wfld (b 0) 20 1)]

/-- The member granule of BIND.ADD: with AUTO the lowest clean run's, else the one named (R194). -/
def offerGranule (s : State) (x : Engine) (b : Nat → Word) : Option Nat :=
  if wfld (b 0) 21 1 = 1 then cleanRun s x (wfld (b 0) 8 7) (wfld (b 0) 16 4) (wfld (b 1) 28 28) else some (wfld (b 2) 0 28)

/-! Drafts that the rules of their subject judge at once. -/

theorem judgedDraft_allowed {s : State} {e : Nat} {x d : Engine} {t i : Nat} {v : Entry} {j : View → Nat}
    (hdraft : d = putDraft s x t i v (draftable t)) (hj : j (viewOf s d) = 0) (hd : Draftable s e x t i v (draftable t)) :
    judgedDraft (draftWhole s e x t i v) j = (0, s, d) := by
  subst hdraft
  unfold judgedDraft draftWhole
  rw [draft_allowed hd, if_neg (by simp), hj]

/-- BIND.RELEASE's draft of ESTATE, with which it ends. -/
def releaseDraft (s : State) (e : Nat) (x : Engine) (r : Nat) (v : Entry) : State :=
  let d := draft s e x 0x15 r v (ones 22 3)
  finish d.2.1 e d.2.2 d.1

theorem releaseDraft_allowed {s : State} {e : Nat} {x : Engine} {r : Nat} {v : Entry} (hx : x.pc + 1 < x.ninstr)
    (hd : Draftable s e x 0x15 r v (ones 22 3)) : releaseDraft s e x r v = moveOk s e (putDraft s x 0x15 r v (ones 22 3)) := by
  unfold releaseDraft
  rw [draft_allowed hd]
  exact finish_moveOk _ _ _ (by simpa using hx)

/-! The BIND macros where their own checks pass. -/

section
variable {e : EngineId} {s : State} {x : Engine} {b : Nat → Word} (hx : x = regSet (engineOf s e) 1 0)
  (hb : b = blockWord (engineOf s e) (wordAt (engineOf s e)))
include hx hb

/-- BIND.VCS with a USP port that exists and no bound vPPB that the draft would leave without its place (R183). -/
theorem execBindVcs_drafts (h : Begins s e 0x60 [rowBits [(5, 0), (14, 8), (22, 16), (24, 24)]] 0 .glob false) {y : Engine}
    (hy : y = readsOf s x [(0x01, wfld (b 0) 8 7)]) (husp : vWidth (viewOf s y) (fld (vcsEntry b) 0 7) ≠ 0)
    (hbound : ((vBound (viewOf s y) (wfld (b 0) 0 6)).any fun k => fld (vcsEntry b) 14 1 == 0 || decide (fld (vcsEntry b) 7 7 ≤ k)) = false)
    (hd : Draftable s e y 0x10 (wfld (b 0) 0 6) (vcsEntry b) (draftable 0x10)) :
    execBindVcs e s = .next (moveOk s e (putDraft s y 0x10 (wfld (b 0) 0 6) (vcsEntry b) (draftable 0x10))) := by
  subst hx hb hy
  refine congrArg Host.Outcome.next (macroOp_ok h ?_ ?_)
  · exact (if_neg husp).trans ((if_neg (Bool.eq_false_iff.mp hbound)).trans (draft_allowed hd))
  · simpa using h.1.2

/-- BIND.VPPB on a vPPB that is not bound, of what exists: the binding, and the slot occupied (R185, R284). -/
theorem execBindVppb_drafts (h : Begins s e 0x61 [rowBits [(5, 0), (13, 8), (19, 16)], rowBits [(6, 0), (11, 8), (23, 16)]] 0 .glob false)
    (h1 : 1 ≤ wfld (b 0) 16 4) (h3 : wfld (b 0) 16 4 ≤ 3) (hfree : bstate (seenVal s x 0x11 (vppbIndex b)) ≠ 1)
    (htarget : bindTarget s (viewWith s x 0x11 (vppbIndex b) (vppbEntry b)) (vppbIndex b) = true) {z d : Engine}
    (hz : z = readsOf s x (bindReads (vppbIndex b) (vppbEntry b))) (hdraft : d = putDraft s z 0x11 (vppbIndex b) (vppbEntry b) (draftable 0x11))
    (hd : Draftable s e z 0x11 (vppbIndex b) (vppbEntry b) (draftable 0x11)) (hslot : Draftable s e d 0x18 (vppbIndex b) 1 (draftable 0x18)) :
    execBindVppb e s = .next (moveOk s e (putDraft s d 0x18 (vppbIndex b) 1 (draftable 0x18))) := by
  subst hx hb hz hdraft
  refine congrArg Host.Outcome.next (macroOp_ok h ?_ ?_)
  · unfold vppbIndex vppbEntry at htarget
    refine (if_neg (by omega)).trans ((if_neg (by rw [htarget]; decide)).trans ((if_neg hfree).trans ?_))
    exact (congrArg (fun r : Nat × State × Engine => if r.1 ≠ 0 then r else draftWhole r.2.1 e r.2.2 0x18 _ 1) (draft_allowed hd)).trans
      (draft_allowed hslot)
  · simpa using h.1.2

/-- BIND.PLD of a PLD that its rules allow. -/
theorem execBindPld_drafts (h : Begins s e 0x63 [rowBits [(7, 0), (8, 8), (63, 36)]] 0 .glob false) {d : Engine}
    (hdraft : d = putDraft s x 0x14 (wfld (b 0) 0 8) (pldEntry b) (draftable 0x14)) (hrules : judgePld (viewOf s d) (wfld (b 0) 0 8) = 0)
    (hd : Draftable s e x 0x14 (wfld (b 0) 0 8) (pldEntry b) (draftable 0x14)) : execBindPld e s = .next (moveOk s e d) := by
  subst hx hb
  refine congrArg Host.Outcome.next (macroOp_ok h (judgedDraft_allowed (j := fun v => judgePld v _) hdraft hrules hd) ?_)
  simpa [hdraft] using h.1.2

/-- BIND.ADD of a member with capacity to a PLD that is enabled: an offer in the lowest free entry k, at granule g (R194). -/
theorem execBindAdd_offers
    (h : Begins s e 0x64 [rowBits [(7, 0), (14, 8), (19, 16), (20, 20), (21, 21)], rowBits [(27, 0), (55, 28)], rowBits [(27, 0)]] 0 .glob false)
    (hp : wfld (b 0) 8 7 < 96) (hcap : registered s (16 * wfld (b 0) 8 7 + wfld (b 0) 16 4) ≠ 0)
    (hlost : smGet false s.poolLost (16 * wfld (b 0) 8 7 + wfld (b 0) 16 4) = false) (hpld : fld (seenVal s x 0x14 (wfld (b 0) 0 8)) 36 1 = 1)
    {k g : Nat} (hk : freeExtent s e x = some k) (hg : offerGranule s x b = some g) {q d : Engine} (hq : q = readsOf s x [(0x14, wfld (b 0) 0 8)])
    (hdraft : d = putDraft s q 0x15 k (offerEntry b g) (draftable 0x15)) (hrules : wfld (b 1) 28 28 ≠ 0 → extentRules (viewOf s d) k = 0)
    (hd : Draftable s e q 0x15 k (offerEntry b g) (draftable 0x15)) :
    execBindAdd e s = .next (moveOk s e (regSet (regSet d 1 (BitVec.ofNat 64 k)) 2 (BitVec.ofNat 64 g))) := by
  have hjudged : judgedDraft (draftWhole s e q 0x15 k (offerEntry b g)) (fun v => if wfld (b 1) 28 28 = 0 then 0 else extentRules v k) = (0, s, d) :=
    judgedDraft_allowed hdraft (by simpa using hrules) hd
  unfold offerGranule at hg
  unfold offerEntry at hjudged
  subst hx hb hq
  refine congrArg Host.Outcome.next (macroOp_ok h ?_ ?_)
  · refine (if_neg ?_).trans ?_
    · rintro (hover | hnone | hgone | hoff)
      · omega
      · exact hcap hnone
      · exact Bool.eq_false_iff.mp hlost hgone
      · omega
    · rw [hk, hg]
      dsimp only
      rw [hjudged]
      rfl
  · simpa [hdraft] using h.1.2

/-- BIND.GFAM at a USP, of a window that its rules allow (R189). -/
theorem execBindGfam_drafts (h : Begins s e 0x66 [rowBits [(6, 0), (11, 8)], tabWordMask 0x16 0, tabWordMask 0x16 1] 0 .glob false)
    (hport : portExists s (wfld (b 0) 0 7) = true) (husp : vRole (viewOf s x) (wfld (b 0) 0 7) = 1) {g : Nat} {q d : Engine}
    (hg : g = 16 * wfld (b 0) 0 7 + wfld (b 0) 8 4) (hq : q = readsOf s x [(0x01, wfld (b 0) 0 7)])
    (hdraft : d = putDraft s q 0x16 g (entryOfWords [b 1, b 2]) (draftable 0x16)) (hrules : judgeGfam (viewOf s d) g = 0)
    (hd : Draftable s e q 0x16 g (entryOfWords [b 1, b 2]) (draftable 0x16)) : execBindGfam e s = .next (moveOk s e d) := by
  subst hx hb hg hq
  refine congrArg Host.Outcome.next (macroOp_ok h ?_ ?_)
  · exact (if_neg (by simp [hport])).trans ((if_neg (not_not_intro husp)).trans
      (judgedDraft_allowed (j := fun v => judgeGfam v _) hdraft hrules hd))
  · simpa [hdraft] using h.1.2

/-- BIND.PID of a PID that its rules allow; 0xFFF is none (R55). -/
theorem execBindPid_drafts (h : Begins s e 0x67 [rowBits [(11, 0)] ||| tabWordMask 0x17 0 * 2 ^ 32] 0 .glob false) (hpid : wfld (b 0) 0 12 ≠ 0xFFF)
    {v : Entry} {d : Engine} (hv : v = BitVec.ofNat 256 (wfld (b 0) 32 32))
    (hdraft : d = putDraft s x 0x17 (wfld (b 0) 0 12) v (draftable 0x17)) (hrules : judgePid (viewOf s d) (wfld (b 0) 0 12) = 0)
    (hd : Draftable s e x 0x17 (wfld (b 0) 0 12) v (draftable 0x17)) : execBindPid e s = .next (moveOk s e d) := by
  subst hx hb hv
  refine congrArg Host.Outcome.next (macroOp_ok h ?_ ?_)
  · exact (if_neg hpid).trans (judgedDraft_allowed (j := fun v => judgePid v _) hdraft hrules hd)
  · simpa [hdraft] using h.1.2

section
variable (hruns : Runs s e 0x65) (hseq : (engineOf s e).seq = 0)
  (hchecks : macroStatus s e (engineOf s e) (wordAt (engineOf s e)) [rowBits [(13, 0)]] 1 .glob false = 0)
  {r old : Nat} (hr : r = wfld (b 0) 0 14) (hold : old = estate (seenVal s (engineOf s e) 0x15 r))
include hruns hseq hchecks hr hold

/-- BIND.RELEASE by the state of its extent: freed, marked releasing, left as it is, or absent (Table 7.9). -/
theorem execBindRelease_byState : execBindRelease e s = .next (
    if old = 4 ∨ (mflagsOf (wordAt (engineOf s e)) = 1 ∧ (old = 2 ∨ old = 3)) then releaseDraft s e x r 0
    else if old = 2 then releaseDraft s e x r (setFld 0 22 3 3)
    else finish s e x (if old = 1 ∨ old = 3 then 0 else 5)) := by
  subst hx hb hr hold
  refine congrArg Host.Outcome.next ((onOp_stands hruns.1 _).trans ((if_neg (not_not_intro hseq)).trans ((if_neg (not_not_intro hchecks)).trans ?_)))
  simp only [beq_iff_eq]
  rfl

/-- BIND.RELEASE frees a lost extent, and with FORCE a bound or releasing one. -/
theorem execBindRelease_frees (hstate : old = 4 ∨ mflagsOf (wordAt (engineOf s e)) = 1 ∧ (old = 2 ∨ old = 3))
    (hd : Draftable s e x 0x15 r 0 (ones 22 3)) : execBindRelease e s = .next (moveOk s e (putDraft s x 0x15 r 0 (ones 22 3))) := by
  rw [execBindRelease_byState hx hb hruns hseq hchecks hr hold, if_pos hstate, releaseDraft_allowed (by simpa [hx] using hruns.2) hd]

/-- BIND.RELEASE without FORCE marks a bound extent releasing. -/
theorem execBindRelease_asks (hstate : old = 2) (hforce : mflagsOf (wordAt (engineOf s e)) ≠ 1)
    (hd : Draftable s e x 0x15 r (setFld 0 22 3 3) (ones 22 3)) :
    execBindRelease e s = .next (moveOk s e (putDraft s x 0x15 r (setFld 0 22 3 3) (ones 22 3))) := by
  rw [execBindRelease_byState hx hb hruns hseq hchecks hr hold, if_neg (by simp [hstate, hforce]), if_pos hstate,
    releaseDraft_allowed (by simpa [hx] using hruns.2) hd]

/-- BIND.RELEASE leaves an offered extent, and without FORCE a releasing one, as it is. -/
theorem execBindRelease_leaves (hstate : old = 1 ∨ old = 3 ∧ mflagsOf (wordAt (engineOf s e)) ≠ 1) : execBindRelease e s = .next (moveOk s e x) := by
  rw [execBindRelease_byState hx hb hruns hseq hchecks hr hold, if_neg (by omega), if_neg (by omega), if_pos (by omega),
    finish_moveOk _ _ _ (by simpa [hx] using hruns.2)]

/-- BIND.RELEASE of a free extent is ABSENT. -/
theorem execBindRelease_absent (hstate : old = 0) : execBindRelease e s = .next (endChart (setEngine s e x) e 5 x.pc) := by
  rw [execBindRelease_byState hx hb hruns hseq hchecks hr hold, if_neg (by omega), if_neg (by omega), if_neg (by omega), finish_bad _ _ _ _ (by simp)]

end

end

/-! Scrubbing (R191, R192). -/

/-- The granules of a scrub in state st. -/
def markRun (s : State) (c : Scrub) (st : Nat) : State := (List.range c.n).foldl (fun s i => setGranule s c.mem (c.first + i) { st := st }) s

/-- The descriptor and the scrub of mover m have ended. -/
def scrubEnded (s : State) (m : MoverId) : State :=
  { s with svc := { s.svc with descs := smDel s.svc.descs (1024 + m) }, scrubs := s.scrubs.filter fun d => d.mover != m.val }

section
variable {m : MoverId} {s : State}

theorem execScrubStart_begins {k g : Nat} {c : Scrub} (hfree : moverFree s m = true) (hk : scrubMember s = some k) (hg : dirtyGranule s k = some g)
    (hc : c = ⟨k, g, dirtyRun s k g 4, m⟩) : execScrubStart m s =
      .next (setDesc { markRun s c 1 with scrubs := (markRun s c 1).scrubs ++ [c] } (1024 + m) (scrubDesc k g c.n m)) := by
  unfold execScrubStart
  rw [if_neg (by simp [hfree]), hk]
  dsimp only
  rw [hg, hc]
  rfl

theorem execScrubStart_busy (hfree : moverFree s m = false) : execScrubStart m s = .next s := if_pos (by simp [hfree])

theorem execZeroComplete_idle (hd : descAt s (1024 + m) = none) : execZeroComplete m s = .next s := by
  unfold execZeroComplete
  rw [hd]

section
variable {d : Desc} {c : Scrub} (hd : descAt s (1024 + m) = some d) (hknown : d.known = true)
  (hc : (s.scrubs.find? fun c => c.mover == m.val) = some c)
include hd hknown hc

/-- The end of a scrub's ZERO: CLEAN granules, or DIRTY ones and an event. -/
theorem execZeroComplete_ends : execZeroComplete m s = .next (
    if d.status = 0 then markRun (scrubEnded s m) c 2 else raiseEvent (markRun (scrubEnded s m) c 0) 0x282 (c.mem / 16) [c.first]) := by
  unfold execZeroComplete
  rw [hd]
  dsimp only
  rw [if_neg (by simp [hknown]), hc]
  dsimp only
  split <;> rfl

theorem execZeroComplete_cleans (hst : d.status = 0) : execZeroComplete m s = .next (markRun (scrubEnded s m) c 2) := by
  rw [execZeroComplete_ends hd hknown hc, if_pos hst]

theorem execZeroComplete_fails (hst : d.status ≠ 0) :
    execZeroComplete m s = .next (raiseEvent (markRun (scrubEnded s m) c 0) 0x282 (c.mem / 16) [c.first]) := by
  rw [execZeroComplete_ends hd hknown hc, if_neg hst]

end

end

/-! The times of extents (R193). -/

section
variable {x : ExtentId} {s : State} {v : Entry} {a : Nat} (hv : v = tabVal s 0x15 x) (ha : a = smGet 0 s.offers x)
include hv ha

/-- An offer of 2 s whose acceptance does not take effect in this instant is freed. -/
theorem execOfferExpired_frees (hst : estate v = 1) (hset : a ≠ 0) (hdue : a + 2000000000 ≤ s.clock + 1) (hacc : acceptedNow s x a = false) :
    execOfferExpired x s = .next (extentChange (deviceUpdate s [(0x15, x, setFld v 22 3 0)]) x v (setFld v 22 3 0) false) := by
  subst hv ha
  exact if_pos ⟨hst, hset, hdue, by simp [hacc]⟩

theorem execOfferExpired_waits (h : estate v ≠ 1 ∨ s.clock + 1 < a + 2000000000 ∨ acceptedNow s x a = true) : execOfferExpired x s = .next s := by
  subst hv ha
  refine if_neg fun ⟨hst, _, hdue, hacc⟩ => ?_
  rcases h with h | h | h
  · exact h hst
  · omega
  · simp [h] at hacc

/-- A release of 10 s that has not been reported is. -/
theorem execReleaseOverdue_reports (hst : estate v = 3) (hset : a ≠ 0) (hdue : a + 10000000000 ≤ s.clock + 1)
    (hnew : smGet false s.overdue x = false) : execReleaseOverdue x s = .next (raiseEvent { s with overdue := smSet false s.overdue x true } 0x284 x []) := by
  subst hv ha
  exact if_pos ⟨hst, hset, hdue, by simp [hnew]⟩

theorem execReleaseOverdue_waits (h : estate v ≠ 3 ∨ s.clock + 1 < a + 10000000000 ∨ smGet false s.overdue x = true) :
    execReleaseOverdue x s = .next s := by
  subst hv ha
  refine if_neg fun ⟨hst, _, hdue, hnew⟩ => ?_
  rcases h with h | h | h
  · exact h hst
  · omega
  · simp [h] at hnew

end

/-! Decoders (R180, R182). -/

/-- A decoder that its host reaches is not that of a vPPB bound to something else. -/
theorem decoderForeign_of_shown {s : State} {d : Nat} (h : decoderShown s d = true) : decoderForeign s d = false := by
  unfold decoderShown at h
  unfold decoderForeign
  split at h
  case isTrue hport => rw [decide_eq_false (Nat.not_le.mpr hport), Bool.false_and]
  case isFalse =>
    obtain ⟨-, htype⟩ : _ ∧ btype _ = 3 := by simpa using h
    simp [htype]

section
variable {d : Fin 68608} {s : State}

theorem execDecoderCommit_foreign (h : decoderForeign s d = true) :
    execDecoderCommit d s = .next { s with decRegs := smMod {} s.decRegs (decoderKey d) fun r => { r with error := true } } := if_pos h

theorem execDecoderUncommit_locked (hlock : (smGet {} s.decRegs (decoderKey d)).lockOn = true) : execDecoderUncommit d s = .next s :=
  if_neg fun ⟨_, _, hfree, _⟩ => by rw [hlock] at hfree; cases hfree

variable (hshown : decoderShown s d = true)
include hshown

theorem execDecoderCommit_submits (hbusy : decoderBusy s (decoderKey d) = false) (hc : (smGet {} s.decRegs (decoderKey d)).committed = false) :
    execDecoderCommit d s = .next (decoderSubmit s (decoderKey d) true) :=
  (if_neg (by simp [decoderForeign_of_shown hshown])).trans (if_pos ⟨hshown, by rw [hc]; rfl, by rw [hbusy]; rfl⟩)

theorem execDecoderCommit_committed (hc : (smGet {} s.decRegs (decoderKey d)).committed = true) : execDecoderCommit d s = .next s :=
  (if_neg (by simp [decoderForeign_of_shown hshown])).trans (if_neg fun ⟨_, hnot, _⟩ => by rw [hc] at hnot; cases hnot)

theorem execDecoderUncommit_submits (hbusy : decoderBusy s (decoderKey d) = false) (hc : (smGet {} s.decRegs (decoderKey d)).committed = true)
    (hlock : (smGet {} s.decRegs (decoderKey d)).lockOn = false) : execDecoderUncommit d s = .next (decoderSubmit s (decoderKey d) false) :=
  if_pos ⟨hshown, hc, by rw [hlock]; rfl, by rw [hbusy]; rfl⟩

end

/-! The mailbox (R187, R193). -/

theorem onMailbox_shown {s : State} {v p : Nat} (h : pldOf s v = some p) (f : Nat → State) : onMailbox s v f = .next (f p) := by
  unfold onMailbox
  rw [h]

theorem onMailbox_none {s : State} {v : Nat} (h : pldOf s v = none) (f : Nat → State) : onMailbox s v f = .next s := by
  unfold onMailbox
  rw [h]

/-! The statements. -/

/-- Settles O25: each macro past its own checks passes its subject's too, and its draft is allowed. That BIND.RELEASE of a free extent is ABSENT and
leaves an offered one, like the other statuses that R196 does not fix, is deduced (log 63), and so are the lowest free entry for BIND.ADD (log 64) and the
judging at the draft of what the COMMIT judges again (log 86); that what says whether these things exist counts as read is the model's choice (logs 86
and 99). -/
theorem bindMacrosDraftTheirEntries : Obligations.BindMacrosDraftTheirEntries := by
  refine fun e s => ⟨?vcs, ?vppb, ?pld, ?add, ?release, ?gfam, ?pid⟩
  case vcs => exact fun h husp hbound hd => execBindVcs_drafts rfl rfl h rfl husp hbound hd
  case vppb => exact fun h h1 h3 hfree htarget hd hslot => execBindVppb_drafts rfl rfl h h1 h3 hfree htarget rfl rfl hd hslot
  case pld => exact fun h hrules hd => execBindPld_drafts rfl rfl h rfl hrules hd
  case add =>
    exact fun k gr h hp hcap hlost hpld hk hg hrules hd => execBindAdd_offers rfl rfl h hp hcap hlost hpld hk hg rfl rfl hrules hd
  case release =>
    exact fun hruns hseq hchecks => ⟨fun hstate hd => execBindRelease_frees rfl rfl hruns hseq hchecks rfl rfl hstate hd,
      fun hstate hforce hd => execBindRelease_asks rfl rfl hruns hseq hchecks rfl rfl hstate hforce hd,
      execBindRelease_leaves rfl rfl hruns hseq hchecks rfl rfl, execBindRelease_absent rfl rfl hruns hseq hchecks rfl rfl⟩
  case gfam => exact fun h hport husp hrules hd => execBindGfam_drafts rfl rfl h hport husp rfl rfl rfl hrules hd
  case pid => exact fun h hpid hrules hd => execBindPid_drafts rfl rfl h hpid rfl rfl hrules hd

/-- Settles O49: each command is the branch that its clause names. Which granules are scrubbed first, and where a scrub's ZERO stands, is the model's
choice (log 69), and so is the order in one instant of an acceptance and the end of its offer (log 99); the layouts of the mailbox's bodies are presumed
(log 28). No clause is on DEFERRED_REGISTRATION: SurveyArrivalsAndDetaches has it. -/
theorem poolExtentsDecodersAndMailbox : Obligations.PoolExtentsDecodersAndMailbox := by
  refine ⟨fun m s => ⟨?begins, execScrubStart_busy, execZeroComplete_idle, ?ends⟩, fun x s => ⟨?expires, ?held, ?overdue, ?early⟩,
    fun d s => execDecoderCommit_foreign, fun d s hshown hbusy => ⟨?commits, ?committed, ?uncommits, ?locked⟩, fun v s p hp => ?shown,
    fun v s hp => ?hidden⟩
  case begins => exact fun k g hfree hk hg => execScrubStart_begins (c := ⟨k, g, dirtyRun s k g 4, m⟩) hfree hk hg rfl
  case ends => exact fun d c hd hknown hc => ⟨execZeroComplete_cleans hd hknown hc, execZeroComplete_fails hd hknown hc⟩
  case expires => exact execOfferExpired_frees rfl rfl
  case held => exact execOfferExpired_waits rfl rfl
  case overdue => exact execReleaseOverdue_reports rfl rfl
  case early => exact execReleaseOverdue_waits rfl rfl
  case commits => exact execDecoderCommit_submits hshown hbusy
  case committed => exact execDecoderCommit_committed hshown
  case uncommits => exact execDecoderUncommit_submits hshown hbusy
  case locked => exact fun _ hlock => execDecoderUncommit_locked hlock
  case shown =>
    exact ⟨onMailbox_shown hp _, onMailbox_shown hp _, fun _ _ => onMailbox_shown hp _, fun _ _ => onMailbox_shown hp _, onMailbox_shown hp _,
      fun _ => onMailbox_shown hp _, fun _ => onMailbox_shown hp _⟩
  case hidden => exact ⟨onMailbox_none hp _, onMailbox_none hp _⟩

end Sys2Proof.Machine

/-! SUPPORT. The coherence macros and BIND.UNVPPB: the drafts that they make, and the steps with which the sequenced ones begin. -/
namespace Sys2Proof.Machine

/-! The first step of a sequenced macro (R257). -/

theorem seqCommit_allowed {s : State} {e : Nat} {x : Engine} {t i : Nat} {v mask : Entry} (hd : Draftable s e x t i v mask) (step a b : Nat) :
    seqCommit s e x step a b [(t, i, v, mask)] = askCommit s e { putDraft s x t i v mask with seq := step, seqA := a, seqB := b } := by
  simp [seqCommit, drafts, draft_allowed hd]

/-- The drain point at which BIND.UNVPPB waits: of its port, or of its pooled logical device (Table 11.14). -/
theorem unvppbDrain_eq (s : State) (e : Nat) (x : Engine) (i : Nat) : unvppbDrain s e x i = let b := tabVal s 0x11 i
    seqDrain s e x 2 i (if btype b = 3 then 4 else 0) (if btype b = 3 then bpld b else bport b) := by
  by_cases hpld : btype (tabVal s 0x11 i) = 3
  · simp [unvppbDrain, hpld]
  · simp [unvppbDrain, hpld]

theorem judgedDraft_passes {d : Nat × State × Engine} {j : View → Nat} (hd : d.1 = 0) (hj : j (viewOf d.2.1 d.2.2) = 0) :
    judgedDraft d j = (0, d.2.1, d.2.2) := by
  rw [judgedDraft, if_neg (not_not_intro hd), hj]

/-! What the blocks of the COH macros spell (R292, Table 11.14). -/

/-- The agent that COH.AGENT.ADD's block spells: active. -/
def agentEntry (b : Nat → Word) : Entry := setFld (entryOfWords [b 1]) 0 2 1

/-- The domains that COH.AGENT.ADD's block names. -/
def agentDomains (b : Nat → Word) : List Nat := (List.range 16).filter fun k => wfld (b 0) (16 + k) 1 == 1

/-- The shared region that COH.REGION.SHARE's block spells. -/
def regionEntry (b : Nat → Word) : Entry :=
  mkEntry [(100, wfld (b 1) 0 28), (72, wfld (b 1) 28 28), (65, wfld (b 0) 0 7), (61, wfld (b 0) 8 4), (57, wfld (b 0) 16 4), (55, 1)]

/-- The lowest region entry that is free and not reserved by another chart. -/
def freeRegion (s : State) (e : Nat) (x : Engine) : Option Nat :=
  findFrom (fun j => rstate (seenVal s x 0x20 j) == 0 && !(reservedElsewhere s e (tkey 0x20 j))) 0 256

/-- The key of the line at address a of region r, whose entry is v. -/
def lineKey (r a : Nat) (v : Entry) : Nat := r * 2 ^ 46 + (a - fld v 100 28 * 2 ^ 28) / 64

/-- The result registers of COH.LOOKUP: the key and the two words of the line's directory entry. -/
def lookupRegs (s : State) (y : Engine) (k : Nat) : Engine :=
  regSet (regSet (regSet y 1 (BitVec.ofNat 64 k)) 2 (entryWord (entBits (entryOf s k)) 0)) 3 (entryWord (entBits (entryOf s k)) 1)

section
variable {e : EngineId} {s : State} {x : Engine} {b : Nat → Word} (hx : x = regSet (engineOf s e) 1 0)
  (hb : b = blockWord (engineOf s e) (wordAt (engineOf s e)))
include hx hb

/-! BIND.UNVPPB of a bound or lost vPPB. -/

section
variable (h : Begins s e 0x62 [rowBits [(5, 0), (13, 8)]] 0 .glob true) {i : Nat} (hi : i = vppbIndex b)
  (hbound : bstate (tabVal s 0x11 i) = 1 ∨ bstate (tabVal s 0x11 i) = 2)
include h hi hbound

/-- The slot is first withdrawn. -/
theorem execBindUnvppb_withdraws (hslot : tabFld s 0x18 i 0 2 ≠ 2) (hd : Draftable s e x 0x18 i 2 (ones 0 2)) :
    execBindUnvppb e s = .next (askCommit s e { putDraft s x 0x18 i 2 (ones 0 2) with seq := 1, seqA := i, seqB := 0 }) := by
  subst hx hb hi
  refine congrArg Host.Outcome.next ((macroThen_begins h _).trans ?_)
  exact (if_neg (by unfold vppbIndex at hbound; omega)).trans ((if_neg hslot).trans (seqCommit_allowed hd ..))

/-- A withdrawn slot waits for the drain point of its binding. -/
theorem execBindUnvppb_drains (hslot : tabFld s 0x18 i 0 2 = 2) : execBindUnvppb e s = .next (unvppbDrain s e x i) := by
  subst hx hb hi
  refine congrArg Host.Outcome.next ((macroThen_begins h _).trans ?_)
  exact (if_neg (by unfold vppbIndex at hbound; omega)).trans (if_pos hslot)

end

/-! The COH macros where their own checks pass. -/

/-- COH.DOMAIN of a domain whose rules allow its EN. -/
theorem execCohDomain_drafts (h : Begins s e 0x70 [rowBits [(3, 0), (8, 8)]] 0 .glob false) {i : Nat} {v : Entry} {y : Engine} (hi : i = wfld (b 0) 0 4)
    (hv : v = BitVec.ofNat 256 (wfld (b 0) 8 1)) (hy : y = putDraft s x 0x21 i v (ones 0 1)) (hrules : judgeDomain s (viewOf s y) i = 0)
    (hd : Draftable s e x 0x21 i v (ones 0 1)) : execCohDomain e s = .next (moveOk s e y) := by
  have hdraft := draft_allowed hd
  rw [← hy] at hdraft
  have hjudged : judgedDraft (draft s e x 0x21 i v (ones 0 1)) (fun u => judgeDomain s u i) = (0, s, y) := by
    rw [hdraft]
    exact judgedDraft_passes rfl hrules
  subst hx hb hi hv
  refine congrArg Host.Outcome.next (macroOp_ok h hjudged ?_)
  simpa [hy] using h.1.2

/-- COH.AGENT.ADD of an agent at a port that exists, into domains whose rules allow it (R202). -/
theorem execCohAgentAdd_drafts (h : Begins s e 0x71 [rowBits [(5, 0), (31, 16)], tabWordMask 0x22 0] 0 .glob false) {c : Nat} {a : Nat × State × Engine}
    (hc : c = wfld (b 0) 0 6)
    (ha : a = drafts s e (putDraft s x 0x22 c (agentEntry b) (draftable 0x22)) (agentBits c (agentDomains b) true))
    (hport : fld (agentEntry b) 4 2 ≤ 1 → portExists s (fld (agentEntry b) 9 7) = true)
    (hd : Draftable s e x 0x22 c (agentEntry b) (draftable 0x22)) (h0 : a.1 = 0) (hrules : judgeAgent s (viewOf a.2.1 a.2.2) c true = 0) :
    execCohAgentAdd e s = .next (moveOk a.2.1 e a.2.2) := by
  have hwhole := draft_allowed hd
  have hjudged := judgedDraft_passes (j := fun u => judgeAgent s u c true) h0 hrules
  rw [ha] at hjudged
  have hnext : a.2.2.pc + 1 < a.2.2.ninstr := by simpa [ha, hx] using h.1.2
  subst hx hb hc
  refine congrArg Host.Outcome.next (macroOp_ok h ?_ hnext)
  refine (if_neg ?_).trans ?_
  · rintro ⟨hlocal, hnone⟩
    have hexists := hport hlocal
    unfold agentEntry at hexists
    simp [hexists] at hnone
  · rw [ha]
    exact (congrArg (fun r : Nat × State × Engine => if r.1 ≠ 0 then r else judgedDraft (drafts r.2.1 e r.2.2 _) _) hwhole).trans hjudged

section
variable (h : Begins s e 0x72 [rowBits [(5, 0)]] 0 .glob true) {c : Nat} (hc : c = wfld (b 0) 0 6)
include h hc

/-- COH.AGENT.REMOVE by ASTATE: absent, walked again, or first marked leaving. -/
theorem execCohAgentRemove_byState : execCohAgentRemove e s = .next (match tabFld s 0x22 c 0 2 with
    | 0 => finish s e x 5
    | 3 => seqWalk s e x 2 c 1 c
    | _ => seqCommit s e x 1 c 0 [(0x22, c, 3, ones 0 2)]) := by
  subst hx hb hc
  exact congrArg Host.Outcome.next (macroThen_begins h _)

theorem execCohAgentRemove_leaves (hin : tabFld s 0x22 c 0 2 ≠ 0) (hstays : tabFld s 0x22 c 0 2 ≠ 3) (hd : Draftable s e x 0x22 c 3 (ones 0 2)) :
    execCohAgentRemove e s = .next (askCommit s e { putDraft s x 0x22 c 3 (ones 0 2) with seq := 1, seqA := c, seqB := 0 }) := by
  rw [execCohAgentRemove_byState hx hb h hc]
  split
  case h_1 hout => exact absurd hout hin
  case h_2 hleaving => exact absurd hleaving hstays
  case h_3 => rw [seqCommit_allowed hd]

theorem execCohAgentRemove_walks (hleaving : tabFld s 0x22 c 0 2 = 3) : execCohAgentRemove e s = .next (seqWalk s e x 2 c 1 c) := by
  rw [execCohAgentRemove_byState hx hb h hc]
  simp only [hleaving]

end

/-- COH.REGION.SHARE of a logical device behind a DSP: the lowest free region entry k, given in G1 (R200). -/
theorem execCohRegionShare_drafts (h : Begins s e 0x73 [rowBits [(6, 0), (11, 8), (19, 16)], rowBits [(27, 0), (55, 28)]] 0 .glob false) {k : Nat}
    (hk : freeRegion s e x = some k) (hrole : vRole (viewOf s x) (wfld (b 0) 0 7) = 2)
    (hld : wfld (b 0) 8 4 < (smGet {} s.partners (wfld (b 0) 0 7)).nld) {y d : Engine}
    (hy : y = readsOf s x [(0x01, wfld (b 0) 0 7), (0x21, wfld (b 0) 16 4)]) (hdraft : d = putDraft s y 0x20 k (regionEntry b) (draftable 0x20))
    (hrules : wfld (b 1) 28 28 ≠ 0 → judgeRegion s (viewOf s d) k = 0) (hd : Draftable s e y 0x20 k (regionEntry b) (draftable 0x20)) :
    execCohRegionShare e s = .next (moveOk s e (regSet d 1 (BitVec.ofNat 64 k))) := by
  have hjudged : judgedDraft (draftWhole s e y 0x20 k (regionEntry b)) (fun v => if wfld (b 1) 28 28 = 0 then 0 else judgeRegion s v k) = (0, s, d) :=
    judgedDraft_allowed hdraft (by simpa using hrules) hd
  unfold freeRegion at hk
  unfold regionEntry at hjudged
  subst hx hb hy
  refine congrArg Host.Outcome.next (macroOp_ok h ?_ ?_)
  · refine (if_neg (by omega)).trans ?_
    rw [hk]
    dsimp only
    rw [hjudged]
    rfl
  · simpa [hdraft] using h.1.2

section
variable (h : Begins s e 0x74 [rowBits [(7, 0)]] 0 .glob true) {r : Nat} (hr : r = wfld (b 0) 0 8)
include h hr

/-- COH.REGION.RELEASE by RSTATE and the extents over the region. -/
theorem execCohRegionRelease_byState : execCohRegionRelease e s = .next (
    if rstate (tabVal s 0x20 r) = 0 then finish s e x 5
    else if regionHeld s r = true then finish s e x 2
    else if rstate (tabVal s 0x20 r) = 2 then seqWalk s e x 2 r 2 r
    else seqCommit s e x 1 r 0 [(0x20, r, setFld 0 55 2 2, ones 55 2)]) := by
  subst hx hb hr
  exact congrArg Host.Outcome.next (macroThen_begins h _)

theorem execCohRegionRelease_releases (hshared : rstate (tabVal s 0x20 r) = 1) (hfree : regionHeld s r = false)
    (hd : Draftable s e x 0x20 r (setFld 0 55 2 2) (ones 55 2)) :
    execCohRegionRelease e s = .next (askCommit s e { putDraft s x 0x20 r (setFld 0 55 2 2) (ones 55 2) with seq := 1, seqA := r, seqB := 0 }) := by
  rw [execCohRegionRelease_byState hx hb h hr, if_neg (by omega), if_neg (by simp [hfree]), if_neg (by omega), seqCommit_allowed hd]

theorem execCohRegionRelease_walks (hreleasing : rstate (tabVal s 0x20 r) = 2) (hfree : regionHeld s r = false) :
    execCohRegionRelease e s = .next (seqWalk s e x 2 r 2 r) := by
  rw [execCohRegionRelease_byState hx hb h hr, if_neg (by omega), if_neg (by simp [hfree]), if_pos hreleasing]

theorem execCohRegionRelease_held (hused : rstate (tabVal s 0x20 r) ≠ 0) (hheld : regionHeld s r = true) :
    execCohRegionRelease e s = .next (endChart (setEngine s e x) e 2 x.pc) := by
  rw [execCohRegionRelease_byState hx hb h hr, if_neg hused, if_pos hheld, finish_bad _ _ _ _ (by simp)]

end

/-- COH.LOOKUP of an address of a shared region. -/
theorem execCohLookup_shows (h : Begins s e 0x75 [rowBits [(7, 0)], allBits] 0 .glob false) {r k : Nat} {y : Engine} {v : Entry} (hr : r = wfld (b 0) 0 8)
    (hy : y = readsOf s x [(0x20, r)]) (hv : v = seenVal s y 0x20 r) (hshared : rstate v = 1) (hlow : fld v 100 28 * 2 ^ 28 ≤ (b 1).toNat)
    (hhigh : (b 1).toNat < (fld v 100 28 + fld v 72 28) * 2 ^ 28) (hk : k = lineKey r (b 1).toNat v) :
    execCohLookup e s = .next (moveOk s e (lookupRegs s y k)) := by
  subst hx hb hr hy hv hk
  refine congrArg Host.Outcome.next (macroOp_ok h ?_ ?_)
  · dsimp only
    rw [if_neg (by omega)]
    rfl
  · simpa [lookupRegs] using h.1.2

end

/-! The statement. -/

/-- Settles O26: each macro past its own checks passes its subject's too, and its drafts are allowed. The lowest free region entry is deduced (log 64), as
are where a pooled logical device drains and that a releasing region is not looked up in (log 65), and that the macros judge at once what the COMMIT judges
again (log 86); which reads count (log 99) and that COH.LOOKUP finds clean entries (log 39) are the model's choices. Of the rules cited, R222, R225 and R226
stand in 08_coherence.md, and Table 11.14 stands in 11_chart_instructions.md. -/
theorem coherenceMacrosAndUnbindBegin : Obligations.CoherenceMacrosAndUnbindBegin := by
  refine fun e s => ⟨?withdraw, ?drain, ?domain, ?add, ?leave, ?walk, ?share, ?release, ?releaseWalk, ?held, ?lookup⟩
  case withdraw => exact fun h hbound hslot hd => execBindUnvppb_withdraws rfl rfl h rfl hbound hslot hd
  case drain => exact fun h hbound hslot => (execBindUnvppb_drains rfl rfl h rfl hbound hslot).trans (congrArg Host.Outcome.next (unvppbDrain_eq ..))
  case domain => exact fun h hrules hd => execCohDomain_drafts rfl rfl h rfl rfl rfl hrules hd
  case add => exact fun h hport hd h0 hrules => execCohAgentAdd_drafts rfl rfl h rfl rfl hport hd h0 hrules
  case leave => exact fun h hin hstays hd => execCohAgentRemove_leaves rfl rfl h rfl hin hstays hd
  case walk => exact fun h hleaving => execCohAgentRemove_walks rfl rfl h rfl hleaving
  case share => exact fun k h hk hrole hld hrules hd => execCohRegionShare_drafts rfl rfl h hk hrole hld rfl rfl hrules hd
  case release => exact fun h hshared hfree hd => execCohRegionRelease_releases rfl rfl h rfl hshared hfree hd
  case releaseWalk => exact fun h hreleasing hfree => execCohRegionRelease_walks rfl rfl h rfl hreleasing hfree
  case held => exact fun h hused hheld => execCohRegionRelease_held rfl rfl h rfl hused hheld
  case lookup => exact fun h hshared hlow hhigh => execCohLookup_shows rfl rfl h rfl rfl rfl hshared hlow hhigh rfl

end Sys2Proof.Machine

/-! SUPPORT. The coherence home: how a slice takes a request and acts on it by the state of its line, how it takes answers and closures, its waiting lists,
patrols and walks, the messages at the edge, and the statements of 08_coherence.md settled from these. -/
namespace Sys2Proof.Machine

/-! Acceptance (R208, R209, R233). -/

/-- A slice that is ready, with no must-sink command and room in both its waiting lists, takes the oldest request of its queue. -/
theorem acceptReq_takes {s : State} {g i : Nat} {rest : List Nat} (hrun : fabricRuns s = true) (hready : (sliceOf s g).ready = true)
    (hsink : (sliceOf s g).sink = []) (hconf : (sliceOf s g).conf.length < 256) (hscq : (sliceOf s g).scq.length < 64)
    (hinq : (sliceOf s g).inq = i :: rest) (d : DieRead) :
    acceptReq s g (txnOf s i).cmd d = takeRequest (setSlice s g { sliceOf s g with inq := rest }) g i d := by
  unfold acceptReq
  dsimp only
  rw [hinq]
  exact if_pos ⟨hrun, rfl, hready, List.isEmpty_iff.mpr hsink, hconf, hscq⟩

theorem mustWait_iff {s : State} {g k : Nat} : mustWait s g k = true ↔
    (actOf (sliceOf s g) k).isSome = true ∨ 255 ≤ (entryOf s k).opn ∨ ((sliceOf s g).conf.any fun j => homeLine s j == some k) = true := by
  simp only [mustWait, Bool.or_eq_true, decide_eq_true_eq, or_assoc]

/-- The request is its line's active transaction, counted as a lookup, and the on-die set has been read. -/
def lookedUp (s : State) (g k i : Nat) (d : DieRead) : State :=
  let x := sliceOf s g
  dieErrors (count (setSlice s g { x with act := x.act ++ [{ key := k, txn := some i }] }) (sliceCtr g 0) 1) g k d

section
variable {s : State} {g k i : Nat} {d : DieRead} (hline : homeLine s i = some k)
include hline

theorem takeRequest_waits (hwait : mustWait s g k = true) : takeRequest s g i d = setSlice s g { sliceOf s g with conf := (sliceOf s g).conf ++ [i] } := by
  unfold takeRequest
  rw [hline]
  exact if_pos hwait

theorem takeRequest_activates (hfree : ¬mustWait s g k = true) : takeRequest s g i d = activate s g k i d := by
  unfold takeRequest
  rw [hline]
  exact if_neg hfree

end

theorem activate_miss {s : State} {g k i : Nat} {d : DieRead} (hmiss : findDie (lookedUp s g k i d) k = none) :
    activate s g k i d = count (lookedUp s g k i d) (sliceCtr g 2) 1 := by
  unfold lookedUp at hmiss
  unfold activate
  dsimp only
  rw [hmiss]
  rfl

theorem activate_hit {s : State} {g k i n : Nat} {d : DieRead} (hhit : findDie (lookedUp s g k i d) k = some n) :
    activate s g k i d = proceed (touchWay (count (lookedUp s g k i d) (sliceCtr g 1) 1) n) g k n i := by
  unfold lookedUp at hhit
  unfold activate
  dsimp only
  rw [hhit]
  rfl

theorem proceed_parks {s : State} {g k n i : Nat} (hfull : lacksTracker s g k i (wayOfNo s n).ent = true) : proceed s g k n i = park s g k i :=
  if_pos hfull

theorem proceed_acts {s : State} {g k n i : Nat} (hfree : lacksTracker s g k i (wayOfNo s n).ent = false) :
    proceed s g k n i = homeAct (openReq s g k n i) g k n i := if_neg (Bool.eq_false_iff.mp hfree)

/-! Requests by the state of their line (Table 8.6), on an entry that no loss touches. -/

/-- An entry that no loss touches is read as it stands. -/
theorem readEnt_still {s : State} {g k n : Nat} (hstill : applyLoss s (sliceOf s g) k (wayOfNo s n).ent = (wayOfNo s n).ent) : readEnt s g k n = s :=
  if_pos hstill

/-- The snoop that the owner of a line is sent for a request: to another chip by way of SNP_FWD for MRD and MRD_OWN (R217). -/
def ownerSnoop (cmd : Nat) (far : Bool) : Nat :=
  if cmd = 1 then (if far then 0x13 else 0x11) else if cmd = 2 ∧ far then 0x13 else if cmd = 3 then 0x12 else 0x10

section
variable {s : State} {g k n i : Nat} {e : DirEnt} {t : Txn} (he : e = (wayOfNo s n).ent) (ht : t = txnOf s i)
  (hstill : applyLoss s (sliceOf s g) k e = e)
include he ht hstill

theorem homeAct_lost (hst : e.st = 3) :
    (t.cmd = 1 ∨ t.cmd = 2 ∨ t.cmd = 3 → homeAct s g k n i = endAct (fromSlice s g i 0x23 4) g k) ∧
    (t.cmd = 4 → homeAct s g k n i = endAct (toMemory (restI s n) g k i 4 0) g k) ∧
    (t.cmd = 5 → homeAct s g k n i = endAct (toMemory s g k i 5 0) g k) := by
  subst he ht
  refine ⟨fun hcmd => ?_, fun hcmd => ?_, fun hcmd => ?_⟩
  all_goals simp [homeAct, readEnt_still hstill, hst, hcmd]

variable {r : Option Nat} (hr : r = reqAgent s i)
include hr

theorem homeAct_invalid (hst : e.st = 0) :
    (t.cmd = 1 → homeAct s g k n i = endAct (toMemory (restS s n (only r)) g k i 3 1) g k) ∧
    (t.cmd = 2 → homeAct s g k n i = endAct (toMemory (markGrant (restO s n (r.getD 0)) g k i) g k i 3 2) g k) ∧
    (t.cmd = 3 → homeAct s g k n i = endAct (toMemory s g k i 3 0) g k) ∧
    (t.cmd = 4 → homeAct s g k n i = endAct (toMemory s g k i 4 0) g k) ∧
    (t.cmd = 5 → homeAct s g k n i = endAct (toMemory s g k i 5 0) g k) := by
  subst he ht hr
  refine ⟨fun hcmd => ?_, fun hcmd => ?_, fun hcmd => ?_, fun hcmd => ?_, fun hcmd => ?_⟩
  all_goals simp [homeAct, readEnt_still hstill, hst, hcmd, writeCmd]

theorem homeAct_shared (hst : e.st = 1) {others : List Nat} (hothers : others = (sharerList e.sharers).filter fun c => some c != r) :
    (t.cmd = 1 → homeAct s g k n i = endAct (toMemory (restS s n (e.sharers ||| only r)) g k i 3 1) g k) ∧
    (t.cmd = 2 → others = [] → homeAct s g k n i = endAct (toMemory (markGrant (restO s n (r.getD 0)) g k i) g k i 3 2) g k) ∧
    (t.cmd = 2 → others ≠ [] → homeAct s g k n i = startSnoops s g k n 0x10 4 others []) ∧
    (t.cmd = 3 → homeAct s g k n i = endAct (toMemory s g k i 3 0) g k) ∧
    (t.cmd = 4 ∨ t.cmd = 5 → homeAct s g k n i = startSnoops s g k n 0x10 4 (sharerList e.sharers) []) := by
  subst he ht hr hothers
  refine ⟨fun hcmd => ?mrd, fun hcmd hnone => ?alone, fun hcmd hsome => ?others, fun hcmd => ?na, fun hcmd => ?write⟩
  case alone => simp [homeAct, readEnt_still hstill, hst, hcmd, List.isEmpty_iff.mpr hnone]
  case others => simp [homeAct, readEnt_still hstill, hst, hcmd, List.isEmpty_eq_false_iff.mpr hsome]
  case write => obtain hcmd | hcmd := hcmd <;> simp [homeAct, readEnt_still hstill, hst, hcmd]
  all_goals simp [homeAct, readEnt_still hstill, hst, hcmd]

theorem homeAct_ofOwner (hst : e.st = 2) (howner : r = some e.owner) :
    (t.cmd = 1 → homeAct s g k n i = endAct (toMemory s g k i 3 1) g k) ∧
    (t.cmd = 2 → homeAct s g k n i = endAct (toMemory (if (sliceOf s g).voids.any (· == k) then markGrant s g k i else s) g k i 3 2) g k) ∧
    (t.cmd = 4 → homeAct s g k n i = endAct (toMemory s g k i 4 0) g k) ∧
    (t.cmd = 5 → homeAct s g k n i = endAct (toMemory s g k i 5 0) g k) := by
  subst he ht hr
  refine ⟨fun hcmd => ?_, fun hcmd => ?_, fun hcmd => ?_, fun hcmd => ?_⟩
  all_goals simp [homeAct, readEnt_still hstill, hst, howner, hcmd, writeCmd, regrant]

/-- The owner is snooped for another agent's request, and for its own MRD_NA. -/
theorem homeAct_snoopsOwner (hst : e.st = 2) (hother : r ≠ some e.owner ∨ t.cmd = 3) : homeAct s g k n i =
    let snoop := ownerSnoop t.cmd (tabFld s 0x22 e.owner 4 2 == 2)
    startSnoops s g k n snoop 5 [e.owner] (if snoop = 0x13 then fwdUnit t.spid t.tag (if t.cmd = 1 then 0 else 1) else []) := by
  subst he ht hr
  have howner : ¬(reqAgent s i = some (wayOfNo s n).ent.owner ∧ (txnOf s i).cmd ≠ 3) := fun ⟨hown, hne⟩ => hother.elim (· hown) hne
  unfold homeAct
  rw [readEnt_still hstill]
  simp only [hst]
  exact if_neg howner

theorem homeAct_owned (hst : e.st = 2) (hother : r ≠ some e.owner ∨ t.cmd = 3) {far : Prop} (hfar : far ↔ tabFld s 0x22 e.owner 4 2 = 2) :
    (t.cmd = 1 → ¬far → homeAct s g k n i = startSnoops s g k n 0x11 5 [e.owner] []) ∧
    (t.cmd = 1 → far → homeAct s g k n i = startSnoops s g k n 0x13 5 [e.owner] (fwdUnit t.spid t.tag 0)) ∧
    (t.cmd = 2 → ¬far → homeAct s g k n i = startSnoops s g k n 0x10 5 [e.owner] []) ∧
    (t.cmd = 2 → far → homeAct s g k n i = startSnoops s g k n 0x13 5 [e.owner] (fwdUnit t.spid t.tag 1)) ∧
    (t.cmd = 3 → homeAct s g k n i = startSnoops s g k n 0x12 5 [e.owner] []) ∧
    (t.cmd = 4 ∨ t.cmd = 5 → homeAct s g k n i = startSnoops s g k n 0x10 5 [e.owner] []) := by
  rw [homeAct_snoopsOwner he ht hstill hr hst hother, hfar]
  refine ⟨fun hcmd hf => ?near, fun hcmd hf => ?far, fun hcmd hf => ?nearOwn, fun hcmd hf => ?farOwn, fun hcmd => ?na, fun hcmd => ?write⟩
  case na => simp [ownerSnoop, hcmd]
  case write => obtain hcmd | hcmd := hcmd <;> simp [ownerSnoop, hcmd]
  all_goals simp [ownerSnoop, hcmd, hf]

end

/-! Must-sink commands (R208, R210, R211, R215, R219, R224). -/

/-- The slice's oldest must-sink command is taken. -/
def sinkTaken (s : State) (g : Nat) (rest : List Nat) : State := setSlice s g { sliceOf s g with sink := rest }

theorem takeSink_front {s : State} {g i cmd : Nat} {rest : List Nat} (hrun : fabricRuns s = true) (hready : (sliceOf s g).ready = true)
    (hsink : (sliceOf s g).sink = i :: rest) (hcmd : (txnOf s i).cmd = cmd) : takeSink s g cmd = some (i, sinkTaken s g rest) := by
  unfold takeSink
  dsimp only
  rw [hsink]
  exact if_pos ⟨hrun, hcmd, hready⟩

/-- A WB of the owner, of a line that nothing is active on, leaves the line in the state kept; a line without holder or open transaction leaves the die. -/
theorem wbOnDie_owner {s : State} {g k n i c : Nat} {e : DirEnt} (he : e = (wayOfNo s n).ent) (hst : e.st = 2) (howner : e.owner = c)
    (hagent : agentOfPid s (txnOf s i).spid = some c) (hidle : actOf (sliceOf s g) k = none) : wbOnDie s g k n i =
      let s2 := toMemory (changeEnt s n (keptEnt e (some c) ((txnOf s i).mval / 16 % 4))) g k i 0x04 0
      if (wayOfNo s2 n).ent.st = 0 ∧ (wayOfNo s2 n).ent.opn = 0 then removeEnt s2 n else s2 := by
  subst he
  unfold wbOnDie
  dsimp only
  rw [hagent, hidle]
  exact if_pos ⟨hst, by simp [howner], rfl⟩

/-- The open transaction o is the one that t closes. -/
def closes (k : Nat) (t : Txn) (o : OpenTx) : Bool := o.key == k && o.tag == t.tag && o.spid == t.spid && o.ingress == t.ingress

/-- The slice without the open transaction that closed; a grant that closed undelivered is void (R224). -/
def openClosed (s : State) (g k : Nat) (t : Txn) (o : OpenTx) (others : List OpenTx) : State :=
  let x := sliceOf s g
  setSlice s g { x with opens := others, voids := if t.rstat = 1 ∧ o.grant then x.voids ++ [k] else x.voids }

/-- One open transaction fewer at an entry. -/
def lessOpen (s : State) (n : Nat) : State :=
  setWay s n { wayOfNo s n with ent := { (wayOfNo s n).ent with opn := (wayOfNo s n).ent.opn - 1 }, modified := true }

section
variable {s : State} {g : SliceId} {i : Nat} {rest : List Nat} (hrun : fabricRuns s = true) (hready : (sliceOf s g).ready = true)
  (hsink : (sliceOf s g).sink = i :: rest) {d : DieRead} {s0 : State} {t : Txn} {k : Nat} (hs0 : s0 = sinkTaken s g rest) (ht : t = txnOf s0 i)
  (hk : k = t.key)
include hrun hready hsink hs0 ht hk

section
variable {s1 : State} (hs1 : s1 = dieErrors s0 g k d)
include hs1

section
variable (hcmd : (txnOf s i).cmd = 0x25) (b : BackRead)
include hcmd

theorem execWb_hit {n : Nat} (hhit : findDie s1 k = some n) : execWb g d b s = .next (wbOnDie (readEnt s1 g k n) g k n i) := by
  subst hs0 ht hk hs1
  unfold execWb
  rw [takeSink_front hrun hready hsink hcmd]
  dsimp only
  rw [hhit]

section
variable (hmiss : findDie s1 k = none) {s2 : State} (hs2 : s2 = setErrors s1 (keySet k) b) {a : Option Nat} (ha : a = agentOfPid s0 t.spid)
include hmiss hs2 ha

/-- A WB of the owner of a line in the backing directory moves the line there. -/
theorem execWb_backing {h : Nat} (howned : backOwned s2 g k a = some h) {e : DirEnt}
    (he : e = keptEnt (backOf s2 (keySet k) h) a (t.mval / 16 % 4)) :
    execWb g d b s = .next (toMemory (setBack s2 (keySet k) h (if e.st = 0 then {} else e)) g k i 0x04 0) := by
  subst hs0 ht hk hs1 hs2 ha he
  unfold execWb
  rw [takeSink_front hrun hready hsink hcmd]
  dsimp only
  rw [hmiss]
  dsimp only
  rw [howned]

/-- Any other WB is a write like a request's. -/
theorem execWb_write (hnone : backOwned s2 g k a = none) :
    execWb g d b s = .next (takeRequest (setTxn s2 i { t with home := some (g.val, k) }) g i {}) := by
  subst hs0 ht hk hs1 hs2 ha
  unfold execWb
  rw [takeSink_front hrun hready hsink hcmd]
  dsimp only
  rw [hmiss]
  dsimp only
  rw [hnone]

end

end

section
variable (hcmd : (txnOf s i).cmd = 0x22)
include hcmd

theorem execSnpRsp_agent {c : Nat} (hagent : agentOfPid s1 t.spid = some c) :
    execSnpRsp g d s = .next (snoopAnswer (dropTxn s1 i) g k c (t.mval / 16 % 4) (t.mval / 8 % 2 == 1)) := by
  subst hs0 ht hk hs1
  unfold execSnpRsp
  rw [takeSink_front hrun hready hsink hcmd]
  dsimp only
  rw [hagent]

theorem execSnpRsp_stranger (hagent : agentOfPid s1 t.spid = none) : execSnpRsp g d s = .next (dropTxn s1 i) := by
  subst hs0 ht hk hs1
  unfold execSnpRsp
  rw [takeSink_front hrun hready hsink hcmd]
  dsimp only
  rw [hagent]

end

section
variable (hcmd : (txnOf s i).cmd = 0x21) {c n : Nat} {v : Active} (hagent : agentOfPid s1 t.dpid = some c) (hhit : findDie s1 k = some n)
  (hact : actOf (sliceOf s1 g) k = some v) {s2 : State} (hs2 : s2 = dropTxn s1 i) {e : DirEnt} (he : e = (wayOfNo s2 n).ent)
include hcmd hagent hhit hact hs2 he

/-- The agent that is not there any more answers as with state I. -/
theorem execErr_answers (hother : ¬(e.st = 5 ∧ e.owner = c ∧ astate s2 c = 2)) : execErr g d s = .next (snoopAnswer s2 g k c 0 false) := by
  subst hs0 ht hk hs1 hs2 he
  unfold execErr
  rw [takeSink_front hrun hready hsink hcmd]
  dsimp only
  rw [hagent, hhit, hact]
  exact if_neg hother

/-- The owner that was asked is lost: its line is LOST or I, and the line's request goes on from there. -/
theorem execErr_ownerGone (hst : e.st = 5) (howner : e.owner = c) (hlost : astate s2 c = 2) {j : Nat} (hj : v.txn = some j) :
    execErr g d s = .next (homeAct (putEnt s2 n (ownerGone (sliceOf s2 g) k e)) g k n j) := by
  subst hs0 ht hk hs1 hs2 he
  unfold execErr
  rw [takeSink_front hrun hready hsink hcmd]
  dsimp only
  rw [hagent, hhit, hact]
  refine (if_pos ⟨hst, howner, hlost⟩).trans ?_
  rw [hj]

end

end

section
variable (hcmd : (txnOf s i).cmd = 0x27) {s2 : State} (hs2 : s2 = dieErrors (dropTxn s0 i) g k d)
include hcmd hs2

/-- A DONE that finds no entry, or no open transaction that it closes, is discarded and counted. -/
theorem execDone_discarded (hnone : findDie s2 k = none ∨ takeFirst (closes k t) (sliceOf s2 g).opens = none) :
    execDone g d s = .next (count s2 (sliceCtr g 15) 1) := by
  subst hs0 ht hk hs2
  unfold closes at hnone
  unfold execDone
  rw [takeSink_front hrun hready hsink hcmd]
  dsimp only
  split
  next hhit hopen => simp [hhit, hopen] at hnone
  next => rfl

/-- A DONE on a line that nothing is active on closes its transaction, and the line may leave the die. -/
theorem execDone_closes {n : Nat} {o : OpenTx} {others : List OpenTx} (hhit : findDie s2 k = some n)
    (hopen : takeFirst (closes k t) (sliceOf s2 g).opens = some (o, others)) {s4 : State} (hs4 : s4 = lessOpen (openClosed s2 g k t o others) n)
    (hidle : actOf (sliceOf s4 g) k = none) : execDone g d s = .next (settleEnt (sendReady s4 g k []) g k n) := by
  subst hs0 ht hk hs2 hs4
  unfold closes at hopen
  unfold lessOpen openClosed at hidle
  unfold execDone
  rw [takeSink_front hrun hready hsink hcmd]
  dsimp only at hidle ⊢
  rw [hhit, hopen]
  dsimp only
  rw [hidle]
  rfl

end

end

/-! The waiting lists (R209, R233, R236, R237). -/

section
variable {g : SliceId} {s : State}

theorem execConflictListActivate_oldest {i k : Nat} {rest : List Nat} (holdest : takeFirst (mayActivate s g) (sliceOf s g).conf = some (i, rest))
    (hline : homeLine s i = some k) (d : DieRead) :
    execConflictListActivate g d s = .next (activate (setSlice s g { sliceOf s g with conf := rest }) g k i d) := by
  unfold execConflictListActivate
  rw [holdest]
  dsimp only
  rw [hline]

theorem execConflictListActivate_empty (hconf : (sliceOf s g).conf = []) (d : DieRead) : execConflictListActivate g d s = .next s := by
  unfold execConflictListActivate
  rw [hconf]
  rfl

/-- A request's active transaction whose lookup waits for its backing set. -/
def awaitsBacking (a : Active) : Bool := a.stage == 0 && (match a.txn with | some _ => true | none => false)

theorem execBackingReadReturn_looksUp {a : Active} {i : Nat} (hfirst : (sliceOf s g).act.find? awaitsBacking = some a) (htxn : a.txn = some i)
    (b : BackRead) : execBackingReadReturn g b s = .next (lookupSet (setErrors s (keySet a.key) b) g a.key i false) := by
  unfold execBackingReadReturn
  split
  next found hfound =>
    obtain rfl : found = a := Option.some.inj (hfound.symm.trans hfirst)
    rw [htxn]
  next hnone => exact absurd (hnone.symm.trans hfirst) nofun

/-- The oldest request of a set that can have a way now. -/
def leavesScq (s : State) (g k : Nat) : Bool := oldestOfSet (sliceOf s g) k && canTake s k

theorem execSetConflictRelease_leaves {k i : Nat} {rest : List Nat} {a : Active} (hfirst : takeFirst (leavesScq s g) (sliceOf s g).scq = some (k, rest))
    (hact : actOf (sliceOf s g) k = some a) (htxn : a.txn = some i) :
    execSetConflictRelease g s = .next (fillScq (lookupSet (setSlice s g { sliceOf s g with scq := rest }) g k i true) g) := by
  unfold leavesScq at hfirst
  unfold execSetConflictRelease
  dsimp only
  rw [hfirst]
  dsimp only
  rw [hact]
  dsimp only
  rw [htxn]

theorem execSetConflictRelease_evicts {k : Nat} (hnone : takeFirst (leavesScq s g) (sliceOf s g).scq = none)
    (hfirst : (sliceOf s g).scq.find? (lacksVictim s (sliceOf s g)) = some k) :
    execSetConflictRelease g s = .next (startEviction (readSet s (keySet k)) (keySet k)) := by
  unfold leavesScq at hnone
  unfold execSetConflictRelease
  dsimp only
  rw [hnone]
  dsimp only
  rw [hfirst]

theorem execSetConflictRelease_empty (hscq : (sliceOf s g).scq = []) : execSetConflictRelease g s = .next s := by
  unfold execSetConflictRelease
  dsimp only
  rw [hscq]
  rfl

/-! Patrols (R239) and walks (R222, R225). -/

section
variable {h : Nat} (hh : h = tabFld s 0x24 g 16 8) (b : BackRead)
include hh

theorem execPatrolRead_due (hhours : h ≠ 0) (hready : (sliceOf s g).ready = true) (hdue : (sliceOf s g).patrolAt + h * 3600000000000 / 2 ^ 24 ≤ s.clock) :
    execPatrolRead g b s = .next (setErrors
      (setSlice s g { sliceOf s g with patrol := ((sliceOf s g).patrol + 1) % 2 ^ 24, patrolAt := s.clock }) (patrolSet g (sliceOf s g).patrol) b) := by
  subst hh
  refine if_neg ?_
  rintro (hoff | hnot | hearly)
  · exact hhours hoff
  · simp [hready] at hnot
  · omega

theorem execPatrolRead_waits (hwait : h = 0 ∨ s.clock < (sliceOf s g).patrolAt + h * 3600000000000 / 2 ^ 24) : execPatrolRead g b s = .next s := by
  subst hh
  exact if_pos (hwait.imp_right .inr)

end

/-- The slice after its visit for walk w: its sets read, and the walk at each of its lines. -/
def walked (s : State) (g : Nat) (errs : List SetRead) (w : Walk) : State :=
  let s0 := walkErrors s g errs
  (sliceKeys s0 g).foldl (fun s k => walkLine s w g k) s0

section
variable {w : Walk} (hwalk : (s.walks.find? fun w => w.slices / 2 ^ g.val % 2 == 0) = some w) {errs : List SetRead}
include hwalk

theorem execLossWalk_visits : execLossWalk g errs s = .next (
    let s1 := walked s g errs w
    if walkClear s1 w g = true then { s1 with walks := modFirst (fun v => v == w) (fun v => { v with slices := v.slices + 2 ^ g.val }) s1.walks } else s1) := by
  unfold execLossWalk
  rw [hwalk]
  rfl

theorem execLossWalk_finishes {s1 : State} (hs1 : s1 = walked s g errs w) (hclear : walkClear s1 w g = true) : execLossWalk g errs s =
    .next { s1 with walks := modFirst (fun v => v == w) (fun v => { v with slices := v.slices + 2 ^ g.val }) s1.walks } := by
  subst hs1
  exact (execLossWalk_visits hwalk).trans (congrArg Host.Outcome.next (if_pos hclear))

theorem execLossWalk_goesOn {s1 : State} (hs1 : s1 = walked s g errs w) (hclear : walkClear s1 w g = false) : execLossWalk g errs s = .next s1 := by
  subst hs1
  exact (execLossWalk_visits hwalk).trans (congrArg Host.Outcome.next (if_neg (Bool.eq_false_iff.mp hclear)))

end

end

theorem execDirectoryClearDone_ready {s : State} (hhbm : s.boot.hbm = true) (hfirst : s.boot.dirClear = false) : execDirectoryClearDone s =
    .next { (List.range 16).foldl (fun s g => setSlice s g { sliceOf s g with ready := true }) s with
      backing := [], ways := [], plru := [], boot := { s.boot with dirClear := true } } := if_pos ⟨hhbm, by simp [hfirst]⟩

/-! Messages at the edge (R204, R205, R218). -/

section
variable {p : PortId} {s : State}

theorem execMemInv_live {own : Bool} {m q : Msg} (hq : q = { m with kind := .memInv own }) (hport : portExists s p = true) (hrole : roleOf s p ≠ 0) :
    execMemInv p own m s = .next (lookupOutcome (countPort (count s (tileCtr (p.val / 8) 25) 1) p false 1 0) p q (lookupTarget s p q)) := by
  subst hq
  exact if_neg (by simp [hport, hrole])

/-- The forwarding proxy's open snoop that SNP_FWD asks for. -/
def fwdOf (p : Nat) (t : Txn) : Fwd :=
  { port := p, line := t.addr, kind := leAt t.data 6 1 % 2, reqPid := leAt t.data 0 2 % 4096, reqTag := leAt t.data 2 2, homePid := t.spid }

theorem execSnpFwd_forwards {i : Nat} (hfirst : (txnsWhere s fun t => t.phase == 4 && t.cmd == 0x13 && t.dst == portEp p).head? = some i) {t : Txn}
    (ht : t = txnOf s i) : execSnpFwd p s = .next (emit { dropTxn s i with fwds := s.fwds ++ [fwdOf p t] }
      (.port p (if leAt t.data 6 1 % 2 = 0 then 0x111 else 0x110) 0 t.addr t.tag [])) := by
  subst ht
  unfold execSnpFwd
  rw [hfirst]
  rfl

section
variable {addr : BitVec 64} {f : Fwd} {rest : List Fwd}
  (hfirst : takeFirst (fun f : Fwd => f.port == p.val && f.line == addr.toNat) s.fwds = some (f, rest)) (kept : Fin 3) {s1 : State}
  (hs1 : s1 = { s with fwds := rest })
include hfirst hs1

theorem execProxySnoopAnswer_clean :
    execProxySnoopAnswer p addr kept none s = .next (toPid s1 p f.homePid 0x22 (kept.val * 16) f.line f.reqTag []) := by
  subst hs1
  unfold execProxySnoopAnswer
  rw [hfirst]

/-- Dirty data goes to the requester, on this chip or by way of its PID, and to the home. -/
theorem execProxySnoopAnswer_dirty (d : List Byte) : execProxySnoopAnswer p addr kept (some d) s = .next (toPid
    (if tabFld s 0x17 f.reqPid 12 3 = 1 then deliverFwd s1 f.reqPid f.reqTag d else toPid s1 p f.reqPid 0x24 0 f.line f.reqTag d)
    p f.homePid 0x25 (kept.val * 16 + 12) f.line f.reqTag d) := by
  subst hs1
  unfold execProxySnoopAnswer
  rw [hfirst]
  simp only [beq_iff_eq]
  rfl

end

end

/-! The statements. -/

/-- The five requests by what the slice makes of its oldest one. -/
theorem requests_answered {s : State} {g : SliceId} {i : Nat} {rest : List Nat} (hrun : fabricRuns s = true) (hready : (sliceOf s g).ready = true)
    (hsink : (sliceOf s g).sink = []) (hconf : (sliceOf s g).conf.length < 256) (hscq : (sliceOf s g).scq.length < 64)
    (hinq : (sliceOf s g).inq = i :: rest) {d : DieRead} {t : State}
    (ht : takeRequest (setSlice s g { sliceOf s g with inq := rest }) g i d = t) :
    ((txnOf s i).cmd = 1 → execMrd g d s = .next t) ∧ ((txnOf s i).cmd = 2 → execMrdOwn g d s = .next t) ∧
    ((txnOf s i).cmd = 3 → execMrdNa g d s = .next t) ∧ ((txnOf s i).cmd = 4 → execMwr g d s = .next t) ∧
    ((txnOf s i).cmd = 5 → execMwrPtl g d s = .next t) := by
  have htakes := acceptReq_takes hrun hready hsink hconf hscq hinq d
  rw [ht] at htakes
  refine ⟨fun hcmd => ?_, fun hcmd => ?_, fun hcmd => ?_, fun hcmd => ?_, fun hcmd => ?_⟩
  all_goals exact congrArg Host.Outcome.next (hcmd ▸ htakes)

/-- Settles O47: the request that the slice takes waits, parks, or acts by the row of Table 8.6 that its line's state and its command name. That the open
transaction for which a snoop is sent does not hold it back is deduced (log 88); that the command brings the errors which its lookup finds on die is the
model's choice (log 39). -/
theorem homeServesRequestsByTheStateOfTheLine : Obligations.HomeServesRequestsByTheStateOfTheLine := by
  intro g d s i k n rest x s1 x1 cmd hrun hready hsink hconf hscq hinq hline go busy s2
  have hgo {t : State} (ht : takeRequest s1 g i d = t) : go t := requests_answered hrun hready hsink hconf hscq hinq ht
  have hactive (hfree : ¬busy) : takeRequest s1 g i d = activate s1 g k i d := takeRequest_activates hline (fun hwait => hfree (mustWait_iff.mp hwait))
  refine ⟨fun hbusy => hgo (takeRequest_waits hline (mustWait_iff.mpr hbusy)), fun hfree hmiss => hgo ((hactive hfree).trans (activate_miss hmiss)),
    fun hfree hhit hfull => hgo ((hactive hfree).trans ((activate_hit hhit).trans (proceed_parks hfull))), ?_⟩
  intro hfree hhit v w e r t others far htracker hstill hcmd
  have hacts {u : State} (hu : homeAct w g k n i = u) : go u :=
    hgo ((hactive hfree).trans ((activate_hit hhit).trans ((proceed_acts htracker).trans hu)))
  rw [← hcmd]
  refine ⟨fun hst => ?invalid, fun hst => ?shared, fun hst hother => ?owned, fun hst howner => ?ofOwner, fun hst => ?lost⟩
  case invalid =>
    obtain ⟨mrd, own, na, mwr, ptl⟩ := homeAct_invalid rfl rfl hstill rfl hst
    exact ⟨fun h => hacts (mrd h), fun h => hacts (own h), fun h => hacts (na h), fun h => hacts (mwr h), fun h => hacts (ptl h)⟩
  case shared =>
    obtain ⟨mrd, alone, own, na, write⟩ := homeAct_shared rfl rfl hstill rfl hst (others := others) rfl
    exact ⟨fun h => hacts (mrd h), fun h hnone => hacts (alone h hnone), fun h hsome => hacts (own h hsome), fun h => hacts (na h),
      fun h => hacts (write h)⟩
  case owned =>
    obtain ⟨near, fwd, nearOwn, fwdOwn, na, write⟩ := homeAct_owned rfl rfl hstill rfl hst hother (far := far) Iff.rfl
    exact ⟨fun h hf => hacts (near h hf), fun h hf => hacts (fwd h hf), fun h hf => hacts (nearOwn h hf), fun h hf => hacts (fwdOwn h hf),
      fun h => hacts (na h), fun h => hacts (write h)⟩
  case ofOwner =>
    obtain ⟨mrd, own, mwr, ptl⟩ := homeAct_ofOwner rfl rfl hstill rfl hst howner
    exact ⟨fun h => hacts (mrd h), fun h => hacts (own h), fun h => hacts (mwr h), fun h => hacts (ptl h)⟩
  case lost =>
    obtain ⟨read, mwr, ptl⟩ := homeAct_lost rfl rfl hstill hst
    exact ⟨fun h => hacts (read h), fun h => hacts (mwr h), fun h => hacts (ptl h)⟩

/-- Settles O48: each command takes the branch that its clause names. The patrol's order and the errors that a
command brings of what it reads are the model's choices (logs 37 and 39), as are the points that Chapters 8 and 9 leave open: the patrol's pace, which lines
are no victims, that a WB to another chip awaits its completion and that the CLOSE for an owner's WB is discarded and counted (log 96). Which open
transactions hold a snoop back is deduced (log 88). -/
theorem answersClosuresAndWalksAtTheHome : Obligations.AnswersClosuresAndWalksAtTheHome := by
  refine ⟨?sink, ?lists, fun s => execDirectoryClearDone_ready, ?edge, fun p s i hfirst => execSnpFwd_forwards hfirst rfl, ?proxy,
    fun p pid tag data s => rfl⟩
  case sink =>
    intro g d s i rest hrun hready hsink s0 t k a s1
    refine ⟨?wbOwner, ?wbBacking, ?wbWrite, ?snpRsp, ?snpStranger, ?err, ?errLost, fun hcmd => ?doneMiss, fun hcmd => ?doneNone, ?doneCloses⟩
    case wbOwner =>
      intro b n c hcmd hhit ha hst howner hidle hstill hagent hmval
      have hwb : execWb g d b s = .next (wbOnDie (readEnt s1 g k n) g k n i) := execWb_hit hrun hready hsink rfl rfl rfl rfl hcmd b hhit
      rw [readEnt_still hstill, wbOnDie_owner rfl hst howner (hagent.trans ha) hidle, hmval, ← ha] at hwb
      exact hwb
    case wbBacking => exact fun b h hcmd hmiss howned => execWb_backing hrun hready hsink rfl rfl rfl rfl hcmd b hmiss rfl rfl howned rfl
    case wbWrite => exact fun b hcmd hmiss hnone => execWb_write hrun hready hsink rfl rfl rfl rfl hcmd b hmiss rfl rfl hnone
    case snpRsp => exact fun c hcmd hagent => execSnpRsp_agent hrun hready hsink rfl rfl rfl rfl hcmd hagent
    case snpStranger => exact fun hcmd hagent => execSnpRsp_stranger hrun hready hsink rfl rfl rfl rfl hcmd hagent
    case err =>
      exact fun c n v hcmd hagent hhit hact hother => execErr_answers hrun hready hsink rfl rfl rfl rfl hcmd hagent hhit hact rfl rfl hother
    case errLost =>
      exact fun c n v j hcmd hagent hhit hact hst howner hlost hj =>
        execErr_ownerGone hrun hready hsink rfl rfl rfl rfl hcmd hagent hhit hact rfl rfl hst howner hlost hj
    case doneMiss => exact fun hmiss => execDone_discarded hrun hready hsink rfl rfl rfl hcmd rfl (.inl hmiss)
    case doneNone => exact fun hnone => execDone_discarded hrun hready hsink rfl rfl rfl hcmd rfl (.inr hnone)
    case doneCloses =>
      exact fun n o others hcmd hhit hopen hidle => execDone_closes hrun hready hsink rfl rfl rfl hcmd rfl hhit hopen rfl hidle
  case lists =>
    intro g s x
    refine ⟨fun d i k rest holdest hline => execConflictListActivate_oldest holdest hline d, fun d hconf => execConflictListActivate_empty hconf d,
      fun b a i hfirst htxn => execBackingReadReturn_looksUp hfirst htxn b, fun k rest a i => execSetConflictRelease_leaves,
      fun k => execSetConflictRelease_evicts, execSetConflictRelease_empty, fun b => execPatrolRead_due rfl b, fun b => execPatrolRead_waits rfl b, ?walk⟩
    exact fun errs w hwalk => ⟨execLossWalk_finishes hwalk rfl, execLossWalk_goesOn hwalk rfl⟩
  case edge =>
    exact fun p addr tag m own data s => ⟨rfl, execMemInv_live rfl, rfl, rfl⟩
  case proxy =>
    intro p addr kept s f rest hfirst s1
    refine ⟨execProxySnoopAnswer_clean hfirst kept rfl, fun d hhere => ?_, fun d haway => ?_⟩
    · exact (execProxySnoopAnswer_dirty hfirst kept rfl d).trans (by rw [if_pos hhere])
    · exact (execProxySnoopAnswer_dirty hfirst kept rfl d).trans (by rw [if_neg haway])

end Sys2Proof.Machine

/-! SUPPORT. The chart engines: what every step keeps of the stores, ABORT and claims, drafts, the fetch of a ring's next entry, doorbells and
registers, COMMIT and its flip, and the statements of 10_chart_engines.md settled from these. -/
namespace Sys2Proof.Machine

/-! Every command keeps the stores canonical. -/

/-- Each command by the lemma on its own meaning. -/
theorem exec_kept (c : Instr) (s : State) : KeptRes s (exec c s) := by
  have hk := Kept.refl s
  cases c with
  | routerCycle => exact execRouterCycle_kept _ _ _ _ _ s hk
  | starve => exact execStarve_kept _ _ s hk
  | epochDrainSum => exact execEpochDrainSum_kept _ s hk
  | proxyErrIssue => exact execProxyErrIssue_kept _ s hk
  | headerLookup => exact execHeaderLookup_kept _ _ s hk
  | cutThroughUnit => exact execCutThroughUnit_kept _ _ _ _ _ _ s hk
  | admission => exact execAdmission_kept _ _ s hk
  | egressSelect => exact execEgressSelect_kept _ s hk
  | responseLeaves => exact execResponseLeaves_kept _ s hk
  | relReportTimer => exact execRelReportTimer_kept _ _ _ s hk
  | rel => exact execRel_kept _ s hk
  | skip => exact execSkip_kept _ s hk
  | close => exact execClose_kept _ s hk
  | loadSevere => exact execLoadSevere_kept _ _ _ s hk
  | linkUp => exact execLinkUp_kept _ _ _ _ _ _ _ _ s hk
  | portLost => exact execPortLost_kept _ _ s hk
  | lossResponseIssue => exact execLossResponseIssue_kept _ s hk
  | hotResetReceived => exact execHotResetReceived_kept _ s hk
  | pmeTurnOff => exact execPmeTurnOff_kept _ s hk
  | macEpochCheck => exact execMacEpochCheck_kept _ _ _ s hk
  | viral => exact execViral_kept _ s hk
  | biConflict => exact execBiConflict_kept _ _ _ s hk
  | memInv => exact execMemInv_kept _ _ _ s hk
  | cleanEvict => exact execCleanEvict_kept _ _ _ s hk
  | d2hUnsupported => exact execD2hUnsupported_kept _ _ s hk
  | mrd => exact execMrd_kept _ _ s hk
  | mrdOwn => exact execMrdOwn_kept _ _ s hk
  | mrdNa => exact execMrdNa_kept _ _ s hk
  | mwr => exact execMwr_kept _ _ s hk
  | mwrPtl => exact execMwrPtl_kept _ _ s hk
  | wb => exact execWb_kept _ _ _ s hk
  | snpRsp => exact execSnpRsp_kept _ _ s hk
  | err => exact execErr_kept _ _ s hk
  | done => exact execDone_kept _ _ s hk
  | conflictListActivate => exact execConflictListActivate_kept _ _ s hk
  | snpFwd => exact execSnpFwd_kept _ s hk
  | proxySnoopAnswer => exact execProxySnoopAnswer_kept _ _ _ _ s hk
  | dataFwd => exact execDataFwd_kept _ _ _ _ s hk
  | backingReadReturn => exact execBackingReadReturn_kept _ _ s hk
  | setConflictRelease => exact execSetConflictRelease_kept _ s hk
  | patrolRead => exact execPatrolRead_kept _ _ s hk
  | lossWalk => exact execLossWalk_kept _ _ s hk
  | walkDone => exact execWalkDone_kept s hk
  | directoryClearDone => exact execDirectoryClearDone_kept s hk
  | drainPointReached => exact execDrainPointReached_kept _ s hk
  | scrubStart => exact execScrubStart_kept _ s hk
  | zeroComplete => exact execZeroComplete_kept _ s hk
  | offerExpired => exact execOfferExpired_kept _ s hk
  | releaseOverdue => exact execReleaseOverdue_kept _ s hk
  | deferredRegistration => exact execDeferredRegistration_kept _ s hk
  | decoderCommit => exact execDecoderCommit_kept _ s hk
  | decoderUncommit => exact execDecoderUncommit_kept _ s hk
  | identifyMemoryDevice => exact execIdentifyMemoryDevice_kept _ s hk
  | getDynamicCapacityConfiguration => exact execGetDynamicCapacityConfiguration_kept _ s hk
  | getDynamicCapacityExtentList => exact execGetDynamicCapacityExtentList_kept _ _ _ s hk
  | addDynamicCapacityResponse => exact execAddDynamicCapacityResponse_kept _ _ s hk
  | releaseDynamicCapacity => exact execReleaseDynamicCapacity_kept _ _ s hk
  | mailboxUnsupported => exact execMailboxUnsupported_kept _ _ s hk
  | identify => exact execIdentify_kept _ _ s hk
  | backgroundOperationStatus => exact execBackgroundOperationStatus_kept _ _ s hk
  | getResponseMessageLimit => exact execGetResponseMessageLimit_kept _ _ s hk
  | setResponseMessageLimit => exact execSetResponseMessageLimit_kept _ _ _ s hk
  | getEventRecords => exact execGetEventRecords_kept _ _ s hk
  | clearEventRecords => exact execClearEventRecords_kept _ _ _ s hk
  | identifySwitchDevice => exact execIdentifySwitchDevice_kept _ _ s hk
  | getPhysicalPortState => exact execGetPhysicalPortState_kept _ _ _ s hk
  | assertPerst => exact execAssertPerst_kept _ _ _ s hk
  | deassertPerst => exact execDeassertPerst_kept _ _ _ s hk
  | sendPpbCxlIoConfigurationRequest => exact execSendPpbCxlIoConfigurationRequest_kept _ _ _ _ _ _ s hk
  | getVirtualCxlSwitchInfo => exact execGetVirtualCxlSwitchInfo_kept _ _ _ s hk
  | fmBindVppb => exact execFmBindVppb_kept _ _ _ _ _ _ _ _ s hk
  | fmUnbindVppb => exact execFmUnbindVppb_kept _ _ _ _ s hk
  | generateAerEvent => exact execGenerateAerEvent_kept _ _ _ _ _ _ s hk
  | tunnelManagementCommand => exact execTunnelManagementCommand_kept _ _ _ _ _ s hk
  | sendLdCxlIoConfigurationRequest => exact execSendLdCxlIoConfigurationRequest_kept _ _ _ _ _ _ _ _ s hk
  | sendLdCxlIoMemoryRequest => exact execSendLdCxlIoMemoryRequest_kept _ _ _ _ _ _ _ _ s hk
  | getLdInfo => exact execGetLdInfo_kept _ _ _ _ _ s hk
  | getLdAllocations => exact execGetLdAllocations_kept _ _ _ _ _ s hk
  | setLdAllocations => exact execSetLdAllocations_kept _ _ _ _ _ s hk
  | getQosControl => exact execGetQosControl_kept _ _ _ _ _ s hk
  | setQosControl => exact execSetQosControl_kept _ _ _ _ _ s hk
  | getQosStatus => exact execGetQosStatus_kept _ _ _ _ _ s hk
  | getQosAllocatedBw => exact execGetQosAllocatedBw_kept _ _ _ _ _ s hk
  | setQosAllocatedBw => exact execSetQosAllocatedBw_kept _ _ _ _ _ s hk
  | getQosBwLimit => exact execGetQosBwLimit_kept _ _ _ _ _ s hk
  | setQosBwLimit => exact execSetQosBwLimit_kept _ _ _ _ _ s hk
  | getDcdInfo => exact execGetDcdInfo_kept _ _ s hk
  | getHostDcRegionConfiguration => exact execGetHostDcRegionConfiguration_kept _ _ _ s hk
  | setDcRegionConfiguration => exact execSetDcRegionConfiguration_kept _ _ _ _ _ s hk
  | getDcRegionExtentLists => exact execGetDcRegionExtentLists_kept _ _ _ _ _ s hk
  | initiateDynamicCapacityAdd => exact execInitiateDynamicCapacityAdd_kept _ _ _ _ _ _ _ _ _ _ s hk
  | initiateDynamicCapacityRelease => exact execInitiateDynamicCapacityRelease_kept _ _ _ _ s hk
  | fmUnsupportedCommand => exact execFmUnsupportedCommand_kept _ _ _ s hk
  | refLost => exact execRefLost_kept _ s hk
  | refReturn => exact execRefReturn_kept _ s hk
  | cdrLockAll => exact execCdrLockAll_kept _ _ _ s hk
  | cdrLockLost => exact execCdrLockLost_kept _ _ s hk
  | markerRunSeen => exact execMarkerRunSeen_kept _ _ s hk
  | markerCheck => exact execMarkerCheck_kept _ _ s hk
  | wakeHoldEnd => exact execWakeHoldEnd_kept _ s hk
  | alignRerun => exact execAlignRerun_kept _ s hk
  | alignResult => exact execAlignResult_kept _ s hk
  | paramResend => exact execParamResend_kept _ s hk
  | paramTimeout => exact execParamTimeout_kept _ s hk
  | paramFolio => exact execParamFolio_kept _ _ s hk
  | dataFolio => exact execDataFolio_kept _ _ s hk
  | nullFolio => exact execNullFolio_kept _ _ s hk
  | nakFolio => exact execNakFolio_kept _ _ s hk
  | rplyFolio => exact execRplyFolio_kept _ _ s hk
  | idleFolio => exact execIdleFolio_kept _ _ s hk
  | nakResend => exact execNakResend_kept _ s hk
  | ackTimeout => exact execAckTimeout_kept _ s hk
  | leanQualified => exact execLeanQualified_kept _ _ s hk
  | creditPeriod => exact execCreditPeriod_kept _ s hk
  | idleEntry => exact execIdleEntry_kept _ s hk
  | idleExitRequest => exact execIdleExitRequest_kept _ s hk
  | burstReceived => exact execBurstReceived_kept _ s hk
  | idleExitFailure => exact execIdleExitFailure_kept _ s hk
  | reopenDeadline => exact execReopenDeadline_kept _ s hk
  | timeMarkSend => exact execTimeMarkSend_kept _ s hk
  | timeMark => exact execTimeMark_kept _ s hk
  | timeEcho => exact execTimeEcho_kept _ s hk
  | tsSyncEdge => exact execTsSyncEdge_kept s hk
  | tsSyncLoss => exact execTsSyncLoss_kept s hk
  | tsPps => exact execTsPps_kept s hk
  | chartFetch => exact execChartFetch_kept _ _ s hk
  | hostReadResponse => exact execHostReadResponse_kept _ _ _ s hk
  | chartTimeout => exact execChartTimeout_kept _ s hk
  | endChart => exact execEndChart_kept _ s hk
  | bCc => exact execBCc_kept _ s hk
  | wait => exact execWait_kept _ s hk
  | waitExpiry => exact execWaitExpiry_kept _ s hk
  | time => exact execTime_kept _ s hk
  | rdcs => exact execRdcs_kept _ s hk
  | fail => exact execFail_kept _ s hk
  | add => exact execAdd_kept _ s hk
  | sub => exact execSub_kept _ s hk
  | and => exact execAnd_kept _ s hk
  | or => exact execOr_kept _ s hk
  | xor => exact execXor_kept _ s hk
  | shl => exact execShl_kept _ s hk
  | shr => exact execShr_kept _ s hk
  | sar => exact execSar_kept _ s hk
  | cmp => exact execCmp_kept _ s hk
  | tst => exact execTst_kept _ s hk
  | mul => exact execMul_kept _ s hk
  | ext => exact execExt_kept _ s hk
  | ins => exact execIns_kept _ s hk
  | li => exact execLi_kept _ s hk
  | lih => exact execLih_kept _ s hk
  | ld => exact execLd_kept _ _ s hk
  | st => exact execSt_kept _ s hk
  | hld => exact execHld_kept _ s hk
  | hst => exact execHst_kept _ s hk
  | hget => exact execHget_kept _ s hk
  | hput => exact execHput_kept _ _ s hk
  | trd => exact execTrd_kept _ s hk
  | twr => exact execTwr_kept _ s hk
  | tclr => exact execTclr_kept _ s hk
  | commit => exact execCommit_kept _ s hk
  | commitJudgement => exact execCommitJudgement_kept s hk
  | commitFlip => exact execCommitFlip_kept s hk
  | abort => exact execAbort_kept _ s hk
  | epoch => exact execEpoch_kept _ s hk
  | drain => exact execDrain_kept _ s hk
  | drainTimeout => exact execDrainTimeout_kept _ s hk
  | claim => exact execClaim_kept _ s hk
  | unclaim => exact execUnclaim_kept _ s hk
  | qclaim => exact execQclaim_kept _ s hk
  | merStewardHold => exact execMerStewardHold_kept _ s hk
  | merStewardRelease => exact execMerStewardRelease_kept _ s hk
  | merStewardReset => exact execMerStewardReset_kept _ s hk
  | merLegend => exact execMerLegend_kept _ s hk
  | merResetChip => exact execMerResetChip_kept _ s hk
  | merResetTile => exact execMerResetTile_kept _ s hk
  | merResetPort => exact execMerResetPort_kept _ s hk
  | portConfig => exact execPortConfig_kept _ s hk
  | portRetrain => exact execPortRetrain_kept _ s hk
  | portStatus => exact execPortStatus_kept _ s hk
  | laneSet => exact execLaneSet_kept _ s hk
  | laneSlip => exact execLaneSlip_kept _ _ s hk
  | laneAlign => exact execLaneAlign_kept _ _ s hk
  | laneEye => exact execLaneEye_kept _ _ s hk
  | laneStat => exact execLaneStat_kept _ s hk
  | islRetrain => exact execIslRetrain_kept _ s hk
  | islChip => exact execIslChip_kept _ s hk
  | bindVcs => exact execBindVcs_kept _ s hk
  | bindVppb => exact execBindVppb_kept _ s hk
  | bindUnvppb => exact execBindUnvppb_kept _ s hk
  | bindPld => exact execBindPld_kept _ s hk
  | bindAdd => exact execBindAdd_kept _ s hk
  | bindRelease => exact execBindRelease_kept _ s hk
  | bindGfam => exact execBindGfam_kept _ s hk
  | bindPid => exact execBindPid_kept _ s hk
  | cohDomain => exact execCohDomain_kept _ s hk
  | cohAgentAdd => exact execCohAgentAdd_kept _ s hk
  | cohAgentRemove => exact execCohAgentRemove_kept _ s hk
  | cohRegionShare => exact execCohRegionShare_kept _ s hk
  | cohRegionRelease => exact execCohRegionRelease_kept _ s hk
  | cohLookup => exact execCohLookup_kept _ s hk
  | qosPort => exact execQosPort_kept _ s hk
  | qosFlow => exact execQosFlow_kept _ s hk
  | fenceSet => exact execFenceSet_kept _ s hk
  | fenceClear => exact execFenceClear_kept _ s hk
  | slotConfig => exact execSlotConfig_kept _ s hk
  | slotMap => exact execSlotMap_kept _ s hk
  | slotOn => exact execSlotOn_kept _ _ s hk
  | slotOnTimeout => exact execSlotOnTimeout_kept _ s hk
  | slotOff => exact execSlotOff_kept _ s hk
  | slotStatus => exact execSlotStatus_kept _ _ s hk
  | surveyRun => exact execSurveyRun_kept _ s hk
  | surveyDetach => exact execSurveyDetach_kept _ s hk
  | surveyRecord => exact execSurveyRecord_kept _ s hk
  | evtRoute => exact execEvtRoute_kept _ s hk
  | evtMetric => exact execEvtMetric_kept _ s hk
  | evtPost => exact execEvtPost_kept _ s hk
  | evtTimer => exact execEvtTimer_kept _ s hk
  | perfArm => exact execPerfArm_kept _ s hk
  | perfDump => exact execPerfDump_kept _ s hk
  | perfGrant => exact execPerfGrant_kept _ s hk
  | perfRead => exact execPerfRead_kept _ s hk
  | perfTrace => exact execPerfTrace_kept _ s hk
  | vfEnable => exact execVfEnable_kept _ s hk
  | vfFrost => exact execVfFrost_kept _ s hk
  | vfSave => exact execVfSave_kept _ s hk
  | vfRestore => exact execVfRestore_kept _ s hk
  | vfThaw => exact execVfThaw_kept _ s hk
  | vfReset => exact execVfReset_kept _ s hk
  | moverRun => exact execMoverRun_kept _ s hk
  | moverPost => exact execMoverPost_kept _ s hk
  | moverWait => exact execMoverWait_kept _ s hk
  | moverTake => exact execMoverTake_kept _ s hk
  | moverLineIssue => exact execMoverLineIssue_kept _ s hk
  | descriptorComplete => exact execDescriptorComplete_kept _ s hk
  | tileProfile => exact execTileProfile_kept _ s hk
  | tileFrost => exact execTileFrost_kept _ s hk
  | frostDrainComplete => exact execFrostDrainComplete_kept _ s hk
  | frostBoundExpiry => exact execFrostBoundExpiry_kept _ s hk
  | tileThaw => exact execTileThaw_kept _ s hk
  | tilePowerDown => exact execTilePowerDown_kept _ s hk
  | tilePowerUp => exact execTilePowerUp_kept _ s hk
  | powerUpComplete => exact execPowerUpComplete_kept _ s hk
  | tileReset => exact execTileReset_kept _ s hk
  | enginePause => exact execEnginePause_kept s hk
  | engineResume => exact execEngineResume_kept s hk
  | cmdTail => exact execCmdTail_kept _ _ _ s hk
  | cplHead => exact execCplHead_kept _ _ _ s hk
  | eqHead => exact execEqHead_kept _ _ s hk
  | ringEnable => exact execRingEnable_kept _ _ s hk
  | ringDisable => exact execRingDisable_kept _ _ s hk
  | vfEnableSet => exact execVfEnableSet_kept _ s hk
  | vfEnableClear => exact execVfEnableClear_kept _ s hk
  | vfFlr => exact execVfFlr_kept _ s hk
  | pf0Flr => exact execPf0Flr_kept _ s hk
  | eqEnable => exact execEqEnable_kept _ s hk
  | eqDisable => exact execEqDisable_kept _ s hk
  | ovfClear => exact execOvfClear_kept _ s hk
  | faultClear => exact execFaultClear_kept _ s hk
  | msixUnmask => exact execMsixUnmask_kept _ _ s hk
  | mmioBad => exact execMmioBad_kept _ _ _ s hk
  | registerWrite => exact execRegisterWrite_kept _ _ s hk
  | stewardCoreAccess => exact execStewardCoreAccess_kept _ _ _ _ _ s hk
  | eventRecordWrite => exact execEventRecordWrite_kept _ s hk
  | rateWindowEnd => exact execRateWindowEnd_kept _ _ _ s hk
  | interruptModerationTimeout => exact execInterruptModerationTimeout_kept _ s hk
  | almanacPeriodicWrite => exact execAlmanacPeriodicWrite_kept _ s hk
  | gaugeSample => exact execGaugeSample_kept _ _ _ s hk
  | timerExpired => exact execTimerExpired_kept _ s hk
  | timerPulseEnd => exact execTimerPulseEnd_kept _ s hk
  | counterTick => exact execCounterTick_kept s hk
  | bwWindowEnd => exact execBwWindowEnd_kept _ _ s hk
  | dumpBlockComplete => exact execDumpBlockComplete_kept s hk
  | traceRecordWrite => exact execTraceRecordWrite_kept _ s hk
  | ledFrame => exact execLedFrame_kept s hk
  | presence => exact execPresence_kept _ s hk
  | presenceAbsent => exact execPresenceAbsent_kept _ s hk
  | surveyStart => exact execSurveyStart_kept _ s hk
  | surveyStepComplete => exact execSurveyStepComplete_kept _ _ s hk
  | surveyPerstRelease => exact execSurveyPerstRelease_kept _ s hk
  | surveyStepTimeout => exact execSurveyStepTimeout_kept _ s hk
  | attention => exact execAttention_kept _ s hk
  | attentionDetachStart => exact execAttentionDetachStart_kept _ s hk
  | detachTimeout => exact execDetachTimeout_kept _ s hk
  | partnerLost => exact execPartnerLost_kept _ s hk
  | feedValid => exact execFeedValid_kept _ _ _ _ s hk
  | feedInvalid => exact execFeedInvalid_kept _ _ _ s hk
  | reverse => exact execReverse_kept _ _ s hk
  | rampDone => exact execRampDone_kept _ _ s hk
  | slotPg => exact execSlotPg_kept _ _ _ s hk
  | voutLow => exact execVoutLow_kept _ _ s hk
  | limitTimerExpiry => exact execLimitTimerExpiry_kept _ s hk
  | limitCountReset => exact execLimitCountReset_kept _ s hk
  | severeOvercurrent => exact execSevereOvercurrent_kept _ _ s hk
  | enLowOff => exact execEnLowOff_kept _ s hk
  | enLowLatchClear => exact execEnLowLatchClear_kept _ s hk
  | enHigh => exact execEnHigh_kept _ s hk
  | handoverConfirmed => exact execHandoverConfirmed_kept _ s hk
  | handback => exact execHandback_kept _ s hk
  | slotSettingsApply => exact execSlotSettingsApply_kept _ s hk
  | vddPcdUndervoltage => exact execVddPcdUndervoltage_kept s hk
  | thermtrip => exact execThermtrip_kept s hk
  | vddAoPowerOn => exact execVddAoPowerOn_kept s hk
  | maskRomCheck => exact execMaskRomCheck_kept s hk
  | coldReset => exact execColdReset_kept s hk
  | pwrOkRise => exact execPwrOkRise_kept s hk
  | strapLatch => exact execStrapLatch_kept _ s hk
  | hbmTrained => exact execHbmTrained_kept s hk
  | stewardImageVerified => exact execStewardImageVerified_kept s hk
  | settingsApplied => exact execSettingsApplied_kept s hk
  | fabricReady => exact execFabricReady_kept s hk
  | holdBootTimeout => exact execHoldBootTimeout_kept s hk
  | warmReset => exact execWarmReset_kept s hk
  | warmResetEnd => exact execWarmResetEnd_kept s hk
  | meridianWatchdog => exact execMeridianWatchdog_kept s hk
  | portResetEnd => exact execPortResetEnd_kept _ s hk
  | measurementReport => exact execMeasurementReport_kept s hk
  | ready => exact execReady_kept s hk
  | handoverTimeout => exact execHandoverTimeout_kept s hk
  | fwStagingTimeout => exact execFwStagingTimeout_kept s hk
  | spdmHeartbeatTimeout => exact execSpdmHeartbeatTimeout_kept _ s hk
  | setEndpointId => exact execSetEndpointId_kept _ _ s hk
  | getEndpointId => exact execGetEndpointId_kept _ s hk
  | getEndpointUuid => exact execGetEndpointUuid_kept _ s hk
  | getMctpVersionSupport => exact execGetMctpVersionSupport_kept _ s hk
  | getMessageTypeSupport => exact execGetMessageTypeSupport_kept _ s hk
  | getVendorDefinedMessageSupport => exact execGetVendorDefinedMessageSupport_kept _ s hk
  | mctpDiscard => exact execMctpDiscard_kept _ _ _ s hk
  | chart => exact execChart_kept _ _ _ _ s hk
  | partner => exact execPartner_kept _ _ _ s hk
  | almanac => exact execAlmanac_kept _ _ _ s hk
  | legend => exact execLegend_kept _ _ s hk
  | admitRead => exact execAdmitRead_kept _ _ s hk
  | admitWrite => exact execAdmitWrite_kept _ _ _ s hk
  | fwBegin => exact execFwBegin_kept _ _ _ s hk
  | fwData => exact execFwData_kept _ _ _ _ s hk
  | fwEnd => exact execFwEnd_kept _ _ s hk
  | fwActivateLive => exact execFwActivateLive_kept _ _ _ s hk
  | fwActivatePreferred => exact execFwActivatePreferred_kept _ _ s hk
  | challenge => exact execChallenge_kept _ _ s hk
  | transfer => exact execTransfer_kept _ _ _ s hk
  | release => exact execRelease_kept _ _ _ s hk
  | keySet => exact execKeySet_kept _ _ _ s hk
  | anchorSet => exact execAnchorSet_kept _ _ _ s hk
  | policy => exact execPolicy_kept _ _ _ s hk
  | lockSet => exact execLockSet_kept _ _ _ s hk
  | svnRaise => exact execSvnRaise_kept _ _ _ s hk
  | fieldLock => exact execFieldLock_kept _ _ _ s hk
  | steward => exact execSteward_kept _ _ _ s hk
  | getVersion => exact execGetVersion_kept _ s hk
  | getCapabilities => exact execGetCapabilities_kept _ s hk
  | negotiateAlgorithms => exact execNegotiateAlgorithms_kept _ s hk
  | getDigests => exact execGetDigests_kept _ s hk
  | getCertificate => exact execGetCertificate_kept _ _ s hk
  | spdmChallenge => exact execSpdmChallenge_kept _ _ s hk
  | getMeasurements => exact execGetMeasurements_kept _ _ s hk
  | keyExchange => exact execKeyExchange_kept _ _ _ s hk
  | heartbeat => exact execHeartbeat_kept _ s hk
  | keyUpdate => exact execKeyUpdate_kept _ s hk
  | endSession => exact execEndSession_kept _ s hk
  | bypass => exact execBypass_kept s hk
  | idcode => exact execIdcode_kept s hk
  | samplePreload => exact execSamplePreload_kept _ _ s hk
  | extest => exact execExtest_kept _ s hk
  | tapChallenge => exact execTapChallenge_kept s hk
  | tapToken => exact execTapToken_kept _ s hk
  | unlockTokenVerdict => exact execUnlockTokenVerdict_kept s hk
  | accessRead => exact execAccessRead_kept _ _ _ _ _ s hk
  | accessWrite => exact execAccessWrite_kept _ _ _ _ s hk
  | core => exact execCore_kept _ _ _ s hk
  | tapClose => exact execTapClose_kept s hk
  | scopeLifetimeEnd => exact execScopeLifetimeEnd_kept s hk
  | recoveryEntry => exact execRecoveryEntry_kept _ _ s hk
  | returnToL0 => exact execReturnToL0_kept _ _ _ s hk
  | lowPowerEntry => exact execLowPowerEntry_kept _ _ _ s hk
  | lowPowerExit => exact execLowPowerExit_kept _ s hk
  | chkLock => exact execChkLock_kept _ _ s hk
  | lockLoss => exact execLockLoss_kept _ _ s hk
  | slotLimit => exact execSlotLimit_kept _ _ _ s hk
  | vfFrostTimeout => exact execVfFrostTimeout_kept _ s hk
  | meridianRestart => exact execMeridianRestart_kept s hk
  | entdaa => exact execEntdaa_kept _ s hk
  | folioTransmit => exact execFolioTransmit_kept _ s hk
  | ideKeyManagement => exact execIdeKeyManagement_kept _ _ _ s hk

theorem Kept.canonical {s t : State} (h : Kept s t) (hs : Canonical s) : Canonical t := by
  obtain ⟨hhbm, htab, hclaims, hengines⟩ := hs
  exact ⟨h.hbm hhbm, h.tab htab, h.claims hclaims, h.engines hengines⟩

theorem idleTick_canonical {s : State} (hs : Canonical s) : Canonical (idleTick s) := by
  unfold idleTick
  split
  · exact hs
  · exact hs

theorem exec_canonical {c : Instr} {s t : State} (hs : Canonical s) (hgo : exec c s = .next t) : Canonical t :=
  ((exec_kept c s).out t hgo).canonical hs

/-- Settles O3: every store of the reset state is short enough to be read off. -/
theorem resetStoresAreCanonical : Obligations.ResetStoresAreCanonical := by
  unfold Obligations.ResetStoresAreCanonical
  decide

/-- Settles O4: an idle nanosecond leaves the stores alone, and every command keeps their canonical form. -/
theorem everyStepKeepsTheStoresCanonical : Obligations.EveryStepKeepsTheStoresCanonical := by
  intro s t hs hgo
  unfold Goes at hgo
  cases hq : s.pending with
  | nil =>
    rw [step_of_pending_nil hq] at hgo
    injection hgo with ht
    exact ht ▸ idleTick_canonical hs
  | cons c q =>
    rw [step_of_pending_cons hq] at hgo
    exact exec_canonical (s := { s with pending := q }) hs hgo

/-! Claims. -/

section Claims
variable {e : EngineId} {s : State}

/-- CLAIM past the checks of its instruction, by the owner of the entry it names. -/
theorem execClaim_stands (h : Stands s e 0x38) {x : Engine} {i : Nat} (hx : engineOf s e = x) (hi : claimIndex x (wordAt x) = i) :
    execClaim e s = .next (
      if 228 ≤ i then finish s e x 5
      else if claimOwner s i = x.sub then finish s e x 0
      else if claimOwner s i = 0xFFFF then finish (setClaim s i x.sub) e x 0
      else finish s e x 2) := by
  subst hx hi
  exact congrArg Host.Outcome.next (onOp_stands h _)

theorem execQclaim_stands (h : Stands s e 0x3A) {x : Engine} {i : Nat} (hx : engineOf s e = x) (hi : claimIndex x (wordAt x) = i) :
    execQclaim e s = .next (
      if 511 < i then finish s e x 5 else finish s e (regSet x (gdOf (wordAt x)) (BitVec.ofNat 64 (claimOf s i))) 0) := by
  subst hx hi
  exact congrArg Host.Outcome.next (onOp_stands h _)

end Claims

/-- Settles O14: each clause is one branch of CLAIM or QCLAIM. -/
theorem claimResults : Obligations.ClaimResults := by
  intro e s x w i
  have hclaim (hst : Stands s e 0x38) := execClaim_stands (x := x) (i := i) hst rfl rfl
  have hqclaim (hst : Stands s e 0x3A) := execQclaim_stands (x := x) (i := i) hst rfl rfl
  refine ⟨?free, ?held, ?other, ?unknown, ?query, ?queryUnknown⟩
  case free =>
    intro ⟨hst, hin⟩ hi hfree hsub
    rw [exec_claim, hclaim hst, if_neg (Nat.not_le.mpr hi), if_neg fun h => hsub (h.symm.trans hfree), if_pos hfree, finish_moveOk _ _ _ hin]
  case held =>
    intro ⟨hst, hin⟩ hi hown
    rw [exec_claim, hclaim hst, if_neg (Nat.not_le.mpr hi), if_pos hown, finish_moveOk _ _ _ hin]
  case other =>
    intro hst hi hown hfree
    rw [exec_claim, hclaim hst, if_neg (Nat.not_le.mpr hi), if_neg hown, if_neg hfree, finish_bad _ _ _ _ (by decide)]
  case unknown =>
    intro hst hi
    rw [exec_claim, hclaim hst, if_pos hi, finish_bad _ _ _ _ (by decide)]
  case query =>
    intro ⟨hst, hin⟩ hi
    rw [exec_qclaim, hqclaim hst, if_neg (Nat.not_lt.mpr hi), finish_moveOk]
    rw [regSet_pc, regSet_ninstr]
    exact hin
  case queryUnknown =>
    intro hst hi
    rw [exec_qclaim, hqclaim hst, if_pos hi, finish_bad _ _ _ _ (by decide)]

/-! ABORT. -/

/-- The engine past an ABORT. -/
def aborted (s : State) (x : Engine) : Engine := { x with drafts := [], pc := x.pc + 1, wait := .run, boundary := s.clock }

theorem execAbort_runs {e : EngineId} {s : State} (h : Runs s e 0x34) : execAbort e s = .next (setEngine s e (aborted s (engineOf s e))) := by
  obtain ⟨hst, hin⟩ := h
  exact congrArg Host.Outcome.next ((onOp_stands hst _).trans (advance_moveOn s e { engineOf s e with drafts := [] } hin))

/-- What an engine finds reserved, after another's drafts are gone, a third engine reserves. -/
theorem reservedElsewhere_setEngine_noDrafts {s : State} {e : Nat} {x : Engine} (hwf : Engines.wf s.engines = true) (hx : x.drafts = []) {f k : Nat}
    (hres : reservedElsewhere (setEngine s e x) f k = true) :
    ∃ g, g < 16 ∧ g ≠ e ∧ g ≠ f ∧ (engineOf s g).drafts.any (fun d => resKey d.key == resKey k) = true := by
  unfold reservedElsewhere at hres
  obtain ⟨g, hg, hgf⟩ := List.any_eq_true.mp hres
  rw [Bool.and_eq_true, bne_iff_ne] at hgf
  obtain ⟨hne, hany⟩ := hgf
  have hge : g ≠ e := by
    rintro rfl
    rw [engineOf_setEngine_self s g x hwf, hx] at hany
    exact Bool.false_ne_true hany
  rw [engineOf_setEngine_ne s e g x hwf hge] at hany
  exact ⟨g, List.mem_range.mp hg, hge, hne, hany⟩

/-- Settles O42: the engine is written without drafts, so none of its reservations is found any more. -/
theorem abortDiscardsEveryDraftAndReservation : Obligations.AbortDiscardsEveryDraftAndReservation := by
  intro e s hwf hrun
  refine ⟨_, execAbort_runs hrun, ?_⟩
  have hself := engineOf_setEngine_self s e (aborted s (engineOf s e)) hwf
  refine ⟨?_, ?_, ?_, ?_, ?_, fun f k _ _ => reservedElsewhere_setEngine_noDrafts hwf rfl, fun k v mask i h => ?_,
    fun f hf => engineOf_setEngine_ne s e f _ hwf hf, rfl, rfl, rfl⟩
  case refine_6 => rw [draft_allowed h]
  all_goals rw [hself]; rfl

/-! What a chart sees of the entries it drafts. -/

theorem getLsbD_merge (a v m : Entry) (j : Nat) (hj : j < 256) : (merge a v m).getLsbD j = if m.getLsbD j then v.getLsbD j else a.getLsbD j := by
  simp only [merge, BitVec.getLsbD_or, BitVec.getLsbD_and, BitVec.getLsbD_not, hj, decide_true, Bool.true_and]
  cases m.getLsbD j <;> simp

/-- Bits entered over bits already entered: the later ones over the earlier. -/
theorem merge_merge_or (a v w m n : Entry) : merge a (merge v w n) (m ||| n) = merge (merge a v m) w n := by
  apply BitVec.eq_of_getLsbD_eq
  intro j hj
  simp only [getLsbD_merge, hj, BitVec.getLsbD_or]
  cases m.getLsbD j <;> cases n.getLsbD j <;> rfl

theorem merge_merge_masked (a b v m : Entry) : merge a (merge b v m) m = merge a v m := by
  apply BitVec.eq_of_getLsbD_eq
  intro j hj
  simp only [getLsbD_merge, hj]
  cases m.getLsbD j <;> rfl

section ModFirst
variable {α : Type} {p q : α → Bool} {f : α → α}

/-- The replaced element is the one that is found. -/
theorem find?_modFirst_self (hf : ∀ x, p x = true → p (f x) = true) (l : List α) : (modFirst p f l).find? p = (l.find? p).map f := by
  induction l with
  | nil => rfl
  | cons x xs ih =>
    unfold modFirst
    cases hx : p x with
    | true => simp [hx, hf x hx]
    | false => simp [hx, ih]

theorem find?_modFirst_other (hf : ∀ x, p x = true → q x = false ∧ q (f x) = false) (l : List α) : (modFirst p f l).find? q = l.find? q := by
  induction l with
  | nil => rfl
  | cons x xs ih =>
    unfold modFirst
    cases hx : p x with
    | true => simp [hf x hx]
    | false => simp [ih, List.find?_cons]

end ModFirst

section PutDraft
variable {s : State} {x : Engine} {t i : Nat} {v mask : Entry}

theorem seenVal_of_some {d : Draft} (h : draftOf x (tkey t i) = some d) : seenVal s x t i = merge (tabVal s t i) d.val d.mask := by
  unfold seenVal; rw [h]

theorem seenVal_of_none (h : draftOf x (tkey t i) = none) : seenVal s x t i = tabVal s t i := by
  unfold seenVal; rw [h]

/-- A draft with further bits entered. -/
def enterBits (v mask : Entry) (d : Draft) : Draft := { d with val := merge d.val v mask, mask := d.mask ||| mask }

/-- The chart has a draft of the entry: the bits go into it. -/
theorem putDraft_again {d : Draft} (h : draftOf x (tkey t i) = some d) : putDraft s x t i v mask =
    { x with drafts := modFirst (fun d => d.key == tkey t i) (enterBits v mask) x.drafts } :=
  if_pos (List.any_eq_true.mpr ⟨d, List.mem_of_find?_eq_some h, List.find?_some h⟩)

/-- The chart has no draft of the entry: a new one comes last. -/
theorem putDraft_new (h : draftOf x (tkey t i) = none) : putDraft s x t i v mask =
    { x with drafts := x.drafts ++ [⟨tkey t i, merge 0 v mask, mask, (tabEntry s t i).num⟩] } := by
  have hnone := List.find?_eq_none.mp h
  refine if_neg fun hany => ?_
  obtain ⟨d, hd, hkey⟩ := List.any_eq_true.mp hany
  exact hnone d hd hkey

theorem seenVal_putDraft_self : seenVal s (putDraft s x t i v mask) t i = merge (seenVal s x t i) v mask := by
  cases h : draftOf x (tkey t i) with
  | some d =>
    have hfound : draftOf (putDraft s x t i v mask) (tkey t i) = some (enterBits v mask d) := by
      rw [putDraft_again h]
      exact (find?_modFirst_self (p := fun d : Draft => d.key == tkey t i) (f := enterBits v mask) (fun _ hx => hx) x.drafts).trans (congrArg _ h)
    rw [seenVal_of_some hfound, seenVal_of_some h]
    exact merge_merge_or ..
  | none =>
    have hfound : draftOf (putDraft s x t i v mask) (tkey t i) = some ⟨tkey t i, merge 0 v mask, mask, (tabEntry s t i).num⟩ := by
      rw [putDraft_new h]
      unfold draftOf at h ⊢
      rw [List.find?_append, h]
      simp
    rw [seenVal_of_some hfound, seenVal_of_none h]
    exact merge_merge_masked ..

theorem draftOf_putDraft_ne {k : Nat} (hk : k ≠ tkey t i) : draftOf (putDraft s x t i v mask) k = draftOf x k := by
  cases h : draftOf x (tkey t i) with
  | some d =>
    rw [putDraft_again h]
    refine find?_modFirst_other (fun d hd => ?_) _
    have hkey : (d.key == k) = false := by rw [eq_of_beq hd]; exact beq_false_of_ne hk.symm
    exact ⟨hkey, hkey⟩
  | none =>
    rw [putDraft_new h]
    unfold draftOf
    rw [List.find?_append, List.find?_singleton, if_neg (by simpa using hk.symm), Option.or_none]

theorem seenVal_putDraft_ne {t' i' : Nat} (hk : tkey t' i' ≠ tkey t i) : seenVal s (putDraft s x t i v mask) t' i' = seenVal s x t' i' := by
  unfold seenVal
  rw [draftOf_putDraft_ne hk]

end PutDraft

/-- What a draft answers where it is not allowed: no status 0, the engine as it was, and of the state no more than the event of a locked field. -/
structure Refused (s : State) (x : Engine) (i : Nat) (d : Nat × State × Engine) : Prop where
  status : d.1 ≠ 0
  engine : d.2.2 = x
  state : d.2.1 = s ∨ d.1 = 9 ∧ d.2.1 = lkWrite s i

theorem Refused.plain {s : State} {x : Engine} {i st : Nat} (h : st ≠ 0) : Refused s x i (st, s, x) := ⟨h, rfl, .inl rfl⟩

theorem Refused.ite {s : State} {x : Engine} {i : Nat} {c : Prop} [Decidable c] {a b : Nat × State × Engine} (ha : c → Refused s x i a)
    (hb : ¬c → Refused s x i b) : Refused s x i (if c then a else b) := by
  split
  next h => exact ha h
  next h => exact hb h

theorem draft_refused {s : State} {e : Nat} {x : Engine} {t i : Nat} {v mask : Entry} (h : ¬ Draftable s e x t i v mask) :
    Refused s x i (draft s e x t i v mask) := by
  refine .ite (fun _ => .plain (by decide)) fun hscope => ?_
  refine .ite (fun _ => .plain (by decide)) fun hfree => ?_
  refine .ite (fun _ => .plain (by decide)) fun hplane => ?_
  refine .ite (fun _ => ⟨Nat.succ_ne_zero 8, rfl, .inr ⟨rfl, rfl⟩⟩) fun hlock => ?_
  refine .ite (fun _ => .plain (by decide)) fun hreserved => ?_
  refine .ite (fun hclaim => .plain hclaim) fun hclaim => ?_
  refine .ite (fun _ => .plain (by decide)) fun hroom => absurd ?_ h
  have hplace : (draftOf x (tkey t i)).isSome = true ∨ x.drafts.length < 512 :=
    (Decidable.not_and_iff_not_or_not.mp hroom).imp (fun h => Option.ne_none_iff_isSome.mp (mt Option.isNone_iff_eq_none.mpr h)) Nat.not_le.mp
  exact ⟨eq_false_of_ne_true hscope, eq_false_of_ne_true hfree, hplane, Decidable.not_not.mp hlock, eq_false_of_ne_true (not_or.mp hreserved).2,
    Decidable.not_not.mp hclaim, hplace⟩

/-- Settles O18: a draft that is allowed enters its bits, and any other answers its status. -/
theorem draftingEntersExactlyTheAllowedBits : Obligations.DraftingEntersExactlyTheAllowedBits := by
  intro s e x t i v mask d
  by_cases h : Draftable s e x t i v mask
  · have hd : d = (0, s, putDraft s x t i v mask) := draft_allowed h
    rw [hd]
    exact ⟨iff_of_true rfl h, fun _ => ⟨rfl, putDraft_frame .., seenVal_putDraft_self, fun _ _ => seenVal_putDraft_ne⟩, fun hne => absurd rfl hne⟩
  · obtain ⟨hst, hengine, hstate⟩ : Refused s x i d := draft_refused h
    exact ⟨iff_of_false hst h, fun h0 => absurd h0 hst, fun _ => ⟨hengine, hstate⟩⟩

/-! The fetch from a ring. -/

theorem takeFirst_none {α : Type} {p : α → Bool} {l : List α} (h : ∀ a ∈ l, p a = false) : takeFirst p l = none := by
  induction l with
  | nil => rfl
  | cons a l ih =>
    unfold takeFirst
    rw [if_neg (by simp [h a]), ih fun b hb => h b (List.mem_cons_of_mem a hb)]

/-- Nothing of the engine's own waits: it serves the next ring with an entry in memory. -/
theorem fetchNext_ring {s : State} {e r : Nat} (h8 : e < 12 ∨ (smGet {} s.rings 8).msgs = []) (hres : ∀ k ∈ s.residents, k.engine ≠ min e 12)
    (hint : ∀ k ∈ s.internals, k.target ≠ min e 12) (hnext : nextRing (smGet 0 s.ringTurn (min e 12)) (ringsFor s e) = some r) (hr : 16 ≤ r) :
    fetchNext s e = takeEntry { s with ringTurn := smSet 0 s.ringTurn (min e 12) r } e r := by
  have hnot8 : ¬(12 ≤ e ∧ (!(smGet {} s.rings 8).msgs.isEmpty) = true) := by
    rintro ⟨he, hmsgs⟩
    rcases h8 with h8 | h8
    · omega
    · rw [h8] at hmsgs; exact absurd hmsgs (by decide)
  unfold fetchNext
  dsimp only
  rw [if_neg hnot8, takeFirst_none fun k hk => beq_false_of_ne (hres k hk), takeFirst_none fun k hk => beq_false_of_ne (hint k hk), hnext]
  exact if_neg (by omega)

/-- The chart of an entry whose read leaves by its master's path waits for it. -/
theorem takeEntry_asks {s : State} {e r m sp q : Nat} {l : RingLive} {v : Entry} {x : Engine} {s1 : State} (hl : smGet {} s.rings r = l)
    (hv : tabVal s 0x30 r = v)
    (hx : { newChart s (.ring r) (fld v 116 16) with
      master := subMaster s (fld v 116 16) r 0, cplPos := l.cplNext, cplGen := l.gen, wait := .fetchEntry } = x)
    (hs : chartTaken { s with rings := smSet {} s.rings r { l with
      cmdHead := (l.cmdHead + 1) % ringEntries (fld v 194 4), cplNext := l.cplNext + 1 } } = s1)
    (hpass : Passes s1 x (fld v 198 58 * 64 + l.cmdHead % ringEntries (fld v 194 4) * 64) (8 * 8) false m sp q) :
    takeEntry s e r = setEngine (asks s1 e x m sp q 8) e x := by
  subst hl hv hx hs
  unfold takeEntry
  dsimp only
  rw [memCheck_passes hpass]
  dsimp only
  rw [if_neg (by decide), memLocal_passes hpass]
  dsimp only
  rw [memAsk_passes hpass]

/-- Settles O17: the engine serves the ring, and the read of its entry leaves by the submitter's path. -/
theorem chartFetchTakesTheNextEntry : Obligations.ChartFetchTakesTheNextEntry := by
  intro e s r m sp q l v n sub s0 x s1 hmay h8 hres hint hnext hr hpass
  have htake : takeEntry s0 e r = setEngine (asks s1 e x m sp q 8) e x := takeEntry_asks rfl rfl rfl rfl hpass
  rw [exec_chartFetch]
  unfold execChartFetch
  dsimp only
  rw [if_pos hmay, fetchNext_ring h8 hres hint hnext hr]
  exact congrArg Host.Outcome.next htake

/-! Doorbells of rings. -/

section Doorbells
variable {s : State} {f j r : Nat}

/-- A doorbell of a function that neither a frozen VF nor a tile that is not LIVE holds acts on its ring. -/
theorem fnDoorbell_acts (hring : fnRing s f j = some r) (hst : f < 2048 → funcState s f < 2 ∨ 5 < funcState s f) (htile : fnTileSt s f = 0) (kind v : Nat) :
    fnDoorbell s f j kind v = ringDoorbell s f r kind v := by
  unfold fnDoorbell
  rw [hring]
  dsimp only
  rw [if_neg fun ⟨hf, h2, h5⟩ => by have := hst hf; omega, if_neg (by simp [htile])]

theorem fnDoorbell_frozen (hring : fnRing s f j = some r) (hf : f < 2048) (h2 : 2 ≤ funcState s f) (h5 : funcState s f ≤ 5) (kind v : Nat) :
    fnDoorbell s f j kind v = latchDoorbell s f kind r v := by
  unfold fnDoorbell
  rw [hring]
  exact if_pos ⟨hf, h2, h5⟩

/-- Where the size code of the ring that a doorbell's pointer runs in stands in the ring's entry (Table 10.3). -/
def sizeAt (kind : Nat) : Nat := if kind = 0 then 194 else 132

theorem ringDoorbell_bad {kind v : Nat} (h : tabFld s 0x30 r 100 1 = 0 ∨ 2 ^ (tabFld s 0x30 r (sizeAt kind) 4 + 4) ≤ v) :
    ringDoorbell s f r kind v = raiseEvent s 0x480 f [] := if_pos h

theorem ringDoorbell_sets {kind v : Nat} (hen : tabFld s 0x30 r 100 1 = 1) (hv : v < 2 ^ (tabFld s 0x30 r (sizeAt kind) 4 + 4)) :
    ringDoorbell s f r kind v =
      { s with rings := smMod {} s.rings r fun x => if kind = 0 then { x with cmdTail := v } else { x with cplHead := v } } :=
  if_neg (not_or.mpr ⟨fun h0 => absurd (h0.symm.trans hen) (by decide), Nat.not_le.mpr hv⟩)

end Doorbells

/-! Ring slots. -/

section RingSlots
variable {f : Option FuncId} {j : Fin 8} {s : State} {r : Nat}

/-- The engines on which a ring slot's commit chart may run: those of the function's tile, or the global ones for Steward. -/
def slotTarget (s : State) (f : Option FuncId) : Nat := match f with | some g => funcPort s g / 8 | none => 12

theorem submitFor_enable_committing (hcom : ringCommitting s r = true) (on : Bool) : submitFor (slotEnable s r on) (ownerNo f) r on = s := by
  unfold slotEnable submitFor
  rw [if_pos hcom, if_pos hcom]

theorem submitFor_enable_idle (hcom : ringCommitting s r = false) (on : Bool) : submitFor (slotEnable s r on) (ownerNo f) r on =
    { setRingSlot s r { ringSlot s r with enable := on } with internals := s.internals ++ [⟨slotTarget s f, .ring r on⟩] } := by
  have hset : ringCommitting (setRingSlot s r { ringSlot s r with enable := on }) r = false := hcom
  unfold slotEnable
  rw [if_neg (by simp [hcom])]
  unfold submitFor
  rw [if_neg (by simp [hset])]
  cases f with
  | none => rfl
  | some g =>
    have hg : g.val ≠ 0xFFFF := by have := g.isLt; omega
    unfold ownerNo slotTarget
    dsimp only
    rw [if_neg hg]
    rfl

end RingSlots

/-! MSI-X vectors. -/

section Msix
variable {s : State} {f vec : Nat} {m : Msix}

theorem msixOf_setMsix_self (hwf : smWf (fun _ => ({} : Msix)) s.svc.msix = true) : msixOf (setMsix s f m) f = m :=
  smGet_smSet_self (fun _ => ({} : Msix)) s.svc.msix f m hwf

theorem msixVector_quiet (hm : msixOf s f = m) (hpba : m.pba.getLsbD vec = false) : msixVector s f vec = s := by
  unfold msixVector
  rw [hm]
  exact if_neg (by simp [hpba])

/-- A pending message that nothing masks leaves from the function's endpoint toward its port. -/
theorem msixVector_sends (hwf : smWf (fun _ => ({} : Msix)) s.svc.msix = true) (hm : msixOf s f = m) (hpba : m.pba.getLsbD vec = true)
    (hen : m.enable = true) (hfn : m.fnMask = false) (hmask : m.mask.getLsbD vec = false) (hst : funcState s f < 2 ∨ 5 < funcState s f) :
    msixVector s f vec = msixOut (setMsix s f { m with pba := m.pba &&& ~~~(BitVec.ofNat 8 (2 ^ vec)) })
      (svcEp (funcPort s f)) 0 (funcPort s f) f vec (smGet 0 m.addr vec) (smGet 0 m.data vec) := by
  let m' := { m with pba := m.pba &&& ~~~(BitVec.ofNat 8 (2 ^ vec)) }
  have hm' : smGet {} (setMsix s f m').svc.msix f = m' := msixOf_setMsix_self hwf
  have hst' : ¬(2 ≤ funcState (setMsix s f m') f ∧ funcState (setMsix s f m') f ≤ 5) := by
    change ¬(2 ≤ funcState s f ∧ funcState s f ≤ 5)
    omega
  unfold msixVector
  rw [hm]
  dsimp only
  rw [if_pos hpba]
  unfold sendMsix
  rw [hm']
  refine if_neg ?_
  rintro (h | h | h | h)
  · exact Bool.false_ne_true (hfn.symm.trans h)
  · exact Bool.false_ne_true (hmask.symm.trans h)
  · exact Bool.false_ne_true ((congrArg not hen).symm.trans h)
  · exact hst' h

/-- The bit of a vector, cleared. -/
theorem getLsbD_clearBit (b : BitVec 8) (vec : Fin 8) : (b &&& ~~~(BitVec.ofNat 8 (2 ^ vec.val))).getLsbD vec = false := by
  have hbit : (BitVec.ofNat 8 (2 ^ vec.val)).getLsbD vec = true := by
    rw [BitVec.getLsbD_ofNat, Nat.testBit_two_pow_self]
    simp
  rw [BitVec.getLsbD_and, BitVec.getLsbD_not, hbit]
  simp

end Msix

/-! Register writes. -/

theorem barStore_word {s : State} {f off v : Nat} (h : off % 4 = 0) : barStore s f off 4 v = barWrite s f off (v % 2 ^ 32) := by
  unfold barStore
  rw [if_pos (by simp [mmioOk, h])]
  simp [nbits]

theorem barStore_wide {s : State} {f off v : Nat} (h : off % 8 = 0) :
    barStore s f off 8 v = barWrite (barWrite s f off (v % 2 ^ 32)) f (off + 4) (v / 2 ^ 32 % 2 ^ 32) := by
  unfold barStore
  rw [if_pos (by simp [mmioOk, h])]
  simp [nbits, List.range_succ]

theorem barStore_misaligned {s : State} {f off v : Nat} (h : off % 4 ≠ 0) : barStore s f off 4 v = raiseEvent s 0x481 f [off] := by
  unfold barStore
  exact if_neg (by simp [mmioOk, h])

theorem natBytes_four_length (v : Nat) : (natBytes 4 v).length = 4 := by
  unfold natBytes
  rw [List.length_map, List.length_range]

/-- The number in the four low bytes of a number. -/
theorem leAt_natBytes_four (v : Nat) : leAt (natBytes 4 v) 0 4 = v % 2 ^ 32 := by
  have hslice : slice (natBytes 4 v) 0 4 = natBytes 4 v := by
    unfold slice
    rw [List.drop_zero, List.take_of_length_le (Nat.le_of_eq (natBytes_four_length v))]
    dsimp only
    rw [natBytes_four_length]
    exact List.append_nil _
  unfold leAt
  rw [hslice]
  simp only [natBytes, List.range_succ, List.range_zero, List.nil_append, List.map_cons, List.map_nil, List.cons_append, bytesNat,
    BitVec.toNat_ofNat]
  omega

theorem stewStore_word (s : State) (off v : Nat) : stewStore s off (natBytes 4 v) = stewWrite s off (v % 2 ^ 32) := by
  unfold stewStore
  rw [natBytes_four_length, ← leAt_natBytes_four]
  rfl

theorem decWrite_open {s : State} {k : Nat} (h : (smGet {} s.decRegs k).committed = false) (v mask : Entry) : decWrite s k v mask =
    { s with decRegs := smSet {} s.decRegs k { smGet ({} : DecReg) s.decRegs k with val := v &&& mask, lockOn := fld v 46 1 == 1 } } :=
  if_neg fun hc => Bool.false_ne_true (h.symm.trans hc)

theorem decWrite_committed {s : State} {k : Nat} (h : (smGet {} s.decRegs k).committed = true) (v mask : Entry) : decWrite s k v mask = s :=
  if_pos h

/-- Settles O32: each doorbell and register by its own step. That decoder registers keep their values while a decoder is committed is deduced (log 59);
where a function's configuration registers stand is presumed (log 58), and the commit that a ring slot's write asks for is deduced (log 52). -/
theorem doorbellAndRegisterResults : Obligations.DoorbellAndRegisterResults := by
  refine ⟨?acts, ?frozen, ?steward, ?slots, ?unmask, fun f off s => ⟨rfl, rfl⟩, ?registers⟩
  case acts =>
    intro f j v s r hring hst htile
    have hacts := fnDoorbell_acts hring hst htile
    refine ⟨fun hen hv => ?_, fun hen hv => ?_, fun hbad => ?_, fun hbad => ?_⟩
    · exact congrArg Host.Outcome.next ((hacts 0 _).trans (ringDoorbell_sets hen hv))
    · exact congrArg Host.Outcome.next ((hacts 1 _).trans (ringDoorbell_sets hen hv))
    · exact congrArg Host.Outcome.next ((hacts 0 _).trans (ringDoorbell_bad hbad))
    · exact congrArg Host.Outcome.next ((hacts 1 _).trans (ringDoorbell_bad hbad))
  case frozen =>
    intro f j v s r hring hf h2 h5
    have hlatched := fnDoorbell_frozen hring hf h2 h5
    exact ⟨congrArg Host.Outcome.next (hlatched 0 _), congrArg Host.Outcome.next (hlatched 1 _)⟩
  case steward => exact fun j v s hen hv => congrArg Host.Outcome.next (ringDoorbell_sets hen hv)
  case slots =>
    intro f j s r hslot
    rw [exec_ringEnable, exec_ringDisable]
    unfold execRingEnable execRingDisable
    rw [hslot]
    refine ⟨fun hcom => ?_, fun hcom => ?_⟩
    · exact ⟨congrArg Host.Outcome.next (submitFor_enable_committing hcom true), congrArg Host.Outcome.next (submitFor_enable_committing hcom false)⟩
    · exact ⟨congrArg Host.Outcome.next (submitFor_enable_idle hcom true), congrArg Host.Outcome.next (submitFor_enable_idle hcom false)⟩
  case unmask =>
    intro f vec s hwf m
    let m1 := { m with mask := m.mask &&& ~~~(BitVec.ofNat 8 (2 ^ vec.val)) }
    have hm1 : msixOf (setMsix s f m1) f = m1 := msixOf_setMsix_self hwf
    have hwf1 : smWf (fun _ => ({} : Msix)) (setMsix s f m1).svc.msix = true := smWf_smSet (fun _ => {}) s.svc.msix f m1 hwf
    refine ⟨fun hpba => congrArg Host.Outcome.next (msixVector_quiet hm1 hpba), fun hpba hen hfn hst => ?_⟩
    exact ⟨_, congrArg Host.Outcome.next (msixVector_sends (m := m1) hwf1 hm1 hpba hen hfn (getLsbD_clearBit _ vec) hst), rfl, msixOf_setMsix_self hwf1⟩
  case registers =>
    intro f v s
    refine ⟨fun off h => ?_, fun off h => ?_, fun off h => ?_, fun off h => ?_, rfl, fun off => rfl, fun p => rfl, fun p n w h => ?_, fun b n w h => ?_,
      fun p => rfl⟩
    · exact congrArg Host.Outcome.next (barStore_word h)
    · exact congrArg Host.Outcome.next (barStore_wide h)
    · exact congrArg Host.Outcome.next (barStore_misaligned h)
    · rw [exec_registerWrite]
      unfold execRegisterWrite
      dsimp only
      rw [if_pos (by simp [mmioOk, h])]
      exact congrArg Host.Outcome.next (stewStore_word s off.toNat v.toNat)
    · exact congrArg Host.Outcome.next (decWrite_open h _ _)
    · exact congrArg Host.Outcome.next (decWrite_committed h _ _)

/-! The flip of entries that only hold values. -/

/-- The tables whose entries do nothing more than hold their values when a COMMIT writes them. -/
def valueTables : List Nat := [0x06, 0x07, 0x10, 0x12, 0x13, 0x14, 0x16, 0x17, 0x18, 0x21, 0x39, 0x3A]

theorem foldl_still {α β : Type} {f : β → α → β} {l : List α} (h : ∀ b, ∀ a ∈ l, f b a = b) (b : β) : l.foldl f b = b := by
  induction l generalizing b with
  | nil => rfl
  | cons a l ih =>
    rw [List.foldl_cons, h b a (List.mem_cons_self ..)]
    exact ih (fun b c hc => h b c (List.mem_cons_of_mem a hc)) b

/-- The tables that some rule of a flip acts on are none of these. -/
theorem ne_of_mem_valueTables {t n : Nat} (ht : t ∈ valueTables) (hn : n ∉ valueTables) : t ≠ n := fun h => hn (h ▸ ht)

section ValueWrites
variable {ws : List (Nat × Nat × Entry)}

theorem keptMask_values {t : Nat} (ht : t ∈ valueTables) : keptMask t = 0 := by
  have h1 := ne_of_mem_valueTables ht (n := 0x01) (by decide)
  have h2 := ne_of_mem_valueTables ht (n := 0x0B) (by decide)
  have h3 := ne_of_mem_valueTables ht (n := 0x3E) (by decide)
  unfold keptMask
  split
  · exact absurd rfl h1
  · exact absurd rfl h2
  · exact absurd rfl h3
  · rfl

theorem persist_values {w : Nat × Nat × Entry} (hw : w.1 ∈ valueTables) (s : State) (x : Engine) : persist s x w = s := by
  unfold persist
  rw [keptMask_values hw]
  exact if_pos (BitVec.and_zero ..)

theorem entryFlip_values {w : Nat × Nat × Entry × Entry × Entry} (hw : w.1 ∈ valueTables) (quiet : Bool) (s : State) : entryFlip quiet s w = s := by
  obtain ⟨t, i, old, new, mask⟩ := w
  change t ∈ valueTables at hw
  simp only [valueTables, List.mem_cons, List.not_mem_nil, or_false] at hw
  rcases hw with rfl | rfl | rfl | rfl | rfl | rfl | rfl | rfl | rfl | rfl | rfl | rfl <;> rfl

theorem clearedPorts_values (h : ∀ w ∈ ws, w.1 ∈ valueTables) (s : State) : clearedPorts s ws = [] := by
  unfold clearedPorts
  rw [List.flatten_eq_nil_iff]
  intro l hl
  obtain ⟨w, hw, rfl⟩ := List.mem_map.mp hl
  exact if_neg (ne_of_mem_valueTables (h w hw) (by decide))

theorem roleMoves_values (h : ∀ w ∈ ws, w.1 ∈ valueTables) (s : State) (to4 : Bool) : roleMoves s ws to4 = [] := by
  unfold roleMoves
  rw [List.map_eq_nil_iff, List.filter_eq_nil_iff]
  intro w hw
  simp [ne_of_mem_valueTables (h w hw) (n := 0x01) (by decide)]

theorem ringWrites_values (h : ∀ w ∈ ws, w.1 ∈ valueTables) (s : State) : ringWrites s ws = [] := by
  unfold ringWrites
  rw [roleMoves_values h, roleMoves_values h]
  simp [ringsLeft]

theorem selfClears_values (h : ∀ w ∈ ws, w.1 ∈ valueTables) : selfClears ws = [] := by
  unfold selfClears
  rw [List.filterMap_eq_nil_iff]
  intro w hw
  split
  next h3c => exact absurd h3c (ne_of_mem_valueTables (h w hw) (by decide))
  next h24 => exact absurd h24 (ne_of_mem_valueTables (h w hw) (by decide))
  next h3e => exact absurd h3e (ne_of_mem_valueTables (h w hw) (by decide))
  next => rfl

theorem legendFlip_values {ws : List (Nat × Nat × Entry × Entry × Entry)} (h : ∀ w ∈ ws, w.1 ∈ valueTables) (s : State) : legendFlip s ws = s := by
  unfold legendFlip
  refine if_neg fun hany => ?_
  obtain ⟨w, hw, hch⟩ := List.any_eq_true.mp hany
  have h1 := ne_of_mem_valueTables (h w hw) (n := 0x0B) (by decide)
  have h2 := ne_of_mem_valueTables (h w hw) (n := 0x0C) (by decide)
  simp [h1, h2] at hch

end ValueWrites

section ValueDrafts
variable {s : State} {x : Engine}

theorem draftWrites_values (h : ∀ d ∈ x.drafts, keyTab d.key ∈ valueTables) : ∀ w ∈ draftWrites s x, w.1 ∈ valueTables := by
  intro w hw
  obtain ⟨d, hd, rfl⟩ := List.mem_map.mp hw
  exact h d hd

theorem commitWrites_values (h : ∀ d ∈ x.drafts, keyTab d.key ∈ valueTables) : commitWrites s x = draftWrites s x := by
  unfold commitWrites
  dsimp only
  rw [clearedPorts_values (draftWrites_values h), ringWrites_values (draftWrites_values h)]
  simp

theorem draftedOf_values (h : ∀ d ∈ x.drafts, keyTab d.key ∈ valueTables) {t : Nat} (ht : t ∉ valueTables) : draftedOf x t = [] := by
  unfold draftedOf
  rw [List.filterMap_eq_nil_iff]
  exact fun d hd => if_neg (ne_of_mem_valueTables (h d hd) ht)

theorem planesDrafted_values (h : ∀ d ∈ x.drafts, keyTab d.key ∈ valueTables) : planesDrafted x = [] := by
  unfold planesDrafted
  rw [draftedOf_values h (by decide), draftedOf_values h (by decide)]
  rfl

theorem alignFlip_other (h : ∀ p, x.origin ≠ .resident 1 p) : alignFlip s x = s := by
  unfold alignFlip
  split
  next p hp => exact absurd hp (h p)
  next => rfl

/-- The state with drafts written under the next commit number, reported to Meridian and counted. -/
def valuesWritten (s : State) (x : Engine) : State :=
  count { s with
    commitNum := s.commitNum + 1
    tab := tabWrites (s.commitNum + 1) s.tab (draftWrites s x)
    mer := { s.mer with reports := s.mer.reports ++ [⟨s.commitNum + 1, draftWrites s x, s.clock + 2000⟩] } } (devCtr 3) 1

theorem flip_values (h : ∀ d ∈ x.drafts, keyTab d.key ∈ valueTables) (ho : ∀ p, x.origin ≠ .resident 1 p) : flip s x = valuesWritten s x := by
  unfold flip
  extract_lets ws k full written persisted cleared mer reported counted quiet acted planes
  have hdrafts : ws = draftWrites s x := commitWrites_values h
  have hws : ∀ w ∈ ws, w.1 ∈ valueTables := hdrafts ▸ draftWrites_values h
  have hfull : ∀ w ∈ full, w.1 ∈ valueTables := fun w hw => by
    obtain ⟨v, hv, rfl⟩ := List.mem_map.mp hw
    exact hws v hv
  have hwritten : written = { s with commitNum := k, tab := tabWrites k s.tab ws } := foldl_setTab k ws _
  have hpersisted : persisted = written := foldl_still (fun t w hw => persist_values (hws w hw) t x) written
  have hcleared : cleared = persisted := by
    unfold cleared
    rw [clearedPorts_values (draftWrites_values h)]
    rfl
  have hacted : acted = counted := foldl_still (fun t w hw => entryFlip_values (hfull w hw) quiet t) counted
  have hplanes : planes = acted := by
    unfold planes
    rw [planesDrafted_values h]
    rfl
  calc alignFlip (deviceUpdate (legendFlip planes full) (selfClears ws)) x
      = deviceUpdate (legendFlip planes full) (selfClears ws) := alignFlip_other ho
    _ = planes := by rw [selfClears_values hws, legendFlip_values hfull]; rfl
    _ = counted := hplanes.trans hacted
    _ = valuesWritten s x := by
      unfold counted reported mer
      rw [hcleared, hpersisted, hwritten, hdrafts]
      rfl

/-- No port is lost in this instant. -/
theorem lossesAfter_none (h : ∀ p, p < 96 → smGet 0 s.lostAt p ≠ s.clock + 1) : lossesAfter s = s := by
  unfold lossesAfter
  rw [List.filter_eq_nil_iff.mpr]
  · rfl
  · intro p hp
    simp [h p (List.mem_range.mp hp)]

end ValueDrafts

/-! COMMIT at the arbiter. -/

section Arbiter
variable {s : State} {e : Nat} {r : List Nat}

theorem overtaken_iff {x : Engine} : overtaken s x = true ↔ ∃ d ∈ x.drafts, (smGet (entryReset d.key) s.tab d.key).num ≠ d.num := by
  unfold overtaken
  simp

/-- The front COMMIT of a running fabric is judged. -/
theorem execCommitJudgement_front (hrun : fabricRuns s = true) (hq : s.arb.queue = e :: r) (hj : s.arb.judged = false) {x : Engine}
    (hx : engineOf s e = x) (hw : x.wait = .commit) : execCommitJudgement s = .next (
      if judge s x = 0 then { s with arb := { s.arb with judged := true } } else commitFails s e x (judge s x)) := by
  subst hx
  unfold execCommitJudgement
  rw [hq]
  dsimp only
  rw [if_neg (by simp [hj, hrun]), if_neg fun h => h hw]

theorem execCommitJudgement_gone (hrun : fabricRuns s = true) (hq : s.arb.queue = e :: r) (hj : s.arb.judged = false) (hw : (engineOf s e).wait ≠ .commit) :
    execCommitJudgement s = .next (arbNext s) := by
  unfold execCommitJudgement
  rw [hq]
  dsimp only
  rw [if_neg (by simp [hj, hrun]), if_pos hw]

theorem execCommitFlip_gone (hrun : fabricRuns s = true) (hq : s.arb.queue = e :: r) (hj : s.arb.judged = true) (hw : (engineOf s e).wait ≠ .commit) :
    execCommitFlip s = .next (arbNext s) := by
  unfold execCommitFlip
  rw [hq]
  dsimp only
  rw [if_neg (by simp [hj, hrun]), if_pos hw]

theorem execCommitFlip_overtaken (hrun : fabricRuns s = true) (hq : s.arb.queue = e :: r) (hj : s.arb.judged = true) {x : Engine}
    (hx : engineOf s e = x) (hw : x.wait = .commit) (hover : overtaken s x = true) : execCommitFlip s = .next (commitFails s e x 10) := by
  subst hx
  unfold execCommitFlip
  rw [hq]
  dsimp only
  rw [if_neg (by simp [hj, hrun]), if_neg fun h => h hw, if_pos hover]

/-- The state after a flip and the losses of its instant, with the commit of a tile engine counted. -/
def flipCounted (u : State) (e : Nat) : State := if e < 12 then count u (tileCtr e 29) 1 else u

theorem execCommitFlip_flips (hrun : fabricRuns s = true) (hq : s.arb.queue = e :: r) (hj : s.arb.judged = true) {x y : Engine} {u v : State}
    (hx : engineOf s e = x) (hw : x.wait = .commit) (hover : overtaken s x = false) (hu : lossesAfter (flip (arbNext s) x) = u)
    (hy : afterFlip u (s.commitNum + 1) x = y) (hv : setEngine (flipCounted u e) e y = v) :
    execCommitFlip s = .next (if y.seq = 0 then finish v e y 0 else macroNext v e y) := by
  subst hx hu hy hv
  unfold execCommitFlip
  rw [hq]
  dsimp only
  rw [if_neg (by simp [hj, hrun]), if_neg fun h => h hw, if_neg (by simp [hover])]
  rfl

/-- A COMMIT that fails for another reason than a lock. -/
theorem commitFails_plain {x : Engine} {st : Nat} (h0 : st ≠ 0) (h9 : st ≠ 9) :
    commitFails s e x st = endChart (setEngine (count (arbNext s) (devCtr 4) 1) e { x with wait := .run }) e st x.pc := by
  unfold commitFails
  dsimp only
  rw [if_neg h9, finish_bad _ _ _ _ h0]

theorem commitFails_locked {x : Engine} {d : Draft} (hd : lockedDraft s x = some d) : commitFails s e x 9 =
    endChart (setEngine (raiseEvent (count (arbNext s) (devCtr 4) 1) 0x502 (keyIdx d.key % 65536) []) e { x with wait := .run }) e 9 x.pc := by
  unfold commitFails
  dsimp only
  rw [if_pos rfl, hd, finish_bad _ _ _ _ (by decide)]
  rfl

/-- An instruction that ends OK past the last one ends its chart FAULT (R252). -/
theorem finish_past {x : Engine} (h : x.ninstr ≤ x.pc + 1) : finish s e x 0 = endChart (setEngine s e { x with status := 0, seq := 0 }) e 8 x.pc := by
  unfold finish advance
  rw [if_pos rfl]
  exact if_pos h

end Arbiter

theorem execCommit_empty {e : EngineId} {s : State} (h : Runs s e 0x33) (hd : (engineOf s e).drafts = []) :
    execCommit e s = .next (moveOk s e (engineOf s e)) := by
  obtain ⟨hst, hin⟩ := h
  unfold execCommit
  rw [onOp_stands hst, if_pos (List.isEmpty_iff.mpr hd), finish_moveOk _ _ _ hin]

theorem execCommit_asks {e : EngineId} {s : State} (hst : Stands s e 0x33) (hd : (engineOf s e).drafts ≠ []) :
    execCommit e s = .next (askCommit s e (engineOf s e)) := by
  unfold execCommit
  rw [onOp_stands hst, if_neg fun h => hd (List.isEmpty_iff.mp h)]

/-- Settles O44: COMMIT by its drafts, its judgement and its flip by the engine at the front of the queue. That a COMMIT is judged in the order STALE,
LOCKED, rules by table (log 61), that a chart's own flip drops its reads of the entries it wrote (log 68) and which of the instant's losses a flip takes
with it (log 99) are the model's readings. -/
theorem commitIsJudgedAndFlips : Obligations.CommitIsJudgedAndFlips := by
  refine ⟨fun e s => ⟨execCommit_empty, execCommit_asks⟩, ?_⟩
  intro s e r hrun hq x gone fails
  have hgone : arbNext s = gone := by unfold arbNext; rw [hq]; rfl
  have hfails : count (arbNext s) (devCtr 4) 1 = fails := by rw [hgone]
  refine ⟨?passes, ?fails, ?locked, ?judgedGone, ?flipGone, ?overtaken, ?flips⟩
  case passes =>
    intro hj hw h0
    rw [exec_commitJudgement, execCommitJudgement_front hrun hq hj rfl hw, if_pos h0]
  case fails =>
    intro hj hw h0 h9
    rw [exec_commitJudgement, execCommitJudgement_front hrun hq hj rfl hw, if_neg h0, commitFails_plain h0 h9, hfails]
  case locked =>
    intro d hj hw h9 hd
    have hjudge : judge s (engineOf s e) = 9 := h9
    rw [exec_commitJudgement, execCommitJudgement_front hrun hq hj rfl hw, hjudge, if_neg (by decide), commitFails_locked hd, hfails]
  case judgedGone => exact fun hj hw => (execCommitJudgement_gone hrun hq hj hw).trans (by rw [hgone])
  case flipGone => exact fun hj hw => (execCommitFlip_gone hrun hq hj hw).trans (by rw [hgone])
  case overtaken =>
    intro hj hw hover
    rw [exec_commitFlip, execCommitFlip_overtaken hrun hq hj rfl hw (overtaken_iff.mpr hover), commitFails_plain (by decide) (by decide), hfails]
  case flips =>
    intro hj hw hnum k u y v
    have hover : overtaken s x = false := by
      rw [Bool.eq_false_iff, ne_eq, overtaken_iff]
      exact fun ⟨d, hd, hne⟩ => hne (hnum d hd)
    have hflip : execCommitFlip s = .next (if y.seq = 0 then finish v e y 0 else macroNext v e y) :=
      execCommitFlip_flips hrun hq hj rfl hw hover (by rw [hgone]) rfl rfl
    refine ⟨fun hseq hin => ?_, fun hseq hend => ?_, fun hseq => ?_, fun htab hlost ho => ?_⟩
    · rw [exec_commitFlip, hflip, if_pos hseq, finish_moveOk v e y hin]
    · rw [exec_commitFlip, hflip, if_pos hseq, finish_past (x := y) hend]
    · rw [exec_commitFlip, hflip, if_neg hseq]
    · have hu : flip gone x = valuesWritten gone x := flip_values htab ho
      intro written
      exact (congrArg lossesAfter hu).trans (lossesAfter_none hlost)

end Sys2Proof.Machine

/-! SUPPORT. Chart instructions: the flags and their conditions, bit fields, what an instruction that stands or runs does, and the statements on
arithmetic, moves, chart memory and flow of 11_chart_instructions.md settled from these. -/
namespace Sys2Proof.Machine

/-! Overflow of signed sums and differences. -/

section
variable {a b : Word}

theorem saddOverflow_iff : a.saddOverflow b = true ↔ (a + b).toInt ≠ a.toInt + b.toInt := by
  refine ⟨fun hover heq => ?_, fun hne => Decidable.by_contra fun hno => hne (BitVec.toInt_add_of_not_saddOverflow hno)⟩
  have hlt := (a + b).toInt_lt
  have hle := (a + b).le_toInt
  rw [BitVec.saddOverflow, Bool.or_eq_true, decide_eq_true_iff, decide_eq_true_iff] at hover
  omega

theorem ssubOverflow_iff : a.ssubOverflow b = true ↔ (a - b).toInt ≠ a.toInt - b.toInt := by
  refine ⟨fun hover heq => ?_, fun hne => Decidable.by_contra fun hno => hne (BitVec.toInt_sub_of_not_ssubOverflow hno)⟩
  have hlt := (a - b).toInt_lt
  have hle := (a - b).le_toInt
  rw [BitVec.ssubOverflow, Bool.or_eq_true, decide_eq_true_iff, decide_eq_true_iff] at hover
  omega

end

/-! The flags (R271). -/

section
variable {x : Engine} {a b r : Word} {c v : Bool}

theorem setFlags_flagZ_iff : (setFlags x r c v).flagZ = true ↔ r = 0 := beq_iff_eq

theorem setFlags_flagN : (setFlags x r c v).flagN = decide (r.toInt < 0) := BitVec.msb_eq_toInt (x := r)

theorem setFlags_flagN_iff : (setFlags x r c v).flagN = true ↔ r.toInt < 0 := by rw [setFlags_flagN, decide_eq_true_iff]

theorem addFlags_flagC_iff : (addFlags x a b).flagC = true ↔ (a + b).toNat ≠ a.toNat + b.toNat := by
  change decide (2 ^ 64 ≤ a.toNat + b.toNat) = true ↔ _
  rw [decide_eq_true_iff, BitVec.toNat_add]
  omega

theorem addFlags_flagV : (addFlags x a b).flagV = a.saddOverflow b := (BitVec.saddOverflow_eq a b).symm

theorem subFlags_flagC_iff : (subFlags x a b).flagC = true ↔ b.toNat ≤ a.toNat := decide_eq_true_iff

theorem subFlags_flagV : (subFlags x a b).flagV = a.ssubOverflow b := by
  rw [BitVec.ssubOverflow_eq]
  change ((a.msb != b.msb) && ((a - b).msb != a.msb)) = _
  cases a.msb <;> cases b.msb <;> simp

theorem subFlags_flagZ_iff : (subFlags x a b).flagZ = true ↔ a = b :=
  setFlags_flagZ_iff.trans (BitVec.sub_eq_iff_eq_add.trans (by rw [show (0 : Word) + b = b from BitVec.zero_add b]))

/-- N and V differ after CMP where the signed order is strict: without overflow N is the sign of the difference, with overflow its complement. -/
theorem subFlags_signedLess : ((subFlags x a b).flagN != (subFlags x a b).flagV) = decide (a.toInt < b.toInt) := by
  have hN : (subFlags x a b).flagN = decide ((a - b).toInt < 0) := setFlags_flagN
  have ha := a.msb_eq_toInt
  have hb := b.msb_eq_toInt
  have hd := (a - b).msb_eq_toInt
  by_cases hV : a.ssubOverflow b = true
  · rw [hN, subFlags_flagV, hV]
    rw [BitVec.ssubOverflow_eq, ha, hb, hd] at hV
    simp only [Bool.or_eq_true, Bool.and_eq_true, Bool.not_eq_true', decide_eq_true_iff, decide_eq_false_iff_not] at hV
    rcases hV with ⟨⟨ha, hb⟩, hd⟩ | ⟨⟨ha, hb⟩, hd⟩
    · have hno : ¬a.toInt < b.toInt := by omega
      rw [decide_eq_true hd, decide_eq_false hno]; rfl
    · have hyes : a.toInt < b.toInt := by omega
      rw [decide_eq_false hd, decide_eq_true hyes]; rfl
  · rw [hN, subFlags_flagV, Bool.eq_false_iff.mpr hV, BitVec.toInt_sub_of_not_ssubOverflow hV, Bool.bne_false, decide_eq_decide]
    omega

end

/-! The conditions (Table 11.2). -/

section
variable (x : Engine)

theorem condHolds_ne : condHolds x 2 = !x.flagZ := rfl
theorem condHolds_lt : condHolds x 3 = (x.flagN != x.flagV) := rfl
theorem condHolds_ge : condHolds x 4 = (x.flagN == x.flagV) := rfl
theorem condHolds_lo : condHolds x 5 = !x.flagC := rfl
theorem condHolds_le : condHolds x 7 = (x.flagZ || (x.flagN != x.flagV)) := rfl
theorem condHolds_gt : condHolds x 8 = (!x.flagZ && (x.flagN == x.flagV)) := rfl

end

/-- Settles O8: V is the library's signed overflow, and Z and N are read off the result. -/
theorem arithmeticFlagsSayCarryAndOverflow : Obligations.ArithmeticFlagsSayCarryAndOverflow := by
  intro x a b
  refine ⟨addFlags_flagC_iff, ?addV, setFlags_flagZ_iff, setFlags_flagN_iff, subFlags_flagC_iff, ?subV, subFlags_flagZ_iff, setFlags_flagN_iff,
    List.forall_mem_cons.mpr ⟨rfl, List.forall_mem_singleton.mpr rfl⟩⟩
  case addV => rw [addFlags_flagV, saddOverflow_iff]
  case subV => rw [subFlags_flagV, ssubOverflow_iff]

/-- Settles O9: each condition reads Z, C or the signed order out of the flags of the difference. -/
theorem conditionsReadTheFlags : Obligations.ConditionsReadTheFlags := by
  intro x a b
  have hZ : (subFlags x a b).flagZ = decide (a.toInt = b.toInt) := by
    rw [Bool.eq_iff_iff, subFlags_flagZ_iff, decide_eq_true_iff, BitVec.toInt_inj]
  have hless : ((subFlags x a b).flagN != (subFlags x a b).flagV) = decide (a.toInt < b.toInt) := subFlags_signedLess
  have hgeq : ((subFlags x a b).flagN == (subFlags x a b).flagV) = decide (b.toInt ≤ a.toInt) := by
    rw [← Bool.not_not (_ == _), ← bne, hless, ← decide_not, decide_eq_decide, Int.not_lt]
  have hC : (subFlags x a b).flagC = decide (b.toNat ≤ a.toNat) := rfl
  refine ⟨rfl, subFlags_flagZ_iff, ?ne, ?lt, ?ge, ?lo, subFlags_flagC_iff, ?le, ?gt⟩
  case ne => rw [condHolds_ne, hZ, Bool.not_eq_true', decide_eq_false_iff_not, BitVec.toInt_inj]
  case lt => rw [condHolds_lt, hless, decide_eq_true_iff]
  case ge => rw [condHolds_ge, hgeq, decide_eq_true_iff]
  case lo => rw [condHolds_lo, hC, Bool.not_eq_true', decide_eq_false_iff_not, Nat.not_le]
  case le => rw [condHolds_le, hZ, hless, ← Bool.decide_or, decide_eq_true_iff, Int.le_iff_lt_or_eq, or_comm]
  case gt =>
    rw [condHolds_gt, hZ, hgeq, ← decide_not, ← Bool.decide_and, decide_eq_true_iff]
    omega

/-! Instructions that stand or run. -/

section
variable {s : State} {e op : Nat}

/-- Where another instruction follows, an instruction that leaves the PC to its end and advances moves on. -/
theorem onOp_advances (h : Runs s e op) {f : State → Engine → Word → State} {y : Engine}
    (hf : f s (engineOf s e) (wordAt (engineOf s e)) = advance s e y) (hpc : y.pc = (engineOf s e).pc) (hn : y.ninstr = (engineOf s e).ninstr) :
    onOp s e op f = moveOn s e y := by
  rw [onOp_stands h.1, hf, advance_moveOn _ _ _ (by rw [hpc, hn]; exact h.2)]

/-- As onOp_advances, for one that ends with status OK. -/
theorem onOp_finishes (h : Runs s e op) {f : State → Engine → Word → State} {t : State} {y : Engine}
    (hf : f s (engineOf s e) (wordAt (engineOf s e)) = finish t e y 0) (hpc : y.pc = (engineOf s e).pc) (hn : y.ninstr = (engineOf s e).ninstr) :
    onOp s e op f = moveOk t e y := by
  rw [onOp_stands h.1, hf, finish_moveOk _ _ _ (by rw [hpc, hn]; exact h.2)]

/-- An instruction that ends with another status than OK ends its chart. -/
theorem onOp_refuses (h : Stands s e op) {f : State → Engine → Word → State} {t : State} {x y : Engine} {st : Nat} (hx : x = engineOf s e)
    (hf : f s x (wordAt x) = finish t e y st) (hst : st ≠ 0) : onOp s e op f = endChart (setEngine t e y) e st y.pc := by
  subst hx
  rw [onOp_stands h, hf, finish_bad _ _ _ _ hst]

theorem writeGd_runs (h : Runs s e op) (f : State → Engine → Word → Word) :
    writeGd s e op f = moveOn s e (regSet (engineOf s e) (gdOf (wordAt (engineOf s e))) (f s (engineOf s e) (wordAt (engineOf s e)))) :=
  onOp_advances h rfl (regSet_pc ..) (regSet_ninstr ..)

theorem aluOp_runs (h : Runs s e op) (res : Engine → Word → Word) {flags : Engine → Word → Engine}
    (hpc : (flags (engineOf s e) (wordAt (engineOf s e))).pc = (engineOf s e).pc)
    (hn : (flags (engineOf s e) (wordAt (engineOf s e))).ninstr = (engineOf s e).ninstr) :
    aluOp s e op res flags = moveOn s e (regSet (flags (engineOf s e) (wordAt (engineOf s e))) (gdOf (wordAt (engineOf s e)))
      (res (engineOf s e) (wordAt (engineOf s e)))) :=
  onOp_advances h rfl ((regSet_pc ..).trans hpc) ((regSet_ninstr ..).trans hn)

theorem logicOp_runs (h : Runs s e op) (res : Engine → Word → Word) {x : Engine} {r : Word} (hx : x = engineOf s e) (hr : r = res x (wordAt x)) :
    logicOp s e op res = moveOn s e (regSet (logicFlags x r) (gdOf (wordAt x)) r) := by
  subst hx hr
  exact aluOp_runs h res rfl rfl

end

/-- Settles O10: each instruction is the arithmetic or the logic operation on GA and op2. -/
theorem arithmeticAndLogicResults : Obligations.ArithmeticAndLogicResults := by
  intro e s x w a b logic
  have hlogic {op : Nat} (h : Runs s e op) (res : Engine → Word → Word) : logicOp s e op res = logic (res x w) := logicOp_runs h res rfl rfl
  refine ⟨?add, ?sub, ?and, ?or, ?xor, ?shl, ?shr, ?sar, ?cmp, ?tst, ?mul⟩ <;> intro h
  case add => exact congrArg Host.Outcome.next (aluOp_runs h _ rfl rfl)
  case sub => exact congrArg Host.Outcome.next (aluOp_runs h _ rfl rfl)
  case and => exact congrArg Host.Outcome.next (hlogic h _)
  case or => exact congrArg Host.Outcome.next (hlogic h _)
  case xor => exact congrArg Host.Outcome.next (hlogic h _)
  case shl => exact congrArg Host.Outcome.next (hlogic h _)
  case shr => exact congrArg Host.Outcome.next (hlogic h _)
  case sar => exact congrArg Host.Outcome.next (hlogic h _)
  case cmp => exact congrArg Host.Outcome.next (onOp_advances h rfl rfl rfl)
  case tst => exact congrArg Host.Outcome.next (onOp_advances h rfl rfl rfl)
  case mul => exact congrArg Host.Outcome.next (hlogic h _)

/-! Bit fields (Table 11.4). -/

section
variable {x : Engine} {w : Word}

theorem getLsbD_extValue {k : Nat} (hk : k < 64) :
    (extValue x w).getLsbD k = (decide (k < fieldWidth w) && (opA x w).getLsbD (fieldPos w + k)) := by
  unfold extValue nbits
  rw [BitVec.getLsbD_ofNat, Nat.testBit_mod_two_pow, Nat.testBit_div_two_pow, decide_eq_true hk, Bool.true_and, Nat.add_comm k]
  rfl

theorem getLsbD_fieldMask (pos wid : Nat) {k : Nat} (hk : k < 64) :
    (BitVec.ofNat 64 ((2 ^ wid - 1) * 2 ^ pos)).getLsbD k = decide (pos ≤ k ∧ k < pos + wid) := by
  rw [BitVec.getLsbD_ofNat, Nat.testBit_mul_two_pow, Nat.testBit_two_pow_sub_one, decide_eq_true hk, Bool.true_and, ← Bool.decide_and, decide_eq_decide]
  omega

theorem getLsbD_insValue {k : Nat} (hk : k < 64) : (insValue x w).getLsbD k =
    if fieldPos w ≤ k ∧ k < fieldPos w + fieldWidth w then (opA x w).getLsbD (k - fieldPos w) else (regGet x (gdOf w)).getLsbD k := by
  unfold insValue
  rw [BitVec.getLsbD_or, BitVec.getLsbD_and, BitVec.getLsbD_and, BitVec.getLsbD_not, getLsbD_fieldMask _ _ hk, BitVec.getLsbD_shiftLeft]
  split
  case isTrue hin => simp [hin, hk]
  case isFalse hout => simp [hout, hk]

end

/-- Settles O11: the words that EXT and INS write, bit by bit. -/
theorem bitFieldResults : Obligations.BitFieldResults := by
  intro e s x w a pos wid gives
  refine ⟨?ext, ?ins, ?extBeyond, ?insBeyond⟩
  case ext =>
    intro h hin
    refine ⟨extValue x w, congrArg Host.Outcome.next ?_, fun k hk => getLsbD_extValue hk⟩
    exact onOp_advances h (if_neg (Nat.not_lt.mpr hin)) (regSet_pc ..) (regSet_ninstr ..)
  case ins =>
    intro h hin
    refine ⟨insValue x w, congrArg Host.Outcome.next ?_, fun k hk => getLsbD_insValue hk⟩
    exact onOp_advances h (if_neg (Nat.not_lt.mpr hin)) (regSet_pc ..) (regSet_ninstr ..)
  case extBeyond => exact fun h hout => congrArg Host.Outcome.next ((onOp_stands h _).trans (if_pos hout))
  case insBeyond => exact fun h hout => congrArg Host.Outcome.next ((onOp_stands h _).trans (if_pos hout))

/-! Chart memory (R36, R276). -/

theorem spanOk_iff {a n : Nat} : spanOk a n = true ↔ a % 8 = 0 ∧ 0x8000 ≤ a ∧ a + 8 * n ≤ 0x10000 := decide_eq_true_iff

section
variable {e : EngineId} {s : State}

theorem execLd_stands (h : Stands s e 0x20) (ue : Bool) {x : Engine} {a : Nat} (hx : x = engineOf s e) (ha : a = memAddr x (wordAt x)) :
    execLd e ue s = .next (if spanOk a 1 ∧ !ue then finish s e (regSet x (gdOf (wordAt x)) (dataWord x (areaWord a))) 0 else finish s e x 8) := by
  subst hx ha
  exact congrArg Host.Outcome.next (onOp_stands h _)

theorem execSt_stands (h : Stands s e 0x21) {x : Engine} {a : Nat} (hx : x = engineOf s e) (ha : a = memAddr x (wordAt x)) :
    execSt e s = .next (if spanOk a 1 then finish s e (setData x (areaWord a) [opB x (wordAt x)]) 0 else finish s e x 8) := by
  subst hx ha
  exact congrArg Host.Outcome.next (onOp_stands h _)

end

/-- Settles O12: five instructions write GD; LD and ST move a word where the span lies in the data area. That the uncorrectable error of the word which
LD reads is an operand of the command is the model's choice (log 99). -/
theorem movesAndChartMemory : Obligations.MovesAndChartMemory := by
  intro e s x w gd a
  have hload (h : Stands s e 0x20) (ue : Bool) := execLd_stands (x := x) (a := a) h ue rfl rfl
  have hstore (h : Stands s e 0x21) := execSt_stands (x := x) (a := a) h rfl rfl
  have hbad (hout : a % 8 ≠ 0 ∨ a < 0x8000 ∨ 0x10000 < a + 8) : ¬spanOk a 1 = true := by rw [spanOk_iff]; omega
  refine ⟨?time, ?rdcs, ?li, ?lih, ?epoch, ?ld, ?st, List.forall_mem_cons.mpr ⟨?ldBad, List.forall_mem_singleton.mpr ?stBad⟩, ?ldError⟩
  case time => exact fun h => congrArg Host.Outcome.next (writeGd_runs h _)
  case rdcs => exact fun h => congrArg Host.Outcome.next (writeGd_runs h _)
  case li => exact fun h => congrArg Host.Outcome.next (writeGd_runs h _)
  case lih => exact fun h => congrArg Host.Outcome.next (writeGd_runs h _)
  case epoch => exact fun h => congrArg Host.Outcome.next (writeGd_runs h _)
  case ld =>
    intro ⟨hst, hin⟩ halign hlo hhi
    rw [exec_ld, hload hst, if_pos ⟨spanOk_iff.mpr ⟨halign, hlo, hhi⟩, rfl⟩, finish_moveOk _ _ _ (by simpa using hin)]
    rfl
  case st =>
    intro ⟨hst, hin⟩ halign hlo hhi
    rw [exec_st, hstore hst, if_pos (spanOk_iff.mpr ⟨halign, hlo, hhi⟩), finish_moveOk s e (setData x (areaWord a) [opB x w]) hin]
    rfl
  case ldBad => exact fun h hout => by rw [exec_ld, hload h, if_neg fun hok => hbad hout hok.1, finish_bad _ _ _ _ (by decide)]
  case stBad => exact fun h hout => by rw [exec_st, hstore h, if_neg (hbad hout), finish_bad _ _ _ _ (by decide)]
  case ldError => exact fun h => by rw [exec_ld, hload h, if_neg fun hok => Bool.false_ne_true hok.2, finish_bad _ _ _ _ (by decide)]

/-! Flow (R252, R255, R270, R274). -/

section
variable {e : EngineId} {s : State} {x : Engine} {w : Word}

theorem execBCc_stands (h : Stands s e 0x01) (hx : x = engineOf s e) (hw : w = wordAt x) {dest : Int} (hdest : dest = branchTarget x w) :
    execBCc e s = .next (
      if 9 ≤ wfld w 52 4 then endChart s e 6 x.pc
      else if condHolds x (wfld w 52 4) = true then
        if dest < 0 ∨ (x.ninstr : Int) - 1 < dest then endChart s e 8 x.pc else setEngine s e { x with pc := dest.toNat, boundary := s.clock }
      else advance s e x) := by
  subst hx hw hdest
  exact congrArg Host.Outcome.next (onOp_stands h _)

theorem execWait_stands (h : Stands s e 0x02) (hx : x = engineOf s e) (hw : w = wordAt x) {total : Int} (ht : total = (opA x w + op2 x w).toInt) :
    execWait e s = .next (
      if total < 0 ∨ 1000000 < total then endChart s e 6 x.pc
      else setEngine s e { x with wait := .timer (s.clock + total.toNat * 1000) }) := by
  subst hx hw ht
  exact congrArg Host.Outcome.next (onOp_stands h _)

theorem execWaitExpiry_due (hx : x = engineOf s e) {n : Nat} (hwait : x.wait = .timer n) (hdue : n ≤ s.clock) :
    execWaitExpiry e s = .next (advance s e x) := by
  subst hx
  unfold execWaitExpiry
  dsimp only
  rw [hwait]
  exact if_pos hdue

theorem execEndChart_stands (h : Stands s e 0x00) (hx : x = engineOf s e) :
    execEndChart e s = .next (endChart s e (if x.drafts = [] then 0 else 6) x.pc) := by
  subst hx
  refine congrArg Host.Outcome.next ((onOp_stands h _).trans ?_)
  simp only [List.isEmpty_iff]

theorem execFail_stands (h : Stands s e 0x05) (hx : x = engineOf s e) (hw : w = wordAt x) :
    execFail e s = .next (endChart s e (if 1 ≤ wfld w 0 8 ∧ wfld w 0 8 ≤ 10 then wfld w 0 8 else 6) x.pc) := by
  subst hx hw
  exact congrArg Host.Outcome.next (onOp_stands h _)

theorem execChartTimeout_over (hx : x = engineOf s e) (horigin : x.origin ≠ .none) (hwait : x.wait = .run) (hseq : x.seq = 0)
    (hpaused : s.paused = none) (hover : overTime s x = true) : execChartTimeout e s = .next (endChart s e 7 x.pc) := by
  subst hx
  refine if_pos ⟨?_, hwait, hseq, by rw [hpaused]; rfl, hover⟩
  simpa [engineIdle] using horigin

end

/-- Settles O13: each clause is one branch of its instruction. -/
theorem flowResults : Obligations.FlowResults := by
  intro e s x w dest total
  have hbranch (h : Stands s e 0x01) := execBCc_stands (x := x) (w := w) (dest := dest) h rfl rfl rfl
  have hwait (h : Stands s e 0x02) := execWait_stands (x := x) (w := w) (total := total) h rfl rfl rfl
  refine ⟨?falls, ?jumps, ?outside, ?reserved, ?waits, ?waitBad, ?expires, ?ends, ?fails, ?aborts, ?overTime⟩
  case falls =>
    intro ⟨hst, hin⟩ hc hno
    rw [exec_bCc, hbranch hst, if_neg (Nat.not_le.mpr hc), if_neg (Bool.eq_false_iff.mp hno), advance_moveOn _ _ _ hin]
  case jumps =>
    intro h hc hyes hlo hhi
    rw [exec_bCc, hbranch h, if_neg (Nat.not_le.mpr hc), if_pos hyes, if_neg (by omega)]
  case outside =>
    intro h hc hyes hout
    rw [exec_bCc, hbranch h, if_neg (Nat.not_le.mpr hc), if_pos hyes, if_pos hout]
  case reserved => exact fun h hc => by rw [exec_bCc, hbranch h, if_pos hc]
  case waits => exact fun h hlo hhi => by rw [exec_wait, hwait h, if_neg (by omega)]
  case waitBad => exact fun h hbad => by rw [exec_wait, hwait h, if_pos hbad]
  case expires =>
    intro n hn hdue _ hin
    rw [exec_waitExpiry, execWaitExpiry_due rfl hn hdue, advance_moveOn _ _ _ hin]
  case ends => exact fun h => execEndChart_stands h rfl
  case fails => exact fun h hlo hhi => by rw [exec_fail, execFail_stands h rfl rfl, if_pos ⟨hlo, hhi⟩]
  case aborts => exact fun h => execAbort_runs h
  case overTime => exact fun horigin hrun hseq hpaused hover => execChartTimeout_over rfl horigin hrun hseq hpaused hover


/-! Submitter memory (R275, R276). -/

section
variable {e : EngineId} {s t u : State} {x : Engine} {w : Word}

section
variable {a : Nat} (hx : x = engineOf s e) (hw : w = wordAt x) (ha : a = memAddr x w)
include hx hw ha

theorem execHld_misaligned (h : Stands s e 0x22) (halign : a % 8 ≠ 0) : execHld e s = .next (endChart (setEngine s e x) e 8 x.pc) := by
  subst hx hw ha
  exact congrArg Host.Outcome.next (onOp_refuses h rfl (if_pos halign) (by decide))

theorem execHst_misaligned (h : Stands s e 0x23) (halign : a % 8 ≠ 0) : execHst e s = .next (endChart (setEngine s e x) e 8 x.pc) := by
  subst hx hw ha
  exact congrArg Host.Outcome.next (onOp_refuses h rfl (if_pos halign) (by decide))

variable (halign : a % 8 = 0)
include halign

theorem execHld_refused (h : Stands s e 0x22) {st : Nat} (hc : memCheck s x a 8 false = (st, t)) (hst : st ≠ 0) :
    execHld e s = .next (endChart (setEngine t e x) e st x.pc) := by
  subst hx hw ha
  refine congrArg Host.Outcome.next (onOp_refuses h rfl ((if_neg (not_not_intro halign)).trans ?_) hst)
  dsimp only
  rw [hc, if_pos hst]

theorem execHst_refused (h : Stands s e 0x23) {st : Nat} (hc : memCheck s x a 8 true = (st, t)) (hst : st ≠ 0) :
    execHst e s = .next (endChart (setEngine t e x) e st x.pc) := by
  subst hx hw ha
  refine congrArg Host.Outcome.next (onOp_refuses h rfl ((if_neg (not_not_intro halign)).trans ?_) hst)
  dsimp only
  rw [hc, if_pos hst]

theorem execHld_asks (h : Stands s e 0x22) (hc : memCheck s x a 8 false = (0, t)) (hl : memLocal t x a 1 = none)
    (hask : memAsk t e x a 1 = u) : execHld e s = .next (setEngine u e { x with wait := .hld (gdOf w) }) := by
  subst hx hw ha hask
  refine congrArg Host.Outcome.next ((onOp_stands h _).trans ((if_neg (not_not_intro halign)).trans ?_))
  dsimp only
  rw [hc, if_neg (not_not_intro rfl), hl]

theorem execHld_local (h : Runs s e 0x22) (hc : memCheck s x a 8 false = (0, t)) {ws : List Word} (hl : memLocal t x a 1 = some (ws, u)) :
    execHld e s = .next (moveOk u e (regSet x (gdOf w) (nth 0 ws 0))) := by
  subst hx hw ha
  refine congrArg Host.Outcome.next (onOp_finishes h ((if_neg (not_not_intro halign)).trans ?_) (regSet_pc ..) (regSet_ninstr ..))
  dsimp only
  rw [hc, if_neg (not_not_intro rfl), hl]

theorem execHst_stores (h : Runs s e 0x23) (hc : memCheck s x a 8 true = (0, t))
    (hstore : memStore t e x a (wordBytes (opB x w)) = u) : execHst e s = .next (moveOk u e x) := by
  subst hx hw ha hstore
  refine congrArg Host.Outcome.next (onOp_finishes h ((if_neg (not_not_intro halign)).trans ?_) rfl rfl)
  dsimp only
  rw [hc, if_neg (not_not_intro rfl)]

end

section
variable {a n off : Nat} (hx : x = engineOf s e) (hw : w = wordAt x) (ha : a = (opA x w).toNat) (hn : n = (opB x w).toNat)
  (hoff : off = areaWord (regGet x (gdOf w)).toNat) (hmove : blockMove x w = 0)
include hx hw ha hn hoff hmove

theorem execHget_refused (h : Stands s e 0x24) {st : Nat} (hc : memCheck s x a (8 * n) false = (st, t)) (hst : st ≠ 0) :
    execHget e s = .next (endChart (setEngine t e x) e st x.pc) := by
  subst hx hw ha hn hoff
  refine congrArg Host.Outcome.next (onOp_refuses h rfl ((if_neg (not_not_intro hmove)).trans ?_) hst)
  dsimp only
  rw [hc, if_pos hst]

theorem execHput_refused (h : Stands s e 0x25) {st : Nat} (hc : memCheck s x a (8 * n) true = (st, t)) (hst : st ≠ 0) (ue : Bool) :
    execHput e ue s = .next (endChart (setEngine t e x) e st x.pc) := by
  subst hx hw ha hn hoff
  refine congrArg Host.Outcome.next (onOp_refuses h rfl ((if_neg (not_not_intro hmove)).trans ?_) hst)
  dsimp only
  rw [hc, if_pos hst]

theorem execHget_asks (h : Stands s e 0x24) (hc : memCheck s x a (8 * n) false = (0, t)) (hl : memLocal t x a n = none)
    (hask : memAsk t e x a n = u) : execHget e s = .next (setEngine u e { x with wait := .hget off n }) := by
  subst hx hw ha hn hoff hask
  refine congrArg Host.Outcome.next ((onOp_stands h _).trans ((if_neg (not_not_intro hmove)).trans ?_))
  dsimp only
  rw [hc, if_neg (not_not_intro rfl), hl]

theorem execHget_local (h : Runs s e 0x24) (hc : memCheck s x a (8 * n) false = (0, t)) {ws : List Word} (hl : memLocal t x a n = some (ws, u)) :
    execHget e s = .next (moveOk u e (setData x off ws)) := by
  subst hx hw ha hn hoff
  refine congrArg Host.Outcome.next (onOp_finishes h ((if_neg (not_not_intro hmove)).trans ?_) rfl rfl)
  dsimp only
  rw [hc, if_neg (not_not_intro rfl), hl]

theorem execHput_stores (h : Runs s e 0x25) (hc : memCheck s x a (8 * n) true = (0, t))
    (hstore : memStore t e x a (wordsBytes ((List.range n).map fun i => dataWord x (off + i))) = u) :
    execHput e false s = .next (moveOk u e x) := by
  subst hx hw ha hn hoff hstore
  refine congrArg Host.Outcome.next (onOp_finishes h ((if_neg (not_not_intro hmove)).trans ?_) rfl rfl)
  dsimp only
  rw [hc, if_neg (not_not_intro rfl), if_neg Bool.false_ne_true]

theorem execHput_uncorrectable (h : Stands s e 0x25) (hc : memCheck s x a (8 * n) true = (0, t)) :
    execHput e true s = .next (endChart (setEngine t e x) e 8 x.pc) := by
  subst hx hw ha hn hoff
  refine congrArg Host.Outcome.next (onOp_refuses h rfl ((if_neg (not_not_intro hmove)).trans ?_) (by decide))
  dsimp only
  rw [hc, if_neg (not_not_intro rfl), if_pos rfl]

end

theorem blockMove_allowed {a n g : Nat} (ha : a = (opA x w).toNat) (hn : n = (opB x w).toNat) (hg : g = (regGet x (gdOf w)).toNat)
    (halign : a % 8 = 0) (h1 : 1 ≤ n) (hmax : n ≤ 4096) (hgalign : g % 8 = 0) (hlo : 0x8000 ≤ g) (hhi : g + 8 * n ≤ 0x10000) : blockMove x w = 0 := by
  have hspan : spanOk g n = true := spanOk_iff.mpr ⟨hgalign, hlo, hhi⟩
  subst ha hn hg
  unfold blockMove
  dsimp only
  rw [if_neg (by omega), if_neg (by omega), hspan]
  rfl

end

/-- Settles O15: the check of the access, then the access itself, by the path of the chart's master. That an access is cut into pieces within 4 KiB which
one answer meets (log 95), and that the uncorrectable error of a word which HPUT reads is an operand of the command (log 99), are the model's choices. -/
theorem submitterMemoryInstructions : Obligations.SubmitterMemoryInstructions := by
  intro e s x w gd a b n off counts
  have hmove (halign : b % 8 = 0) : counts → blockMove x w = 0 := fun ⟨h1, hmax, hgalign, hlo, hhi⟩ =>
    blockMove_allowed rfl rfl rfl halign h1 hmax hgalign hlo hhi
  have hword {P : Nat → Prop} (hp : P 8) {v : Word} : P (wordBytes v).length := by rwa [wordBytes_length]
  have hwords {P : Nat → Prop} (hp : P (8 * n)) {f : Nat → Word} : P (wordsBytes ((List.range n).map f)).length := by
    rwa [wordsBytes_length, List.length_map, List.length_range]
  have hdenied {a n m st : Nat} {wr : Bool} {acc : Access} : Denied s x a n wr m st acc → st ≠ 0 := fun ⟨_, _, _, _, _, _, hst⟩ => hst
  refine ⟨?hldAsks, ?hstSends, ?hgetAsks, ?hputSends, ?hldHbm, ?hstHbm, ?hgetHbm, ?hputHbm,
    List.forall_mem_cons.mpr ⟨?hldDenied, List.forall_mem_singleton.mpr ?hstDenied⟩,
    List.forall_mem_cons.mpr ⟨?hgetDenied, List.forall_mem_singleton.mpr ?hputDenied⟩,
    List.forall_mem_cons.mpr ⟨?hldOdd, List.forall_mem_singleton.mpr ?hstOdd⟩, ?hputError⟩
  case hldAsks =>
    exact fun m sp q h halign hp =>
      execHld_asks rfl rfl rfl halign h.1 (memCheck_passes hp) (memLocal_passes (n := 1) hp) (memAsk_passes (n := 1) hp)
  case hstSends =>
    exact fun m sp q h halign hp =>
      execHst_stores rfl rfl rfl halign h (memCheck_passes hp) (memStore_passes (hword (P := fun k => Passes s x a k true m sp q) hp))
  case hgetAsks =>
    exact fun m sp q h halign hcounts hp =>
      execHget_asks rfl rfl rfl rfl rfl (hmove halign hcounts) h.1 (memCheck_passes hp) (memLocal_passes hp) (memAsk_passes hp)
  case hputSends =>
    exact fun m sp q h halign hcounts hp => ⟨_, execHput_stores rfl rfl rfl rfl rfl (hmove halign hcounts) h (memCheck_passes hp)
      (memStore_passes (hwords (P := fun k => Passes s x b k true m sp q) hp)), rfl⟩
  case hldHbm => exact fun g h halign hg => execHld_local rfl rfl rfl halign h (memCheck_inHbm hg false) (memLocal_inHbm (n := 1) hg)
  case hstHbm =>
    exact fun g h halign hg =>
      execHst_stores rfl rfl rfl halign h (memCheck_inHbm hg true) (memStore_inHbm (hword (P := fun k => InHbm s x a k g) hg))
  case hgetHbm =>
    exact fun g h halign hcounts hg =>
      execHget_local rfl rfl rfl rfl rfl (hmove halign hcounts) h (memCheck_inHbm hg false) (memLocal_inHbm hg)
  case hputHbm =>
    exact fun g h halign hcounts hg => execHput_stores rfl rfl rfl rfl rfl (hmove halign hcounts) h (memCheck_inHbm hg true)
      (memStore_inHbm (hwords (P := fun k => InHbm s x b k g) hg))
  case hldDenied => exact fun m st acc h halign hden => execHld_refused rfl rfl rfl halign h (memCheck_denied hden) (hdenied hden)
  case hstDenied => exact fun m st acc h halign hden => execHst_refused rfl rfl rfl halign h (memCheck_denied hden) (hdenied hden)
  case hgetDenied =>
    exact fun m st acc h halign hcounts hden =>
      execHget_refused rfl rfl rfl rfl rfl (hmove halign hcounts) h (memCheck_denied hden) (hdenied hden)
  case hputDenied =>
    exact fun m st acc h halign hcounts hden =>
      execHput_refused rfl rfl rfl rfl rfl (hmove halign hcounts) h (memCheck_denied hden) (hdenied hden) false
  case hldOdd => exact fun h halign => execHld_misaligned rfl rfl rfl h halign
  case hstOdd => exact fun h halign => execHst_misaligned rfl rfl rfl h halign
  case hputError =>
    intro h halign hcounts hreach
    have hc : memCheck s x b (8 * n) true = (0, s) := by
      rcases hreach with ⟨m, sp, q, hp⟩ | ⟨g, hg⟩
      · exact memCheck_passes hp
      · exact memCheck_inHbm hg true
    exact execHput_uncorrectable rfl rfl rfl rfl rfl (hmove halign hcounts) h hc

/-! The answers of reads (R63, R248, R249, R276). -/

/-- The status that an answer's outcome gives the chart that waits for it. -/
def answerStatus (outcome : Fin 3) : Nat := match outcome with | 0 => 0 | 1 => 5 | _ => 8

/-- The first m words of n words that were taken are those of the answer. -/
theorem map_nth_range_le (data : List Word) {m n : Nat} (h : m ≤ n) :
    (List.range m).map (nth 0 ((List.range n).map (nth 0 data))) = (List.range m).map (nth 0 data) := by
  refine List.map_congr_left fun i hi => ?_
  have hin : i < n := Nat.lt_of_lt_of_le (List.mem_range.mp hi) h
  simp [nth_getD, List.getD, hin]

theorem foldl_dropTxn_clock (ids : List Nat) (s : State) : (ids.foldl dropTxn s).clock = s.clock := by
  induction ids generalizing s with
  | nil => rfl
  | cons i ids ih => exact ih _

section
variable {e : EngineId} {s u : State} {x : Engine} {data : List Word}

/-- A read that is still inside the device holds its chart's answer up. -/
theorem execHostReadResponse_early (hx : x = engineOf s e) {i : Nat} (hi : i ∈ readsInside s e) (hkey : (txnOf s i).key = x.serial)
    (hphase : (txnOf s i).phase ≠ 3) (hold : oldestRead s e x.serial = x.serial) (k : Fin 3) :
    execHostReadResponse e k data s = .next s := by
  subst hx
  unfold execHostReadResponse
  dsimp only
  rw [hold, if_pos]
  exact List.any_eq_true.mpr ⟨i, List.mem_filter.mpr ⟨hi, beq_iff_eq.mpr hkey⟩, bne_iff_ne.mpr hphase⟩

/-- Where every read of the engine is of its chart and has left by its port, unlost, the answer is the chart's. -/
structure Answered (s : State) (e : Nat) (x : Engine) : Prop where
  left : ∀ i ∈ readsInside s e, (txnOf s i).key = x.serial ∧ (txnOf s i).phase = 3 ∧ (txnOf s i).rstat = 0
  runs : x.origin ≠ .none

theorem Answered.oldest (h : Answered s e x) : oldestRead s e x.serial = x.serial := by
  unfold oldestRead
  cases hl : readsInside s e with
  | nil => rfl
  | cons i ids => exact (h.left i (hl ▸ List.mem_cons_self)).1

theorem Answered.mine (h : Answered s e x) : ((readsInside s e).filter fun i => (txnOf s i).key == x.serial) = readsInside s e :=
  List.filter_eq_self.mpr fun i hi => beq_iff_eq.mpr (h.left i hi).1

theorem Answered.outside (h : Answered s e x) : ¬((readsInside s e).any fun i => (txnOf s i).phase != 3) = true := by
  simpa using fun i hi => (h.left i hi).2.1

theorem Answered.unlost (h : Answered s e x) : ¬((readsInside s e).any fun i => (txnOf s i).rstat != 0) = true := by
  simpa using fun i hi => (h.left i hi).2.2

theorem Answered.busy (h : Answered s e x) : ¬engineIdle x = true := by simpa [engineIdle] using h.runs

section
variable (hx : x = engineOf s e) (h : Answered s e x) (hu : u = (readsInside s e).foldl dropTxn s)
include hx h hu

theorem execHostReadResponse_hld {gd : Nat} (hwait : x.wait = .hld gd) (k : Fin 3) : execHostReadResponse e k data s =
    .next (finish u e (if answerStatus k = 0 then regSet x gd (nth 0 data 0) else x) (answerStatus k)) := by
  subst hx hu
  unfold execHostReadResponse
  dsimp only
  rw [h.oldest, h.mine, if_neg h.outside, if_neg h.unlost, if_neg (not_not_intro rfl), if_neg h.busy, hwait]
  rfl

theorem execHostReadResponse_hget {off n : Nat} (hwait : x.wait = .hget off n) (k : Fin 3) : execHostReadResponse e k data s =
    .next (finish u e (if answerStatus k = 0 then setData x off ((List.range n).map (nth 0 data)) else x) (answerStatus k)) := by
  subst hx hu
  unfold execHostReadResponse
  dsimp only
  rw [h.oldest, h.mine, if_neg h.outside, if_neg h.unlost, if_neg (not_not_intro rfl), if_neg h.busy, hwait]
  rfl

theorem execHostReadResponse_fetchInstr (hwait : x.wait = .fetchInstr) :
    execHostReadResponse e 0 data s = .next (fetchInstr u e x ((List.range x.ninstr).map (nth 0 data))) := by
  subst hx hu
  unfold execHostReadResponse
  dsimp only
  rw [h.oldest, h.mine, if_neg h.outside, if_neg h.unlost, if_neg (not_not_intro rfl), if_neg h.busy, hwait]
  rfl

/-- A failed read of a fetch ends the chart, whichever read it was. -/
theorem execHostReadResponse_fetchFails (hwait : x.wait = .fetchEntry ∨ x.wait = .fetchInstr ∨ x.wait = .fetchData) {k : Fin 3} {st : Nat}
    (hst : answerStatus k = st) (hne : st ≠ 0) : execHostReadResponse e k data s = .next (endChart (setEngine u e x) e st 0xFFFF) := by
  subst hx hu hst
  unfold execHostReadResponse
  dsimp only
  rw [h.oldest, h.mine, if_neg h.outside, if_neg h.unlost, if_neg (not_not_intro rfl), if_neg h.busy]
  rcases hwait with hwait | hwait | hwait <;> rw [hwait] <;> exact congrArg Host.Outcome.next (if_pos hne)

end

end

section
variable {s : State} {e : Nat} {x : Engine} (hn : x.ndata = 0) {data : List Word} {is : SMap Word}
  (his : is = smSetRun 0 [] 0 ((List.range (min 4096 x.ninstr)).map (nth 0 data)))
include hn his

/-- The instructions of a chart without data words, with counts in their range: it begins with a cleared data area. -/
theorem fetchInstr_begins (hcounts : countsOk x = true) :
    fetchInstr s e x ((List.range x.ninstr).map (nth 0 data)) = fetchBegins s e { x with imem := is, dmem := [] } := by
  have hdata : smSetRun 0 [] 0 ((List.range x.ndata).map (nth (0 : Word) [])) = [] := by rw [hn]; rfl
  subst his
  unfold fetchInstr
  rw [map_nth_range_le data (Nat.min_le_right 4096 x.ninstr)]
  refine (if_pos hn).trans ((if_neg ?_).trans (congrArg (fun d => fetchBegins s e { x with imem := _, dmem := d }) hdata))
  exact Bool.eq_false_iff.mp (congrArg not hcounts)

theorem fetchInstr_badCounts (hcounts : countsOk x = false) :
    fetchInstr s e x ((List.range x.ninstr).map (nth 0 data)) = fetchFails s e { x with imem := is } 6 := by
  subst his
  unfold fetchInstr
  rw [map_nth_range_le data (Nat.min_le_right 4096 x.ninstr)]
  exact (if_pos hn).trans (if_pos (congrArg not hcounts))

end

/-- Settles O16: the answer of an engine's reads is its chart's, and the chart goes on by what it waits for. That one answer meets every part of a read
(log 95), and the order of the fetch's reads (log 15), are the model's choices. -/
theorem readAnswersReachTheWaitingEngine : Obligations.ReadAnswersReachTheWaitingEngine := by
  intro e s data x u is y st
  have hclock : u.clock = s.clock := foldl_dropTxn_clock _ s
  refine ⟨fun i k hi hkey hphase hold => execHostReadResponse_early rfl hi hkey hphase hold k, fun hleft hruns => ?_⟩
  have h : Answered s e x := ⟨hleft, hruns⟩
  refine ⟨?hld, ?hget, ?begins, ?scanned, ?counts, ?fails⟩
  case hld =>
    intro gd hwait hin
    have hans (k : Fin 3) := execHostReadResponse_hld (data := data) rfl h rfl hwait k
    refine ⟨(hans 0).trans (congrArg Host.Outcome.next (finish_moveOk _ _ _ ?_)), hans 1, hans 2⟩
    simpa [answerStatus] using hin
  case hget =>
    intro off n hwait hin
    have hans (k : Fin 3) := execHostReadResponse_hget (data := data) rfl h rfl hwait k
    exact ⟨(hans 0).trans (congrArg Host.Outcome.next (finish_moveOk _ _ _ hin)), hans 1, hans 2⟩
  case begins =>
    intro hwait hn hcounts hst
    rw [exec_hostReadResponse, execHostReadResponse_fetchInstr rfl h rfl hwait, fetchInstr_begins hn rfl hcounts]
    refine congrArg Host.Outcome.next ((if_neg (not_not_intro hst)).trans ?_)
    rw [hclock]
  case scanned =>
    intro hwait hn hcounts hst
    rw [exec_hostReadResponse, execHostReadResponse_fetchInstr rfl h rfl hwait, fetchInstr_begins hn rfl hcounts]
    exact congrArg Host.Outcome.next (if_pos hst)
  case counts =>
    intro hwait hn hcounts
    rw [exec_hostReadResponse, execHostReadResponse_fetchInstr rfl h rfl hwait, fetchInstr_badCounts hn rfl hcounts]
    rfl
  case fails =>
    rintro r rfl hr
    exact ⟨execHostReadResponse_fetchFails rfl h rfl hr (k := 1) (st := 5) rfl (by decide),
      execHostReadResponse_fetchFails rfl h rfl hr (k := 2) (st := 8) rfl (by decide)⟩

end Sys2Proof.Machine

/-! SUPPORT. Drain points and claims given back, the macros over one entry of a table, the PORT and ISL macros, and the statements on them of
11_chart_instructions.md settled from these. -/
namespace Sys2Proof.Machine

/-- A check that passes does not fail. -/
theorem not_fails {c : Bool} (h : c = true) : ¬(!c) = true := Bool.eq_false_iff.mp (congrArg not h)

/-! DRAIN and UNCLAIM (R263, R264, R282). -/

section
variable {e : EngineId} {s : State} {x : Engine} {w : Word} (hx : x = engineOf s e) (hw : w = wordAt x)
include hx hw

theorem execUnclaim_stands (h : Stands s e 0x39) {i : Nat} (hi : i = claimIndex x w) : execUnclaim e s = .next (
    if 228 ≤ i then finish s e x 5
    else if wfld w 15 1 = 1 ∧ x.tier < 2 then finish s e x 1
    else if claimOf s i / 0x10000 % 2 = 1 then finish s e x 1
    else if claimOwner s i = x.sub then finish (releaseClaims s [i]) e x 0
    else if wfld w 15 1 ≠ 1 then finish s e x 2
    else if claimOwner s i = 0xFFFF then finish s e x 0
    else finish (raiseEvent (releaseClaims s [i]) 0x381 i [claimOwner s i]) e x 0) := by
  subst hx hw hi
  refine congrArg Host.Outcome.next ((onOp_stands h _).trans ?_)
  simp only [beq_iff_eq, Bool.not_eq_true', beq_eq_false_iff_ne]

section
variable {kind ga : Nat} (hkind : kind = wfld w 0 2) (hga : ga = (regGet x (gaOf w)).toNat)
  (hport : kind = 0 → ga < 96 ∧ portExists s ga = true) (hep : kind = 1 → ga < 3072 ∧ depValid ga = true ∧ epPort ga = none)
include hkind hga hport hep

/-- DRAIN of what exists goes on, or waits below the current commit number. -/
theorem execDrain_exists (h : Stands s e 0x36) : execDrain e s = .next (
    if drainOver s kind ga s.commitNum = true then finish s e x 0
    else setEngine s e
      { x with wait := .drain kind ga s.commitNum (if wfld w 2 14 = 0 then none else some (s.clock + wfld w 2 14 * 1000000)) }) := by
  subst hx hw hkind hga
  refine congrArg Host.Outcome.next ((onOp_stands h _).trans ((if_neg ?_).trans (if_neg ?_)))
  · rintro ⟨h0, hno⟩
    simp [hport h0] at hno
  · rintro ⟨h1, hno⟩
    simp [hep h1] at hno

end

omit hw in
theorem execDrainTimeout_due {k g n d : Nat} (hwait : x.wait = .drain k g n (some d)) (hdue : d ≤ s.clock) (hover : drainOver s k g n = false)
    (hseq : x.seq = 0) : execDrainTimeout e s = .next (endChart (setEngine s e { x with wait := .run }) e 7 x.pc) := by
  subst hx
  unfold execDrainTimeout
  dsimp only
  rw [hwait]
  exact (if_pos ⟨hdue, congrArg not hover, hseq⟩).trans (congrArg Host.Outcome.next (finish_bad _ _ _ _ (by decide)))

end

/-- Settles O20: DRAIN by its drain point, UNCLAIM by the flag and the owner. That a drain point which is reached already holds nothing up is deduced
(log 65). -/
theorem drainAndUnclaimResults : Obligations.DrainAndUnclaimResults := by
  intro e s x w kind lim ga i named
  have hdrain (h : Stands s e 0x36) (hnamed : named) := execDrain_exists (x := x) (w := w) (kind := kind) (ga := ga) rfl rfl rfl rfl hnamed.1 hnamed.2 h
  have hunclaim (h : Stands s e 0x39) := execUnclaim_stands (x := x) (w := w) (i := i) rfl rfl h rfl
  refine ⟨?reached, ?waits, ?timeout, ?own, ?forced, ?free, ?conflict, ?permanent, ?absent⟩
  case reached => exact fun ⟨hst, hin⟩ hnamed hover => by rw [exec_drain, hdrain hst hnamed, if_pos hover, finish_moveOk _ _ _ hin]
  case waits => exact fun ⟨hst, _⟩ hnamed hover => by rw [exec_drain, hdrain hst hnamed, if_neg (Bool.eq_false_iff.mp hover)]
  case timeout => exact fun k g n d hwait hdue hover hseq => execDrainTimeout_due rfl hwait hdue hover hseq
  case own =>
    intro ⟨hst, hin⟩ hi hplain hperm hown
    rw [exec_unclaim, hunclaim hst, if_neg (by omega), if_neg (by omega), if_neg (by omega), if_pos hown, finish_moveOk _ _ _ hin]
  case forced =>
    intro ⟨hst, hin⟩ hi hforce htier hperm hother hheld
    rw [exec_unclaim, hunclaim hst, if_neg (by omega), if_neg (by omega), if_neg (by omega), if_neg hother, if_neg (not_not_intro hforce),
      if_neg hheld, finish_moveOk _ _ _ hin]
  case free =>
    intro ⟨hst, hin⟩ hi hforce htier hperm hother hfree
    rw [exec_unclaim, hunclaim hst, if_neg (by omega), if_neg (by omega), if_neg (by omega), if_neg hother, if_neg (not_not_intro hforce),
      if_pos hfree, finish_moveOk _ _ _ hin]
  case conflict =>
    intro hst hi hplain hperm hother
    rw [exec_unclaim, hunclaim hst, if_neg (by omega), if_neg (by omega), if_neg (by omega), if_neg hother, if_pos (by omega),
      finish_bad _ _ _ _ (by decide)]
  case permanent =>
    intro hst hi hperm
    rw [exec_unclaim, hunclaim hst, if_neg (by omega), if_pos hperm, ite_self, finish_bad _ _ _ _ (by decide)]
  case absent => exact fun hst hi => by rw [exec_unclaim, hunclaim hst, if_pos hi, finish_bad _ _ _ _ (by decide)]

/-! Macros over one entry of a table (R286, R290, R291). -/

/-- A macro of one step that enters one draft and changes nothing else goes on with it. -/
theorem macroOp_enters {s : State} {e op : Nat} {masks : List Nat} {flags : Nat} {eng : MacroEng}
    {f : State → Engine → (Nat → Word) → Nat × State × Engine} {y : Engine} {t i : Nat} {v mask : Entry} (h : Begins s e op masks flags eng false)
    (hf : f s (regSet (engineOf s e) 1 0) (blockWord (engineOf s e) (wordAt (engineOf s e))) = (0, s, putDraft s y t i v mask))
    (hpc : y.pc = (engineOf s e).pc) (hn : y.ninstr = (engineOf s e).ninstr) :
    macroOp s e op masks flags eng f = moveOk s e (putDraft s y t i v mask) :=
  macroOp_ok h hf (by rw [putDraft_pc, putDraft_ninstr, hpc, hn]; exact h.1.2)

/-- Another instruction follows the macro, with G1 cleared too. -/
theorem begins_follows {s : State} {e op : Nat} {masks : List Nat} {flags : Nat} {eng : MacroEng} {seqd : Bool}
    (h : Begins s e op masks flags eng seqd) : (regSet (engineOf s e) 1 0).pc + 1 < (regSet (engineOf s e) 1 0).ninstr := by
  rw [regSet_pc, regSet_ninstr]
  exact h.1.2

/-- As macroOp_enters, for a draft that the value rules of its table judge and that reads no other entry. -/
theorem macroOp_ruled {s : State} {e op : Nat} {masks : List Nat} {flags : Nat} {eng : MacroEng}
    {f : State → Engine → (Nat → Word) → Nat × State × Engine} {x : Engine} {t i : Nat} {v : Entry} (h : Begins s e op masks flags eng false)
    (hx : x = regSet (engineOf s e) 1 0) (hf : f s x (blockWord (engineOf s e) (wordAt (engineOf s e))) = ruledWhole s e x t i v)
    (hatlas : t ≠ 0x0C) (hvcs : t ≠ 0x10) (hrule : refusedValue s x t i (merge (seenVal s x t i) v (draftable t)) (draftable t) = false)
    (hd : Draftable s e x t i v (draftable t)) : macroOp s e op masks flags eng f = moveOk s e (putDraft s x t i v (draftable t)) := by
  subst hx
  exact macroOp_enters h (hf.trans (draftRuled_plain hatlas hvcs hrule hd)) (regSet_pc ..) (regSet_ninstr ..)

/-- A macro with a mask word drafts the masked fields of a port that exists. -/
theorem draftMasked_port {s : State} {e p : Nat} {x : Engine} {t : Nat} {v m : Entry} (hport : portExists s p = true) (hm : maskWhole t m = true) :
    (if maskWhole t m ∧ !(portExists s p) then (5, s, x) else draftMasked s e x t p v m) = draft s e x t p v m :=
  (if_neg fun hno => not_fails hport hno.2).trans (if_neg (not_fails hm))

section
variable {e : EngineId} {s : State} {x : Engine} {b : Nat → Word} (hx : x = regSet (engineOf s e) 1 0)
  (hb : b = blockWord (engineOf s e) (wordAt (engineOf s e)))
include hx hb

/-- SLOT.MAP to a port that no other channel maps, or to none (R315). -/
theorem execSlotMap_drafts (h : Begins s e 0xA1 [rowBits [(4, 0), (14, 8)]] 0 .glob false) {c q : Nat} (hc : c = wfld (b 0) 0 5)
    (hq : q = wfld (b 0) 8 7) (hfree : q = 127 ∨ q < 96 ∧ portExists s q = true ∧ ∀ k, k < 32 → k ≠ c → fld (seenVal s x 0x38 k) 0 7 ≠ q) {y : Engine}
    (hy : y = readsOf s x (((List.range 32).filter fun k => q != 127 && k != c).map fun k => (0x38, k)))
    (hd : Draftable s e y 0x38 c (BitVec.ofNat 256 q) (ones 0 7)) :
    execSlotMap e s = .next (moveOk s e (putDraft s y 0x38 c (BitVec.ofNat 256 q) (ones 0 7))) := by
  have htaken : ¬(q ≠ 127 ∧ ((List.range 32).any fun k => k != c && fld (seenVal s x 0x38 k) 0 7 == q) = true) := by
    rintro ⟨hne, hany⟩
    obtain ⟨-, -, hother⟩ := hfree.resolve_left hne
    obtain ⟨k, hk, hmaps⟩ := List.any_eq_true.mp hany
    rw [Bool.and_eq_true, bne_iff_ne, beq_iff_eq] at hmaps
    exact hother k (List.mem_range.mp hk) hmaps.1 hmaps.2
  have hexists : ¬(q ≠ 127 ∧ (!portExists s q) = true) := by
    rintro ⟨hne, hno⟩
    exact not_fails (hfree.resolve_left hne).2.1 hno
  subst hx hb hc hq hy
  refine congrArg Host.Outcome.next (macroOp_enters h ?_ (by rw [readsOf_pc, regSet_pc]) (by rw [readsOf_ninstr, regSet_ninstr]))
  exact (if_neg (by omega)).trans ((if_neg hexists).trans ((if_neg htaken).trans (draft_allowed hd)))

end

/-- Settles O21: the object of each block exists, so the macro enters its draft. That SLOT.MAP records the other channels' entries as read is the model's
reading of R27 (logs 86 and 99). -/
theorem qosFenceSlotAndTileMacrosDraftTheirRows : Obligations.QosFenceSlotAndTileMacrosDraftTheirRows := by
  intro e s x b p m r c q y
  refine ⟨?qosPort, ?qosFlow, ?fenceSet, ?fenceClear, ?slotConfig, ?slotMap, ?tileProfile⟩
  case qosPort => exact fun h hport hm hd => congrArg Host.Outcome.next (macroOp_draft h (draftMasked_port hport hm) hd)
  case qosFlow =>
    refine fun h hf hport hd => congrArg Host.Outcome.next (macroOp_draft h (if_neg ?_) hd)
    rintro (hover | hno)
    · exact Nat.not_lt.mpr hf hover
    · exact not_fails hport hno
  case fenceSet => exact fun h hreg hrule hd => congrArg Host.Outcome.next (macroOp_ruled h rfl (if_neg (not_fails hreg)) (by decide) (by decide) hrule hd)
  case fenceClear => exact fun h hreg hd => congrArg Host.Outcome.next (macroOp_draft h (if_neg (not_fails hreg)) hd)
  case slotConfig => exact fun h hmap hd => congrArg Host.Outcome.next (macroOp_draft h (if_neg (not_not_intro hmap)) hd)
  case slotMap => exact fun h hfree hd => execSlotMap_drafts rfl rfl h rfl rfl hfree rfl hd
  case tileProfile => exact fun h htile hd => congrArg Host.Outcome.next (macroOp_draft h (if_neg (Nat.not_le.mpr htile)) hd)

/-! Events and counters (R291). -/

section
variable {e : EngineId} {s : State} {x : Engine} {b : Nat → Word} (hx : x = regSet (engineOf s e) 1 0)
  (hb : b = blockWord (engineOf s e) (wordAt (engineOf s e)))
include hx hb

/-- EVT.METRIC over an event that the device raises, or over one of the gauges 0 to 5 (R392). -/
theorem execEvtMetric_drafts (h : Begins s e 0xB1 [rowBits [(9, 0)], tabWordMask 0x3B 0] 0 .glob false) {i : Nat} (hi : i = wfld (b 0) 0 10) {v : Entry}
    (hv : v = entryOfWords [b 1]) (hsource : fld v 55 2 ≠ 2 ∧ esidKnown (fld v 44 11) = true ∨ fld v 55 2 = 2 ∧ fld v 44 11 ≤ 5)
    (hrule : refusedValue s x 0x3B i (merge (seenVal s x 0x3B i) v (draftable 0x3B)) (draftable 0x3B) = false)
    (hd : Draftable s e x 0x3B i v (draftable 0x3B)) : execEvtMetric e s = .next (moveOk s e (putDraft s x 0x3B i v (draftable 0x3B))) := by
  have hknown : ¬(fld v 55 2 ≠ 2 ∧ (!esidKnown (fld v 44 11)) = true) := by
    rintro ⟨hne, hno⟩
    obtain ⟨-, hyes⟩ := hsource.resolve_right fun hgauge => hne hgauge.1
    exact not_fails hyes hno
  have hgauge : ¬(fld v 55 2 = 2 ∧ 5 < fld v 44 11) := by omega
  subst hb hi hv
  exact congrArg Host.Outcome.next (macroOp_ruled h hx ((if_neg hknown).trans (if_neg hgauge)) (by decide) (by decide) hrule hd)

/-- PERF.DUMP to a partition that the submitter holds, or to a port that the chart sees as a USP or an FMP (R411). -/
theorem execPerfDump_drafts (h : Begins s e 0xB9 [tabWordMask 0x40 0, tabWordMask 0x40 1] 0 .glob false) {u : Entry} (hu : u = entryOfWords [b 0, b 1])
    (hres : hasReserved 0x40 0 u (draftable 0x40) = false)
    (hpart : fld u 0 2 = 1 → partitionCheck s x.sub (fld u 15 49 * 2 ^ 15) (fld u 72 8 * 32768) = 0)
    (hport : fld u 0 2 = 2 → vWidth (viewOf s x) (fld u 8 7) ≠ 0 ∧ (vRole (viewOf s x) (fld u 8 7) = 1 ∨ vRole (viewOf s x) (fld u 8 7) = 4)) {y : Engine}
    (hy : y = if fld u 0 2 = 2 then readsOf s x [(0x01, fld u 8 7)] else x) (hd : Draftable s e y 0x40 0 u (draftable 0x40)) :
    execPerfDump e s = .next (moveOk s e (putDraft s y 0x40 0 u (draftable 0x40))) := by
  have hplace : y.pc = (engineOf s e).pc ∧ y.ninstr = (engineOf s e).ninstr := by
    rw [hy, hx]
    split <;> simp
  subst hx hb hu hy
  refine congrArg Host.Outcome.next (macroOp_enters h ?_ hplace.1 hplace.2)
  refine (if_neg (Bool.eq_false_iff.mp hres)).trans ((if_neg fun hno => hno.2 (hpart hno.1)).trans ((if_neg fun hno => (hport hno.1).1 hno.2).trans
    ((if_neg ?_).trans (draft_allowed hd))))
  rintro ⟨hto, husp, hfmp⟩
  exact (hport hto).2.elim husp hfmp

/-- PERF.READ of a counter that exists, by a submitter that may read it (R409). -/
theorem execPerfRead_shows (h : Begins s e 0xBB [rowBits [(15, 0)]] 0 (.tile tileOfCounter0) false) {n : Nat} (hn : n = wfld (b 0) 0 16)
    (hexists : entryExists s 0x3C n = true) (hmay : 2 ≤ x.tier ∨ n < 0x0900 ∧ mayActOn s x (n / 24) = true) :
    execPerfRead e s = .next (moveOk s e
      (regSet (regSet x 1 (BitVec.ofNat 64 (smGet 0 s.cnt.latched n))) 2 (BitVec.ofNat 64 (latchTsOf s n)))) := by
  have hallowed : ¬(x.tier < 2 ∧ (!(decide (n < 0x0900) && mayActOn s x (n / 24))) = true) := by
    rintro ⟨hlow, hno⟩
    obtain ⟨hcounter, hport⟩ := hmay.resolve_left (Nat.not_le.mpr hlow)
    simp [hcounter, hport] at hno
  subst hx hb hn
  refine congrArg Host.Outcome.next (macroOp_ok h ?_ (by simpa using h.1.2))
  dsimp only
  rw [if_neg (not_fails hexists), if_neg hallowed]

end

/-- Settles O22: the drafting macros enter their entry, EVT.POST raises its event and PERF.READ shows the latch. That PERF.DUMP records the entry of its
port as read is the model's reading of R27 (logs 86 and 99). -/
theorem eventAndCounterMacroResults : Obligations.EventAndCounterMacroResults := by
  intro e s x b v n u
  refine ⟨?route, ?metric, ?post, ?timer, ?arm, ?dump, ?grant, ?read, ?trace⟩
  case route => exact fun h hknown hd => congrArg Host.Outcome.next (macroOp_draft h (if_neg (not_fails hknown)) hd)
  case metric => exact fun h hsource hrule hd => execEvtMetric_drafts rfl rfl h rfl rfl hsource hrule hd
  case post => exact fun h => congrArg Host.Outcome.next (macroOp_ok h rfl (begins_follows h))
  case timer => exact fun h hd => congrArg Host.Outcome.next (macroOp_draft h rfl hd)
  case arm => exact fun h hctr hrule hd => congrArg Host.Outcome.next (macroOp_ruled h rfl (if_neg (not_fails hctr)) (by decide) (by decide) hrule hd)
  case dump => exact fun h hres hpart hport hd => execPerfDump_drafts rfl rfl h rfl hres hpart hport rfl hd
  case grant =>
    exact fun h hvf hmay hd => congrArg Host.Outcome.next (macroOp_draft h ((if_neg hvf).trans (if_neg (not_fails hmay))) hd)
  case read => exact fun h hctr hmay => execPerfRead_shows rfl rfl h rfl hctr hmay
  case trace => exact fun h hd => congrArg Host.Outcome.next (macroOp_draft h rfl hd)

/-! PORT and ISL macros (R100, R288). -/

section
variable {e : EngineId} {s : State} {x : Engine} {b : Nat → Word} (hx : x = regSet (engineOf s e) 1 0)
  (hb : b = blockWord (engineOf s e) (wordAt (engineOf s e))) {p : Nat} (hp : p = wfld (b 0) 0 7) (hport : portExists s p = true)
include hx hb hp hport

/-- PORT.RETRAIN of a PCIe or CXL port in L0. -/
theorem execPortRetrain_recovers (h : Begins s e 0x41 [rowBits [(6, 0)]] 0 (.tile tileOfPort0) false) (hisl : roleOf s p ≠ 3) (hon : roleOf s p ≠ 0)
    (hl0 : tabFld s 0x02 p 0 6 = 0x0B) : execPortRetrain e s = .next (moveOk (emit (toRecovery s p) (.link p 6 0)) e x) := by
  subst hx hb hp
  refine congrArg Host.Outcome.next (macroOp_ok h ?_ (begins_follows h))
  exact (if_neg (not_fails hport)).trans ((if_neg (not_or.mpr ⟨hisl, hon⟩)).trans (if_neg (not_not_intro hl0)))

/-- PORT.STATUS of a port that the submitter may act on. -/
theorem execPortStatus_shows (h : Begins s e 0x42 [rowBits [(6, 0)]] 0 (.tile tileOfPort0) false) (hmay : mayActOn s x p = true) :
    execPortStatus e s = .next (moveOk s e (regSet (regSet x 1 (entryWord (tabVal s 0x02 p) 0)) 2
      (if roleOf s p = 3 then entryWord (tabVal s 0x05 p) 0 else 0))) := by
  subst hx hb hp
  refine congrArg Host.Outcome.next (macroOp_ok h ?_ (by simpa using h.1.2))
  dsimp only
  rw [if_neg (not_fails hport), if_neg (not_fails hmay)]

/-- ISL.RETRAIN of an open session (Table 4.7). -/
theorem execIslRetrain_leavesOpen (h : Begins s e 0x58 [rowBits [(6, 0)]] 0 (.tile tileOfPort0) false) (hisl : roleOf s p = 3)
    (hopen : islOpen s p = true) : execIslRetrain e s = .next (moveOk (leaveOpen s p 4) e (regSet x 1 (BitVec.ofNat 64 (sessFld s p 0 8)))) := by
  subst hx hb hp
  refine congrArg Host.Outcome.next (macroOp_ok h ?_ (by simpa using h.1.2))
  exact (if_neg (not_fails hport)).trans ((if_neg (not_not_intro hisl)).trans (if_neg (not_fails hopen)))

end

/-- Settles O24: each macro on a port that exists, and ISL.CHIP under the rule on its parent. That ISL.CHIP records the parent's role as read is the
model's reading of R27 (logs 86 and 99). -/
theorem portAndIslMacroResults : Obligations.PortAndIslMacroResults := by
  intro e s x b p m
  refine ⟨?config, ?retrain, ?status, ?islRetrain, ?chip⟩
  case config => exact fun h hport hm hd => congrArg Host.Outcome.next (macroOp_draft h (draftMasked_port hport hm) hd)
  case retrain => exact fun h hport hisl hon hl0 => execPortRetrain_recovers rfl rfl rfl hport h hisl hon hl0
  case status => exact fun h hport hmay => execPortStatus_shows rfl rfl rfl hport h hmay
  case islRetrain => exact fun h hport hisl hopen => execIslRetrain_leavesOpen rfl rfl rfl hport h hisl hopen
  case chip =>
    intro v y h hd
    refine congrArg Host.Outcome.next (macroOp_enters h (draftRuled_allowed hd) ?_ ?_)
    · rw [ruleReads_pc, regSet_pc]
    · rw [ruleReads_ninstr, regSet_ninstr]
end Sys2Proof.Machine

/-! SUPPORT. Survey: presence and the automatic run, the SURVEY macros past their own checks, the ends and bounds of a run's steps, the bound of a detach,
the attention button, a lost partner, deferred capacity, and the statement of 12_survey_hotplug.md settled from these. -/
namespace Sys2Proof.Machine

/-! Presence and the automatic run (R294, R297). -/

/-- The port's presence set to v, and with it whether an arrival waits for Survey. -/
def withPresence (s : State) (p : Nat) (v : Bool) : State :=
  { s with present := smSet false s.present p v, arriving := smSet false s.arriving p v }

/-- What decides whether a port has a presence pin is in the slot channels' table entries. -/
theorem byPin_of_tab {s t : State} (h : t.tab = s.tab) (p : Nat) : byPin t p = byPin s p := by
  unfold byPin channelOf tabFld
  rw [tabVal_of_tab h]

theorem runOf_of_surveys {s t : State} (h : t.surveys = s.surveys) (p : Nat) : runOf t p = runOf s p := by
  unfold runOf
  rw [h]

section
variable {p : PortId} {s : State}

theorem execPresence_arrives (hport : portExists s p = true) (hqualifies : byPin s p = true ∨ inBand s p = true)
    (habsent : smGet false s.present p = false) : execPresence p s = .next (raiseEvent (withPresence s p true) 0x400 p []) := by
  refine if_neg ?_
  rintro (hno | hpresent | ⟨hpin, hband⟩)
  · exact not_fails hport hno
  · exact Bool.eq_false_iff.mp habsent hpresent
  · exact hqualifies.elim (not_fails · hpin) (not_fails · hband)

theorem execPresence_known (hpresent : smGet false s.present p = true) : execPresence p s = .next s :=
  if_pos (.inr (.inl hpresent))

theorem execPresence_unqualified (hpin : byPin s p = false) (hband : inBand s p = false) : execPresence p s = .next s :=
  if_pos (.inr (.inr ⟨by rw [hpin]; rfl, by rw [hband]; rfl⟩))

theorem execPresenceAbsent_leaves (hpresent : smGet false s.present p = true) (hpin : byPin s p = false) (hrun : runOf s p = none) :
    execPresenceAbsent p s = .next (raiseEvent (withPresence s p false) 0x400 p []) := by
  have hstays : byPin (raiseEvent (withPresence s p false) 0x400 p []) p = false := (byPin_of_tab (raiseEvent_tab ..) p).trans hpin
  have hfree : runOf (raiseEvent (withPresence s p false) 0x400 p []) p = none := (runOf_of_surveys (raiseEvent_surveys ..) p).trans hrun
  unfold withPresence at hstays hfree ⊢
  simp only [execPresenceAbsent, hpresent, hstays, hfree, Bool.not_true, Bool.false_eq_true, false_and, if_false]

theorem execPresenceAbsent_known (habsent : smGet false s.present p = false) : execPresenceAbsent p s = .next s :=
  if_pos (by rw [habsent]; rfl)

theorem execSurveyStart_queues (harrives : smGet false s.arriving p = true) (hrole : roleOf s p ≠ 0)
    (hst : (partnerOf s p).st ∈ [0, 3, 5, 6, 7]) (hrun : surveying s p = false) (hdetach : detachOf s p = none) :
    execSurveyStart p s = .next { s with
      residents := s.residents ++ [{ engine := p / 8, kind := 0, port := p }], arriving := smSet false s.arriving p false } :=
  if_pos ⟨harrives, hrole, by simpa using hst, by rw [hrun]; rfl, by rw [hdetach]; rfl⟩

theorem execSurveyStart_idle (hno : smGet false s.arriving p = false) : execSurveyStart p s = .next s :=
  if_neg fun h => Bool.eq_false_iff.mp hno h.1

end

/-! SURVEY.RUN and SURVEY.RECORD (R296, R304). -/

section
variable {e : EngineId} {s : State} {p : Nat} (hp : p = wfld (blockWord (engineOf s e) (wordAt (engineOf s e)) 0) 0 7)
include hp

section
variable (h : Begins s e 0xA8 [rowBits [(6, 0)]] 0 (.tile tileOfPort0) true) {x : Engine}
  (hx : x = regSet (regSet (engineOf s e) 1 0) 1 (BitVec.ofNat 64 (partnerOf s p).outcome)) (hport : portExists s p = true) (hrole : roleOf s p ≠ 0)
  (hrun : surveying s p = false) (hdetach : detachOf s p = none)
include h hx hport hrole hrun hdetach

/-- SURVEY.RUN on a port whose role is set and on which neither a run nor a detach is under way. -/
theorem execSurveyRun_byRecord : execSurveyRun e s = .next (
    if (partnerOf s p).st = 2 ∧ (partnerOf s p).flags % 2 = 1 then finish s e x 0
    else
      let t := setEngine s e (seqWait x 1 p 0)
      if (partnerOf s p).st = 2 then
        let r : SurveyRun := { engine := e, began := s.clock, grans := smGet [] s.stated p }
        step7 (setRun (modPartner t p fun q => { q with st := 1 }) p r) p r
      else beginRun t e p) := by
  obtain ⟨hnone, hwaits⟩ := Bool.or_eq_false_iff.mp hrun
  subst hp hx
  refine congrArg Host.Outcome.next ((macroThen_begins h _).trans ?_)
  refine (if_neg ?_).trans ((if_neg ?_).trans rfl)
  · exact not_or.mpr ⟨not_fails hport, hrole⟩
  · rintro (hruns | hqueued | hdetaches)
    · exact Bool.eq_false_iff.mp hnone hruns
    · exact Bool.eq_false_iff.mp hwaits hqueued
    · rw [hdetach] at hdetaches
      exact Bool.false_ne_true hdetaches

theorem execSurveyRun_registered (harrived : (partnerOf s p).st = 2) (hreg : (partnerOf s p).flags % 2 = 1) :
    execSurveyRun e s = .next (moveOk s e x) := by
  rw [execSurveyRun_byRecord hp h hx hport hrole hrun hdetach, if_pos ⟨harrived, hreg⟩, finish_moveOk]
  simpa [hx] using h.1.2

theorem execSurveyRun_begins (hnew : (partnerOf s p).st ≠ 2) : execSurveyRun e s = .next (beginRun (setEngine s e (seqWait x 1 p 0)) e p) := by
  rw [execSurveyRun_byRecord hp h hx hport hrole hrun hdetach, if_neg fun h => hnew h.1, if_neg hnew]

/-- A partner that has arrived without registration: step 7 alone runs. -/
theorem execSurveyRun_registers (harrived : (partnerOf s p).st = 2) (hunreg : (partnerOf s p).flags % 2 = 0) {r : SurveyRun}
    (hr : r = { engine := e, began := s.clock, grans := smGet [] s.stated p }) :
    execSurveyRun e s = .next (step7 (setRun (modPartner (setEngine s e (seqWait x 1 p 0)) p fun q => { q with st := 1 }) p r) p r) := by
  rw [execSurveyRun_byRecord hp h hx hport hrole hrun hdetach, if_neg (by omega), if_pos harrived, hr]

end

theorem execSurveyRecord_writes (h : Begins s e 0xAA [rowBits [(6, 0)], rowBits [(15, 0)]] 0 (.tile tileOfPort0) false) {off : Nat}
    (hoff : off = wfld (blockWord (engineOf s e) (wordAt (engineOf s e)) 1) 0 16) (halign : off % 8 = 0) (hport : portExists s p = true)
    (hlow : 0x8000 ≤ off) (hhigh : off + 128 ≤ 0x10000) :
    execSurveyRecord e s = .next (moveOk s e (setData (regSet (engineOf s e) 1 0) (areaWord off) (bytesWords (partnerBytes p (partnerOf s p)) 16))) := by
  subst hp hoff
  refine congrArg Host.Outcome.next (macroOp_ok h ?_ (begins_follows h))
  exact (if_neg (by omega)).trans ((if_neg (not_fails hport)).trans (if_neg (by omega)))

end

/-! Managed detach (R306, Table 12.6). -/

/-- A detach of the port begins: step 1, the button's window closed. -/
def detachBegun (s : State) (p : Nat) : State :=
  modPartner { s with attn := smSet 0 s.attn p 0, detachAt := smSet 0 s.detachAt p 0 } p fun q => { q with st := 4, step := 1 }

/-- PERST# of the port is asserted where its channel names a pin. -/
def perstAsserted (s : State) (p : Nat) : State :=
  match perstPin s p with
  | some g => { s with pinLow := smSet false s.pinLow g true }
  | none => s

/-- Step 7: the port's members leave the pool, its link goes down, PERST# is asserted and its slot goes off. -/
def detachReleased (s : State) (p : Nat) : State :=
  slotOffAt (perstAsserted (disableLink (leavePool (detachStep { s with detaching := smSet false s.detaching p true } p 7) p) p) p) p

/-- Step 8: the partner has departed. -/
def detachDeparted (s : State) (p : Nat) : State :=
  raiseEvent (modPartner { s with detaching := smSet false s.detaching p false, detachAt := smSet 0 s.detachAt p 0 } p fun q =>
    { q with st := 5, step := 8, departTs := s.ts }) 0x408 p []

theorem detachEnd_ok {x : Engine} (hx : x.pc + 1 < x.ninstr) (s : State) (e p : Nat) :
    detachEnd s e x p = moveOk (detachDeparted (detachReleased s p) p) e x :=
  finish_moveOk _ _ { x with seq := 0 } hx

section
variable {e : EngineId} {s : State} {p : Nat} (h : Begins s e 0xA9 [rowBits [(6, 0)]] 0 .glob true)
  (hp : p = wfld (blockWord (engineOf s e) (wordAt (engineOf s e)) 0) 0 7) (hrun : surveying s p = false) (hdetach : detachOf s p = none)
  (hport : portExists s p = true) (hst : (partnerOf s p).st = 2 ∨ (partnerOf s p).st = 3 ∨ (partnerOf s p).st = 4)
include h hp hrun hdetach hport hst

/-- SURVEY.DETACH of a partner that has arrived, was refused or is detaching, on a port where neither a run nor a detach is under way. -/
theorem execSurveyDetach_byLink : execSurveyDetach e s = .next (
    if lostNow (detachBegun s p) p then detachEnd (detachBegun s p) e (regSet (engineOf s e) 1 0) p
    else detach2 (detachBegun s p) e (regSet (engineOf s e) 1 0) p) := by
  subst hp
  refine (if_pos h.1.1.1).trans (congrArg Host.Outcome.next ((macroThen_begins h _).trans ?_))
  refine (if_neg ?_).trans ((if_neg ?_).trans rfl)
  · rw [hrun, hdetach]
    exact fun hbusy => Bool.false_ne_true (hbusy.elim id id)
  · exact not_or.mpr ⟨not_fails hport, by omega⟩

theorem execSurveyDetach_unbinds (hlink : lostNow (detachBegun s p) p = false) :
    execSurveyDetach e s = .next (detach2 (detachBegun s p) e (regSet (engineOf s e) 1 0) p) :=
  (execSurveyDetach_byLink h hp hrun hdetach hport hst).trans (congrArg Host.Outcome.next (if_neg (Bool.eq_false_iff.mp hlink)))

theorem execSurveyDetach_departs (hlost : lostNow (detachBegun s p) p = true) :
    execSurveyDetach e s = .next (moveOk (detachDeparted (detachReleased (detachBegun s p) p) p) e (regSet (engineOf s e) 1 0)) := by
  rw [execSurveyDetach_byLink h hp hrun hdetach hport hst, if_pos hlost, detachEnd_ok (begins_follows h)]

end

/-! The ends of a run's steps (R298-R302, Table 12.1). -/

/-- A run whose port is not lost is not ended as gone, whatever its step. -/
theorem not_endsGone {s : State} {p : Nat} (hlink : lostNow s p = false) {P Q : Prop} : ¬(P ∧ lostNow s p = true ∧ Q) :=
  fun h => Bool.eq_false_iff.mp hlink h.2.1

section
variable {p : PortId} {s : State} {r : SurveyRun} (hrun : runOf s p = some r) (hlink : lostNow s p = false)
include hrun hlink

theorem execSurveyStepComplete_powered (hk : (partnerOf s p).step = 2) (hready : slotReady s p r = true) (x : StepFound) :
    execSurveyStepComplete p x s = .next (step3 (modPartner s p fun q => { q with flags := q.flags ||| 16 }) p r) := by
  simp only [execSurveyStepComplete, hrun, if_neg (not_endsGone hlink), hk, hready, if_true]

theorem execSurveyStepComplete_trained (hk : (partnerOf s p).step = 3) (htrained : trained s p = true) (x : StepFound) :
    execSurveyStepComplete p x s = .next (beginStep s p 4 r) := by
  simp only [execSurveyStepComplete, hrun, if_neg (not_endsGone hlink), hk, htrained, if_true]

/-- Step 4 ends by whether the partner that it identified suits the port's role. -/
theorem execSurveyStepComplete_identified (hk : (partnerOf s p).step = 4) {x : StepFound} {t : State} {suits : Bool} {gs : List Nat}
    (hfound : step4Found s p r.prev x = some (t, suits, gs)) :
    execSurveyStepComplete p x s = .next (if suits then step5 t p { r with grans := gs } else runFails t p r 0x17) := by
  simp only [execSurveyStepComplete, hrun, if_neg (not_endsGone hlink), hk, hfound]

/-- Step 5 ends by whether authentication succeeded; IDE is set up where the DSP's configuration asks for it (R300). -/
theorem execSurveyStepComplete_authenticated (hk : (partnerOf s p).step = 5) (ok : Bool) (meas : BitVec 64) (ide : Bool) :
    execSurveyStepComplete p (.auth ok meas ide) s = .next (
      if ok then step6 (step5Passed s p meas (ide && tabFld s 0x01 p 15 1 == 1 && roleOf s p == 2)) p r else runFails s p r 0x14) := by
  simp only [execSurveyStepComplete, hrun, if_neg (not_endsGone hlink), hk]

theorem execSurveyStepComplete_measured (hk : (partnerOf s p).step = 6) (lat bw : BitVec 16) (gs : List (BitVec 32)) :
    execSurveyStepComplete p (.cdat lat bw gs) s = .next (step7 (modPartner s p fun q => { q with rdLat := lat.toNat, rdBw := bw.toNat }) p
      { r with grans := if gs.isEmpty then r.grans else gs.map (·.toNat) }) := by
  simp only [execSurveyStepComplete, hrun, if_neg (not_endsGone hlink), hk]

end

/-! The bounds of a run's steps (R298, Table 12.1). -/

section
variable {p : PortId} {s : State} {r : SurveyRun} (hrun : runOf s p = some r)
include hrun

theorem execSurveyStepTimeout_unpowered (hk : (partnerOf s p).step = 2) {c : Nat} (hc : channelOf s p = some c) (hpg : (slotOf s c).pg = false)
    (hbound : r.began + 100000000 ≤ s.clock ∨ (slotOf s c).st = 4) : execSurveyStepTimeout p s = .next (runFails s p r 0x11) := by
  simp only [execSurveyStepTimeout, hrun, hk, hc, hpg, decide_eq_true_eq]
  rw [if_pos ⟨rfl, hbound⟩]

theorem execSurveyStepTimeout_untrained (hk : (partnerOf s p).step = 3) (hbound : r.began + 1000000000 ≤ s.clock) (hno : trained s p = false) :
    execSurveyStepTimeout p s = .next (runFails s p r 0x12) := by
  simp only [execSurveyStepTimeout, hrun, hk, hno, decide_eq_true_eq]
  rw [if_pos ⟨hbound, rfl⟩]

theorem execSurveyPerstRelease_releases (hk : (partnerOf s p).step = 2) {c g : Nat} (hc : channelOf s p = some c) (hg : perstPin s p = some g)
    (hpg : (slotOf s c).pg = true) (hlow : r.perst = false) (hbound : (slotOf s c).pgAt + 100000000 ≤ s.clock) :
    execSurveyPerstRelease p s = .next { setRun s p { r with perst := true } with pinLow := smSet false s.pinLow g false } := by
  simp only [execSurveyPerstRelease, hrun, hc, hg]
  exact if_pos ⟨hk, hpg, by rw [hlow]; rfl, hbound⟩

section
variable (hlink : lostNow s p = false)
include hlink

theorem execSurveyStepTimeout_unidentified (hk : (partnerOf s p).step = 4) (hbound : r.began + 1000000000 ≤ s.clock) :
    execSurveyStepTimeout p s = .next (runFails s p r 0x13) := by
  simp only [execSurveyStepTimeout, hrun, hk, decide_eq_true_eq]
  rw [if_pos hbound, if_neg (Bool.eq_false_iff.mp hlink)]

theorem execSurveyStepTimeout_unauthenticated (hk : (partnerOf s p).step = 5) (hbound : r.began + 2000000000 ≤ s.clock) :
    execSurveyStepTimeout p s = .next (runFails s p r 0x14) := by
  simp only [execSurveyStepTimeout, hrun, hk, decide_eq_true_eq]
  rw [if_pos hbound, if_neg (Bool.eq_false_iff.mp hlink)]

/-- A step 6 that passes its bound is no failure: step 7 goes on without what it would have found. -/
theorem execSurveyStepTimeout_unmeasured (hk : (partnerOf s p).step = 6) (hbound : r.began + 1000000000 ≤ s.clock) :
    execSurveyStepTimeout p s = .next (step7 s p r) := by
  simp only [execSurveyStepTimeout, hrun, hk, decide_eq_true_eq]
  rw [if_pos hbound, if_neg (Bool.eq_false_iff.mp hlink)]

end

end

/-! The bound of a detach, the attention button, a lost partner, deferred capacity (R302, R306, R307, R309). -/

section
variable {p : PortId} {s : State}

theorem execDetachTimeout_ends {e : Nat} (hdetach : detachOf s p = some e) (hseq : (engineOf s e).seq = 32) (hset : smGet 0 s.detachAt p ≠ 0)
    (hbound : smGet 0 s.detachAt p + 10000000000 ≤ s.clock + 1) :
    execDetachTimeout p s = .next (endChart (setEngine s e { engineOf s e with seq := 0 }) e 7 (engineOf s e).pc) := by
  simp only [execDetachTimeout, hdetach]
  rw [if_pos ⟨hseq, hset, hbound⟩, finish_bad _ _ _ _ (by decide)]

theorem execDetachTimeout_idle (hdetach : detachOf s p = none) : execDetachTimeout p s = .next s := by
  simp only [execDetachTimeout, hdetach]

section
variable {c : Nat} (hc : channelOf s p = some c) (hpin : tabFld s 0x38 c 88 6 < 48) (hdetach : detachOf s p = none)
include hc hpin hdetach

/-- A press on a port whose channel names a button, while no detach runs. -/
theorem execAttention_byWindow : execAttention p s =
    let t := raiseEvent s 0x406 p []
    if smGet 0 s.attn p = 0 then .next { t with attn := smSet 0 t.attn p (t.clock + 1) }
    else if t.clock + 1 ≤ smGet 0 s.attn p + 5000000000 then .next (raiseEvent { t with attn := smSet 0 t.attn p 0 } 0x407 p [])
    else .next t := by
  simp only [execAttention, hc, hdetach, hpin, decide_true, Bool.not_true, Option.isSome_none, Bool.false_eq_true, or_self, if_false]

theorem execAttention_opens (hfirst : smGet 0 s.attn p = 0) : execAttention p s =
    let t := raiseEvent s 0x406 p []
    .next { t with attn := smSet 0 t.attn p (t.clock + 1) } := by
  rw [execAttention_byWindow hc hpin hdetach]
  exact if_pos hfirst

theorem execAttention_cancels (hopen : smGet 0 s.attn p ≠ 0) (hwithin : s.clock + 1 ≤ smGet 0 s.attn p + 5000000000) : execAttention p s =
    let t := raiseEvent s 0x406 p []
    .next (raiseEvent { t with attn := smSet 0 t.attn p 0 } 0x407 p []) := by
  rw [execAttention_byWindow hc hpin hdetach]
  exact (if_neg hopen).trans (if_pos (by rwa [raiseEvent_clock]))

end

theorem execAttentionDetachStart_queues (hopen : smGet 0 s.attn p ≠ 0) (hover : smGet 0 s.attn p + 5000000000 ≤ s.clock + 1) :
    execAttentionDetachStart p s = .next { s with
      attn := smSet 0 s.attn p 0, residents := s.residents ++ [{ engine := 12, kind := 2, port := p }] } :=
  if_pos ⟨hopen, hover⟩

/-- The partner is marked LOST, and the capacity that it deferred is forgotten (R309). -/
def partnerMarkedLost (s : State) (p : Nat) : State :=
  raiseEvent (modPartner { s with deferred := smSet [] s.deferred p [] } p fun q => { q with st := 6, departTs := s.ts }) 0x409 p []

theorem execPartnerLost_marks (hlost : lostNow s p = true) (hdetach : detachOf s p = none) (hfrom : 1 ≤ (partnerOf s p).st)
    (hto : (partnerOf s p).st ≤ 4) (hrun : runOf s p = none)
    (hgone : roleOf s p = 3 ∨ smGet false s.present p = false ∨ smGet 0 s.lostAt p + 1000000000 ≤ s.clock + 1) :
    execPartnerLost p s = .next (partnerMarkedLost (slotOffAt (leavePool s p) p) p) := by
  refine (if_pos ⟨hlost, by rw [hdetach]; rfl, hfrom, hto, by simpa using hgone⟩).trans ?_
  rw [hrun]
  rfl

/-- The capacity of the list enters the pool as a device update of the port's members (R258, R302). -/
def capacityEntered (s : State) (p : Nat) (todo : List (Nat × Nat)) : State :=
  todo.foldl (fun s t => memberFlip s (16 * p + t.1) (BitVec.ofNat 256 t.2))
    (deviceUpdate s (todo.map fun t => (0x19, 16 * p + t.1, BitVec.ofNat 256 t.2)))

theorem execDeferredRegistration_registers (hsome : smGet [] s.deferred p ≠ []) (hlost : lostExtent s p = false)
    (harrived : (partnerOf s p).st = 2) {t : State} (ht : t = capacityEntered s p (smGet [] s.deferred p)) :
    execDeferredRegistration p s = .next (registeredNow { t with deferred := smSet [] t.deferred p [] } p (smGet [] s.deferred p)) := by
  subst ht
  refine if_neg ?_
  rintro (hempty | hwaits | hno)
  · exact hsome (List.isEmpty_iff.mp hempty)
  · exact Bool.eq_false_iff.mp hlost hwaits
  · exact hno harrived

end

/-! The statement. -/

/-- Settles O50: each command of Survey where what Table 12.1 or 12.6 asks of it holds, DEFERRED_REGISTRATION among them (R302). Deduced by
the model: SURVEY.RUN runs step 7 for a partner that arrived unregistered whatever the port's role (log 72); disabling a link after a
failed authentication or in a detach is no loss, and an exchange of step 5 that passes its bound has failed (log 73); a detach and PARTNER_LOST leave the
pool by device updates, and a second press raises ATTENTION and DETACH_CANCELLED (log 74). -/
theorem surveyArrivalsAndDetaches : Obligations.SurveyArrivalsAndDetaches := by
  refine ⟨?presence, ?run, ?record, ?detach, ?steps, ?timers⟩
  case presence =>
    intro p s hport
    refine ⟨?pin, ?inBand, ?unqualified, ?known, ?leaves, ?unknown, ?starts, ?idle⟩
    case pin => exact fun hpin habsent => execPresence_arrives hport (.inl hpin) habsent
    case inBand => exact fun _ hband habsent => execPresence_arrives hport (.inr hband) habsent
    case unqualified => exact execPresence_unqualified
    case known => exact execPresence_known
    case leaves => exact execPresenceAbsent_leaves
    case unknown => exact execPresenceAbsent_known
    case starts => exact execSurveyStart_queues
    case idle => exact execSurveyStart_idle
  case run =>
    intro e s h p q x hport hrole hrun hdetach
    refine ⟨?registered, ?begins, ?registers⟩
    case registered => exact execSurveyRun_registered rfl h rfl hport hrole hrun hdetach
    case begins => exact execSurveyRun_begins rfl h rfl hport hrole hrun hdetach
    case registers => exact fun harrived hunreg => execSurveyRun_registers rfl h rfl hport hrole hrun hdetach harrived hunreg rfl
  case record =>
    intro e s h b p off
    exact execSurveyRecord_writes rfl h rfl
  case detach =>
    intro e s h p st t hrun hdetach hport hst
    exact ⟨execSurveyDetach_unbinds h rfl hrun hdetach hport hst, execSurveyDetach_departs h rfl hrun hdetach hport hst⟩
  case steps =>
    intro p s r hrun hlink k
    refine ⟨?powered, ?trained, ?suits, ?unsuited, ?passed, ?failed, ?measured, ?untrained, ?unidentified, ?unauthenticated, ?unmeasured, ?unpowered,
      ?perst⟩
    case powered => exact fun x hk hready => execSurveyStepComplete_powered hrun hlink hk hready x
    case trained => exact fun x hk htrained => execSurveyStepComplete_trained hrun hlink hk htrained x
    case suits => exact fun x t gs hk hfound => execSurveyStepComplete_identified hrun hlink hk hfound
    case unsuited => exact fun x t gs hk hfound => execSurveyStepComplete_identified hrun hlink hk hfound
    case passed => exact fun meas ide hk => execSurveyStepComplete_authenticated hrun hlink hk true meas ide
    case failed => exact fun meas ide hk => execSurveyStepComplete_authenticated hrun hlink hk false meas ide
    case measured => exact fun lat bw gs hk => execSurveyStepComplete_measured hrun hlink hk lat bw gs
    case untrained => exact execSurveyStepTimeout_untrained hrun
    case unidentified => exact execSurveyStepTimeout_unidentified hrun hlink
    case unauthenticated => exact execSurveyStepTimeout_unauthenticated hrun hlink
    case unmeasured => exact execSurveyStepTimeout_unmeasured hrun hlink
    case unpowered => exact fun c hk hc hpg hbound => execSurveyStepTimeout_unpowered hrun hk hc hpg hbound
    case perst => exact fun c g hk hc hg hpg hlow hbound => execSurveyPerstRelease_releases hrun hk hc hg hpg hlow hbound
  case timers =>
    intro p s
    refine ⟨?bound, ?none, ?button, ?window, ?lost, ?deferred⟩
    case bound => exact fun e hdetach hseq hset hbound => execDetachTimeout_ends hdetach hseq hset hbound
    case none => exact execDetachTimeout_idle
    case button =>
      intro c hc hpin hdetach
      exact ⟨execAttention_opens hc hpin hdetach, execAttention_cancels hc hpin hdetach⟩
    case window => exact execAttentionDetachStart_queues
    case lost => exact execPartnerLost_marks
    case deferred => exact fun hsome hlost harrived => execDeferredRegistration_registers hsome hlost harrived rfl

end Sys2Proof.Machine

/-! SUPPORT. The step: the queue and the clock, the version floors, and an idle nanosecond (R428, R468-R470). -/
namespace Sys2Proof.Machine

/-- Settles O5: both stand in what every command keeps. -/
theorem commandsLeaveQueueAndClock : Obligations.CommandsLeaveQueueAndClock := by
  intro c s t h
  have kept := (exec_kept c s).out t h
  exact ⟨kept.pending, kept.clock⟩

theorem idleTick_sec (s : State) : (idleTick s).sec = s.sec := by
  unfold idleTick
  split <;> rfl

/-- Settles O6: an idle nanosecond leaves SECURITY alone, and every command keeps the version floors. -/
theorem rollbackCountersNeverFall : Obligations.RollbackCountersNeverFall := by
  intro s t hgo
  unfold Goes at hgo
  cases hq : s.pending with
  | nil =>
    rw [step_of_pending_nil hq] at hgo
    injection hgo with ht
    rw [← ht, idleTick_sec]
    exact ⟨Nat.le_refl _, Nat.le_refl _⟩
  | cons c q =>
    rw [step_of_pending_cons hq] at hgo
    have kept := (exec_kept c _).out t hgo
    exact ⟨kept.svn1, kept.svn2⟩

/-- R469: the slew moves TS by at most 1 ns, and only at the boundary of a microsecond. -/
theorem slewDue_bounds (c : Nat) (slew : Int) : -1 ≤ slewDue c slew ∧ slewDue c slew ≤ 1 ∧ (c % 1000 ≠ 0 → slewDue c slew = 0) := by
  unfold slewDue
  split_ifs <;> simp_all

/-- Settles O2: the idle step is idleTick, whose slew is bounded. That an empty queue idles for 1 ns is the model's choice (log 2). -/
theorem idleNanosecondCountsTimeForward : Obligations.IdleNanosecondCountsTimeForward := by
  intro s hq
  refine ⟨idleTick s, step_of_pending_nil hq, ?_⟩
  obtain ⟨hlow, hhigh, hzero⟩ := slewDue_bounds (s.clock + 1) s.tsync.slew
  unfold idleTick
  split
  next hon =>
    refine ⟨rfl, fun hoff => absurd (hon.symm.trans hoff) (by decide), fun _ => ⟨?_, ?_, ?_, ?_⟩⟩
    · dsimp only; omega
    · dsimp only; omega
    · dsimp only; omega
    · intro h; dsimp only; rw [hzero h, sub_zero]
  next hoff => exact ⟨rfl, fun _ => ⟨rfl, rfl⟩, fun hon => absurd hon hoff⟩

end Sys2Proof.Machine

/-! SUPPORT. Slot power: what the end of a chart leaves of the channels, and the channels' safety, which each of their commands keeps (R318, R321, R322). -/
namespace Sys2Proof.Machine

/-! What the end of a chart leaves of the slot channels. -/

theorem foldl_slots {α : Type} {f : State → α → State} (hf : ∀ s a, (f s a).slots = s.slots) (l : List α) (s : State) :
    (l.foldl f s).slots = s.slots := by
  induction l generalizing s with
  | nil => rfl
  | cons a l ih => exact (ih _).trans (hf s a)

@[simp] theorem sendOut_slots (s : State) (src p oc flow n : Nat) (posted : Bool) (key : Nat) (o : Out) :
    (sendOut s src p oc flow n posted key o).slots = s.slots := by
  unfold sendOut
  split <;> rfl

@[simp] theorem sendMsix_slots (s : State) (src oc flow f vec : Nat) : (sendMsix s src oc flow f vec).slots = s.slots := by
  unfold sendMsix msixOut
  dsimp only
  split
  · rfl
  · exact sendOut_slots ..

@[simp] theorem notifyRing_slots (s : State) (e r : Nat) (x : Engine) : (notifyRing s e r x).slots = s.slots := by
  unfold notifyRing
  dsimp only
  split
  · rfl
  · split
    · exact sendMsix_slots ..
    · rfl

@[simp] theorem recordDenial_slots (s : State) (m : Nat) (a : Access) (v : Nat × Nat) : (recordDenial s m a v).slots = s.slots := by
  unfold recordDenial
  split
  · rfl
  · exact raiseEvent_slots ..

@[simp] theorem fenceCheck_slots (s : State) (m : Nat) (a : Access) : (fenceCheck s m a).2.slots = s.slots := recordDenial_slots ..

@[simp] theorem unwritten_slots (s : State) (r : Nat) (x : Engine) (st : Nat) : (unwritten s r x st).slots = s.slots := raiseEvent_slots ..

@[simp] theorem passRecord_slots (s : State) (r : Nat) (x : Engine) : (passRecord s r x).slots = s.slots := by
  unfold passRecord
  dsimp only
  split <;> rfl

@[simp] theorem writeCompletion_slots (s : State) (r e : Nat) (x : Engine) (st pc : Nat) : (writeCompletion s r e x st pc).slots = s.slots := by
  unfold writeCompletion
  dsimp only
  repeat' split
  all_goals simp

@[simp] theorem jobReport_slots (s : State) (j : Job) (st : Nat) : (jobReport s j st).slots = s.slots := by
  cases j with
  | decoder => unfold jobReport; dsimp only; split <;> rfl
  | fm => unfold jobReport; dsimp only; split <;> rfl
  | _ => rfl

@[simp] theorem reportEnd_slots (s : State) (e : Nat) (x : Engine) (st pc : Nat) : (reportEnd s e x st pc).slots = s.slots := by
  unfold reportEnd
  split
  · exact writeCompletion_slots ..
  · exact jobReport_slots ..
  all_goals rfl

@[simp] theorem endCore_slots (s : State) (e st pc : Nat) : (endCore s e st pc).slots = s.slots := by
  unfold endCore
  dsimp only
  repeat' split
  all_goals simp

@[simp] theorem advanceCore_slots (s : State) (e : Nat) (x : Engine) : (advanceCore s e x).slots = s.slots := by
  unfold advanceCore
  split
  · exact endCore_slots ..
  · rfl

theorem frostStep_slots (s : State) (v : Nat) : (frostStep s v).slots = s.slots := by
  unfold frostStep
  dsimp only
  split
  · rfl
  · split
    · exact foldl_slots (fun s e => advanceCore_slots s e _) _ _
    · rfl

@[simp] theorem endChart_slots (s : State) (e st pc : Nat) : (endChart s e st pc).slots = s.slots :=
  (foldl_slots frostStep_slots _ _).trans (endCore_slots ..)

@[simp] theorem finish_slots (s : State) (e : Nat) (x : Engine) (st : Nat) : (finish s e x st).slots = s.slots := by
  unfold finish advance
  split
  · split
    · exact endChart_slots ..
    · rfl
  · exact endChart_slots ..

/-- A macro of one step changes the slot channels by its own meaning alone. -/
theorem macroOp_slots (s : State) (e op : Nat) (masks : List Nat) (flags : Nat) (eng : MacroEng)
    (f : State → Engine → (Nat → Word) → Nat × State × Engine) :
    (macroOp s e op masks flags eng f).slots = s.slots ∨ ∃ x b, (macroOp s e op masks flags eng f).slots = (f s x b).2.1.slots := by
  unfold macroOp macroThen onOp
  dsimp only
  split
  · split
    · exact .inl (endChart_slots ..)
    · split
      · exact .inl (endChart_slots ..)
      · split
        · exact .inl rfl
        · split
          · exact .inl (finish_slots ..)
          · exact .inr ⟨_, _, finish_slots ..⟩
  · exact .inl rfl

/-! The slot channels' safety (R318, R321, R322). -/

/-- A channel that does not run has its gates off, PG deasserted and IN_LIMIT clear; PG is asserted in ON only. -/
def ChannelSafe (h : SlotCh) : Prop :=
  (slotRuns h = false → h.gateA = false ∧ h.gateB = false ∧ h.pg = false ∧ h.inLimit = false) ∧ (h.pg = true → h.st = 3)

/-- Every channel is safe, and the channels' store canonical. -/
def SlotsSafe (s : State) : Prop := smWf (fun _ => ({} : SlotCh)) s.slots = true ∧ ∀ c, ChannelSafe (slotOf s c)

theorem channelSafe_initial : ChannelSafe {} := ⟨fun _ => ⟨rfl, rfl, rfl, rfl⟩, nofun⟩

theorem slotOf_of_slots {s t : State} (h : t.slots = s.slots) (c : Nat) : slotOf t c = slotOf s c := by
  unfold slotOf
  rw [h]

theorem SlotsSafe.of_slots {s t : State} (h : SlotsSafe s) (ht : t.slots = s.slots) : SlotsSafe t :=
  ⟨by rw [ht]; exact h.1, fun c => by rw [slotOf_of_slots ht]; exact h.2 c⟩

theorem SlotsSafe.of_noSlots {s : State} (h : s.slots = []) : SlotsSafe s :=
  ⟨by rw [h]; rfl, fun c => by rw [slotOf, h]; exact channelSafe_initial⟩

theorem slotsSafe_raiseEvent {s : State} (h : SlotsSafe s) (e j : Nat) (p : List Nat) : SlotsSafe (raiseEvent s e j p) :=
  h.of_slots (raiseEvent_slots ..)

theorem perstAssert_slots (s : State) (v : Entry) : (perstAssert s v).slots = s.slots := by
  unfold perstAssert
  split <;> rfl

theorem slotOf_setSlot_self {s : State} (h : smWf (fun _ => ({} : SlotCh)) s.slots = true) (c : Nat) (x : SlotCh) : slotOf (setSlot s c x) c = x :=
  smGet_smSet_self (fun _ => ({} : SlotCh)) s.slots c x h

theorem slotOf_setSlot_ne {s : State} (h : smWf (fun _ => ({} : SlotCh)) s.slots = true) {c k : Nat} (x : SlotCh) (hk : k ≠ c) :
    slotOf (setSlot s c x) k = slotOf s k :=
  smGet_smSet_ne (fun _ => ({} : SlotCh)) {} s.slots c k x h hk

theorem slotsSafe_setSlot {s : State} (h : SlotsSafe s) (c : Nat) {x : SlotCh} (hx : ChannelSafe x) : SlotsSafe (setSlot s c x) := by
  refine ⟨smWf_smSet (fun _ => ({} : SlotCh)) s.slots c x h.1, fun k => ?_⟩
  by_cases hk : k = c
  · rw [hk, slotOf_setSlot_self h.1]
    exact hx
  · rw [slotOf_setSlot_ne h.1 x hk]
    exact h.2 k

/-- A running channel may switch its gates, its limit and its measurements. -/
theorem ChannelSafe.switched {h k : SlotCh} (hs : ChannelSafe h) (hrun : slotRuns h = true) (hst : k.st = h.st) (hpg : k.pg = h.pg) : ChannelSafe k := by
  refine ⟨fun hno => ?_, by rw [hst, hpg]; exact hs.2⟩
  have hk : slotRuns k = slotRuns h := by unfold slotRuns; rw [hst]
  exact absurd (hrun.symm.trans (hk.symm.trans hno)) (by decide)

/-- A channel that runs without PG is safe. -/
theorem channelSafe_noPg {h : SlotCh} (hst : 1 ≤ h.st ∧ h.st ≤ 3) (hpg : h.pg = false) : ChannelSafe h :=
  ⟨fun hno => absurd (decide_eq_true hst) (Bool.eq_false_iff.mp hno), fun hon => absurd (hpg.symm.trans hon) (by decide)⟩

/-- A channel whose gates, PG and IN_LIMIT are off is safe in any state. -/
theorem channelSafe_off {h : SlotCh} (hA : h.gateA = false) (hB : h.gateB = false) (hpg : h.pg = false) (hlim : h.inLimit = false) : ChannelSafe h :=
  ⟨fun _ => ⟨hA, hB, hpg, hlim⟩, fun hon => absurd (hpg.symm.trans hon) (by decide)⟩

/-- A channel that does not run may change to another state in which it does not run. -/
theorem ChannelSafe.halted {h k : SlotCh} (hs : ChannelSafe h) (hrun : slotRuns h = false) (hA : k.gateA = h.gateA) (hB : k.gateB = h.gateB)
    (hpg : k.pg = h.pg) (hlim : k.inLimit = h.inLimit) : ChannelSafe k := by
  obtain ⟨hA', hB', hpg', hlim'⟩ := hs.1 hrun
  exact channelSafe_off (hA.trans hA') (hB.trans hB') (hpg.trans hpg') (hlim.trans hlim')

/-- What a channel's safety speaks of is unchanged. -/
theorem ChannelSafe.congr {h k : SlotCh} (hs : ChannelSafe h) (hst : k.st = h.st) (hA : k.gateA = h.gateA) (hB : k.gateB = h.gateB) (hpg : k.pg = h.pg)
    (hlim : k.inLimit = h.inLimit) : ChannelSafe k := by
  unfold ChannelSafe slotRuns
  rw [hst, hA, hB, hpg, hlim]
  exact hs

/-- A channel without PG in RAMP or QUAL. -/
theorem ChannelSafe.noPg {h : SlotCh} (hs : ChannelSafe h) (hst : h.st ≠ 3) : h.pg = false :=
  Bool.eq_false_iff.mpr fun hon => hst (hs.2 hon)

theorem slotRuns_eq_false {h : SlotCh} (hst : h.st = 0 ∨ 4 ≤ h.st) : slotRuns h = false := decide_eq_false (by omega)

/-! The channels' shared moves. -/

section
variable {s : State} (h : SlotsSafe s) (c : Nat)
include h

theorem slotsSafe_slotOffTo (x : SlotCh) (st : Nat) : SlotsSafe (slotOffTo s c x st) :=
  (slotsSafe_setSlot h c (channelSafe_off rfl rfl rfl rfl)).of_slots (perstAssert_slots ..)

/-- A channel that starts runs without PG, or waits for a feed with its gates still off. -/
theorem slotsSafe_slotStart {x : SlotCh} (hx : ChannelSafe x) (hrun : slotRuns x = false) : SlotsSafe (slotStart s c x) := by
  unfold slotStart
  extract_lets v a b
  split
  · exact slotsSafe_setSlot h c (channelSafe_noPg ⟨Nat.le_refl 1, Nat.le_add_left 1 2⟩ rfl)
  · refine slotsSafe_raiseEvent (slotsSafe_setSlot h c ?_) ..
    exact hx.halted hrun rfl rfl rfl rfl

theorem slotsSafe_slotStarve (x : SlotCh) : SlotsSafe (slotStarve s c x) := by
  have hoff := slotsSafe_slotOffTo h c x 5
  unfold slotStarve
  extract_lets u
  split
  · exact slotsSafe_raiseEvent (slotsSafe_raiseEvent hoff ..) ..
  · exact slotsSafe_raiseEvent hoff ..

theorem slotsSafe_slotTrip (x : SlotCh) (cause : Nat) : SlotsSafe (slotTrip s c x cause) :=
  slotsSafe_raiseEvent (slotsSafe_slotOffTo h c _ 4) ..

theorem slotsSafe_handoverBegin {x : SlotCh} (hx : ChannelSafe x) (hrun : slotRuns x = true) : SlotsSafe (handoverBegin s c x) :=
  slotsSafe_setSlot h c (hx.switched hrun rfl rfl)

theorem slotsSafe_prioLost {x : SlotCh} (hx : ChannelSafe x) (hrun : slotRuns x = true) (v : Entry) : SlotsSafe (prioLost s c v x) := by
  have hout : SlotsSafe (setSlot s c { x with gateA := false, gateB := false }) := slotsSafe_setSlot h c (hx.switched hrun rfl rfl)
  rcases Bool.eq_false_or_eq_true (if x.activeB then x.okA else x.okB && slotFitB v) with hother | hother
  · rw [prioLost, if_pos hother]
    exact slotsSafe_handoverBegin h c hx hrun
  · rw [prioLost, if_neg (Bool.eq_false_iff.mp hother)]
    exact hout

end

/-! Each command (Table 13.4). -/

/-- The outcome is a state with safe channels, if it is a state. -/
def SafeRes (r : Res) : Prop := ∀ t, r = .next t → SlotsSafe t

theorem SafeRes.next {u : State} (h : SlotsSafe u) : SafeRes (.next u) := by
  rintro t ⟨⟩
  exact h

theorem SafeRes.ite {p : Prop} [Decidable p] {a b : Res} (ha : p → SafeRes a) (hb : ¬p → SafeRes b) : SafeRes (if p then a else b) := by
  split
  next hp => exact ha hp
  next hp => exact hb hp

theorem slotsSafe_ite {p : Prop} [Decidable p] {a b : State} (ha : SlotsSafe a) (hb : SlotsSafe b) : SlotsSafe (if p then a else b) := by
  split
  · exact ha
  · exact hb

theorem channelSafe_ite {p : Prop} [Decidable p] {a b : SlotCh} (ha : ChannelSafe a) (hb : ChannelSafe b) : ChannelSafe (if p then a else b) := by
  split
  · exact ha
  · exact hb

section
variable {s : State} (h : SlotsSafe s) (c : ChannelId)
include h

theorem execSlotOff_safe (e : EngineId) : SafeRes (execSlotOff e s) := by
  refine .next ?_
  obtain hsame | ⟨x, b, hown⟩ := macroOp_slots s e 0xA3 [rowBits [(4, 0)]] 0 .any _
  · exact h.of_slots hsame
  · refine SlotsSafe.of_slots ?_ hown
    dsimp only
    split
    · exact h
    · exact slotsSafe_slotOffTo h _ _ 0

theorem execSlotStatus_safe (e : EngineId) (adc : SlotAdc) : SafeRes (execSlotStatus e adc s) := by
  refine .next ?_
  obtain hsame | ⟨x, b, hown⟩ := macroOp_slots s e 0xA4 [rowBits [(4, 0)]] 0 .any _
  · exact h.of_slots hsame
  · refine SlotsSafe.of_slots ?_ hown
    dsimp only
    split
    · exact h
    · exact slotsSafe_setSlot h _ ((h.2 _).congr rfl rfl rfl rfl rfl)

theorem execFeedValid_safe (f : Fin 2) (dv : BitVec 10) (above : Bool) : SafeRes (execFeedValid c f dv above s) := by
  unfold execFeedValid
  extract_lets v h0 isB was h1 h2 s1
  have h1safe : ChannelSafe h1 := channelSafe_ite ((h.2 c).congr rfl rfl rfl rfl rfl) ((h.2 c).congr rfl rfl rfl rfl rfl)
  refine .ite (fun _ => .next (slotsSafe_setSlot h c h1safe)) fun _ => ?_
  have h2safe : ChannelSafe h2 := channelSafe_ite (h1safe.congr rfl rfl rfl rfl rfl) (h1safe.congr rfl rfl rfl rfl rfl)
  have hs1 : SlotsSafe s1 := slotsSafe_ite (slotsSafe_setSlot h c h2safe) (slotsSafe_raiseEvent (slotsSafe_setSlot h c h2safe) ..)
  refine .ite (fun hwait => .next (slotsSafe_slotStart hs1 c h2safe (slotRuns_eq_false (by omega)))) fun _ => ?_
  refine .ite (fun _ => .next hs1) fun hgo => ?_
  have hrun : slotRuns h2 = true := by simpa using hgo
  refine .ite (fun _ => .ite (fun _ => .ite (fun _ => .next (slotsSafe_ite ?_ hs1)) fun _ => .next ?_) fun _ => .next hs1) fun _ =>
    .ite (fun _ => .next ?_) fun _ => .next hs1
  · exact slotsSafe_setSlot hs1 c (h2safe.switched hrun rfl rfl)
  · exact slotsSafe_handoverBegin hs1 c h2safe hrun
  · refine slotsSafe_raiseEvent (slotsSafe_setSlot hs1 c ?_) ..
    exact h2safe.switched hrun rfl rfl

theorem execFeedInvalid_safe (f : Fin 2) (dv : BitVec 10) : SafeRes (execFeedInvalid c f dv s) := by
  unfold execFeedInvalid
  extract_lets v h0 isB was h1 h2 s1
  have h1safe : ChannelSafe h1 := channelSafe_ite ((h.2 c).congr rfl rfl rfl rfl rfl) ((h.2 c).congr rfl rfl rfl rfl rfl)
  refine .ite (fun _ => .next (slotsSafe_setSlot h c h1safe)) fun _ => ?_
  have h2safe : ChannelSafe h2 := channelSafe_ite (h1safe.congr rfl rfl rfl rfl rfl) (h1safe.congr rfl rfl rfl rfl rfl)
  have hs1 : SlotsSafe s1 := slotsSafe_raiseEvent h ..
  refine .ite (fun _ => .next (slotsSafe_setSlot hs1 c h2safe)) fun hgo => ?_
  have hrun : slotRuns h2 = true := by simpa using hgo
  refine .ite (fun _ => .next (slotsSafe_slotStarve hs1 c h2)) fun _ => .ite (fun _ => ?_) fun _ => .next ?_
  · exact .ite (fun _ => .next (slotsSafe_prioLost hs1 c h2safe hrun v)) fun _ => .next (slotsSafe_setSlot hs1 c h2safe)
  · exact slotsSafe_setSlot hs1 c (channelSafe_ite (h2safe.switched hrun rfl rfl) (h2safe.switched hrun rfl rfl))

theorem execReverse_safe (f : Fin 2) : SafeRes (execReverse c f s) := by
  unfold execReverse
  extract_lets v h0 isB
  refine .ite (fun _ => .next h) fun hgo => ?_
  have hrun : slotRuns h0 = true := by simpa using (not_or.mp hgo).1
  refine .ite (fun _ => .next (slotsSafe_prioLost h c (h.2 c) hrun v)) fun _ => .next (slotsSafe_raiseEvent (slotsSafe_setSlot h c ?_) ..)
  exact channelSafe_ite ((h.2 c).switched hrun rfl rfl) ((h.2 c).switched hrun rfl rfl)

theorem execRampDone_safe (vds : Nat) : SafeRes (execRampDone c vds s) := by
  unfold execRampDone
  extract_lets h0 s1 h1
  refine .ite (fun _ => .next h) fun hgo => ?_
  have hrun : slotRuns h0 = true := by simpa using (not_or.mp hgo).2
  have hs1 : SlotsSafe s1 := slotsSafe_ite (slotsSafe_raiseEvent h ..) h
  have h1safe : ChannelSafe h1 := channelSafe_ite ((h.2 c).switched hrun rfl rfl) (h.2 c)
  refine .next (slotsSafe_setSlot hs1 c ?_)
  split
  next hramp => exact channelSafe_noPg ⟨Nat.le_add_left 1 1, Nat.le_add_left 2 1⟩ (h1safe.noPg (by omega))
  next => exact h1safe

theorem execVoutLow_safe (dv : BitVec 10) : SafeRes (execVoutLow c dv s) := by
  have hsafe := h.2 c
  refine .ite (fun _ => .next ?_) fun _ => .ite (fun _ => .next ?_) fun _ => .next ?_
  · refine slotsSafe_raiseEvent ((slotsSafe_setSlot h c ?_).of_slots (perstAssert_slots ..)) ..
    exact channelSafe_noPg ⟨Nat.le_add_left 1 1, Nat.le_add_left 2 1⟩ rfl
  · exact slotsSafe_setSlot h c (hsafe.congr rfl rfl rfl rfl rfl)
  · exact slotsSafe_setSlot h c (hsafe.congr rfl rfl rfl rfl rfl)

theorem execSlotLimit_safe (dv : BitVec 10) (vds : Nat) : SafeRes (execSlotLimit c dv vds s) := by
  unfold execSlotLimit
  extract_lets v h0 h1 lim n n2
  have h1safe : ChannelSafe h1 := (h.2 c).congr rfl rfl rfl rfl rfl
  refine .ite (fun _ => .next (slotsSafe_setSlot h c h1safe)) fun hgo => ?_
  have hrun : slotRuns h1 = true := by simpa using hgo
  refine .ite (fun _ => .next ?_) fun _ => ?_
  · have hn : SlotsSafe (setSlot s c n) := slotsSafe_setSlot h c (h1safe.switched hrun rfl rfl)
    exact slotsSafe_ite (slotsSafe_raiseEvent hn ..) hn
  · have hst : n2.st = h1.st ∧ n2.pg = h1.pg := by
      unfold n2
      split <;> exact ⟨rfl, rfl⟩
    exact .next (slotsSafe_setSlot h c (h1safe.switched hrun hst.1 hst.2))

theorem execLimitTimerExpiry_safe : SafeRes (execLimitTimerExpiry c s) :=
  .ite (fun _ => .next (slotsSafe_slotTrip h c _ _)) fun _ => .next h

theorem execLimitCountReset_safe : SafeRes (execLimitCountReset c s) :=
  .ite (fun _ => .next (slotsSafe_setSlot h c ((h.2 c).congr rfl rfl rfl rfl rfl))) fun _ => .next h

theorem execSevereOvercurrent_safe (dv : BitVec 10) : SafeRes (execSevereOvercurrent c dv s) :=
  .ite (fun _ => .next (slotsSafe_slotTrip h c _ _)) fun _ => .next (slotsSafe_setSlot h c ((h.2 c).congr rfl rfl rfl rfl rfl))

theorem execEnLowOff_safe : SafeRes (execEnLowOff c s) := by
  refine .ite (fun _ => .next (slotsSafe_raiseEvent ?_ ..)) fun _ => .next (slotsSafe_setSlot h c ((h.2 c).congr rfl rfl rfl rfl rfl))
  have hoff := slotsSafe_slotOffTo h c { slotOf s c with enPin := false } 0
  exact slotsSafe_ite (slotsSafe_raiseEvent hoff ..) hoff

theorem execEnLowLatchClear_safe : SafeRes (execEnLowLatchClear c s) := by
  refine .ite (fun hlatched => .next (slotsSafe_raiseEvent (slotsSafe_setSlot h c ?_) ..)) fun _ => .next (slotsSafe_setSlot h c ?_)
  · exact (h.2 c).halted (slotRuns_eq_false (.inr (Nat.le_of_eq hlatched.symm))) rfl rfl rfl rfl
  · exact (h.2 c).congr rfl rfl rfl rfl rfl

theorem execEnHigh_safe : SafeRes (execEnHigh c s) := by
  have hup : ChannelSafe { slotOf s c with enPin := true } := (h.2 c).congr rfl rfl rfl rfl rfl
  exact .ite (fun hoff => .next (slotsSafe_slotStart h c hup (slotRuns_eq_false (.inl hoff.1)))) fun _ => .next (slotsSafe_setSlot h c hup)

theorem execHandoverConfirmed_safe : SafeRes (execHandoverConfirmed c s) := by
  unfold execHandoverConfirmed
  extract_lets h0
  split
  · exact .ite (fun hgo => .next (slotsSafe_setSlot h c ((h.2 c).switched hgo.2 rfl rfl))) fun _ => .next h
  · exact .next h

theorem execHandback_safe : SafeRes (execHandback c s) :=
  .ite (fun hgo => .next (slotsSafe_handoverBegin h c (h.2 c) hgo.1)) fun _ => .next h

theorem execSlotSettingsApply_safe : SafeRes (execSlotSettingsApply c s) := by
  refine .ite (fun _ => .next ?_) fun _ => .next h
  have hset := slotsSafe_setSlot h c ((h.2 c).congr (k := { slotOf s c with
    fresh := false, eff := 0, okB := (slotOf s c).okB && slotFitB (tabVal s 0x38 c) }) rfl rfl rfl rfl rfl)
  exact slotsSafe_ite hset (hset.of_slots (perstAssert_slots ..))

end

/-- Settles O29: safety of the channels is kept by each shared move of a channel, and so by each command of the list. SLOT.ON, SLOT_PG and SLOT_ON_TIMEOUT
are not in the statement. -/
theorem slotGatesAndPgOnlyWhileRunning : Obligations.SlotGatesAndPgOnlyWhileRunning := by
  unfold Obligations.SlotGatesAndPgOnlyWhileRunning
  intro safe
  have hsafe : safe = SlotsSafe := rfl
  rw [hsafe]
  clear hsafe safe
  refine ⟨SlotsSafe.of_noSlots rfl, fun s t e adc c f dv above vds h => ?_⟩
  simp only [List.forall_mem_cons, exec_slotOff, exec_slotStatus, exec_feedValid, exec_feedInvalid, exec_reverse, exec_rampDone, exec_voutLow, exec_slotLimit,
    exec_limitTimerExpiry, exec_limitCountReset, exec_severeOvercurrent, exec_enLowOff, exec_enLowLatchClear, exec_enHigh, exec_handoverConfirmed,
    exec_handback, exec_slotSettingsApply, exec_vddPcdUndervoltage]
  refine ⟨?_, ?_, ?_, ?_, ?_, ?_, ?_, ?_, ?_, ?_, ?_, ?_, ?_, ?_, ?_, ?_, ?_, ?_, List.forall_mem_nil _⟩
  · exact execSlotOff_safe h e t
  · exact execSlotStatus_safe h e adc t
  · exact execFeedValid_safe h c f dv above t
  · exact execFeedInvalid_safe h c f dv t
  · exact execReverse_safe h c f t
  · exact execRampDone_safe h c vds t
  · exact execVoutLow_safe h c dv t
  · exact execSlotLimit_safe h c dv vds t
  · exact execLimitTimerExpiry_safe h c t
  · exact execLimitCountReset_safe h c t
  · exact execSevereOvercurrent_safe h c dv t
  · exact execEnLowOff_safe h c t
  · exact execEnLowLatchClear_safe h c t
  · exact execEnHigh_safe h c t
  · exact execHandoverConfirmed_safe h c t
  · exact execHandback_safe h c t
  · exact execSlotSettingsApply_safe h c t
  · exact SafeRes.next (SlotsSafe.of_noSlots rfl) t

end Sys2Proof.Machine

/-! SUPPORT. Slot power: what each command does to its channel (R318-R329, Table 13.4). -/
namespace Sys2Proof.Machine

/-! What a slot channel's commands do (Table 13.4). -/

section
variable {e : EngineId} {s : State} {adc : SlotAdc} {x : Engine} (hx : x = regSet (engineOf s e) 1 0) {c : Nat}
  (hc : c = wfld (blockWord (engineOf s e) (wordAt (engineOf s e)) 0) 0 5) (hscope : slotScope s e c = true)
include hx hc hscope

/-- SLOT.ON of a channel in ON with EN high. -/
theorem execSlotOn_refreshes (h : Begins s e 0xA2 [rowBits [(4, 0)]] 0 .any false) {k : SlotCh} (hk : k = slotAdc (slotOf s c) adc) (hst : k.st = 3)
    (hen : k.enPin = true) :
    execSlotOn e adc s = .next (moveOk (setSlot s c { k with cmdOn := true }) e (regSet x 1 (slotWord (slotEff s c) { k with cmdOn := true }))) := by
  have hheld : ¬(k.st = 4 ∨ (!k.enPin) = true) := by simp [hst, hen]
  subst hx hc hk
  refine congrArg Host.Outcome.next ((macroThen_begins h _).trans ?_)
  refine (if_neg (not_fails hscope)).trans ((if_neg hheld).trans ((if_pos hst).trans (finish_moveOk _ _ _ ?_)))
  simpa using h.1.2

/-- SLOT.ON of another channel that is neither latched nor held by EN. -/
theorem execSlotOn_waits (h : Begins s e 0xA2 [rowBits [(4, 0)]] 0 .any false) {k : SlotCh} (hk : k = slotAdc (slotOf s c) adc) (hon : k.st ≠ 3)
    (hlatch : k.st ≠ 4) (hen : k.enPin = true) :
    execSlotOn e adc s = .next (setEngine (slotCmdOn (setSlot s c k) c) e
      { x with wait := .macroStep, seq := 1, seqA := c, seqB := s.clock + 100000000 }) := by
  have hheld : ¬(k.st = 4 ∨ (!k.enPin) = true) := by simp [hlatch, hen]
  subst hx hc hk
  exact congrArg Host.Outcome.next ((macroThen_begins h _).trans ((if_neg (not_fails hscope)).trans ((if_neg hheld).trans (if_neg hon))))

theorem execSlotOff_turnsOff (h : Begins s e 0xA3 [rowBits [(4, 0)]] 0 .any false) :
    execSlotOff e s = .next (moveOk (slotOffTo s c { slotOf s c with cmdOn := false } 0) e x) := by
  subst hx hc
  exact congrArg Host.Outcome.next (macroOp_ok h (if_neg (not_fails hscope)) (begins_follows h))

theorem execSlotStatus_shows (h : Begins s e 0xA4 [rowBits [(4, 0)]] 0 .any false) {t : State} (ht : t = setSlot s c (slotAdc (slotOf s c) adc)) :
    execSlotStatus e adc s = .next (moveOk t e (regSet x 1 (slotWord (slotEff t c) (slotOf t c)))) := by
  subst hx hc ht
  exact congrArg Host.Outcome.next (macroOp_ok h (if_neg (not_fails hscope)) (by simpa using h.1.2))

end

theorem rampDone_goes {h : SlotCh} {vds : Nat} (hvds : vds ≤ 200) (hrun : slotRuns h = true) : ¬(200 < vds ∨ (!slotRuns h) = true) :=
  not_or.mpr ⟨Nat.not_lt.mpr hvds, not_fails hrun⟩

section
variable {c : ChannelId} {s : State} {h : SlotCh} (hh : h = slotOf s c) {vds : Nat}
include hh

theorem execRampDone_qualifies (hvds : vds ≤ 200) (hst : h.st = 1) (hdriven : h.driven = false) :
    execRampDone c vds s = .next (setSlot s c { h with st := 2, qualAt := s.clock, qual := fld (slotEff s c) 64 9 }) := by
  have hrun : slotRuns h = true := by simp [slotRuns, hst]
  subst hh
  unfold execRampDone
  extract_lets h0 s1 h1
  have hs1 : s1 = s := if_neg (Bool.eq_false_iff.mp hdriven)
  have hh1 : h1 = h0 := if_neg (Bool.eq_false_iff.mp hdriven)
  rw [if_neg (rampDone_goes hvds hrun), hs1, hh1, if_pos hst]

theorem execRampDone_handsOver (hvds : vds ≤ 200) (hrun : slotRuns h = true) (hst : h.st ≠ 1) (hdriven : h.driven = true) :
    execRampDone c vds s = .next (setSlot (raiseEvent s 0x413 c []) c { h with driven := false, activeB := h.gateB }) := by
  subst hh
  unfold execRampDone
  extract_lets h0 s1 h1
  have hs1 : s1 = raiseEvent s 0x413 c [] := if_pos hdriven
  have hh1 : h1 = { h0 with driven := false, activeB := h0.gateB } := if_pos hdriven
  rw [if_neg (rampDone_goes hvds hrun), hs1, hh1, if_neg hst]

theorem execSlotPg_turnsOn {adc : SlotAdc} {m : SlotCh} (hm : m = slotAdc h adc) (hst : h.st = 2) (hvds : vds ≤ 200)
    (hgood : 9 * slotVnom (slotEff s c) ≤ m.vout * 10) (hlim : h.inLimit = false) (hqual : h.qualAt + h.qual * 100000 ≤ s.clock) :
    execSlotPg c adc vds s = .next (slotOnReturn (raiseEvent (setSlot s c { m with
      st := 3, pg := true, pgAt := s.clock, pgSince := true, limitUs := 0, limitAt := s.clock }) 0x410 c []) c) := by
  subst hm hh
  refine (if_neg (not_not_intro hst)).trans ((if_neg ?_).trans (if_neg (Nat.not_lt.mpr hqual)))
  rintro (hbad | hbad | hbad)
  · exact Nat.not_lt.mpr hvds hbad
  · exact Nat.not_lt.mpr hgood hbad
  · exact absurd (hlim.symm.trans hbad) (by decide)

theorem execEnLowOff_off (hst : slotRuns h = true ∨ h.st = 5) :
    execEnLowOff c s = .next (raiseEvent (if h.pg then raiseEvent (slotOffTo s c { h with enPin := false } 0) 0x412 c []
      else slotOffTo s c { h with enPin := false } 0) 0x416 c []) := by
  subst hh
  exact if_pos hst

theorem execSlotSettingsApply_applies (hfresh : h.fresh = true) (hpg : h.pg = true) : execSlotSettingsApply c s =
    .next (setSlot s c { h with fresh := false, eff := 0, okB := h.okB && slotFitB (tabVal s 0x38 c) }) := by
  subst hh
  exact (if_pos hfresh).trans (congrArg Host.Outcome.next (if_pos hpg))

end

/-- Settles O27: each command by the state of its channel. -/
theorem slotChannelStartsAndStops : Obligations.SlotChannelStartsAndStops := by
  refine ⟨?macros, ?channel⟩
  case macros =>
    intro e s adc x c h h1 s1
    refine ⟨?on, ?starts, ?off, ?status, ?timeout⟩
    case on => exact fun hb hscope hst hen => execSlotOn_refreshes rfl rfl hscope hb rfl hst hen
    case starts => exact fun hb hscope hon hlatch hen => execSlotOn_waits rfl rfl hscope hb rfl hon hlatch hen
    case off => exact fun hb hscope => execSlotOff_turnsOff rfl rfl hscope hb
    case status => exact fun hb hscope => execSlotStatus_shows rfl rfl hscope hb rfl
    case timeout => exact fun hwait hend => (if_pos ⟨hwait, hend⟩).trans (congrArg Host.Outcome.next (finish_bad s e _ 7 (by decide)))
  case channel =>
    intro c s adc vds h v m off up
    refine ⟨?ramped, ?handed, ?good, ?enOff, ?enOffPg, ?latch, ?enHigh, ?enHighOnly, ?settings, rfl⟩
    case ramped => exact fun hvds hst hdriven => execRampDone_qualifies rfl hvds hst hdriven
    case handed => exact fun hvds hrun hst hdriven => execRampDone_handsOver rfl hvds hrun hst hdriven
    case good => exact fun hst hvds hgood hlim hqual => execSlotPg_turnsOn rfl rfl hst hvds hgood hlim hqual
    case enOff =>
      intro hst hpg
      exact (execEnLowOff_off rfl hst).trans (by rw [if_neg (Bool.eq_false_iff.mp hpg)])
    case enOffPg =>
      intro hrun hpg
      exact (execEnLowOff_off rfl (.inl hrun)).trans (by rw [if_pos hpg])
    case latch => exact fun hst => if_pos hst
    case enHigh => exact fun hst hcmd => if_pos ⟨hst, hcmd⟩
    case enHighOnly => exact fun hno => if_neg hno
    case settings => exact fun hfresh hpg => execSlotSettingsApply_applies rfl hfresh hpg

/-! What a slot channel's feeds and limits do (R319-R328). -/

section
variable {c : ChannelId} {s : State} {dv : BitVec 10} {h : SlotCh} (hh : h = slotOf s c) {v : Entry} (hv : v = slotEff s c)
include hh hv

/-- Feed A at or above 0.85 V_NOM becomes valid: a channel that waits for a feed starts, another that does not run stays off. -/
theorem execFeedValid_feedA {above : Bool} (hlevel : 85 * slotVnom v ≤ dv.toNat * 100) (hnew : h.okA = false) (hrun : slotRuns h = false) {a : SlotCh}
    (ha : a = { h with feedA := dv.toNat, okA := true, validAt := s.clock }) : execFeedValid c 0 dv above s =
      .next (if h.st = 5 then slotStart (raiseEvent (setSlot s c a) 0x413 c []) c a else raiseEvent (setSlot s c a) 0x413 c []) := by
  subst hh hv
  unfold execFeedValid
  extract_lets v0 h0 isB was h1 h2 s1
  have hh2 : h2 = a := ha ▸ congrArg (fun t => { h0 with feedA := dv.toNat, okA := true, validAt := t }) (if_neg (Bool.eq_false_iff.mp hnew))
  have hs1 : s1 = raiseEvent (setSlot s c a) 0x413 c [] := by rw [← hh2]; exact if_neg (Bool.eq_false_iff.mp hnew)
  have hlow : ¬(dv.toNat * 100 < 85 * slotVnom v0 ∨ isB ∧ (!slotFitB v0) = true) := fun hno =>
    hno.elim (Nat.not_lt.mpr hlevel) fun hb => absurd hb.1 (by decide)
  have hhalted : slotRuns a = false := by rw [ha]; exact hrun
  have hst : a.st = h0.st := by rw [ha]
  rw [if_neg hlow, hs1, hh2, hst, if_pos (show (!slotRuns a) = true by rw [hhalted]; rfl)]
  exact (apply_ite Host.Outcome.next _ _ _).symm

/-- Feed A below 0.80 V_NOM becomes invalid, in a channel that does not run or has no other feed. -/
theorem execFeedInvalid_feedA (hlevel : dv.toNat * 100 < 80 * slotVnom v) (hold : h.okA = true) {n : SlotCh}
    (hn : n = { h with feedA := dv.toNat, okA := false }) :
    (slotRuns h = false → execFeedInvalid c 0 dv s = .next (setSlot (raiseEvent s 0x413 c []) c n)) ∧
    (slotRuns h = true → slotFed v n = false → execFeedInvalid c 0 dv s = .next (slotStarve (raiseEvent s 0x413 c []) c n)) := by
  subst hh hv hn
  have hgoes : ¬(80 * slotVnom (slotEff s c) ≤ dv.toNat * 100 ∨ (!(slotOf s c).okA) = true) := not_or.mpr ⟨Nat.not_le.mpr hlevel, not_fails hold⟩
  refine ⟨fun hrun => (if_neg hgoes).trans (if_pos ?_), fun hrun hfed => (if_neg hgoes).trans ((if_neg (not_fails hrun)).trans (if_pos ?_))⟩
  · exact congrArg not hrun
  · exact congrArg not hfed

theorem execReverse_turnsOff (hrun : slotRuns h = true) (hprio : slotPrio v = false) :
    (h.gateA = true → execReverse c 0 s = .next (raiseEvent (setSlot s c { h with gateA := false }) 0x413 c [])) ∧
    (h.gateB = true → execReverse c 1 s = .next (raiseEvent (setSlot s c { h with gateB := false }) 0x413 c [])) := by
  subst hh hv
  have hsingle : ¬slotPrio (slotEff s c) = true := Bool.eq_false_iff.mp hprio
  exact ⟨fun hgate => (if_neg (not_or.mpr ⟨not_fails hrun, not_fails hgate⟩)).trans (if_neg hsingle),
    fun hgate => (if_neg (not_or.mpr ⟨not_fails hrun, not_fails hgate⟩)).trans (if_neg hsingle)⟩

theorem execVoutLow_inQual (hst : h.st = 2) (hlow : dv.toNat * 10 < 9 * slotVnom v) :
    execVoutLow c dv s = .next (setSlot s c { h with vout := dv.toNat, qualAt := s.clock }) := by
  subst hh hv
  exact (if_neg fun hon => absurd (hst.symm.trans hon.1) (by decide)).trans (if_pos ⟨hst, hlow⟩)

section
variable {vds : Nat} (hrun : slotRuns h = true) {i : SlotCh} (hi : i = { h with isense := dv.toNat, peak := max h.peak dv.toNat })
include hrun hi

theorem execSlotLimit_enters (hout : h.inLimit = false) (hpg : h.pg = true) (hclock : s.clock < h.limitAt + 1000000)
    (hlim : slotLimitUv (slotIlim v) (fld h.ramp 44 12) vds ≤ dv.toNat * 200) :
    execSlotLimit c dv vds s = .next (raiseEvent (setSlot s c { i with
      inLimit := true, foldback := decide (slotLimitUv (slotIlim v) (fld h.ramp 44 12) vds < slotIlim v * 500), qualAt := s.clock,
      limitAt := s.clock }) 0x414 c []) := by
  subst hh hv hi
  refine (if_neg (not_fails hrun)).trans ((if_pos hlim).trans (congrArg Host.Outcome.next ((if_pos ⟨hpg, congrArg not hout⟩).trans ?_)))
  dsimp only
  rw [if_neg (Bool.eq_false_iff.mp hout), if_pos (.inr hclock)]

theorem execSlotLimit_leaves (hin : h.inLimit = true) (hlim : dv.toNat * 200 < slotLimitUv (slotIlim v) (fld h.ramp 44 12) vds) :
    execSlotLimit c dv vds s = .next (setSlot s c { i with
      limitUs := h.limitUs + (s.clock - h.limitAt) / 1000, limitAt := s.clock, qualAt := s.clock, inLimit := false, foldback := false }) := by
  subst hh hv hi
  unfold execSlotLimit
  extract_lets v0 h0 h1 lim n n2
  have hn2 : n2 = { h1 with limitUs := h1.limitUs + (s.clock - h1.limitAt) / 1000, limitAt := s.clock, qualAt := s.clock } := if_pos hin
  exact (if_neg (not_fails hrun)).trans ((if_neg (Nat.not_le.mpr hlim)).trans (by rw [hn2]))

end

theorem execHandback_hands (hrun : slotRuns h = true) (hprio : slotPrio v = true) (hb : h.activeB = true) (ha : h.okA = true)
    (hhand : h.handover = none) (hdriven : h.driven = false) (hvalid : h.validAt + 100000000 ≤ s.clock) :
    execHandback c s = .next (setSlot s c { h with gateA := false, gateB := false, handover := some s.clock, driven := false }) := by
  subst hh hv
  exact if_pos ⟨hrun, hprio, hb, ha, Option.isNone_iff_eq_none.mpr hhand, congrArg not hdriven, hvalid⟩

end

theorem execHandoverConfirmed_drives {c : ChannelId} {s : State} {h : SlotCh} (hh : h = slotOf s c) {t : Nat}
    (hhand : h.handover = some t) (ht : t + 2000 ≤ s.clock) (hrun : slotRuns h = true) :
    execHandoverConfirmed c s = .next (setSlot s c { h with handover := none, driven := true, gateA := h.activeB, gateB := !h.activeB }) := by
  subst hh
  unfold execHandoverConfirmed
  extract_lets h0
  split
  next u hu =>
    rw [← Option.some.inj (hhand.symm.trans hu)]
    exact if_pos ⟨ht, hrun⟩
  next hno => exact absurd (hhand.symm.trans hno) nofun

/-- Settles O28: each command by the state of its channel. -/
theorem slotChannelFeedsAndLimits : Obligations.SlotChannelFeedsAndLimits := by
  intro c s dv h v a n i low
  refine ⟨?start, ?valid, ?invalid, ?starve, ?reverseA, ?reverseB, ?pgLost, ?again, ?enters, ?leaves, ?expires, ?reset, ?severe, ?confirmed, ?handback⟩
  case start =>
    intro above hlevel hnew hst
    exact (execFeedValid_feedA rfl rfl hlevel hnew (slotRuns_eq_false (.inr (by show 4 ≤ h.st; omega))) rfl).trans (by rw [if_pos hst])
  case valid =>
    intro above hlevel hnew hrun hst
    exact (execFeedValid_feedA rfl rfl hlevel hnew hrun rfl).trans (by rw [if_neg hst])
  case invalid => exact fun hlevel hold hrun => (execFeedInvalid_feedA rfl rfl hlevel hold rfl).1 hrun
  case starve => exact fun hlevel hold hrun hfed => (execFeedInvalid_feedA rfl rfl hlevel hold rfl).2 hrun hfed
  case reverseA => exact fun hrun hgate hprio => (execReverse_turnsOff rfl rfl hrun hprio).1 hgate
  case reverseB => exact fun hrun hgate hprio => (execReverse_turnsOff rfl rfl hrun hprio).2 hgate
  case pgLost => exact fun hst hlow => if_pos ⟨hst, hlow⟩
  case again => exact fun hst hlow => execVoutLow_inQual (h := h) rfl rfl hst hlow
  case enters => exact fun vds hrun hout hpg hclock hlim => execSlotLimit_enters rfl rfl hrun rfl hout hpg hclock hlim
  case leaves => exact fun vds hrun hin hlim => execSlotLimit_leaves rfl rfl hrun rfl hin hlim
  case expires => exact fun hrun hin htimer => if_pos ⟨hrun, hin, htimer⟩
  case reset => exact fun hout hclock => if_pos ⟨congrArg not hout, hclock⟩
  case severe => exact fun hrun hsense => if_pos ⟨hrun, hsense⟩
  case confirmed => exact fun t hhand ht hrun => execHandoverConfirmed_drives rfl hhand ht hrun
  case handback => exact fun hrun hprio hb ha hhand hdriven hvalid => execHandback_hands rfl rfl hrun hprio hb ha hhand hdriven hvalid

end Sys2Proof.Machine

/-! SUPPORT. The service endpoint: what the reset of a VF leaves and writes, its macros, the movers (R336-R367). -/
namespace Sys2Proof.Machine

/-! Device updates, released claims. -/

/-- A device update writes tables, and with them the commit number, the reports and a count. -/
theorem deviceUpdate_frame (s : State) (ws : List (Nat × Nat × Entry)) : deviceUpdate s ws = { s with
    tab := (deviceUpdate s ws).tab, commitNum := (deviceUpdate s ws).commitNum, updated := (deviceUpdate s ws).updated,
    mer := (deviceUpdate s ws).mer, cnt := (deviceUpdate s ws).cnt } := by
  unfold deviceUpdate
  dsimp only
  rw [foldl_setTab, foldl_setTab]
  split
  · rfl
  · split
    · rfl
    · rfl

theorem deviceUpdate_locks (s : State) (ws : List (Nat × Nat × Entry)) : (deviceUpdate s ws).locks = s.locks := by rw [deviceUpdate_frame]
theorem deviceUpdate_ev (s : State) (ws : List (Nat × Nat × Entry)) : (deviceUpdate s ws).ev = s.ev := by rw [deviceUpdate_frame]

/-- The canonical form of the tables after a device update. -/
theorem deviceUpdate_wf {s : State} (ws : List (Nat × Nat × Entry)) (h : Tables.wf s.tab = true) : Tables.wf (deviceUpdate s ws).tab = true :=
  (deviceUpdate_kept s ws (.refl s)).tab h

/-- An entry that a device update does not name reads as before. -/
theorem tabVal_deviceUpdate_ne {s : State} {ws : List (Nat × Nat × Entry)} {t i : Nat} (h : Tables.wf s.tab = true)
    (hk : ∀ w ∈ ws, tkey t i ≠ tkey w.1 w.2.1) : tabVal (deviceUpdate s ws) t i = tabVal s t i := by
  obtain ⟨num, hnum⟩ := deviceUpdate_tab s ws
  unfold tabVal tabEntry
  rw [hnum, smGet_tabWrites_ne num s.tab ws _ h hk]

/-- A listed value is found in its store. -/
theorem mem_of_smGet_ne {α : Type} {d : α} {m : SMap α} {k : Nat} (h : smGet d m k ≠ d) : (k, smGet d m k) ∈ m := by
  induction m with
  | nil => exact absurd rfl h
  | cons e m ih =>
    obtain ⟨j, v⟩ := e
    unfold smGet at h ⊢
    split
    next hk => exact hk ▸ List.mem_cons_self ..
    next hk =>
      rw [if_neg hk] at h
      split
      next hlt => exact absurd (if_pos hlt) h
      next hlt =>
        rw [if_neg hlt] at h
        exact List.mem_cons_of_mem _ (ih h)

/-- Keys erased one after the other read as the default, and so does a key that did before. -/
theorem smGet_erased {α : Type} [DecidableEq α] {d : α} {m : SMap α} {ks : List Nat} {k : Nat} (h : smWf (fun _ => d) m = true)
    (hk : k ∈ ks ∨ smGet d m k = d) : smGet d (ks.foldl (fun m k => smSet d m k d) m) k = d := by
  induction ks generalizing m with
  | nil => exact hk.resolve_left (List.not_mem_nil)
  | cons j ks ih =>
    refine ih (smWf_smSet (fun _ => d) m j d h) ?_
    by_cases hj : k = j
    · exact .inr (hj ▸ smGet_smSet_self (fun _ => d) m j d h)
    · exact (hk.imp_left fun hmem => (List.mem_cons.mp hmem).resolve_left hj).imp_right
        fun hdef => (smGet_smSet_ne (fun _ => d) d m j k d h hj).trans hdef

theorem releaseClaims_claims (s : State) (is : List Nat) : (releaseClaims s is).claims = is.foldl (fun m i => smSet 0xFFFF m i 0xFFFF) s.claims := by
  unfold releaseClaims
  exact (deviceUpdate_samePlaces ..).claims

theorem releaseClaims_locks (s : State) (is : List Nat) : (releaseClaims s is).locks = s.locks := deviceUpdate_locks ..
theorem releaseClaims_ev (s : State) (is : List Nat) : (releaseClaims s is).ev = s.ev := deviceUpdate_ev ..
theorem releaseClaims_hbm (s : State) (is : List Nat) : (releaseClaims s is).hbm = s.hbm := (deviceUpdate_samePlaces ..).hbm
theorem releaseClaims_slots (s : State) (is : List Nat) : (releaseClaims s is).slots = s.slots := (deviceUpdate_samePlaces ..).slots

/-- A function's claims without PERM are free after their release (R264). -/
theorem claimOf_releaseClaims {s : State} {sub i : Nat} (h : Claims.wf s.claims = true) (hsub : sub ≠ 0xFFFF) (hi : claimOf s i = sub) :
    claimOf (releaseClaims s (claimsOf s sub)) i = 0xFFFF := by
  unfold claimOf at hi ⊢
  rw [releaseClaims_claims]
  refine smGet_erased h (.inl ?_)
  have hmem := mem_of_smGet_ne (hi ▸ hsub : smGet 0xFFFF s.claims i ≠ 0xFFFF)
  rw [hi] at hmem
  exact List.mem_map.mpr ⟨_, List.mem_filter.mpr ⟨hmem, beq_self_eq_true sub⟩, rfl⟩

/-- The release of claims writes timers' entries alone (R402). -/
theorem tabVal_releaseClaims {s : State} (is : List Nat) {t i : Nat} (h : Tables.wf s.tab = true) (hk : ∀ j < 64, tkey t i ≠ tkey 0x32 j) :
    tabVal (releaseClaims s is) t i = tabVal s t i := by
  unfold releaseClaims
  refine tabVal_deviceUpdate_ne h fun w hw => ?_
  obtain ⟨j, hj, rfl⟩ := List.mem_map.mp hw
  obtain ⟨c, hc, rfl⟩ := List.mem_map.mp (List.mem_filter.mp hj).1
  have hrange := of_decide_eq_true (List.mem_filter.mp hc).2
  exact hk (c - 48) (by omega)

/-! The reset of a VF (R358, R360). -/

theorem subWasReset_frame (s : State) (sub : Nat) : subWasReset s sub = { s with engines := (subWasReset s sub).engines } := by
  unfold subWasReset
  generalize List.range 16 = l
  induction l generalizing s with
  | nil => rfl
  | cons e l ih =>
    rw [List.foldl_cons, ih]
    split <;> rfl

/-- The VF's charts and descriptors are marked. -/
def vfMarked (s : State) (v : Nat) : State := subWasReset (stopDescs s v) v

/-- As vfMarked, with its rings disabled. -/
def vfStopped (s : State) (v : Nat) : State := deviceUpdate (vfMarked s v) (ringsOff (vfMarked s v) v)

/-- As vfStopped, with its queue disabled, its held messages and pending records gone. -/
def vfCleared (s : State) (v : Nat) : State :=
  let w := queueOff (vfStopped s v) v
  { w with svc := { w.svc with msix := smSet {} w.svc.msix v {}, frozen := smSet {} w.svc.frozen v {} },
           ev := { w.ev with store := w.ev.store.filter fun r => r.queue != v } }

theorem vfReset_of_noWaiters {s : State} {v : Nat} (hst : funcState s v ≠ 0) (hwait : frostWaiters s v = []) :
    vfReset s v = setLive (genUp (releaseClaims (vfCleared s v) (claimsOf (vfCleared s v) v)) v) 0x3D v 0 4 1 := by
  unfold vfReset
  rw [if_neg hst, hwait]
  rfl

/-- A reset disables rings of the function and no other entry. -/
theorem ringsOff_keys {s : State} {f t i : Nat} (ht : t ≠ 0x30) (hi : i < 2 ^ 24) (hf : (fnRings s f).1 + (fnRings s f).2 < 2 ^ 24) :
    ∀ w ∈ ringsOff s f, tkey t i ≠ tkey w.1 w.2.1 := by
  intro w hw
  obtain ⟨r, hr, hw⟩ := List.mem_filterMap.mp hw
  obtain ⟨j, hj, rfl⟩ := List.mem_map.mp hr
  have := List.mem_range.mp hj
  obtain ⟨-, heq⟩ := Option.ite_none_right_eq_some.mp hw
  rw [← Option.some.inj heq]
  unfold tkey
  dsimp only
  omega

theorem fnRings_vf_lt {s : State} {v : Nat} (hv : v < 2048) : (fnRings s v).1 + (fnRings s v).2 < 2 ^ 24 := by
  have hfirst : funcFld s v 36 12 < 2 ^ 12 := Nat.mod_lt _ (by decide)
  have hcount : funcFld s v 32 4 < 2 ^ 4 := Nat.mod_lt _ (by decide)
  rw [fnRings, if_pos hv]
  dsimp only
  omega

section
variable (s : State) (v : Nat)

/-- Marking charts and descriptors leaves the tables and the places. -/
theorem vfMarked_sameStores : SameStores s (vfMarked s v) := by
  unfold vfMarked
  rw [subWasReset_frame]
  exact ⟨⟨rfl, rfl, rfl, rfl⟩, rfl⟩

theorem vfStopped_places : SamePlaces s (vfStopped s v) := (vfMarked_sameStores s v).places.trans (deviceUpdate_samePlaces ..)

theorem vfStopped_locks : (vfStopped s v).locks = s.locks := by
  refine (deviceUpdate_locks ..).trans ?_
  unfold vfMarked
  rw [subWasReset_frame]
  rfl

theorem vfStopped_wf (h : Tables.wf s.tab = true) : Tables.wf (vfStopped s v).tab = true :=
  deviceUpdate_wf _ (by rw [(vfMarked_sameStores s v).tab]; exact h)

/-- Clearing the queue, the messages and the pending records leaves the tables and the places. -/
theorem vfCleared_sameStores : SameStores (vfStopped s v) (vfCleared s v) := by
  unfold vfCleared queueOff setEq
  exact ⟨⟨rfl, rfl, rfl, rfl⟩, rfl⟩

theorem vfCleared_places : SamePlaces s (vfCleared s v) := (vfStopped_places s v).trans (vfCleared_sameStores s v).places

theorem vfCleared_locks : (vfCleared s v).locks = s.locks := by
  unfold vfCleared queueOff setEq
  exact vfStopped_locks s v

theorem vfCleared_store : ∀ r ∈ (vfCleared s v).ev.store, r.queue ≠ v := by
  unfold vfCleared
  exact fun _ hr => bne_iff_ne.mp (List.mem_filter.mp hr).2

theorem vfCleared_wf (h : Tables.wf s.tab = true) : Tables.wf (vfCleared s v).tab = true := by
  rw [(vfCleared_sameStores s v).tab]
  exact vfStopped_wf s v h

/-- A reset leaves a VF's own entry until its last writes. -/
theorem tabVal_vfCleared_self (hv : v < 2048) (h : Tables.wf s.tab = true) : tabVal (vfCleared s v) 0x3D v = tabVal s 0x3D v := by
  have hmarked := (vfMarked_sameStores s v).tab
  rw [tabVal_of_tab (vfCleared_sameStores s v).tab, ← tabVal_of_tab hmarked]
  exact tabVal_deviceUpdate_ne (by rw [hmarked]; exact h) (ringsOff_keys (by decide) (by omega) (fnRings_vf_lt hv))

end

section
variable {s : State} {v : Nat} (hv : v < 2048) (hcanon : Canonical s) (hst : funcState s v ≠ 0) (hwait : frostWaiters s v = [])
include hv hcanon hst hwait

/-- The VF's entry after its reset: GEN one more, STATE ACTIVE. -/
theorem tabVal_vfReset_self : tabVal (vfReset s v) 0x3D v = setFld (setFld (tabVal s 0x3D v) 4 4 (funcGen s v + 1)) 0 4 1 := by
  obtain ⟨-, htab, -, -⟩ := hcanon
  have hcleared := vfCleared_wf s v htab
  rw [vfReset_of_noWaiters hst hwait]
  generalize hu : releaseClaims (vfCleared s v) (claimsOf (vfCleared s v) v) = u
  have hreleased : Tables.wf u.tab = true := by rw [← hu]; exact (releaseClaims_kept _ _ (.refl _)).tab hcleared
  have hentry : tabVal u 0x3D v = tabVal s 0x3D v := by
    rw [← hu, tabVal_releaseClaims _ hcleared (by unfold tkey; omega), tabVal_vfCleared_self s v hv htab]
  have hgen : funcGen u v = funcGen s v := congrArg (fld · 4 4) hentry
  rw [tabVal_setLive_self (genUp u v) 0x3D v 0 4 1 (setLive_wf 0x3D v 4 4 _ hreleased), genUp, tabVal_setLive_self u 0x3D v 4 4 _ hreleased, hentry, hgen]

/-- What the reset of a VF leaves and frees (R264, R358). -/
theorem vfReset_leaves : (∀ i, claimOf s i = v → claimOf (vfReset s v) i = 0xFFFF) ∧ (∀ r ∈ (vfReset s v).ev.store, r.queue ≠ v) ∧
    (vfReset s v).hbm = s.hbm ∧ (vfReset s v).slots = s.slots ∧ (vfReset s v).locks = s.locks := by
  obtain ⟨-, -, hclaims, -⟩ := hcanon
  have hplaces := vfCleared_places s v
  have hstore := vfCleared_store s v
  have hlocks := vfCleared_locks s v
  rw [vfReset_of_noWaiters hst hwait]
  unfold genUp
  simp only [setLive_hbm, setLive_slots, setLive_locks, setLive_ev, claimOf, setLive_claims, releaseClaims_hbm, releaseClaims_slots, releaseClaims_locks,
    releaseClaims_ev]
  refine ⟨fun i hi => ?_, hstore, hplaces.hbm, hplaces.slots, hlocks⟩
  rw [← hplaces.claims] at hclaims hi
  exact claimOf_releaseClaims hclaims (by omega) hi

end

/-- Settles O31: the reset of a VF by its own writes, and the other commands by the role of their port. -/
theorem functionResetsAndVfEnable : Obligations.FunctionResetsAndVfEnable := by
  refine ⟨?disabled, ?active, ?usp, ?other, ?set, ?clear⟩
  case disabled => exact fun v s hst => congrArg Host.Outcome.next (if_pos hst)
  case active =>
    intro v s hcanon hst hwait
    have hentry := tabVal_vfReset_self v.isLt hcanon hst hwait
    refine ⟨_, rfl, ?_, ?_, vfReset_leaves v.isLt hcanon hst hwait⟩
    · exact (if_pos v.isLt).trans ((congrArg (fld · 0 4) hentry).trans (fld_setFld_same _ 0 4 1 (by decide)))
    · exact (congrArg (fld · 4 4) hentry).trans ((fld_setFld_apart _ 0 4 1 4 4 (by decide)).trans (fld_setFld_same _ 4 4 _ (by decide)))
  case usp => exact fun p s hrole => if_pos hrole
  case other => exact fun p s hrole => if_neg hrole
  case set => exact fun p s hrole => if_pos hrole
  case clear => exact fun p s hrole => if_pos hrole

end Sys2Proof.Machine

/-! SUPPORT. The VF macros: drafts of the device's own, the blob's length, and each macro past its own checks (R333-R358). -/
namespace Sys2Proof.Machine

/-- Drafting after the scope's check leaves the engine's place in its chart. -/
theorem draftAny_place (s : State) (e : Nat) (x : Engine) (t i : Nat) (v mask : Entry) (bad : Bool) :
    (draftAny s e x t i v mask bad).2.2.pc = x.pc ∧ (draftAny s e x t i v mask bad).2.2.ninstr = x.ninstr := by
  unfold draftAny
  extract_lets k whole
  repeat' split
  all_goals simp

theorem draftsAny_place (s : State) (e : Nat) (x : Engine) (ds : List (Nat × Nat × Entry × Entry)) :
    (draftsAny s e x ds).2.2.pc = x.pc ∧ (draftsAny s e x ds).2.2.ninstr = x.ninstr := by
  induction ds generalizing s x with
  | nil => exact ⟨rfl, rfl⟩
  | cons d ds ih =>
    obtain ⟨t, i, v, m⟩ := d
    obtain ⟨hpc, hninstr⟩ := draftAny_place s e x t i v m false
    unfold draftsAny
    dsimp only
    split
    · exact ⟨hpc, hninstr⟩
    · exact ⟨(ih _ _).1.trans hpc, (ih _ _).2.trans hninstr⟩

/-! The state blob (Table 14.8). -/

theorem slice_length (bs : List Byte) (off n : Nat) : (slice bs off n).length = n := by
  unfold slice
  rw [List.length_append, List.length_replicate, List.length_take]
  omega

theorem padTo_length (n : Nat) (bs : List Byte) : (padTo n bs).length = n := slice_length bs 0 n

@[simp] theorem length_natBytes (n v : Nat) : (natBytes n v).length = n := by
  unfold natBytes
  rw [List.length_map, List.length_range]

theorem flatMap_natBytes_length (l : List Nat) (n : Nat) (f : Nat → Nat) : (l.flatMap fun i => natBytes n (f i)).length = l.length * n := by
  rw [List.length_flatMap]
  simp

theorem blobBody_length (s : State) (v id seq : Nat) (x : Session) : (blobBody s v id seq x).length = 9856 := by
  unfold blobBody
  simp only [List.length_append, length_natBytes, padTo_length, flatMap_natBytes_length, List.length_map, List.length_range]

section
variable {e : EngineId} {s : State} {x : Engine} {b : Nat → Word} (hx : x = regSet (engineOf s e) 1 0)
  (hb : b = blockWord (engineOf s e) (wordAt (engineOf s e)))
include hx hb

/-- VF.ENABLE whose drafts exist and are allowed (R333, R334). -/
theorem execVfEnable_drafts (h : Begins s e 0xC0 [rowBits [(6, 0), (24, 16), (31, 28)]] 0 (.tile tileOfPort0) false) {u : Nat} (hu : u = wfld (b 0) 0 7)
    (hmay : mayActOn s x u = true) {d : Nat × List (Nat × Nat × Entry × Entry)} (hd : d = vfEnableDrafts s x u (wfld (b 0) 16 9) (wfld (b 0) 28 4))
    (hdrafts : d.1 = 0) {r : Nat × State × Engine} (hr : r = draftsAny s e (readsOf s x (vfReads s u)) d.2) (hallowed : r.1 = 0) :
    execVfEnable e s = .next (moveOk r.2.1 e r.2.2) := by
  obtain ⟨hpc, hninstr⟩ := draftsAny_place s e (readsOf s x (vfReads s u)) d.2
  have hfollows : r.2.2.pc + 1 < r.2.2.ninstr := by
    rw [hr, hpc, hninstr, readsOf_pc, readsOf_ninstr, hx]
    exact begins_follows h
  subst hx hb hu hd
  refine congrArg Host.Outcome.next (macroOp_ok h ?_ hfollows)
  refine (if_neg (not_fails hmay)).trans ((if_neg (not_not_intro hdrafts)).trans ?_)
  rw [← hr, ← hallowed]

section
variable {v : Nat} (hv : v = wfld (b 0) 0 11) (hobject : vfObject s x v = 0)
include hv hobject

/-- VF.FROST of an ACTIVE VF: FREEZING, with its deadline (R351). -/
theorem execVfFrost_begins (h : Begins s e 0xC1 [vfWord] 0 (.tile tileOfVf0) true) (hst : funcState s v = 1) {s1 : State} (hs1 : s1 = setLive s 0x3D v 0 4 2)
    {due : State} (hdue : due = { s with svc := { s.svc with frozen := smMod {} s.svc.frozen v fun z => { z with deadline := some (s.clock + 100000000) } } }) :
    execVfFrost e s = .next (frostStep (setEngine { s1 with svc := due.svc } e { x with wait := .macroStep, seq := 1, seqA := v, seqB := 0 }) v) := by
  subst hx hb hv hs1 hdue
  refine congrArg Host.Outcome.next ((macroThen_begins h _).trans ((if_neg (not_not_intro hobject)).trans ?_))
  rw [hst]
  rfl

theorem execVfFrost_frozen (h : Begins s e 0xC1 [vfWord] 0 (.tile tileOfVf0) true) (hlow : 3 ≤ funcState s v) (hhigh : funcState s v ≤ 5) :
    execVfFrost e s = .next (moveOk s e x) := by
  subst hx hb hv
  refine congrArg Host.Outcome.next ((macroThen_begins h _).trans ((if_neg (not_not_intro hobject)).trans ?_))
  split
  · omega
  · omega
  · omega
  · exact finish_moveOk s e _ (begins_follows h)

/-- VF.SAVE of a FROZEN VF whose blob may be written (R353, R354). -/
theorem execVfSave_writes (h : Begins s e 0xC2 [vfWord, allBits, rowBits [(15, 0)]] 0 (.tile tileOfVf0) true)
    (hst : funcState s v = 3 ∨ funcState s v = 4) {id : Nat} (hid : id = wfld (b 2) 0 16) {y : Session} (hy : sessionOf s id = some y) {a : Nat}
    (ha : a = (b 1).toNat) (halign : a % 8 = 0) {m sp q : Nat} (hpass : Passes s x a 9920 true m sp q) {body : List Byte}
    (hbody : body = blobBody s v id (y.saveSeq + 1) y) {s1 : State}
    (hs1 : s1 = sends s e x m sp q (body ++ padTo 64 (blobMac id y (y.saveSeq + 1) body))) :
    execVfSave e s = .next (moveOk (setLive
      { s1 with mer := { s1.mer with sessions := smPut s1.mer.sessions id { y with saveSeq := y.saveSeq + 1 } } } 0x3D v 0 4 4) e x) := by
  have hlength : (body ++ padTo 64 (blobMac id y (y.saveSeq + 1) body)).length = 9920 := by
    rw [List.length_append, padTo_length, hbody, blobBody_length]
  have hstore : memStore s e x a (body ++ padTo 64 (blobMac id y (y.saveSeq + 1) body)) = s1 := by
    rw [hs1]
    exact memStore_passes (by rw [hlength]; exact hpass)
  have hcheck : memCheck s x a 9920 true = (0, s) := memCheck_passes hpass
  subst hx hb hv hid ha
  refine congrArg Host.Outcome.next ((macroThen_begins h _).trans ((if_neg (not_not_intro hobject)).trans ((if_neg (by omega)).trans ?_)))
  rw [hy]
  dsimp only
  rw [if_neg (not_not_intro halign), hcheck]
  dsimp only
  rw [if_neg (not_not_intro rfl), ← hbody, hstore]
  exact finish_moveOk _ e _ (begins_follows h)

/-- VF.RESTORE asks submitter memory for the blob (R356). -/
theorem execVfRestore_asks (h : Begins s e 0xC3 [vfWord, allBits, rowBits [(15, 0)]] 0 (.tile tileOfVf0) true) (hst : funcState s v = 3)
    (hsession : sessionOf s (wfld (b 2) 0 16) ≠ none) {a : Nat} (ha : a = (b 1).toNat) (halign : a % 8 = 0) {m sp q : Nat}
    (hpass : Passes s x a 9920 false m sp q) :
    execVfRestore e s = .next (setEngine (asks s e x m sp q 1240) e { x with wait := .macroStep, seq := 1, seqA := 0, seqB := 0 }) := by
  have hcheck : memCheck s x a 9920 false = (0, s) := memCheck_passes hpass
  have hlocal : memLocal s x a 1240 = none := memLocal_passes hpass
  have hask : memAsk s e x a 1240 = asks s e x m sp q 1240 := memAsk_passes hpass
  subst hx hb hv ha
  refine congrArg Host.Outcome.next ((macroThen_begins h _).trans ((if_neg (not_not_intro hobject)).trans ((if_neg (not_not_intro hst)).trans
    ((if_neg (by simpa using hsession)).trans ((if_neg (not_not_intro halign)).trans ?_)))))
  rw [hcheck]
  dsimp only
  rw [if_neg (not_not_intro rfl), hlocal, ← hask]
  rfl

theorem execVfThaw_thaws (h : Begins s e 0xC4 [vfWord] 0 (.tile tileOfVf0) true) (hlow : 3 ≤ funcState s v) (hhigh : funcState s v ≤ 5) :
    execVfThaw e s = .next (moveOk (thaw s v) e x) := by
  subst hx hb hv
  exact congrArg Host.Outcome.next ((macroThen_begins h _).trans ((if_neg (not_not_intro hobject)).trans ((if_pos ⟨hlow, hhigh⟩).trans
    (finish_moveOk _ e _ (begins_follows h)))))

theorem execVfReset_resets (h : Begins s e 0xC5 [vfWord] 0 (.tile tileOfVf0) true) : execVfReset e s = .next (moveOk (vfReset s v) e x) := by
  subst hx hb hv
  exact congrArg Host.Outcome.next ((macroThen_begins h _).trans ((if_neg (not_not_intro hobject)).trans (finish_moveOk _ e _ (begins_follows h))))

end

end

/-- Settles O30: each macro past its own checks answers by its own meaning. That VF.ENABLE records what it read of other USPs is the model's reading of R27
(logs 86 and 99); the layout inside the parts of the saved blob is the model's (log 53). -/
theorem vfMacroResults : Obligations.VfMacroResults := by
  intro e s x b u v a id due
  refine ⟨?enable, ?frost, ?frozen, ?timeout, ?save, ?restore, ?thaw, ?reset⟩
  case enable => exact fun h hmay hd hr => execVfEnable_drafts rfl rfl h rfl hmay rfl hd rfl hr
  case frost => exact fun h hobject hst => execVfFrost_begins rfl rfl rfl hobject h hst rfl rfl
  case frozen => exact fun h hobject hlow hhigh => execVfFrost_frozen rfl rfl rfl hobject h hlow hhigh
  case timeout =>
    intro k t hdeadline hst hruns hdue
    rw [exec_vfFrostTimeout, execVfFrostTimeout, hdeadline]
    exact if_pos ⟨hst, hruns, hdue⟩
  case save => exact fun y m sp q h hobject hst hy halign hpass => execVfSave_writes rfl rfl rfl hobject h hst rfl hy rfl halign hpass rfl rfl
  case restore => exact fun m sp q h hobject hst hy halign hpass => execVfRestore_asks rfl rfl rfl hobject h hst hy rfl halign hpass
  case thaw => exact fun h hobject hlow hhigh => execVfThaw_thaws rfl rfl rfl hobject h hlow hhigh
  case reset => exact fun h hobject => execVfReset_resets rfl rfl rfl hobject h

end Sys2Proof.Machine

/-! SUPPORT. The movers: MOVER.RUN, POST and WAIT, a descriptor taken, its lines and its end (R345-R350, R367). -/
namespace Sys2Proof.Machine

section
variable {e : EngineId} {s : State} {x : Engine} (hx : x = regSet (engineOf s e) 1 0)
include hx

section
variable {b : Nat → Word} (hb : b = blockWord (engineOf s e) (wordAt (engineOf s e)))
include hb

section
variable {a : Nat × State × Nat} (ha : a = acceptDesc s e x ((List.range 8).map b)) (hok : a.1 = 0)
include ha hok

theorem execMoverRun_waits (h : Begins s e 0xC8 descMasks 0 .any false) :
    execMoverRun e s = .next (setEngine a.2.1 e { x with wait := .macroStep, seq := 1, seqA := a.2.2, seqB := 0 }) := by
  subst hx hb ha
  exact congrArg Host.Outcome.next ((macroThen_begins h _).trans (if_neg (not_not_intro hok)))

theorem execMoverPost_tickets (h : Begins s e 0xC9 descMasks 0 .any false) :
    execMoverPost e s = .next (moveOk a.2.1 e (regSet x 1 (BitVec.ofNat 64 (a.2.2 + smGet 0 a.2.1.svc.issues a.2.2 * 1024)))) := by
  subst hx hb ha
  refine congrArg Host.Outcome.next ((macroThen_begins h _).trans ((if_neg (not_not_intro hok)).trans (finish_moveOk _ e _ ?_)))
  simpa using h.1.2

end

section
variable (h : Begins s e 0xCA [allBits] 0 .any false) {i : Nat} (hi : i = wfld (b 0) 0 10)
include h hi

theorem execMoverWait_absent (hnone : descAt s i = none) : execMoverWait e s = .next (endChart (setEngine s e x) e 5 x.pc) := by
  subst hx hb hi
  refine congrArg Host.Outcome.next ((macroThen_begins h _).trans ?_)
  dsimp only
  rw [hnone]
  exact finish_bad s e _ 5 (by decide)

/-- MOVER.WAIT on a ticket of its own chart. -/
theorem execMoverWait_own {d : Desc} (hd : descAt s i = some d) (hissue : d.issue = wfld (b 0) 10 54) (hengine : d.engine = e.val)
    (hchart : d.chart = x.serial) :
    execMoverWait e s = .next (if d.finished then reportDesc s i e x d
      else setEngine s e { x with wait := .macroStep, seq := 1, seqA := i, seqB := 0 }) := by
  subst hx hb hi
  refine congrArg Host.Outcome.next ((macroThen_begins h _).trans ?_)
  dsimp only
  rw [hd]
  refine if_neg ?_
  rintro (hno | hno | hno)
  · exact hno hissue
  · exact hno hengine
  · exact hno hchart

end

end

/-- A finished descriptor's results. -/
theorem reportDesc_ok {op : Nat} {masks : List Nat} {flags : Nat} {eng : MacroEng} {seqd : Bool} (h : Begins s e op masks flags eng seqd)
    {d : Desc} (hst : d.status = 0) (i : Nat) :
    reportDesc s i e x d = moveOk (setDesc s i { d with waited := true }) e (regSet (regSet x 1 d.res1) 2 d.res2) := by
  subst hx
  unfold reportDesc
  rw [hst]
  exact finish_moveOk _ e _ (by simpa using h.1.2)

end

/-- MOVER_TAKE of the oldest waiting descriptor, by what the mover's fence unit answers. -/
theorem execMoverTake_takes {m : MoverId} {s : State} {i : Nat} {d : Desc} (hrun : fabricRuns s = true) (hfree : moverFree s m = true)
    (hold : oldestDesc s.svc.descs = some (i, d)) {c : Nat × State} (hc : c = spansCheck s (some (96 + m.val)) 0 (dLen d.words) (sidesOf d.words)) :
    execMoverTake m s = .next (if c.1 ≠ 0 then endDesc c.2 i { d with mover := some m.val } c.1 0 0 else setDesc c.2 i { d with mover := some m.val }) := by
  subst hc
  unfold execMoverTake
  rw [if_neg (not_or.mpr ⟨not_fails hrun, not_fails hfree⟩), hold]

theorem moverLine_goes {d : Desc} {s : State} (hopen : d.known = false) (hrun : fabricRuns s = true) :
    ¬(d.known = true ∨ (!fabricRuns s) = true) := not_or.mpr ⟨Bool.eq_false_iff.mp hopen, not_fails hrun⟩

section
variable {m : MoverId} {s : State} {i : Nat} {d : Desc} (hdesc : moverDesc s m = some (i, d)) (hopen : d.known = false) (hrun : fabricRuns s = true)
include hdesc hopen hrun

/-- A line of FILL or ZERO to HBM whose span passes: one write of 64 bytes to the HBM port of its address (R157, R348). -/
theorem execMoverLineIssue_fills (hstage : d.stage = 0) (hactive : d.sub < 2048 → funcState s d.sub ≠ 2) (hop : dOp d.words = 2 ∨ dOp d.words = 3)
    (hspace : dDas d.words = 2) (hgood : d.badLine = false) {a : Nat} (ha : a = dDst d.words + d.progress) {c : Nat × State}
    (hc : c = spansCheck s (some (96 + m.val)) d.progress 64 (sidesOf d.words)) (hpass : c.1 = 0) {bs : List Byte}
    (hbs : bs = (List.range 8).flatMap fun _ => if dOp d.words = 2 then wordBytes (dPat d.words) else List.replicate 8 0) :
    execMoverLineIssue m s = .next (setDesc (newTxn c.2 { moverTxn c.2 m d 0x04 (hbmEp a) a 0 (some bs) with poison := false }) i { d with stage := 3 }) := by
  have hreads : dReads d.words = false := by
    unfold dReads
    rcases hop with hop | hop
    · rw [hop]; rfl
    · rw [hop]; rfl
  have hline : lineOf c.2 m d (sideOf d.words true) d.badLine (some bs) =
      .sent (newTxn c.2 { moverTxn c.2 m d 0x04 (hbmEp a) a 0 (some bs) with poison := false }) := by
    rw [hgood, ha]
    unfold lineOf
    rw [show (sideOf d.words true).sp = 2 from hspace]
    rfl
  unfold execMoverLineIssue
  rw [hdesc]
  dsimp only
  rw [if_neg (moverLine_goes hopen hrun), if_pos hstage, if_neg fun hfreeze => hactive hfreeze.1 hfreeze.2.1]
  unfold beginLine
  dsimp only
  rw [← hc, if_neg (not_not_intro hpass), hreads, if_neg Bool.false_ne_true, ← hbs]
  unfold writeLine
  rw [hline]

/-- A line whose write has landed counts (R349). -/
theorem execMoverLineIssue_lands {l : Landed} {u : State} (hstage : d.stage = 3) (hgood : d.badLine = false) (hland : takeLanded s m = some (l, u))
    (hok : l.rstat = 0) : execMoverLineIssue m s = .next (lineDone u i d) := by
  have hanswer : lineAnswer u m i d l = lineDone u i d := by
    unfold lineAnswer
    rw [hstage]
    exact (if_neg (Bool.eq_false_iff.mp hgood)).trans (if_neg (not_not_intro hok))
  unfold execMoverLineIssue
  rw [hdesc]
  dsimp only
  rw [if_neg (moverLine_goes hopen hrun), if_neg (by omega), hland]
  exact congrArg Host.Outcome.next hanswer

end

/-- The event of an end leaves the engine that waits for it. -/
theorem descWaiter_raiseEvent (s : State) (k : Nat) (d : Desc) (e j : Nat) (p : List Nat) : descWaiter (raiseEvent s e j p) k d = descWaiter s k d := by
  unfold descWaiter engineOf
  rw [raiseEvent_engines]

/-- The end of a descriptor for which no instruction waits, of no VF (R345). -/
theorem execDescriptorComplete_ends {k : Fin 1024} {s : State} {d : Desc} (hd : descAt s k = some d) (hknown : d.known = true)
    (hopen : d.finished = false) (hsub : 2048 ≤ d.sub) {s1 : State} (hs1 : s1 = setDesc s k { d with finished := true, mover := none })
    (hwait : descWaiter s1 k { d with finished := true, mover := none } = none) :
    execDescriptorComplete k s = .next
      (if dFlags d.words % 2 = 1 then raiseEvent s1 0x482 (d.func.getD 0xFFFF) [d.status, d.res1.toNat, d.res2.toNat] else s1) := by
  unfold execDescriptorComplete
  rw [hd]
  dsimp only
  rw [if_neg (not_or.mpr ⟨not_fails hknown, Bool.eq_false_iff.mp hopen⟩), ← hs1]
  generalize hu : (if dFlags d.words % 2 = 1 then raiseEvent s1 0x482 (d.func.getD 0xFFFF) [d.status, d.res1.toNat, d.res2.toNat] else s1) = u
  have hnone : descWaiter u k { d with finished := true, mover := none } = none := by
    rw [← hu]
    split
    · exact (descWaiter_raiseEvent ..).trans hwait
    · exact hwait
  rw [hnone]
  exact congrArg Host.Outcome.next (if_neg (Nat.not_lt.mpr hsub))

/-- Settles O34: the macros by what the acceptance answers, a mover by its fence unit and by the line's stage. That a mover works one line of 64 bytes at a
time in ascending order is the model's choice (log 55). -/
theorem moverMacrosAndCompletion : Obligations.MoverMacrosAndCompletion := by
  refine ⟨?macros, ?take, ?fill, ?land, ?complete⟩
  case macros =>
    intro e s x b a i
    refine ⟨?run, ?post, ?wait, ?absent⟩
    case run => exact fun h hok => execMoverRun_waits rfl rfl rfl hok h
    case post => exact fun h hok => execMoverPost_tickets rfl rfl rfl hok h
    case wait =>
      intro d h hd hissue hengine hchart
      have hown := execMoverWait_own rfl rfl h rfl hd hissue hengine hchart
      refine ⟨fun hopen => hown.trans ?_, fun hdone hst => hown.trans ?_⟩
      · rw [if_neg (Bool.eq_false_iff.mp hopen)]
      · rw [if_pos hdone, reportDesc_ok rfl h hst]
    case absent => exact fun h hnone => execMoverWait_absent rfl rfl h rfl hnone
  case take =>
    intro m s i d hrun hfree hold c y
    have htake := execMoverTake_takes hrun hfree hold rfl
    exact ⟨fun hok => htake.trans (congrArg Host.Outcome.next (if_neg (not_not_intro hok))),
      fun hbad => htake.trans (congrArg Host.Outcome.next (if_pos hbad))⟩
  case fill =>
    intro m s i d hdesc hopen hrun hstage hactive hop hspace hgood a c bs hpass
    exact execMoverLineIssue_fills hdesc hopen hrun hstage hactive hop hspace hgood rfl rfl hpass rfl
  case land =>
    intro m s u i d l hdesc hopen hrun hstage hgood hland hok h4 h5
    have hdone := execMoverLineIssue_lands hdesc hopen hrun hstage hgood hland hok
    refine ⟨fun hmore => hdone.trans ?_, fun hlast => hdone.trans ?_⟩
    · exact congrArg Host.Outcome.next (if_neg (Nat.not_le.mpr hmore))
    · refine congrArg Host.Outcome.next ((if_pos hlast).trans ?_)
      dsimp only
      rw [if_neg h4, if_neg h5]
      rfl
  case complete =>
    intro k s d hd hknown hopen hsub y s1 hwait
    have hends := execDescriptorComplete_ends hd hknown hopen hsub rfl hwait
    refine ⟨fun hflag => hends.trans ?_, fun hflag => hends.trans ?_⟩
    · rw [if_neg (by omega)]
    · rw [if_pos hflag]

end Sys2Proof.Machine

/-! SUPPORT. The TAP and Theodolite: what an instruction shifts out, the checks of an unlock token, an access of the debug master (R370-R377). -/
namespace Sys2Proof.Machine

theorem nbits_lt (v lo w : Nat) : nbits v lo w < 2 ^ w := Nat.mod_lt _ (Nat.two_pow_pos w)

/-! An unlock token's checks (R374). -/

/-- No token opens a scope at policies 2 and 3, and none opens a lock class at policy 1. -/
theorem unlockFails_of_policy {s : State} {tok : List Byte} (h : 2 ≤ debugPolicy s ∨ debugPolicy s = 1 ∧ leAt tok 52 4 % 256 ≠ 0) :
    unlockFails s tok ≠ 0 := by
  unfold unlockFails
  extract_lets k sc
  split
  · decide
  split
  · decide
  split
  · decide
  decide

theorem execUnlockTokenVerdict_judges {s : State} {tok : List Byte} (htok : s.dbg.token = some tok) (hrun : s.mer.running = true) {s1 : State}
    (hs1 : s1 = { s with dbg := { s.dbg with token := none, nonce := none } }) :
    execUnlockTokenVerdict s = if unlockFails s tok ≠ 0 then .next (raiseEvent s1 0x505 0 [unlockFails s tok]) else .next (raiseEvent
      { s1 with dbg := { s1.dbg with scope := leAt tok 52 4, expiry := s1.clock + leAt tok 56 4 * 1000000000 } } 0x504 0
        [leAt tok 52 4, leAt tok 6 1, leAt tok 56 4]) := by
  subst hs1
  unfold execUnlockTokenVerdict
  rw [htok]
  exact if_neg (not_fails hrun)

/-! An access of the debug master (R375). -/

/-- The result register returns what an access answered. -/
def accessReturn (t : State) (op : Nat) (sp nw : BitVec 8) (q : Word) (d : List Byte) (st : Nat) : State :=
  tapReturn { t with dbg := { t.dbg with result := accessResult op sp.toNat nw.toNat st q d } } 6 (accessResult op sp.toNat nw.toNat st q d)

section
variable {s : State} {op : Nat} {sp nw : BitVec 8} {q : Word} {d : List Byte} {ans : Nat}

theorem access_bypass (hscope : scopeBit s 8 = false) : access s op sp nw q ans d = tapBypass s := if_pos (congrArg not hscope)

theorem access_malformed (hscope : scopeBit s 8 = true) (hform : accessOk sp.toNat nw.toNat q = false) :
    access s op sp nw q ans d = accessReturn s op sp nw q d 6 :=
  (if_neg (not_fails hscope)).trans (if_pos (congrArg not hform))

section
variable (hscope : scopeBit s 8 = true) (hform : accessOk sp.toNat nw.toNat q = true) {acc : Access}
  (hacc : acc = ⟨sp.toNat, q.toNat, 4 * nw.toNat, op == 0, op == 1⟩)
include hscope hform hacc

/-- A clean access goes to its target (R365). -/
theorem access_clean (hclean : (judgeAccess s 152 acc).1 = 0) {bs : List Byte} (hbs : bs = if op = 1 then slice d 0 (4 * nw.toNat) else [])
    {st : Nat} (hst : st = if ans = 0 then 0 else if ans = 1 then 4 else 5) : access s op sp nw q ans d =
    accessReturn (emit s (.media (wfld q 57 7) (wfld q 53 4) (wfld q 0 53) (4 * nw.toNat) bs)) op sp nw q d st := by
  have hcheck : fenceCheck s 152 acc = (0, s) := by
    unfold fenceCheck recordDenial
    rw [hclean, if_pos rfl]
  subst hacc hbs hst
  refine (if_neg (not_fails hscope)).trans ((if_neg (not_fails hform)).trans ?_)
  rw [hcheck]
  rfl

/-- A denied access reaches nothing: LOCKED from a lock region, DENIED from a fence region (R365). -/
theorem access_denied {st : Nat} (hst : (judgeAccess s 152 acc).1 = st) (hdenied : st ≠ 0) {n : Nat} (hn : n = if st = 9 then 2 else 1) :
    access s op sp nw q ans d = accessReturn (fenceCheck s 152 acc).2 op sp nw q d n := by
  subst hacc hn
  refine (if_neg (not_fails hscope)).trans ((if_neg (not_fails hform)).trans ?_)
  by_cases hlock : st = 9
  · rw [if_pos hlock]
    exact if_pos (hst.trans hlock)
  · rw [if_neg hlock]
    exact (if_neg fun h => hlock (hst.symm.trans h)).trans (if_pos fun h => hdenied (hst.symm.trans h))

end

end

/-! The end of a scope. -/

theorem closeScope_dbg {s : State} (hopen : s.dbg.scope ≠ 0) (cause : Nat) : (closeScope s cause).dbg = { s.dbg with scope := 0, expiry := 0 } := by
  unfold closeScope
  rw [if_neg hopen, raiseEvent_dbg]

theorem closeScope_leaves (s : State) (cause : Nat) :
    (closeScope s cause).dbg.scope = 0 ∧ (closeScope s cause).dbg.ir = s.dbg.ir ∧ (closeScope s cause).sec = s.sec ∧
      (closeScope s cause).locks = s.locks := by
  unfold closeScope
  split
  next hclosed => exact ⟨hclosed, rfl, rfl, rfl⟩
  next =>
    rw [raiseEvent_dbg, raiseEvent_sec, raiseEvent_locks]
    exact ⟨rfl, rfl, rfl, rfl⟩

/-- Settles O58: each instruction by policy or scope, a token by its checks, an access by its judgement. Version and maker of IDCODE are free (log 3), the
number of a failed check counts the checks of R374 in their order (log 10), and an ACCESS is one command that carries its target's answer (log 21). -/
theorem tapInstructionsFollowPolicyAndScope : Obligations.TapInstructionsFollowPolicyAndScope := by
  intro s shift pass
  refine ⟨rfl, ?idcode, ?sample, ?sampleNot, ?extest, ?extestNot, ?challenge, ?challengeNot, ?token, ?tokenNot, ?verdict, ?accessNot, ?access, ?malformed,
    ?core, ?coreNot, ?close, ?lifetime, ?lasts⟩
  case idcode => exact ⟨_, nbits_lt _ 11 4, _, nbits_lt _ 0 11, rfl⟩
  case sample => exact fun pins pre hpolicy => if_pos hpolicy
  case sampleNot => exact fun pins pre hpolicy => if_neg (Nat.not_le.mpr hpolicy)
  case extest => exact fun v hscope => if_pos hscope
  case extestNot => exact fun v hscope => if_neg (Bool.eq_false_iff.mp hscope)
  case challenge => exact fun hpolicy hrun => if_pos ⟨hpolicy, hrun⟩
  case challengeNot => exact fun hpolicy => if_neg fun h => Nat.not_le.mpr hpolicy h.1
  case token => exact fun tok hpolicy hlength => if_pos ⟨hpolicy, hlength⟩
  case tokenNot => exact fun tok hpolicy => if_neg fun h => Nat.not_le.mpr hpolicy h.1
  case verdict =>
    intro tok htok hrun s1
    have hjudged := execUnlockTokenVerdict_judges htok hrun rfl
    refine ⟨fun hbad => hjudged.trans (if_pos hbad), fun hok => hjudged.trans (if_neg (not_not_intro hok)), fun h0 h1 => ?_, fun h1 hclass => ?_⟩
    · exact unlockFails_of_policy (.inl (by omega))
    · exact unlockFails_of_policy (.inr ⟨h1, hclass⟩)
  case accessNot =>
    exact fun sp nw q d ans hscope => ⟨congrArg Host.Outcome.next (access_bypass hscope), congrArg Host.Outcome.next (access_bypass hscope)⟩
  case access =>
    intro sp nw q d ans hscope hform back acc
    have hback : back = fun t op st => accessReturn t op sp nw q d st := rfl
    rw [hback]
    refine ⟨?read, ?write, ?locked, ?denied⟩
    case read => exact fun hclean => congrArg Host.Outcome.next (access_clean (op := 0) hscope hform (acc := acc true false) rfl hclean (bs := []) rfl rfl)
    case write => exact fun hclean => congrArg Host.Outcome.next (access_clean (op := 1) (ans := 0) hscope hform (acc := acc false true) rfl hclean
      (bs := slice d 0 (4 * nw.toNat)) rfl (st := 0) rfl)
    case locked => exact fun hst => congrArg Host.Outcome.next (access_denied (op := 0) hscope hform (acc := acc true false) rfl hst (by decide) (n := 2) rfl)
    case denied => exact fun hst => congrArg Host.Outcome.next (access_denied (op := 0) hscope hform (acc := acc true false) rfl hst (by decide) (n := 1) rfl)
  case malformed => exact fun sp nw q d ans hscope hform => congrArg Host.Outcome.next (access_malformed hscope hform)
  case core => exact fun a v hscope => ⟨if_pos hscope, _, (Config.freeValue s.freeCtr).isLt, if_pos hscope⟩
  case coreNot => exact fun a wr v hscope => if_neg (Bool.eq_false_iff.mp hscope)
  case close => exact ⟨_, rfl, closeScope_leaves _ 2⟩
  case lifetime =>
    intro hopen hdue
    exact ⟨_, if_pos ⟨hopen, hdue⟩, congrArg Debug.scope (closeScope_dbg hopen 1), congrArg Debug.expiry (closeScope_dbg hopen 1)⟩
  case lasts => exact fun hclock => if_neg fun h => Nat.not_le.mpr hclock h.2

end Sys2Proof.Machine

/-! SUPPORT. Event queues (R381-R388). -/
namespace Sys2Proof.Machine

/-! Event queues: their registers, and where a pending record goes (R381-R388). -/

section
variable {s : State} {q : Nat} {r : EvRec}

theorem eqOf_withStore (rest : List EvRec) : eqOf { s with ev := { s.ev with store := rest } } q = eqOf s q := rfl

theorem eqHeld_withStore (rest : List EvRec) : eqHeld { s with ev := { s.ev with store := rest } } q = eqHeld s q := rfl

theorem eqOf_hbmWrite (a : Nat) (bs : List Byte) : eqOf (hbmWrite s a bs) q = eqOf s q := rfl

theorem eqFull_iff {e : EvQueue} : eqFull e = true ↔ (e.tail + 1) % 2 ^ (e.size + 4) = e.head % 2 ^ (e.size + 4) := beq_iff_eq

theorem writeRecord_discards (hoff : (eqOf s q).enable = false) : writeRecord s q r = s :=
  if_pos (by rw [hoff]; rfl)

theorem writeRecord_loses (hon : (eqOf s q).enable = true) (hfull : eqFull (eqOf s q) = true) :
    writeRecord s q r = setEq s q (eqLose (eqOf s q)) :=
  (if_neg (not_fails hon)).trans (if_pos (.inr hfull))

/-- A Steward queue's record goes to the HBM partition that its base and tail name. -/
theorem eqStore_partition {bs : List Byte} {h : Nat} (hsteward : 2144 ≤ q) (hmap : coreMap s ((eqOf s q).base + 64 * (eqOf s q).tail) 64 = .hbm h) :
    eqStore s q bs = (some (hbmWrite s h bs), s) := by
  unfold eqStore
  extract_lets e a
  rw [if_pos hsteward, show coreMap s a 64 = .hbm h from hmap]

/-- After a write to a queue that interrupts nobody only its registers follow. -/
theorem eqWritten_quiet {e : EvQueue} (he : e = eqOf s q) (hquiet : e.ien = false) {now : Nat} (hnow : now = s.clock) {t : Nat}
    (ht : t = (e.tail + 1) % 2 ^ (e.size + 4)) :
    eqWritten s q = setEq s q { e with
      tail := t, phase := if t = 0 then !e.phase else e.phase, nextSeq := (e.nextSeq + 1) % 2 ^ 32, icount := 0
      ifirst := if e.icount = 0 then now else e.ifirst } := by
  have hnone : ¬e.ien = true := Bool.eq_false_iff.mp hquiet
  subst he ht hnow
  unfold eqWritten
  extract_lets e0 t0 e1 s1
  have hcount : (if e0.ien = true then e0.icount + 1 else 0) = 0 := if_neg hnone
  rw [if_neg fun h : e1.ien = true ∧ _ => hnone h.1]
  exact congrArg (fun n => setEq s q { e1 with icount := n }) hcount

theorem writeRecord_stores {e : EvQueue} (he : e = eqOf s q) (hon : e.enable = true) (hworks : e.faulted = false) (hroom : eqFull e = false)
    (hsteward : 2144 ≤ q) {h : Nat} (hmap : coreMap s (e.base + 64 * e.tail) 64 = .hbm h) :
    writeRecord s q r = eqWritten (hbmWrite s h (recordBytes s r e.nextSeq e.phase)) q := by
  subst he
  have hgoes : ¬((eqOf s q).faulted = true ∨ eqFull (eqOf s q) = true) :=
    not_or.mpr ⟨Bool.eq_false_iff.mp hworks, Bool.eq_false_iff.mp hroom⟩
  unfold writeRecord
  extract_lets e
  rw [if_neg (not_fails hon), if_neg hgoes, eqStore_partition hsteward hmap]

/-- EVENT_RECORD_WRITE takes the oldest pending record out of the store and holds or writes it. -/
theorem execEventRecordWrite_takes {q : QueueId} {rest : List EvRec}
    (h : takeFirst (fun x : EvRec => x.queue == q.val) s.ev.store = some (r, rest)) {s1 : State}
    (hs1 : s1 = { s with ev := { s.ev with store := rest } }) : execEventRecordWrite q s =
      if eqHeld s q ∧ (eqOf s q).enable then .next (holdRecord s1 q r) else .next (writeRecord s1 q r) := by
  subst hs1
  unfold execEventRecordWrite
  rw [h]
  rfl

end

/-- Settles O35: the registers by the command, a pending record by the queue's state. -/
theorem eventQueueResults : Obligations.EventQueueResults := by
  intro q s e
  refine ⟨?enables, ?enabled, rfl, rfl, rfl, ?head, ?beyond, ?latched, ?record, ?window, ?moderation⟩
  case enables => exact fun hoff => if_neg (Bool.eq_false_iff.mp hoff)
  case enabled => exact fun hon => if_pos hon
  case head =>
    exact fun v hfree hin => (if_neg (Bool.eq_false_iff.mp hfree)).trans (congrArg Host.Outcome.next (if_neg (Nat.not_le.mpr hin)))
  case beyond =>
    exact fun v hfree hout => (if_neg (Bool.eq_false_iff.mp hfree)).trans (congrArg Host.Outcome.next (if_pos hout))
  case latched => exact fun v hheld => if_pos hheld
  case record =>
    intro r rest htake s1
    have htaken := execEventRecordWrite_takes htake (s1 := s1) rfl
    refine ⟨?discarded, ?held, ?lost, ?written⟩
    case discarded =>
      intro hoff
      refine htaken.trans ((if_neg fun h => absurd h.2 (Bool.eq_false_iff.mp hoff)).trans ?_)
      exact congrArg Host.Outcome.next (writeRecord_discards hoff)
    case held => exact fun hon hheld => htaken.trans (if_pos ⟨hheld, hon⟩)
    case lost =>
      intro hon hfree hfull
      refine htaken.trans ((if_neg fun h => absurd h.1 (Bool.eq_false_iff.mp hfree)).trans ?_)
      exact congrArg Host.Outcome.next (writeRecord_loses hon (eqFull_iff.mpr hfull))
    case written =>
      intro h hon hfree hworks hroom hsteward hquiet hmap t
      refine htaken.trans ((if_neg fun h => absurd h.1 (Bool.eq_false_iff.mp hfree)).trans (congrArg Host.Outcome.next ?_))
      have hroom' : eqFull e = false := Bool.eq_false_iff.mpr fun hfull => hroom (eqFull_iff.mp hfull)
      have hregs : e = eqOf s1 q := (eqOf_withStore rest).symm
      have hstores := writeRecord_stores (r := r) hregs hon hworks hroom' hsteward (h := h) hmap
      exact hstores.trans (eqWritten_quiet (hregs.trans (eqOf_hbmWrite _ _).symm) hquiet (hbmWrite_clock ..).symm rfl)
  case window =>
    intro i subj w hw hends
    refine (?_ : execRateWindowEnd i subj q s = _)
    unfold execRateWindowEnd
    rw [hw]
    exact if_pos hends
  case moderation =>
    intro hon hcount htime hdue hsteward
    refine (if_pos ⟨hon, hcount, htime, hdue⟩).trans (congrArg Host.Outcome.next ?_)
    exact if_neg (Nat.not_lt.mpr hsteward)

end Sys2Proof.Machine

/-! SUPPORT. PERF.READ and its registers (R409). -/
namespace Sys2Proof.Machine

/-! PERF.READ: what it leaves in G1 and G2 where the registers' store is canonical, and where it is not (R409). -/

theorem regGet_regSet_same {x : Engine} (h : smWf (fun _ => (0 : Word)) x.regs = true) {r : Nat} (hr : r ≠ 0) (v : Word) :
    regGet (regSet x r v) r = v := by
  rw [regGet, regSet, if_neg hr, if_neg hr]
  exact smGet_smSet_self (fun _ => (0 : Word)) x.regs r v h

theorem regGet_regSet_ne {x : Engine} (h : smWf (fun _ => (0 : Word)) x.regs = true) {r k : Nat} (hk : k ≠ r) (v : Word) :
    regGet (regSet x r v) k = regGet x k := by
  unfold regGet regSet
  by_cases hr : r = 0
  · rw [if_pos hr]
  · rw [if_neg hr, smGet_smSet_ne (fun _ => (0 : Word)) 0 x.regs r k v h hk]

theorem regSet_regs_wf {x : Engine} (h : smWf (fun _ => (0 : Word)) x.regs = true) (r : Nat) (v : Word) :
    smWf (fun _ => (0 : Word)) (regSet x r v).regs = true := by
  unfold regSet
  by_cases hr : r = 0
  · rw [if_pos hr]
    exact h
  · rw [if_neg hr]
    exact smWf_smSet (fun _ => (0 : Word)) x.regs r v h

theorem regGet_moveOk {s : State} (h : Engines.wf s.engines = true) (e : Nat) (x : Engine) (r : Nat) :
    regGet (engineOf (moveOk s e x) e) r = regGet x r := by
  rw [moveOk, engineOf_setEngine_self _ _ _ h]
  rfl

/-- PERF.READ by a submitter that may read the counter, where the engine's registers are canonical. -/
theorem perfRead_shows_canonical {e : EngineId} {s : State} (hengines : Engines.wf s.engines = true)
    (hregs : smWf (fun _ => (0 : Word)) (engineOf s e).regs = true)
    (h : Begins s e 0xBB [rowBits [(15, 0)]] 0 (.tile tileOfCounter0) false) {n : Nat}
    (hn : n = wfld (blockWord (engineOf s e) (wordAt (engineOf s e)) 0) 0 16) (hexists : entryExists s 0x3C n = true)
    (hmay : 2 ≤ (engineOf s e).tier ∨ n < 0x0900 ∧ mayActOn s (engineOf s e) (n / 24) = true) :
    Does (.perfRead e) s fun t => regGet (engineOf t e) 1 = BitVec.ofNat 64 (smGet 0 s.cnt.latched n) ∧
      regGet (engineOf t e) 2 = BitVec.ofNat 64 (latchTsOf s n) := by
  have hcleared := regSet_regs_wf hregs 1 0
  have hshown := regSet_regs_wf hcleared 1 (BitVec.ofNat 64 (smGet 0 s.cnt.latched n))
  refine ⟨_, execPerfRead_shows rfl rfl h hn hexists hmay, ?_⟩
  exact ⟨(regGet_moveOk hengines ..).trans ((regGet_regSet_ne hshown (by decide) _).trans (regGet_regSet_same hcleared (by decide) _)),
    (regGet_moveOk hengines ..).trans (regGet_regSet_same hshown (by decide) _)⟩

/-- Engine 12 at PERF.READ of counter 0x08FF; its register store, which no reset and no write leaves so, lists G2 twice. -/
def doubledG2 : State :=
  { State.reset with
    boot := { State.reset.boot with strapped := true, pwrOk := true, settings := true, steward := true }
    clock := 1000
    engines := [(12, { origin := .resident 0 0, sub := 0x8001, tier := 2, ninstr := 2, imem := [(0, 0xBB04010000000000)]
                       dmem := [(0, 0x08FF)], regs := [(2, 7), (2, 7), (4, 0x8000)] })] }

theorem doubledG2_begins : Begins doubledG2 12 0xBB [rowBits [(15, 0)]] 0 (.tile tileOfCounter0) false := by decide

/-- PERF.READ leaves 7 in G2, and no latch was ever at 7 ns. -/
theorem doubledG2_keepsG2 (t : State) (h : exec (.perfRead 12) doubledG2 = .next t) : regGet (engineOf t 12) 2 = 7 := by
  rw [exec_perfRead, execPerfRead_shows rfl rfl doubledG2_begins rfl (by decide) (.inl (by decide))] at h
  cases h
  decide

/-- Refutes O43: only the engines' own store is premised canonical, not the registers of the engine. In doubledG2 the write of 0 to G2 removes the
first listing and the second one, 7, is read. Where the registers are canonical the results stand as stated (perfRead_shows_canonical). -/
theorem not_perfReadReturnsTheLatchedValue : ¬ Obligations.PerfReadReturnsTheLatchedValue := by
  intro h
  obtain ⟨t, ht, -, hG2, -⟩ := (h 12 doubledG2 (by decide) doubledG2_begins (by decide) (by decide)).1 (.inl (by decide))
  exact absurd ((doubledG2_keepsG2 t ht).symm.trans hG2) (by decide)

end Sys2Proof.Machine

/-! SUPPORT. Accesses of Steward's cores (R440, R366). -/
namespace Sys2Proof.Machine

/-! A Steward core's access by the path of its address (Table 18.10). -/

section
variable {c : CoreId} {addr : BitVec 64} {len : Fin 65} {bs ans : List Byte} {s : State}

theorem coreLoads_hbm {a : Nat} (h : coreMap s addr.toNat len.val = .hbm a) :
    execStewardCoreAccess c addr none len ans s = .next (coreLoad s c (hbmRead s a len.val)) := by
  simp only [execStewardCoreAccess, h]

theorem coreStores_hbm {a : Nat} (h : coreMap s addr.toNat bs.length = .hbm a) :
    execStewardCoreAccess c addr (some bs) len ans s = .next (hbmWrite s a bs) := by
  simp only [execStewardCoreAccess, h]

theorem mmioOk_iff {o n : Nat} : mmioOk o n = true ↔ (n = 4 ∨ n = 8) ∧ o % n = 0 := by
  simp [mmioOk]

theorem coreStores_regs {o : Nat} (h : coreMap s addr.toNat bs.length = .regs o) (hok : mmioOk o bs.length = true) :
    execStewardCoreAccess c addr (some bs) len ans s = .next (stewStore s o bs) := by
  simp only [execStewardCoreAccess, h, if_neg (not_fails hok)]

theorem coreLoads_regs {o : Nat} (h : coreMap s addr.toNat len.val = .regs o) (hok : mmioOk o len.val = true) :
    execStewardCoreAccess c addr none len ans s = .next (coreLoad (stewLoad s o len.val).2 c (stewLoad s o len.val).1) := by
  simp only [execStewardCoreAccess, h, if_neg (not_fails hok)]

theorem coreLoad_regs_faults {o : Nat} (h : coreMap s addr.toNat len.val = .regs o) (hodd : mmioOk o len.val = false) :
    execStewardCoreAccess c addr none len ans s = .next (coreFaults s c len.val false) := by
  simp [execStewardCoreAccess, h, hodd]

theorem coreLoads_aperture {sp q : Nat} (h : coreMap s addr.toNat len.val = .aperture sp q) {acc : Access} (hacc : acc = ⟨sp, q, len.val, true, false⟩)
    (hclean : (judgeAccess s (144 + c.val) acc).1 = 0) :
    execStewardCoreAccess c addr none len ans s = .next (coreLoad (apertureOut s c sp q len.val []) c (slice ans 0 len.val)) := by
  have hfence : fenceCheck s (144 + c.val) acc = (0, s) := Prod.ext hclean (if_pos hclean)
  subst hacc
  simp [execStewardCoreAccess, h, hfence]

theorem coreLoad_aperture_denied {sp q : Nat} (h : coreMap s addr.toNat len.val = .aperture sp q) {acc : Access}
    (hacc : acc = ⟨sp, q, len.val, true, false⟩) (hdenied : (judgeAccess s (144 + c.val) acc).1 ≠ 0) : execStewardCoreAccess c addr none len ans s =
      .next (coreFaults (recordDenial s (144 + c.val) acc (judgeAccess s (144 + c.val) acc)) c len.val false) := by
  subst hacc
  simp [execStewardCoreAccess, h, fenceCheck, hdenied]

theorem coreLoad_outside (h : coreMap s addr.toNat len.val = .outside) :
    execStewardCoreAccess c addr none len ans s = .next (coreFaults s c len.val false) := by
  simp only [execStewardCoreAccess, h, Option.isSome_none]

theorem coreStore_outside (h : coreMap s addr.toNat bs.length = .outside) :
    execStewardCoreAccess c addr (some bs) len ans s = .next (coreFaults s c bs.length true) := by
  simp only [execStewardCoreAccess, h, Option.isSome_some]

end

/-- Settles O33: the path of the address says what the access does. -/
theorem stewardCoreAccessResults : Obligations.StewardCoreAccessResults := by
  intro c addr len bs ans s n
  refine ⟨?loadHbm, ?storeHbm, ?storeRegs, ?loadRegs, ?oddRegs, ?aperture, ?outside, ?storeOutside⟩
  case loadHbm => exact fun a h => coreLoads_hbm h
  case storeHbm => exact fun a h => coreStores_hbm (len := len) (ans := ans) h
  case storeRegs => exact fun o h hsize haligned => coreStores_regs (len := len) (ans := ans) h (mmioOk_iff.mpr ⟨hsize, haligned⟩)
  case loadRegs => exact fun o h hsize haligned => coreLoads_regs h (mmioOk_iff.mpr ⟨hsize, haligned⟩)
  case oddRegs => exact fun o h hsize => coreLoad_regs_faults h (Bool.eq_false_iff.mpr fun hok => hsize (mmioOk_iff.mp hok).1)
  case aperture =>
    intro sp q h acc
    exact ⟨fun hclean => coreLoads_aperture h rfl hclean, fun hdenied => coreLoad_aperture_denied h rfl hdenied⟩
  case outside => exact fun h => coreLoad_outside h
  case storeOutside => exact fun h => coreStore_outside (len := len) (ans := ans) h

end Sys2Proof.Machine

/-! SUPPORT. Timers, counters, traces and the Almanac's periodic write (R396, R402, R406-R418). -/
namespace Sys2Proof.Machine

/-! Timers, counter ticks, dump blocks, bandwidth windows and trace records (R402, R406-R418). -/

section
variable {t : TimerId} {s : State} {n : Nat} {v : Entry} (hv : v = tabVal s 0x32 t) {l : TimerLive} (hl : l = smGet {} s.timers t)
include hv hl

/-- A due one-shot timer without action and event only stops. -/
theorem execTimerExpired_stops (hnext : l.next = some n) (hen : fld v 0 1 = 1) (hdue : n ≤ s.ts) (honce : fld v 24 40 = 0) (hact : fld v 16 2 = 0)
    (hevent : fld v 15 1 = 0) : execTimerExpired t s = .next { s with timers := smSet {} s.timers t { l with next := none } } := by
  subst hv hl
  simp [execTimerExpired, hnext, hen, hdue, honce, hact, hevent]

/-- A due one-shot timer that pulses its pin and raises TIMER. -/
theorem execTimerExpired_pulses (hnext : l.next = some n) (hen : fld v 0 1 = 1) (hdue : n ≤ s.ts) (honce : fld v 24 40 = 0) (hact : fld v 16 2 = 1)
    (hevent : fld v 15 1 = 1) : execTimerExpired t s = .next (raiseEvent
      { s with timers := smSet {} s.timers t { l with next := none, driving := true, pulseEnd := some (s.clock + 1000) } } 0x583 t [s.ts, 0]) := by
  subst hv hl
  simp [execTimerExpired, hnext, hen, hdue, honce, hact, hevent]

end

theorem execTimerPulseEnd_releases {t : TimerId} {s : State} {c : Nat} (hend : (smGet {} s.timers t).pulseEnd = some c) (hdue : c ≤ s.clock) :
    execTimerPulseEnd t s =
      .next { s with timers := smSet {} s.timers t { smGet {} s.timers t with driving := false, pulseEnd := none } } := by
  simp only [execTimerPulseEnd, hend, if_pos hdue]

@[simp] theorem latchAll_sched (s : State) (tk : Nat) : (latchAll s tk).sched = s.cnt.sched := rfl

@[simp] theorem latchAll_schedNew (s : State) (tk : Nat) : (latchAll s tk).schedNew = s.cnt.schedNew := rfl

/-- A tick without a dump and without a new schedule: every counter latches, and the next tick is the next multiple of the period. -/
theorem execCounterTick_latches {s : State} (hdue : s.cnt.nextTick ≤ s.ts) (hold : s.cnt.schedNew = false) (hnone : fld s.cnt.sched 0 2 = 0) :
    execCounterTick s = .next { s with cnt := { latchAll s (tickNow s) with
      nextTick := (s.ts / (fld s.cnt.sched 80 24 * 100000) + 1) * (fld s.cnt.sched 80 24 * 100000) } } := by
  simp [execCounterTick, Nat.not_lt.mpr hdue, hnone, hold]

/-- A dump block to HBM leaves whole and is counted. -/
theorem execDumpBlockComplete_writes {s : State} (hbusy : s.cnt.dumpBusy = true) (hdest : s.cnt.dumpDest = 1) {t : State}
    (ht : t = hbmSend s almanacEp s.cnt.dumpAddr s.cnt.dumpBlock 512) :
    execDumpBlockComplete s = .next (count { t with cnt := { t.cnt with dumpBusy := false, dumpBlock := [] } } (devCtr 11) 1) := by
  subst ht
  simp [execDumpBlockComplete, hbusy, hdest]

/-- A bandwidth window that has ended gives its bytes to the armed window counter and to the peak. -/
theorem execBwWindowEnd_gives {p : PortId} {n : Fin 2} {s : State} {i w st b : Nat} (hi : i = portCtr p (20 + n))
    (hw : w = 2 ^ fld (tabVal s 0x3C i) 5 5 * 1000) (hst : st = smGet 0 s.cnt.winStart i)
    (hb : b = if st % w = 0 then smGet 0 s.cnt.winAcc i else 0) (hend : (st / w + 1) * w ≤ s.ts) (harmed : fld (tabVal s 0x3C i) 0 1 = 1) :
    execBwWindowEnd p n s = .next (peak { s with cnt := { s.cnt with
      winAcc := smSet 0 s.cnt.winAcc i 0, winStart := smSet 0 s.cnt.winStart i (s.ts / w * w), live := smSet 0 s.cnt.live i b } }
        (portCtr p (22 + n)) b) := by
  subst hb hst hw hi
  simp [execBwWindowEnd, Nat.not_lt.mpr hend, harmed]

/-- A held record of a running trace goes to its place in the ring. -/
theorem execTraceRecordWrite_writes {t : TraceId} {s : State} {r : List Word} {rest : List (List Word)} {b : TraceBuf}
    (hb : b = smGet {} s.traces t) {v : Entry} (hv : v = tabVal s 0x3F t)
    (hheld : b.held = r :: rest) (hruns : fld v 0 1 = 1) (hroom : b.full = false) {n : Nat} (hn : n = 2 ^ (fld v 96 4 + 10))
    {full : Bool} (hfull : full = (b.full || b.records + 1 == n)) {u : State}
    (hu : u = setLive (setLive (hbmWrite s (fld v 100 28 * 256 + 32 * (b.records % n)) (wordsBytes r))
      0x3F t 41 31 (min (2 ^ 31 - 1) (b.records + 1))) 0x3F t 18 1 (if full then 1 else 0)) :
    execTraceRecordWrite t s =
      .next { u with traces := smSet {} s.traces t { b with held := rest, records := b.records + 1, full := full } } := by
  have hgoes : ¬(fld v 0 1 = 0 ∨ b.full = true ∧ fld v 72 1 = 1) := by
    rintro (hoff | hwhole)
    · omega
    · exact Bool.eq_false_iff.mp hroom hwhole.1
  subst hu hfull hn hv hb
  unfold execTraceRecordWrite
  extract_lets b v n
  rw [show b.held = r :: rest from hheld]
  exact if_neg hgoes

/-- Settles O36: each command where its object is due. -/
theorem timersCountersAndTraces : Obligations.TimersCountersAndTraces := by
  refine ⟨?timer, ?pulseEnd, ?tick, ?dump, ?window, ?trace, ?periodic⟩
  case timer =>
    intro t s n v l hnext hen hdue honce
    exact ⟨fun hact hevent => execTimerExpired_stops rfl rfl hnext hen hdue honce hact hevent,
      fun hact hevent => execTimerExpired_pulses rfl rfl hnext hen hdue honce hact hevent⟩
  case pulseEnd =>
    intro t s c l hend hdue
    exact execTimerPulseEnd_releases hend hdue
  case tick =>
    intro s hdue hold hnone per
    exact execCounterTick_latches hdue hold hnone
  case dump => exact fun s hbusy hdest => execDumpBlockComplete_writes hbusy hdest rfl
  case window =>
    intro p n s i w st b hend harmed
    exact execBwWindowEnd_gives rfl rfl rfl rfl hend harmed
  case trace =>
    intro t s r rest b v n full hheld hruns hroom
    exact execTraceRecordWrite_writes rfl rfl hheld hruns hroom rfl rfl rfl
  case periodic =>
    intro k s o ho
    refine (?_ : execAlmanacPeriodicWrite k s = _)
    unfold execAlmanacPeriodicWrite
    rw [ho]

end Sys2Proof.Machine

/-! SUPPORT. Management messages and SPDM (R430-R434, R444-R446). -/
namespace Sys2Proof.Machine

/-! Vendor commands by the letter of their source (Table 18.12), and SPDM requests (R432-R434). -/

section
variable {s : State} {src : MctpSrc} {letters : List Nat} {cmd : Nat} {tag : BitVec 16} {f : State → State}

theorem vendor_accepts (h : srcLetter s src ∈ letters) : vendor s src letters cmd tag f = f s :=
  if_pos (List.contains_iff_mem.mpr h)

theorem vendor_denies (h : srcLetter s src ∉ letters) : vendor s src letters cmd tag f = mgmtAnswer s src cmd tag 1 [] :=
  if_neg fun hin => h (List.contains_iff_mem.mp hin)

theorem merVendor_accepts (hrun : s.mer.running = true) (h : srcLetter s src ∈ letters) : merVendor s src letters cmd tag f = f s :=
  (if_pos hrun).trans (vendor_accepts h)

theorem merVendor_waits (hstopped : s.mer.running = false) : merVendor s src letters cmd tag f = s :=
  if_neg (Bool.eq_false_iff.mp hstopped)

end

section
variable {src : MctpSrc} {tag : BitVec 16} {s : State} {body : List Byte}

theorem execPartner_accepted (h : srcLetter s src ∈ fromSIFU) (p : BitVec 8) : execPartner src tag p s = .next (
    if portExists s p.toNat then mgmtAnswer s src 2 tag 0 (partnerBytes p.toNat (partnerOf s p.toNat)) else mgmtAnswer s src 2 tag 5 []) :=
  congrArg Host.Outcome.next (vendor_accepts h)

theorem execAlmanac_accepted (h : srcLetter s src ∈ [0, 1, 2]) (slot : BitVec 32) : execAlmanac src tag slot s = .next (
    if slot.toNat < 20480 then mgmtAnswer s src 3 tag 0 (almBytes (almRecordAt s.alm slot.toNat)) else mgmtAnswer s src 3 tag 5 []) :=
  congrArg Host.Outcome.next (vendor_accepts h)

/-- STEWARD's body of 1 to 8,192 bytes goes to Steward's mailbox while Steward runs. -/
theorem execSteward_accepted (h : srcLetter s src ∈ fromSIFU) (hsome : 1 ≤ body.length) (hfits : body.length ≤ 8192) :
    execSteward src tag body s = .next (
    if s.stw.running then emit { s with stw := { s.stw with mailRx := body } } (.steward 2 body) else mgmtAnswer s src 0x20 tag 5 []) :=
  congrArg Host.Outcome.next ((vendor_accepts h).trans (if_neg (by omega)))

end

/-- MCTP_DISCARD of a message of another type or beyond its length. -/
theorem execMctpDiscard_counts {src : MctpSrc} {typ : BitVec 8} {len : Nat} {s : State}
    (h : typ.toNat ∉ [0x00, 0x05, 0x06, 0x07, 0x7E] ∨ 65600 < len ∨ (typ ≠ 0x7E ∧ 8256 < len)) :
    execMctpDiscard src typ len s = .next { s with mctp := { s.mctp with discarded := s.mctp.discarded + 1 } } := by
  refine if_pos (h.imp_left fun hother => ?_)
  simpa using hother

section
variable {via : SpdmVia} {s : State} (hrun : s.mer.running = true) (hvia : viaOk s via = true)
include hrun hvia

theorem spdm_answers {f : State → State} : spdm s via f = f s := if_pos (by rw [hrun, hvia]; rfl)

theorem execGetMeasurements_one {idx : BitVec 8} (hlow : 1 ≤ idx.toNat) (hhigh : idx.toNat ≤ 7) : execGetMeasurements via idx s =
    .next (spdmSend s via 0x60 (measurement s idx.toNat ++ Config.ecdsaSign s.mer.aliasSeed (sha (measurement s idx.toNat)))) := by
  have hfirst : idx ≠ 0 := by rintro rfl; exact absurd hlow (by decide)
  have hlast : idx ≠ 0xFF := by rintro rfl; exact absurd hhigh (by decide)
  refine congrArg Host.Outcome.next ((spdm_answers hrun hvia).trans ((if_neg fun h => Nat.not_lt.mpr hhigh h.1).trans ?_))
  rw [if_neg hfirst, if_neg hlast]

theorem execGetMeasurements_beyond {idx : BitVec 8} (hhigh : 7 < idx.toNat) (hone : idx ≠ 0xFF) :
    execGetMeasurements via idx s = .next (spdmSend s via 0x7F []) :=
  congrArg Host.Outcome.next ((spdm_answers hrun hvia).trans (if_pos ⟨hhigh, hone⟩))

theorem execKeyExchange_full {peer : Word} {root : List Byte} (hfull : freeSession s = none) :
    execKeyExchange via peer root s = .next (spdmSend s via 0x7F []) := by
  refine congrArg Host.Outcome.next ((spdm_answers hrun hvia).trans ?_)
  simp only [hfull]

/-- The port a session's transport stands at; 0 for the MCTP bindings. -/
def viaPort : SpdmVia → Nat
  | .mgmt p => p.val
  | .doe p => p.val
  | .mctp _ => 0

/-- A root that the device trusts: Ahnikar's, or the content of an anchor slot from 1 to 7. -/
def RootAnchored (s : State) (root : List Byte) : Prop :=
  root = Config.ahnikarRoot ∨ ∃ k, k < 7 ∧ smGet [] s.sec.anchors (k + 1) = root ∧ root ≠ []

omit hrun hvia in
theorem rootAnchored_decides {root : List Byte} (h : RootAnchored s root) :
    (root == Config.ahnikarRoot || (List.range 7).any fun i => smGet [] s.sec.anchors (i + 1) == root && root != []) = true := by
  rw [Bool.or_eq_true, beq_iff_eq, List.any_eq_true]
  refine h.imp_right fun ⟨k, hk, heq, hne⟩ => ⟨k, List.mem_range.mpr hk, ?_⟩
  rw [Bool.and_eq_true, beq_iff_eq, bne_iff_ne]
  exact ⟨heq, hne⟩

/-- KEY_EXCHANGE establishes the lowest free session; over MGMT_MSG the peer's root must be trusted. -/
theorem execKeyExchange_opens {peer : Word} {root : List Byte} {i : Nat} (hfree : freeSession s = some i)
    (hroot : (∃ p, via = .mgmt p) → RootAnchored s root) {x : Session}
    (hx : x = { transport := viaOf via, port := viaPort via, deadline := s.clock + 60000000000, peer := peer.toNat, keyGen := s.freeCtr }) :
    execKeyExchange via peer root s =
      .next (spdmSend { s with mer := { s.mer with sessions := smPut s.mer.sessions i x }, freeCtr := s.freeCtr + 1 } via 0x64 (natBytes 2 i)) := by
  subst hx
  refine congrArg Host.Outcome.next ((spdm_answers hrun hvia).trans ?_)
  simp only [hfree]
  cases via with
  | mgmt p => exact if_neg (by rw [rootAnchored_decides (hroot ⟨p, rfl⟩)]; exact Bool.false_ne_true)
  | doe p => rfl
  | mctp src => rfl

end

section
variable {s : State} {sess : BitVec 16} {x : Session} (hx : sessionOf s sess.toNat = some x)
include hx

theorem onSession_changes (hrun : s.mer.running = true) (f : Session → Session) :
    onSession s sess.toNat f = { s with mer := { s.mer with sessions := smPut s.mer.sessions sess.toNat (f x) } } := by
  unfold onSession
  rw [hx]
  exact if_pos hrun

theorem execSpdmHeartbeatTimeout_session : execSpdmHeartbeatTimeout sess s =
    if x.deadline ≤ s.clock then .next { s with mer := { s.mer with sessions := smDel s.mer.sessions sess.toNat } } else .next s := by
  unfold execSpdmHeartbeatTimeout
  rw [hx]

end

/-- Settles O53: each message by its source, its transport or its session. The codes and contents of SPDM messages and
the peer check of MGMT_MSG alone (log 13), the UUID and Steward's mailbox as a binding (log 26), and that a KEY_UPDATE keeps the secret of its session
while only heartbeats restart the 60 s (log 90) are the model's. -/
theorem managementAndSpdmMessages : Obligations.ManagementAndSpdmMessages := by
  refine ⟨?control, ?vendors, ?spdm, ?sessions, fun addr s => rfl⟩
  case control => exact fun src s => ⟨fun eid => rfl, rfl, rfl, rfl, rfl, rfl, fun typ len h => execMctpDiscard_counts h⟩
  case vendors =>
    intro src tag s ans l
    refine ⟨?chart, ?partner, ?partnerNone, ?almanac, ?almanacNone, ?legend, ?steward, ?stewardOff, ?denied, ?admits, fun hstop => ?admitWaits⟩
    case chart => exact fun h entry words => congrArg Host.Outcome.next (vendor_accepts h)
    case partner => exact fun h p hp => (execPartner_accepted h p).trans (congrArg Host.Outcome.next (if_pos hp))
    case partnerNone => exact fun h p hp => (execPartner_accepted h p).trans (congrArg Host.Outcome.next (if_neg (Bool.eq_false_iff.mp hp)))
    case almanac => exact fun h slot hslot => (execAlmanac_accepted h slot).trans (congrArg Host.Outcome.next (if_pos hslot))
    case almanacNone => exact fun h slot hslot => (execAlmanac_accepted h slot).trans (congrArg Host.Outcome.next (if_neg (Nat.not_lt.mpr hslot)))
    case legend => exact fun h => congrArg Host.Outcome.next (vendor_accepts h)
    case steward => exact fun h body hsome hfits hrun => (execSteward_accepted h hsome hfits).trans (congrArg Host.Outcome.next (if_pos hrun))
    case stewardOff =>
      exact fun h body hsome hfits hoff => (execSteward_accepted h hsome hfits).trans (congrArg Host.Outcome.next (if_neg (Bool.eq_false_iff.mp hoff)))
    case denied =>
      exact fun h => ⟨congrArg Host.Outcome.next (vendor_denies h), fun p => congrArg Host.Outcome.next (vendor_denies h),
        fun body => congrArg Host.Outcome.next (vendor_denies h), fun entry words => congrArg Host.Outcome.next (vendor_denies h)⟩
    case admits =>
      exact fun hrun h => ⟨congrArg Host.Outcome.next (merVendor_accepts hrun h), fun mask => congrArg Host.Outcome.next (merVendor_accepts hrun h)⟩
    case admitWaits => exact congrArg Host.Outcome.next (merVendor_waits hstop)
  case spdm =>
    intro via s hrun hvia ans
    have hanswers : ∀ f : State → State, (.next (spdm s via f) : Res) = .next (f s) := fun f => congrArg Host.Outcome.next (spdm_answers hrun hvia)
    refine ⟨hanswers _, hanswers _, hanswers _, hanswers _, hanswers _, ?noCertificate, fun nonce => hanswers _, ?measured, ?unmeasured, ?full, ?opened⟩
    case noCertificate =>
      exact fun slot hslot => (hanswers _).trans (congrArg Host.Outcome.next (if_neg fun h0 => hslot (Fin.ext h0)))
    case measured => exact fun idx hlow hhigh => execGetMeasurements_one hrun hvia hlow hhigh
    case unmeasured => exact fun idx hhigh hone => execGetMeasurements_beyond hrun hvia hhigh hone
    case full => exact fun peer root hfull => execKeyExchange_full hrun hvia hfull
    case opened =>
      intro peer root i hfree hroot x
      exact execKeyExchange_opens hrun hvia hfree hroot (by cases via <;> rfl)
  case sessions =>
    intro sess s x hx
    refine ⟨fun hrun => ⟨congrArg Host.Outcome.next (onSession_changes hx hrun _),
      congrArg Host.Outcome.next (onSession_changes hx hrun _)⟩, rfl, ?ends, ?lives⟩
    case ends => exact fun hdue => (execSpdmHeartbeatTimeout_session hx).trans (if_pos hdue)
    case lives => exact fun hearly => (execSpdmHeartbeatTimeout_session hx).trans (if_neg (Nat.not_le.mpr hearly))

end Sys2Proof.Machine

/-! SUPPORT. Firmware staging and update, and the macros of Root tier (R262, R266, R424-R443, R452). -/
namespace Sys2Proof.Machine

/-! Firmware messages from a source that a running Meridian accepts (R429). -/

section
variable {src : MctpSrc} {tag : BitVec 16} {s : State} (hrun : s.mer.running = true) (hsrc : srcLetter s src ∈ fromSIFM)
include hrun hsrc

/-- FW_BEGIN of a Cartouche that passes opens a staging and empties its target. -/
theorem execFwBegin_opens {cart : List Byte} {k t : Nat} (hk : k = cartKind cart) (ht : t = stagingTarget s k) {s1 : State}
    (hs1 : s1 = setTarget s k t { cart := cart, bytes := [], valid := false }) (hclosed : s.mer.staging = none) (hkind : k = 1 ∨ k = 2)
    (hcart : cartOk s k cart = true) : execFwBegin src tag cart s = .next (mgmtAnswer { s1 with mer := { s1.mer with
      staging := some ⟨k, t, cart, [], s1.clock⟩, staged := if s1.mer.staged = some t ∧ k = 2 then none else s1.mer.staged } } src 0x10 tag 0 []) := by
  have hpasses : ((k == 1 || k == 2) && cartOk s k cart) = true := by
    rw [hcart, Bool.and_true, Bool.or_eq_true, beq_iff_eq, beq_iff_eq]
    exact hkind
  subst hs1 ht hk
  refine congrArg Host.Outcome.next ((merVendor_accepts hrun hsrc).trans ((if_neg ?_).trans (if_neg (not_fails hpasses))))
  rw [hclosed]
  exact Bool.false_ne_true

theorem execFwBegin_invalid {cart : List Byte} {k : Nat} (hk : k = cartKind cart) (hclosed : s.mer.staging = none)
    (hfails : ¬((k = 1 ∨ k = 2) ∧ cartOk s k cart = true)) : execFwBegin src tag cart s = .next (mgmtAnswer s src 0x10 tag 6 []) := by
  have hno : (!((k == 1 || k == 2) && cartOk s k cart)) = true := by
    rw [Bool.not_eq_true', Bool.eq_false_iff, Ne, Bool.and_eq_true, Bool.or_eq_true, beq_iff_eq, beq_iff_eq]
    exact hfails
  subst hk
  refine congrArg Host.Outcome.next ((merVendor_accepts hrun hsrc).trans ((if_neg ?_).trans (if_pos hno)))
  rw [hclosed]
  exact Bool.false_ne_true

theorem execFwBegin_busy {cart : List Byte} {g : Staging} (hopen : s.mer.staging = some g) :
    execFwBegin src tag cart s = .next (mgmtAnswer s src 0x10 tag 3 []) :=
  congrArg Host.Outcome.next ((merVendor_accepts hrun hsrc).trans (if_pos (congrArg Option.isSome hopen)))

theorem execFwData_absent {off : BitVec 32} {data : List Byte} (hclosed : s.mer.staging = none) :
    execFwData src tag off data s = .next (mgmtAnswer s src 0x11 tag 5 []) := by
  refine congrArg Host.Outcome.next ((merVendor_accepts hrun hsrc).trans ?_)
  simp only [hclosed]

/-- FW_DATA takes the next chunk. -/
theorem execFwData_takes {off : BitVec 32} {data : List Byte} {g : Staging} (hopen : s.mer.staging = some g) (hsome : data.length ≠ 0)
    (hfits : data.length ≤ 4096) (hnext : off.toNat = 256 + g.got.length) (hroom : g.got.length + data.length ≤ cartLength g.cart) {s1 : State}
    (hs1 : s1 = setTarget s g.kind g.target { cart := g.cart, bytes := g.got ++ data, valid := false }) : execFwData src tag off data s =
      .next (mgmtAnswer { s1 with mer := { s1.mer with staging := some { g with got := g.got ++ data, last := s1.clock } } } src 0x11 tag 0 []) := by
  have hgoes : ¬(data.length = 0 ∨ 4096 < data.length ∨ off.toNat ≠ 256 + g.got.length ∨ cartLength g.cart < g.got.length + data.length) := by omega
  subst hs1
  refine congrArg Host.Outcome.next ((merVendor_accepts hrun hsrc).trans ?_)
  simp only [hopen]
  exact if_neg hgoes

theorem execFwEnd_absent (hclosed : s.mer.staging = none) : execFwEnd src tag s = .next (mgmtAnswer s src 0x12 tag 5 []) := by
  refine congrArg Host.Outcome.next ((merVendor_accepts hrun hsrc).trans ?_)
  simp only [hclosed]

/-- FW_END marks the target valid where length and digest agree, else empty. -/
theorem execFwEnd_closes {g : Staging} (hopen : s.mer.staging = some g) {ok : Bool}
    (hok : ok = (g.got.length == cartLength g.cart && cartDigest g.cart == sha g.got)) {s1 : State}
    (hs1 : s1 = setTarget s g.kind g.target (if ok then { cart := g.cart, bytes := g.got, valid := true } else {})) :
    execFwEnd src tag s = .next (mgmtAnswer { s1 with mer := { s1.mer with
      staging := none, staged := if ok ∧ g.kind = 2 then some g.target else s1.mer.staged } } src 0x12 tag (if ok then 0 else 6) []) := by
  subst hs1 hok
  refine congrArg Host.Outcome.next ((merVendor_accepts hrun hsrc).trans ?_)
  simp only [hopen]

theorem execFwActivatePreferred_busy {g : Staging} (hopen : s.mer.staging = some g) :
    execFwActivatePreferred src tag s = .next (mgmtAnswer s src 0x13 tag 3 []) :=
  congrArg Host.Outcome.next ((merVendor_accepts hrun hsrc).trans (if_pos (congrArg Option.isSome hopen)))

theorem execFwActivatePreferred_takes (hclosed : s.mer.staging = none) {b : Nat} (hstaged : s.mer.staged = some b) :
    execFwActivatePreferred src tag s = .next (mgmtAnswer { s with sec := { s.sec with prefBank := b } } src 0x13 tag 0 []) := by
  refine congrArg Host.Outcome.next ((merVendor_accepts hrun hsrc).trans ?_)
  simp only [hclosed, hstaged, Option.isSome_none, Bool.false_eq_true, if_false]

theorem execFwActivatePreferred_invalid (hclosed : s.mer.staging = none) (hnone : s.mer.staged = none) :
    execFwActivatePreferred src tag s = .next (mgmtAnswer s src 0x13 tag 6 []) := by
  refine congrArg Host.Outcome.next ((merVendor_accepts hrun hsrc).trans ?_)
  simp only [hclosed, hnone, Option.isSome_none, Bool.false_eq_true, if_false]

/-- FW_ACTIVATE copies a valid staged image into the other slot of HP0 and asks Steward for handover. -/
theorem execFwActivateLive_copies (hclosed : s.mer.staging = none) {b : Nat} (hstaged : s.mer.staged = some b) (hidle : s.mer.upd = none)
    {ms : BitVec 16} (hms : ms.toNat ≤ 1000) (himage : imageOk s 2 (bankOf s b) = true) {t slot : Nat} (ht : t = if ms = 0 then 100 else ms.toNat)
    (hslot : slot = 1 - s.stw.slot % 2) {s1 : State} (hs1 : s1 = hbmWrite s (slotAddr slot) ((bankOf s b).cart ++ (bankOf s b).bytes)) :
    execFwActivateLive src tag ms s = .next (mgmtAnswer
      (emit { s1 with mer := { s1.mer with upd := some ⟨2, slot, b, s1.clock + t * 1000000, false⟩ } } (.steward 1 [])) src 0x13 tag 0 []) := by
  have hfree : ¬(s.mer.staging.isSome = true ∨ s.mer.upd.isSome = true) := by
    rw [hclosed, hidle]
    decide
  have htime : ¬1000 < if ms = 0 then 100 else ms.toNat := by
    split <;> omega
  subst hs1 hslot ht
  refine congrArg Host.Outcome.next ((merVendor_accepts hrun hsrc).trans ((if_neg hfree).trans ?_))
  simp only [hstaged]
  exact (if_neg htime).trans (if_neg (not_fails himage))

end

theorem execFwStagingTimeout_open {s : State} {g : Staging} (hopen : s.mer.staging = some g) {s1 : State} (hs1 : s1 = setTarget s g.kind g.target {}) :
    execFwStagingTimeout s = if g.last + 10000000000 ≤ s.clock then .next { s1 with mer := { s1.mer with staging := none } } else .next s := by
  subst hs1
  unfold execFwStagingTimeout
  rw [hopen]

/-! The live update's steps (R443). -/

section
variable {s : State} {u : LiveUpd} (hupd : s.mer.upd = some u)
include hupd

theorem execReady_holds (hstep : u.step = 2) (hrun : s.mer.running = true) : execReady s = .next (handoverHold s u true) := by
  simp only [execReady, hupd]
  exact if_pos ⟨hstep, hrun⟩

theorem execHandoverTimeout_holds (hstep : u.step = 2) (hrun : s.mer.running = true) (hdue : u.deadline ≤ s.clock) :
    execHandoverTimeout s = .next (handoverHold s u false) := by
  simp only [execHandoverTimeout, hupd]
  exact if_pos ⟨hstep, hdue, hrun⟩

theorem execEnginePause_switches (hstep : u.step = 5) (hfree : s.paused = none) :
    execEnginePause s = .next (switchMeasure { s with paused := some s.clock } u) := by
  simp only [execEnginePause, hupd]
  exact if_pos ⟨hstep, congrArg Option.isNone hfree⟩

theorem execEngineResume_submits {t : Nat} (hpaused : s.paused = some t) : execEngineResume s = .next (submitResume
    { s with paused := none, engines := s.engines.map fun e => (e.1, addPause s t e.2),
             mer := { s.mer with upd := some { u with step := 6 } }, stw := { s.stw with slot := u.slot } } u) := by
  simp only [execEngineResume, hupd, hpaused]

end

theorem execMeasurementReport_extends {s : State} (hrun : s.mer.running = true) {r : Report} {rest : List Report} (hreports : s.mer.reports = r :: rest) :
    execMeasurementReport s = .next { s with mer := { s.mer with
      reports := rest, chain := sha (s.mer.chain ++ natBytes 8 r.k ++ sha (reportBytes r.entries)), chainK := r.k } } := by
  simp only [execMeasurementReport, hreports]
  exact if_pos hrun

/-! The macros of Root tier on a global engine (Table 18.12a, R266, R452). -/

section
variable {e : EngineId} {s : State} (hglobal : 12 ≤ e.val) {y : Engine} (hy : y = regSet (engineOf s e) 1 0) {b : Nat → Word}
  (hb : b = blockWord (engineOf s e) (wordAt (engineOf s e)))
include hglobal hy hb

section
variable (h : Runs s e 0xF0) (hblock : blockStatus (engineOf s e) (wordAt (engineOf s e)) [rowBits [(9, 0), (15, 12)], allBits] 0 = 0)
  (hmask : wfld (b 0) 0 8 ≠ 0) (hkind : wfld (b 0) 12 4 ≤ 2) {action : Nat} (haction : wfld (b 0) 8 2 = action) (hknown : action ≠ 3)
  {f : State → Word → Word → Nat × State}
include h hblock hmask hkind haction hknown

omit hy in
/-- MER.STEWARD with a block that passes applies its action. -/
theorem merStewardAct_applies : merStewardAct e s action f =
    finish (f s (b 0) (b 1)).2 e (regSet (engineOf s e) 1 0) (f s (b 0) (b 1)).1 := by
  subst hb
  have hgoes : ¬(wfld (blockWord (engineOf s e) (wordAt (engineOf s e)) 0) 8 2 = 3 ∨ wfld (blockWord (engineOf s e) (wordAt (engineOf s e)) 0) 0 8 = 0 ∨
      2 < wfld (blockWord (engineOf s e) (wordAt (engineOf s e)) 0) 12 4) := by omega
  refine (onOp_stands h.1 _).trans ?_
  exact (if_neg fun hother => hother.2.1 haction).trans ((if_neg (Nat.not_lt.mpr hglobal)).trans ((if_neg (not_not_intro hblock)).trans (if_neg hgoes)))

theorem merStewardAct_ok {t : State} (hf : f s (b 0) (b 1) = (0, t)) : merStewardAct e s action f = moveOk t e y := by
  rw [merStewardAct_applies hglobal hb h hblock hmask hkind haction hknown, hf, hy]
  exact finish_moveOk _ _ _ (by simpa using h.2)

theorem merStewardAct_busy (hf : f s (b 0) (b 1) = (3, s)) : merStewardAct e s action f = endChart (setEngine s e y) e 3 y.pc := by
  rw [merStewardAct_applies hglobal hb h hblock hmask hkind haction hknown, hf, hy]
  exact finish_bad _ _ _ 3 (by decide)

end

/-- MER.LEGEND writes the version that its block names and advances LGEN. -/
theorem execMerLegend_writes (h : Runs s e 0xF1) (hblock : blockStatus (engineOf s e) (wordAt (engineOf s e)) [rowBits [(0, 0)], allBits] 0 = 0)
    {l : Legend} (hl : l = if wfld (b 0) 0 1 = 0 then { s.legend with merVer := b 1 } else { s.legend with stwVer := b 1 }) :
    execMerLegend e s = .next (moveOk { s with legend := { l with lgen := (l.lgen + 1) % 2 ^ 32 } } e y) := by
  subst hl hb hy
  refine congrArg Host.Outcome.next (onOp_finishes h ?_ (regSet_pc ..) (regSet_ninstr ..))
  exact (if_neg (Nat.not_lt.mpr hglobal)).trans (if_neg (not_not_intro hblock))

end

section
variable {e : EngineId} {s : State} (h : Begins s e 0xF2 [rowBits [(1, 0), (11, 4)]] 0 .glob true) {y : Engine} (hy : y = regSet (engineOf s e) 1 0)
  {b : Nat → Word} (hb : b = blockWord (engineOf s e) (wordAt (engineOf s e))) {scope : Nat} (hscope : wfld (b 0) 0 2 = scope) (hknown : scope ≠ 3)
include h hy hb hscope hknown

/-- MER.RESET of the scope that its block names. -/
theorem merReset_begins {f : State → Engine → Nat → State} : merReset e s scope f = f s y (wfld (b 0) 4 8) := by
  subst hy hb
  refine (onOp_stands h.1.1 _).trans ((if_neg (not_not_intro h.2.1)).trans ?_)
  refine (if_neg fun hother => hother.2.1 hscope).trans ((if_neg (not_not_intro h.2.2)).trans (if_neg ?_))
  rw [hscope]
  exact hknown

end

/-- Settles O54: each message, step and macro where its conditions hold. The offsets of FW_DATA (log 8), the default of HANDOVER_MS (log 9), the target
of a staging (log 27) and that MER.RESET of the chip has no completion (log 79) are the model's. -/
theorem firmwareUpdatesAndRootMacros : Obligations.FirmwareUpdatesAndRootMacros := by
  refine ⟨?messages, ?abandoned, ?update, fun s r rest hrun hreports => execMeasurementReport_extends hrun hreports, ?macros⟩
  case messages =>
    intro src tag s hrun hsrc ans
    refine ⟨?noStaging, fun g hopen => ⟨?busy, ?preferBusy, ?data, ?closes⟩⟩
    case noStaging =>
      intro hclosed cart k t s1
      refine ⟨?opens, ?invalid, ?noData, ?noEnd, ?prefers, ?noneStaged, ?live⟩
      case opens => exact fun hkind hcart => execFwBegin_opens hrun hsrc rfl rfl rfl hclosed hkind hcart
      case invalid => exact fun hfails => execFwBegin_invalid hrun hsrc rfl hclosed hfails
      case noData => exact fun off data => execFwData_absent hrun hsrc hclosed
      case noEnd => exact execFwEnd_absent hrun hsrc hclosed
      case prefers => exact fun b hstaged => execFwActivatePreferred_takes hrun hsrc hclosed hstaged
      case noneStaged => exact fun hnone => execFwActivatePreferred_invalid hrun hsrc hclosed hnone
      case live =>
        intro b ms hstaged hidle hms himage t slot s1
        exact execFwActivateLive_copies hrun hsrc hclosed hstaged hidle hms himage rfl rfl rfl
    case busy => exact fun cart => execFwBegin_busy hrun hsrc hopen
    case preferBusy => exact execFwActivatePreferred_busy hrun hsrc hopen
    case data =>
      intro off data hsome hfits hnext hroom s1
      exact execFwData_takes hrun hsrc hopen hsome hfits hnext hroom rfl
    case closes =>
      intro ok s1
      exact execFwEnd_closes hrun hsrc hopen rfl rfl
  case abandoned =>
    intro s g hopen
    exact ⟨fun hdue => (execFwStagingTimeout_open hopen rfl).trans (if_pos hdue),
      fun hearly => (execFwStagingTimeout_open hopen rfl).trans (if_neg (Nat.not_le.mpr hearly))⟩
  case update =>
    intro s u hupd
    refine ⟨?ready, ?timeout, ?pause, ?resume⟩
    case ready => exact fun hstep hrun => execReady_holds hupd hstep hrun
    case timeout => exact fun hstep hrun hdue => execHandoverTimeout_holds hupd hstep hrun hdue
    case pause => exact fun hstep hfree => execEnginePause_switches hupd hstep hfree
    case resume =>
      intro t hpaused c s1
      exact execEngineResume_submits hupd hpaused
  case macros =>
    intro e s hglobal x b m y
    refine ⟨fun h hblock hmask hkind => ⟨?hold, ?release, ?releaseBusy, ?resetCores⟩, fun h hblock => ⟨?merVer, ?stwVer⟩,
      fun h => ⟨?chip, ?frozen, ?running, ?port⟩⟩
    case hold =>
      exact fun haction => congrArg Host.Outcome.next (merStewardAct_ok hglobal rfl rfl h hblock hmask hkind haction (by decide) rfl)
    case release =>
      exact fun haction hheld => congrArg Host.Outcome.next
        (merStewardAct_ok hglobal rfl rfl h hblock hmask hkind haction (by decide) (if_neg (not_not_intro hheld)))
    case releaseBusy =>
      exact fun haction hfree => congrArg Host.Outcome.next
        (merStewardAct_busy hglobal rfl rfl h hblock hmask hkind haction (by decide) (if_pos hfree))
    case resetCores =>
      exact fun haction => congrArg Host.Outcome.next (merStewardAct_ok hglobal rfl rfl h hblock hmask hkind haction (by decide) rfl)
    case merVer => exact fun hsel => execMerLegend_writes hglobal rfl rfl h hblock (if_pos hsel).symm
    case stwVer => exact fun hsel => execMerLegend_writes hglobal rfl rfl h hblock (if_neg fun h0 => absurd (hsel.symm.trans h0) (by decide)).symm
    case chip => exact fun hscope => congrArg Host.Outcome.next (merReset_begins h rfl rfl hscope (by decide))
    case frozen =>
      refine fun hscope htile hst => congrArg Host.Outcome.next ((merReset_begins h rfl rfl hscope (by decide)).trans ?_)
      refine (if_neg (Nat.not_le.mpr htile)).trans ((if_neg fun h0 => absurd (hst.symm.trans h0) (by decide)).trans
        ((if_pos hst).trans (finish_moveOk _ _ _ ?_)))
      simpa using h.1.2
    case running =>
      refine fun hscope htile hst => congrArg Host.Outcome.next ((merReset_begins h rfl rfl hscope (by decide)).trans ?_)
      exact (if_neg (Nat.not_le.mpr htile)).trans (if_pos hst)
    case port =>
      intro p t hscope hexists hfree
      refine congrArg Host.Outcome.next ((merReset_begins h rfl rfl hscope (by decide)).trans ?_)
      exact (if_neg (not_fails hexists)).trans (if_neg (not_not_intro hfree))

end Sys2Proof.Machine

/-! SUPPORT. Resets of the chip and of Meridian, and the steps of the boot (R23, R425-R459). -/
namespace Sys2Proof.Machine

/-! What the operations of a reset leave alone: pins, tables, the Legend. -/

theorem perstAssert_pins (s : State) (v : Entry) : ∃ m, perstAssert s v = { s with pinLow := m } := by
  unfold perstAssert
  split
  · exact ⟨_, rfl⟩
  · exact ⟨s.pinLow, rfl⟩

theorem foldl_perstAssert_pins {α : Type} (v : State → α → Entry) (cs : List α) (s : State) :
    ∃ m, cs.foldl (fun s c => perstAssert s (v s c)) s = { s with pinLow := m } := by
  induction cs generalizing s with
  | nil => exact ⟨s.pinLow, rfl⟩
  | cons c cs ih =>
    obtain ⟨m, hm⟩ := perstAssert_pins s (v s c)
    obtain ⟨n, hn⟩ := ih { s with pinLow := m }
    exact ⟨n, (congrArg (cs.foldl fun s c => perstAssert s (v s c)) hm).trans hn⟩

theorem perstAll_pins (s : State) : ∃ m, perstAll s = { s with pinLow := m } := foldl_perstAssert_pins (fun s c => tabVal s 0x38 c) _ s

theorem slotsReset_pins (s : State) : ∃ m, slotsReset s = { s with pinLow := m, slots := [] } := by
  obtain ⟨m, hm⟩ := foldl_perstAssert_pins slotEff (List.range 32) s
  exact ⟨m, congrArg (fun t : State => { t with slots := [] }) hm⟩

theorem foldl_setTab_tables {α : Type} (t : Nat) (i : State → α → Nat) (v : State → α → Entry) (ks : List α) (s : State) :
    ∃ m, ks.foldl (fun s k => setTab s t (i s k) (v s k) 0) s = { s with tab := m } := by
  induction ks generalizing s with
  | nil => exact ⟨s.tab, rfl⟩
  | cons k ks ih => exact ih (setTab s t (i s k) (v s k) 0)

theorem strapTables_tables (s : State) (slots : Bool) : ∃ m, strapTables s slots = { s with tab := m } := by
  obtain ⟨m1, h1⟩ := foldl_setTab_tables 0x01 (fun _ i => i) (fun s i => strapEntry s 0x01 i) (List.range 96) s
  obtain ⟨m2, h2⟩ := foldl_setTab_tables 0x0B (fun _ i => i) (fun s i => strapEntry s 0x0B i) (List.range 12) { s with tab := m1 }
  obtain ⟨m3, h3⟩ := foldl_setTab_tables 0x3E (fun _ i => i) (fun s i => strapEntry s 0x3E i) (List.range 12) { s with tab := m2 }
  obtain ⟨m4, h4⟩ := foldl_setTab_tables 0x38 (fun _ i => i) (fun s i => strapEntry s 0x38 i) (List.range 32) { s with tab := m3 }
  unfold strapTables
  extract_lets put s1
  have hs1 : s1 = { s with tab := m3 } := (congrArg (fun t => put 0x3E 12 (put 0x0B 12 t)) h1).trans ((congrArg (put 0x3E 12) h2).trans h3)
  rw [hs1]
  split
  · exact ⟨m4, h4⟩
  · exact ⟨m3, rfl⟩

theorem legendSync_legend (s t : State) : ∃ l, legendSync s t = { t with legend := l } := by
  unfold legendSync
  split
  · exact ⟨t.legend, rfl⟩
  · exact ⟨_, rfl⟩

theorem coldReset_leaves (s : State) : coldReset s = { State.reset with
    pending := s.pending, clock := s.clock, freeCtr := s.freeCtr, out := s.out, sec := s.sec, settings := s.settings, refPair := s.refPair
    alm := { State.reset.alm with opened := s.alm.opened, slots := s.alm.slots, next := s.alm.next, foundUsed := s.alm.foundUsed }
    mer := { State.reset.mer with mer0 := s.mer.mer0, mer1 := s.mer.mer1, flashA := s.mer.flashA, flashB := s.mer.flashB, staged := s.mer.staged }
    legend := { State.reset.legend with lgen := s.legend.lgen } } := by
  obtain ⟨m, hm⟩ := slotsReset_pins s
  unfold coldReset
  rw [hm]

/-- What a warm reset leaves of p before the straps' tables and the boot: p is the state after the flush, with PERST# asserted. -/
def warmCleared (p : State) : State :=
  let s := functionClaimsFreed (allCountersZero (stewardReset (renumber (fabricReset p))))
  { s with locks := [], mer := { s.mer with upd := none } }

theorem warmReset_eq (s : State) : warmReset s = { strapTables (warmCleared (perstAll (beforeReset s))) false with
    boot := { straps := (perstAll (beforeReset s)).boot.straps, pwrOk := true, warm := some (perstAll (beforeReset s)).clock
              thermtrip := (perstAll (beforeReset s)).boot.thermtrip } } := rfl

/-- A warm reset, after u, what precedes it. -/
theorem warmReset_leaves {s u : State} (hu : u = beforeReset s) : (warmReset s).hbm = [] ∧ (warmReset s).engines = [] ∧ (warmReset s).txns = [] ∧
    (warmReset s).commitNum = 0 ∧ (warmReset s).locks = [] ∧
    (warmReset s).boot = { straps := u.boot.straps, pwrOk := true, warm := some u.clock, thermtrip := u.boot.thermtrip } ∧
    (warmReset s).mer.running = u.mer.running ∧ (warmReset s).mer.upd = none ∧ (warmReset s).sec = u.sec ∧ (warmReset s).clock = u.clock := by
  obtain ⟨m, hm⟩ := perstAll_pins u
  obtain ⟨k, hk⟩ := strapTables_tables (warmCleared { u with pinLow := m }) false
  rw [warmReset_eq, ← hu, hm, hk]
  exact ⟨rfl, rfl, rfl, rfl, rfl, rfl, rfl, rfl, rfl, rfl⟩

/-! A reset of Meridian (R454). -/

theorem raiseEvent_changes (s : State) (esid subj : Nat) (p : List Nat) :
    ∃ ev alm cnt, raiseEvent s esid subj p = { s with ev := ev, alm := alm, cnt := cnt } := by
  unfold raiseEvent
  split
  · exact ⟨_, _, _, rfl⟩
  · exact ⟨_, _, _, rfl⟩

theorem closeScope_changes (s : State) (cause : Nat) : ∃ expiry ev alm cnt,
    closeScope s cause = { s with dbg := { s.dbg with scope := 0, expiry := expiry }, ev := ev, alm := alm, cnt := cnt } := by
  unfold closeScope
  split
  next hclosed =>
    have hdbg : s.dbg = { s.dbg with scope := 0 } := congrArg (fun n => { s.dbg with scope := n }) hclosed
    exact ⟨s.dbg.expiry, s.ev, s.alm, s.cnt, congrArg (fun d => { s with dbg := d }) hdbg⟩
  next =>
    obtain ⟨ev, alm, cnt, h⟩ := raiseEvent_changes { s with dbg := { s.dbg with scope := 0, expiry := 0 } } 0x506 0 [cause]
    exact ⟨0, ev, alm, cnt, h⟩

theorem setTarget_mer (s : State) (kind t : Nat) (m : Image) : ∃ r, setTarget s kind t m = { s with mer := r } := ⟨_, rfl⟩

theorem meridianReset_leaves (s : State) : (meridianReset s).mer.running = false ∧ (meridianReset s).mer.restartAt = some (s.clock + 6000000) ∧
    (meridianReset s).mer.sessions = [] ∧ (meridianReset s).mer.nonce = none ∧ (meridianReset s).dbg.scope = 0 ∧ (meridianReset s).dbg.nonce = none ∧
    (meridianReset s).mer.staging = none ∧ (meridianReset s).locks = s.locks ∧ (meridianReset s).sec = s.sec ∧ (meridianReset s).tab = s.tab ∧
    (meridianReset s).engines = s.engines := by
  obtain ⟨expiry, ev, alm, cnt, hclosed⟩ := closeScope_changes s 4
  have habandoned : ∃ r, (match (closeScope s 4).mer.staging with | some g => setTarget (closeScope s 4) g.kind g.target {} | none => closeScope s 4) =
      { closeScope s 4 with mer := r } := by
    split
    · exact setTarget_mer ..
    · exact ⟨_, rfl⟩
  obtain ⟨r, hr⟩ := habandoned
  unfold meridianReset
  extract_lets s1 s2
  have hs2 : s2 = { s with dbg := { s.dbg with scope := 0, expiry := expiry }, ev := ev, alm := alm, cnt := cnt, mer := r } :=
    hr.trans (congrArg (fun t : State => { t with mer := r }) hclosed)
  have hclock : s2.clock = s.clock := by rw [hs2]
  have hscope : s2.dbg.scope = 0 := by rw [hs2]
  have hlocks : s2.locks = s.locks := by rw [hs2]
  have hsec : s2.sec = s.sec := by rw [hs2]
  have htab : s2.tab = s.tab := by rw [hs2]
  have hengines : s2.engines = s.engines := by rw [hs2]
  exact ⟨rfl, congrArg (fun n => some (n + 6000000)) hclock, rfl, rfl, hscope, rfl, rfl, hlocks, hsec, htab, hengines⟩

theorem execMeridianWatchdog_resets {s : State} (hrun : s.mer.running = true) : execMeridianWatchdog s =
    .next (meridianReset { s with engines := s.engines.map fun e => (e.1, if e.2.origin == .ring 8 then { e.2 with subReset := true } else e.2) }) :=
  if_pos hrun

/-! The mask ROM's choice (R425). -/

section
variable {s : State}

theorem romChoice_first (h0 : imageOk s 1 s.mer.mer0 = true)
    (h1 : imageOk s 1 s.mer.mer1 = false ∨ cartVersion s.mer.mer1.cart ≤ cartVersion s.mer.mer0.cart) : romChoice s = some 0 := by
  unfold romChoice
  rw [h0]
  cases hother : imageOk s 1 s.mer.mer1 with
  | false => rfl
  | true => exact if_neg (Nat.not_lt.mpr (h1.resolve_left (Bool.eq_false_iff.not.mpr (not_not_intro hother))))

theorem romChoice_second (h1 : imageOk s 1 s.mer.mer1 = true)
    (h0 : imageOk s 1 s.mer.mer0 = false ∨ cartVersion s.mer.mer0.cart < cartVersion s.mer.mer1.cart) : romChoice s = some 1 := by
  unfold romChoice
  rw [h1]
  cases hother : imageOk s 1 s.mer.mer0 with
  | false => rfl
  | true => exact if_pos (h0.resolve_left (Bool.eq_false_iff.not.mpr (not_not_intro hother)))

theorem romChoice_none (h0 : imageOk s 1 s.mer.mer0 = false) (h1 : imageOk s 1 s.mer.mer1 = false) : romChoice s = none := by
  unfold romChoice
  rw [h0, h1]

/-! The steps of the boot (R456-R459, Table 19.5). -/

theorem execMaskRomCheck_chooses (hstop : s.mer.running = false) (hidle : s.mer.restartAt = none) :
    (∀ c, romChoice s = some c → execMaskRomCheck s = .next (startMeridian s c)) ∧ (romChoice s = none → execMaskRomCheck s = .next s) := by
  have hgoes : ¬(s.mer.running = true ∨ s.mer.restartAt.isSome = true) := by
    rw [hstop, hidle]
    decide
  unfold execMaskRomCheck
  rw [if_neg hgoes]
  exact ⟨fun c hc => by rw [hc], fun hnone => by rw [hnone]⟩

theorem execMeridianRestart_chooses {k : Nat} (hdue : s.mer.restartAt = some k) :
    (∀ c, romChoice s = some c → execMeridianRestart s = .next (startMeridian s c)) ∧
    (romChoice s = none → execMeridianRestart s = .next { s with mer := { s.mer with restartAt := none } }) := by
  unfold execMeridianRestart
  rw [hdue]
  exact ⟨fun c hc => by rw [hc], fun hnone => by rw [hnone]⟩

theorem execWarmResetEnd_since {k : Nat} (hwarm : s.boot.warm = some k) : execWarmResetEnd s =
    if k + 6000000 ≤ s.clock then
      .next (if s.mer.running then releaseMasters { s with boot := { s.boot with warm := none, reference := s.clock } }
        else { s with boot := { s.boot with warm := none, reference := s.clock } })
    else .next s := by
  unfold execWarmResetEnd
  rw [hwarm]

/-- 1 ms after PWR_OK the straps are latched, and a running Meridian counts the boot and releases the masters. -/
theorem execStrapLatch_latches {levels : BitVec 24} (hpwr : s.boot.pwrOk = true) (hfirst : s.boot.strapped = false) (hcold : s.boot.warm = none)
    (hdue : s.boot.reference + 1000000 ≤ s.clock) {s1 : State} (hs1 : s1 = { s with boot := { s.boot with straps := levels.toNat } }) :
    execStrapLatch levels s = if !s.mer.running then .next s1 else .next (legendSync s1 (releaseMasters (strapClaims (strapTables
      { s1 with sec := { s1.sec with boot := (s1.sec.boot + 1) % 2 ^ 32 } } true)))) := by
  have hgoes : ¬((!s.boot.pwrOk) = true ∨ s.boot.strapped = true ∨ s.boot.warm.isSome = true ∨ s.clock < s.boot.reference + 1000000) := by
    rw [hpwr, hfirst, hcold]
    rintro (hno | hno | hno | hno)
    · exact Bool.false_ne_true hno
    · exact Bool.false_ne_true hno
    · exact Bool.false_ne_true hno
    · exact Nat.not_lt.mpr hdue hno
  subst hs1
  exact if_neg hgoes

/-- Steward's image is checked once the straps, HBM and Meridian are ready: a valid one starts, an invalid one is erased. -/
theorem execStewardImageVerified_checks (hstrapped : s.boot.strapped = true) (hrun : s.mer.running = true) (hhbm : s.boot.hbm = true)
    (hwaits : s.boot.steward = false) {b : Nat} (hb : b = bootBank s s.boot.banksTried) {s1 s2 : State} (hs1 : s1 = startSteward s b)
    (hs2 : s2 = hbmWrite s (slotAddr 0) (List.replicate (256 + (bankOf s b).bytes.length) 0)) :
    (imageOk s 2 (bankOf s b) = true → execStewardImageVerified s = .next (raiseSvns { s1 with boot := { s1.boot with steward := true } })) ∧
    (imageOk s 2 (bankOf s b) = false → s.boot.banksTried = 0 →
      execStewardImageVerified s = .next { s2 with boot := { s2.boot with banksTried := 1, steward := false } }) ∧
    (imageOk s 2 (bankOf s b) = false → 1 ≤ s.boot.banksTried →
      execStewardImageVerified s = .next (raiseSvns { s2 with boot := { s2.boot with banksTried := s.boot.banksTried + 1, steward := true } })) := by
  have hgoes : ¬((!s.boot.strapped) = true ∨ (!s.boot.hbm) = true ∨ s.boot.steward = true ∨ (!s.mer.running) = true) := by
    rw [hstrapped, hhbm, hwaits, hrun]
    decide
  subst hs2 hs1 hb
  refine ⟨fun hok => (if_neg hgoes).trans (if_pos hok), fun hbad hfirst => ?_, fun hbad hsecond => ?_⟩
  · refine (if_neg hgoes).trans ((if_neg (Bool.eq_false_iff.mp hbad)).trans (congrArg Host.Outcome.next ?_))
    simp [hfirst]
  · refine (if_neg hgoes).trans ((if_neg (Bool.eq_false_iff.mp hbad)).trans (congrArg Host.Outcome.next ?_))
    simp [hsecond]

end

/-- Settles O56: each reset by what it leaves, each step of the boot where it is due. What the resets reach inside the blocks of Table 19.2 (logs 78
and 79), the milestones that the boot's commands ask for (log 77) and that a warm reset ends a live update (log 89) are the model's. -/
theorem resetsAndTheStepsOfBoot : Obligations.ResetsAndTheStepsOfBoot := by
  unfold Obligations.ResetsAndTheStepsOfBoot
  intro r cold synced
  refine ⟨fun s => ⟨?powerOn, ?cold, ?noCold, ?warm, ?noWarm, ?warmEnd, ?warmLasts, ?maskRom, romChoice_first, romChoice_second, romChoice_none, ?restart,
    ?watchdog, ?pwrOk, ?hbm, ?thermtrip, ?hold, ?ready, ?notReady⟩, ?straps, ?steward⟩
  case powerOn => exact congrArg Host.Outcome.next (coldReset_leaves s)
  case cold => exact fun hpwr => (if_pos hpwr).trans (congrArg (fun t => Host.Outcome.next (legendSync s t)) (coldReset_leaves (beforeReset s)))
  case noCold => exact fun hpwr => if_neg (Bool.eq_false_iff.mp hpwr)
  case warm =>
    intro hpwr hidle u
    obtain ⟨l, hl⟩ := legendSync_legend s (warmReset s)
    have hleft := warmReset_leaves (show u = beforeReset s from rfl)
    refine ⟨{ warmReset s with legend := l }, (if_pos ⟨hpwr, congrArg Option.isNone hidle⟩).trans (congrArg Host.Outcome.next hl), ?_⟩
    generalize warmReset s = w at hleft ⊢
    exact hleft
  case noWarm =>
    refine fun hno => if_neg fun h => hno.elim (fun hpwr => Bool.eq_false_iff.mp hpwr h.1) fun hwarm => hwarm ?_
    exact Option.isNone_iff_eq_none.mp h.2
  case warmEnd =>
    intro k hwarm hdue
    have hended := (execWarmResetEnd_since hwarm).trans (if_pos hdue)
    exact ⟨fun hrun => hended.trans (congrArg Host.Outcome.next (if_pos hrun)),
      fun hstop => hended.trans (congrArg Host.Outcome.next (if_neg (Bool.eq_false_iff.mp hstop)))⟩
  case warmLasts => exact fun k hwarm hearly => (execWarmResetEnd_since hwarm).trans (if_neg (Nat.not_le.mpr hearly))
  case maskRom => exact fun hstop hidle => execMaskRomCheck_chooses hstop hidle
  case restart => exact fun k hdue => execMeridianRestart_chooses hdue
  case watchdog => exact fun hrun => ⟨_, execMeridianWatchdog_resets hrun, meridianReset_leaves _⟩
  case pwrOk => exact fun hlow => if_neg (Bool.eq_false_iff.mp hlow)
  case hbm => exact fun hstrapped huntrained => if_pos ⟨hstrapped, by rw [huntrained]; rfl⟩
  case thermtrip => exact fun hpwr => if_pos hpwr
  case hold => exact fun hpwr hdue => if_pos ⟨hpwr, hdue⟩
  case ready => exact fun hdir hset hstw hnot => if_pos ⟨hdir, hset, hstw, by rw [hnot]; rfl⟩
  case notReady =>
    refine fun hno => if_neg fun ⟨hdir, hset, hstw, _⟩ => ?_
    rcases hno with hoff | hoff | hoff
    · exact Bool.eq_false_iff.mp hoff hdir
    · exact Bool.eq_false_iff.mp hoff hset
    · exact Bool.eq_false_iff.mp hoff hstw
  case straps =>
    intro levels s hpwr hfirst hcold hdue s1
    have hlatched := execStrapLatch_latches hpwr hfirst hcold hdue (levels := levels) (s1 := s1) rfl
    exact ⟨fun hstop => hlatched.trans (if_pos (by rw [hstop]; rfl)), fun hrun => hlatched.trans (if_neg (not_fails hrun))⟩
  case steward =>
    intro s hstrapped hrun
    refine ⟨?image, ?settings⟩
    case image =>
      intro hhbm hwaits b s1 s2
      exact execStewardImageVerified_checks hstrapped hrun hhbm hwaits rfl rfl rfl
    case settings =>
      intro hunset s1 s2 s3
      refine if_neg ?_
      rw [hstrapped, hunset, hrun]
      decide

end Sys2Proof.Machine

/-! SUPPORT. Tiles, the end of a port reset, the second and the LED frames (R453, R461-R470, R492). -/
namespace Sys2Proof.Machine

/-! The tile macros past their own checks (R462-R464). -/

section
variable {s : State} {e : EngineId} {op mask : Nat} {f : State → Engine → Nat → Word → State}
  (h : Begins s e op [rowBits [(3, 0)] ||| mask] 0 .glob true) {w0 : Word} (hw : w0 = blockWord (engineOf s e) (wordAt (engineOf s e)) 0)
  {t : Nat} (ht : t = wfld w0 0 4) (htile : t < 12) {x : Engine} (hx : x = regSet (engineOf s e) 1 0)
include h hw ht htile hx

theorem tileMacro_begins : tileMacro s e op mask f = f s x t w0 := by
  subst hx ht hw
  exact (macroThen_begins h _).trans (if_neg (Nat.not_le.mpr htile))

theorem tileMacro_ok {u : State} (hf : f s x t w0 = finish u e x 0) : tileMacro s e op mask f = moveOk u e x := by
  have hfollows : x.pc + 1 < x.ninstr := by
    rw [hx, regSet_pc, regSet_ninstr]
    exact h.1.2
  exact (tileMacro_begins h hw ht htile hx).trans (hf.trans (finish_moveOk _ _ _ hfollows))

theorem tileMacro_bad {st : Nat} (hf : f s x t w0 = finish s e x st) (hst : st ≠ 0) :
    tileMacro s e op mask f = endChart (setEngine s e x) e st x.pc :=
  (tileMacro_begins h hw ht htile hx).trans (hf.trans (finish_bad _ _ _ _ hst))

end

/-- TILE.POWER is the row of its ON bit. -/
theorem tilePower_row {s : State} {e : Nat} {on : Bool} {f : State → Engine → Nat → State}
    (hon : (wfld (blockWord (engineOf s e) (wordAt (engineOf s e)) 0) 8 1 == 1) = on) :
    tilePower s e on f = tileMacro s e 0xD3 (rowBits [(8, 8)]) fun s x t _ => f s x t :=
  if_neg fun hother => hother.2.2 hon

/-! The end of a Frost, of a power-up and of a port reset. -/

theorem execPowerUpComplete_ends {t : TileId} {s s1 : State} (hs1 : s1 = tileResetNow s t) (hst : tileSt s t = 4) : execPowerUpComplete t s = .next
    (resumeOk { s1 with frost := smSet {} s1.frost t { frostOf s1 t with engine := none } } (frostOf s t).engine) := by
  subst hs1
  exact if_pos hst

theorem execPortResetEnd_trains {p : PortId} {s s1 : State} {k : Nat} (hreset : smGet none s.portResets p = some k)
    (hs1 : s1 = { s with portResets := smSet none s.portResets p none }) : execPortResetEnd p s =
      .next (resumeOk (if tileSt s1 (p.val / 8) = 0 then thawPort s1 p else s1) (portResetWaiter s1 p)) := by
  subst hs1
  unfold execPortResetEnd
  rw [hreset]

/-! TS_SYNC and the second (R469). -/

section
variable {s : State} {a : Nat}

theorem lastEdge_counts (hedge : s.tsync.lastEdge = some a) (hfresh : s.clock < a + 3000000000) : lastEdge s = some a := by
  unfold lastEdge
  rw [hedge]
  exact if_pos hfresh

theorem lastEdge_none (h : s.tsync.lastEdge = none ∨ ∃ a, s.tsync.lastEdge = some a ∧ a + 3000000000 ≤ s.clock) : lastEdge s = none := by
  unfold lastEdge
  rcases h with hnone | ⟨a, hedge, hold⟩
  · rw [hnone]
  · rw [hedge]
    exact if_neg (Nat.not_lt.mpr hold)

theorem nextSecond_eq (ts : Nat) : nextSecond ts = (ts + 999999999) / 1000000000 * 1000000000 := by
  rw [nextSecond, second]
  omega

/-- The first valid edge, or one after 3 s without, steps TS to the next second. -/
theorem execTsSyncEdge_first (halone : tabFld s 0x0C 0 8 7 = 127)
    (h : s.tsync.lastEdge = none ∨ ∃ a, s.tsync.lastEdge = some a ∧ a + 3000000000 ≤ s.clock) : execTsSyncEdge s =
      .next { s with ts := (s.ts + 999999999) / 1000000000 * 1000000000, tsync := { s.tsync with lastEdge := some s.clock, slew := 0 } } := by
  unfold execTsSyncEdge
  rw [if_neg (not_not_intro halone), lastEdge_none h, nextSecond_eq]

/-- An edge within 1 ms of its second sets what is slewed out. -/
theorem execTsSyncEdge_later (halone : tabFld s 0x0C 0 8 7 = 127) (hedge : s.tsync.lastEdge = some a) (hlow : a + 999000000 ≤ s.clock)
    (hhigh : s.clock ≤ a + 1001000000) :
    execTsSyncEdge s = .next { s with tsync := { s.tsync with lastEdge := some s.clock, slew := secondOffset s.ts } } := by
  unfold execTsSyncEdge
  rw [if_neg (not_not_intro halone), lastEdge_counts hedge (by omega)]
  exact if_pos ⟨hlow, hhigh⟩

theorem execTsSyncLoss_frees (hedge : s.tsync.lastEdge = some a) (hlost : a + 3000000000 ≤ s.clock) :
    execTsSyncLoss s = .next { s with tsync := { s.tsync with lastEdge := none, slew := 0 } } := by
  unfold execTsSyncLoss
  rw [hedge]
  exact if_pos hlost

theorem execGaugeSample_junction {subj : Fin 96} {reading : BitVec 16} : execGaugeSample 2 subj reading s = .next (feedGauge s 2 0 reading.toNat) :=
  if_pos (show (2 : Fin 6).val = 2 from rfl)

/-- Gauge 5 follows the VOUT of a channel that is ON. -/
theorem execGaugeSample_vout {subj : Fin 96} {reading : BitVec 16} (hch : subj.val < 32) (hon : (slotOf s subj).st = 3) :
    execGaugeSample 5 subj reading s =
      .next (feedGauge (setSlot s subj { slotOf s subj with vout := reading.toNat % 1024 }) 5 subj (reading.toNat % 1024)) :=
  (if_neg (show ¬(5 : Fin 6).val = 2 by decide)).trans (if_pos ⟨rfl, hch, hon⟩)

end

/-- Settles O57: the tile macros by the tile's state, each end and sample where it is due. What TILE_ST, a Frost's bound and the power macros do beside
R462-R464 (logs 80 and 81) and that an LED frame samples activity at its own instants (log 84) are the model's. -/
theorem tilesPortsTimeAndFrames : Obligations.TilesPortsTimeAndFrames := by
  refine ⟨?macros, ?tiles, ?port, ?time⟩
  case macros =>
    intro e s w0 t x
    refine ⟨?frost, ?thaw, ?power, ?reset⟩
    case frost =>
      refine fun h htile => ⟨fun hlive hfree => ?begins, fun hlive htaken => ?conflict, fun hbusy => ?busy⟩
      case begins =>
        exact congrArg Host.Outcome.next ((tileMacro_begins h rfl rfl htile rfl).trans
          ((if_neg (not_not_intro hlive)).trans (if_neg (Bool.eq_false_iff.mp hfree))))
      case conflict =>
        exact congrArg Host.Outcome.next (tileMacro_bad h rfl rfl htile rfl ((if_neg (not_not_intro hlive)).trans (if_pos htaken)) (by decide))
      case busy => exact congrArg Host.Outcome.next (tileMacro_bad h rfl rfl htile rfl (if_pos hbusy) (by decide))
    case thaw =>
      exact fun h htile => ⟨fun hfrozen => congrArg Host.Outcome.next (tileMacro_ok h rfl rfl htile rfl (if_neg (not_not_intro hfrozen))),
        fun hbusy => congrArg Host.Outcome.next (tileMacro_bad h rfl rfl htile rfl (if_pos hbusy) (by decide))⟩
    case power =>
      refine fun h htile => ⟨fun hdown hoff => ?stays, fun hdown hfrozen => ?off, fun hup hfrozen => ?on, fun hup hoff => ?powering⟩
      case stays =>
        refine congrArg Host.Outcome.next ((tilePower_row (by rw [hdown]; rfl)).trans (tileMacro_ok h rfl rfl htile rfl (if_pos hoff)))
      case off =>
        have hother : ¬tileSt s t = 3 := fun hoff => absurd (hfrozen.symm.trans hoff) (by decide)
        exact congrArg Host.Outcome.next ((tilePower_row (by rw [hdown]; rfl)).trans
          (tileMacro_ok h rfl rfl htile rfl ((if_neg hother).trans (if_neg (not_not_intro hfrozen)))))
      case on => exact congrArg Host.Outcome.next ((tilePower_row (by rw [hup]; rfl)).trans (tileMacro_ok h rfl rfl htile rfl (if_pos hfrozen)))
      case powering =>
        have hother : ¬tileSt s t = 2 := fun hfrozen => absurd (hoff.symm.trans hfrozen) (by decide)
        exact congrArg Host.Outcome.next ((tilePower_row (by rw [hup]; rfl)).trans
          ((tileMacro_begins h rfl rfl htile rfl).trans ((if_neg hother).trans (if_neg (not_not_intro hoff)))))
    case reset =>
      exact fun h htile hfrozen => congrArg Host.Outcome.next (tileMacro_ok h rfl rfl htile rfl (if_neg (not_not_intro hfrozen)))
  case tiles =>
    refine fun t s => ⟨fun hfreezing hdrained => if_pos ⟨hfreezing, hdrained⟩, ?waits, fun hfreezing hbound => if_pos ⟨hfreezing, hbound⟩, ?powered⟩
    case waits =>
      refine fun hno => if_neg fun h => hno.elim (fun hother => hother h.1) fun hheld => ?_
      exact Bool.eq_false_iff.mp hheld h.2
    case powered => exact fun hst => execPowerUpComplete_ends rfl hst
  case port => exact fun p s k hreset => execPortResetEnd_trains hreset rfl
  case time =>
    intro s
    refine ⟨fun hchild => if_pos hchild, execTsSyncEdge_first, fun a => execTsSyncEdge_later, fun a => execTsSyncLoss_frees, fun hdue => if_pos hdue,
      fun hearly => if_neg (Nat.not_le.mpr hearly), fun subj reading => execGaugeSample_junction, ?vout, fun hearly => if_pos hearly, ?frame⟩
    case vout => exact fun subj reading hch hon => execGaugeSample_vout hch hon
    case frame => exact fun hdue => ⟨_, if_neg (Nat.not_lt.mpr hdue), rfl, rfl, rfl, rfl, rfl, rfl⟩

end Sys2Proof.Machine
